-- ==== Sys2Proof/Word.lean ====
section
/-! DEFINITION. The word types of the OT-6416 and the sparse maps in which State holds registers and memory. -/

namespace Sys2Proof

/-- One byte of memory. -/
abbrev Byte := BitVec 8
/-- A lane register, a mask, an FCSR (R57, R59, R109). -/
abbrev Word := BitVec 32
/-- A uniform register, a doubleword of memory, an instruction word (R2, R55). -/
abbrev Dword := BitVec 64

/-- Data by number: pairs with strictly rising keys, no pair holding what an unlisted key reads as. -/
abbrev SMap (α : Type) := List (Nat × α)

/-- Physical memory: address and byte, in the canonical form of `SMap`. -/
abbrev Memory := SMap Byte

end Sys2Proof
end

