-- ==== Sys2Proof/Syntax.lean ====
section
/-! DEFINITION. The rows of the opcode table as one inductive. Core and node words carry their decoded fields; the steps
of the device's other agents, and inputs from outside, carry the names of the objects they act on. -/

namespace Sys2Proof

/-! ### Operand fields -/

/-- Operand B of layout K (R57, R87): a V register, an S register, or IMM20. -/
inductive BOp where
  | v (r : BitVec 8)
  | s (r : BitVec 8)
  | imm (i : BitVec 20)
  deriving DecidableEq, Repr

/-- SB = 1 (R57). -/
def BOp.isS : BOp → Bool
  | .s _ => true
  | _ => false

/-- IM = 1 (R57). -/
def BOp.isImm : BOp → Bool
  | .imm _ => true
  | _ => false

/-- Layout K (R57). `x` is 0 when B is an immediate, since X then holds immediate bits. -/
structure KF where
  ty : BitVec 2
  pm : BitVec 3
  pn : Bool
  d : BitVec 8
  a : BitVec 8
  b : BOp
  c : BitVec 8
  x : BitVec 12
  deriving DecidableEq, Repr

/-- Layout J (R60), less HX, which selects the row. -/
structure JF where
  pm : BitVec 3
  pn : Bool
  d : BitVec 8
  imm : BitVec 32
  deriving DecidableEq, Repr

/-- Layout B (R61). -/
structure BF where
  pm : BitVec 3
  pn : Bool
  a : BitVec 8
  cond : BitVec 4
  off : BitVec 32
  deriving DecidableEq, Repr

/-- Layout M (R62). -/
structure MF where
  sa : Bool
  ix : Bool
  pm : BitVec 3
  pn : Bool
  d : BitVec 8
  a : BitVec 8
  b : BitVec 8
  size : BitVec 3
  sx : Bool
  space : BitVec 2
  ord : BitVec 2
  off : BitVec 12
  deriving DecidableEq, Repr

/-- A target of a node word (R64); PORT is true for R. -/
structure Tgt where
  slot : BitVec 7
  port : Bool
  deriving DecidableEq, Repr

/-- Layout NA (R65), with CLS below 3. -/
structure NAF where
  cls : BitVec 2
  op : BitVec 8
  ty : BitVec 2
  im : Bool
  sw : Bool
  t0 : Option Tgt
  t1 : Option Tgt
  mod : BitVec 30
  deriving DecidableEq, Repr

/-- Layout ND (R66). -/
structure NDF where
  t0 : Option Tgt
  t1 : Option Tgt
  w : BitVec 6
  imm : BitVec 24
  deriving DecidableEq, Repr

/-- Layout NM (R67). -/
structure NMF where
  size : BitVec 3
  sx : Bool
  aop : BitVec 4
  t0 : Option Tgt
  seq : BitVec 8
  pred : BitVec 8
  succ : BitVec 8
  site : BitVec 11
  deriving DecidableEq, Repr

/-- Layout NC (R68). -/
structure NCF where
  t0 : Option Tgt
  t1 : Option Tgt
  mc : BitVec 6
  buf : BitVec 8
  arg : BitVec 16
  deriving DecidableEq, Repr

/-! ### Names of the objects that the other steps act on -/

/-- A crew: launch number and crew number (R19). -/
structure CrewId where
  launch : Nat
  crew : Nat
  deriving DecidableEq, Repr

/-- A wave: its crew, the gang's place in the crew and the wave's place in the gang (R19). -/
structure WaveId where
  crew : CrewId
  gang : Nat
  wave : Nat
  deriving DecidableEq, Repr

/-- What firmware and the dispatcher supply when a crew is placed (R186, R200, R294, R364, R374, R412, R419). -/
structure Placement where
  launch : Nat
  cluster : Nat
  prvBase : BitVec 64
  gtBase : BitVec 64
  hoBase : BitVec 64
  ctxBase : BitVec 64
  undoBase : BitVec 64
  bwBase : BitVec 64
  deriving DecidableEq, Repr

/-- A transport connection, with the key index that secures it (R434, R436). -/
structure Conn where
  id : Nat
  key : Nat
  deriving DecidableEq, Repr

/-- The 32-byte header of a command message (R433). -/
structure Header where
  d0 : Dword
  d1 : Dword
  d2 : Dword
  d3 : Dword
  deriving DecidableEq, Repr

/-- An access of ostler or command core firmware: to physical memory (R386), or to the control space (R437). -/
inductive OstlerOp where
  | load (pa size : Nat)
  | store (pa size : Nat) (v : Dword)
  | atomic (pa size : Nat) (aop : BitVec 4) (v : Dword)
  | cas (pa size : Nat) (old new : Dword)
  | ctlLoad (offset size : Nat)
  | ctlStore (offset size : Nat) (v : Dword)
  deriving DecidableEq, Repr

/-- The instructions and steps of spec/opcode_table.json, in its order. -/
inductive Instr where
  -- class 0 (R91)
  | add (f : KF) | sub (f : KF) | addc (f : KF) | subb (f : KF) | mullo (f : KF) | mulhi (f : KF) | mulhn (f : KF)
  | mad (f : KF) | div (f : KF) | divn (f : KF) | rem (f : KF) | remn (f : KF)
  | min (f : KF) | max (f : KF) | minn (f : KF) | maxn (f : KF) | abs (f : KF) | neg (f : KF)
  | and (f : KF) | or (f : KF) | xor (f : KF) | andn (f : KF) | not (f : KF)
  | shl (f : KF) | shr (f : KF) | sar (f : KF) | rol (f : KF) | clz (f : KF) | popc (f : KF) | brev (f : KF)
  | bfx (f : KF) | bfi (f : KF) | lea (f : KF) | sel (f : KF) | cmp (f : KF) | mov (f : KF)
  | movi (f : JF) | moviHi (f : JF) | moviPair (f : JF) | movsv (f : KF)
  | adds (f : KF) | subs (f : KF) | dot4 (f : KF)
  -- class 1 (R113)
  | fadd (f : KF) | fsub (f : KF) | fmul (f : KF) | fma (f : KF) | fmin (f : KF) | fmax (f : KF) | fcmp (f : KF)
  | fdiv (f : KF) | fsqrt (f : KF) | frcp (f : KF) | frsq (f : KF) | fex2 (f : KF) | flg2 (f : KF)
  | fclass (f : KF) | fcvti (f : KF) | icvtf (f : KF) | fcvtw (f : KF) | frnd (f : KF) | fscl (f : KF)
  -- class 2 (R137)
  | fmtw (f : KF) | fmtr (f : KF) | fmtq (f : KF) | cvt (f : KF) | sclq (f : KF) | scld (f : KF) | bscl (f : KF)
  | ndot (f : KF)
  -- class 3 (R155)
  | shfl (f : KF) | shflup (f : KF) | shfldn (f : KF) | shflx (f : KF) | bcast (f : KF) | ballot (f : KF)
  | vote (f : KF) | red (f : KF) | scan (f : KF) | cmpr (f : KF) | expd (f : KF) | iota (f : KF)
  | setvl (f : KF) | getvl (f : KF) | msk (f : KF) | mpop (f : KF) | mff (f : KF) | v2s (f : KF)
  | slide (f : KF) | mset (f : KF)
  -- class 4 (R173)
  | br (f : BF) | brm (f : BF) | brs (f : BF) | rcv (f : BF) | join (f : KF) | call (f : BF)
  | callxV (f : KF) | callxS (f : KF) | jmpxV (f : KF) | jmpxS (f : KF) | ret (f : KF) | exit (f : KF)
  | loop (f : BF) | nop (f : KF) | yield (f : KF) | prefi (f : BF) | ifence (f : KF)
  -- class 5 (R216)
  | ld (f : MF) | ldUniform (f : MF) | st (f : MF) | lda (f : MF) | stl (f : MF) | atom (f : MF) | cas (f : MF)
  | fence (f : MF) | pref (f : MF) | vlds (f : MF) | vsts (f : MF) | ldf (f : MF) | stf (f : MF) | cmaint (f : MF)
  -- class 6 (R248)
  | cpy (f : KF) | cpyt (f : KF) | cpyb (f : KF) | cpyw (f : KF) | bar (f : KF) | bara (f : KF) | barw (f : KF)
  | barx (f : KF) | qpush (f : KF) | qpop (f : KF) | qnotify (f : KF) | qbindTrig (f : KF) | qbindIn (f : KF)
  | qbindOut (f : KF) | qbindUnmap (f : KF) | qstat (f : KF)
  -- class 7 (R272)
  | freq (f : KF) | frel (f : KF) | fcfg (f : KF) | fsend (f : KF) | frecv (f : KF) | fdrain (f : KF)
  | fprio (f : KF) | fstat (f : KF) | fmodeDf (f : KF) | fmodeSys (f : KF)
  -- class 8 (R347)
  | mxw (f : KF) | mxa (f : KF) | mxc (f : KF) | mxz (f : KF) | mxsc (f : KF) | mxwait (f : KF)
  -- class 9 (R380)
  | eqp (f : KF) | remount (f : KF) | remountClr (f : KF) | gaitr (f : KF) | pin (f : KF) | pinOff (f : KF)
  -- class 10 (R193, R425)
  | trap (f : KF) | brk (f : KF) | ctlrd (f : KF) | ctlwr (f : KF) | cyc (f : KF) | cycRow (f : KF)
  | launch (f : KF) | waitev (f : KF) | sigev (f : KF)
  -- node words (R65 to R68)
  | arithNodeFire (n : NAF)
  | steer (n : NDF) | const (n : NDF) | lenter (n : NDF) | lnext (n : NDF) | lexit (n : NDF) | calln (n : NDF)
  | retn (n : NDF) | ixrd (n : NDF) | joinc (n : NDF) | sink (n : NDF) | sendp (n : NDF) | eqpn (n : NDF)
  | fend (n : NDF) | errt (n : NDF) | gate (n : NDF)
  | cld (n : NMF) | cst (n : NMF) | catom (n : NMF) | mnop (n : NMF) | fld (n : NMF) | fst (n : NMF) | cfence (n : NMF)
  | mcld (n : NCF) | mcst (n : NCF) | mcenq (n : NCF) | mcdeq (n : NCF) | agen (n : NCF) | mxj (n : NCF) | mxout (n : NCF)
  -- steps of the fabric (11 to 14)
  | tokenArrive (c : CrewId) (k : Nat)
  | frameEntry (c : CrewId) (k : Nat)
  | frameRefill (c : CrewId) (place cell frame : Nat)
  | nodeChoose (cluster bay cell : Nat)
  | weirArrive (c : CrewId) (k : Nat)
  | weirRelease (c : CrewId) (paddock : Nat)
  | roundCommit (c : CrewId) (k : Nat)
  | paddockQuiescent (c : CrewId) (paddock : Nat)
  | preciseStop (asid : Nat)
  | resultDeliver (c : CrewId) (k : Nat)
  | cellPass (c : CrewId) (place cell : Nat)
  | fabricOpComplete (w : WaveId)
  | paddockLoadComplete (c : CrewId) (place : Nat)
  | paddockSwapOut (c : CrewId) (place : Nat)
  | paddockResume (c : CrewId) (paddock slice bay : Nat)
  | bridleWindowEnd (c : CrewId) (place : Nat)
  | generatorStep (c : CrewId) (place mc gen : Nat)
  | generatorDone (c : CrewId) (place mc gen : Nat)
  | weightEventApply (c : CrewId) (k : Nat)
  | columnHeadRead (c : CrewId) (k : Nat)
  | passComplete (c : CrewId) (k : Nat)
  -- steps of the cluster and of memory (09, 10)
  | copyUnitLand (cluster k unit : Nat)
  | copyPark (cluster k : Nat)
  | triggerConsume (cluster queue : Nat)
  | memoryAccessResponse (cluster k : Nat)
  | pageWalk (cluster asid vpn : Nat) (store : Bool)
  | instructionFetch (cluster asid line : Nat)
  | remoteTimeout (w : WaveId)
  | invalidationBroadcast (asid : Nat) (va : BitVec 64)
  -- the dispatcher (08)
  | launchPrereqRead (launch : Nat)
  | crewPlacement (p : Placement)
  | argumentBlockRead (launch : Nat)
  | agingPeriod (launch : Nat)
  | crewRetire (c : CrewId)
  -- firmware, pre-emption, debug, power (17, 18)
  | resume (asid : Nat) (seq : BitVec 32)
  | stop (asid : Nat) (seq : BitVec 32)
  | preemptRequest (asid : Nat) (value : Dword)
  | sliceTimerExpiry (c : CrewId)
  | crewSave (c : CrewId)
  | crewRestore (c : CrewId)
  | halt (asid : Nat)
  | resumeGangs (asid : Nat)
  | gangResume (c : CrewId) (gang : Nat) (form : Option (BitVec 2))
  | gateRequest (cluster : Nat)
  | gateCommit (cluster : Nat)
  | gateWake (cluster : Nat)
  | powerWindow (milliwatts : Nat)
  | curbEngage (alarms : BitVec 3)
  | curbLift
  | update (ostler : Nat) (verified : Bool)
  | retireCluster (cluster : Nat)
  | retireChannel (channel : Nat) (room : Bool)
  | retrain (port : Nat)
  | recal (target : Nat)
  | serviceComplete
  | keyInstall (index : BitVec 12)
  -- the host (18)
  | hostLaunch (conn : Conn) (h : Header) (payload : List Dword)
  | subscribe (conn : Conn) (h : Header) (payload : List Dword)
  | hostStop (conn : Conn) (h : Header) (payload : List Dword)
  | release (conn : Conn) (h : Header) (payload : List Dword)
  | atomic (conn : Conn) (h : Header) (payload : List Dword)
  | event (k : Nat)
  | rmaWrite (conn : Conn) (addr : BitVec 64) (data : List Byte)
  | rmaRead (conn : Conn) (addr : BitVec 64) (n : Nat)
  | powerOnBoot (failing : Option (BitVec 8))
  | registerWrite (offset : Nat) (value : Dword)
  | packetDrop (port : Nat)
  | unknownCommand (conn : Conn) (h : Header)
  | connectionClose (conn : Conn)
  | ostlerAccess (op : OstlerOp)
  | curbAlarmClear (alarms : BitVec 3)
  | clusterWake (cluster : Nat)
  deriving DecidableEq, Repr

end Sys2Proof
end

