-- ==== Sys2Proof/Machine/Forms.lean ====
section
/-! DEFINITION. The operand form of every core word and node word: which register file each field names, which kinds of
operand B, which modifier bits, and the word-local conditions of the class tables (R57 to R68, R76, R91, R113, R137,
R155, R173, R193, R216, R248, R272, R300, R326, R328, R347, R354, R380, R425). -/

namespace Sys2Proof.Machine

/-! ### Register fields -/

/-- What a register field names (R58). `vf` is a V register whose width is that of the format entry it carries (R131). -/
inductive Slot where
  | z
  | s
  | m
  | v1
  | v2
  | v4
  | vf (entry : BitVec 6)
  | n
  deriving DecidableEq, Repr

/-- R58, the part of its limits that needs no wave: S below 64, M below 8, pairs even, quads multiples of 4 (R216). -/
def Slot.ok (k : Slot) (r : BitVec 8) : Bool :=
  match k with
  | .z => r == 0
  | .s => r.ult 64
  | .m => r.ult 8
  | .v1 => true
  | .v2 => !r.getLsbD 0
  | .v4 => !r.getLsbD 0 && !r.getLsbD 1
  | .vf _ => true
  | .n => true

/-- A V register, or the pair at TY 01 (R86). -/
def vt (ty : BitVec 2) : Slot := if ty == 1 then .v2 else .v1

/-- The operand B kinds a row allows: what a V-coded B names (`none`: not allowed), S, immediate. -/
structure BForm where
  v : Option Slot
  s : Bool
  i : Bool
  deriving DecidableEq, Repr

def bNone : BForm := ⟨some .z, false, false⟩
def bS : BForm := ⟨none, true, false⟩
def bSI : BForm := ⟨none, true, true⟩
def bVSI (k : Slot) : BForm := ⟨some k, true, true⟩
def bVS (k : Slot) : BForm := ⟨some k, true, false⟩

/-- The use of field C: modifier bits under a mask, or a register. -/
inductive CForm where
  | bits (mask : BitVec 8)
  | reg (k : Slot)
  deriving DecidableEq, Repr

/-- The form of a layout K word. `ty` has bit t set when TY t is allowed; `x` masks the modifier bits of X; `dr` and `dw`
say whether D is read and written; `extra` holds the conditions that are of one operation alone. -/
structure KForm where
  ty : BitVec 4 := 1
  d : Slot := .z
  dr : Bool := false
  dw : Bool := true
  a : Slot := .z
  b : BForm := bNone
  c : CForm := .bits 0
  x : BitVec 12 := 0
  pred : Bool := false
  extra : Bool := true
  deriving DecidableEq, Repr

/-- R88, R114: with C[7] = 1 the word is uniform: D and A name S registers and B an S register or an immediate. -/
def KForm.uniform (k : KForm) (f : KF) : KForm :=
  if f.c.getLsbD 7 then
    { k with
      ty := k.ty &&& 3
      d := .s
      a := if k.a == .z then .z else .s
      b := if k.b.s then bSI else k.b
      c := match k.c with | .bits m => .bits (m ||| 0x80) | c => c
      pred := false }
  else k

def BForm.ok (k : BForm) (b : BOp) : Bool :=
  match b with
  | .v r => match k.v with | some t => t.ok r | none => false
  | .s r => k.s && Slot.ok .s r
  | .imm _ => k.i

def CForm.ok (k : CForm) (c : BitVec 8) : Bool :=
  match k with
  | .bits m => c &&& ~~~m == 0
  | .reg t => t.ok c

/-- R76: the word-local conditions of a layout K word. -/
def KForm.ok (k : KForm) (f : KF) : Bool :=
  k.ty.getLsbD f.ty.toNat && k.d.ok f.d && k.a.ok f.a && k.b.ok f.b && k.c.ok f.c
    && (f.x &&& ~~~k.x == 0) && (match f.b with | .imm _ => f.x == 0 | _ => true)
    && (k.pred || (f.pm == 0 && !f.pn)) && k.extra

/-- Bits hi to lo of a pattern as a number. -/
def fld {n : Nat} (x : BitVec n) (hi lo : Nat) : Nat := (x.extractLsb hi lo).toNat

/-! ### The rows of layout K -/

/-- R91: D, A, b of one type. -/
def kInt (tys : BitVec 4) (f : KF) (mods : BitVec 8) (xtra : Bool) : KForm :=
  { ty := tys, d := vt f.ty, a := vt f.ty, b := bVSI (vt f.ty), c := .bits mods, pred := true, extra := xtra }

/-- R91: a unary operation. -/
def kUn (tys : BitVec 4) (f : KF) : KForm :=
  { ty := tys, d := vt f.ty, a := vt f.ty, pred := true }

/-- R113: D, A, b with modifier bits in X; RM of 6 and 7 is illegal (R112). -/
def kFlt (f : KF) (mods : BitVec 12) : KForm :=
  { ty := 3, d := vt f.ty, a := vt f.ty, b := bVSI (vt f.ty), x := mods, pred := true, extra := fld f.x 6 4 < 6 }

def kFltUn (f : KF) (mods : BitVec 12) : KForm := { kFlt f mods with b := bNone }

/-- R155: D and A of one type, with GRP. -/
def kLane (f : KF) (b : BForm) : KForm :=
  { ty := 3, d := vt f.ty, a := vt f.ty, b := b, x := 0x800, pred := true }

/-- R154, R163: RED and SCAN. -/
def kRed (f : KF) (xm : BitVec 12) : KForm :=
  { ty := 3, d := vt f.ty, a := vt f.ty, x := xm, pred := true,
    extra := fld f.x 3 0 < 11 && fld f.x 6 4 < 6 && (fld f.x 6 4 == 0 || fld f.x 3 0 == 8) }

/-- R137: CVT, SCLQ and SCLD. -/
def kCvt (f : KF) (b : BForm) : KForm :=
  { d := .vf (f.c.extractLsb 5 0), a := .vf (f.x.extractLsb 5 0), b := b, c := .bits 0xFF, x := 0x7FF, pred := true,
    extra := fld f.x 8 6 < 6 }

/-- FMIN, FMAX and FCMP take operand modifiers and no rounding (R113). -/
def kFcmp (f : KF) : KForm := { kFlt f 0x00F with d := .m, c := .bits 7 }

/-- The pair or register of integer type `it` (R113). -/
def itSlot (f : KF) : Slot := if f.c.getLsbD 1 then .v2 else .v1

/-- The row of a layout K word: its fields and its form. A field that the word's own table lists under a bit of another
(k of CPY and CPYT under BO, Mi of ADDC and SUBB under the carry-in bit) may hold anything while that bit is 0; r of CYC,
which R425 lists for CYC.ROW alone, must be 0 elsewhere (log entry 106). -/
def kform : Instr → Option (KF × KForm)
  | .add f | .sub f | .mullo f | .mulhi f | .mulhn f | .min f | .max f | .minn f | .maxn f
  | .shl f | .shr f | .sar f | .rol f => some (f, (kInt 15 f 0 true).uniform f)
  | .addc f | .subb f => some (f, kInt 3 f 0x7F true)
  | .mad f => some (f, { kInt 15 f 0 (!f.c.getLsbD 7) with c := .reg (vt f.ty) })
  | .div f | .divn f | .rem f | .remn f | .and f | .or f | .xor f | .andn f =>
    some (f, (kInt 3 f 0 true).uniform f)
  | .bfi f => some (f, { (kInt 3 f 0 true).uniform f with dr := true })
  | .abs f | .neg f | .clz f | .popc f | .brev f => some (f, (kUn 15 f).uniform f)
  | .not f => some (f, (kUn 3 f).uniform f)
  | .bfx f => some (f, (kInt 3 f 1 true).uniform f)
  | .lea f => some (f, { kInt 3 f 7 (fld f.c 2 0 < 5) with d := .v2, a := .v2 }.uniform f)
  | .sel f => some (f, kInt 3 f 7 true)
  | .cmp f => some (f, { kInt 3 f 0xF (fld f.c 3 0 < 10) with d := .m }.uniform f)
  | .mov f => some (f, { kInt 3 f 0 true with a := .z }.uniform f)
  | .movsv f =>
    some (f, { ({ ty := 3, d := vt f.ty, pred := true } : KForm).uniform f with
      b := ⟨some .n, false, false⟩
      extra := match f.b with
        | .v n => n.ult 10 && !(f.c.getLsbD 7 && (n == 0 || n == 4))
        | _ => false })
  | .adds f | .subs f => some (f, (kInt 15 f 1 true).uniform f)
  | .dot4 f => some (f, {
      d := .v1, a := .v1, b := bVS .v1, c := .reg .v1, x := 3, pred := true,
      extra := !f.c.getLsbD 7 })
  | .fadd f | .fsub f | .fmul f | .fdiv f => some (f, (kFlt f 0x07F).uniform f)
  | .fma f => some (f, { kFlt f 0x0FF with
      c := .reg (vt f.ty), extra := fld f.x 6 4 < 6 && !f.c.getLsbD 7 })
  | .fmin f | .fmax f => some (f, (kFlt f 0x00F).uniform f)
  | .fcmp f => some (f, (kFcmp f).uniform f)
  | .fsqrt f => some (f, (kFltUn f 0x075).uniform f)
  | .frcp f | .frsq f | .fex2 f | .flg2 f => some (f, (kFltUn f 0x005).uniform f)
  | .fclass f => some (f, { kFltUn f 0 with d := .v1 }.uniform f)
  | .fcvti f => some (f, { kFltUn f 0x075 with d := itSlot f, c := .bits 3 }.uniform f)
  | .icvtf f => some (f, { kFltUn f 0x070 with a := itSlot f, c := .bits 3 }.uniform f)
  | .fcvtw f => some (f, { kFltUn f 0x075 with a := (if f.ty == 1 then .v1 else .v2) }.uniform f)
  | .frnd f => some (f, { kFltUn f 0x075 with c := .bits 1 }.uniform f)
  | .fscl f => some (f, { kFlt f 0x075 with b := bVSI .v1 }.uniform f)
  | .fmtw f => some (f, { a := .s, c := .bits 0x3F, extra := 8 ≤ fld f.c 5 0 })
  | .fmtr f => some (f, { d := .s, c := .bits 0x3F })
  | .fmtq f => some (f, { d := .s, c := .bits 0x3F, x := 7, extra := fld f.x 2 0 < 6 })
  | .cvt f => some (f, kCvt f bNone)
  | .sclq f | .scld f => some (f, kCvt f (bVS .v1))
  | .bscl f => some (f, { d := .v1, a := .vf (f.x.extractLsb 5 0), c := .bits 0x3F, x := 0x63F, pred := true })
  | .ndot f => some (f, {
      d := .v1, a := .v1, b := bVS .v1, c := .reg .v1, x := 0x1FF, pred := true,
      extra := fld f.x 8 6 < 6 })
  | .shfl f | .shflup f | .shfldn f | .shflx f => some (f, kLane f (bVSI (vt f.ty)))
  | .bcast f => some (f, kLane f bSI)
  | .ballot f => some (f, { d := .s, a := .m, c := .bits 3, pred := true })
  | .vote f => some (f, { d := .m, a := .m, c := .bits 3, x := 0x800, pred := true, extra := fld f.c 1 0 < 3 })
  | .red f => some (f, kRed f 0x87F)
  | .scan f => some (f, kRed f 0x97F)
  | .cmpr f => some (f, { kLane f bNone with c := .bits 7 })
  | .expd f => some (f, kLane f bNone)
  | .iota f => some (f, { kLane f (bVSI (vt f.ty)) with a := .z })
  | .setvl f => some (f, { d := .s, b := bSI })
  | .getvl f => some (f, { d := .s })
  | .msk f => some (f, {
      d := .m, a := .m, b := ⟨some .m, false, false⟩, c := .bits 7, pred := true,
      extra := fld f.c 2 0 < 5 || (fld f.c 2 0 < 7 && f.b == .v 0) })
  | .mpop f | .mff f => some (f, { d := .s, a := .m, pred := true })
  | .v2s f => some (f, { ty := 3, d := .s, a := vt f.ty, b := bSI })
  | .slide f => some (f, { kLane f bSI with c := .reg (vt f.ty) })
  | .mset f => some (f, { d := .m, b := bSI, c := .bits 3, pred := true })
  | .callxV f | .jmpxV f => some (f, { a := .v1, pred := true })
  | .callxS f | .jmpxS f => some (f, { b := bS })
  | .exit f => some (f, { pred := true })
  | .join f | .ret f | .nop f | .yield f | .ifence f => some (f, {})
  | .cpy f => some (f, { d := .s, dr := true, dw := false, a := .s, b := bSI, x := 0xFFF })
  | .cpyt f => some (f, { d := .s, dr := true, dw := false, a := .s, b := bS, c := .reg .s, x := 0xFFF })
  | .cpyb f => some (f, { d := .s })
  | .cpyw f => some (f, { b := bSI })
  | .bar f => some (f, {})
  | .bara f => some (f, { d := .s, a := .s })
  | .barw f => some (f, { a := .s, b := bSI })
  | .barx f => some (f, { d := .s, a := .s, b := bSI })
  | .qpush f => some (f, { a := .v1, c := .bits 0x3F, pred := true })
  | .qpop f => some (f, { d := .v1, c := .bits 0x3F, x := 7, pred := true })
  | .qnotify f => some (f, { c := .bits 0x3F })
  | .qbindTrig f => some (f, { a := .s, b := bSI, c := .bits 0x3F })
  | .qbindIn f => some (f, { a := .v1, c := .bits 0x7F, pred := true, extra := f.c.getLsbD 6 })
  | .qbindOut f => some (f, { a := .v1, c := .bits 0xBF, pred := true, extra := f.c.getLsbD 7 })
  | .qbindUnmap f => some (f, { a := .v1, c := .bits 0xC0, pred := true, extra := f.c == 0xC0 })
  | .qstat f => some (f, { d := .s, c := .bits 0x3F })
  | .freq f => some (f, { d := .s, b := bSI, c := .bits 1 })
  | .frel f => some (f, { d := .s, a := .s })
  | .fcfg f => some (f, { d := .s, a := .s, b := bSI, c := .reg .s })
  | .fsend f => some (f, { ty := 3, a := vt f.ty, b := bSI, c := .bits 7, pred := true })
  | .frecv f => some (f, { ty := 3, d := vt f.ty, b := bSI, c := .bits 7, pred := true })
  | .fdrain f | .fstat f => some (f, { d := .s, b := bSI })
  | .fprio f => some (f, { b := bSI })
  | .fmodeDf f => some (f, { d := .s, b := bSI })
  | .fmodeSys f => some (f, { d := .s, b := bSI, c := .bits 1, extra := f.c == 1 })
  | .mxw f | .mxa f => some (f, { a := .s, b := bSI, c := .bits 0x3F })
  | .mxc f => some (f, { d := .s, a := .s })
  | .mxz f => some (f, { b := bSI })
  | .mxsc f => some (f, { a := .s, b := bSI })
  | .mxwait f => some (f, {})
  | .eqp f => some (f, { x := 0xFFF })
  | .remount f => some (f, { c := .bits 3, extra := fld f.c 1 0 < 3 })
  | .remountClr f => some (f, { c := .bits 3, extra := f.c == 3 })
  | .gaitr f =>
    let tab := fld f.c 3 0 == 7
    some (f, {
      d := .s, b := if tab then bSI else bNone, c := .bits (if tab then 0x37 else 0x07),
      extra := fld f.c 5 4 < 3 })
  | .pin f => some (f, { c := .bits 1, extra := f.c == 1 })
  | .pinOff f => some (f, {})
  | .trap f => some (f, { b := bSI, c := .bits 1 })
  | .brk f => some (f, { b := bSI })
  | .ctlrd f => some (f, { d := .s, c := .bits 7, extra := fld f.c 2 0 < 7 })
  | .ctlwr f => some (f, { b := bSI, c := .bits 0x37, extra := fld f.c 5 4 < 3 && fld f.c 2 0 < 3 })
  | .cyc f => some (f, { d := .s })
  | .cycRow f => some (f, { d := .s, b := bSI, c := .bits 7, extra := f.c.getLsbD 2 })
  | .launch f => some (f, { d := .s, a := .s, b := bSI })
  | .waitev f | .sigev f => some (f, { d := .s, a := .s, b := bSI, x := 1 })
  | _ => none

/-! ### Layouts J, B and M -/

/-- R60, R102: the row of MOVI that HX selects, and its destination. -/
def jform : Instr → Option (JF × Slot)
  | .movi f => some (f, .v1)
  | .moviHi f => some (f, .v2)
  | .moviPair f => some (f, .v2)
  | _ => none

/-- The form of a layout B word (R173): what A names, whether a condition must (`some true`), may not (`some false`) or
may be given, and whether a predicate is allowed. -/
structure BrForm where
  a : Slot := .z
  cond : Option Bool := some false
  pred : Bool := false
  extra : Bool := true
  deriving DecidableEq, Repr

def bform : Instr → Option (BF × BrForm)
  | .br f => some (f, { a := if f.cond == 0 then .z else .s, cond := none })
  | .brm f => some (f, { pred := true })
  | .brs f => some (f, { a := .v1, cond := some true, pred := true })
  | .rcv f | .call f | .prefi f => some (f, {})
  | .loop f => some (f, { a := .s, cond := some true, extra := f.a != 0 })
  | _ => none

def BrForm.ok (k : BrForm) (f : BF) : Bool :=
  k.a.ok f.a && f.cond.ult 7
    && (match k.cond with | some true => f.cond != 0 | some false => f.cond == 0 | none => true)
    && (k.pred || (f.pm == 0 && !f.pn)) && k.extra

/-- The use of B in layout M when IX = 0 (R216). -/
inductive MB where
  | us
  | z
  | v
  | s
  | fmt
  deriving DecidableEq, Repr

/-- The form of a layout M word (R216). `sizes` and `ords` are sets of values; `sxMax` bounds the SIZE that takes SX. -/
structure MForm where
  data : Slot
  dr : Bool
  dw : Bool
  sizes : BitVec 8
  sxMax : Option Nat
  ords : BitVec 4
  ix : Bool
  b : MB
  extra : Bool := true
  deriving DecidableEq, Repr

/-- V register, pair or quad by SIZE (R216). -/
def vsize (size : BitVec 3) : Slot := if size == 4 then .v4 else if size == 3 then .v2 else .v1

def mform : Instr → Option (MF × MForm)
  | .ld f => some (f, ⟨vsize f.size, false, true, 0x1F, some 1, 7, true, .z, true⟩)
  | .ldUniform f => some (f, ⟨.s, false, true, 0x0F, some 2, 7, false, .us, f.sa && f.pm == 0 && !f.pn⟩)
  | .st f => some (f, ⟨vsize f.size, true, false, 0x1F, none, 1, true, .z, true⟩)
  | .lda f =>
    let us := !f.ix && f.b.getLsbD 0
    some (f, if us then ⟨.s, false, true, 0x0F, some 2, 7, false, .us, f.sa && f.pm == 0 && !f.pn⟩
             else ⟨vsize f.size, false, true, 0x0F, some 1, 7, true, .z, true⟩)
  | .stl f => some (f, ⟨vsize f.size, true, false, 0x0F, none, 7, true, .z, true⟩)
  | .atom f => some (f, ⟨vsize f.size, false, true, 0x0C, none, 7, false, .v, fld f.off 11 8 < 14⟩)
  | .cas f => some (f, ⟨vsize f.size, true, true, 0x0C, none, 7, false, .v, true⟩)
  | .fence f => some (f, ⟨.z, false, false, 1, none, 7, false, .z,
      !f.sa && f.a == 0 && f.space == 0 && f.pm == 0 && !f.pn && fld f.off 11 2 == 0⟩)
  | .pref f => some (f, ⟨.z, false, false, 0x1F, none, 3, true, .z, true⟩)
  | .vlds f => some (f, ⟨vsize f.size, false, true, 0x0F, some 1, 1, false, .s, f.sa⟩)
  | .vsts f => some (f, ⟨vsize f.size, true, false, 0x0F, none, 1, false, .s, f.sa⟩)
  | .ldf f => some (f, ⟨if f.ord == 1 then .v2 else .v1, false, true, 0x0F, none, 3, false, .fmt, true⟩)
  | .stf f => some (f, ⟨if f.ord == 1 then .v2 else .v1, true, false, 0x0F, none, 3, false, .fmt, true⟩)
  | .cmaint f => some (f, ⟨.z, false, false, 0x1F, none, 7, true, .z, true⟩)
  | _ => none

/-- What field B of a layout M word names. -/
def MForm.bSlot (k : MForm) (f : MF) : Slot :=
  if f.ix then .v1 else
  match k.b with
  | .us => .n
  | .z => .z
  | .v => vsize f.size
  | .s => .s
  | .fmt => .n

/-- The base register (R62): S[A], or the pair V[A].D; FENCE has none. -/
def mBase (i : Instr) (f : MF) : Slot :=
  match i with
  | .fence _ => .z
  | _ => if f.sa then .s else .v2

def MForm.ok (k : MForm) (i : Instr) (f : MF) : Bool :=
  k.data.ok f.d && k.sizes.getLsbD f.size.toNat && k.ords.getLsbD f.ord.toNat
    && (!f.sx || (match k.sxMax with | some m => f.size.toNat ≤ m | none => false))
    && (k.ix || !f.ix) && (k.bSlot f).ok f.b && (mBase i f).ok f.a
    && (match k.b with
        | .us => f.b == 1
        | .fmt => f.b.ult 64
        | _ => true)
    && k.extra

/-! ### Node words: the word-local refusals, with the reason codes of R80 -/

/-- A target in its 9 bits (R64). -/
def tgtBits (t : Option Tgt) : BitVec 9 :=
  match t with
  | none => 0
  | some t => 1#1 ++ t.slot ++ BitVec.ofBool t.port

/-- The class 0 operations marked N, with the TY they take (R91), and whether they are unary. -/
def intNode (op : BitVec 8) : Option (BitVec 4 × Bool) :=
  match op.toNat with
  | 0x00 | 0x01 | 0x04 | 0x05 | 0x06 | 0x0C | 0x0D | 0x0E | 0x0F | 0x17 | 0x18 | 0x19 | 0x1A | 0x26 | 0x27 =>
    some (15, false)
  | 0x08 | 0x09 | 0x0A | 0x0B | 0x12 | 0x13 | 0x14 | 0x15 | 0x1E | 0x20 | 0x22 => some (3, false)
  | 0x10 | 0x11 | 0x1B | 0x1C | 0x1D => some (15, true)
  | 0x16 | 0x23 => some (3, true)
  | _ => none

/-- R106. -/
def codeInt (n : NAF) : Option Nat :=
  match intNode n.op with
  | none => some 2
  | some (tys, un) =>
    let md := fld n.mod 26 20
    let uses := n.op == 0x1E || n.op == 0x20 || n.op == 0x22 || n.op == 0x26 || n.op == 0x27
    if fld n.mod 29 27 != 0 || (!n.im && fld n.mod 19 0 != 0) || (!uses && md != 0) then some 3
    else if !tys.getLsbD n.ty.toNat then some 5
    else if un && (n.im || n.sw) then some 8
    else if (n.op == 0x22 && 10 ≤ md) || (n.op == 0x20 && 5 ≤ md) || (uses && n.op != 0x22 && n.op != 0x20 && 2 ≤ md)
    then some 8 else none

/-- The operand modifiers (AB, AA, NB, NA), the use of RM, the largest C and unariness of a class 1 node (R113, R116). -/
def fltNode (op : BitVec 8) : Option (BitVec 4 × Bool × Nat × Bool) :=
  match op.toNat with
  | 0x00 | 0x01 | 0x02 | 0x07 => some (0xF, true, 0, false)
  | 0x04 | 0x05 => some (0xF, false, 0, false)
  | 0x06 => some (0xF, false, 7, false)
  | 0x08 => some (5, true, 0, true)
  | 0x09 | 0x0A | 0x0B | 0x0C => some (5, false, 0, true)
  | 0x0D => some (0, false, 0, true)
  | 0x0E => some (5, true, 3, true)
  | 0x0F => some (0, true, 3, true)
  | 0x10 => some (5, true, 0, true)
  | 0x11 => some (5, true, 1, true)
  | 0x12 => some (5, true, 0, false)
  | _ => none

/-- R123. -/
def codeFlt (n : NAF) : Option Nat :=
  match fltNode n.op with
  | none => some 2
  | some (mods, rm, cmax, un) =>
    if !n.im && fld n.mod 19 0 != 0 then some 3
    else if !(n.ty == 0 || n.ty == 1) then some 5
    else if 6 ≤ fld n.mod 26 24 || (!rm && fld n.mod 26 24 != 0) || cmax < fld n.mod 29 27
      || n.mod.extractLsb' 20 4 &&& ~~~mods != 0 || (un && (n.im || n.sw)) then some 8 else none

/-- R147. -/
def codeFmt (n : NAF) : Option Nat :=
  if !(n.op == 2 || n.op == 3 || n.op == 4) then some 2
  else if fld n.mod 10 0 != 0 then some 3
  else if n.ty != 0 then some 5
  else if n.im || 6 ≤ fld n.mod 17 15 || (n.op == 2 && n.sw) then some 8 else none

def nafCode (n : NAF) : Option Nat :=
  if n.cls == 0 then codeInt n else if n.cls == 1 then codeFlt n else if n.cls == 2 then codeFmt n else some 1

/-- Whether the node fires on its left token alone (R89, R116, R138). -/
def nafUnary (n : NAF) : Bool :=
  n.im || (if n.cls == 0 then (match intNode n.op with | some (_, u) => u | none => false)
    else if n.cls == 1 then (match fltNode n.op with | some (_, _, _, u) => u | none => false)
    else n.op == 2)

/-- R300, R301: code 3 for a bit outside the row, code 8 for a field out of its bound. -/
def codeNd (n : NDF) (imm : BitVec 24) (w : Bool) (bad : Bool) (noT : Bool) : Option Nat :=
  if n.imm &&& ~~~imm != 0 || (!w && n.w != 0) || (noT && (n.t0.isSome || n.t1.isSome)) then some 3
  else if bad then some 8 else none

def wBad (n : NDF) (lo : Nat) : Bool := n.w.toNat < lo || 56 < n.w.toNat

def ndfCode (i : Instr) : Option Nat :=
  match i with
  | .steer n | .sink n | .errt n | .gate n => codeNd n 0 false false false
  | .const n => codeNd n 0xFFFFFF true (3 ≤ n.w.toNat) false
  | .lenter n => codeNd n 0x0FFFFF true
      (wBad n 1 || fld n.imm 7 0 == 0 || 2 ^ (n.w.toNat - 1) < fld n.imm 7 0) false
  | .lnext n => codeNd n 0x08FF00 true (wBad n 1) false
  | .lexit n => codeNd n 0x08FF00 true (wBad n 1) false
  | .calln n => codeNd n 0xFFFF7F true (wBad n 1 || 2 ^ n.w.toNat ≤ fld n.imm 23 19) false
  | .retn n => codeNd n 0x00FF00 true (wBad n 1) true
  | .ixrd n => codeNd n 0x00007F true
      (wBad n 0 || 56 < fld n.imm 5 0 + n.w.toNat || (n.imm.getLsbD 6 && (n.w != 0 || fld n.imm 5 0 != 0))) false
  | .joinc n => codeNd n 0xFFFFFF false (n.imm == 0) false
  | .sendp n => codeNd n 7 false false false
  | .eqpn n => codeNd n 0xFFF false false false
  | .fend n => codeNd n 0 false false true
  | _ => none

/-- R326, R332: `rd` a load that may take SX, `chained` SEQ, PRED and SUCC required, `aop` CATOM. -/
def codeNm (n : NMF) (sizes : BitVec 8) (rd chained aop : Bool) : Option Nat :=
  if (n.sx && !(rd && n.size.toNat ≤ 2)) || (!aop && n.aop != 0)
    || (!chained && (n.seq != 0 || n.pred != 0 || n.succ != 0)) then some 3
  else if 5 ≤ n.size.toNat || n.size == 4 || (chained && 0xFE ≤ n.seq.toNat) || (aop && 14 ≤ n.aop.toNat)
    || (aop && !sizes.getLsbD n.size.toNat) then some 6
  else if !sizes.getLsbD n.size.toNat then some 8 else none

def nmfCode (i : Instr) : Option Nat :=
  match i with
  | .cld n => codeNm n 0x0F true true false
  | .cst n => codeNm n 0x0F false true false
  | .catom n => codeNm n 0x0C false true true
  | .mnop n => codeNm n 1 false true false
  | .fld n => codeNm n 0x0F true false false
  | .fst n => codeNm n 0x0F false false false
  | .cfence n => if n.size != 0 && n.size.toNat < 4 then some 3 else codeNm n 1 false false false
  | _ => none

/-- R328, R354, R332, R357: what no bay's configuration can allow is out of bound here too (code 9 of R80). -/
def codeNc (n : NCF) (arg : BitVec 16) (bad : Bool) (bufMax : Nat) : Option Nat :=
  if n.arg &&& ~~~arg != 0 then some 3
  else if bad then some 8
  else if 8 ≤ n.mc.toNat || bufMax ≤ n.buf.toNat then some 9 else none

def ncfCode (i : Instr) : Option Nat :=
  match i with
  | .mcld n => codeNc n 0x2F false (if n.arg.getLsbD 5 then 4 else 16)
  | .mcst n => codeNc n 0x33 false (if n.arg.getLsbD 5 then 4 else 16)
  | .mcenq n => codeNc n 0x23 false (if n.arg.getLsbD 5 then 4 else 16)
  | .mcdeq n => codeNc n 0x27 false (if n.arg.getLsbD 5 then 4 else 16)
  | .agen n => codeNc n 0 false 4
  | .mxj n => codeNc n 0x3F false 16
  | .mxout n => codeNc n 0x1FFF (6 ≤ fld n.arg 8 6) 16
  | _ => none

/-- The word-local reason code of a node word (R80). -/
def nodeCode (i : Instr) : Option Nat :=
  match i with
  | .arithNodeFire n => nafCode n
  | i => match ndfCode i with
    | some c => some c
    | none => match nmfCode i with
      | some c => some c
      | none => ncfCode i

/-! ### What an instruction needs of the form and of the wave -/

/-- R76, R165, R173: an operation restricted to one form, issued in the other. -/
def formOk (i : Instr) (vector : Bool) : Bool :=
  match i with
  | .brm _ | .brs _ | .rcv _ | .join _ | .callxV _ | .jmpxV _ => !vector
  | .setvl _ | .getvl _ => vector
  | .ballot f | .mset f => vector || f.c == 0
  | .exit f => !vector || (f.pm == 0 && !f.pn)
  | _ => true

end Sys2Proof.Machine
end

