-- ==== Sys2Proof/WellFormed.lean ====
section
/-! DEFINITION. Which instructions are well-formed: the word-local conditions of the class tables of core words (R76,
R105, R122, R146, R165, R197, R227, R254, R284, R358, R385, R430) and of node words (R80, R106, R123, R147, R301, R332,
R357). What depends on the wave, on its form or on the image is tested when the word issues, or by the paddock loader. -/

namespace Sys2Proof

/-- A core word with its fields within its row. -/
def Instr.coreWf (i : Instr) : Bool :=
  match Machine.kform i with
  | some (f, k) => k.ok f
  | none => match Machine.mform i with
    | some (f, k) => k.ok i f
    | none => match Machine.bform i with
      | some (f, k) => k.ok f
      | none => match Machine.jform i with
        | some (f, k) => k.ok f.d
        | none => false

/-- Whether the instruction is a core word. -/
def Instr.isCore (i : Instr) : Bool :=
  (Machine.kform i).isSome || (Machine.mform i).isSome || (Machine.bform i).isSome || (Machine.jform i).isSome

/-- Whether the instruction is a node word. -/
def Instr.isNode : Instr → Bool
  | .arithNodeFire _ | .steer _ | .const _ | .lenter _ | .lnext _ | .lexit _ | .calln _ | .retn _ | .ixrd _ | .joinc _
  | .sink _ | .sendp _ | .eqpn _ | .fend _ | .errt _ | .gate _ | .cld _ | .cst _ | .catom _ | .mnop _ | .fld _ | .fst _
  | .cfence _ | .mcld _ | .mcst _ | .mcenq _ | .mcdeq _ | .agen _ | .mxj _ | .mxout _ => true
  | _ => false

/-- Well-formed: a legal core word, or a node word that no word-local test of the paddock loader refuses. The steps of
the other agents have no encoding and no condition of form. -/
def Instr.wf (i : Instr) : Bool :=
  if i.isCore then i.coreWf else if i.isNode then (Machine.nodeCode i).isNone else true

end Sys2Proof
end

