-- ==== Sys2Proof/Decode.lean ====
section
/-! DEFINITION. The decoder from 64-bit words to instructions, total and rejecting by name, and the encoder, both from
the layouts R57 to R68 and the opcode map R72 to R75. Whether a word is a core word or a node word depends only on where
it lies (R55), so there are two decoders. -/

namespace Sys2Proof

/-- Why a word is not an instruction (R76, R80). -/
inductive DecodeError where
  | unassignedClass
  | unassignedOp
  | sbWithIm
  | reservedBits
  | badTarget
  | badFields
  deriving DecidableEq, Repr

namespace Decode

/-! ### The layouts -/

/-- Operand B of layout K from SB, IM, B and X (R57, R58). -/
def bOp (sb im : Bool) (b : BitVec 8) (x : BitVec 12) : BOp :=
  if im then .imm (b ++ x) else if sb then .s b else .v b

def bRaw (b : BOp) : BitVec 8 :=
  match b with
  | .v r => r
  | .s r => r
  | .imm i => i.extractLsb' 12 8

def xRaw (f : KF) : BitVec 12 :=
  match f.b with
  | .imm i => i.extractLsb' 0 12
  | _ => f.x

def packK (cls : BitVec 4) (op : BitVec 8) (f : KF) : BitVec 64 :=
  cls ++ op ++ f.ty ++ BitVec.ofBool f.b.isS ++ BitVec.ofBool f.b.isImm ++ f.pm ++ BitVec.ofBool f.pn
    ++ f.d ++ f.a ++ bRaw f.b ++ f.c ++ xRaw f

def unpackK (w : BitVec 64) : KF :=
  let im := w.getLsbD 48
  { ty := w.extractLsb' 50 2, pm := w.extractLsb' 45 3, pn := w.getLsbD 44, d := w.extractLsb' 36 8,
    a := w.extractLsb' 28 8, b := bOp (w.getLsbD 49) im (w.extractLsb' 20 8) (w.extractLsb' 0 12),
    c := w.extractLsb' 12 8, x := if im then 0 else w.extractLsb' 0 12 }

def packJ (hx : BitVec 4) (f : JF) : BitVec 64 :=
  (0 : BitVec 4) ++ (0x24 : BitVec 8) ++ (0 : BitVec 4) ++ f.pm ++ BitVec.ofBool f.pn ++ f.d ++ hx ++ f.imm

def unpackJ (w : BitVec 64) : JF :=
  { pm := w.extractLsb' 45 3, pn := w.getLsbD 44, d := w.extractLsb' 36 8, imm := w.extractLsb' 0 32 }

def packB (op : BitVec 8) (f : BF) : BitVec 64 :=
  (4 : BitVec 4) ++ op ++ (0 : BitVec 4) ++ f.pm ++ BitVec.ofBool f.pn ++ f.a ++ f.cond ++ f.off

def unpackB (w : BitVec 64) : BF :=
  { pm := w.extractLsb' 45 3, pn := w.getLsbD 44, a := w.extractLsb' 36 8, cond := w.extractLsb' 32 4,
    off := w.extractLsb' 0 32 }

def packM (op : BitVec 8) (f : MF) : BitVec 64 :=
  (5 : BitVec 4) ++ op ++ (0 : BitVec 2) ++ BitVec.ofBool f.sa ++ BitVec.ofBool f.ix ++ f.pm ++ BitVec.ofBool f.pn
    ++ f.d ++ f.a ++ f.b ++ f.size ++ BitVec.ofBool f.sx ++ f.space ++ f.ord ++ f.off

def unpackM (w : BitVec 64) : MF :=
  { sa := w.getLsbD 49, ix := w.getLsbD 48, pm := w.extractLsb' 45 3, pn := w.getLsbD 44, d := w.extractLsb' 36 8,
    a := w.extractLsb' 28 8, b := w.extractLsb' 20 8, size := w.extractLsb' 17 3, sx := w.getLsbD 16,
    space := w.extractLsb' 14 2, ord := w.extractLsb' 12 2, off := w.extractLsb' 0 12 }

/-- R64: a target, `none` outside when VALID = 0 comes with nonzero bits. -/
def target (t : BitVec 9) : Option (Option Tgt) :=
  if t.getLsbD 8 then some (some ⟨t.extractLsb' 1 7, t.getLsbD 0⟩)
  else if t == 0 then some none else none

def packNA (f : NAF) : BitVec 64 :=
  (0 : BitVec 2) ++ f.cls ++ f.op ++ f.ty ++ BitVec.ofBool f.im ++ BitVec.ofBool f.sw
    ++ Machine.tgtBits f.t0 ++ Machine.tgtBits f.t1 ++ f.mod

def packND (op : BitVec 8) (f : NDF) : BitVec 64 :=
  (12 : BitVec 4) ++ op ++ (0 : BitVec 4) ++ Machine.tgtBits f.t0 ++ Machine.tgtBits f.t1 ++ f.w ++ f.imm

def packNM (op : BitVec 8) (f : NMF) : BitVec 64 :=
  (13 : BitVec 4) ++ op ++ f.size ++ BitVec.ofBool f.sx ++ f.aop ++ Machine.tgtBits f.t0 ++ f.seq ++ f.pred ++ f.succ
    ++ f.site

def packNC (op : BitVec 8) (f : NCF) : BitVec 64 :=
  (14 : BitVec 4) ++ op ++ (0 : BitVec 4) ++ Machine.tgtBits f.t0 ++ Machine.tgtBits f.t1 ++ f.mc ++ f.buf ++ f.arg

/-! ### The opcode map -/

/-- R248: C[7:6] chooses the form of QBIND. -/
def qbindRow (f : KF) : Instr :=
  match (f.c.extractLsb' 6 2).toNat with
  | 0 => .qbindTrig f
  | 1 => .qbindIn f
  | 2 => .qbindOut f
  | _ => .qbindUnmap f

/-- The layout K rows of class 0 (R73, R74). -/
def kRow0 (op : BitVec 8) (f : KF) : Option Instr :=
  match op.toNat with
  | 0x00 => some (.add f)
  | 0x01 => some (.sub f)
  | 0x02 => some (.addc f)
  | 0x03 => some (.subb f)
  | 0x04 => some (.mullo f)
  | 0x05 => some (.mulhi f)
  | 0x06 => some (.mulhn f)
  | 0x07 => some (.mad f)
  | 0x08 => some (.div f)
  | 0x09 => some (.divn f)
  | 0x0A => some (.rem f)
  | 0x0B => some (.remn f)
  | 0x0C => some (.min f)
  | 0x0D => some (.max f)
  | 0x0E => some (.minn f)
  | 0x0F => some (.maxn f)
  | 0x10 => some (.abs f)
  | 0x11 => some (.neg f)
  | 0x12 => some (.and f)
  | 0x13 => some (.or f)
  | 0x14 => some (.xor f)
  | 0x15 => some (.andn f)
  | 0x16 => some (.not f)
  | 0x17 => some (.shl f)
  | 0x18 => some (.shr f)
  | 0x19 => some (.sar f)
  | 0x1A => some (.rol f)
  | 0x1B => some (.clz f)
  | 0x1C => some (.popc f)
  | 0x1D => some (.brev f)
  | 0x1E => some (.bfx f)
  | 0x1F => some (.bfi f)
  | 0x20 => some (.lea f)
  | 0x21 => some (.sel f)
  | 0x22 => some (.cmp f)
  | 0x23 => some (.mov f)
  | 0x25 => some (.movsv f)
  | 0x26 => some (.adds f)
  | 0x27 => some (.subs f)
  | 0x28 => some (.dot4 f)
  | _ => none

/-- The layout K rows of class 1 (R73, R74). -/
def kRow1 (op : BitVec 8) (f : KF) : Option Instr :=
  match op.toNat with
  | 0x00 => some (.fadd f)
  | 0x01 => some (.fsub f)
  | 0x02 => some (.fmul f)
  | 0x03 => some (.fma f)
  | 0x04 => some (.fmin f)
  | 0x05 => some (.fmax f)
  | 0x06 => some (.fcmp f)
  | 0x07 => some (.fdiv f)
  | 0x08 => some (.fsqrt f)
  | 0x09 => some (.frcp f)
  | 0x0A => some (.frsq f)
  | 0x0B => some (.fex2 f)
  | 0x0C => some (.flg2 f)
  | 0x0D => some (.fclass f)
  | 0x0E => some (.fcvti f)
  | 0x0F => some (.icvtf f)
  | 0x10 => some (.fcvtw f)
  | 0x11 => some (.frnd f)
  | 0x12 => some (.fscl f)
  | _ => none

/-- The layout K rows of class 2 (R73, R74). -/
def kRow2 (op : BitVec 8) (f : KF) : Option Instr :=
  match op.toNat with
  | 0x00 => some (.fmtw f)
  | 0x01 => some (.fmtr f)
  | 0x02 => some (.cvt f)
  | 0x03 => some (.sclq f)
  | 0x04 => some (.scld f)
  | 0x05 => some (.bscl f)
  | 0x06 => some (.ndot f)
  | 0x07 => some (.fmtq f)
  | _ => none

/-- The layout K rows of class 3 (R73, R74). -/
def kRow3 (op : BitVec 8) (f : KF) : Option Instr :=
  match op.toNat with
  | 0x00 => some (.shfl f)
  | 0x01 => some (.shflup f)
  | 0x02 => some (.shfldn f)
  | 0x03 => some (.shflx f)
  | 0x04 => some (.bcast f)
  | 0x05 => some (.ballot f)
  | 0x06 => some (.vote f)
  | 0x07 => some (.red f)
  | 0x08 => some (.scan f)
  | 0x09 => some (.cmpr f)
  | 0x0A => some (.expd f)
  | 0x0B => some (.iota f)
  | 0x0C => some (.setvl f)
  | 0x0D => some (.getvl f)
  | 0x0E => some (.msk f)
  | 0x0F => some (.mpop f)
  | 0x10 => some (.mff f)
  | 0x11 => some (.v2s f)
  | 0x12 => some (.slide f)
  | 0x13 => some (.mset f)
  | _ => none

/-- The layout K rows of class 4 (R73, R74). -/
def kRow4 (op : BitVec 8) (f : KF) : Option Instr :=
  match op.toNat with
  | 0x04 => some (.join f)
  | 0x06 => some (if f.b.isS then .callxS f else .callxV f)
  | 0x07 => some (if f.b.isS then .jmpxS f else .jmpxV f)
  | 0x08 => some (.ret f)
  | 0x09 => some (.exit f)
  | 0x0B => some (.nop f)
  | 0x0C => some (.yield f)
  | 0x0E => some (.ifence f)
  | _ => none

/-- The layout K rows of class 6 (R73, R74). -/
def kRow6 (op : BitVec 8) (f : KF) : Option Instr :=
  match op.toNat with
  | 0x00 => some (.cpy f)
  | 0x01 => some (.cpyt f)
  | 0x02 => some (.cpyb f)
  | 0x03 => some (.cpyw f)
  | 0x04 => some (.bar f)
  | 0x05 => some (.bara f)
  | 0x06 => some (.barw f)
  | 0x07 => some (.barx f)
  | 0x08 => some (.qpush f)
  | 0x09 => some (.qpop f)
  | 0x0A => some (.qnotify f)
  | 0x0B => some (qbindRow f)
  | 0x0C => some (.qstat f)
  | _ => none

/-- The layout K rows of class 7 (R73, R74). -/
def kRow7 (op : BitVec 8) (f : KF) : Option Instr :=
  match op.toNat with
  | 0x00 => some (.freq f)
  | 0x01 => some (.frel f)
  | 0x02 => some (.fcfg f)
  | 0x03 => some (.fsend f)
  | 0x04 => some (.frecv f)
  | 0x05 => some (.fdrain f)
  | 0x06 => some (.fprio f)
  | 0x07 => some (.fstat f)
  | 0x08 => some (if f.c == 1 then .fmodeSys f else .fmodeDf f)
  | _ => none

/-- The layout K rows of class 8 (R73, R74). -/
def kRow8 (op : BitVec 8) (f : KF) : Option Instr :=
  match op.toNat with
  | 0x00 => some (.mxw f)
  | 0x01 => some (.mxa f)
  | 0x02 => some (.mxc f)
  | 0x03 => some (.mxz f)
  | 0x04 => some (.mxsc f)
  | 0x05 => some (.mxwait f)
  | _ => none

/-- The layout K rows of class 9 (R73, R74). -/
def kRow9 (op : BitVec 8) (f : KF) : Option Instr :=
  match op.toNat with
  | 0x00 => some (.eqp f)
  | 0x01 => some (if f.c == 3 then .remountClr f else .remount f)
  | 0x02 => some (.gaitr f)
  | 0x03 => some (if f.c == 0 then .pinOff f else .pin f)
  | _ => none

/-- The layout K rows of class 10 (R73, R74). -/
def kRow10 (op : BitVec 8) (f : KF) : Option Instr :=
  match op.toNat with
  | 0x00 => some (.trap f)
  | 0x01 => some (.brk f)
  | 0x02 => some (.ctlrd f)
  | 0x03 => some (.ctlwr f)
  | 0x04 => some (if f.c.getLsbD 2 then .cycRow f else .cyc f)
  | 0x05 => some (.launch f)
  | 0x06 => some (.waitev f)
  | 0x07 => some (.sigev f)
  | _ => none

/-- The layout K rows (R72 to R74). -/
def kRow (cls : BitVec 4) (op : BitVec 8) (f : KF) : Option Instr :=
  match cls.toNat with
  | 0 => kRow0 op f
  | 1 => kRow1 op f
  | 2 => kRow2 op f
  | 3 => kRow3 op f
  | 4 => kRow4 op f
  | 6 => kRow6 op f
  | 7 => kRow7 op f
  | 8 => kRow8 op f
  | 9 => kRow9 op f
  | 10 => kRow10 op f
  | _ => none

/-- The layout B rows of class 4 (R74). -/
def bRow (op : BitVec 8) (f : BF) : Option Instr :=
  match op.toNat with
  | 0x00 => some (.br f)
  | 0x01 => some (.brm f)
  | 0x02 => some (.brs f)
  | 0x03 => some (.rcv f)
  | 0x05 => some (.call f)
  | 0x0A => some (.loop f)
  | 0x0D => some (.prefi f)
  | _ => none

/-- The rows of class 5 (R74); US, B[0] with IX = 0, makes LD a uniform load (R218). -/
def mRow (op : BitVec 8) (f : MF) : Option Instr :=
  match op.toNat with
  | 0x00 => some (if !f.ix && f.b.getLsbD 0 then .ldUniform f else .ld f)
  | 0x01 => some (.st f)
  | 0x02 => some (.lda f)
  | 0x03 => some (.stl f)
  | 0x04 => some (.atom f)
  | 0x05 => some (.cas f)
  | 0x06 => some (.fence f)
  | 0x07 => some (.pref f)
  | 0x08 => some (.vlds f)
  | 0x09 => some (.vsts f)
  | 0x0A => some (.ldf f)
  | 0x0B => some (.stf f)
  | 0x0C => some (.cmaint f)
  | _ => none

/-- MOVI by HX (R60). -/
def jRow (hx : BitVec 4) (f : JF) : Option Instr :=
  match hx.toNat with
  | 0 => some (.movi f)
  | 1 => some (.moviHi f)
  | 2 => some (.moviPair f)
  | _ => none

/-- Class 12 (R75). -/
def ndRow (op : BitVec 8) (n : NDF) : Option Instr :=
  match op.toNat with
  | 0x00 => some (.steer n)
  | 0x01 => some (.const n)
  | 0x02 => some (.lenter n)
  | 0x03 => some (.lnext n)
  | 0x04 => some (.lexit n)
  | 0x05 => some (.calln n)
  | 0x06 => some (.retn n)
  | 0x07 => some (.ixrd n)
  | 0x08 => some (.joinc n)
  | 0x09 => some (.sink n)
  | 0x0A => some (.sendp n)
  | 0x0B => some (.eqpn n)
  | 0x0C => some (.fend n)
  | 0x0D => some (.errt n)
  | 0x0E => some (.gate n)
  | _ => none

/-- Class 13 (R75). -/
def nmRow (op : BitVec 8) (n : NMF) : Option Instr :=
  match op.toNat with
  | 0x00 => some (.cld n)
  | 0x01 => some (.cst n)
  | 0x02 => some (.catom n)
  | 0x03 => some (.mnop n)
  | 0x04 => some (.fld n)
  | 0x05 => some (.fst n)
  | 0x06 => some (.cfence n)
  | _ => none

/-- Class 14 (R75). -/
def ncRow (op : BitVec 8) (n : NCF) : Option Instr :=
  match op.toNat with
  | 0x00 => some (.mcld n)
  | 0x01 => some (.mcst n)
  | 0x02 => some (.mcenq n)
  | 0x03 => some (.mcdeq n)
  | 0x04 => some (.agen n)
  | 0x05 => some (.mxj n)
  | 0x06 => some (.mxout n)
  | _ => none

/-! ### The decoders -/

/-- The last test of both decoders: the row exists and its fields are those the row allows. -/
def checked (e : DecodeError) (r : Option Instr) : Except DecodeError Instr :=
  match r with
  | none => .error e
  | some i => if i.wf then .ok i else .error .badFields

/-- Layout B holds every class 4 operation of R61. -/
def isLayoutB (op : BitVec 8) : Bool :=
  op == 0x00 || op == 0x01 || op == 0x02 || op == 0x03 || op == 0x05 || op == 0x0A || op == 0x0D

/-- A core word (R57 to R62, R76): the illegal words are the errors. -/
def core (w : BitVec 64) : Except DecodeError Instr :=
  let cls : BitVec 4 := w.extractLsb' 60 4
  let op : BitVec 8 := w.extractLsb' 52 8
  if cls.toNat < 11 then
    if cls == 5 then
      if w.extractLsb' 50 2 == 0 then checked .unassignedOp (mRow op (unpackM w)) else .error .reservedBits
    else if cls == 4 && isLayoutB op then
      if w.extractLsb' 48 4 == 0 then checked .unassignedOp (bRow op (unpackB w)) else .error .reservedBits
    else if cls == 0 && op == 0x24 then
      if w.extractLsb' 48 4 == 0 then checked .badFields (jRow (w.extractLsb' 32 4) (unpackJ w))
      else .error .reservedBits
    else if w.getLsbD 49 && w.getLsbD 48 then .error .sbWithIm
    else checked .unassignedOp (kRow cls op (unpackK w))
  else .error .unassignedClass

/-- A node word (R63 to R68, R80): the word-local refusals are the errors. -/
def node (w : BitVec 64) : Except DecodeError Instr :=
  let cls : BitVec 4 := w.extractLsb' 60 4
  let op : BitVec 8 := w.extractLsb' 52 8
  if cls.ult 3 then
    match target (w.extractLsb' 39 9), target (w.extractLsb' 30 9) with
    | some t0, some t1 => checked .unassignedOp (some (.arithNodeFire
        ⟨w.extractLsb' 60 2, op, w.extractLsb' 50 2, w.getLsbD 49, w.getLsbD 48, t0, t1, w.extractLsb' 0 30⟩))
    | _, _ => .error .badTarget
  else if cls == 13 then
    match target (w.extractLsb' 35 9) with
    | some t0 => checked .unassignedOp (nmRow op ⟨w.extractLsb' 49 3, w.getLsbD 48, w.extractLsb' 44 4, t0,
        w.extractLsb' 27 8, w.extractLsb' 19 8, w.extractLsb' 11 8, w.extractLsb' 0 11⟩)
    | none => .error .badTarget
  else if cls == 12 || cls == 14 then
    if w.extractLsb' 48 4 == 0 then
      match target (w.extractLsb' 39 9), target (w.extractLsb' 30 9) with
      | some t0, some t1 =>
        if cls == 12 then checked .unassignedOp (ndRow op ⟨t0, t1, w.extractLsb' 24 6, w.extractLsb' 0 24⟩)
        else checked .unassignedOp
          (ncRow op ⟨t0, t1, w.extractLsb' 24 6, w.extractLsb' 16 8, w.extractLsb' 0 16⟩)
      | _, _ => .error .badTarget
    else .error .reservedBits
  else .error .unassignedClass

/-- R2, R55: the word that eight bytes hold, the first at the lowest address. -/
def wordOf (bs : List Byte) : BitVec 64 :=
  match bs with
  | [b0, b1, b2, b3, b4, b5, b6, b7] => b7 ++ b6 ++ b5 ++ b4 ++ b3 ++ b2 ++ b1 ++ b0
  | _ => 0

/-- The eight bytes of a word, the first at the lowest address. -/
def bytesOf (w : BitVec 64) : List Byte :=
  [w.extractLsb' 0 8, w.extractLsb' 8 8, w.extractLsb' 16 8, w.extractLsb' 24 8, w.extractLsb' 32 8, w.extractLsb' 40 8,
   w.extractLsb' 48 8, w.extractLsb' 56 8]

/-! ### The encoder -/

/-- Class and operation of a layout K instruction. -/
def kKey : Instr → Option (KF × BitVec 4 × BitVec 8)
  | .add f => some (f, 0, 0x00)
  | .sub f => some (f, 0, 0x01)
  | .addc f => some (f, 0, 0x02)
  | .subb f => some (f, 0, 0x03)
  | .mullo f => some (f, 0, 0x04)
  | .mulhi f => some (f, 0, 0x05)
  | .mulhn f => some (f, 0, 0x06)
  | .mad f => some (f, 0, 0x07)
  | .div f => some (f, 0, 0x08)
  | .divn f => some (f, 0, 0x09)
  | .rem f => some (f, 0, 0x0A)
  | .remn f => some (f, 0, 0x0B)
  | .min f => some (f, 0, 0x0C)
  | .max f => some (f, 0, 0x0D)
  | .minn f => some (f, 0, 0x0E)
  | .maxn f => some (f, 0, 0x0F)
  | .abs f => some (f, 0, 0x10)
  | .neg f => some (f, 0, 0x11)
  | .and f => some (f, 0, 0x12)
  | .or f => some (f, 0, 0x13)
  | .xor f => some (f, 0, 0x14)
  | .andn f => some (f, 0, 0x15)
  | .not f => some (f, 0, 0x16)
  | .shl f => some (f, 0, 0x17)
  | .shr f => some (f, 0, 0x18)
  | .sar f => some (f, 0, 0x19)
  | .rol f => some (f, 0, 0x1A)
  | .clz f => some (f, 0, 0x1B)
  | .popc f => some (f, 0, 0x1C)
  | .brev f => some (f, 0, 0x1D)
  | .bfx f => some (f, 0, 0x1E)
  | .bfi f => some (f, 0, 0x1F)
  | .lea f => some (f, 0, 0x20)
  | .sel f => some (f, 0, 0x21)
  | .cmp f => some (f, 0, 0x22)
  | .mov f => some (f, 0, 0x23)
  | .movsv f => some (f, 0, 0x25)
  | .adds f => some (f, 0, 0x26)
  | .subs f => some (f, 0, 0x27)
  | .dot4 f => some (f, 0, 0x28)
  | .fadd f => some (f, 1, 0x00)
  | .fsub f => some (f, 1, 0x01)
  | .fmul f => some (f, 1, 0x02)
  | .fma f => some (f, 1, 0x03)
  | .fmin f => some (f, 1, 0x04)
  | .fmax f => some (f, 1, 0x05)
  | .fcmp f => some (f, 1, 0x06)
  | .fdiv f => some (f, 1, 0x07)
  | .fsqrt f => some (f, 1, 0x08)
  | .frcp f => some (f, 1, 0x09)
  | .frsq f => some (f, 1, 0x0A)
  | .fex2 f => some (f, 1, 0x0B)
  | .flg2 f => some (f, 1, 0x0C)
  | .fclass f => some (f, 1, 0x0D)
  | .fcvti f => some (f, 1, 0x0E)
  | .icvtf f => some (f, 1, 0x0F)
  | .fcvtw f => some (f, 1, 0x10)
  | .frnd f => some (f, 1, 0x11)
  | .fscl f => some (f, 1, 0x12)
  | .fmtw f => some (f, 2, 0x00)
  | .fmtr f => some (f, 2, 0x01)
  | .cvt f => some (f, 2, 0x02)
  | .sclq f => some (f, 2, 0x03)
  | .scld f => some (f, 2, 0x04)
  | .bscl f => some (f, 2, 0x05)
  | .ndot f => some (f, 2, 0x06)
  | .fmtq f => some (f, 2, 0x07)
  | .shfl f => some (f, 3, 0x00)
  | .shflup f => some (f, 3, 0x01)
  | .shfldn f => some (f, 3, 0x02)
  | .shflx f => some (f, 3, 0x03)
  | .bcast f => some (f, 3, 0x04)
  | .ballot f => some (f, 3, 0x05)
  | .vote f => some (f, 3, 0x06)
  | .red f => some (f, 3, 0x07)
  | .scan f => some (f, 3, 0x08)
  | .cmpr f => some (f, 3, 0x09)
  | .expd f => some (f, 3, 0x0A)
  | .iota f => some (f, 3, 0x0B)
  | .setvl f => some (f, 3, 0x0C)
  | .getvl f => some (f, 3, 0x0D)
  | .msk f => some (f, 3, 0x0E)
  | .mpop f => some (f, 3, 0x0F)
  | .mff f => some (f, 3, 0x10)
  | .v2s f => some (f, 3, 0x11)
  | .slide f => some (f, 3, 0x12)
  | .mset f => some (f, 3, 0x13)
  | .join f => some (f, 4, 0x04)
  | .callxV f => some (f, 4, 0x06)
  | .callxS f => some (f, 4, 0x06)
  | .jmpxV f => some (f, 4, 0x07)
  | .jmpxS f => some (f, 4, 0x07)
  | .ret f => some (f, 4, 0x08)
  | .exit f => some (f, 4, 0x09)
  | .nop f => some (f, 4, 0x0B)
  | .yield f => some (f, 4, 0x0C)
  | .ifence f => some (f, 4, 0x0E)
  | .cpy f => some (f, 6, 0x00)
  | .cpyt f => some (f, 6, 0x01)
  | .cpyb f => some (f, 6, 0x02)
  | .cpyw f => some (f, 6, 0x03)
  | .bar f => some (f, 6, 0x04)
  | .bara f => some (f, 6, 0x05)
  | .barw f => some (f, 6, 0x06)
  | .barx f => some (f, 6, 0x07)
  | .qpush f => some (f, 6, 0x08)
  | .qpop f => some (f, 6, 0x09)
  | .qnotify f => some (f, 6, 0x0A)
  | .qbindTrig f => some (f, 6, 0x0B)
  | .qbindIn f => some (f, 6, 0x0B)
  | .qbindOut f => some (f, 6, 0x0B)
  | .qbindUnmap f => some (f, 6, 0x0B)
  | .qstat f => some (f, 6, 0x0C)
  | .freq f => some (f, 7, 0x00)
  | .frel f => some (f, 7, 0x01)
  | .fcfg f => some (f, 7, 0x02)
  | .fsend f => some (f, 7, 0x03)
  | .frecv f => some (f, 7, 0x04)
  | .fdrain f => some (f, 7, 0x05)
  | .fprio f => some (f, 7, 0x06)
  | .fstat f => some (f, 7, 0x07)
  | .fmodeDf f => some (f, 7, 0x08)
  | .fmodeSys f => some (f, 7, 0x08)
  | .mxw f => some (f, 8, 0x00)
  | .mxa f => some (f, 8, 0x01)
  | .mxc f => some (f, 8, 0x02)
  | .mxz f => some (f, 8, 0x03)
  | .mxsc f => some (f, 8, 0x04)
  | .mxwait f => some (f, 8, 0x05)
  | .eqp f => some (f, 9, 0x00)
  | .remount f => some (f, 9, 0x01)
  | .remountClr f => some (f, 9, 0x01)
  | .gaitr f => some (f, 9, 0x02)
  | .pin f => some (f, 9, 0x03)
  | .pinOff f => some (f, 9, 0x03)
  | .trap f => some (f, 10, 0x00)
  | .brk f => some (f, 10, 0x01)
  | .ctlrd f => some (f, 10, 0x02)
  | .ctlwr f => some (f, 10, 0x03)
  | .cyc f => some (f, 10, 0x04)
  | .cycRow f => some (f, 10, 0x04)
  | .launch f => some (f, 10, 0x05)
  | .waitev f => some (f, 10, 0x06)
  | .sigev f => some (f, 10, 0x07)
  | _ => none

def bKey : Instr → Option (BF × BitVec 8)
  | .br f => some (f, 0x00)
  | .brm f => some (f, 0x01)
  | .brs f => some (f, 0x02)
  | .rcv f => some (f, 0x03)
  | .call f => some (f, 0x05)
  | .loop f => some (f, 0x0A)
  | .prefi f => some (f, 0x0D)
  | _ => none

def mKey : Instr → Option (MF × BitVec 8)
  | .ld f | .ldUniform f => some (f, 0x00)
  | .st f => some (f, 0x01)
  | .lda f => some (f, 0x02)
  | .stl f => some (f, 0x03)
  | .atom f => some (f, 0x04)
  | .cas f => some (f, 0x05)
  | .fence f => some (f, 0x06)
  | .pref f => some (f, 0x07)
  | .vlds f => some (f, 0x08)
  | .vsts f => some (f, 0x09)
  | .ldf f => some (f, 0x0A)
  | .stf f => some (f, 0x0B)
  | .cmaint f => some (f, 0x0C)
  | _ => none

def jKey : Instr → Option (JF × BitVec 4)
  | .movi f => some (f, 0)
  | .moviHi f => some (f, 1)
  | .moviPair f => some (f, 2)
  | _ => none

def ndKey : Instr → Option (NDF × BitVec 8)
  | .steer n => some (n, 0x00)
  | .const n => some (n, 0x01)
  | .lenter n => some (n, 0x02)
  | .lnext n => some (n, 0x03)
  | .lexit n => some (n, 0x04)
  | .calln n => some (n, 0x05)
  | .retn n => some (n, 0x06)
  | .ixrd n => some (n, 0x07)
  | .joinc n => some (n, 0x08)
  | .sink n => some (n, 0x09)
  | .sendp n => some (n, 0x0A)
  | .eqpn n => some (n, 0x0B)
  | .fend n => some (n, 0x0C)
  | .errt n => some (n, 0x0D)
  | .gate n => some (n, 0x0E)
  | _ => none

def nmKey : Instr → Option (NMF × BitVec 8)
  | .cld n => some (n, 0x00)
  | .cst n => some (n, 0x01)
  | .catom n => some (n, 0x02)
  | .mnop n => some (n, 0x03)
  | .fld n => some (n, 0x04)
  | .fst n => some (n, 0x05)
  | .cfence n => some (n, 0x06)
  | _ => none

def ncKey : Instr → Option (NCF × BitVec 8)
  | .mcld n => some (n, 0x00)
  | .mcst n => some (n, 0x01)
  | .mcenq n => some (n, 0x02)
  | .mcdeq n => some (n, 0x03)
  | .agen n => some (n, 0x04)
  | .mxj n => some (n, 0x05)
  | .mxout n => some (n, 0x06)
  | _ => none

end Decode

/-- The word of an instruction; a step of another agent has none. -/
def encode (i : Instr) : Option (BitVec 64) :=
  match Decode.kKey i with
  | some (f, c, o) => some (Decode.packK c o f)
  | none => match Decode.mKey i with
    | some (f, o) => some (Decode.packM o f)
    | none => match Decode.bKey i with
      | some (f, o) => some (Decode.packB o f)
      | none => match Decode.jKey i with
        | some (f, h) => some (Decode.packJ h f)
        | none => match Decode.ndKey i with
          | some (f, o) => some (Decode.packND o f)
          | none => match Decode.nmKey i with
            | some (f, o) => some (Decode.packNM o f)
            | none => match Decode.ncKey i with
              | some (f, o) => some (Decode.packNC o f)
              | none => match i with
                | .arithNodeFire n => some (Decode.packNA n)
                | _ => none

/-- The instruction that the decoders read from a word of `nbits` bits, laid out in memory (R2): classes 12 to 14 are
node words, the others are read as core words. -/
def decodeTableWord (nbits w : Nat) : Option Instr :=
  if nbits ≤ 64 then
    let v := Decode.wordOf (Decode.bytesOf (BitVec.ofNat 64 w))
    match if v.extractLsb' 60 4 == 12 || v.extractLsb' 60 4 == 13 || v.extractLsb' 60 4 == 14
        then Decode.node v else Decode.core v with
    | .ok i => some i
    | .error _ => none
  else none

end Sys2Proof
end

