-- ==== Sys2Proof/Config.lean ====
section
/-! DEFINITION. What the spec leaves to one part or one implementation, as constants without a body: no proof can see
a value of them, so a claim holds whatever they are (log entries 7, 8, 9). -/

namespace Sys2Proof.Config

/-- The free values: choices the spec leaves open, read at the counter `State.free` (R12, R151, R217, R220, R258, R274). -/
opaque freeNat : Nat → Nat
/-- R9: the spare site of each die, fixed at manufacture. -/
opaque spareSite : Nat → Fin 14
/-- R437: the serial number at control offset 0x10. -/
opaque serial : BitVec 64
/-- R436: AES key unwrap (RFC 3394) of the 256 bits in KEYDATA under the owner's key-wrapping key. -/
opaque unwrapKey : BitVec 256 → BitVec 256
/-- R436, R437: what KEYSTAT reads; the spec names BUSY and gives no encoding. -/
opaque keyStat : Bool → BitVec 64
/-- R210: the second key of AES-256-XTS, from which the tweak is made. The key store holds one key of 256 bits for an index
(R436), and the spec does not say how the two keys of IEEE 1619 come from it. -/
opaque tweakKey : BitVec 256 → BitVec 256
/-- R210: whether the memory-side cache holds a line, in plain text, at a moment; `true` for a line of another module. -/
opaque inCache : Bool → Nat → Nat → Bool
/-- R211: the key at an index of the key store of a member of the load-store domain. -/
opaque memberKey : Nat → Nat → BitVec 256
/-- R445: the channel at which a 64 KiB page of HBM is homed; the spec gives no map from addresses to channels. -/
opaque pageHome : Nat → BitVec 8
/-- R14: what an access beyond the module's HBM reads at a moment; the spec gives it no outcome. -/
opaque noMemory : Nat → Nat → BitVec 8
/-- R384 states GAITR.COST in 64 bits and gives no value for a cost that does not fit them. -/
opaque costBeyond : Nat → BitVec 64

end Sys2Proof.Config
end

