-- ==== Sys2Proof/Machine/Aes.lean ====
section
/-! DEFINITION. AES-256 and XTS (R210, IEEE 1619): what the engine of a memory channel makes of a line. -/

namespace Sys2Proof.Machine

/-- A block of AES: byte i of memory at bits 8i + 7 to 8i. -/
abbrev Block := BitVec 128

/-! ### AES-256 -/

/-- The S-box, the entry of x at bits 8x + 7 to 8x. -/
def sbox : BitVec 2048 :=
  (0x16bb54b00f2d99416842e6bf0d89a18cdf2855cee9871e9b948ed9691198f8e19e1dc186b95735610ef6034866b53e708a8bbd4b1f74dde8c6b4a61c2e2578ba : BitVec 512)
    ++ (0x08ae7a65eaf4566ca94ed58d6d37c8e779e4959162acd3c25c2406490a3a32e0db0b5ede14b8ee4688902a22dc4f816073195d643d7ea7c41744975fec130ccd : BitVec 512)
    ++ (0xd2f3ff1021dab6bcf5389d928f40a351a89f3c507f02f94585334d43fbaaefd0cf584c4a39becb6a5bb1fc20ed00d153842fe329b3d63b52a05a6e1b1a2c8309 : BitVec 512)
    ++ (0x75b227ebe28012079a059618c323c7041531d871f1e5a534ccf73f362693fdb7c072a49cafa2d4adf04759fa7dc982ca76abd7fe2b670130c56f6bf27b777c63 : BitVec 512)

/-- The inverse of the S-box. -/
def sboxInv : BitVec 2048 :=
  (0x7d0c2155631469e126d677ba7e042b17619953833cbbebc8b0f52aae4d3be0a0ef9cc9939f7ae52d0d4ab519a97f51605fec8027591012b131c7078833a8dd1f : BitVec 512)
    ++ (0xf45acd78fec0db9a2079d2c64b3e56fc1bbe18aa0e62b76f89c5291d711af1476edf751ce837f9e28535ade72274ac9673e6b4f0cecff297eadc674f4111913a : BitVec 512)
    ++ (0x6b8a130103bdafc1020f3fca8f1e2cd00645b3b80558e4f70ad3bc8c00abd890849d8da75746155edab9edfd5048706c92b6655dcc5ca4d41698688664f6f872 : BitVec 512)
    ++ (0x25d18b6d49a25b76b224d92866a12e084ec3fa420b954cee3d23c2a632947b54cbe9dec444438e3487ff2f9b8239e37cfbd7f3819ea340bf38a53630d56a0952 : BitVec 512)

def boxAt (t : BitVec 2048) (x : Byte) : Byte := t.extractLsb' (8 * x.toNat) 8

def Block.byte (b : Block) (i : Nat) : Byte := b.extractLsb' (8 * i) 8

def Block.of (f : Nat → Byte) : Block := (List.range 16).foldl (fun a i => a ||| ((f i).setWidth 128 <<< (8 * i))) 0

def subBytes (t : BitVec 2048) (b : Block) : Block := Block.of (fun i => boxAt t (b.byte i))

/-- Row r of the four columns turns by r columns. -/
def shiftRows (b : Block) : Block := Block.of (fun i => b.byte (4 * ((i / 4 + i % 4) % 4) + i % 4))

def unshiftRows (b : Block) : Block := Block.of (fun i => b.byte (4 * ((i / 4 + 4 - i % 4) % 4) + i % 4))

/-- Twice an element of GF(2^8). -/
def gfTwice (a : Byte) : Byte := if a.getLsbD 7 then (a <<< 1) ^^^ 0x1B else a <<< 1

def gfMul (a b : Byte) : Byte :=
  ((List.range 8).foldl (fun (p : Byte × Byte) i => (if b.getLsbD i then p.1 ^^^ p.2 else p.1, gfTwice p.2)) (0, a)).1

/-- Each column times the circulant matrix of the row m. -/
def mixColumns (m : List Byte) (b : Block) : Block :=
  Block.of (fun i => (List.range 4).foldl (fun a j =>
    a ^^^ gfMul (m.getD ((4 + j - i % 4) % 4) 0) (b.byte (4 * (i / 4) + j))) 0)

def subWord (w : BitVec 32) : BitVec 32 :=
  boxAt sbox (w.extractLsb' 24 8) ++ boxAt sbox (w.extractLsb' 16 8) ++ boxAt sbox (w.extractLsb' 8 8)
    ++ boxAt sbox (w.extractLsb' 0 8)

/-- The next eight words of the key schedule. -/
def nextKeys (rc : Byte) (k : BitVec 256) : BitVec 256 :=
  let w (i : Nat) : BitVec 32 := k.extractLsb' (32 * i) 32
  let a := w 0 ^^^ subWord ((w 7).rotateRight 8) ^^^ rc.setWidth 32
  let b := a ^^^ w 1
  let c := b ^^^ w 2
  let d := c ^^^ w 3
  let e := w 4 ^^^ subWord d
  let f := e ^^^ w 5
  let g := f ^^^ w 6
  (g ^^^ w 7) ++ g ++ f ++ e ++ d ++ c ++ b ++ a

/-- Two round keys for each eight words. -/
def roundKeys : Nat → Byte → BitVec 256 → List Block
  | 0, _, _ => []
  | n + 1, rc, k => k.extractLsb' 0 128 :: k.extractLsb' 128 128 :: roundKeys n (gfTwice rc) (nextKeys rc k)

/-- The fifteen round keys of AES-256. -/
def aesKeys (k : BitVec 256) : List Block := (roundKeys 8 1 k).take 15

def encRounds : List Block → Block → Block
  | [], b => b
  | [k], b => shiftRows (subBytes sbox b) ^^^ k
  | k :: t, b => encRounds t (mixColumns [2, 3, 1, 1] (shiftRows (subBytes sbox b)) ^^^ k)

def decRounds : List Block → Block → Block
  | [], b => b
  | [k], b => subBytes sboxInv (unshiftRows b) ^^^ k
  | k :: t, b => decRounds t (mixColumns [14, 11, 13, 9] (subBytes sboxInv (unshiftRows b) ^^^ k))

def aesEnc (k : BitVec 256) (b : Block) : Block :=
  match aesKeys k with
  | [] => b
  | r :: t => encRounds t (b ^^^ r)

def aesDec (k : BitVec 256) (b : Block) : Block :=
  match (aesKeys k).reverse with
  | [] => b
  | r :: t => decRounds t (b ^^^ r)

/-! ### XTS -/

/-- The tweak of the next block of a line. -/
def tweakNext (t : Block) : Block := if t.getLsbD 127 then (t <<< 1) ^^^ 0x87 else t <<< 1

/-- The eight blocks of a line, each between two additions of its tweak. -/
def xtsBlocks (f : Block → Block) : Nat → Block → BitVec 1024 → BitVec 1024
  | 0, _, _ => 0
  | n + 1, t, v =>
    ((f (v.extractLsb' 0 128 ^^^ t) ^^^ t).setWidth 1024) ||| (xtsBlocks f n (tweakNext t) (v >>> 128) <<< 128)

/-- R210: the tweak of the line at a physical address under a key. Which key makes the tweak is a constant without a body (log
entry 94). -/
def lineTweak (k : BitVec 256) (pa : Nat) : Block := aesEnc (Config.tweakKey k) (BitVec.ofNat 128 pa)

def encLine (k : BitVec 256) (pa : Nat) (v : BitVec 1024) : BitVec 1024 := xtsBlocks (aesEnc k) 8 (lineTweak k pa) v

def decLine (k : BitVec 256) (pa : Nat) (v : BitVec 1024) : BitVec 1024 := xtsBlocks (aesDec k) 8 (lineTweak k pa) v

end Sys2Proof.Machine
end

