-- ==== Sys2Proof/Machine/SMap.lean ====
section
/-! DEFINITION. The two ways State holds data by name. `SMap`: numbers to values in one canonical form, with a default
that an unlisted number reads as. `Tab`: an association list of the objects that exist. -/

namespace Sys2Proof

/-- What `k` reads as; an unlisted key reads as `d`. -/
def SMap.get {α : Type} (m : SMap α) (d : α) (k : Nat) : α :=
  match m with
  | [] => d
  | (j, a) :: t => if j = k then a else SMap.get t d k

/-- Drop what is listed of `k`. -/
def SMap.erase {α : Type} (m : SMap α) (k : Nat) : SMap α :=
  match m with
  | [] => []
  | (j, a) :: t => if j = k then SMap.erase t k else (j, a) :: SMap.erase t k

/-- Insert or replace in key order. -/
def SMap.put {α : Type} (m : SMap α) (k : Nat) (v : α) : SMap α :=
  match m with
  | [] => [(k, v)]
  | (j, a) :: t => if k < j then (k, v) :: (j, a) :: t else if j = k then (k, v) :: t else (j, a) :: SMap.put t k v

/-- Write `v` at `k`, keeping the canonical form: writing the default removes the entry. -/
def SMap.set {α : Type} [DecidableEq α] (m : SMap α) (d : α) (k : Nat) (v : α) : SMap α :=
  if v = d then m.erase k else m.put k v

/-- The canonical form: keys strictly rising, all at or above `lo`, no entry equal to the default. -/
def SMap.wfFrom {α : Type} [DecidableEq α] (m : SMap α) (d : α) (lo : Nat) : Bool :=
  match m with
  | [] => true
  | (j, a) :: t => decide (lo ≤ j) && !decide (a = d) && SMap.wfFrom t d (j + 1)

def SMap.wf {α : Type} [DecidableEq α] (m : SMap α) (d : α) : Bool := m.wfFrom d 0

/-- The canonical form of memory; a byte that nothing has written reads as 0 (log entry 2). -/
def Memory.wf (m : Memory) : Bool := SMap.wf m 0

/-- The object named `k`, if it exists. -/
def Tab.get? {κ α : Type} [DecidableEq κ] (t : List (κ × α)) (k : κ) : Option α :=
  match t with
  | [] => none
  | (j, a) :: t => if j = k then some a else Tab.get? t k

/-- Replace the object named `k`, or add it last. -/
def Tab.set {κ α : Type} [DecidableEq κ] (t : List (κ × α)) (k : κ) (v : α) : List (κ × α) :=
  match t with
  | [] => [(k, v)]
  | (j, a) :: t => if j = k then (k, v) :: t else (j, a) :: Tab.set t k v

/-- Remove the object named `k`. -/
def Tab.drop {κ α : Type} [DecidableEq κ] (t : List (κ × α)) (k : κ) : List (κ × α) :=
  t.filter (fun p => !decide (p.1 = k))

/-- Change every object. -/
def Tab.map {κ α : Type} (t : List (κ × α)) (f : κ → α → α) : List (κ × α) := t.map (fun p => (p.1, f p.1 p.2))

/-- The first element that satisfies `p`, with its place. -/
def findAt {α : Type} (l : List α) (p : α → Bool) : Option (Nat × α) :=
  match l with
  | [] => none
  | a :: t => if p a then some (0, a) else (findAt t p).map (fun r => (r.1 + 1, r.2))

end Sys2Proof
end

