-- ==== Sys2Proof/Machine/State.lean ====
section
/-! DEFINITION. The state of the OT-6416: module, clusters, address spaces, launches, crews, gangs, waves, the fabric and
the host's side of the ports. Everything is plain data. INVENTORY.md lists each field with its rule. -/

namespace Sys2Proof.Machine

/-! ### Waves (R166, R413) -/

/-- R166: the kind of a divergence entry. -/
inductive DKind where
  | reconv
  | path
  | callx
  deriving DecidableEq, Repr

/-- R166: an entry of the divergence stack. `reg` is the target register of the CALLX that pushed the entry, the A field
of the word at `pc` − 8 (R177); 0 in other entries. -/
structure DEntry where
  kind : DKind
  pend : Word
  mask : Word
  rdepth : Nat
  pc : Word
  reg : Nat
  deriving DecidableEq, Repr

/-- R171: an entry of the return stack. -/
structure REntry where
  pc : Word
  depth : Nat
  group : Bool
  deriving DecidableEq, Repr

/-- R190: the stall reasons; `ready` is code 0. -/
inductive Stall where
  | ready
  | halted
  | preempted
  | throttle
  | icache
  | scoreboard
  | memory
  | barrier
  | copywait
  | qempty
  | qfull
  | frecv
  | eqp
  deriving DecidableEq, Repr

/-- R244: a queue mapped onto a V register. -/
structure QMap where
  reg : Nat
  queue : Nat
  out : Bool
  deriving DecidableEq, Repr

/-- R278: a lane that waits for a result. `born` is the step that issued its FRECV, `pc` where that stands, `act` the lanes
of the wave that were active then, and `outs` the output mappings of its destination (R244). -/
structure Recv where
  paddock : Nat
  port : Nat
  lane : Nat
  reg : Nat
  pair : Bool
  born : Nat
  pc : Word
  act : Word
  outs : List QMap
  deriving DecidableEq, Repr

/-- R222: a FENCE.REL or FENCE.AR that holds the wave's later stores, at a scope, until the stores issued before step
`before` are performed there. -/
structure Hold where
  scope : Nat
  before : Nat
  deriving DecidableEq, Repr

/-- A wave (R18, R413). V registers are keyed 32 × register + lane, S registers and M registers by number. The head of a
stack is its top; `dsp` and `rsp` count the entries that lie in the spill area (R170, R171). A wave that waits on queue
`waitq` needs `waitn` entries or places of it (R245); a CPYB that found 16 closed batches waits for batch `batchWait`
(R231). -/
structure Wave where
  v : SMap Word
  s : SMap Dword
  m : SMap Word
  fcsr : Word
  pc : Word
  mask : Word
  exited : Word
  dstack : List DEntry
  rstack : List REntry
  dsp : Nat
  rsp : Nat
  rpm : Word
  stall : Stall
  pending : Option (BitVec 32)
  retired : Bool
  lastBatch : Nat
  qmaps : List QMap
  recvs : List Recv
  arrived : Option Nat
  barIn : Bool
  barOut : Bool
  since : Nat
  passed : Nat
  remoteWait : Bool
  timedOut : Bool
  bpDone : Bool
  undo : Nat
  waitq : Nat
  waitn : Nat
  popped : Bool
  holds : List Hold
  batchWait : Option Nat
  deriving DecidableEq, Repr

/-! ### Gangs (R18, R359 to R384) -/

/-- A gang: its crew and its place in the crew. -/
structure GangId where
  crew : CrewId
  gang : Nat
  deriving DecidableEq, Repr

/-- R365: the SERIAL run in progress. -/
structure Serial where
  point : Nat
  run : Nat
  live : BitVec 256
  deriving DecidableEq, Repr

/-- A gang. Counters saturate at 64 bits (R371). `moving` is the form that the decision has chosen while the hand-over waits
for accesses that the gang issued before the point (R366). `mapVals` are the values of the last point's map entries as they stood at
that point, keyed by 256 × entry + iteration (R377). -/
structure Gang where
  form : BitVec 2
  vl : Nat
  pinned : Bool
  req : Option (BitVec 2)
  dbgForm : Option (BitVec 2)
  issue : Nat
  laneop : Nat
  memtx : Nat
  fire : Nat
  hop : Nat
  interval : Option Nat
  intForm : BitVec 2
  intLive : Nat
  cost : Dword
  decision : Dword
  ev : Option Nat
  hobase : Dword
  rm : BitVec 24
  halted : Bool
  serial : Option Serial
  slots : Bool
  atPoint : BitVec 256
  point : Option Nat
  heldMask : BitVec 256
  heldAt : Option Nat
  part : BitVec 256
  due : Option Nat
  moving : Option (BitVec 2)
  bpDone : Bool
  brk : Option (BitVec 32)
  mapVals : SMap Dword
  deriving DecidableEq, Repr

/-! ### The fabric (R255 to R333) -/

/-- R264, R404: where a wave stands as a record names it: the form, the threaded address or the vector offset, the site
and the last point. -/
structure Spot where
  form : BitVec 2
  taddr : Nat
  voff : Nat
  site : Option Nat
  eqp : Option Nat
  deriving DecidableEq, Repr

/-- R265: a sender of the braid: a core's fabric port for a wave, a cell for a node (its slice, bay and cell, and the node's
paddock, block and slot), or the slice port. -/
inductive Sender where
  | wave (gang wave : Nat) (spot : Spot)
  | node (slice bay cell paddock blk slot : Nat)
  | port
  deriving DecidableEq, Repr

/-- R291: how a frame is entered (ENTRY of R286), its parent and its return slot. -/
structure Entry where
  kind : Nat
  parent : Option (Nat × Nat)
  rslot : Nat
  deriving DecidableEq, Repr

/-- R69: a token for a frame. `place` is the place that it was routed to, if it has been (R259); `relayed`: it was parked
and the edge controller of its place delivers it (R264). -/
structure Tok where
  sender : Sender
  place : Option Nat
  paddock : Nat
  cell : Nat
  frame : Nat
  blk : Nat
  slot : Nat
  port : Bool
  err : Bool
  value : Dword
  round : Nat
  relayed : Bool
  deriving DecidableEq, Repr

/-- R291: an entry, a token with its tag. `start`: a start token of a remount (R368). -/
structure Ent where
  sender : Sender
  place : Option Nat
  paddock : Nat
  blk : Nat
  tag : Dword
  slot : Nat
  port : Bool
  err : Bool
  value : Dword
  round : Nat
  how : Entry
  start : Bool
  relayed : Bool
  deriving DecidableEq, Repr

/-- What travels on the braid: a token for a frame (R69), an entry (R291), or the drain token of a place (R270). -/
inductive Flit where
  | token (t : Tok)
  | entry (e : Ent)
  | drain (sender : Sender) (place : Nat)
  deriving DecidableEq, Repr

/-- R285, R286: a frame. Slots are keyed by slot × 2 + port; `errs` marks held error operands, `joinErr` holds the least
code a JOINC has counted, plus 1. -/
structure Frame where
  cell : Nat
  no : Nat
  blk : Nat
  tag : Dword
  round : Nat
  how : Entry
  loop0 : BitVec 32
  loop1 : BitVec 32
  presence : BitVec 256
  slots : SMap Dword
  errs : BitVec 256
  joinErr : SMap Nat
  resident : Bool
  ending : Bool
  touched : Nat
  arrived : Nat
  fired : Nat
  deriving DecidableEq, Repr

/-- R287: a node whose operands have met, waiting for its cell to fire it. `entry`: a start token completed it (R368);
`since`: the step at which it fired and had to wait (R321, R330). -/
structure Ready where
  cell : Nat
  frame : Nat
  blk : Nat
  slot : Nat
  l : Dword
  lerr : Bool
  r : Dword
  rerr : Bool
  entry : Bool
  since : Option Nat
  deriving DecidableEq, Repr

/-- R295, R296: a start of a loop that waits for its rein. -/
structure Held where
  place : Nat
  parent : Nat × Nat
  e : Bool
  ent : Ent
  deriving DecidableEq, Repr

/-- R294, R309: an operation that a full backwater holds: a cell that needs a unit, a swap-out, a token to park, or a
start to hold. -/
inductive BwOp where
  | unit (cell : Nat)
  | swap
  | park (f : Flit)
  | hold (e : Ent)
  deriving DecidableEq, Repr

/-- R294: an operation that waits, with its record, and the place of a crew whose backwater is full. -/
structure BwWait where
  seq : BitVec 32
  op : BwOp
  crew : CrewId
  place : Nat
  deriving DecidableEq, Repr

/-- A firing as work that it started remembers it: its frame and node, its round and its tag. -/
structure FireRef where
  cell : Nat
  frame : Nat
  blk : Nat
  slot : Nat
  round : Nat
  tag : Dword
  deriving DecidableEq, Repr

/-- R323, R324: an address generator. `next` counts the elements it has done. Over the ring, `cur` is the current buffer,
`fill` the elements done in it and `lines` the full buffers, oldest first; `queue` holds the elements of the FIFO and
pass-through modes. -/
structure Gen where
  running : Bool
  base : Dword
  mode : Nat
  dir : Bool
  esz : Nat
  buf0 : Nat
  nb : Nat
  nd : Nat
  dims : List (Int × Nat)
  next : Nat
  cur : Nat
  fill : Nat
  lines : List Nat
  parked : Option (BitVec 32)
  agen : Option FireRef
  queue : List Dword
  deriving DecidableEq, Repr

/-- R322: a memory cell. Buffer bytes are keyed 3,072 × buffer + offset. -/
structure MCell where
  bytes : SMap Byte
  full : BitVec 16
  head : SMap Nat
  count : SMap Nat
  gens : SMap Gen
  deriving DecidableEq, Repr

/-- R282: the state of a place. -/
inductive PState where
  | free
  | loading
  | resident
  | swapped
  deriving DecidableEq, Repr

/-- R276: an accepted load that is not complete: its paddock, its edge word, and whether an FDRAIN has drained what it
brings (R270). -/
structure Load where
  paddock : Nat
  edge : BitVec 64
  drain : Bool
  deriving DecidableEq, Repr

/-- A place of a region (R257). `admitted` counts the tokens of the bridle's window by input port (R269); `bwFull` lists
what waits for room in a backwater (R294); `parked` holds firings of free accesses that a recoverable cause holds (R321).
`next` lists the accepted loads, oldest first, each but the last of which drains (R276, R279); `named` is the step at which
the paddock map last named the place (R259). -/
structure Place where
  slice : Nat
  bay : Nat
  ctx : Nat
  sys : Bool
  state : PState
  draining : Bool
  drainHere : BitVec 16
  passed : BitVec 16
  paddock : Nat
  fprio : Nat
  edge : BitVec 64
  frames : List Frame
  ready : List Ready
  fired : Nat
  mcells : SMap MCell
  admitted : SMap Nat
  bwCap : Nat
  bwFull : List BwWait
  parked : List (BitVec 32 × Ready)
  next : List Load
  named : Nat
  deriving DecidableEq, Repr

/-- A region (R257, R274). The first `granted` places are those the crew names; later ones hold paddocks that are swapped
out and have no place (R263). `given` marks a region of the dispatcher or of a remount (R260). -/
structure Region where
  handle : Nat
  granted : Nat
  places : List Place
  local_ : Bool
  given : Bool
  deriving DecidableEq, Repr

/-- R264: a token parked for a paddock that is not resident: in the backwater of the place that it left when it was
swapped out, or in the park area of the region. -/
structure Park where
  paddock : Nat
  place : Option Nat
  flit : Flit
  deriving DecidableEq, Repr

/-- R314: the kinds of chained access. -/
inductive AKind where
  | cld
  | cst
  | catom
  | mnop
  deriving DecidableEq, Repr

/-- A chained access in the weir (R314, R315). `stopped`: a site breakpoint has fired on it; `quiet`: it only fills its
position, since its node had an error for an operand. -/
structure WEntry where
  act : Nat
  kind : AKind
  seq : Nat
  pred : Nat
  succ : Nat
  site : Nat
  addr : Dword
  size : Nat
  sx : Bool
  aop : Nat
  data : Dword
  errCode : Option Nat
  parked : Option (BitVec 32)
  released : Bool
  stopped : Bool
  quiet : Bool
  round : Nat
  tag : Dword
  place : Nat
  cell : Nat
  frame : Nat
  blk : Nat
  slot : Nat
  deriving DecidableEq, Repr

/-- An access that has left its cell and not yet arrived at the weir (R315). -/
structure Transit where
  paddock : Nat
  entry : WEntry
  deriving DecidableEq, Repr

/-- R312: an activation as the weir knows it. -/
structure Act where
  id : Nat
  round : Nat
  blk : Nat
  tag : Dword
  parent : Option Nat
  loop : Bool
  freed : Bool
  lexit : Bool
  deriving DecidableEq, Repr

/-- R314: where the cursor of a chain stands. -/
inductive Cursor where
  | idle
  | start (act : Nat)
  | after (act seq succ : Nat)
  | child (act : Nat)
  | done (act : Nat)
  deriving DecidableEq, Repr

/-- R313: a chain bound to a weir slot. -/
structure Chain where
  paddock : Nat
  slot : Nat
  depth : Nat
  cursor : Cursor
  last : Option WEntry
  acts : List Act
  entries : List WEntry
  deriving DecidableEq, Repr

/-- R298: an error handed to the retire unit. -/
structure RErr where
  code : Nat
  va : Dword
  site : Option Nat
  cell : Nat
  frame : Nat
  blk : Nat
  slot : Nat
  tag : Dword
  deriving DecidableEq, Repr

/-- R278: a result on its way to the crew. -/
structure Result where
  paddock : Nat
  port : Nat
  iter : Nat
  value : Dword
  deriving DecidableEq, Repr

/-- R298: a round. `iter` is k × 256 + j; `eqpn` is the point at which the round ended; `open_` is false once it ended;
a committed round stays while its iteration's frames may still fire. -/
structure Round where
  id : Nat
  paddock : Nat
  iter : Nat
  rm : BitVec 3
  remount : Bool
  open_ : Bool
  eqpn : Option Nat
  flags : BitVec 5
  errors : List RErr
  faults : List RErr
  results : List Result
  bound : Bool
  committed : Bool
  deriving DecidableEq, Repr

/-- R273: a class 7 operation that has not completed. -/
inductive FKind where
  | freq (n : Dword) (loc : Bool)
  | frel (h : Dword)
  | fcfg (a b edge : Dword)
  | fdrain (b : Dword)
  | fstat (b : Dword)
  | fmode (b : Dword) (sys : Bool)
  | fprio (b : Nat)
  deriving DecidableEq, Repr

/-- `accepted`: a load or a drain is under way; `ended`: it is over, and only its status is left to write; `later`: how many loads
of its place complete before the one that a drain drains. -/
structure FOp where
  gang : Nat
  wave : Nat
  d : Nat
  kind : FKind
  accepted : Bool
  ended : Bool
  later : Nat
  deriving DecidableEq, Repr

/-! ### The matrix array (R334 to R356) -/

/-- An array cell: its tile, the format word recorded with it (R338), and its scales. -/
structure MxCell where
  w : SMap (BitVec 16)
  fmt : Word
  sc : SMap (BitVec 24)
  deriving DecidableEq, Repr

/-- R336: the geometry. -/
structure Geometry where
  cls : Nat
  kb : Nat
  nb : Nat
  deriving DecidableEq, Repr

/-- R343: the feed of an MXJ pass: the place, memory cell and accumulator buffer, its firing, and its two operands. -/
structure MxFeed where
  place : Nat
  mc : Nat
  buf : Nat
  ref : FireRef
  header : Dword
  rval : Dword
  deriving DecidableEq, Repr

/-- R339, R340: a pass or a weight event in column order. -/
inductive MxKind where
  | weights (addr : Dword) (fmt : Word) (entry : Nat)
  | scales (addr : Dword)
  | zero
  | pass (desc : List Dword) (fa : Word) (entry : Nat)
  | feed (f : MxFeed) (fa : Word) (entry : Nat)
  deriving DecidableEq, Repr

/-- R342: matrix work in flight. `target` is a cell of an event and a column of a pass. The threaded address, offset,
site, iteration and EQP are those of R22. Reads wait for stores issued before step `after`. Items whose operands the
column head has read come first, in column order. -/
structure MxItem where
  kind : MxKind
  target : Nat
  gang : Nat
  wave : Nat
  vform : Bool
  taddr : Nat
  voff : Nat
  site : Option Nat
  iter : Nat
  eqp : Option Nat
  after : Nat
  headRead : Bool
  rows : Nat
  out : List Word
  flags : BitVec 5
  written : Nat
  parked : Option (BitVec 32)
  deriving DecidableEq, Repr

/-! ### Crews and launches -/

/-- R129: an FMTW that waits for matrix work: its wave and its entry. -/
structure FmtWait where
  gang : Nat
  wave : Nat
  entry : Nat
  deriving DecidableEq, Repr

/-- R229 to R234: a copy. `todo` lists the 16-byte units that have not landed; the engine reads once every store that its
wave issued before step `after` is performed. The threaded address, offset, site, iteration and EQP are those of R22. Batch 0 is the open batch. -/
structure Copy where
  wave : WaveId
  taddr : Nat
  voff : Nat
  vform : Bool
  site : Option Nat
  iter : Nat
  eqp : Option Nat
  dst : Nat
  src : Dword
  rowlen : Nat
  rows : Nat
  pitch : Dword
  todo : List Nat
  batch : Nat
  obj : Option Nat
  after : Nat
  parked : Option (BitVec 32)
  deriving DecidableEq, Repr

/-- A crew (R18). `copies` are its parked copies while it is saved (R234); `moving`: it was saved by a RETIRE of its cluster,
which restores it (R445); `parkFull` lists the tokens that wait for a park
area that firmware could not extend, each with its record (R264). -/
structure Crew where
  cluster : Nat
  ngangs : Nat
  fmt : SMap Word
  fmtw : List FmtWait
  crw : Memory
  prio : Nat
  debug : Bool
  region : Option Region
  flight : List Flit
  parks : List Park
  parkFull : List (BitVec 32 × Flit)
  heldStarts : List Held
  transit : List Transit
  chains : List Chain
  rounds : List Round
  results : List Result
  fops : List FOp
  geometry : Option Geometry
  cells : SMap MxCell
  mx : List MxItem
  ctxBase : Dword
  undoBase : Dword
  bwBase : Dword
  saved : Bool
  preempt : Bool
  moving : Bool
  exits : List Nat
  ids : Nat
  copies : List Copy
  deriving DecidableEq, Repr

/-- R54: an entry of a map. -/
structure MapEntry where
  tyFmt : Bool
  ty : Nat
  treg : Nat
  ts : Bool
  tpair : Bool
  vreg : Nat
  vs : Bool
  vpair : Bool
  slot : Nat
  deriving DecidableEq, Repr

/-- R53, R362: the map of an equivalence point. -/
structure MapD where
  n : Nat
  serial : Bool
  entries : List MapEntry
  deriving DecidableEq, Repr

/-- R54: an equivalence point of the image. -/
structure EqpD where
  n : Nat
  steps : Nat
  estt : Nat
  estv : Nat
  ests : Nat
  deriving DecidableEq, Repr

/-- R54: a site of the image. -/
structure SiteD where
  site : Nat
  toff : Nat
  voff : Option Nat
  deriving DecidableEq, Repr

/-- A kernel image as the dispatcher read it (R52 to R54). Code sections are byte offsets and lengths. -/
structure Kernel where
  image : Dword
  vregs : Nat
  crw : Nat
  forms : BitVec 3
  tOff : Nat
  tLen : Nat
  vOff : Nat
  vLen : Nat
  paddocks : List (List (List (BitVec 64)))
  eqps : List EqpD
  maps : List MapD
  sites : List SiteD
  queues : List (Nat × Nat)
  chains : List (Nat × Nat)
  formats : List (Nat × Word)
  consts : List Byte
  eqpT : List (Nat × Nat)
  eqpV : List (Nat × Nat)
  deriving DecidableEq, Repr

/-- R184, R185, R196: the state of a launch. -/
inductive LState where
  | waiting
  | ready
  | placed
  | retiring
  | retired
  | stopped
  deriving DecidableEq, Repr

/-- A launch; its record is its 16 doublewords (R183). -/
structure Launch where
  record : List Dword
  queue : Nat
  inQueue : Bool
  state : LState
  eff : Nat
  kernel : Option Kernel
  args : Memory
  argsRead : Bool
  placed : Nat
  gone : Nat
  only : Option Nat
  prvBase : Dword
  gtBase : Dword
  held : Option (BitVec 32)
  deriving DecidableEq, Repr

/-! ### Clusters -/

/-- A held translation (R206, R208): the entry as walked, and where it lies. -/
structure Tlb where
  asid : Nat
  vpn : Nat
  big : Bool
  pte : BitVec 64
  home : Nat
  deriving DecidableEq, Repr

/-- A physical location: on this module or on another member of the load-store domain (R211), with the key index under
which it is accessed (R210). -/
structure Loc where
  rmt : Bool
  pa : Nat
  key : Nat
  deriving DecidableEq, Repr

/-- A store issued and not yet performed at its home channel (R205); `born` is the step that issued it, `tlb` the
translation that it used (R209). `crew`: a release at CREW scope has covered it, so that every agent of the crew sees it
(R205, R395). `rel`: the scope at which an STL stored it, 0 for other stores (R219). -/
structure PStore where
  wave : WaveId
  born : Nat
  loc : Loc
  bytes : List Byte
  va : Dword
  tlb : Tlb
  crew : Bool
  rel : Nat
  deriving DecidableEq, Repr

structure QEntry where
  data : BitVec 1024
  mask : Word
  deriving DecidableEq, Repr

/-- R239 to R243: a named queue. -/
structure Queue where
  asid : Nat
  declarers : Nat
  depth : Nat
  entries : List QEntry
  trig : Nat
  handler : Option (List Dword × Nat)
  deriving DecidableEq, Repr

/-- R245: a party of a queue. -/
structure Party where
  wave : WaveId
  queue : Nat
  push : Bool
  deriving DecidableEq, Repr

/-- R416: the gate of a cluster; a waking cluster is gated until it has woken. -/
inductive Gate where
  | open_
  | request
  | gated
  | waking
  deriving DecidableEq, Repr

/-- A cluster and its fabric slice. `rowsOn`: the clock of a row may have delivered edges since its count was last read
(R268, R424). `l1Past`: since L1 was last invalidated, a node of a crew of the cluster has acquired, or stored through
another slice port, and L1 may hold lines older than what that orders (R390, R391, R395). -/
structure Cluster where
  l1 : SMap (Option (BitVec 1024))
  l1Past : Bool
  icache : SMap (Option (BitVec 1024))
  tlb : List Tlb
  stores : List PStore
  copies : List Copy
  queues : SMap Queue
  parties : List Party
  cycles : Dword
  rows : SMap Dword
  rowsOn : SMap Bool
  tslice : Nat
  gaitw : BitVec 40
  brmax : Nat
  gate : Gate
  qlim : SMap (BitVec 32)
  wlim : SMap (BitVec 32)
  fceil : SMap Nat
  fqmax : SMap Nat
  bwframes : SMap Nat
  rr : SMap Nat
  site : Nat
  deriving DecidableEq, Repr

/-! ### Address spaces -/

/-- R422: a breakpoint. -/
structure Bp where
  ctl : Dword
  img : Dword
  iter : Dword
  deriving DecidableEq, Repr

/-- The registers of an ASID (R402, R418, R438). `waiting` holds records that found the ring full, oldest first.
`stopping`: a STOP has been taken, and older rounds have still to commit (R318, R408). -/
structure Asid where
  ptroot : Dword
  frqBase : Dword
  frqOstler : BitVec 4
  log2n : Nat
  tail : BitVec 16
  head : BitVec 16
  seq : BitVec 32
  waiting : List (List Dword)
  halt : Bool
  allstop : Bool
  debug : Bool
  keybind : Option (BitVec 12)
  bps : SMap Bp
  stopping : Bool
  stopped : Bool
  deriving DecidableEq, Repr

/-! ### The host's side -/

/-- R434: a subscription of a connection; `addr` 0 is to the job's fault notices. -/
structure Sub where
  conn : Conn
  asid : Nat
  addr : Dword
  thr : Dword
  ctag : BitVec 32
  deriving DecidableEq, Repr

/-- R433: a message to the host. -/
structure Msg where
  conn : Conn
  header : List Dword
  payload : List Dword
  deriving DecidableEq, Repr

/-- R432: the completion of an RMA access. -/
structure RmaReply where
  conn : Conn
  ok : Bool
  data : List Byte
  deriving DecidableEq, Repr

/-- R441: a one-time-programmable slot for a firmware-signing key, an ECDSA public key over P-384. -/
inductive SignSlot where
  | empty
  | filled (key : BitVec 768)
  | revoked
  deriving DecidableEq, Repr

/-- R211: a remote window pair. -/
structure Window where
  base : Dword
  deliv : Nat
  starve : Nat
  deriving DecidableEq, Repr

/-- R445: a 64 KiB page that a RETIRE of a channel moves: where an address space maps it, its page of HBM, and the page of
HBM that it has been copied and remapped to. -/
structure PageMove where
  asid : Nat
  vpn : Nat
  old : Nat
  new : Option Nat
  deriving DecidableEq, Repr

/-- R444: the live service. -/
inductive SvcStat where
  | idle
  | running
  | done
  | refused
  | waitSys
  deriving DecidableEq, Repr

/-! ### Who acts (log entry 1) -/

/-- A firing in progress (R288). -/
structure Firing where
  crew : CrewId
  place : Nat
  ready : Ready
  deriving DecidableEq, Repr

/-- The agent that acts in this step: none, a wave that issues, or a cell that fires. -/
inductive Focus where
  | none
  | wave (w : WaveId)
  | node (f : Firing)
  deriving DecidableEq, Repr

/-- What comes next: a wave is chosen to issue, or a scheduler picks one of its pool under R189, or a step of another
agent or an input happens. -/
inductive Choice where
  | issue (w : WaveId)
  | schedule (pool : List WaveId)
  | event (i : Instr)
  deriving DecidableEq, Repr

/-- R215: where an uncorrectable error lies: a 32-byte sector of HBM or a memory-side cache by address / 32, a byte of a
crew's memory, or a line of a cluster's L1 by address / 128. -/
inductive EccAt where
  | hbm (sector : Nat)
  | crw (crew : CrewId) (offset : Nat)
  | l1 (cluster line : Nat)
  deriving DecidableEq, Repr

/-- The machine. `lineKey` is the key under which a line of HBM was last written (R210), `remoteKey` the key index under which
this module last wrote a line of another (R211); `signals` are the signals sent
to ostlers, oldest first, each with the ASID whose record caused it (R402). `fwOut` is what accesses of firmware have
returned to it, oldest first (R386, R437). -/
structure State where
  mem : Memory
  remote : Memory
  remoteUp : List Nat
  ecc : List EccAt
  lineKey : SMap (BitVec 256)
  remoteKey : SMap (Option Nat)
  tiles : SMap (List Tlb)
  ageb : BitVec 32
  rtmo : BitVec 32
  pcap : BitVec 12
  throttle : Bool
  power : Dword
  curbHold : BitVec 8
  curbT : BitVec 8
  curbCount : BitVec 32
  curbAlarms : BitVec 3
  curbOn : Bool
  curbClear : Bool
  svcCmd : Dword
  svcStat : SvcStat
  svcPages : List PageMove
  keyIdx : BitVec 12
  keyBusy : Bool
  keyData : SMap Dword
  keys : SMap (BitVec 256)
  bootStat : BitVec 16
  signKeys : List SignSlot
  lqOwner : SMap (BitVec 12)
  chState : SMap Dword
  linkStat : SMap Dword
  portErrs : SMap Nat
  windows : SMap Window
  spareUsed : BitVec 8
  ostlers : BitVec 16
  asids : SMap Asid
  clusters : SMap Cluster
  launches : List (Nat × Launch)
  crews : List (CrewId × Crew)
  gangs : List (GangId × Gang)
  waves : List (WaveId × Wave)
  subs : List Sub
  outbox : List Msg
  signals : List (Nat × Nat)
  rmaOut : List RmaReply
  fwOut : List Dword
  free : Nat
  now : Nat
  focus : Focus
  agenda : List Choice
  deriving DecidableEq, Repr

/-- Why a step cannot happen. -/
inductive Fault where
  /-- Raised by OSTLER_ACCESS for a physical address beyond the 512 GiB of HBM (R14), where nothing is. Safe: the
  machine stops where no access exists. -/
  | noSuchAddress (pa : Nat)
  deriving DecidableEq, Repr

/-- Why an instruction or step has no meaning here. -/
inductive Refusal where
  /-- Raised by an arm of `exec` whose instruction has no meaning yet. Safe. -/
  | notModelled (mnemonic : String)
  /-- Raised by a core word when the agent that acts is no wave that exists: there is nothing to execute it. Safe. -/
  | noWave
  /-- Raised by a node word when the agent that acts is no firing of a resident place: there is nothing to fire. Safe. -/
  | noFiring
  /-- Raised by a step of another agent, or an input, that the agenda names where what it needs is not there (no token
  to arrive, no walk to make): that step cannot happen in this state. Safe. -/
  | notEnabled (why : String)
  deriving DecidableEq, Repr

/-! ### Values at creation and at reset -/

def Gen.init : Gen :=
  ⟨false, 0, 0, false, 0, 0, 0, 0, [], 0, 0, 0, [], none, none, []⟩

def MCell.init : MCell := ⟨[], 0, [], [], []⟩

def MxCell.init : MxCell := ⟨[], 0, []⟩

def Queue.init : Queue := ⟨0, 0, 0, [], 0, none⟩

def Window.init : Window := ⟨0, 0, 0⟩

/-- R438, R239, R313, R372: the registers of a cluster at reset; caches are empty (log entry 5). -/
def Cluster.init : Cluster :=
  { l1 := [], l1Past := false, icache := [], tlb := [], stores := [], copies := [], queues := [], parties := [], cycles := 0, rows := []
    rowsOn := []
    tslice := 0, gaitw := 0x1801060A01, brmax := 256, gate := .open_, qlim := [], wlim := [], fceil := [], fqmax := []
    bwframes := [], rr := [], site := 0 }

/-- R402, R418, R438: the registers of an ASID at reset. -/
def Asid.init : Asid :=
  { ptroot := 0, frqBase := 0, frqOstler := 0, log2n := 0, tail := 0, head := 0, seq := 0, waiting := [], halt := false
    allstop := false, debug := false, keybind := none, bps := [], stopping := false
    stopped := false }

/-- R454, R166: a wave at placement; `live` are the lanes that start, the others have exited (R19). -/
def Wave.start (live : Word) (now : Nat) : Wave :=
  { v := [], s := [(62, 0x4000)], m := [], fcsr := 0, pc := 0, mask := live, exited := ~~~live, dstack := []
    rstack := [], dsp := 0, rsp := 0, rpm := 0xFFFFFFFF, stall := .ready, pending := none, retired := live == 0
    lastBatch := 0, qmaps := [], recvs := [], arrived := none, barIn := false, barOut := false, since := now, passed := 0
    remoteWait := false, timedOut := false, bpDone := false, undo := 0, waitq := 0, waitn := 0, popped := false
    holds := [], batchWait := none }

/-- A gang at placement. -/
def Gang.start (form : BitVec 2) (hobase : Dword) : Gang :=
  { form := form, vl := 256, pinned := false, req := none, dbgForm := none, issue := 0, laneop := 0, memtx := 0
    fire := 0, hop := 0, interval := none, intForm := form, intLive := 0, cost := 0, decision := 0, ev := none
    hobase := hobase, rm := 0, halted := false, serial := none, slots := false, atPoint := 0, point := none, heldMask := 0
    heldAt := none, part := BitVec.allOnes 256, due := none, moving := none, bpDone := false, brk := none, mapVals := [] }

/-- A crew at placement. -/
def Crew.start (cluster ngangs prio : Nat) (debug : Bool) (fmt : SMap Word) (ctxBase undoBase bwBase : Dword) : Crew :=
  { cluster := cluster, ngangs := ngangs, fmt := fmt, fmtw := [], crw := [], prio := prio, debug := debug, region := none
    flight := [], parks := [], parkFull := [], heldStarts := [], transit := [], chains := [], rounds := [], results := [], fops := []
    geometry := none, cells := [], mx := [], ctxBase := ctxBase, undoBase := undoBase, bwBase := bwBase, saved := false
    preempt := false, moving := false, exits := [], ids := 0, copies := [] }

/-- The machine right after reset: the values R239, R313, R372, R402, R418, R422, R438, R442, R443 give, and the values
that the log names where the spec gives none. -/
def State.reset : State :=
  { mem := [], remote := [], remoteUp := [], ecc := [], lineKey := [], remoteKey := [], tiles := [], ageb := 1048576, rtmo := 2000000
    pcap := 2200
    throttle := false, power := 0, curbHold := 10, curbT := 105, curbCount := 0, curbAlarms := 0, curbOn := false
    curbClear := false, svcCmd := 0, svcStat := .idle, svcPages := [], keyIdx := 0, keyBusy := false, keyData := [], keys := []
    bootStat := 0, signKeys := [.filled 0, .empty, .empty, .empty], lqOwner := [], chState := [], linkStat := [], portErrs := [], windows := [], spareUsed := 0
    ostlers := 0, asids := [], clusters := [], launches := [], crews := [], gangs := [], waves := [], subs := []
    outbox := [], signals := [], rmaOut := [], fwOut := [], free := 0, now := 0, focus := .none, agenda := [] }

end Sys2Proof.Machine
end

