-- ==== Sys2Proof/Machine/Ops.lean ====
section
/-! DEFINITION. The named operations over State: memory bytes, registers, the objects by name, fault records (taking an
exception and returning from one, R402 to R409), and how an instruction of a wave ends. -/

namespace Sys2Proof.Machine

/-- What a step answers. -/
abbrev Out := Host.Outcome State Fault Refusal

/-! ### Numbers -/

/-- Wrap(x, w) of R5, as a number. -/
def wrap (w : Nat) (x : Int) : Nat := (x % (2 ^ w : Nat)).toNat

/-- The signed value of a w-bit pattern. -/
def sgn (w : Nat) (a : Nat) : Int := if a < 2 ^ (w - 1) then (a : Int) else (a : Int) - (2 ^ w : Nat)

/-- SignExtend(x, n) as an integer. -/
def sxi {n : Nat} (x : BitVec n) : Int := x.toInt

/-- Bits hi to lo of a number. -/
def bits (x hi lo : Nat) : Nat := x / 2 ^ lo % 2 ^ (hi + 1 - lo)

def bit (x i : Nat) : Bool := x / 2 ^ i % 2 == 1

/-- The lowest set bit, below `n`. -/
def lowBit {w : Nat} (m : BitVec w) : Option Nat := (List.range w).find? (fun i => m.getLsbD i)

def popc {w : Nat} (m : BitVec w) : Nat := ((List.range w).filter (fun i => m.getLsbD i)).length

/-! ### Memory bytes (R2) -/

def Memory.byte (m : Memory) (a : Nat) : Byte := SMap.get m 0 a

def Memory.setByte (m : Memory) (a : Nat) (b : Byte) : Memory := SMap.set m 0 a b

/-- `n` bytes from `a` upward. -/
def Memory.read (m : Memory) (a : Nat) : Nat → List Byte
  | 0 => []
  | n + 1 => Memory.byte m a :: Memory.read m (a + 1) n

/-- Write bytes from `a` upward. -/
def Memory.write (m : Memory) (a : Nat) : List Byte → Memory
  | [] => m
  | b :: bs => Memory.write (Memory.setByte m a b) (a + 1) bs

/-- The number that bytes hold, little-endian. -/
def leNat : List Byte → Nat
  | [] => 0
  | b :: bs => b.toNat + 256 * leNat bs

/-- The `n` bytes of a number, little-endian. -/
def leBytes : Nat → Nat → List Byte
  | 0, _ => []
  | n + 1, v => BitVec.ofNat 8 v :: leBytes n (v / 256)

def Memory.le (m : Memory) (a n : Nat) : Nat := leNat (Memory.read m a n)

def Memory.setLe (m : Memory) (a n v : Nat) : Memory := Memory.write m a (leBytes n v)

/-- R14, R27: the module holds 512 GiB of HBM; its bytes lie at the physical addresses from 0 upward (log entry 2). -/
def hbmBytes : Nat := 2 ^ 39

/-- Write bytes of HBM; those beyond it have nowhere to go. -/
def Memory.put (m : Memory) (a : Nat) (bs : List Byte) : Memory := Memory.write m a (bs.take (hbmBytes - a))

/-! ### Registers of a wave (R57 to R59) -/

def Wave.rdV (x : Wave) (r l : Nat) : Word := SMap.get x.v 0 (32 * r + l)

def Wave.wrV (x : Wave) (r l : Nat) (a : Word) : Wave := { x with v := SMap.set x.v 0 (32 * r + l) a }

/-- The pair V[r].D of a lane: V[r] is the low half. -/
def Wave.rdD (x : Wave) (r l : Nat) : Dword := x.rdV (r + 1) l ++ x.rdV r l

def Wave.wrD (x : Wave) (r l : Nat) (a : Dword) : Wave :=
  (x.wrV r l (a.extractLsb' 0 32)).wrV (r + 1) l (a.extractLsb' 32 32)

/-- R58: S0 reads as zero. -/
def Wave.rdS (x : Wave) (r : Nat) : Dword := if r = 0 then 0 else SMap.get x.s 0 r

/-- R58: a write of S0 is ignored. -/
def Wave.wrS (x : Wave) (r : Nat) (a : Dword) : Wave := if r = 0 then x else { x with s := SMap.set x.s 0 r a }

/-- R59: M0 reads all ones. -/
def Wave.rdM (x : Wave) (r : Nat) : Word := if r = 0 then 0xFFFFFFFF else SMap.get x.m 0 r

/-- R58: a write of M0 is ignored. -/
def Wave.wrM (x : Wave) (r : Nat) (a : Word) : Wave := if r = 0 then x else { x with m := SMap.set x.m 0 r a }

/-- Set or clear one bit of a mask. -/
def setBit {w : Nat} (m : BitVec w) (i : Nat) (b : Bool) : BitVec w :=
  if b then m ||| BitVec.twoPow w i else m &&& ~~~BitVec.twoPow w i

def Wave.wrMbit (x : Wave) (r l : Nat) (b : Bool) : Wave := x.wrM r (setBit (x.rdM r) l b)

/-! ### The objects of State by name -/

def State.wave? (s : State) (w : WaveId) : Option Wave := Tab.get? s.waves w
def State.gang? (s : State) (g : GangId) : Option Gang := Tab.get? s.gangs g
def State.crew? (s : State) (c : CrewId) : Option Crew := Tab.get? s.crews c
def State.launch? (s : State) (l : Nat) : Option Launch := Tab.get? s.launches l
def State.cluster (s : State) (c : Nat) : Cluster := SMap.get s.clusters Cluster.init c
def State.asid (s : State) (a : Nat) : Asid := SMap.get s.asids Asid.init a

def State.setWave (s : State) (w : WaveId) (x : Wave) : State := { s with waves := Tab.set s.waves w x }
def State.setGang (s : State) (g : GangId) (x : Gang) : State := { s with gangs := Tab.set s.gangs g x }
def State.setCrew (s : State) (c : CrewId) (x : Crew) : State := { s with crews := Tab.set s.crews c x }
def State.setLaunch (s : State) (l : Nat) (x : Launch) : State := { s with launches := Tab.set s.launches l x }
def State.setCluster (s : State) (c : Nat) (x : Cluster) : State :=
  { s with clusters := SMap.set s.clusters Cluster.init c x }
def State.setAsid (s : State) (a : Nat) (x : Asid) : State := { s with asids := SMap.set s.asids Asid.init a x }
def State.setMem (s : State) (m : Memory) : State := { s with mem := m }

/-- The byte at a physical address, in plain text (R210); beyond the HBM there is none, and a free value is read. -/
def State.physByte (s : State) (a : Nat) : Byte := if a < hbmBytes then Memory.byte s.mem a else Config.noMemory a s.now

/-- `n` bytes at a physical address. -/
def State.physBytes (s : State) (a n : Nat) : List Byte := (List.range n).map (fun i => s.physByte (a + i))

/-- `n` bytes at a physical address, as a number. -/
def State.physLe (s : State) (a : Nat) (n : Nat) : Nat := leNat ((List.range n).map (fun i => s.physByte (a + i)))

/-- Write bytes at a physical address. -/
def State.physWrite (s : State) (a : Nat) (bs : List Byte) : State := { s with mem := Memory.put s.mem a bs }

def State.modWave (s : State) (w : WaveId) (f : Wave → Wave) : State :=
  match s.wave? w with
  | some x => s.setWave w (f x)
  | none => s
def State.modGang (s : State) (g : GangId) (f : Gang → Gang) : State :=
  match s.gang? g with
  | some x => s.setGang g (f x)
  | none => s
def State.modCrew (s : State) (c : CrewId) (f : Crew → Crew) : State :=
  match s.crew? c with
  | some x => s.setCrew c (f x)
  | none => s
def State.modLaunch (s : State) (l : Nat) (f : Launch → Launch) : State :=
  match s.launch? l with
  | some x => s.setLaunch l (f x)
  | none => s
def State.modCluster (s : State) (c : Nat) (f : Cluster → Cluster) : State := s.setCluster c (f (s.cluster c))
def State.modAsid (s : State) (a : Nat) (f : Asid → Asid) : State := s.setAsid a (f (s.asid a))

/-- R416: whether a cluster is gated. -/
def Cluster.isOff (c : Cluster) : Bool := c.gate == .gated || c.gate == .waking

/-- A free value, and the state in which the next one is another (log entry 7). -/
def State.fresh (s : State) : Nat × State := (Config.freeNat s.free, { s with free := s.free + 1 })

/-- The gang of a wave. -/
def gangOf (w : WaveId) : GangId := ⟨w.crew, w.gang⟩

/-- The 8 waves of a gang. -/
def GangId.waves (g : GangId) : List WaveId := (List.range 8).map (fun v => ⟨g.crew, g.gang, v⟩)

/-- The gangs of a crew. -/
def Crew.gangIds (c : Crew) (id : CrewId) : List GangId := (List.range c.ngangs).map (fun g => ⟨id, g⟩)

/-! ### Launch records (R183) -/

def Launch.dw (l : Launch) (k : Nat) : Dword := l.record.getD k 0
def Launch.asid (l : Launch) : Nat := fld (l.dw 2) 43 32
def Launch.niter (l : Launch) : Nat := fld (l.dw 1) 40 0
def Launch.crewSize (l : Launch) : Nat := fld (l.dw 2) 3 0
def Launch.form (l : Launch) : BitVec 2 := (l.dw 2).extractLsb' 8 2
def Launch.pin (l : Launch) : Bool := (l.dw 3).getLsbD 32
def Launch.allow (l : Launch) : BitVec 3 := (l.dw 3).extractLsb' 0 3
def Launch.ngangs (l : Launch) : Nat := (l.niter + 255) / 256
def Launch.ncrews (l : Launch) : Nat := (l.ngangs + l.crewSize - 1) / l.crewSize

/-! ### The context of an instruction -/

/-- What an instruction of a wave works with: the acting wave, which is the leader in vector form, and what it belongs to,
as they stand when the instruction issues. -/
structure Ctx where
  w : WaveId
  wv : Wave
  g : Gang
  c : Crew
  l : Launch
  kn : Kernel
  deriving DecidableEq, Repr

def ctx? (s : State) (w : WaveId) : Option Ctx :=
  match s.wave? w, s.gang? (gangOf w), s.crew? w.crew, s.launch? w.crew.launch with
  | some wv, some g, some c, some l =>
    match l.kernel with
    | some kn => some ⟨w, wv, g, c, l, kn⟩
    | none => none
  | _, _, _, _ => none

def Ctx.vec (k : Ctx) : Bool := k.g.form == 1
def Ctx.asid (k : Ctx) : Nat := k.l.asid
def Ctx.gid (k : Ctx) : GangId := gangOf k.w
def Ctx.cluster (k : Ctx) : Nat := k.c.cluster

/-- R19: the gang's number g in the launch. -/
def Ctx.gangNo (k : Ctx) : Nat := k.w.crew.crew * k.l.crewSize + k.w.gang

/-- The waves whose registers the instruction works on: its own, or all 8 of the gang in vector form (R148). -/
def Ctx.waves (k : Ctx) : List WaveId := if k.vec then k.gid.waves else [k.w]

/-- R59: the elements of a wave with e < VL in vector form; the current path in threaded form. -/
def Ctx.reach (k : Ctx) (v : WaveId) : Word :=
  if k.vec then
    if 32 * (v.wave + 1) ≤ k.g.vl then 0xFFFFFFFF
    else if k.g.vl ≤ 32 * v.wave then 0
    else BitVec.ofNat 32 (2 ^ (k.g.vl - 32 * v.wave) - 1)
  else k.wv.mask

/-- R59: the active lanes of one wave of the form. -/
def Ctx.act (k : Ctx) (pm : BitVec 3) (pn : Bool) (v : WaveId) (x : Wave) : Word :=
  let m := x.rdM pm.toNat
  (if pn then ~~~m else m) &&& k.reach v

/-- The bytes of code of the executing version. -/
def Ctx.codeLen (k : Ctx) : Nat := if k.vec then k.kn.vLen else k.kn.tLen

/-- The waves of the form with their states. -/
def Ctx.states (k : Ctx) (s : State) : List (WaveId × Wave) :=
  k.waves.filterMap (fun v => (s.wave? v).map (fun x => (v, x)))

/-- R59: the active elements of the instruction, element e being lane e mod 32 of wave e / 32 in vector form. -/
def Ctx.active (k : Ctx) (s : State) (pm : BitVec 3) (pn : Bool) : List Nat :=
  (k.states s).flatMap (fun p =>
    let a := k.act pm pn p.1 p.2
    ((List.range 32).filter (fun l => a.getLsbD l)).map (fun l => if k.vec then 32 * p.1.wave + l else l))

/-- The wave that owns element e. -/
def Ctx.owner (k : Ctx) (e : Nat) : WaveId := if k.vec then { k.w with wave := e / 32 } else k.w

/-- R19: the index j in the gang of element e. -/
def Ctx.iterJ (k : Ctx) (e : Nat) : Nat := if k.vec then e else 32 * k.w.wave + e

/-- R19: the iteration of element e. -/
def Ctx.iter (k : Ctx) (e : Nat) : Nat := 256 * k.gangNo + k.iterJ e

/-- R377: the index in the gang of the iteration that element e stands for: in a SERIAL run, that of the run. -/
def Ctx.termJ (k : Ctx) (e : Nat) : Nat := match k.g.serial with | some r => r.run | none => k.iterJ e

/-- R377: the iteration that a record or a breakpoint gives for element e. -/
def Ctx.term (k : Ctx) (e : Nat) : Nat := 256 * k.gangNo + k.termJ e

/-- Change every wave of the form, each from its state at issue. -/
def Ctx.each (k : Ctx) (s : State) (f : WaveId → Wave → Wave) : State :=
  k.waves.foldl (fun s v => s.modWave v (f v)) s

/-- Apply `f` to the lanes in `act`, in ascending order. -/
def foldLanes (act : Word) (f : Nat → Wave → Wave) (x : Wave) : Wave :=
  (List.range 32).foldl (fun a l => if act.getLsbD l then f l a else a) x

/-- The live mask of a gang, iteration j at bit j (R363): the iterations that have not exited. -/
def State.live (s : State) (g : GangId) : BitVec 256 :=
  g.waves.foldr (fun v (m : BitVec 256) =>
    match s.wave? v with
    | some x => (m <<< 32) ||| (~~~x.exited).setWidth 256
    | none => m <<< 32) 0

/-- The iterations that take part: all that have not exited, or those that a restart runs (R369). -/
def State.takes (s : State) (i : GangId) : BitVec 256 :=
  s.live i &&& ((s.gang? i).map (fun g => g.part)).getD (BitVec.allOnes 256)

/-! ### Fault records (R402 to R409): taking an exception -/

/-- STATUS of a record (R403, R407). -/
inductive RStatus where
  | resumable
  | stops
  | notice
  deriving DecidableEq, Repr

def RStatus.code : RStatus → Nat
  | .resumable => 0
  | .stops => 1
  | .notice => 2

/-- The fields of a record (R403); those that do not apply to its kind are 0, and PMASK is all ones. -/
structure RecF where
  kind : Nat
  cause : Nat := 0
  form : BitVec 2 := 0
  ivl : Bool := false
  site : Option Nat := none
  status : RStatus := .stops
  wave : Nat := 0
  launch : Nat := 0
  eqp : Option Nat := none
  cluster : Nat := 0
  iter : Nat := 0
  taddr : Nat := 0
  voff : Nat := 0
  va : Nat := 0
  pmask : Word := 0xFFFFFFFF
  aux : Nat := 0
  tag : Dword := 0
  paddock : Nat := 0
  blk : Nat := 0
  slot : Nat := 0
  aux2 : Nat := 0
  deriving DecidableEq, Repr

/-- The eight doublewords of a record with its sequence number (R403). -/
def RecF.words (r : RecF) (seq : BitVec 32) : List Dword :=
  let n (w v : Nat) : BitVec w := BitVec.ofNat w v
  [ n 8 r.kind ++ n 8 r.cause ++ r.form ++ BitVec.ofBool r.ivl ++ BitVec.ofBool r.site.isSome
      ++ n 2 r.status.code ++ n 3 r.wave ++ n 7 0 ++ seq,
    n 32 r.launch ++ n 3 0 ++ BitVec.ofBool r.eqp.isSome ++ n 12 (r.eqp.getD 0) ++ n 5 0 ++ n 11 (r.site.getD 0),
    n 8 0 ++ n 8 r.cluster ++ n 8 0 ++ n 40 r.iter,
    n 32 r.taddr ++ n 32 r.voff,
    n 9 0 ++ n 55 r.va,
    r.pmask ++ n 32 r.aux,
    r.tag,
    n 12 r.paddock ++ n 3 r.blk ++ n 7 r.slot ++ n 10 0 ++ n 32 r.aux2 ]

/-- R403: sequence numbers run from 1 and wrap past 0xFFFF_FFFF to 1. -/
def nextSeq (q : BitVec 32) : BitVec 32 := if q == 0xFFFFFFFF then 1 else q + 1

/-- R406: the records the ring holds. -/
def Asid.held (a : Asid) : Nat := (a.tail - a.head).toNat

/-- R406: whether the ring has room for a record. -/
def Asid.room (a : Asid) : Bool := a.log2n != 0 && a.held + 1 < 2 ^ a.log2n

/-- R409: the job stops. Its waves issue nothing more and its places stop firing (`State.stopped` is what every such
step tests); crews, places and queues stay. -/
def State.stopJob (s : State) (a : Nat) : State := s.modAsid a (fun x => { x with stopping := false, stopped := true })

/-- The module has booted (R441). -/
def State.booted (s : State) : Bool := s.bootStat == 1

/-- R16, R441: a step of firmware, which runs only once its image has been verified and loaded. -/
def State.byFirmware (s : State) (o : Out) : Out :=
  if s.booted then o else .refused (.notEnabled "no verified firmware runs")

/-- R445: FRQCTL.OSTLER as it stands: the other ostler of the die while UPDATE reloads the one that it names. -/
def State.ostlerOf (s : State) (a : Nat) : Nat :=
  let o := (s.asid a).frqOstler.toNat
  if s.ostlers.getLsbD o then (if o % 2 = 0 then o + 1 else o - 1) else o

/-- R406: write one record at TAIL, advance TAIL and signal the job's ostler (R402). A STOPS record then stops the job;
STOPS and BREAK records go to the job's fault subscribers (R408, R433, R434). -/
def State.putRecord (s : State) (a : Nat) (d : List Dword) : State :=
  let x := s.asid a
  let base := (fld x.frqBase 51 12) * 4096 + 64 * (x.tail.toNat % 2 ^ x.log2n)
  let s := s.physWrite base (d.flatMap (fun (w : Dword) => leBytes 8 w.toNat))
  let s := { s.setAsid a { x with tail := x.tail + 1 } with signals := s.signals ++ [(s.ostlerOf a, a)] }
  let d0 := d.getD 0 0
  let stops := fld d0 43 42 == 1
  let s := if stops then s.stopJob a else s
  if stops || fld d0 63 56 == 16 then
    let subs := s.subs.filter (fun u => u.asid == a && u.addr == 0)
    let hdr : List Dword := [(0x82 : BitVec 8) ++ (0 : BitVec 4) ++ BitVec.ofNat 12 a ++ (0 : BitVec 40), 0, 0, 0]
    { s with outbox := s.outbox ++ subs.map (fun u => ⟨u.conn, [hdr.getD 0 0 ||| u.ctag.setWidth 64, 0, 0, 0], d⟩) }
  else s

/-- R406: records that found the ring full are written once room exists, in the order they were raised. -/
def State.flush (s : State) (a : Nat) : Nat → State
  | 0 => s
  | n + 1 =>
    let x := s.asid a
    match x.waiting with
    | d :: t => if x.room then State.flush ((s.setAsid a { x with waiting := t }).putRecord a d) a n else s
    | [] => s

/-- TAKING AN EXCEPTION: raise a record for the job of ASID `a` (R402, R406). Answers the record's SEQ. -/
def State.raise (s : State) (a : Nat) (r : RecF) : State × BitVec 32 :=
  let x := s.asid a
  let q := nextSeq x.seq
  let s := s.setAsid a { x with seq := q }
  if x.room && x.waiting.isEmpty then (s.putRecord a (r.words q), q)
  else (s.setAsid a { s.asid a with waiting := x.waiting ++ [r.words q] }, q)

/-- R406, R415: the record that holds a wave has not been written yet. -/
def Wave.unrecorded (x : Wave) (s : State) (a : Nat) : Bool :=
  match x.pending with
  | some q => (s.asid a).waiting.any (fun d => fld (d.getD 0 0) 31 0 == q.toNat)
  | none => false

/-- R406: the ring of a job has room for one more record now. -/
def State.ringRoom (s : State) (a : Nat) : Bool := (s.asid a).room && (s.asid a).waiting.isEmpty

/-- R406, R407: a record of a wave that STOPS its job. While the record waits for room in the ring, its wave waits with
MEMORY, and the job runs on. -/
def State.raiseStops (s : State) (a : Nat) (w : WaveId) (r : RecF) : State :=
  let p := s.raise a r
  if s.ringRoom a then p.1 else p.1.modWave w (fun x => { x with pending := some p.2 })

/-- The job of a crew. -/
def State.asidOf (s : State) (c : CrewId) : Nat := ((s.launch? c.launch).map Launch.asid).getD 0

/-- R408, R409: the job is stopped, or only its older rounds go on. -/
def State.jobOff (s : State) (a : Nat) : Bool := (s.asid a).stopped || (s.asid a).stopping

/-- R409: whether the wave's job is stopped. -/
def Ctx.stopped (k : Ctx) (s : State) : Bool := s.jobOff k.asid

/-- The offset of EQP n in the threaded version. -/
def Kernel.eqpOffT (kn : Kernel) (n : Nat) : Nat := ((kn.eqpT.find? (fun p => p.1 == n)).map Prod.snd).getD 0

/-- R54: the sites that the word at an offset carries. -/
def Kernel.sitesAt (kn : Kernel) (vec : Bool) (off : Nat) : List SiteD :=
  kn.sites.filter (fun d => if vec then d.voff == some off else d.toff == off)

/-- R54, R213: the site that a record of the word at an offset names, with its threaded offset: of several the first of the
image (log entry 124). -/
def Kernel.siteAt (kn : Kernel) (vec : Bool) (off : Nat) : Option SiteD := (kn.sitesAt vec off).head?

/-- How a record of a wave says where it is (R22, R78, R135, R213, R404). -/
inductive RWhere where
  | form
  | interval
  | access
  | terms
  deriving DecidableEq, Repr

/-- The record of an instruction of a wave about element `e` (R403, R404). `.form`: the fault belongs to the form, R78.
`.interval`: in vector form the threaded address is that of the last EQP with IVL set, R135. `.access`: in vector form the
site's threaded address when the word carries one, else the vector offset, R213. `.terms`: in vector form the site's
threaded address when the word carries one, else as `.interval`, R22. Where the gang has reached no EQP, the interval has
TADDR 0 (log entry 117). -/
def Ctx.report (k : Ctx) (kind cause : Nat) (status : RStatus) (e : Nat) (loc : RWhere) : RecF :=
  let pc := k.wv.pc.toNat
  let site := k.kn.siteAt k.vec pc
  let base : RecF :=
    { kind := kind, cause := cause, form := k.g.form, status := status, wave := k.termJ e / 32
      launch := k.w.crew.launch, eqp := k.g.ev, cluster := k.cluster, iter := k.term e
      site := site.map (fun d => d.site) }
  let inForm : RecF := { base with voff := pc }
  let interval : RecF := { inForm with ivl := true, taddr := (k.g.ev.map k.kn.eqpOffT).getD 0 }
  let atSite (r : RecF) : RecF := match site with
    | some d => { base with taddr := d.toff }
    | none => r
  if k.vec then
    match loc with
    | .form => inForm
    | .interval => interval
    | .access => atSite inForm
    | .terms => atSite interval
  else { base with taddr := pc }

/-- The element that a fault of the whole instruction names: the lowest lane of the current path, or the gang's lowest
live iteration that takes part in vector form (R369, R426). -/
def Ctx.first (k : Ctx) (s : State) : Nat :=
  if k.vec then (lowBit (s.takes k.gid)).getD 0 else (lowBit k.wv.mask).getD 0

/-! ### How an instruction ends -/

/-- What the body of an instruction answers: it is done and the next word follows; it has moved the wave itself; it waits
with a stall reason; or it has raised a record and its wave holds at the word. -/
inductive Res where
  | done (s : State)
  | moved (s : State)
  | wait (r : Stall) (s : State)
  | held (s : State)
  deriving Repr

/-- The codes of R190. -/
def Stall.code : Stall → Nat
  | .ready => 0
  | .halted => 1
  | .preempted => 2
  | .throttle => 3
  | .icache => 4
  | .scoreboard => 5
  | .memory => 6
  | .barrier => 7
  | .copywait => 8
  | .qempty => 9
  | .qfull => 10
  | .frecv => 11
  | .eqp => 12

/-- R190: of two reasons that apply, the first of the table. -/
def Stall.first (a b : Stall) : Stall := if a.code ≤ b.code then a else b

/-- The reason for which a body waits. -/
def Res.waits (r : Res) : Option Stall :=
  match r with
  | .wait r _ => some r
  | _ => none

/-- Change the state of an answer that is no wait. -/
def Res.andThen (r : Res) (f : State → State) : Res :=
  match r with
  | .done s => .done (f s)
  | .moved s => .moved (f s)
  | .held s => .held (f s)
  | .wait r s => .wait r s

/-- R190: the reason of a wave for which `r` applies, and `b` too if there is one. -/
def Stall.with (r : Stall) (b : Option Stall) : Stall :=
  match b with
  | some b => b.first r
  | none => r

/-- R371: a saturating 64-bit counter. -/
def sat64 (n : Nat) : Nat := min n (2 ^ 64 - 1)

/-- Whether a slot names a register with one value for each lane. -/
def Slot.lanes (k : Slot) : Bool :=
  match k with
  | .m | .v1 | .v2 | .v4 | .vf _ => true
  | .z | .s | .n => false

/-- Whether a core word works on the elements of a gang in vector form. The others execute once per issue (R88, R114,
R193, R218, R248, R380, R425) and are the leader's alone. -/
def elementwise (i : Instr) : Bool :=
  match kform i with
  | some (f, k) =>
    ((k.dr || k.dw) && k.d.lanes) || k.a.lanes
      || (match f.b, k.b.v with | .v _, some t => t.lanes | _, _ => false)
      || (match k.c with | .reg t => t.lanes | .bits _ => false)
  | none => match mform i, i with
    | some _, .fence _ => false
    | some (_, k), _ => k.data != .s
    | none, _ => match jform i with
      | some (_, d) => d.lanes
      | none => false

/-- R84, R371: the issue slots of an instruction: 1, or ⌈VL / 32⌉ wave instructions for a word that works on the elements
of a vector, at least 1. A word that executes once per issue takes one slot (log entry 96). -/
def Ctx.slots (k : Ctx) (i : Instr) : Nat := if k.vec && elementwise i then max 1 ((k.g.vl + 31) / 32) else 1

/-- The predicate of a core word. -/
def predOf (i : Instr) : BitVec 3 × Bool :=
  match kform i with
  | some (f, _) => (f.pm, f.pn)
  | none => match mform i with
    | some (f, _) => (f.pm, f.pn)
    | none => match bform i with
      | some (f, _) => (f.pm, f.pn)
      | none => match jform i with
        | some (f, _) => (f.pm, f.pn)
        | none => (0, false)

/-- R371: ISSUE and LANEOP of one issued instruction; its active lanes are those at issue, in the state `before`. -/
def countIssue (i : Instr) (k : Ctx) (before s : State) : State :=
  let p := predOf i
  let n := ((k.states before).map (fun q => popc (k.act p.1 p.2 q.1 q.2))).sum
  s.modGang k.gid (fun g => { g with issue := sat64 (g.issue + k.slots i), laneop := sat64 (g.laneop + n) })

/-- The wave has issued: it is ready again, and its next instruction is a new one (R189). -/
def settle (k : Ctx) (s : State) : State :=
  s.modWave k.w (fun x => { x with stall := .ready, since := s.now, passed := 0, bpDone := false, popped := false })

/-- Continue at the next word. -/
def bumpPc (k : Ctx) (s : State) : State := s.modWave k.w (fun x => { x with pc := x.pc + 8 })

/-- Wait at the word with a stall reason (R190). -/
def stallAt (k : Ctx) (r : Stall) (s : State) : State := s.modWave k.w (fun x => { x with stall := r })

/-- Raise a record for an instruction and hold its wave at the word: with RESUMABLE until RESUME, with STOPS because the
job stops (R407). -/
def faultAt (k : Ctx) (r : RecF) (s : State) : State :=
  match r.status with
  | .resumable =>
    let p := s.raise k.asid r
    p.1.modWave k.w (fun x => { x with pending := some p.2 })
  | _ => s.raiseStops k.asid k.w r

/-- R76, R77: the word is illegal. -/
def illegal (k : Ctx) (s : State) : State := faultAt k (k.report 1 0 .stops (k.first s) .form) s

/-! ### Returning from an exception (R407, R408) -/

/-- The waves that a record holds go on: a replay under RPM follows from the wave's own state (R214). -/
def State.releaseWaves (s : State) (a : Nat) (q : BitVec 32) : State :=
  { s with waves := Tab.map s.waves (fun w x =>
      if x.pending == some q && (match s.launch? w.crew.launch with | some l => l.asid == a | none => false)
      then { x with pending := none, stall := .ready } else x) }

end Sys2Proof.Machine
end

