-- ==== Sys2Proof/Machine/Issue.lean ====
section
/-! DEFINITION. What the core does around every instruction of a wave: the registers it reads and writes, the tests before
it takes effect (R56, R76, R77, R84, R278), the queue mappings (R244), the undo log (R419), and how it ends. -/

namespace Sys2Proof.Machine

/-! ### Register use -/

inductive RFile where
  | v
  | s
  | m
  deriving DecidableEq, Repr

abbrev Reg := RFile × Nat

/-- The registers a field names; `wide` tells whether a format entry needs a pair (R131). -/
def Slot.regs (wide : BitVec 6 → Bool) (k : Slot) (r : BitVec 8) : List Reg :=
  let n := r.toNat
  match k with
  | .z => []
  | .n => []
  | .s => if n = 0 then [] else [(.s, n)]
  | .m => if n = 0 then [] else [(.m, n)]
  | .v1 => [(.v, n)]
  | .v2 => [(.v, n), (.v, n + 1)]
  | .v4 => [(.v, n), (.v, n + 1), (.v, n + 2), (.v, n + 3)]
  | .vf e => if wide e then [(.v, n), (.v, n + 1)] else [(.v, n)]

/-- The masks that an operation's modifiers name: read, then written (R94, R101, R158, R252). -/
def cMasks (i : Instr) : List Nat × List Nat :=
  match i with
  | .addc f | .subb f => (if f.c.getLsbD 3 then [fld f.c 2 0] else [], [fld f.c 6 4])
  | .sel f | .cmpr f => ([fld f.c 2 0], [])
  | .qpop f => ([], [fld f.x 2 0])
  | _ => ([], [])

def mregs (l : List Nat) : List Reg := (l.filter (fun n => n != 0)).map (fun n => (.m, n))

/-- The registers a core word reads and those it writes. -/
def regUse (wide : BitVec 6 → Bool) (i : Instr) : List Reg × List Reg :=
  match kform i with
  | some (f, k) =>
    let b := match f.b with
      | .v r => match k.b.v with | some t => t.regs wide r | none => []
      | .s r => Slot.s.regs wide r
      | .imm _ => []
    let c := match k.c with | .reg t => t.regs wide f.c | .bits _ => []
    let d := k.d.regs wide f.d
    ((if k.dr then d else []) ++ k.a.regs wide f.a ++ b ++ c ++ mregs (f.pm.toNat :: (cMasks i).1),
      (if k.dw then d else []) ++ mregs (cMasks i).2)
  | none => match mform i with
    | some (f, k) =>
      let d := k.data.regs wide f.d
      ((if k.dr then d else []) ++ (mBase i f).regs wide f.a ++ (k.bSlot f).regs wide f.b ++ mregs [f.pm.toNat],
        if k.dw then d else [])
    | none => match bform i with
      | some (f, k) =>
        let a := k.a.regs wide f.a
        (a ++ mregs [f.pm.toNat], match i with | .loop _ => a | _ => [])
      | none => match jform i with
        | some (f, k) => (mregs [f.pm.toNat], k.regs wide f.d)
        | none => ([], [])

/-- The registers that an instruction reads as sources and writes: QBIND names a register without reading it (R244). -/
def dataUse (wide : BitVec 6 → Bool) (i : Instr) : List Reg × List Reg :=
  match i with
  | .qbindIn _ | .qbindOut _ | .qbindUnmap _ => ([], [])
  | _ => regUse wide i

/-- R58: every V register is below the wave's allocation; the pair of a wide entry of a format is tested as R135 says, after
this (log entry 146). -/
def regsOk (vregs : Nat) (i : Instr) : Bool :=
  let u := regUse (fun _ => false) i
  (u.1 ++ u.2).all (fun r => r.1 != .v || r.2 < vregs)

/-! ### The format table, as far as register shapes need it (R124 to R127) -/

/-- R126: the fixed entries. -/
def fixedFmt (n : Nat) : Word :=
  [(0x8C2E0FE0 : Word), 0x8DE87FE0, 0x8A9401E0, 0x8C0E0FE0, 0x8A0600E5, 0x8A8401E0, 0x89020029, 0xA80E0009].getD n 0

/-- R127: the crew's format table. -/
def Crew.fmtEntry (c : Crew) (n : Nat) : Word := if n < 8 then fixedFmt n else SMap.get c.fmt 0 n

/-- R124: W = S + EW + FW. -/
def fmtW (w : Word) : Nat := fld w 27 27 + fld w 26 23 + fld w 22 17

def Ctx.wide (k : Ctx) (e : BitVec 6) : Bool := 32 < fmtW (k.c.fmtEntry e.toNat)

/-! ### Named queues (R239 to R241) -/

def Cluster.queue (c : Cluster) (q : Nat) : Queue := SMap.get c.queues Queue.init q

def State.queue (s : State) (c q : Nat) : Queue := (s.cluster c).queue q

def State.setQueue (s : State) (c q : Nat) (x : Queue) : State :=
  s.modCluster c (fun y => { y with queues := SMap.set y.queues Queue.init q x })

/-- R240: bound to an ASID while a crew of it declares the queue, or the queue holds entries or triggers. -/
def Queue.bound (q : Queue) (asid : Nat) : Bool :=
  (q.declarers != 0 || !q.entries.isEmpty || q.trig != 0) && q.asid == asid

/-- R245: the wave is a party of the queue from now on. -/
def State.party (s : State) (c : Nat) (p : Party) : State :=
  s.modCluster c (fun y => if y.parties.contains p then y else { y with parties := p :: y.parties })

/-- The entry that a wave's lanes make (R252): inactive lanes give 0. -/
def laneData (x : Wave) (r : Nat) (act : Word) : BitVec 1024 :=
  (List.range 32).foldr (fun l (d : BitVec 1024) =>
    (d <<< 32) ||| (if act.getLsbD l then (x.rdV r l).setWidth 1024 else 0)) 0

/-- Lane l of an entry. -/
def QEntry.lane (e : QEntry) (l : Nat) : Word := e.data.extractLsb' (32 * l) 32

/-- R241: a pop is an acquire; at DEVICE scope it invalidates L1 (R204). -/
def State.dropL1 (s : State) (c : Nat) : State := s.modCluster c (fun y => { y with l1 := [], l1Past := false })

/-- Append one entry of a wave (R252). -/
def State.qpush (s : State) (cl : Nat) (w : WaveId) (q : Nat) (e : QEntry) : State :=
  let x := s.queue cl q
  (s.setQueue cl q { x with entries := x.entries ++ [e] }).party cl ⟨w, q, true⟩

/-! ### The stores of a cluster and the scopes (R205) -/

/-- The lines of L1. -/
def Cluster.line? (c : Cluster) (k : Nat) : Option (BitVec 1024) := SMap.get c.l1 none k

/-- R205: a store is performed at CREW where its line lies in L1. -/
def Cluster.atCrew (c : Cluster) (p : PStore) : Bool := !p.loc.rmt && (c.line? (p.loc.pa / 128)).isSome

/-- R205: whether a store is still to be performed at a scope: at CREW while neither L1 nor the home channel holds it, at
DEVICE when its page is homed on this module, at DOMAIN always. -/
def Cluster.owesAt (c : Cluster) (scope : Nat) (p : PStore) : Bool :=
  match scope with
  | 0 => !c.atCrew p
  | 1 => !p.loc.rmt
  | _ => true

/-- R219, R222: whether a store is one that a release of a wave at a scope waits for: one still to be performed at that
scope, or one that an STL of the wave stored and that is still to be performed at the scope of the STL (log entry 136). -/
def Cluster.owes (c : Cluster) (w : WaveId) (scope : Nat) (p : PStore) : Bool :=
  c.owesAt scope p || (p.rel != 0 && gangOf p.wave == gangOf w && c.owesAt p.rel p)

/-- R219: a release of a wave of the cluster has to wait. -/
def State.releaseWaits (s : State) (cl : Nat) (w : WaveId) (scope : Nat) : Bool :=
  (s.cluster cl).stores.any ((s.cluster cl).owes w scope)

/-- R205, R395: a release has happened: every agent of the crew sees what its cluster stored before (log entry 97). -/
def State.released (s : State) (cl : Nat) : State :=
  s.modCluster cl (fun c => { c with stores := c.stores.map (fun p => { p with crew := true }) })

/-- R222: the words that a FENCE before them holds as stores: stores, atomics, arrivals at barrier objects, copies, queue
pushes and FSEND. -/
def storeLike (i : Instr) : Bool :=
  match i with
  | .st _ | .stl _ | .atom _ | .cas _ | .vsts _ | .stf _ | .cpy _ | .cpyt _ | .qpush _ | .fsend _ | .sigev _
  | .bara _ | .barx _ => true
  | _ => false

/-- R222: a FENCE.REL or FENCE.AR of the wave `w` holds its later stores still. -/
def State.fenceHolds (s : State) (cl : Nat) (w : WaveId) (x : Wave) : Bool :=
  let c := s.cluster cl
  x.holds.any (fun h => c.stores.any (fun p => p.born < h.before && c.owes w h.scope p))

/-- Take the oldest entry into the active lanes of a wave (R252). -/
def State.qpopInto (s : State) (k : Ctx) (q reg mreg : Nat) (v : WaveId) (act : Word) : State :=
  let x := s.queue k.cluster q
  match x.entries with
  | [] => s
  | e :: t =>
    let s := ((s.setQueue k.cluster q { x with entries := t }).party k.cluster ⟨k.w, q, false⟩).dropL1 k.cluster
    s.modWave v (fun y => foldLanes act (fun l a => (a.wrV reg l (e.lane l)).wrMbit mreg l (e.mask.getLsbD l)) y)

/-! ### Mapped registers (R244) -/

/-- The mappings of the wave that the registers of a list name, each once. -/
def mappedIn (x : Wave) (rs : List Reg) (out : Bool) : List QMap :=
  x.qmaps.filter (fun m => m.out == out && rs.contains (.v, m.reg))

/-- R244: pop one entry for each input-mapped source in turn, up to the first whose queue is empty then (log entry 133). -/
def popMapped (i : Instr) (k : Ctx) : List QMap → State → State × Option QMap
  | [], s => (s, none)
  | m :: t, s =>
    if (s.queue k.cluster m.queue).entries.isEmpty then (s, some m)
    else popMapped i k t (s.qpopInto k m.queue m.reg 0 k.w (k.act (predOf i).1 (predOf i).2 k.w k.wv))

/-- R244, R246: the first mapping of a list whose queue is not bound to the ASID of the wave. -/
def State.unboundMap (s : State) (k : Ctx) (ms : List QMap) : Option QMap :=
  ms.find? (fun m => !(s.queue k.cluster m.queue).bound k.asid)

/-- How many mappings of a list are of one queue. -/
def mapsOf (ms : List QMap) (q : Nat) : Nat := (ms.filter (fun m => m.queue == q)).length

/-- The entries that a word takes from a queue itself, which it names as QPOP does. -/
def ownPops (i : Instr) (k : Ctx) (q : Nat) : Nat :=
  match i with
  | .qpop f => if fld f.c 5 0 = q then (if k.vec then (k.g.vl + 31) / 32 else 1) else 0
  | _ => 0

/-- R244: the first output-mapped destination whose queue has no place for all that the word pushes into it once it has
popped. The push of an FRECV comes when its result does, and finds its place then (log entry 118). -/
def noPlace (i : Instr) (k : Ctx) (s : State) (ms : List QMap) : Option QMap :=
  match i with
  | .frecv _ => none
  | _ => ms.find? (fun m =>
      let q := s.queue k.cluster m.queue
      q.depth + ownPops i k m.queue < q.entries.length + mapsOf ms m.queue)

/-- R242, R246: the word of `k` has had no effect: what it popped in state `s` is back in its queues, and the mapped
registers hold what they held. -/
def unpop (k : Ctx) (s : State) (ms : List QMap) (t : State) : State :=
  let t := ms.foldl (fun t m =>
    t.setQueue k.cluster m.queue { t.queue k.cluster m.queue with entries := (s.queue k.cluster m.queue).entries }) t
  t.modWave k.w (fun x => ms.foldl (fun x m =>
    (List.range 32).foldl (fun x l => x.wrV m.reg l (k.wv.rdV m.reg l)) x) x)

/-- A synchronisation fault; `aux` is the queue, or the offset of the object (R246, R405). -/
def syncFault (k : Ctx) (cause aux : Nat) (s : State) : Res :=
  .held (faultAt k { k.report 5 cause .stops (k.first s) .terms with aux := aux } s)

/-- R244, R241: push the values that mapped registers of a wave hold in some lanes, one entry each; a push is a release. -/
def State.pushRegs (s : State) (cl : Nat) (w : WaveId) (a : Word) (ms : List QMap) : State :=
  let s := if ms.isEmpty then s else s.released cl
  ms.foldl (fun s m =>
    match s.wave? w with
    | some x => s.qpush cl w m.queue ⟨laneData x m.reg a, a⟩
    | none => s) s

/-- R244: push the value of each output-mapped destination. An FRECV with an active lane pushes when its last result has
come (`execResultDeliver`). -/
def pushMapped (i : Instr) (k : Ctx) (s : State) (ms : List QMap) : State :=
  let p := predOf i
  let a := k.act p.1 p.2 k.w k.wv
  match i with
  | .frecv _ => if a == 0 then s.pushRegs k.cluster k.w a ms else s
  | _ => s.pushRegs k.cluster k.w a ms

/-! ### The progress detector (R245) -/

/-- A wave that is a party of some queue, stalled with QEMPTY or QFULL on a queue that still lacks what it needs, with no
record of its own that waits for room (R406). -/
def State.qstalled (s : State) (cl : Nat) (ps : List Party) (w : WaveId) : Bool :=
  ps.any (fun p => p.wave == w) &&
    (match s.wave? w with
      | some x =>
        let q := s.queue cl x.waitq
        ((x.stall == .qempty && q.entries.length < x.waitn) || (x.stall == .qfull && q.depth < q.entries.length + x.waitn))
          && x.pending.isNone && (match s.crew? w.crew with | some c => !c.saved | none => false)
      | none => false)

/-- A party that has not retired (R245). -/
def State.liveParty (s : State) (p : Party) : Bool :=
  match s.wave? p.wave with
  | some x => !x.retired
  | none => false

/-- Whether every party that could end the stall of `w` is in `set`. -/
def State.closedAt (s : State) (ps : List Party) (set : List WaveId) (w : WaveId) : Bool :=
  match s.wave? w with
  | some x => ps.all (fun p =>
      !(p.queue == x.waitq && p.push == (x.stall == .qempty) && s.liveParty p) || set.contains p.wave)
  | none => false

/-- The greatest closed set: drop members that have a way out until none has. -/
def State.closedSet (s : State) (ps : List Party) : Nat → List WaveId → List WaveId
  | 0, set => set
  | n + 1, set => State.closedSet s ps n (set.filter (s.closedAt ps set))

/-- R245: one PROGRESS record for each party of the closed set of a running job in the cluster, if there is one and no
latched trigger of the job's queues with a handler could yet push or pop (log entry 18). -/
def State.detect (s : State) (cl a : Nat) : State :=
  let c := s.cluster cl
  let ps := c.parties.filter (fun p => s.asidOf p.wave.crew == a)
  let all := (ps.map (fun p => p.wave)).eraseDups
  let set := s.closedSet ps all.length (all.filter (s.qstalled cl ps))
  let trig := c.queues.any (fun q => q.2.trig != 0 && q.2.handler.isSome && q.2.asid == a)
  if trig || s.jobOff a then s else
  set.foldl (fun s w =>
    match ctx? s w with
    | some k => s.raiseStops k.asid w { k.report 6 0 .stops (k.first s) .terms with
        aux := k.wv.waitq, aux2 := (s.cluster cl).cycles.toNat % 2 ^ 32 }
    | none => s) s

/-- What a wait with QEMPTY or QFULL lacks: `n` entries or places of a queue. -/
def stallOn (k : Ctx) (q n : Nat) (s : State) : State := s.modWave k.w (fun x => { x with waitq := q, waitn := n })

/-- A word waits with a stall reason; after a stall on a queue the progress detector looks (R245). -/
def waitWith (k : Ctx) (r : Stall) (s : State) : State :=
  let s := stallAt k r s
  if r == .qempty || r == .qfull then s.detect k.cluster k.asid else s

/-! ### The undo log (R419, R420) -/

/-- An entry of the log, 32 bytes. -/
def undoEntry (kind reg lane size : Nat) (vf : Bool) (pc : Word) (addr : Dword) (old : Nat) : List Byte :=
  let d0 : Dword := BitVec.ofNat 4 kind ++ BitVec.ofNat 8 reg ++ BitVec.ofNat 5 lane ++ BitVec.ofNat 3 size
    ++ BitVec.ofBool vf ++ (0 : BitVec 11) ++ pc
  leBytes 8 d0.toNat ++ leBytes 8 addr.toNat ++ leBytes 16 old

/-- Append an entry to the log of a wave; when the ring is full the oldest entry is overwritten. UNDOBASE is taken as a
physical address (log entry 20). -/
def State.undoPush (s : State) (c : Crew) (w : WaveId) (e : List Byte) : State :=
  match s.wave? w with
  | some x =>
    let at_ := c.undoBase.toNat + 0x20000 * (8 * w.gang + w.wave) + 32 * (x.undo % 4096)
    (s.setWave w { x with undo := x.undo + 1 }).physWrite at_ e
  | none => s

/-- Whether a core word writes FCSR: classes 1 and 2, RED and SCAN with a float operation, LDF, STF and CTLWR. -/
def writesFcsr (i : Instr) : Bool :=
  match i with
  | .fadd _ | .fsub _ | .fmul _ | .fma _ | .fmin _ | .fmax _ | .fcmp _ | .fdiv _ | .fsqrt _ | .frcp _ | .frsq _
  | .fex2 _ | .flg2 _ | .fcvti _ | .icvtf _ | .fcvtw _ | .frnd _ | .fscl _ | .cvt _ | .sclq _ | .scld _ | .ndot _
  | .ldf _ | .stf _ | .ctlwr _ => true
  | .red f | .scan f => 8 ≤ fld f.x 3 0
  | _ => false

/-- The units a list of written registers is logged in: a pair is one unit (R419). -/
def undoUnits : List Reg → List (Reg × Bool)
  | (.v, a) :: (.v, b) :: t => if b == a + 1 && a % 2 == 0 then ((.v, a), true) :: undoUnits t
      else ((.v, a), false) :: undoUnits ((.v, b) :: t)
  | r :: t => (r, false) :: undoUnits t
  | [] => []

/-- R420: one entry per written lane or element, with the values before the instruction; the leader logs S writes. An
element of a mask is its bit (log entry 119). Lanes that a partial completion has done before, or leaves for replay
(R214), are not written. -/
def undoRegs (i : Instr) (k : Ctx) (before after : State) : State :=
  if k.c.debug then
    let p := predOf i
    let ws := undoUnits (dataUse k.wide i).2
    let pc := k.wv.pc
    let vf := k.vec
    let s := (k.states before).foldl (fun s q =>
      let left := match after.wave? q.1 with | some x => if x.rpm == 0xFFFFFFFF then 0 else x.rpm | none => 0
      let act := k.act p.1 p.2 q.1 q.2 &&& q.2.rpm &&& ~~~left
      let s := ws.foldl (fun s u =>
        let n := u.1.2
        match u.1.1 with
        | .v => ((List.range 32).filter (fun l => act.getLsbD l)).foldl
            (fun s l => s.undoPush k.c q.1 (if u.2 then undoEntry 2 n l 0 vf pc 0 (q.2.rdD n l).toNat
              else undoEntry 1 n l 0 vf pc 0 (q.2.rdV n l).toNat)) s
        | .m => ((List.range 32).filter (fun l => act.getLsbD l)).foldl
            (fun s l => s.undoPush k.c q.1 (undoEntry 4 n l 0 vf pc 0 ((q.2.rdM n).getLsbD l).toNat)) s
        | .s => s) s
      if writesFcsr i then s.undoPush k.c q.1 (undoEntry 5 0 0 0 vf pc 0 q.2.fcsr.toNat) else s) after
    ws.foldl (fun s u => if u.1.1 == .s then
        s.undoPush k.c k.w (undoEntry 3 u.1.2 0 0 vf pc 0 (k.wv.rdS u.1.2).toNat) else s) s
  else after

/-- R244, R420: log what the pops of a word's input-mapped registers overwrote. -/
def logPops (i : Instr) (k : Ctx) (ms : List QMap) (s : State) : State :=
  if k.c.debug then
    let act := k.act (predOf i).1 (predOf i).2 k.w k.wv
    ms.foldl (fun s m => ((List.range 32).filter (fun l => act.getLsbD l)).foldl
      (fun s l => s.undoPush k.c k.w (undoEntry 1 m.reg l 0 k.vec k.wv.pc 0 (k.wv.rdV m.reg l).toNat)) s) s
  else s

/-! ### Before an instruction takes effect -/

/-- Words that transfer control themselves and test R56 themselves, EQP, after which the gang may leave the version
(`landsIn`), and TRAP.STOP, after which no lane continues. -/
def transfers (i : Instr) : Bool :=
  match i with
  | .trap f => f.c.getLsbD 0
  | .br _ | .brm _ | .brs _ | .call _ | .callxV _ | .callxS _ | .jmpxV _ | .jmpxS _ | .ret _ | .exit _ | .loop _
  | .join _ | .eqp _ => true
  | _ => false

/-- R56: an offset is the address of a word of the version. -/
def Ctx.inside (k : Ctx) (off : Nat) : Bool := off % 8 == 0 && off + 8 ≤ k.codeLen

/-- R76: the word is legal in this form and with this allocation, and the wave can go on after it (R56). -/
def Ctx.legal (k : Ctx) (i : Instr) : Bool :=
  formOk i k.vec && regsOk k.kn.vregs i && (transfers i || k.inside (k.wv.pc.toNat + 8))

/-- R278: a register has lanes that wait for a result. -/
def recvPending (k : Ctx) (s : State) (rs : List Reg) : Bool :=
  (k.states s).any (fun q => q.2.recvs.any (fun r =>
    rs.contains (.v, r.reg) || (r.pair && rs.contains (.v, r.reg + 1))))

/-- R273: an S register waits for a class 7 operation of the wave. -/
def fopPending (k : Ctx) (rs : List Reg) : Bool :=
  k.c.fops.any (fun o => o.gang == k.w.gang && o.wave == k.w.wave && rs.contains (.s, o.d))

/-- The registers of a word whose pending results hold it: those it reads, and those it writes, since no order of
instructions yields a stale value (R84). -/
def Ctx.awaits (k : Ctx) (i : Instr) : List Reg := (dataUse k.wide i).1 ++ (dataUse k.wide i).2

/-- The input-mapped sources and the output-mapped destinations of a word (R244). A replay pops nothing again. -/
def Ctx.maps (k : Ctx) (i : Instr) : List QMap × List QMap :=
  (if k.wv.popped then [] else mappedIn k.wv (dataUse k.wide i).1 false, mappedIn k.wv (dataUse k.wide i).2 true)

/-- R190: a reason to wait, and on a queue the number of the queue and the entries or places that it lacks. -/
abbrev Waiting := Stall × Option (Nat × Nat)

/-- The reasons that a word has to wait before it is looked at, in the order of R190: the scoreboard (R84, R273), a FENCE
that holds stores and pushes (R222), the release of its pushes (R241), its mapped queues (R244), pending results (R278). A
mapped queue that is not bound is no reason to wait: it faults (R246). -/
def waitings (i : Instr) (k : Ctx) (s : State) : List Waiting :=
  let m := k.maps i
  let p := popMapped i k m.1 s
  let bound := (s.unboundMap k (m.1 ++ m.2)).isNone
  (if fopPending k (k.awaits i) then [(.scoreboard, none)] else [])
    ++ (if (storeLike i || !m.2.isEmpty) && s.fenceHolds k.cluster k.w k.wv then [(.memory, none)] else [])
    ++ (if bound && !m.2.isEmpty && s.releaseWaits k.cluster k.w 0 then [(.memory, none)] else [])
    ++ (if !bound then [] else match p.2 with
        | some q => [(.qempty, some (q.queue, mapsOf m.1 q.queue))]
        | none => match noPlace i k p.1 m.2 with
          | some q => [(.qfull, some (q.queue, mapsOf m.2 q.queue))]
          | none => [])
    ++ (if recvPending k s (k.awaits i) then [(.frecv, none)] else [])

/-- How an instruction ends. -/
def finish (i : Instr) (k : Ctx) (before : State) (r : Res) : State :=
  match r with
  | .done s => settle k (bumpPc k (countIssue i k before (undoRegs i k before s)))
  | .moved s => settle k (countIssue i k before (undoRegs i k before s))
  | .wait r s => waitWith k r s
  | .held s => s

/-- R129: the FMTWs that wait, as the trial `t` of a body noted them. -/
def State.noteFmtw (s t : State) (c : CrewId) : State :=
  match t.crew? c with
  | some x => s.modCrew c (fun y => { y with fmtw := x.fmtw })
  | none => s

/-- A word waits for a reason that it had before it was looked at, or for its own, which the trial `r` of its body tells,
where that comes first in R190. An FMTW that waits for matrix work is noted whatever else it waits for (R129). -/
def waitFor (k : Ctx) (x : Waiting) (r : Res) (s : State) : State :=
  match r with
  | .wait own t =>
    let s := s.noteFmtw t k.w.crew
    if x.1.code < own.code then waitWith k x.1 ((x.2.map (fun q => stallOn k q.1 q.2 s)).getD s)
    else if own == .qempty || own == .qfull then waitWith k own t
    else waitWith k own s
  | _ => waitWith k x.1 ((x.2.map (fun q => stallOn k q.1 q.2 s)).getD s)

/-- A word under mappings holds at a record. Where some of its lanes have completed (R214) its pops stay, and the replay
makes none; where nothing has taken effect (R77, R135, R246) they are undone. -/
def heldMaps (i : Instr) (k : Ctx) (s : State) (ms : List QMap) (t : State) : State :=
  match t.wave? k.w with
  | some x =>
    if x.rpm != 0xFFFFFFFF && !ms.isEmpty then (logPops i k ms t).modWave k.w (fun x => { x with popped := true })
    else unpop k s ms t
  | none => t

/-- The body of an instruction under the mappings of its wave, which has what it needs (R244): it pops, executes and
pushes, each push a release at CREW scope (R241). A word that waits keeps what it noted of its wait, and pops again when
it is tried again. -/
def withMaps (i : Instr) (k : Ctx) (s : State) (body : Ctx → State → Res) : State :=
  let m := k.maps i
  let p := (popMapped i k m.1 s).1
  match body { k with wv := (p.wave? k.w).getD k.wv } p with
  | .done t => finish i k p (.done (pushMapped i k (logPops i k m.1 t) m.2))
  | .moved t => finish i k p (.moved (pushMapped i k (logPops i k m.1 t) m.2))
  | .wait r t => finish i k s (.wait r (unpop k s m.1 t))
  | .held t => finish i k s (.held (heldMaps i k s m.1 t))

/-- An instruction of the wave in focus: the tests before its effect, legality (R77), the reasons to wait and the bindings
of its mapped queues (R246), and then its body. -/
def issueAt (i : Instr) (k : Ctx) (s : State) (body : Ctx → State → Res) : State :=
  if !k.legal i then illegal k s
  else match waitings i k s with
  | x :: _ => waitFor k x (body k s) s
  | [] => match s.unboundMap k ((k.maps i).1 ++ (k.maps i).2) with
    | some m => finish i k s (syncFault k 3 m.queue s)
    | none => withMaps i k s body

/-- Every core word is executed by the wave in focus; where no wave acts there is nothing to execute it. -/
def issueCore (i : Instr) (s : State) (body : Ctx → State → Res) : Out :=
  match s.focus with
  | .wave w =>
    match ctx? s w with
    | some k => .next (issueAt i k { s with focus := .none } body)
    | none => .refused .noWave
  | _ => .refused .noWave

end Sys2Proof.Machine
end

