-- ==== Sys2Proof/Machine/Xlat.lean ====
section
/-! DEFINITION. Translation and protection (R206 to R211), the home channels, L1 (R204, R205), and instruction fetch. -/

namespace Sys2Proof.Machine

/-! ### Page table entries (R208) -/

def pteV (e : Dword) : Bool := e.getLsbD 0
def pteW (e : Dword) : Bool := e.getLsbD 2
def pteX (e : Dword) : Bool := e.getLsbD 3
def pteRmt (e : Dword) : Bool := e.getLsbD 4
def pteA (e : Dword) : Bool := e.getLsbD 5
def pteD (e : Dword) : Bool := e.getLsbD 6
def pteG (e : Dword) : Bool := e.getLsbD 7
def pteKind (e : Dword) : Nat := fld e 15 12
def pteKey (e : Dword) : Nat := fld e 63 52
/-- The physical address that PFN gives. -/
def ptePa (e : Dword) : Nat := fld e 51 16 * 2 ^ 16

/-- A malformed entry at level 1, 2 or 3 (R208). -/
def pteBad (level : Nat) (e : Dword) : Bool :=
  if pteKind e = 0 then level == 3 || fld e 63 52 != 0 || fld e 11 1 != 0
  else level == 1 || 3 ≤ pteKind e || fld e 11 8 != 0 || fld e 1 1 != 0 || (level == 2 && fld e 28 16 != 0)

/-- What an access asks of the entry that maps its page, and which bits it sets there (R209). -/
structure Use where
  w : Bool
  x : Bool
  a : Bool
  d : Bool
  deriving DecidableEq, Repr

def useLoad : Use := ⟨false, false, true, false⟩
def useStore : Use := ⟨true, false, true, true⟩
def useCas : Use := ⟨true, false, true, false⟩
def useFetch : Use := ⟨false, true, true, false⟩
def usePref : Use := ⟨false, false, false, false⟩

/-- R215: an uncorrectable error among `n` bytes from `pa`. -/
def State.eccHbm (s : State) (pa n : Nat) : Bool :=
  s.ecc.any (fun x => match x with
    | .hbm k => pa / 32 ≤ k && k ≤ (pa + n - 1) / 32
    | _ => false)

/-- R215: an uncorrectable error among `n` bytes of a crew's memory. -/
def State.eccCrw (s : State) (c : CrewId) (o n : Nat) : Bool :=
  s.ecc.any (fun x => match x with
    | .crw d k => d == c && o ≤ k && k < o + n
    | _ => false)

/-- One entry of a table, or the cause that its read meets (R213). -/
def State.pteAt (s : State) (level pa : Nat) : Except Nat Dword :=
  if s.eccHbm pa 8 then .error 10
  else
    let e : Dword := BitVec.ofNat 64 (s.physLe pa 8)
    if !pteV e then .error 4 else if pteBad level e then .error 7 else .ok e

/-- R209, R210: the key bound to an ASID. -/
def State.keyOf (s : State) (asid : Nat) : Nat := ((s.asid asid).keybind.map BitVec.toNat).getD asid

/-- R207, R213: the walk. -/
def State.walk (s : State) (asid va : Nat) : Except Nat Tlb := do
  let e1 ← s.pteAt 1 (ptePa (s.asid asid).ptroot + 8 * bits va 54 42)
  let h2 := ptePa e1 + 8 * bits va 41 29
  let e2 ← s.pteAt 2 h2
  let t ← if pteKind e2 = 0 then do
      let h3 := ptePa e2 + 8 * bits va 28 16
      let e3 ← s.pteAt 3 h3
      pure (⟨asid, va / 2 ^ 16, false, e3, h3⟩ : Tlb)
    else pure (⟨asid, va / 2 ^ 16, true, e2, h2⟩ : Tlb)
  if !pteG t.pte && pteKey t.pte != s.keyOf asid then .error 8 else pure t

/-- The location that a translation gives an address (R207, R211), and the key of the access (R208, R210). -/
def Tlb.loc (t : Tlb) (va : Nat) : Loc :=
  ⟨pteRmt t.pte, if t.big then ptePa t.pte / 2 ^ 29 * 2 ^ 29 + va % 2 ^ 29 else ptePa t.pte + va % 2 ^ 16, pteKey t.pte⟩

/-- Whether lines of the page may lie in L1 (R204). -/
def Tlb.l1able (t : Tlb) : Bool := pteKind t.pte == 1 && !pteRmt t.pte

/-- A held translation that serves an address. -/
def Tlb.serves (t : Tlb) (asid va : Nat) : Bool :=
  (t.asid == asid || pteG t.pte) && (if t.big then t.vpn / 2 ^ 13 == va / 2 ^ 29 else t.vpn == va / 2 ^ 16)

/-- Whether something that a cache once held is still there: a free value (log entry 13). -/
def State.stillHeld (s : State) : Bool × State := (s.fresh.1 % 2 == 0, s.fresh.2)

/-- R206: the translation tile of an address. -/
def tileOf (va : Nat) : Nat := (bits va 28 16 ^^^ bits va 41 29 ^^^ bits va 54 42) % 104

/-- What a tile holds. -/
def State.tile (s : State) (n : Nat) : List Tlb := SMap.get s.tiles [] n

def State.setTile (s : State) (n : Nat) (l : List Tlb) : State := { s with tiles := SMap.set s.tiles [] n l }

/-- R206: the tile that the address hashes to, then the walk. -/
def State.tileLookup (s : State) (asid va : Nat) : State × Except Nat Tlb :=
  match (s.tile (tileOf va)).find? (fun t => t.serves asid va) with
  | some t =>
    let h := s.stillHeld
    if h.1 then (h.2, .ok t)
    else (h.2.setTile (tileOf va) ((s.tile (tileOf va)).filter (fun u => !u.serves asid va)), h.2.walk asid va)
  | none => (s, s.walk asid va)

/-- R206: the L1 TLB, then the tile, then the walk. -/
def State.lookup (s : State) (cl asid va : Nat) : State × Except Nat Tlb :=
  match (s.cluster cl).tlb.find? (fun t => t.serves asid va) with
  | some t =>
    let h := s.stillHeld
    if h.1 then (h.2, .ok t)
    else (h.2.modCluster cl (fun c => { c with tlb := c.tlb.filter (fun u => !u.serves asid va) })).tileLookup asid va
  | none => s.tileLookup asid va

/-- R209: set A and D in the entry in memory and in the held copy. -/
def State.touch (s : State) (t : Tlb) (u : Use) : State × Tlb :=
  let bitsOr : Dword := (if u.a && !pteA t.pte then 32 else 0) ||| (if u.d && !pteD t.pte then 64 else 0)
  if bitsOr == 0 then (s, t)
  else
    let old : Dword := BitVec.ofNat 64 (s.physLe t.home 8)
    (s.physWrite t.home (leBytes 8 (old ||| bitsOr).toNat), { t with pte := t.pte ||| bitsOr })

/-- A translation put first among at most `n`. -/
def holdIn (t : Tlb) (l : List Tlb) (n : Nat) : List Tlb :=
  (t :: l.filter (fun u => !(u.vpn == t.vpn && u.asid == t.asid && u.big == t.big))).take n

/-- Hold a translation in the tile of the address that needed it, which holds 16,384 entries (R206). -/
def State.holdTile (s : State) (va : Nat) (t : Tlb) : State :=
  s.setTile (tileOf va) (holdIn t (s.tile (tileOf va)) 16384)

/-- Hold a translation in the cluster's L1 TLB (512 entries, R10) and in the tile of the address. -/
def State.hold (s : State) (cl va : Nat) (t : Tlb) : State :=
  (s.modCluster cl (fun c => { c with tlb := holdIn t c.tlb 512 })).holdTile va t

/-- R213: the cause that an entry gives for a use. -/
def useCause (u : Use) (t : Tlb) : Option Nat :=
  if u.x && !pteX t.pte then some 6 else if u.w && !pteW t.pte then some 5 else none

/-- R213: translate one address for one use: the entry that maps it, or the first cause. -/
def State.xlat (s : State) (cl asid va : Nat) (u : Use) : State × Except Nat Tlb :=
  match s.lookup cl asid va with
  | (s, .error c) => (s, .error c)
  | (s, .ok t) =>
    match useCause u t with
    | some c => (s, .error c)
    | none =>
      let q := s.touch t u
      (q.1.hold cl va q.2, .ok q.2)

/-- R310: translate for a node access, through a tile. -/
def State.xlatTile (s : State) (asid va : Nat) (u : Use) : State × Except Nat Tlb :=
  match s.tileLookup asid va with
  | (s, .error c) => (s, .error c)
  | (s, .ok t) =>
    match useCause u t with
    | some c => (s, .error c)
    | none =>
      let q := s.touch t u
      (q.1.holdTile va q.2, .ok q.2)

/-! ### Home channels and the stores that are not performed yet (R205) -/

/-- R211: whether the home of a location answers. -/
def State.answers (s : State) (l : Loc) : Bool := !l.rmt || s.remoteUp.contains (l.pa / 2 ^ 44)

/-- R210: the key at an index of the key store. -/
def State.keyVal (s : State) (k : Nat) : BitVec 256 := SMap.get s.keys 0 k

/-- R210, R211: the key of an access, in the key store of the module that is the location's home. -/
def State.keyAt (s : State) (l : Loc) : BitVec 256 := if l.rmt then Config.memberKey (l.pa / 2 ^ 44) l.key else s.keyVal l.key

/-- R210: the key under which the line of a location was last written. A line of another module that this one has not
written is under the key of the page (log entry 125). -/
def State.wroteKey (s : State) (l : Loc) : BitVec 256 :=
  if l.rmt then
    match SMap.get s.remoteKey none (l.pa / 128) with
    | some k => Config.memberKey (l.pa / 2 ^ 44) k
    | none => s.keyAt l
  else SMap.get s.lineKey 0 (l.pa / 128)

/-- The memory in which a location lies. -/
def State.store (s : State) (l : Loc) : Memory := if l.rmt then s.remote else s.mem

/-- R210: the 128 bytes of the line of a location as an access sees them: the plain text where the line was written under
the key of the access or is in the memory-side cache, and else what decrypting under that key makes of what encrypting under
the other has written. -/
def State.lineAs (s : State) (l : Loc) : BitVec 1024 :=
  let v := BitVec.ofNat 1024 (Memory.le (s.store l) (128 * (l.pa / 128)) 128)
  if s.wroteKey l == s.keyAt l || Config.inCache l.rmt (l.pa / 128) s.now then v
  else decLine (s.keyAt l) (128 * (l.pa / 128)) (encLine (s.wroteKey l) (128 * (l.pa / 128)) v)

/-- What the home channel answers for a byte (R210, R14). -/
def State.homeByte (s : State) (l : Loc) : Byte :=
  if !l.rmt && hbmBytes ≤ l.pa then Config.noMemory l.pa s.now
  else if s.wroteKey l == s.keyAt l then Memory.byte (s.store l) l.pa
  else (s.lineAs l).extractLsb' (8 * (l.pa % 128)) 8

/-- R210: a line is from now on one that is written under the key of an access; it holds what the access sees. -/
def State.rekey (s : State) (l : Loc) (line : Nat) : State :=
  let m : Loc := { l with pa := 128 * line }
  let same := s.wroteKey m == s.keyAt m
  let v := Memory.setLe (s.store m) (128 * line) 128 (s.lineAs m).toNat
  if l.rmt then
    { s with
      remote := if same then s.remote else v
      remoteKey := SMap.set s.remoteKey none line (some l.key) }
  else if same then s
  else { s with mem := v, lineKey := SMap.set s.lineKey 0 line (s.keyAt m) }

/-- The lines that `n` bytes from an address lie in. -/
def linesOf (a n : Nat) : List Nat :=
  if n = 0 then [] else (List.range ((a + n - 1) / 128 + 1 - a / 128)).map (fun i => a / 128 + i)

/-- A write at the home channel. -/
def State.homeWrite (s : State) (l : Loc) (bs : List Byte) : State :=
  let s := ((linesOf l.pa bs.length).filter (fun n => l.rmt || 128 * n < hbmBytes)).foldl (fun s n => s.rekey l n) s
  if l.rmt then { s with remote := Memory.write s.remote l.pa bs } else s.physWrite l.pa bs

def State.homeRead (s : State) (l : Loc) : Nat → List Byte
  | 0 => []
  | n + 1 => s.homeByte l :: s.homeRead { l with pa := l.pa + 1 } n

/-- Byte of a pending store at a location. -/
def PStore.at (p : PStore) (l : Loc) : Option Byte :=
  if p.loc.rmt == l.rmt && p.loc.pa ≤ l.pa then p.bytes[l.pa - p.loc.pa]? else none

/-- Whether a pending store touches `n` bytes from a location. -/
def PStore.touches (p : PStore) (l : Loc) (n : Nat) : Bool :=
  p.loc.rmt == l.rmt && p.loc.pa < l.pa + n && l.pa < p.loc.pa + p.bytes.length

/-- The youngest pending store's byte at a location. -/
def pendByte (ps : List PStore) (l : Loc) : Option Byte := ps.foldl (fun a p => (p.at l).or a) none

/-- A byte as the cluster sees it: its own pending stores over the home channel (log entry 14). -/
def State.seenByte (s : State) (cl : Nat) (l : Loc) : Byte := (pendByte (s.cluster cl).stores l).getD (s.homeByte l)

def State.seen (s : State) (cl : Nat) (l : Loc) : Nat → List Byte
  | 0 => []
  | n + 1 => s.seenByte cl l :: s.seen cl { l with pa := l.pa + 1 } n

/-- Perform a store at its home channel. -/
def State.perform (s : State) (p : PStore) : State := s.homeWrite p.loc p.bytes

/-- Of a list of stores, oldest first, those that `pick` names and those that must come before one of them, since they
touch its bytes and are older; and the rest. -/
def pickStores (pick : PStore → Bool) (ps : List PStore) : List PStore × List PStore :=
  ps.foldr (fun p r =>
    if pick p || r.1.any (fun q => q.touches p.loc p.bytes.length) then (p :: r.1, r.2) else (r.1, p :: r.2)) ([], [])

/-- Perform the pending stores of a cluster that `pick` names, oldest first, each after the older ones to its bytes. -/
def State.performPicked (s : State) (cl : Nat) (pick : PStore → Bool) : State :=
  let r := pickStores pick (s.cluster cl).stores
  (r.1.foldl State.perform s).modCluster cl (fun c => { c with stores := r.2 })

/-- R205: one of the stores that performing those which `pick` names performs has a home that does not answer. -/
def State.silentStore (s : State) (cl : Nat) (pick : PStore → Bool) : Bool :=
  (pickStores pick (s.cluster cl).stores).1.any (fun p => !s.answers p.loc)

/-- Perform the cluster's pending stores that touch a range. -/
def State.performRange (s : State) (cl : Nat) (l : Loc) (n : Nat) : State := s.performPicked cl (fun p => p.touches l n)

/-- R387, R395: an agent of a crew other than its waves (a copy, a feed, a generator, a node) reads a range at its home
channel; the stores of the crew's cluster that a release has covered are performed there first. -/
def State.crewSees (s : State) (cl : Nat) (l : Loc) (n : Nat) : State := s.performPicked cl (fun p => p.crew && p.touches l n)

/-! ### L1 (R204) -/

/-- A cache of at most `n` lines takes a line `k`: a full one gives up one of its lines, which a free value names. -/
def roomFor {α : Type} (n k : Nat) (m : SMap α) (s : State) : SMap α × State :=
  if m.length < n || m.any (fun p => p.1 == k) then (m, s) else (m.eraseIdx (s.fresh.1 % m.length), s.fresh.2)

/-- Change or drop a line of L1. -/
def State.setLine (s : State) (cl k : Nat) (v : Option (BitVec 1024)) : State :=
  s.modCluster cl (fun c => { c with l1 := SMap.set c.l1 none k v })

/-- R10: L1 holds 512 KiB, 4,096 lines. -/
def State.putLine (s : State) (cl k : Nat) (v : BitVec 1024) : State :=
  let r := roomFor 4096 k (s.cluster cl).l1 s
  r.2.modCluster cl (fun c => { c with l1 := SMap.set r.1 none k (some v) })

/-- The `n` bytes of a line from offset `o`. -/
def lineBytes (v : BitVec 1024) (o n : Nat) : List Byte := leBytes n (v.toNat / 2 ^ (8 * o))

/-- A line with bytes written at offset `o`. -/
def linePut (v : BitVec 1024) (o : Nat) (bs : List Byte) : BitVec 1024 :=
  BitVec.ofNat 1024 (leNat (lineBytes v 0 o ++ bs ++ lineBytes v (o + bs.length) (128 - o - bs.length)))

/-- R204, R391: a store updates the line when it is present. -/
def State.l1Store (s : State) (cl : Nat) (l : Loc) (bs : List Byte) : State :=
  if l.rmt then s else
  match (s.cluster cl).line? (l.pa / 128) with
  | some v => s.setLine cl (l.pa / 128) (some (linePut v (l.pa % 128) bs))
  | none => s

/-- Issue a store under a translation: it is performed at its home channel later (MEMORY_ACCESS_RESPONSE). A store of 16
bytes is two of 8, since it may tear there (R218). -/
def State.putStore (s : State) (cl : Nat) (w : WaveId) (va : Nat) (l : Loc) (t : Tlb) (bs : List Byte) : State :=
  let mk (o : Nat) (b : List Byte) : PStore := ⟨w, s.now, { l with pa := l.pa + o }, b, BitVec.ofNat 64 (va + o), t, false, 0⟩
  let ps := if bs.length = 16 then [mk 0 (bs.take 8), mk 8 (bs.drop 8)] else [mk 0 bs]
  (s.l1Store cl l bs).modCluster cl (fun c => { c with stores := c.stores ++ ps })

/-- A read-modify-write at the home channel (R220): earlier stores of the cluster to the location come first, and a line
of L1 that holds it is dropped, since it would read older (R392). Answers the old value. -/
def State.rmw (s : State) (cl : Nat) (l : Loc) (n : Nat) (f : Nat → Option Nat) : State × Nat :=
  let s := s.performRange cl l n
  let o := leNat (s.homeRead l n)
  let s := if l.rmt then s else s.setLine cl (l.pa / 128) none
  match f o with
  | some v => (s.homeWrite l (leBytes n v), o)
  | none => (s, o)

/-- R390, R391: a node of a crew of the cluster acquires at the home channel, or stores past L1. -/
def State.pastL1 (s : State) (cl : Nat) : State := s.modCluster cl (fun c => { c with l1Past := true })

/-- R204, R395: the effect of an acquire on L1. At CREW scope it invalidates L1 where a node of the cluster has acquired or
stored past L1, since what that orders is then before the loads that follow. -/
def State.acquire (s : State) (cl scope : Nat) : State :=
  if scope = 0 && !(s.cluster cl).l1Past then s else s.dropL1 cl

/-! ### Remote windows (R211) -/

/-- R211: the 64 windows from key `base` on count a delivered element of a remote address: DELIV by 1, and STARVE by the
cycles that the requester waited, which are timing and free (log entry 98). Both saturate at 2^48 − 1. -/
def State.countWindows (s : State) (base : Nat) (l : Loc) : State :=
  if !l.rmt then s else
  (List.range 64).foldl (fun s k =>
    let key := base + k
    let w := SMap.get s.windows Window.init key
    let n := fld w.base 5 0
    if 16 ≤ n && l.pa / 2 ^ n == fld w.base 63 16 * 2 ^ 16 / 2 ^ n then
      let w := { w with deliv := min (w.deliv + 1) (2 ^ 48 - 1), starve := min (w.starve + s.fresh.1) (2 ^ 48 - 1) }
      { s.fresh.2 with windows := SMap.set s.windows Window.init key w }
    else s) s

/-- The key of a channel's window pair in `windows`; those of slice ports come first. -/
def chWindow (h k : Nat) : Nat := 64 * 104 + 64 * h + k

/-- R211: a remote access that leaves through the slice port of a cluster. What counts as one element delivered is log entry
147. -/
def State.countRemote (s : State) (cl : Nat) (l : Loc) : State := s.countWindows (64 * cl) l

/-- R211: a remote access of the device itself, which passes no slice port, leaves through a channel; which one is a free
value (log entry 98). -/
def State.countChannel (s : State) (l : Loc) : State :=
  if l.rmt then s.fresh.2.countWindows (chWindow (s.fresh.1 % 256) 0) l else s

/-! ### Accesses of the device itself -/

/-- Where an access of the device lies, or the cause it meets (R212). -/
def State.devAt (s : State) (asid va n : Nat) (u : Use) : State × Except Nat Loc :=
  if 2 ^ 55 < va + n then (s, .error 2)
  else match s.xlatTile asid va u with
    | (s, .error c) => (s, .error c)
    | (s, .ok t) =>
      let l := t.loc va
      if !s.answers l then (s, .error 9)
      else if !l.rmt && s.eccHbm l.pa n then (s, .error 10)
      else (s.countChannel l, .ok l)

/-! ### Instruction lines (R181, R191) -/

/-- The key of an instruction line: the address space and the line, counted as address / 128 (R191). -/
def ilineKey (asid line : Nat) : Nat := asid * 2 ^ 48 + line

def Cluster.iline? (c : Cluster) (asid line : Nat) : Option (BitVec 1024) := SMap.get c.icache none (ilineKey asid line)

/-- R10: the instruction cache holds 256 KiB, 2,048 lines. -/
def State.setIline (s : State) (cl asid line : Nat) (v : Option (BitVec 1024)) : State :=
  let r := match v with
    | some _ => roomFor 2048 (ilineKey asid line) (s.cluster cl).icache s
    | none => ((s.cluster cl).icache, s)
  r.2.modCluster cl (fun c => { c with icache := SMap.set r.1 none (ilineKey asid line) v })

/-- Fetch one instruction line from its home channel: the line, or the cause (R212). -/
def State.fetchLine (s : State) (cl asid line : Nat) : State × Except Nat Unit :=
  match s.xlat cl asid (128 * line) useFetch with
  | (s, .error c) => (s, .error c)
  | (s, .ok t) =>
    let l := t.loc (128 * line)
    if !s.answers l then (s, .error 9)
    else if !l.rmt && s.eccHbm l.pa 128 then (s, .error 10)
    else ((s.countRemote cl l).setIline cl asid line (some (BitVec.ofNat 1024 (leNat (s.homeRead l 128)))), .ok ())

/-- The virtual address of an offset of the version that executes. -/
def Ctx.codeVa (k : Ctx) (off : Nat) : Nat := k.kn.image.toNat + (if k.vec then k.kn.vOff else k.kn.tOff) + off

/-- The word at an offset, if its line is in the instruction cache. -/
def Ctx.word? (k : Ctx) (s : State) (off : Nat) : Option Dword :=
  let va := k.codeVa off
  ((s.cluster k.cluster).iline? k.asid (va / 128)).map (fun v => v.extractLsb' (8 * (va % 128)) 64)

end Sys2Proof.Machine
end

