-- ==== Sys2Proof/Machine/Fetch.lean ====
section
/-! DEFINITION. From a wave or a firing to the instruction it runs: what keeps a wave from issuing (R190), instruction
fetch (R56, R181), breakpoints (R422, R423), and the node word of a firing (R288). -/

namespace Sys2Proof.Machine

/-! ### What keeps a wave from issuing (R190) -/

/-- Whether the wave issues words at all now: not retired, its gang not in spatial form, the leader in vector form, and
with lanes that take part in threaded form (R369). -/
def Ctx.issues (k : Ctx) : Bool :=
  !k.wv.retired && k.g.form != 2 && (if k.vec then k.w.wave == 0 else k.wv.mask != 0)

/-- R190: the reason that holds the wave before its word is looked at. A hand-over that the gang has begun goes on through
a halt (R370), and a wave halts once its fault has been recorded (R415). The waves of a stopped job report HALTED; a wave that a record holds (R407), or whose launch waits for its
argument block (R199), reports ICACHE while its word is not fetched, and else MEMORY (log entry 120). -/
def blocked (k : Ctx) (s : State) : Option Stall :=
  if (k.g.halted && k.g.moving.isNone && !k.wv.unrecorded s k.asid) || k.stopped s then some .halted
  else if k.c.saved then some .preempted
  else if k.wv.pending.isSome || !k.l.argsRead then
    some (if (k.word? s k.wv.pc.toNat).isSome then .memory else .icache)
  else none

/-- R442, R443: whether the power cap or the curb withholds this issue slot: a free value while either acts. -/
def withheld (s : State) : Bool × State :=
  if s.throttle || s.curbOn then (s.fresh.1 % 2 == 1, s.fresh.2) else (false, s)

/-! ### Breakpoints (R422, R423) -/

def Bp.none_ : Bp := ⟨0, 0, 0⟩
def Bp.en (b : Bp) : Bool := b.ctl.getLsbD 63
def Bp.ty (b : Bp) : Nat := fld b.ctl 62 61
def Bp.iff (b : Bp) : Bool := b.ctl.getLsbD 60
def Bp.value (b : Bp) : Nat := fld b.ctl 31 0
def Bp.onImage (b : Bp) (image : Dword) : Bool := fld b.img 54 0 == 0 || fld b.img 54 0 == fld image 54 0

/-- The enabled breakpoints of a type and value that match a kernel and the active iterations, each with the first
iteration at which it matches. One with IF matches an active iteration only; one without names `idle` where none is
active. -/
def bpHits (a : Asid) (ty value : Nat) (image : Dword) (idle : Nat) (iters : List Nat) : List (Nat × Nat) :=
  (List.range 16).filterMap (fun k =>
    let b := SMap.get a.bps Bp.none_ k
    if b.en && b.ty == ty && b.value == value && b.onImage image then
      if b.iff then (if iters.contains (fld b.iter 39 0) then some (k, fld b.iter 39 0) else none)
      else some (k, iters.headD idle)
    else none)

/-- R418, R423: halt a gang, or every gang of the job under ALLSTOP, and HALT then reads 1. -/
def State.breakGang (s : State) (asid : Nat) (g : GangId) (q : BitVec 32) : State :=
  let s := s.modGang g (fun x => { x with halted := true, brk := some q })
  if (s.asid asid).allstop then
    { s.modAsid asid (fun x => { x with halt := true }) with gangs := Tab.map s.gangs (fun i x =>
        if (match s.launch? i.crew.launch with | some l => l.asid == asid | none => false)
        then { x with halted := true } else x) }
  else s

/-- R423: one BREAK record for all breakpoints that match at one moment, and the gang halts. -/
def fireBreak (asid : Nat) (g : GangId) (r : RecF) (hits : List (Nat × Nat)) (s : State) : State :=
  let n := (hits.map Prod.fst).foldl min 16
  let aux2 := (hits.map (fun h => 2 ^ h.1)).sum
  let it := (hits.map Prod.snd).foldl min ((hits.map Prod.snd).headD 0)
  let p := s.raise asid { r with kind := 16, cause := 0, status := .resumable, aux := n, aux2 := aux2, iter := it
                                 wave := it % 256 / 32 }
  p.1.breakGang asid g p.2

/-- The iterations that an instruction about to issue is active for (R423). -/
def Ctx.iters (k : Ctx) (s : State) (p : BitVec 3 × Bool) : List Nat := (k.active s p.1 p.2).map k.term

/-- The address and site breakpoints on the next word of a wave. Where no lane is active, a breakpoint without IF names
the wave's first lane. -/
def Ctx.wordBreaks (k : Ctx) (s : State) (p : BitVec 3 × Bool) : List (Nat × Nat) :=
  let hits (ty value : Nat) := bpHits (s.asid k.asid) ty value k.kn.image (k.term (k.first s)) (k.iters s p)
  (if k.vec then [] else hits 0 k.wv.pc.toNat)
    ++ (k.kn.sitesAt k.vec k.wv.pc.toNat).flatMap (fun d => hits 2 d.site)

/-! ### The instruction of a wave -/

/-- What fetching gives: the step is over, or an instruction runs. -/
inductive Fetched where
  | over (o : Out)
  | run (i : Instr) (s : State)
  deriving Repr

/-- Fetch for a wave whose context is known. A breakpoint that finds the ring full fires once there is room, and its wave
waits with MEMORY (R406). -/
def fetchFor (k : Ctx) (s : State) : Fetched :=
  let w := k.w
  if !k.issues then .over (.refused (.notEnabled "the wave issues nothing: retired, spatial, or not the leader"))
  else match blocked k s with
  | some r => .over (.next (stallAt k r s))
  | none =>
    let h := withheld s
    let s := h.2
    if h.1 then .over (.next (stallAt k .throttle s))
    else if !k.inside k.wv.pc.toNat then .over (.next (illegal k s))
    else match k.word? s k.wv.pc.toNat with
    | none => .over (.next (stallAt k .icache s))
    | some word =>
      let d := Decode.core word
      let p := match d with
        | .ok i => predOf i
        | .error _ => (0, false)
      let hits := if k.wv.bpDone then [] else k.wordBreaks s p
      if hits.isEmpty then
        match d with
        | .ok i => .run i { s with focus := .wave w }
        | .error _ => .over (.next (illegal k s))
      else if !s.ringRoom k.asid then .over (.next (stallAt k .memory s))
      else
        .over (.next (fireBreak k.asid k.gid (k.report 16 0 .resumable (k.first s) .terms) hits
          (s.modWave w (fun x => { x with bpDone := true }))))

/-- The instruction of a wave that a scheduler picks. -/
def fetchWave (s : State) (w : WaveId) : Fetched :=
  match ctx? s w with
  | some k => fetchFor k s
  | none => .over (.refused .noWave)

/-! ### The node word of a firing -/

/-- The code of block `b`, slot `t` of a paddock. -/
def Kernel.nodeWord (kn : Kernel) (p b t : Nat) : Option (BitVec 64) :=
  match kn.paddocks[p]? with
  | some bs => match bs[b]? with
    | some ws => ws[t]?
    | none => none
  | none => none

/-- The word that a firing runs, from the code of the paddock that its place holds. -/
def Firing.word? (f : Firing) (s : State) : Option (BitVec 64) :=
  match s.crew? f.crew, s.launch? f.crew.launch with
  | some c, some l =>
    match c.region, l.kernel with
    | some r, some kn =>
      match r.places[f.place]? with
      | some p => kn.nodeWord p.paddock f.ready.blk f.ready.slot
      | none => none
    | _, _ => none
  | _, _ => none

/-- The instruction of a firing. -/
def fetchNode (s : State) (f : Firing) : Fetched :=
  match f.word? s with
  | some w =>
    match Decode.node w with
    | .ok i => .run i s
    | .error _ => .over (.refused .noFiring)
  | none => .over (.refused .noFiring)

end Sys2Proof.Machine
end

