-- ==== Sys2Proof/Machine/Flags.lean ====
section
/-! DEFINITION. Exact values, the one rounding rule and its flags (R107, R108, R124 to R126, R132 to R134, R141), and the
arithmetic of class 1 on patterns (R117 to R121). Every operation forms the exact result and rounds it once. -/

namespace Sys2Proof.Machine

/-! ### Rounding modes and flags (R108, R109) -/

inductive Mode where
  | rne
  | rtz
  | rup
  | rdn
  | rna
  deriving DecidableEq, Repr

/-- FCSR.RM codes 0 to 4; 5 to 7 never occur. -/
def modeOfRm (rm : Nat) : Mode :=
  match rm with
  | 0 => .rne
  | 1 => .rtz
  | 2 => .rup
  | 3 => .rdn
  | _ => .rna

/-- R110, R117: the override code of an instruction, or the dynamic mode. -/
def modeOf (rmField fcsr : Nat) : Mode := if rmField = 0 then modeOfRm (bits fcsr 7 5) else modeOfRm (rmField - 1)

abbrev Fl := BitVec 5
def fNV : Fl := 16
def fDZ : Fl := 8
def fOF : Fl := 4
def fUF : Fl := 2
def fNX : Fl := 1

/-! ### Exact values -/

/-- A value: NaN (signalling or quiet), an infinity, or ± (m + δ) × 2^e where δ is 0, or strictly between 0 and 1 when
`st` holds. -/
inductive Val where
  | nan (sig : Bool)
  | inf (neg : Bool)
  | num (neg : Bool) (m : Nat) (e : Int) (st : Bool)
  deriving DecidableEq, Repr

def Val.isNan : Val → Bool
  | .nan _ => true
  | _ => false

def Val.isSig : Val → Bool
  | .nan s => s
  | _ => false

def Val.isInf : Val → Bool
  | .inf _ => true
  | _ => false

def Val.isZero : Val → Bool
  | .num _ 0 _ st => !st
  | _ => false

def Val.neg? : Val → Bool
  | .nan _ => false
  | .inf n => n
  | .num n _ _ _ => n

def Val.negate : Val → Val
  | .nan s => .nan s
  | .inf n => .inf (!n)
  | .num n m e st => .num (!n) m e st

/-! ### Formats (R124, R126, R131) -/

/-- The fields of a format entry. -/
structure Fmt where
  int : Bool
  s : Bool
  ew : Nat
  fw : Nat
  bias : Int
  spv : Nat
  ovf : Nat
  deriving DecidableEq, Repr

def fmtOf (w : Word) : Fmt :=
  { int := fld w 30 28 == 2, s := w.getLsbD 27, ew := fld w 26 23, fw := fld w 22 17
    bias := sgn 12 (fld w 16 5), spv := fld w 4 2, ovf := fld w 1 0 }

def Fmt.width (f : Fmt) : Nat := (if f.s then 1 else 0) + f.ew + f.fw

def f32 : Fmt := ⟨false, true, 8, 23, 127, 0, 0⟩
def f64 : Fmt := ⟨false, true, 11, 52, 1023, 0, 0⟩

/-- F32 at TY 00, F64 at TY 01. -/
def nat? (ty : BitVec 2) : Fmt := if ty == 1 then f64 else f32

/-- R125: the conditions on a valid entry. -/
def fmtLegal (w : Word) : Bool :=
  let f := fmtOf w
  let cls := fld w 30 28
  2 ≤ f.width && f.width ≤ 64 &&
  (if cls == 0 then
    1 ≤ f.ew && f.spv ≤ 3 && f.ovf ≤ 2
      && (f.spv != 0 || (2 ≤ f.ew && 1 ≤ f.fw)) && (f.spv != 1 || 2 ≤ f.ew) && (f.spv != 3 || f.s)
      && !(f.ovf == 0 && f.spv == 2)
  else if cls == 2 then f.ew == 0 && fld w 16 5 == 0 && f.spv == 2 && (f.ovf == 1 || f.ovf == 2)
  else false)

/-- R131: part width and parts of a container. -/
def fmtPartW (w : Nat) : Nat := if w ≤ 8 then 8 else if w ≤ 16 then 16 else if w ≤ 32 then 32 else 64
def fmtParts (w : Nat) : Nat := if w ≤ 8 then 4 else if w ≤ 16 then 2 else 1

/-- R132: the exact value of a pattern. -/
def decodeV (f : Fmt) (v0 : Nat) : Val :=
  let v := v0 % 2 ^ f.width
  if f.int then
    let x : Int := if f.s then sgn f.width v else v
    .num (x < 0) x.natAbs 0 false
  else
    let s := f.s && bit v (f.width - 1)
    let e := v / 2 ^ f.fw % 2 ^ f.ew
    let m := v % 2 ^ f.fw
    let emax := 2 ^ f.ew - 1
    if f.spv == 0 && e == emax then
      if m == 0 then .inf s else .nan (!bit m (f.fw - 1))
    else if f.spv == 1 && e == emax && m == 2 ^ f.fw - 1 then .nan false
    else if f.spv == 3 && s && e == 0 && m == 0 then .nan false
    else if e == 0 then .num s m (1 - f.bias - f.fw) false
    else .num s (2 ^ f.fw + m) (e - f.bias - f.fw) false

/-- The greatest finite pattern without its sign (R132). -/
def Fmt.maxPat (f : Fmt) : Nat :=
  if f.int then 2 ^ f.fw - 1
  else
    let top := 2 ^ (f.ew + f.fw) - 1
    if f.spv == 0 then top - 2 ^ f.fw else if f.spv == 1 then top - 1 else top

def Fmt.maxF (f : Fmt) : Val := decodeV f f.maxPat

def Fmt.signBit (f : Fmt) : Nat := 2 ^ (f.ew + f.fw)

/-- R133: whether the entry has a NaN code, and the canonical one. -/
def Fmt.canonNan (f : Fmt) : Option Nat :=
  if f.int then none
  else if f.spv == 0 then some ((2 ^ f.ew - 1) * 2 ^ f.fw + 2 ^ (f.fw - 1))
  else if f.spv == 1 then some (2 ^ (f.ew + f.fw) - 1)
  else if f.spv == 3 then some f.signBit
  else none

/-- The pattern of a sign and magnitude, where the entry has that sign; a zero is +0 where there is no −0 (R133). -/
def Fmt.pack (f : Fmt) (neg : Bool) (p : Nat) : Nat :=
  if !neg || !f.s || (p == 0 && (f.int || f.spv == 3)) then p
  else if f.int then 2 ^ f.width - p else f.signBit + p

/-- Whether the rounding goes up by one unit, from the unit's parity, the half bit and what lies below it. -/
def roundsUp (mode : Mode) (neg odd half st : Bool) : Bool :=
  match mode with
  | .rne => half && (st || odd)
  | .rtz => false
  | .rup => !neg && (half || st)
  | .rdn => neg && (half || st)
  | .rna => half

/-- Round ± (m + δ) × 2^e to a multiple of 2^q: the multiple and whether it differs from the value. -/
def quantize (mode : Mode) (neg : Bool) (m : Nat) (e : Int) (st : Bool) (q : Int) : Nat × Bool :=
  let k := q - e
  if k ≤ 0 then
    let n := m * 2 ^ (-k).toNat
    (if roundsUp mode neg (n % 2 == 1) false st then n + 1 else n, st)
  else
    let j := k.toNat
    let n := m / 2 ^ j
    let half := bit m (j - 1)
    let low := st || m % 2 ^ (j - 1) != 0
    (if roundsUp mode neg (n % 2 == 1) half low then n + 1 else n, half || low)

/-- What RoundToFormat gives: a pattern, flags, and whether it takes an OVF 2 path. -/
structure RRes where
  pat : Nat
  fl : Fl
  fault : Bool
  deriving DecidableEq, Repr

/-- R133, R107: the overflow of a finite value. -/
def overflow (f : Fmt) (mode : Mode) (neg : Bool) : RRes :=
  let fl := if f.int then fNV else fOF ||| fNX
  let big := f.pack neg f.maxPat
  match f.ovf with
  | 0 =>
    let toInf := match mode with
      | .rne => true
      | .rna => true
      | .rtz => false
      | .rup => !neg
      | .rdn => neg
    if toInf then
      if f.spv == 0 then ⟨f.pack neg ((2 ^ f.ew - 1) * 2 ^ f.fw), fl, false⟩ else ⟨f.canonNan.getD 0, fl, false⟩
    else ⟨big, fl, false⟩
  | 1 => ⟨big, fl, false⟩
  | _ => ⟨0, fl, true⟩

/-- RoundToFormat(x, n, mode) of R133; for entries 0 and 1 it is the rounding of R107. -/
def roundFmt (f : Fmt) (mode : Mode) (x : Val) : RRes :=
  match x with
  | .nan sig =>
    match f.canonNan with
    | some p => ⟨p, if sig then fNV else 0, false⟩
    | none => ⟨0, fNV, f.ovf == 2⟩
  | .inf neg =>
    if !f.int && f.spv == 0 && (!neg || f.s) then ⟨f.pack neg ((2 ^ f.ew - 1) * 2 ^ f.fw), 0, false⟩
    else match f.ovf with
      | 0 => ⟨f.canonNan.getD 0, fNV, false⟩
      | 1 => ⟨if neg && !f.s then 0 else f.pack neg f.maxPat, fNV, false⟩
      | _ => ⟨0, fNV, true⟩
  | .num neg m e st =>
    if m = 0 && !st then ⟨f.pack neg 0, 0, false⟩
    else
      let lg : Int := (Nat.log2 m : Nat) + e
      let q : Int := if f.int then 0 else max (lg - f.fw) (1 - f.bias - f.fw)
      let r := quantize mode neg m e st q
      -- the code of the magnitude, without a bound above
      let code : Nat :=
        if f.int then r.1
        else if r.1 < 2 ^ f.fw then r.1
        else ((q + f.bias + f.fw - 1) * (2 ^ f.fw : Nat)).toNat + r.1
      let tiny : Bool :=
        let u := quantize mode neg m e st (lg - f.fw)
        -- rounded to FW fraction bits with an unbounded exponent, below 2^(1 − BIAS)
        decide ((Nat.log2 u.1 : Nat) + (lg - f.fw) < 1 - f.bias) || u.1 == 0
      if neg && !f.s && r.1 != 0 then
        match f.ovf with
        | 0 => ⟨f.canonNan.getD 0, fNV, false⟩
        | 1 => ⟨0, fNV, false⟩
        | _ => ⟨0, fNV, true⟩
      else if f.maxPat < code then overflow f mode neg
      else
        let fl := if r.2 then (if !f.int && tiny then fNX ||| fUF else fNX) else 0
        ⟨f.pack neg code, fl, false⟩

/-! ### Exact arithmetic -/

/-- The sum of signed terms m × 2^e, aligned at the least exponent. -/
def sumTerms (ts : List (Bool × Nat × Int)) : Int × Int :=
  let e := ts.foldl (fun a t => if t.2.1 = 0 then a else min a t.2.2) (ts.foldl (fun a t => max a t.2.2) 0)
  (ts.foldl (fun a t => a + (if t.1 then -1 else 1) * (t.2.1 : Int) * (2 ^ (t.2.2 - e).toNat : Nat)) 0, e)

/-- R145: the exact sum of terms, with NaN, infinities and the sign of an exact zero decided over all terms together. The
terms carry no δ. -/
def sumV (mode : Mode) (ts : List Val) : Val × Fl :=
  let pinf := ts.any (fun t => t == .inf false)
  let ninf := ts.any (fun t => t == .inf true)
  let sig := ts.any Val.isSig
  if ts.any Val.isNan then (.nan sig, if pinf && ninf then fNV else 0)
  else if pinf && ninf then (.nan false, fNV)
  else if pinf then (.inf false, 0)
  else if ninf then (.inf true, 0)
  else
    let nums := ts.filterMap (fun t => match t with | .num n m e _ => some (n, m, e) | _ => none)
    let r := sumTerms nums
    if r.1 = 0 then
      let allNeg := ts.all (fun t => t.isZero && t.neg?)
      let allPos := ts.all (fun t => t.isZero && !t.neg?)
      (.num (allNeg || (mode == .rdn && !allPos)) 0 0 false, 0)
    else (.num (r.1 < 0) r.1.natAbs r.2 false, 0)

/-- The exact product; 0 × ∞ is invalid. -/
def mulV (a b : Val) : Val × Fl :=
  match a, b with
  | .nan s, .nan t => (.nan (s || t), 0)
  | .nan s, _ => (.nan s, 0)
  | _, .nan t => (.nan t, 0)
  | .inf n, y => if y.isZero then (.nan false, fNV) else (.inf (n != y.neg?), 0)
  | x, .inf n => if x.isZero then (.nan false, fNV) else (.inf (n != x.neg?), 0)
  | .num n m e _, .num n' m' e' _ => (.num (n != n') (m * m') (e + e') false, 0)

/-- The quotient of two positive magnitudes, to more than 192 bits with what lies below as δ. -/
def quot (m : Nat) (e : Int) (m' : Nat) (e' : Int) : Nat × Int × Bool :=
  let k := 192 + Nat.log2 m'
  let n := m * 2 ^ k
  (n / m', e - e' - k, n % m' != 0)

/-- R117: a / b with its invalid cases and division by zero. -/
def divV (a b : Val) : Val × Fl :=
  match a, b with
  | .nan s, .nan t => (.nan (s || t), 0)
  | .nan s, _ => (.nan s, 0)
  | _, .nan t => (.nan t, 0)
  | .inf _, .inf _ => (.nan false, fNV)
  | .inf n, y => (.inf (n != y.neg?), 0)
  | x, .inf n => (.num (n != x.neg?) 0 0 false, 0)
  | .num n m e _, .num n' m' e' _ =>
    if m' = 0 then (if m = 0 then (.nan false, fNV) else (.inf (n != n'), fDZ))
    else
      let r := quot m e m' e'
      (.num (n != n') r.1 r.2.1 r.2.2, 0)

/-- The integer square root, one bit of the result at a time. -/
def isqrtGo (n : Nat) : Nat → Nat → Nat
  | 0, r => r
  | k + 1, r =>
    let c := r + 2 ^ k
    isqrtGo n k (if c * c ≤ n then c else r)

def isqrt (n : Nat) : Nat := isqrtGo n (Nat.log2 n / 2 + 1) 0

/-- R117: the square root. -/
def sqrtV (a : Val) : Val × Fl :=
  match a with
  | .nan s => (.nan s, 0)
  | .inf n => if n then (.nan false, fNV) else (.inf false, 0)
  | .num n m e _ =>
    if m = 0 then (.num n 0 0 false, 0)
    else if n then (.nan false, fNV)
    else
      let k : Int := if (e - 400) % 2 = 0 then 400 else 401
      let x := m * 2 ^ k.toNat
      let r := isqrt x
      (.num false r ((e - k) / 2) (r * r != x), 0)

/-- R118: 1 / √a for a positive number: a root of a quotient, exact only for an even power of two. -/
def rsqrtNum (m : Nat) (e : Int) : Val :=
  let m' := if e % 2 = 0 then m else 2 * m
  let e' := if e % 2 = 0 then e else e - 1
  let k := 400 + Nat.log2 m'
  let r := isqrt (2 ^ (2 * k) / m')
  .num false r (-(k : Int) - e' / 2) (r * r * m' != 2 ^ (2 * k))

/-- The fraction bits of log2 of x / 2^p, for 2^p ≤ x < 2^(p+1), by squaring. -/
def log2Go (p : Nat) : Nat → Nat → Nat → Nat
  | 0, _, acc => acc
  | n + 1, x, acc =>
    let y := x * x / 2 ^ p
    if 2 ^ (p + 1) ≤ y then log2Go p n (y / 2) (2 * acc + 1) else log2Go p n y (2 * acc)

/-- R118: log2 of a positive number, to 256 fraction bits with 900 bits in hand; exact for a power of two (log entry 10). -/
def log2Num (m : Nat) (e : Int) : Val :=
  let lg := Nat.log2 m
  let i : Int := lg + e
  if m = 2 ^ lg then .num (i < 0) i.natAbs 0 false
  else
    let t : Int := i * (2 ^ 256 : Nat) + log2Go 900 256 (m * 2 ^ 900 / 2 ^ lg) 0
    if 0 ≤ t then .num false t.toNat (-256) true else .num true (-t - 1).toNat (-256) true

/-- ln 2 × 2^p from the series Σ 1 / (k 2^k). -/
def ln2Go (p : Nat) : Nat → Nat
  | 0 => 0
  | k + 1 => 2 ^ p / ((k + 1) * 2 ^ (k + 1)) + ln2Go p k

/-- Σ y^k / k! from term k on, fixed point 2^p. -/
def expGo (p y : Nat) : Nat → Nat → Nat → Nat
  | 0, _, _ => 0
  | n + 1, k, t => t + expGo p y n (k + 1) (t * y / 2 ^ p / (k + 1))

/-- R118: 2^a, to 300 bits with 400 in hand; exact for an integer (log entry 10). -/
def exp2Num (neg : Bool) (m : Nat) (e : Int) : Val :=
  let lg : Int := (Nat.log2 m : Nat) + e
  if m = 0 then .num false 1 0 false
  else if lg < -80 then (if neg then .num false (2 ^ 200 - 1) (-200) true else .num false (2 ^ 200) (-200) true)
  else if 14 ≤ lg then (if neg then .num false 1 (-20000) true else .num false (2 ^ 200) 20000 true)
  else
    let x : Int := (if neg then -1 else 1) * (if 0 ≤ e then (m * 2 ^ e.toNat * 2 ^ 400 : Nat) else (m * 2 ^ 400 / 2 ^ (-e).toNat : Nat))
    let i := x / (2 ^ 400 : Nat)
    let f := (x % (2 ^ 400 : Nat)).toNat
    if f = 0 then .num false 1 i false
    else .num false (expGo 400 (f * ln2Go 420 410 / 2 ^ 420) 110 0 (2 ^ 400) / 2 ^ 100) (i - 300) true

/-- A comparison of two numbers or infinities: less, equal or greater; −0 equals +0. -/
def cmpV (a b : Val) : Ordering :=
  match a, b with
  | .inf n, .inf n' => if n == n' then .eq else if n then .lt else .gt
  | .inf n, _ => if n then .lt else .gt
  | _, .inf n => if n then .gt else .lt
  | .num n m e _, .num n' m' e' _ =>
    let r := sumTerms [(n, m, e), (!n', m', e')]
    if r.1 < 0 then .lt else if r.1 = 0 then .eq else .gt
  | _, _ => .eq

/-! ### Class 1 on patterns (R117 to R121) -/

/-- R112: absolute value, then negation, of a pattern. -/
def applyMods (f : Fmt) (v : Nat) (neg abs : Bool) : Nat :=
  let sb := f.signBit
  let v := v % (2 * sb)
  let v := if abs then v % sb else v
  if neg then (if sb ≤ v then v - sb else v + sb) else v

/-- Round the exact result, with the flags found on the way. -/
def give (f : Fmt) (mode : Mode) (r : Val × Fl) : Nat × Fl :=
  let q := roundFmt f mode r.1
  (q.pat, q.fl ||| r.2)

def gAdd (f : Fmt) (mode : Mode) (a b : Nat) : Nat × Fl :=
  give f mode (sumV mode [decodeV f a, decodeV f b])

def gSub (f : Fmt) (mode : Mode) (a b : Nat) : Nat × Fl :=
  give f mode (sumV mode [decodeV f a, (decodeV f b).negate])

def gMul (f : Fmt) (mode : Mode) (a b : Nat) : Nat × Fl := give f mode (mulV (decodeV f a) (decodeV f b))

def gDiv (f : Fmt) (mode : Mode) (a b : Nat) : Nat × Fl := give f mode (divV (decodeV f a) (decodeV f b))

def gSqrt (f : Fmt) (mode : Mode) (a : Nat) : Nat × Fl := give f mode (sqrtV (decodeV f a))

/-- R117: one rounding of a × b + c; 0 × ∞ raises NV even when c is a quiet NaN. -/
def gFma (f : Fmt) (mode : Mode) (a b c : Nat) : Nat × Fl :=
  let p := mulV (decodeV f a) (decodeV f b)
  let r := sumV mode [p.1, decodeV f c]
  give f mode (r.1, r.2 ||| p.2)

/-- R117: minimumNumber and maximumNumber; −0 is below +0. -/
def gMinMax (f : Fmt) (greater : Bool) (a b : Nat) : Nat × Fl :=
  let x := decodeV f a
  let y := decodeV f b
  let fl := if x.isSig || y.isSig then fNV else 0
  if x.isNan && y.isNan then (f.canonNan.getD 0, fl)
  else if x.isNan then (b, fl)
  else if y.isNan then (a, fl)
  else
    let aBelow := match cmpV x y with
      | .lt => true
      | .gt => false
      | .eq => x.neg? && !y.neg?
    let bBelow := match cmpV x y with
      | .gt => true
      | .lt => false
      | .eq => y.neg? && !x.neg?
    if greater then (if aBelow then (b, fl) else (a, fl)) else (if bBelow then (b, fl) else (a, fl))

/-- R119. -/
def gCmp (f : Fmt) (cond : Nat) (a b : Nat) : Bool × Fl :=
  let x := decodeV f a
  let y := decodeV f b
  let un := x.isNan || y.isNan
  let o := cmpV x y
  let fl := if x.isSig || y.isSig || (un && 2 ≤ cond && cond ≤ 5) then fNV else 0
  let r := match cond with
    | 0 => !un && o == .eq
    | 1 => un || o != .eq
    | 2 => !un && o == .lt
    | 3 => !un && o != .gt
    | 4 => !un && o == .gt
    | 5 => !un && o != .lt
    | 6 => un
    | _ => !un
  (r, fl)

/-- R118: the result of an approximate operation is the exact one rounded under RNE; beyond the finite range it is ∞. -/
def gRcp (f : Fmt) (a : Nat) : Nat × Fl :=
  give f .rne (divV (.num false 1 0 false) (decodeV f a))

def gRsq (f : Fmt) (a : Nat) : Nat × Fl :=
  match decodeV f a with
  | .nan s => give f .rne (.nan s, 0)
  | .inf n => if n then give f .rne (.nan false, fNV) else give f .rne (.num false 0 0 false, 0)
  | .num n m e _ =>
    if m = 0 then give f .rne (.inf n, fDZ)
    else if n then give f .rne (.nan false, fNV)
    else give f .rne (rsqrtNum m e, 0)

def gEx2 (f : Fmt) (a : Nat) : Nat × Fl :=
  match decodeV f a with
  | .nan s => give f .rne (.nan s, 0)
  | .inf n => if n then give f .rne (.num false 0 0 false, 0) else give f .rne (.inf false, 0)
  | .num n m e _ => give f .rne (exp2Num n m e, 0)

def gLg2 (f : Fmt) (a : Nat) : Nat × Fl :=
  match decodeV f a with
  | .nan s => give f .rne (.nan s, 0)
  | .inf n => if n then give f .rne (.nan false, fNV) else give f .rne (.inf false, 0)
  | .num n m e _ =>
    if m = 0 then give f .rne (.inf true, fDZ)
    else if n then give f .rne (.nan false, fNV)
    else give f .rne (log2Num m e, 0)

/-- R120. -/
def gClass (f : Fmt) (a : Nat) : Nat :=
  match decodeV f a with
  | .nan s => if s then 256 else 512
  | .inf n => if n then 1 else 128
  | .num n m _ _ =>
    if m = 0 then (if n then 8 else 16)
    else if m < 2 ^ f.fw then (if n then 4 else 32) else (if n then 2 else 64)

/-- The integer types of FCVTI and ICVTF: width and signedness (R113). -/
def itW (it : Nat) : Nat := if 2 ≤ it then 64 else 32
def itSigned (it : Nat) : Bool := it % 2 == 0

/-- The value of ± (m + δ) × 2^e rounded to an integer, and whether it differs. -/
def toInt (mode : Mode) (neg : Bool) (m : Nat) (e : Int) : Int × Bool :=
  let r := quantize mode neg m e false 0
  ((if neg then -1 else 1) * (r.1 : Int), r.2)

/-- R121: FCVTI. -/
def gCvti (f : Fmt) (mode : Mode) (it : Nat) (a : Nat) : Nat × Fl :=
  let w := itW it
  let lo : Int := if itSigned it then -(2 ^ (w - 1) : Nat) else 0
  let hi : Int := if itSigned it then (2 ^ (w - 1) : Nat) - 1 else (2 ^ w : Nat) - 1
  match decodeV f a with
  | .nan _ => (0, fNV)
  | .inf n => (wrap w (if n then lo else hi), fNV)
  | .num n m e _ =>
    let r := toInt mode n m e
    if hi < r.1 then (wrap w hi, fNV) else if r.1 < lo then (wrap w lo, fNV)
    else (wrap w r.1, if r.2 then fNX else 0)

/-- R121: ICVTF. -/
def gIcvt (f : Fmt) (mode : Mode) (it : Nat) (a : Nat) : Nat × Fl :=
  let x : Int := if itSigned it then sgn (itW it) a else a
  give f mode (.num (x < 0) x.natAbs 0 false, 0)

/-- R121: FCVTW between the native formats. -/
def gCvtw (src dst : Fmt) (mode : Mode) (a : Nat) : Nat × Fl := give dst mode (decodeV src a, 0)

/-- R117: FRND; NX only with EX. -/
def gRnd (f : Fmt) (mode : Mode) (ex : Bool) (a : Nat) : Nat × Fl :=
  match decodeV f a with
  | .num n m e _ =>
    if 0 ≤ e then (a, 0)
    else
      let r := quantize mode n m e false 0
      ((give f mode (.num n r.1 0 false, 0)).1, if ex && r.2 then fNX else 0)
  | v => give f mode (v, 0)

/-- R117: FSCL, a × 2^n. A count beyond the reach of any native exponent acts as the bound (it under- or overflows). -/
def gScl (f : Fmt) (mode : Mode) (a : Nat) (n : Int) : Nat × Fl :=
  match decodeV f a with
  | .num s m e _ => give f mode (.num s m (e + max (-5000) (min 5000 n)) false, 0)
  | v => give f mode (v, 0)

/-! ### Block scales (R134) -/

def bscale (v : Nat) : Val :=
  let e := bits v 23 16
  let m := bits v 15 0
  if e == 255 then .nan false
  else if e == 0 then .num false m (-142) false
  else .num false (65536 + m) ((e : Int) - 143) false

/-- R143: the value that SCLQ rounds. -/
def sclqV (x s : Val) : Val × Fl :=
  if s.isNan || x.isNan then (.nan x.isSig, 0)
  else if s.isZero then
    (if x.isZero then (.nan false, fNV) else (.inf x.neg?, if x.isInf then 0 else fDZ))
  else divV x s

/-- R143: the value that SCLD rounds. -/
def scldV (x s : Val) : Val × Fl :=
  if s.isNan || x.isNan then (.nan x.isSig, 0)
  else if x.isInf && s.isZero then (.nan false, fNV)
  else mulV x s

/-- The least block scale code v with BScale(v) ≥ x / y for positive x and y, by bisection over the codes (R144). -/
def bsclGo (ok : Nat → Bool) : Nat → Nat → Nat → Nat
  | 0, _, hi => hi
  | n + 1, lo, hi =>
    if hi ≤ lo then hi
    else
      let mid := (lo + hi) / 2
      if ok mid then bsclGo ok n lo mid else bsclGo ok n (mid + 1) hi

/-- R144: the scale of a group whose largest magnitude is `mx` for a format with largest finite `mf`. -/
def bsclCode (mx mf : Val) : Nat :=
  let ok (v : Nat) : Bool := cmpV (mulV (bscale v) mf).1 mx != .lt
  if mx.isZero then 0x7F0000 else bsclGo ok 25 0 0xFEFFFF

/-! ### Properties of an entry (R141) -/

/-- The exact value rounded toward zero to F64, largest finite beyond its range. -/
def toF64z (v : Val) : Nat := (roundFmt { f64 with ovf := 1 } .rtz v).pat

def fmtProp (w : Word) (q : Nat) : Nat :=
  let f := fmtOf w
  match q with
  | 0 => toF64z f.maxF
  | 1 => if f.int then toF64z (.num false 1 0 false) else toF64z (.num false 1 (1 - f.bias) false)
  | 2 => if f.int then toF64z (.num false 1 0 false)
         else if f.fw = 0 then toF64z (.num false 1 (1 - f.bias) false)
         else toF64z (.num false 1 (1 - f.bias - f.fw) false)
  | 3 => f.width
  | 4 => fmtParts f.width
  | _ => (if !f.int && f.spv == 0 then 1 else 0) + (if f.canonNan.isSome then 2 else 0)
      + (if !f.int && f.s && f.spv != 3 then 4 else 0)

end Sys2Proof.Machine
end

