-- ==== Sys2Proof/Machine/Operands.lean ====
section
/-! DEFINITION. Operand forms: containers and parts (R86), operand B (R87, R115), uniform operations (R88, R114), and the
loops that apply a per-part or per-element function to the active lanes (R90, R117). -/

namespace Sys2Proof.Machine

/-- R86: part width. -/
def partW (ty : BitVec 2) : Nat :=
  match ty.toNat with
  | 0 => 32
  | 1 => 64
  | 2 => 16
  | _ => 8

/-- R86: parts per lane. -/
def partN (ty : BitVec 2) : Nat :=
  match ty.toNat with
  | 2 => 2
  | 3 => 4
  | _ => 1

/-- Part p of a container. -/
def part (w p v : Nat) : Nat := v / 2 ^ (w * p) % 2 ^ w

/-- Apply a function to every part of a container (R90). -/
def perPart (ty : BitVec 2) (F : Nat → Nat → Nat → Nat → Nat) (a b c : Nat) : Nat :=
  let w := partW ty
  let g (p : Nat) : Nat := F w (part w p a) (part w p b) (part w p c) % 2 ^ w * 2 ^ (w * p)
  match partN ty with
  | 2 => g 0 + g 1
  | 4 => g 0 + g 1 + g 2 + g 3
  | _ => g 0

/-- The container of a lane: the pair at TY 01, else the register (R86). -/
def Wave.rdT (x : Wave) (ty : BitVec 2) (r l : Nat) : Nat :=
  if ty == 1 then (x.rdD r l).toNat else (x.rdV r l).toNat

def Wave.wrT (x : Wave) (ty : BitVec 2) (r l v : Nat) : Wave :=
  if ty == 1 then x.wrD r l (BitVec.ofNat 64 v) else x.wrV r l (BitVec.ofNat 32 v)

/-- R87: S[r] as an operand of type TY. -/
def sOperand (x : Wave) (ty : BitVec 2) (r : Nat) : Nat :=
  if ty == 1 then (x.rdS r).toNat else (x.rdS r).toNat % 2 ^ 32

/-- R87: an immediate in every part of the container. -/
def immOperand (ty : BitVec 2) (i : BitVec 20) : Nat :=
  let w := partW ty
  let v := wrap w i.toInt
  match partN ty with
  | 2 => v + v * 2 ^ w
  | 4 => v + v * 2 ^ w + v * 2 ^ (2 * w) + v * 2 ^ (3 * w)
  | _ => v

/-- R87: operand B of a lane; `ld` is the issuing wave, whose S registers are read. -/
def opB (f : KF) (ld x : Wave) (l : Nat) : Nat :=
  match f.b with
  | .v r => x.rdT f.ty r.toNat l
  | .s r => sOperand ld f.ty r.toNat
  | .imm i => immOperand f.ty i

/-- R115: an immediate float is the top 20 bits of its pattern. -/
def immFloat (ty : BitVec 2) (i : BitVec 20) : Nat := if ty == 1 then i.toNat * 2 ^ 44 else i.toNat * 2 ^ 12

/-- Operand B of a class 1 word. -/
def opBf (f : KF) (ld x : Wave) (l : Nat) : Nat :=
  match f.b with
  | .imm i => immFloat f.ty i
  | _ => opB f ld x l

/-- A 64-bit operand of a word that executes once per issue: S[r] or the sign-extended immediate (R34, R58). -/
def opS (f : KF) (ld : Wave) : Dword :=
  match f.b with
  | .v _ => 0
  | .s r => ld.rdS r.toNat
  | .imm i => i.signExtend 64

/-- R88, R114: C[7] makes a class 0 or class 1 word uniform. -/
def KF.uni (f : KF) : Bool := f.c.getLsbD 7

def KF.D (f : KF) : Nat := f.d.toNat
def KF.A (f : KF) : Nat := f.a.toNat

/-- Change the active lanes of every wave of the form, each from the wave's state at issue. -/
def onLanes (f : KF) (k : Ctx) (s : State) (g : Wave → Nat → Wave → Wave) : State :=
  k.each s (fun v x => foldLanes (k.act f.pm f.pn v x) (g x) x)

/-- Change the issuing wave. -/
def onWave (k : Ctx) (s : State) (g : Wave → Wave) : State := s.modWave k.w g

/-- R90: a class 0 operation with a per-part function; in the uniform form it runs once on S registers (R88). -/
def intOp (f : KF) (F : Nat → Nat → Nat → Nat → Nat) (k : Ctx) (s : State) : State :=
  if KF.uni f then
    onWave k s (fun x => x.wrS (KF.D f) (BitVec.ofNat 64 (F (partW f.ty) (sOperand x f.ty (KF.A f)) (opB f x x 0) 0)))
  else
    onLanes f k s (fun x l a =>
      a.wrT f.ty (KF.D f) l (perPart f.ty F (x.rdT f.ty (KF.A f) l) (opB f k.wv x l) (x.rdT f.ty f.c.toNat l)))

/-- R109: OR flags into FCSR[4:0]. -/
def Wave.orFlags (x : Wave) (fl : Fl) : Wave := { x with fcsr := x.fcsr ||| fl.setWidth 32 }

/-- Apply a function that gives a result and flags to the active lanes; flags go to the owning wave (R110, R117). The
function is given the wave's FCSR at issue. -/
def onLanesFl (f : KF) (k : Ctx) (s : State) (g : Wave → Nat → (Wave → Wave) × Fl) : State :=
  k.each s (fun v x => foldLanes (k.act f.pm f.pn v x) (fun l a => ((g x l).1 a).orFlags (g x l).2) x)

/-- R112: the modifier bits of X. -/
def KF.xbit (f : KF) (i : Nat) : Bool := f.x.getLsbD i

/-- R110: the rounding mode of an element: the override in X[6:4], or FCSR.RM of the owning wave. -/
def fMode (f : KF) (x : Wave) : Mode := modeOf (fld f.x 6 4) x.fcsr.toNat

/-- A native operand with its modifiers. -/
def fA (f : KF) (v : Nat) : Nat := applyMods (nat? f.ty) v (KF.xbit f 0) (KF.xbit f 2)
def fB (f : KF) (v : Nat) : Nat := applyMods (nat? f.ty) v (KF.xbit f 1) (KF.xbit f 3)

/-- R117: a class 1 operation on the operands of a row: `dTy` and `aTy` are the widths of result and source. -/
def fltOp (f : KF) (dTy aTy : BitVec 2) (G : Mode → Nat → Nat → Nat → Nat × Fl) (k : Ctx) (s : State) : State :=
  if KF.uni f then
    onWave k s (fun x =>
      let r := G (fMode f x) (sOperand x aTy (KF.A f)) (opBf f x x 0) 0
      (x.wrS (KF.D f) (BitVec.ofNat 64 r.1)).orFlags r.2)
  else
    onLanesFl f k s (fun x l =>
      let r := G (fMode f x) (x.rdT aTy (KF.A f) l) (opBf f k.wv x l) (x.rdT f.ty f.c.toNat l)
      (fun a => a.wrT dTy (KF.D f) l r.1, r.2))

/-- CMP and FCMP: a mask bit per active lane, S[D] in the uniform form (R100, R119). -/
def cmpOp (f : KF) (aOf bOf : Wave → Nat → Nat) (G : Nat → Nat → Bool × Fl) (k : Ctx) (s : State) : State :=
  if KF.uni f then
    onWave k s (fun x =>
      let r := G (aOf x 0) (bOf x 0)
      (x.wrS (KF.D f) (if r.1 then 1 else 0)).orFlags r.2)
  else
    onLanesFl f k s (fun x l =>
      let r := G (aOf x l) (bOf x l)
      (fun a => a.wrMbit (KF.D f) l r.1, r.2))

end Sys2Proof.Machine
end

