-- ==== Sys2Proof/Machine/Fmt.lean ====
section
/-! DEFINITION. Class 2: the format table, conversions, block scales and narrow dot products (R128 to R146), and the
conversion that core words and node words share. -/

namespace Sys2Proof.Machine

/-! ### Format faults (R135) -/

/-- A cause of R135 and the entry it names. -/
structure FmtErr where
  cause : Nat
  entry : Nat
  deriving DecidableEq, Repr

/-- R135: the record of a format fault at element `e`. -/
def fmtFault (k : Ctx) (x : FmtErr) (e : Nat) (s : State) : State :=
  faultAt k { k.report 3 x.cause .stops e .interval with aux := x.entry } s

/-- INVALID: the entry has V = 0. -/
def fmtInvalid (c : Crew) (n : BitVec 6) : Option FmtErr :=
  if (c.fmtEntry n.toNat).getLsbD 31 then none else some ⟨1, n.toNat⟩

/-- LIMIT of a part index (R131). -/
def partLimit (c : Crew) (n : BitVec 6) (p : Nat) : Option FmtErr :=
  if fmtParts (fmtW (c.fmtEntry n.toNat)) ≤ p then some ⟨3, n.toNat⟩ else none

/-- LIMIT of a register shape: a pair that is odd or beyond the allocation (R135). -/
def pairLimit (k : Ctx) (n : BitVec 6) (r : BitVec 8) : Option FmtErr :=
  if k.wide n && (r.getLsbD 0 || k.kn.vregs ≤ r.toNat + 1) then some ⟨3, n.toNat⟩ else none

/-- The first of several tests that finds something. -/
def firstErr {α : Type} (l : List (Option α)) : Option α := l.foldr (fun a r => a.or r) none

/-! ### Containers of a format entry (R131) -/

/-- Part p of a container of an entry. -/
def fmtPart (w : Word) (p v : Nat) : Nat := part (fmtPartW (fmtW w)) p v

/-- Put pattern `pat` in part p of a container, keeping the other parts. -/
def putPart (w : Word) (p pat old : Nat) : Nat :=
  let pw := fmtPartW (fmtW w)
  old / 2 ^ (pw * (p + 1)) * 2 ^ (pw * (p + 1)) + pat % 2 ^ fmtW w * 2 ^ (pw * p) + old % 2 ^ (pw * p)

/-- The container type of an entry: a pair for W above 32. -/
def contTy (w : Word) : BitVec 2 := if 32 < fmtW w then 1 else 0

/-! ### Conversion (R142, R143) -/

inductive Conv where
  | cvt
  | sclq
  | scld
  deriving DecidableEq, Repr

/-- The exact value that a conversion rounds, with the flags found on the way. -/
def convV (c : Conv) (x : Val) (scale : Nat) : Val × Fl :=
  match c with
  | .cvt => (x, 0)
  | .sclq => sclqV x (bscale (scale % 2 ^ 24))
  | .scld => scldV x (bscale (scale % 2 ^ 24))

/-- One conversion: entry words, mode, source pattern and scale. -/
def convert (c : Conv) (fd fs : Word) (mode : Mode) (pat scale : Nat) : RRes :=
  let y := convV c (decodeV (fmtOf fs) pat) scale
  let r := roundFmt (fmtOf fd) mode y.1
  { r with fl := r.fl ||| y.2 }

/-- The fields of CVT, SCLQ and SCLD (R137). -/
def KF.fd (f : KF) : BitVec 6 := f.c.extractLsb' 0 6
def KF.pd (f : KF) : Nat := fld f.c 7 6
def KF.fs (f : KF) : BitVec 6 := f.x.extractLsb' 0 6
def KF.ps (f : KF) : Nat := fld f.x 10 9

/-- R137: the rounding of a class 2 word. -/
def fmtMode (f : KF) (x : Wave) : Mode := modeOf (fld f.x 8 6) x.fcsr.toNat

/-- The result of a conversion for lane `l` of a wave. -/
def convLane (c : Conv) (f : KF) (k : Ctx) (x : Wave) (l : Nat) : RRes :=
  let ws := k.c.fmtEntry (KF.fs f).toNat
  let wd := k.c.fmtEntry (KF.fd f).toNat
  convert c wd ws (fmtMode f x) (fmtPart ws (KF.ps f) (x.rdT (contTy ws) (KF.A f) l)) (opB f k.wv x l)

/-- The active elements of an instruction with their waves and lanes, in ascending order. -/
def Ctx.elems (k : Ctx) (s : State) (pm : BitVec 3) (pn : Bool) : List (Nat × Wave × Nat) :=
  (k.states s).flatMap (fun q =>
    let a := k.act pm pn q.1 q.2
    ((List.range 32).filter (fun l => a.getLsbD l)).map
      (fun l => (if k.vec then 32 * q.1.wave + l else l, q.2, l)))

/-- R142, R143: all tests come before any effect; an OVF 2 path in any active element faults the instruction. Where
several causes hold, INVALID comes before LIMIT and the source before the destination (log entry 11). -/
def convOp (c : Conv) (f : KF) (k : Ctx) (s : State) : Res :=
  match firstErr [fmtInvalid k.c (KF.fs f), fmtInvalid k.c (KF.fd f), partLimit k.c (KF.fs f) (KF.ps f),
      pairLimit k (KF.fs f) f.a, partLimit k.c (KF.fd f) (KF.pd f), pairLimit k (KF.fd f) f.d] with
  | some x => .held (fmtFault k x (k.first s) s)
  | none =>
    match (k.elems s f.pm f.pn).find? (fun q => (convLane c f k q.2.1 q.2.2).fault) with
    | some q => .held (fmtFault k ⟨4, (KF.fd f).toNat⟩ q.1 s)
    | none =>
      let wd := k.c.fmtEntry (KF.fd f).toNat
      .done (onLanesFl f k s (fun x l =>
        let r := convLane c f k x l
        (fun a => a.wrT (contTy wd) (KF.D f) l (putPart wd (KF.pd f) r.pat (a.rdT (contTy wd) (KF.D f) l)), r.fl)))

def execCvt (f : KF) (s : State) : Out := issueCore (.cvt f) s (convOp .cvt f)
def execSclq (f : KF) (s : State) : Out := issueCore (.sclq f) s (convOp .sclq f)
def execScld (f : KF) (s : State) : Out := issueCore (.scld f) s (convOp .scld f)

/-! ### The table (R129, R139 to R141) -/

/-- The entry of FMTW, FMTR, FMTQ. -/
def KF.entry (f : KF) : Nat := fld f.c 5 0

/-- R129: matrix work of the crew that names an entry, accepted and not yet out of the array. -/
def MxItem.names (i : MxItem) (n : Nat) : Bool :=
  match i.kind with
  | .weights _ _ e => e == n
  | .pass _ _ e => e == n
  | .feed _ _ e => e == n
  | .scales _ => false
  | .zero => false

def Crew.matrixNames (c : Crew) (n : Nat) : Bool := c.mx.any (fun i => i.names n)

/-- R129: note or clear that an FMTW of the wave waits. -/
def State.fmtWait (s : State) (k : Ctx) (n : Option Nat) : State :=
  s.modCrew k.w.crew (fun c =>
    let rest := c.fmtw.filter (fun x => !(x.gang == k.w.gang && x.wave == k.w.wave))
    { c with fmtw := match n with | some n => rest ++ [⟨k.w.gang, k.w.wave, n⟩] | none => rest })

def fmtwOp (f : KF) (k : Ctx) (s : State) : Res :=
  let n := KF.entry f
  if k.c.matrixNames n then .wait .scoreboard (s.fmtWait k (some n))
  else
    let s := s.fmtWait k none
    let w : Word := (k.wv.rdS (KF.A f)).extractLsb' 0 32
    if w.getLsbD 31 && !fmtLegal w then .held (fmtFault k ⟨2, n⟩ (k.first s) s)
    else .done (s.modCrew k.w.crew (fun c => { c with fmt := SMap.set c.fmt 0 n w }))

def execFmtw (f : KF) (s : State) : Out := issueCore (.fmtw f) s (fmtwOp f)

def fmtrOp (f : KF) (k : Ctx) (s : State) : State :=
  onWave k s (fun x => x.wrS (KF.D f) ((k.c.fmtEntry (KF.entry f)).setWidth 64))

def execFmtr (f : KF) (s : State) : Out := issueCore (.fmtr f) s (fun k s => .done (fmtrOp f k s))

def fmtqOp (f : KF) (k : Ctx) (s : State) : Res :=
  match fmtInvalid k.c (f.c.extractLsb' 0 6) with
  | some x => .held (fmtFault k x (k.first s) s)
  | none => .done (onWave k s (fun x => x.wrS (KF.D f)
      (BitVec.ofNat 64 (fmtProp (k.c.fmtEntry (KF.entry f)) (fld f.x 2 0)))))

def execFmtq (f : KF) (s : State) : Out := issueCore (.fmtq f) s (fmtqOp f)

/-! ### BSCL and NDOT (R144, R145) -/

def Val.mag : Val → Val
  | .nan s => .nan s
  | .inf _ => .inf false
  | .num _ m e st => .num false m e st

/-- R144: the scale of the active lanes of one wave, which is one group of 32 in both forms. -/
def bsclWave (f : KF) (k : Ctx) (act : Word) (x : Wave) : Nat :=
  let ws := k.c.fmtEntry (KF.fs f).toNat
  let vs := ((List.range 32).filter (fun l => act.getLsbD l)).map
    (fun l => (decodeV (fmtOf ws) (fmtPart ws (KF.ps f) (x.rdT (contTy ws) (KF.A f) l))).mag)
  if vs.any (fun v => v.isNan || v.isInf) then 0xFF0000
  else
    bsclCode (vs.foldl (fun a v => if cmpV a v == .lt then v else a) (.num false 0 0 false))
      (fmtOf (k.c.fmtEntry (KF.fd f).toNat)).maxF

def bsclOp (f : KF) (k : Ctx) (s : State) : Res :=
  match firstErr [fmtInvalid k.c (KF.fs f), fmtInvalid k.c (KF.fd f), partLimit k.c (KF.fs f) (KF.ps f),
      pairLimit k (KF.fs f) f.a] with
  | some x => .held (fmtFault k x (k.first s) s)
  | none => .done (k.each s (fun v x =>
      let act := k.act f.pm f.pn v x
      let sc := BitVec.ofNat 32 (bsclWave f k act x)
      foldLanes act (fun l a => a.wrV (KF.D f) l sc) x))

def execBscl (f : KF) (s : State) : Out := issueCore (.bscl f) s (bsclOp f)

/-- R145: the limits of the matrix arrays on a narrow entry. -/
def narrowOk (w : Word) : Bool :=
  let t := fmtOf w
  !t.int && t.width ≤ 16 && t.ew ≤ 8 && t.fw ≤ 10

/-- R145: c plus the sum of the products of the parts, rounded once to F32. -/
def ndotVal (ws : Word) (mode : Mode) (a b c : Nat) : Nat × Fl :=
  let t := fmtOf ws
  let ps := (List.range (fmtParts t.width)).map
    (fun p => mulV (decodeV t (fmtPart ws p a)) (decodeV t (fmtPart ws p b)))
  let r := sumV mode (decodeV f32 c :: ps.map Prod.fst)
  give f32 mode (r.1, ps.foldl (fun fl p => fl ||| p.2) r.2)

def ndotOp (f : KF) (k : Ctx) (s : State) : Res :=
  let ws := k.c.fmtEntry (KF.fs f).toNat
  match firstErr [fmtInvalid k.c (KF.fs f), if narrowOk ws then none else some ⟨3, (KF.fs f).toNat⟩] with
  | some x => .held (fmtFault k x (k.first s) s)
  | none => .done (onLanesFl f k s (fun x l =>
      let r := ndotVal ws (fmtMode f x) (x.rdV (KF.A f) l).toNat (opB f k.wv x l) (x.rdV f.c.toNat l).toNat
      (fun a => a.wrV (KF.D f) l (BitVec.ofNat 32 r.1), r.2)))

def execNdot (f : KF) (s : State) : Out := issueCore (.ndot f) s (ndotOp f)

end Sys2Proof.Machine
end

