-- ==== Sys2Proof/Machine/Mem.lean ====
section
/-! DEFINITION. Class 5: address spaces, the tests at issue and during the access, partial completion, and the memory
instructions (R198 to R226). -/

namespace Sys2Proof.Machine

/-! ### Addresses (R198 to R201, R217) -/

/-- One live lane's access: its element, wave and lane, its effective address, and the virtual address that PRV gives it
(the effective address itself in the other spaces). -/
structure LaneAcc where
  e : Nat
  v : WaveId
  l : Nat
  ea : Nat
  va : Nat
  deriving DecidableEq, Repr

def MF.sz (f : MF) : Nat := 2 ^ f.size.toNat
def MF.glb (f : MF) : Bool := f.space == 0 || f.space == 3
def MF.scope (f : MF) : Nat := f.ord.toNat

/-- R200. -/
def prvVa (k : Ctx) (it o : Nat) : Nat := (k.l.prvBase.toNat + it * 16384 + o) % 2 ^ 64

def laneVa (f : MF) (k : Ctx) (e ea : Nat) : Nat := if f.space == 3 then prvVa k (k.iter e) ea else ea

/-- The end of the valid offsets of a space (R198). -/
def spaceEnd (sp : BitVec 2) (kn : Kernel) : Nat :=
  match sp.toNat with
  | 0 => 2 ^ 55
  | 1 => kn.crw
  | 2 => 0x1000 + (kn.consts.length + 7) / 8 * 8
  | _ => 16384

/-- The causes tested at issue, the lowest first (R212, R213). -/
def laneCause (f : MF) (k : Ctx) (write : Bool) (a : LaneAcc) : Option Nat :=
  if a.ea % MF.sz f != 0 then some 1
  else if spaceEnd f.space k.kn < a.ea + MF.sz f || (MF.glb f && 2 ^ 55 < a.va + MF.sz f) then some 2
  else if write && f.space == 2 then some 3
  else none

/-- R217: the effective address of a lane. -/
def laneEa (f : MF) (off : Int) (ld x : Wave) (l : Nat) : Nat :=
  let base : Nat := if f.sa then (ld.rdS f.a.toNat).toNat else (x.rdD f.a.toNat l).toNat
  let idx : Int := if f.ix then (x.rdV f.b.toNat l).toInt * (MF.sz f : Nat) else 0
  wrap 64 (base + off + idx)

/-- R224: the effective address of a strided access. -/
def strideEa (f : MF) (ld : Wave) (e : Nat) : Nat :=
  wrap 64 ((ld.rdS f.a.toNat).toNat + f.off.toInt + e * (ld.rdS f.b.toNat).toInt)

/-- R217: the live lanes of an access, in ascending order. -/
def liveLanes (f : MF) (k : Ctx) (s : State) (ea : Wave → Nat → Nat → Nat) : List LaneAcc :=
  (k.states s).flatMap (fun q =>
    let m := k.act f.pm f.pn q.1 q.2 &&& q.2.rpm
    ((List.range 32).filter (fun l => m.getLsbD l)).map (fun l =>
      let e := if k.vec then 32 * q.1.wave + l else l
      let a := ea q.2 l e
      ⟨e, q.1, l, a, laneVa f k e a⟩))

/-! ### Where an access goes (R203 to R206) -/

/-- Where a lane's access is performed. `hit`: served by a line of L1. -/
inductive At where
  | crw (o : Nat)
  | karg (o : Nat)
  | glb (l : Loc) (hit : Bool) (t : Tlb)
  deriving DecidableEq, Repr

/-- How an access uses L1: through it, through it without allocating (`.STRM`), or past it (`.BYP`, acquires, stores,
atomics). -/
inductive L1Use where
  | thru
  | noAlloc
  | past
  deriving DecidableEq, Repr

/-- Whether a line of L1 serves the access; a line that a cache may have given up is dropped (log entry 13). -/
def State.l1Hit (s : State) (cl : Nat) (u : L1Use) (t : Tlb) (l : Loc) : Bool × State :=
  if u == .past || !t.l1able || ((s.cluster cl).line? (l.pa / 128)).isNone then (false, s)
  else
    let h := s.stillHeld
    if h.1 then (true, h.2) else (false, h.2.setLine cl (l.pa / 128) none)

/-- Translate one GLB or PRV address and find where it is served: the place, or the cause (R213). -/
def State.find (s : State) (cl asid va n : Nat) (u : Use) (c : L1Use) : State × Except Nat At :=
  match s.xlat cl asid va u with
  | (s, .error e) => (s, .error e)
  | (s, .ok t) =>
    let l := t.loc va
    let h := s.l1Hit cl c t l
    if h.1 then
      (h.2, if h.2.ecc.contains (.l1 cl (l.pa / 128)) then .error 10 else .ok (.glb l true t))
    else if !h.2.answers l then (h.2, .error 9)
    else if !l.rmt && h.2.eccHbm l.pa n then (h.2, .error 10)
    else (h.2, .ok (.glb l false t))

/-- Resolve one lane (R213, during the access). -/
def resolveLane (f : MF) (k : Ctx) (u : Use) (c : L1Use) (s : State) (a : LaneAcc) : State × Except Nat At :=
  if f.space == 1 then
    (s, if s.eccCrw k.w.crew a.ea (MF.sz f) then .error 10 else .ok (.crw a.ea))
  else if f.space == 2 then (s, .ok (.karg a.ea))
  else s.find k.cluster k.asid a.va (MF.sz f) u c

/-- Resolve every lane. -/
def resolveAll (f : MF) (k : Ctx) (u : Use) (c : L1Use) : List LaneAcc → State → State × List (LaneAcc × Except Nat At)
  | [], s => (s, [])
  | a :: t, s =>
    let r := resolveLane f k u c s a
    let q := resolveAll f k u c t r.1
    (q.1, (a, r.2) :: q.2)

/-! ### One lane's access -/

/-- Bring the line of a location into L1, if its page and its sectors allow. -/
def State.fill (s : State) (cl : Nat) (t : Tlb) (l : Loc) : State :=
  let b : Loc := { l with pa := l.pa / 128 * 128 }
  if t.l1able && !s.eccHbm b.pa 128 then s.putLine cl (l.pa / 128) (BitVec.ofNat 1024 (leNat (s.seen cl b 128)))
  else s

/-- Read `n` bytes at a place. A read of the home channel past L1, or through a page whose lines L1 never holds, drops the
line that L1 has of the location through another page: the iteration has read what may be newer (R392). The bytes that round
the constant section up to 8 read 0 (log entry 144). -/
def State.readAt (s : State) (k : Ctx) (n : Nat) (c : L1Use) (p : At) : State × Nat :=
  match p with
  | .crw o => (s, match s.crew? k.w.crew with | some x => Memory.le x.crw o n | none => 0)
  | .karg o => (s, if o < 0x1000 then Memory.le k.l.args o n
      else leNat ((List.range n).map (fun i => k.kn.consts.getD (o - 0x1000 + i) 0)))
  | .glb l hit t =>
    if hit then
      (s, leNat (match (s.cluster k.cluster).line? (l.pa / 128) with
        | some v => lineBytes v (l.pa % 128) n
        | none => s.seen k.cluster l n))
    else
      let v := leNat (s.seen k.cluster l n)
      let s := s.countRemote k.cluster l
      (if c == .past || !t.l1able then (if l.rmt then s else s.setLine k.cluster (l.pa / 128) none)
        else if c == .thru then s.fill k.cluster t l else s, v)

/-- R420: log what a store or atomic replaced, in a debug crew. -/
def State.undoMem (s : State) (k : Ctx) (a : LaneAcc) (size old : Nat) : State :=
  if k.c.debug then s.undoPush k.c a.v (undoEntry 6 0 a.l size k.vec k.wv.pc (BitVec.ofNat 64 a.va) old) else s

def State.setCrw (s : State) (k : Ctx) (o n v : Nat) : State :=
  s.modCrew k.w.crew (fun x => { x with crw := Memory.setLe x.crw o n v })

/-- Store `n` bytes at a place: crew memory at once, GLB and PRV when the home channel performs them, and at once in a
debug crew, whose stores are exchanges (R420). -/
def State.writeAt (s : State) (k : Ctx) (a : LaneAcc) (size v : Nat) (p : At) : State :=
  let n := 2 ^ size
  match p with
  | .crw o => (s.undoMem k a size (s.readAt k n .past p).2).setCrw k o n v
  | .karg _ => s
  | .glb l _ t =>
    let bs := leBytes n v
    if k.c.debug then
      let s := (s.countRemote k.cluster l).performRange k.cluster l n
      ((s.undoMem k a size (leNat (s.homeRead l n))).l1Store k.cluster l bs).homeWrite l bs
    else (s.countRemote k.cluster l).putStore k.cluster a.v a.va l t bs

/-- An indivisible read-modify-write at a place (R220, R221). Answers the old value. -/
def State.rmwAt (s : State) (k : Ctx) (a : LaneAcc) (size : Nat) (g : Nat → Option Nat) (p : At) : State × Nat :=
  let n := 2 ^ size
  match p with
  | .crw o =>
    let old := (s.readAt k n .past p).2
    match g old with
    | some v => ((s.undoMem k a size old).setCrw k o n v, old)
    | none => (s, old)
  | .karg _ => (s, 0)
  | .glb l _ t =>
    let r := (s.countRemote k.cluster l).rmw k.cluster l n g
    match g r.2 with
    | some _ => ((r.1.touch t useStore).1.undoMem k a size r.2, r.2)
    | none => r

/-! ### The access of an instruction -/

/-- Take the elements of a list in an order that free values choose (R217, R220; log entry 17). -/
def shuffle {α : Type} : Nat → List α → State → List α × State
  | 0, l, s => (l, s)
  | n + 1, l, s =>
    match l with
    | [] => ([], s)
    | _ =>
      let i := s.fresh.1 % l.length
      let r := shuffle n (l.eraseIdx i) s.fresh.2
      ((l[i]?).toList ++ r.1, r.2)

/-- Whether two lanes touch the same bytes. -/
def anyOverlap (n : Nat) : List LaneAcc → Bool
  | [] => false
  | a :: t => t.any (fun b => a.va < b.va + n && b.va < a.va + n) || anyOverlap n t

/-- R203: the sector accesses of an instruction that leave the core: those to GLB and PRV that no line of L1 serves,
where the lanes of one wave share a sector. -/
def sectors (l : List (LaneAcc × At)) : Nat :=
  (l.foldl (fun (a : List (Nat × Bool × Nat)) p => match p.2 with
    | .glb x false _ =>
      let n := (p.1.v.wave, x.rmt, x.pa / 32)
      if a.contains n then a else n :: a
    | _ => a) []).length

/-- R371: add sector accesses to a gang's MEMTX. -/
def State.addMemtx (s : State) (g : GangId) (n : Nat) : State :=
  s.modGang g (fun g => { g with memtx := sat64 (g.memtx + n) })

def causeRecoverable (c : Nat) : Bool := c == 4 || c == 5 || c == 6 || c == 9

/-- The record of a memory fault of a lane (R213, R405). -/
def memRecord (f : MF) (k : Ctx) (cause : Nat) (status : RStatus) (a : LaneAcc) (pmask : Word) : RecF :=
  { k.report 2 cause status a.e .access with
    va := a.va % 2 ^ 55, pmask := pmask, aux := if f.space == 3 then a.ea % 2 ^ 32 else 0 }

/-- R213, R214, R404: some lanes faulted. The record has the cause and the address of the lowest lane whose cause is not
recoverable, else of the lowest; ITER names the lowest-numbered faulting one, and WAVE the lowest-numbered wave that holds a
faulting element, with its mask; each wave's RPM becomes its faulting lanes. -/
def memFault (i : Instr) (f : MF) (k : Ctx) (before s : State) (bad : List (LaneAcc × Nat)) : Res :=
  match (bad.find? (fun p => !causeRecoverable p.2)).or bad.head? with
  | none => .done s
  | some p =>
    let low := (bad.head?.getD p).1
    let mask (v : WaveId) : Word :=
      bad.foldl (fun m q => if q.1.v == v then setBit m q.1.l true else m) 0
    let s := k.each s (fun v x => { x with rpm := mask v, timedOut := false, remoteWait := false })
    let st : RStatus := if causeRecoverable p.2 then .resumable else .stops
    .held (faultAt k { memRecord f k p.2 st p.1 (~~~mask low.v) with
      iter := k.term low.e
      wave := if k.g.serial.isSome then k.termJ low.e / 32 else low.v.wave } (countIssue i k before (undoRegs i k before s)))

/-- What an access does beside its lanes: whether it writes, what it asks of the page, how it uses L1. -/
structure MemHow where
  write : Bool
  use : Use
  l1 : L1Use
  deriving DecidableEq, Repr

/-- The common course of a class 5 access (R213, R214, R217): the tests at issue, translation, the lanes that meet no
cause, MEMTX, and the record of those that do. A lane whose remote home does not answer makes the wave wait until it does
or until the timeout (R212). -/
def memOp (i : Instr) (f : MF) (h : MemHow) (ea : Wave → Nat → Nat → Nat)
    (body : State → LaneAcc → At → State) (k : Ctx) (s : State) : Res :=
  let lanes := liveLanes f k s ea
  match lanes.find? (fun a => (laneCause f k h.write a).isSome) with
  | some a => .held (faultAt k (memRecord f k ((laneCause f k h.write a).getD 0) .stops a 0xFFFFFFFF) s)
  | none =>
    let r := resolveAll f k h.use h.l1 lanes s
    let ok := r.2.filterMap (fun p => match p.2 with | .ok x => some (p.1, x) | .error _ => none)
    let bad := r.2.filterMap (fun p => match p.2 with | .error c => some (p.1, c) | .ok _ => none)
    if bad.any (fun p => p.2 == 9) && !k.wv.timedOut then
      .wait .memory (r.1.modWave k.w (fun x => { x with remoteWait := true }))
    else
      let o := if h.write && !k.vec && anyOverlap (MF.sz f) (ok.map Prod.fst) then shuffle ok.length ok r.1 else (ok, r.1)
      let s2 := o.1.foldl (fun s p => body s p.1 p.2) o.2
      let s2 := s2.addMemtx k.gid (sectors ok)
      if bad.isEmpty then
        .done (k.each s2 (fun _ x => { x with rpm := 0xFFFFFFFF, timedOut := false, remoteWait := false }))
      else memFault i f k s s2 bad

/-! ### Data registers (R216, R218) -/

/-- The data of a lane, its lowest address in V[D]. -/
def Wave.rdData (x : Wave) (size : BitVec 3) (d l : Nat) : Nat :=
  if size == 4 then (x.rdD (d + 2) l ++ x.rdD d l).toNat
  else if size == 3 then (x.rdD d l).toNat else (x.rdV d l).toNat

def Wave.wrData (x : Wave) (size : BitVec 3) (d l v : Nat) : Wave :=
  if size == 4 then (x.wrD d l (BitVec.ofNat 64 v)).wrD (d + 2) l (BitVec.ofNat 64 (v / 2 ^ 64))
  else if size == 3 then x.wrD d l (BitVec.ofNat 64 v) else x.wrV d l (BitVec.ofNat 32 v)

/-- R218: what a load writes. -/
def loadVal (f : MF) (v : Nat) : Nat := if f.sx then wrap 32 (sgn (8 * MF.sz f) v) else v

/-- Load one lane. -/
def loadLane (f : MF) (c : L1Use) (k : Ctx) (s : State) (a : LaneAcc) (p : At) : State :=
  let r := s.readAt k (MF.sz f) c p
  r.1.modWave a.v (fun x => x.wrData f.size f.d.toNat a.l (loadVal f r.2))

/-- Store one lane. -/
def storeLane (f : MF) (k : Ctx) (s : State) (a : LaneAcc) (p : At) : State :=
  match s.wave? a.v with
  | some x => s.writeAt k a f.size.toNat (x.rdData f.size f.d.toNat a.l) p
  | none => s

/-! ### LD, ST, VLDS, VSTS (R218, R224) -/

def ldUse (f : MF) : L1Use := if f.ord == 0 then .thru else if f.ord == 1 then .noAlloc else .past

def ldOp (i : Instr) (f : MF) (c : L1Use) (k : Ctx) (s : State) : Res :=
  memOp i f ⟨false, useLoad, c⟩ (fun x l _ => laneEa f f.off.toInt k.wv x l) (loadLane f c k) k s

def execLd (f : MF) (s : State) : Out := issueCore (.ld f) s (ldOp (.ld f) f (ldUse f))

def stOp (i : Instr) (f : MF) (k : Ctx) (s : State) : Res :=
  memOp i f ⟨true, useStore, .past⟩ (fun x l _ => laneEa f f.off.toInt k.wv x l) (storeLane f k) k s

def execSt (f : MF) (s : State) : Out := issueCore (.st f) s (stOp (.st f) f)

def execVlds (f : MF) (s : State) : Out :=
  issueCore (.vlds f) s (fun k s =>
    memOp (.vlds f) f ⟨false, useLoad, .thru⟩ (fun _ _ e => strideEa f k.wv e) (loadLane f .thru k) k s)

def execVsts (f : MF) (s : State) : Out :=
  issueCore (.vsts f) s (fun k s =>
    memOp (.vsts f) f ⟨true, useStore, .past⟩ (fun _ _ e => strideEa f k.wv e) (storeLane f k) k s)

/-! ### Uniform loads (R218) -/

/-- The element whose window a uniform PRV load reads. -/
def uniElem (k : Ctx) : Nat := if k.vec then 0 else (lowBit k.wv.mask).getD 0

/-- R218: S[D] := x, once per issue; the load faults whole. -/
def uniLoad (f : MF) (c : L1Use) (k : Ctx) (s : State) : Res :=
  let ea := wrap 64 ((k.wv.rdS f.a.toNat).toNat + f.off.toInt)
  let e := uniElem k
  let a : LaneAcc := ⟨e, k.w, e % 32, ea, laneVa f k e ea⟩
  let fault (cause : Nat) (s : State) : Res :=
    let st : RStatus := if causeRecoverable cause then .resumable else .stops
    .held (faultAt k (memRecord f k cause st { a with e := k.first s } 0xFFFFFFFF)
      (s.modWave k.w (fun x => { x with timedOut := false, remoteWait := false })))
  match laneCause f k false a with
  | some cause => fault cause s
  | none =>
    match resolveLane f k useLoad c s a with
    | (s1, .error cause) =>
      if cause == 9 && !k.wv.timedOut then .wait .memory (s1.modWave k.w (fun x => { x with remoteWait := true }))
      else fault cause s1
    | (s1, .ok p) =>
      let r := s1.readAt k (MF.sz f) c p
      let v := if f.sx then wrap 64 (sgn (8 * MF.sz f) r.2) else r.2
      let s2 := r.1.addMemtx k.gid (sectors [(a, p)])
      .done (s2.modWave k.w (fun x =>
        { x.wrS f.d.toNat (BitVec.ofNat 64 v) with timedOut := false, remoteWait := false }))

def execLdUniform (f : MF) (s : State) : Out := issueCore (.ldUniform f) s (uniLoad f (ldUse f))

/-! ### LDA, STL, FENCE (R219, R222) -/

/-- R219: an acquire. At DEVICE or DOMAIN it first invalidates L1 and reads at the home channel. -/
def ldaOp (f : MF) (k : Ctx) (s : State) : Res :=
  let s := s.acquire k.cluster (MF.scope f)
  let c : L1Use := if MF.scope f = 0 then .thru else .past
  if !f.ix && f.b.getLsbD 0 then uniLoad f c k s else ldOp (.lda f) f c k s

def execLda (f : MF) (s : State) : Out := issueCore (.lda f) s (ldaOp f)

/-- R219: the stores of a wave's gang that this step issued are those of an STL at a scope. -/
def State.stlStores (s : State) (k : Ctx) (scope : Nat) : State :=
  s.modCluster k.cluster (fun c => { c with stores := c.stores.map (fun p =>
    if p.born == s.now && gangOf p.wave == k.gid then { p with rel := scope } else p) })

/-- R219: a release. What the cluster stored before, and what the STL stores, is seen by every agent of the crew; what it
stores is performed at its scope before a later release of the wave is. -/
def stlOp (f : MF) (k : Ctx) (s : State) : Res :=
  if s.releaseWaits k.cluster k.w (MF.scope f) then .wait .memory s
  else (stOp (.stl f) f k s).andThen (fun t => (t.stlStores k (MF.scope f)).released k.cluster)

def execStl (f : MF) (s : State) : Out := issueCore (.stl f) s (stlOp f)

/-- R222: the wave's later stores are held until the stores issued up to now are performed at a scope. A hold whose
stores are all performed is over. -/
def State.addHold (s : State) (k : Ctx) (scope : Nat) : State :=
  let c := s.cluster k.cluster
  s.modWave k.w (fun x => { x with
    holds := ⟨scope, s.now + 1⟩ :: x.holds.filter (fun h => c.stores.any (fun p => p.born < h.before && c.owes k.w h.scope p)) })

/-- R222: kinds 0 ACQ, 1 REL, 2 AR, 3 SC. A load has its value when it issues. ACQ is over at once; REL and AR hold the
wave's later stores and not its loads; SC waits itself, since it holds its later loads too. -/
def fenceOp (f : MF) (k : Ctx) (s : State) : Res :=
  let kind := fld f.off 1 0
  let scope := MF.scope f
  if kind == 0 then .done (s.acquire k.cluster scope)
  else if kind == 3 then
    if s.releaseWaits k.cluster k.w scope then .wait .memory s else .done ((s.released k.cluster).acquire k.cluster scope)
  else
    let s := (s.released k.cluster).addHold k scope
    .done (if kind == 1 then s else s.acquire k.cluster scope)

def execFence (f : MF) (s : State) : Out := issueCore (.fence f) s (fenceOp f)

/-! ### ATOM and CAS (R220, R221) -/

/-- R220: the new value of an atomic operation. -/
def atomNew (aop w o b : Nat) : Nat :=
  let t := if w = 64 then f64 else f32
  match aop with
  | 0 => wrap w (o + b)
  | 1 => o &&& b
  | 2 => o ||| b
  | 3 => o ^^^ b
  | 4 => if sgn w b < sgn w o then b else o
  | 5 => if sgn w o < sgn w b then b else o
  | 6 => min o b
  | 7 => max o b
  | 8 => b
  | 9 => if b ≤ o then 0 else o + 1
  | 10 => if o = 0 || b < o then b else o - 1
  | 11 => (gAdd t .rne o b).1
  | 12 => (gMinMax t false o b).1
  | _ => (gMinMax t true o b).1

/-- The offset of ATOM is 8 bits (R62). -/
def atomOff (f : MF) : Int := (f.off.extractLsb' 0 8).toInt

def atomLane (f : MF) (k : Ctx) (s : State) (a : LaneAcc) (p : At) : State :=
  match s.wave? a.v with
  | some x =>
    let w := 8 * MF.sz f
    let b := x.rdData f.size f.b.toNat a.l % 2 ^ w
    let r := s.rmwAt k a f.size.toNat (fun o => some (atomNew (fld f.off 11 8) w o b)) p
    r.1.modWave a.v (fun y => y.wrData f.size f.d.toNat a.l r.2)
  | none => s

def execAtom (f : MF) (s : State) : Out :=
  issueCore (.atom f) s (fun k s =>
    memOp (.atom f) f ⟨true, useStore, .past⟩ (fun x l _ => laneEa f (atomOff f) k.wv x l) (atomLane f k) k s)

def casLane (f : MF) (k : Ctx) (s : State) (a : LaneAcc) (p : At) : State :=
  match s.wave? a.v with
  | some x =>
    let w := 8 * MF.sz f
    let b := x.rdData f.size f.b.toNat a.l % 2 ^ w
    let d := x.rdData f.size f.d.toNat a.l % 2 ^ w
    let r := s.rmwAt k a f.size.toNat (fun o => if o = b then some d else none) p
    r.1.modWave a.v (fun y => y.wrData f.size f.d.toNat a.l r.2)
  | none => s

def execCas (f : MF) (s : State) : Out :=
  issueCore (.cas f) s (fun k s =>
    memOp (.cas f) f ⟨true, useCas, .past⟩ (fun x l _ => laneEa f f.off.toInt k.wv x l) (casLane f k) k s)

/-! ### LDF and STF (R225) -/

/-- R225: the entry and its container fit the word. -/
def memFmtErr (f : MF) (k : Ctx) : Option FmtErr :=
  let n := f.b.toNat
  firstErr [fmtInvalid k.c (f.b.extractLsb' 0 6),
    if fmtPartW (fmtW (k.c.fmtEntry n)) = 8 * MF.sz f then none else some ⟨3, n⟩]

def memTy (f : MF) : BitVec 2 := if f.ord == 1 then 1 else 0

/-- FCSR.RM of the owning wave (R110). -/
def waveMode (x : Wave) : Mode := modeOfRm (bits x.fcsr.toNat 7 5)

def ldfLane (f : MF) (k : Ctx) (s : State) (a : LaneAcc) (p : At) : State :=
  let r := s.readAt k (MF.sz f) .thru p
  let w := k.c.fmtEntry f.b.toNat
  r.1.modWave a.v (fun x =>
    let q := roundFmt (nat? (memTy f)) (waveMode x) (decodeV (fmtOf w) r.2)
    (x.wrT (memTy f) f.d.toNat a.l q.pat).orFlags q.fl)

def ldfOp (f : MF) (k : Ctx) (s : State) : Res :=
  match memFmtErr f k with
  | some x => .held (fmtFault k x (k.first s) s)
  | none => memOp (.ldf f) f ⟨false, useLoad, .thru⟩ (fun x l _ => laneEa f f.off.toInt k.wv x l) (ldfLane f k) k s

def execLdf (f : MF) (s : State) : Out := issueCore (.ldf f) s (ldfOp f)

/-- The pattern that STF stores for a lane. -/
def stfVal (f : MF) (k : Ctx) (x : Wave) (l : Nat) : RRes :=
  roundFmt (fmtOf (k.c.fmtEntry f.b.toNat)) (waveMode x) (decodeV (nat? (memTy f)) (x.rdT (memTy f) f.d.toNat l))

def stfLane (f : MF) (k : Ctx) (s : State) (a : LaneAcc) (p : At) : State :=
  match s.wave? a.v with
  | some x =>
    let q := stfVal f k x a.l
    (s.writeAt k a f.size.toNat q.pat p).modWave a.v (fun y => y.orFlags q.fl)
  | none => s

/-- R225: format causes come before memory causes, and an OVF 2 path before any element stores. -/
def stfOp (f : MF) (k : Ctx) (s : State) : Res :=
  let ea := fun (x : Wave) (l _ : Nat) => laneEa f f.off.toInt k.wv x l
  match memFmtErr f k with
  | some x => .held (fmtFault k x (k.first s) s)
  | none =>
    match (liveLanes f k s ea).find? (fun a => match s.wave? a.v with
        | some x => (stfVal f k x a.l).fault
        | none => false) with
    | some a => .held (fmtFault k ⟨4, f.b.toNat⟩ a.e s)
    | none => memOp (.stf f) f ⟨true, useStore, .past⟩ ea (stfLane f k) k s

def execStf (f : MF) (s : State) : Out := issueCore (.stf f) s (stfOp f)

/-! ### PREF and CMAINT (R223, R226) -/

/-- The GLB and PRV lanes of a word that never faults, without those that fail a cause at issue. -/
def quietLanes (f : MF) (k : Ctx) (s : State) : List LaneAcc :=
  if MF.glb f then
    (liveLanes f k s (fun x l _ => laneEa f f.off.toInt k.wv x l)).filter (fun a => (laneCause f k false a).isNone)
  else []

/-- The places of the quiet lanes whose address translates and whose home answers. -/
def findQuiet (f : MF) (k : Ctx) (u : Use) (c : L1Use) : List LaneAcc → State → State × List (LaneAcc × At)
  | [], s => (s, [])
  | a :: t, s =>
    let r := s.find k.cluster k.asid a.va (MF.sz f) u c
    let q := findQuiet f k u c t r.1
    match r.2 with
    | .ok p => (q.1, (a, p) :: q.2)
    | .error _ => q

/-- R223: `.L1` brings the line into L1; the memory-side cache is part of the home channel and holds no other value. -/
def prefOp (f : MF) (k : Ctx) (s : State) : State :=
  let r := findQuiet f k usePref .thru (quietLanes f k s) s
  let s := r.1.addMemtx k.gid (sectors r.2)
  r.2.foldl (fun s p => match p.2 with
    | .glb l false t => if f.ord == 0 then s.fill k.cluster t l else s
    | _ => s) s

def execPref (f : MF) (s : State) : Out := issueCore (.pref f) s (fun k s => .done (prefOp f k s))

/-- R226: `.INV` drops the line from L1; `.CLEAN` and `.FLUSH` move no value that a program can read. -/
def cmaintOp (f : MF) (k : Ctx) (s : State) : State :=
  let r := findQuiet f k useLoad .past (quietLanes f k s) s
  r.2.foldl (fun s p => match p.2 with
    | .glb l _ _ => if f.ord == 0 && !l.rmt then s.setLine k.cluster (l.pa / 128) none else s
    | _ => s) r.1

def execCmaint (f : MF) (s : State) : Out := issueCore (.cmaint f) s (fun k s => .done (cmaintOp f k s))

end Sys2Proof.Machine
end

