-- ==== Sys2Proof/Machine/Sync.lean ====
section
/-! DEFINITION. Class 6: the copy engine, the crew barrier, barrier objects and named queues (R229 to R254), with the
landing of copy units, the parking of copies, and the responses of the memory system (R205 to R215). -/

namespace Sys2Proof.Machine

/-! ### Faults of class 6 (R232, R246, R251) -/

/-- A memory fault of an offset or address that a class 6 word names. -/
def addrFault (k : Ctx) (cause addr : Nat) (s : State) : Res :=
  .held (faultAt k { k.report 2 cause .stops (k.first s) .access with va := addr % 2 ^ 55 } s)

/-! ### Copies (R229 to R234, R249, R250) -/

/-- What a copy word asks for. `neg`: a negative immediate length. -/
structure CopyArgs where
  dst : Nat
  src : Dword
  rowlen : Nat
  rows : Nat
  pitch : Dword
  two : Bool
  neg : Bool
  obj : Option Nat
  deriving DecidableEq, Repr

/-- R249: the source of row r. -/
def rowSrc (src pitch : Dword) (r : Nat) : Nat := (src + BitVec.ofNat 64 r * pitch).toNat

/-- R232: the first of the tests at issue that fails, with the address it names (log entry 135). -/
def copyCheck (crw : Nat) (c : CopyArgs) : Option (Nat × Nat) :=
  let row (r : Nat) : Option (Nat × Nat) :=
    let a := rowSrc c.src c.pitch r
    let z := (a + c.rowlen - 1) % 2 ^ 64
    if 2 ^ 55 ≤ a then some (2, a) else if 2 ^ 55 ≤ z then some (2, z) else none
  if c.neg then some (2, c.src.toNat)
  else if c.dst % 16 != 0 then some (1, c.dst)
  else if c.src.toNat % 16 != 0 then some (1, c.src.toNat)
  else if c.rowlen % 16 != 0 then some (1, c.src.toNat)
  else if c.two && c.pitch.toNat % 16 != 0 then some (1, c.src.toNat)
  else if (match c.obj with | some o => decide (crw < o + 16) | none => false) then some (2, c.obj.getD 0)
  else if c.rowlen * c.rows = 0 then none
  else if crw < c.dst + c.rowlen * c.rows then some (2, c.dst)
  else (List.range c.rows).foldl (fun a r => a.or (row r)) none

/-- Issue a copy. It joins the open batch, or counts into a barrier object. -/
def copyOp (c : CopyArgs) (k : Ctx) (s : State) : Res :=
  match copyCheck k.kn.crw c with
  | some p => addrFault k p.1 p.2 s
  | none =>
    if 256 ≤ (s.cluster k.cluster).copies.length then .wait .memory s
    else if c.rowlen * c.rows = 0 then .done s
    else
      let r := k.report 7 0 .stops (k.first s) .terms
      let x : Copy :=
        { wave := k.w, taddr := r.taddr, voff := r.voff, vform := k.vec, site := r.site, iter := r.iter, eqp := r.eqp
          dst := c.dst, src := c.src, rowlen := c.rowlen, rows := c.rows, pitch := c.pitch
          todo := List.range (c.rowlen * c.rows / 16), batch := 0, obj := c.obj, after := s.now, parked := none }
      .done (s.modCluster k.cluster (fun y => { y with copies := y.copies ++ [x] }))

/-- The barrier object that a word with BO names (R248). -/
def boOf (f : KF) : Option Nat := if f.x.getLsbD 11 then some (16 * fld f.x 10 0) else none

def cpyArgs (f : KF) (k : Ctx) : CopyArgs :=
  { dst := (k.wv.rdS (KF.D f)).toNat, src := k.wv.rdS (KF.A f), rowlen := (opS f k.wv).toNat, rows := 1, pitch := 0
    two := false, neg := f.b.isImm && (opS f k.wv).msb, obj := boOf f }

def execCpy (f : KF) (s : State) : Out := issueCore (.cpy f) s (fun k s => copyOp (cpyArgs f k) k s)

def cpytArgs (f : KF) (k : Ctx) : CopyArgs :=
  { dst := (k.wv.rdS (KF.D f)).toNat, src := k.wv.rdS (KF.A f), rowlen := fld (opS f k.wv) 23 0
    rows := fld (opS f k.wv) 39 24, pitch := k.wv.rdS f.c.toNat, two := true, neg := false, obj := boOf f }

def execCpyt (f : KF) (s : State) : Out := issueCore (.cpyt f) s (fun k s => copyOp (cpytArgs f k) k s)

/-- The closed batches of a wave that are not complete (R230), lowest first. -/
def openBatches (s : State) (cl : Nat) (w : WaveId) : List Nat :=
  (((s.cluster cl).copies.filter (fun c => c.wave == w && c.batch != 0)).map (fun c => c.batch)).eraseDups

/-- R231: the batch whose completion a CPYB waits for: the oldest of 16 at the time it was issued, until it completes. -/
def cpybWaits (k : Ctx) (s : State) : Option Nat :=
  let open_ := openBatches s k.cluster k.w
  match k.wv.batchWait with
  | some b => if open_.contains b then some b else none
  | none => if 16 ≤ open_.length then open_.head? else none

/-- R250: close the open batch. -/
def cpybOp (f : KF) (k : Ctx) (s : State) : Res :=
  match cpybWaits k s with
  | some b => .wait .copywait (s.modWave k.w (fun x => { x with batchWait := some b }))
  | none =>
    let n := k.wv.lastBatch + 1
    let s := s.modCluster k.cluster (fun y => { y with
      copies := y.copies.map (fun c => if c.wave == k.w && c.batch == 0 && c.obj.isNone then { c with batch := n } else c) })
    .done (s.modWave k.w (fun x => { x.wrS (KF.D f) (BitVec.ofNat 64 n) with lastBatch := n, batchWait := none }))

def execCpyb (f : KF) (s : State) : Out := issueCore (.cpyb f) s (cpybOp f)

/-- The batch number that CPYW names: an immediate is unsigned (R250). -/
def cpywArg (f : KF) (k : Ctx) : Nat :=
  match f.b with
  | .imm i => i.toNat
  | _ => (opS f k.wv).toNat

def cpywOp (f : KF) (k : Ctx) (s : State) : Res :=
  if (openBatches s k.cluster k.w).any (fun n => n ≤ cpywArg f k) then .wait .copywait s else .done s

def execCpyw (f : KF) (s : State) : Out := issueCore (.cpyw f) s (cpywOp f)

/-! ### Barrier objects (R236 to R238, R251) -/

/-- A barrier object (R236) without its reserved bits. -/
structure Bar where
  tx : Int
  ph : Bool
  count : Nat
  pend : Nat
  deriving DecidableEq, Repr

/-- The object in 16 bytes. -/
def Bar.of (v : Nat) : Bar :=
  ⟨sgn 32 (bits v 127 96), bit v 64, bits v 63 48, bits v 47 32⟩

/-- The 16 bytes again, reserved bits kept as they were. -/
def Bar.put (b : Bar) (v : Nat) : Nat :=
  wrap 32 b.tx * 2 ^ 96 + bits v 95 65 * 2 ^ 65 + (if b.ph then 2 ^ 64 else 0) + b.count * 2 ^ 48 + b.pend * 2 ^ 32
    + bits v 31 0

def txOk (x : Int) : Bool := decide (-(2 ^ 31 : Int) ≤ x) && decide (x < 2 ^ 31)

/-- R237: Check. -/
def Bar.check (b : Bar) : Bar := if b.pend = 0 ∧ b.tx = 0 then { b with ph := !b.ph, pend := b.count } else b

/-- R237: Arrive; no answer is BADOBJ. -/
def Bar.arrive (b : Bar) (n : Int) : Option Bar :=
  if b.count = 0 || b.pend = 0 || !txOk (b.tx + n) then none
  else some (Bar.check { b with tx := b.tx + n, pend := b.pend - 1 })

/-- R237: Land; no answer is BADOBJ. -/
def Bar.land (b : Bar) (n : Int) : Option Bar :=
  if txOk (b.tx - n) then some (Bar.check { b with tx := b.tx - n }) else none

/-- The object at an offset of a crew's memory. -/
def State.bar (s : State) (c : CrewId) (o : Nat) : Nat :=
  match s.crew? c with
  | some x => Memory.le x.crw o 16
  | none => 0

def State.setBar (s : State) (c : CrewId) (o : Nat) (b : Bar) : State :=
  s.modCrew c (fun x => { x with crw := Memory.setLe x.crw o 16 (b.put (Memory.le x.crw o 16)) })

/-- R251: the offset in S[A] fits an object. -/
def objCheck (k : Ctx) (o : Nat) : Option Nat := if o % 16 != 0 then some 1 else if k.kn.crw < o + 16 then some 2 else none

/-- R237, R238: an arrival, a release at CREW scope. -/
def arriveOp (f : KF) (n : Int) (k : Ctx) (s : State) : Res :=
  let o := (k.wv.rdS (KF.A f)).toNat
  match objCheck k o with
  | some c => addrFault k c o s
  | none =>
    if s.releaseWaits k.cluster k.w 0 then .wait .memory s
    else if s.eccCrw k.w.crew o 16 then addrFault k 10 o s
    else
      let b := Bar.of (s.bar k.w.crew o)
      match b.arrive n with
      | none => syncFault k 2 o s
      | some b2 =>
        .done (((s.setBar k.w.crew o b2).released k.cluster).modWave k.w (fun x =>
          x.wrS (KF.D f) (if b.ph then 1 else 0)))

def execBara (f : KF) (s : State) : Out := issueCore (.bara f) s (arriveOp f 0)

/-- R251: expected bytes are 32 bits, read signed. -/
def execBarx (f : KF) (s : State) : Out :=
  issueCore (.barx f) s (fun k s => arriveOp f ((opS f k.wv).extractLsb' 0 32).toInt k s)

def barwOp (f : KF) (k : Ctx) (s : State) : Res :=
  let o := (k.wv.rdS (KF.A f)).toNat
  match objCheck k o with
  | some c => addrFault k c o s
  | none =>
    if s.eccCrw k.w.crew o 16 then addrFault k 10 o s
    else if (Bar.of (s.bar k.w.crew o)).ph == (opS f k.wv).getLsbD 0 then .wait .barrier s
    else .done s

def execBarw (f : KF) (s : State) : Out := issueCore (.barw f) s (barwOp f)

/-! ### The crew barrier (R235) -/

/-- Every wave of the crew has arrived or retired. -/
def barComplete (s : State) (c : CrewId) : Bool :=
  s.waves.all (fun p => p.1.crew != c || p.2.retired || p.2.barIn)

/-- The phase completes: the waves that arrived are let go. -/
def barRelease (s : State) (c : CrewId) : State :=
  { s with waves := Tab.map s.waves (fun w x =>
      if w.crew == c && x.barIn then
        { x with barIn := false, barOut := true, stall := if x.stall == .barrier then .ready else x.stall }
      else x) }

/-- R235: arrive, once every earlier access is performed at CREW scope, and pass once the phase has completed. -/
def barOp (k : Ctx) (s : State) : Res :=
  let there := k.wv.barIn || k.wv.barOut
  if !k.vec && !k.wv.dstack.isEmpty && !there then syncFault k 1 0 s
  else if !there && s.releaseWaits k.cluster k.w 0 then .wait .memory s
  else
    let s := if there then s else (k.each s (fun _ x => { x with barIn := !x.retired, passed := 0 })).released k.cluster
    let s := if !k.wv.barOut && barComplete s k.w.crew then barRelease s k.w.crew else s
    if (match s.wave? k.w with | some x => x.barOut | none => false)
    then .done (k.each s (fun _ x => { x with barOut := false }))
    else .wait .barrier s

def execBar (f : KF) (s : State) : Out := issueCore (.bar f) s barOp

/-! ### Named queues (R239 to R246, R252, R253) -/

/-- R252: the entries that one word moves. -/
def qGroups (k : Ctx) : Nat := if k.vec then (k.g.vl + 31) / 32 else 1

def qNo (f : KF) : Nat := fld f.c 5 0

/-- The wave of group g. -/
def groupWave (k : Ctx) (g : Nat) : WaveId := if k.vec then { k.w with wave := g } else k.w

def Ctx.qbound (k : Ctx) (s : State) (q : Nat) : Bool := (s.queue k.cluster q).bound k.asid

/-- R252: a release at CREW scope (R241). A wave is a pusher of the queue once it has pushed (R245). -/
def qpushOp (f : KF) (k : Ctx) (s : State) : Res :=
  let q := qNo f
  let x := s.queue k.cluster q
  let g := qGroups k
  if !k.qbound s q then syncFault k 3 q s
  else if x.depth < g then syncFault k 4 q s
  else if g = 0 then .done s
  else if s.releaseWaits k.cluster k.w 0 then .wait .memory s
  else if x.depth < x.entries.length + g then .wait .qfull (stallOn k q g s)
  else .done ((List.range g).foldl (fun s i =>
    let v := groupWave k i
    match s.wave? v with
    | some y =>
      let a := k.act f.pm f.pn v y
      s.qpush k.cluster k.w q ⟨laneData y (KF.A f) a, a⟩
    | none => s) (s.released k.cluster))

def execQpush (f : KF) (s : State) : Out := issueCore (.qpush f) s (qpushOp f)

def qpopOp (f : KF) (k : Ctx) (s : State) : Res :=
  let q := qNo f
  let x := s.queue k.cluster q
  let g := qGroups k
  if !k.qbound s q then syncFault k 3 q s
  else if x.depth < g then syncFault k 4 q s
  else if g = 0 then .done s
  else if x.entries.length < g then .wait .qempty (stallOn k q g s)
  else .done ((List.range g).foldl (fun s i =>
    let v := groupWave k i
    match s.wave? v with
    | some y => s.qpopInto k q (KF.D f) (fld f.x 2 0) v (k.act f.pm f.pn v y)
    | none => s) s)

def execQpop (f : KF) (s : State) : Out := issueCore (.qpop f) s (qpopOp f)

/-- R253: one more latched trigger, as a release at DEVICE scope. -/
def qnotifyOp (f : KF) (k : Ctx) (s : State) : Res :=
  let q := qNo f
  let x := s.queue k.cluster q
  if !k.qbound s q then syncFault k 3 q s
  else if 65535 ≤ x.trig then syncFault k 5 q s
  else if s.releaseWaits k.cluster k.w 1 then .wait .memory s
  else .done ((s.released k.cluster).setQueue k.cluster q { x with trig := x.trig + 1 })

def execQnotify (f : KF) (s : State) : Out := issueCore (.qnotify f) s (qnotifyOp f)

/-- The 16 doublewords of 128 bytes. -/
def recDwords (v : Nat) : List Dword := (List.range 16).map (fun i => BitVec.ofNat 64 (v / 2 ^ (64 * i)))

/-- One access of `n` bytes at a GLB address by a word that executes once per issue: where it is served, or what ends the
word instead (R194, R195, R253). Its sector accesses that leave the core count in MEMTX (R203). -/
def wordAccess (k : Ctx) (addr n : Nat) (u : Use) (c : L1Use) (s : State) : State × Except Res At :=
  if addr % n != 0 then (s, .error (addrFault k 1 addr s))
  else if 2 ^ 55 < addr + n then (s, .error (addrFault k 2 addr s))
  else
    match s.find k.cluster k.asid addr n u c with
    | (s1, .ok p) =>
      let out := match p with
        | .glb _ false _ => (n + 31) / 32
        | _ => 0
      ((s1.modWave k.w (fun x => { x with timedOut := false, remoteWait := false })).addMemtx k.gid out, .ok p)
    | (s1, .error cause) =>
      if cause == 9 && !k.wv.timedOut then
        (s1, .error (.wait .memory (s1.modWave k.w (fun x => { x with remoteWait := true }))))
      else
        let st : RStatus := if causeRecoverable cause then .resumable else .stops
        (s1, .error (.held (faultAt k { k.report 2 cause st (k.first s1) .access with va := addr % 2 ^ 55 }
          (s1.modWave k.w (fun x => { x with timedOut := false, remoteWait := false })))))

/-- R253: bind a handler, or remove it. A launch queue beside a record address of 0 is illegal (log entry 21). -/
def qbindTrigOp (f : KF) (k : Ctx) (s : State) : Res :=
  let q := qNo f
  let a := (k.wv.rdS (KF.A f)).toNat
  let b := (opS f k.wv).toNat
  if a = 0 && b != 0 then .held (illegal k s)
  else if !k.qbound s q then syncFault k 3 q s
  else if a = 0 then .done (s.setQueue k.cluster q { s.queue k.cluster q with handler := none })
  else
    match wordAccess k a 128 useLoad .thru s with
    | (_, .error r) => r
    | (s1, .ok p) =>
      let r := s1.readAt k 128 .thru p
      .done (r.1.setQueue k.cluster q { r.1.queue k.cluster q with handler := some (recDwords r.2, b) })

def execQbindTrig (f : KF) (s : State) : Out := issueCore (.qbindTrig f) s (qbindTrigOp f)

/-- R244: map a queue onto a register (log entry 134). -/
def qmapOp (f : KF) (out : Bool) (k : Ctx) (s : State) : Res :=
  let q := qNo f
  if !k.qbound s q then syncFault k 3 q s
  else if k.vec || !(k.g.pinned || k.l.pin) then syncFault k 6 q s
  else if 8 ≤ k.wv.qmaps.length || k.wv.qmaps.any (fun m => m.reg == KF.A f) then syncFault k 7 q s
  else .done ((s.party k.cluster ⟨k.w, q, out⟩).modWave k.w (fun x =>
    { x with qmaps := x.qmaps ++ [⟨KF.A f, q, out⟩] }))

def execQbindIn (f : KF) (s : State) : Out := issueCore (.qbindIn f) s (qmapOp f false)

def execQbindOut (f : KF) (s : State) : Out := issueCore (.qbindOut f) s (qmapOp f true)

def qunmapOp (f : KF) (k : Ctx) (s : State) : Res :=
  if k.wv.qmaps.any (fun m => m.reg == KF.A f) then
    .done (s.modWave k.w (fun x => { x with qmaps := x.qmaps.filter (fun m => m.reg != KF.A f) }))
  else syncFault k 7 0 s

def execQbindUnmap (f : KF) (s : State) : Out := issueCore (.qbindUnmap f) s (qunmapOp f)

/-- R253: the status of a queue. -/
def qstatVal (f : KF) (k : Ctx) (s : State) : Dword :=
  let q := qNo f
  let x := s.queue k.cluster q
  if k.qbound s q then
    (0 : BitVec 13) ++ BitVec.ofBool (k.wv.qmaps.any (fun m => m.queue == q)) ++ BitVec.ofBool x.handler.isSome
      ++ BitVec.ofBool true ++ BitVec.ofNat 16 x.trig ++ BitVec.ofNat 16 x.depth ++ BitVec.ofNat 16 x.entries.length
  else 0

def execQstat (f : KF) (s : State) : Out :=
  issueCore (.qstat f) s (fun k s => .done (s.modWave k.w (fun x => x.wrS (KF.D f) (qstatVal f k s))))

/-! ### The copy engine at work (R229, R233, R237) -/

/-- A record about a copy, with the threaded terms of its word (R22, R233). -/
def Copy.report (c : Copy) (cl kind cause : Nat) (st : RStatus) : RecF :=
  { kind := kind, cause := cause, form := if c.vform then 1 else 0, ivl := c.vform && c.site.isNone, site := c.site
    status := st, wave := c.iter % 256 / 32, launch := c.wave.crew.launch, eqp := c.eqp, cluster := cl, iter := c.iter, taddr := c.taddr, voff := c.voff }

/-- R229: reading may begin once the stores issued before the copy are performed at DEVICE scope. -/
def Copy.mayRead (c : Copy) (cl : Cluster) : Bool :=
  !cl.stores.any (fun p => p.born < c.after && !p.loc.rmt && p.wave.crew == c.wave.crew && p.wave.gang == c.wave.gang
    && (c.vform || p.wave.wave == c.wave.wave))

/-- The source address of a 16-byte unit. -/
def Copy.unitSrc (c : Copy) (u : Nat) : Nat := rowSrc c.src c.pitch (16 * u / c.rowlen) + 16 * u % c.rowlen

/-- Read the source of a unit at its home channel, where what a release has covered is performed first: the bytes, or the
cause (R229, R233). -/
def State.copyRead (s : State) (cl asid va : Nat) : State × Except Nat (List Byte) :=
  match s.xlat cl asid va useLoad with
  | (s, .error c) => (s, .error c)
  | (s, .ok t) =>
    let l := t.loc va
    if !s.answers l then (s, .error 9)
    else if !l.rmt && s.eccHbm l.pa 16 then (s, .error 10)
    else
      let s := (s.crewSees cl l 16).countRemote cl l
      (s, .ok (s.homeRead l 16))

/-- Change the k-th copy of a cluster; a copy with nothing left to land is over. -/
def State.modCopy (s : State) (cl k : Nat) (f : Copy → Copy) : State :=
  s.modCluster cl (fun y => { y with
    copies := (y.copies.modify k f).filter (fun c => !c.todo.isEmpty) })

/-- R233: the lowest page with units of a copy left. -/
def Copy.lowPage (c : Copy) : Nat :=
  let ps := c.todo.map (fun u => c.unitSrc u / 2 ^ 16)
  ps.foldl min (ps.headD 0)

/-- The units of a copy that lie on 64 KiB pages before the one that holds an address. -/
def Copy.before (c : Copy) (va : Nat) : Nat :=
  ((List.range (c.rowlen * c.rows / 16)).filter (fun u => c.unitSrc u / 2 ^ 16 < va / 2 ^ 16)).length

/-- R237: count a landing of `n` bytes in the object of a copy. An object with an uncorrectable error stops the job (R215);
its record gives the bytes before the page that the copy is at (R233, R405). -/
def landObj (cl : Nat) (c : Copy) (n : Nat) (s : State) : State :=
  match c.obj with
  | none => s
  | some o =>
    if s.eccCrw c.wave.crew o 16 then
      (s.raise (s.asidOf c.wave.crew) { c.report cl 7 10 .stops with va := o, aux := 16 * c.before (2 ^ 16 * c.lowPage) }).1
    else match (Bar.of (s.bar c.wave.crew o)).land n with
    | some b => s.setBar c.wave.crew o b
    | none => (s.raise (s.asidOf c.wave.crew) { c.report cl 5 2 .stops with aux := o }).1

/-- R236, R237: the landing of a unit counts in an object that gives BADOBJ or an ECC error, whose record needs room in
the ring (R406). -/
def landBlocked (c : Copy) (s : State) : Bool :=
  match c.obj with
  | none => false
  | some o =>
    (s.eccCrw c.wave.crew o 16 || ((Bar.of (s.bar c.wave.crew o)).land 16).isNone) && !s.ringRoom (s.asidOf c.wave.crew)

/-- COPY_UNIT_LAND: a unit of a copy that may read and is not parked, on the lowest page with units left. -/
def execCopyUnitLand (cl k u : Nat) (s : State) : Out :=
  match (s.cluster cl).copies[k]? with
  | none => .refused (.notEnabled "no such copy")
  | some c =>
    if c.parked.isSome || !c.todo.contains u || c.unitSrc u / 2 ^ 16 != c.lowPage || !c.mayRead (s.cluster cl) then
      .refused (.notEnabled "the copy is parked, waits for earlier stores, reads a lower page, or the unit has landed")
    else if landBlocked c s then .refused (.notEnabled "the fault record ring is full: the engine holds the landing")
    else
      match s.copyRead cl (s.asidOf c.wave.crew) (c.unitSrc u) with
      | (_, .error _) => .refused (.notEnabled "the source of the unit meets a cause: the copy parks")
      | (s, .ok bs) =>
        let s := s.modCrew c.wave.crew (fun x => { x with crw := Memory.write x.crw (c.dst + 16 * u) bs })
        let s := s.modCopy cl k (fun c => { c with todo := c.todo.filter (fun v => v != u) })
        .next (landObj cl c 16 s)

/-- COPY_PARK (R233): the lowest page with units left meets a cause. -/
def execCopyPark (cl k : Nat) (s : State) : Out :=
  match (s.cluster cl).copies[k]? with
  | none => .refused (.notEnabled "no such copy")
  | some c =>
    if c.parked.isSome || !c.mayRead (s.cluster cl) then
      .refused (.notEnabled "the copy is parked or waits for earlier stores")
    else
      let asid := s.asidOf c.wave.crew
      let vas := c.todo.map c.unitSrc
      let low := vas.foldl min (vas.headD 0)
      if !s.ringRoom asid then .refused (.notEnabled "the fault record ring is full: the engine holds the copy") else
      match s.copyRead cl asid low with
      | (_, .ok _) => .refused (.notEnabled "the source meets no cause")
      | (s, .error cause) =>
        let st : RStatus := if causeRecoverable cause then .resumable else .stops
        let p := s.raise asid { c.report cl 7 cause st with va := low % 2 ^ 55, aux := 16 * c.before low }
        .next (p.1.modCopy cl k (fun c => { c with parked := some p.2 }))

/-! ### Memory at work (R205 to R213) -/

/-- MEMORY_ACCESS_RESPONSE: a store that no older store of the cluster overlaps is performed at its home channel. -/
def execMemoryAccessResponse (cl k : Nat) (s : State) : Out :=
  let c := s.cluster cl
  match c.stores[k]? with
  | none => .refused (.notEnabled "no such store")
  | some p =>
    if (c.stores.take k).any (fun q => q.touches p.loc p.bytes.length) then
      .refused (.notEnabled "an older store to the location comes first")
    else if !s.answers p.loc then .refused (.notEnabled "the remote home does not answer")
    else .next ((s.perform p).modCluster cl (fun y => { y with stores := y.stores.eraseIdx k }))

/-- PAGE_WALK: a tile walks for a cluster, sets A and D as the use asks and holds what it found (R206 to R210). A walk
that meets a cause changes nothing here: the access that needs it records the cause. -/
def execPageWalk (cl asid vpn : Nat) (store : Bool) (s : State) : Out :=
  match s.walk asid (vpn * 2 ^ 16) with
  | .error _ => .next s
  | .ok t =>
    if store && !pteW t.pte then .next s
    else
      let q := s.touch t (if store then useStore else useLoad)
      .next (q.1.hold cl (vpn * 2 ^ 16) q.2)

/-- The waves of a cluster and job that wait for an instruction line (R191), and that no argument block holds. -/
def icacheWaiters (s : State) (cl asid line : Nat) : List Ctx :=
  s.waves.filterMap (fun p =>
    match ctx? s p.1 with
    | some k =>
      if k.cluster == cl && k.asid == asid && !k.c.saved && p.2.stall == .icache && p.2.pending.isNone && k.l.argsRead
          && k.codeVa p.2.pc.toNat / 128 == line then some k else none
    | none => none)

/-- R191: the line lies at most 512 lines beyond the lowest line that holds the PC of a live wave of one kernel on the core;
the waves of a saved crew are not there (R411). -/
def aheadOk (s : State) (cl asid line : Nat) : Bool :=
  let ks := s.waves.filterMap (fun p => ctx? s p.1)
  let pcs := (ks.filter (fun k => k.cluster == cl && k.asid == asid && k.issues && !k.c.saved)).map
    (fun k => (k.kn.image, k.codeVa k.wv.pc.toNat / 128))
  pcs.any (fun p => p.2 ≤ line && line ≤ p.2 + 512 && pcs.all (fun q => q.1 != p.1 || p.2 ≤ q.2))

/-- R212, R213: the record of a fetch fault of a wave. -/
def fetchFault (line cause : Nat) (s : State) (k : Ctx) : State :=
  let st : RStatus := if causeRecoverable cause then .resumable else .stops
  faultAt k { k.report 2 cause st (k.first s) .access with va := 128 * line % 2 ^ 55 } s

/-- INSTRUCTION_FETCH: a line arrives for the waves of a job on a cluster. A cause is recorded for each wave that waits
for the line, and ignored where the line was only fetched ahead. -/
def execInstructionFetch (cl asid line : Nat) (s : State) : Out :=
  if !aheadOk s cl asid line then .refused (.notEnabled "no live wave of the job on the cluster fetches so far ahead")
  else match s.fetchLine cl asid line with
  | (s, .ok _) => .next s
  | (s, .error cause) => .next ((icacheWaiters s cl asid line).foldl (fetchFault line cause) s)

/-- REMOTE_TIMEOUT: RTMO has passed for a wave whose access waits for a remote home that does not answer (R212). -/
def execRemoteTimeout (w : WaveId) (s : State) : Out :=
  match s.wave? w with
  | some x =>
    if x.remoteWait then .next (s.setWave w { x with timedOut := true })
    else .refused (.notEnabled "no remote access of the wave is unanswered")
  | none => .refused (.notEnabled "no such wave")

/-- INVALIDATION_BROADCAST: every tile and every L1 TLB drops the translations of an address. It completes once every
store that used one has been performed (R209). -/
def execInvalidationBroadcast (asid : Nat) (va : BitVec 64) (s : State) : Out :=
  let gone (t : Tlb) : Bool := t.serves asid va.toNat
  if s.clusters.any (fun q => q.2.stores.any (fun p => gone p.tlb)) then
    .refused (.notEnabled "a store that used the old translation has not been performed")
  else
    s.byFirmware <| .next { s with
      tiles := s.tiles.filterMap (fun q =>
        match q.2.filter (fun t => !gone t) with
        | [] => none
        | l => some (q.1, l))
      clusters := s.clusters.map (fun q => (q.1, { q.2 with tlb := q.2.tlb.filter (fun t => !gone t) })) }

end Sys2Proof.Machine
end

