-- ==== Sys2Proof/Machine/Backwater.lean ====
section
/-! DEFINITION. What a backwater holds, as bytes (R69, R285, R286, R294): the 16 bytes of a token, the 1,152 bytes of a
frame, the 32 bytes of a held start, and the contents of the backwater of a place. Firmware gives a crew an area of HBM in
which its backwaters and its park area lie (log entry 99). -/

namespace Sys2Proof.Machine

/-! ### Tokens (R69) -/

/-- R69: the 128 bits of a token on a context. -/
def tokenBits (ctx paddock cell frame blk slot : Nat) (port err : Bool) (value : Dword) : BitVec 128 :=
  value ++ BitVec.ofNat 2 ctx ++ BitVec.ofNat 12 paddock ++ BitVec.ofNat 4 cell ++ BitVec.ofNat 10 frame
    ++ BitVec.ofNat 7 slot ++ BitVec.ofBool port ++ BitVec.ofNat 3 blk ++ BitVec.ofBool err ++ (0 : BitVec 24)

def Tok.bits (t : Tok) (ctx : Nat) : BitVec 128 :=
  tokenBits ctx t.paddock t.cell t.frame t.blk t.slot t.port t.err t.value

/-- The fields of a token from its 128 bits, over a token that gives what they do not hold: the sender, the place, the
round, and how it travels. -/
def Tok.ofBits (t : Tok) (b : BitVec 128) : Tok :=
  { t with
    value := b.extractLsb' 64 64, paddock := fld b 61 50, cell := fld b 49 46, frame := fld b 45 36, slot := fld b 35 29
    port := b.getLsbD 28, blk := fld b 27 25, err := b.getLsbD 24 }

/-- R69: a token as a backwater stores it. -/
def Tok.bytes (t : Tok) (ctx : Nat) : List Byte := leBytes 16 (t.bits ctx).toNat

/-! ### Frames (R285, R286) -/

/-- Dword 1 of the header. -/
def Frame.link (f : Frame) : Dword :=
  let up := f.how.parent.getD (0, 0)
  BitVec.ofNat 3 f.blk ++ BitVec.ofBool f.how.parent.isSome ++ BitVec.ofNat 4 up.1 ++ BitVec.ofNat 10 up.2
    ++ BitVec.ofNat 2 f.how.kind ++ BitVec.ofNat 7 f.how.rslot ++ (0 : BitVec 37)

/-- Dword 3 of the header. -/
def Frame.counts (f : Frame) : Dword := BitVec.ofNat 16 f.arrived ++ BitVec.ofNat 16 f.fired ++ (0 : BitVec 32)

/-- The header of a frame on a context; `own` are dwords 4 to 7, the implementation's own. -/
def Frame.header (f : Frame) (ctx : Nat) (own : List Byte) : List Byte :=
  leBytes 8 (f.tag ||| BitVec.ofNat 64 (ctx * 2 ^ 62)).toNat ++ leBytes 8 f.link.toNat
    ++ leBytes 8 (f.loop1 ++ f.loop0 : Dword).toNat ++ leBytes 8 f.counts.toNat ++ own.take 32

/-- The slots of a frame: slot s holds the operand of its L port or of its R port (R287), or a JOINC's count (R304). -/
def Frame.slotWord (f : Frame) (s : Nat) : Dword :=
  if f.presence.getLsbD (2 * s) then SMap.get f.slots 0 (2 * s)
  else if f.presence.getLsbD (2 * s + 1) then SMap.get f.slots 0 (2 * s + 1)
  else 0

/-- R285: the 1,152 bytes of a frame on a context; `own` are the 64 bytes that are the device's own. -/
def Frame.image (f : Frame) (ctx : Nat) (own : List Byte) : List Byte :=
  f.header ctx own ++ leBytes 32 f.presence.toNat
    ++ (List.range 128).flatMap (fun s => leBytes 8 (f.slotWord s).toNat) ++ (own.drop 32).take 32

/-- `n` bytes of an image from an offset, as a number. -/
def imgNat (b : List Byte) (o n : Nat) : Nat := leNat ((b.drop o).take n)

/-- The slots that an image holds, under its presence bits. -/
def imgSlots (b : List Byte) (presence : BitVec 256) : SMap Dword :=
  (List.range 256).foldl (fun m k =>
    if presence.getLsbD k then SMap.set m 0 k (BitVec.ofNat 64 (imgNat b (0x60 + 8 * (k / 2)) 8)) else m) []

/-- R293: the frame that an image gives, over a frame that holds what is the device's own. -/
def Frame.ofImage (f : Frame) (b : List Byte) : Frame :=
  let link : Dword := BitVec.ofNat 64 (imgNat b 8 8)
  let loops : Dword := BitVec.ofNat 64 (imgNat b 16 8)
  let n : Dword := BitVec.ofNat 64 (imgNat b 24 8)
  let presence : BitVec 256 := BitVec.ofNat 256 (imgNat b 0x40 32)
  { f with
    tag := (BitVec.ofNat 64 (imgNat b 0 8)).extractLsb' 0 62 |>.setWidth 64
    blk := fld link 63 61
    how := ⟨fld link 45 44, if link.getLsbD 60 then some (fld link 59 56, fld link 55 46) else none, fld link 43 37⟩
    loop0 := loops.extractLsb' 0 32, loop1 := loops.extractLsb' 32 32, arrived := fld n 63 48, fired := fld n 47 32
    presence := presence, slots := imgSlots b presence }

/-! ### A backwater (R294) -/

/-- R294: a held start in 32 bytes: its token, which names the cell and no frame yet, and its tag; the rest is the
device's own. -/
def Ent.bytes (e : Ent) (ctx cell : Nat) (own : List Byte) : List Byte :=
  leBytes 16 (tokenBits ctx e.paddock cell 0 e.blk e.slot e.port e.err e.value).toNat
    ++ leBytes 8 (e.tag ||| BitVec.ofNat 64 (ctx * 2 ^ 62)).toNat ++ own.take 8

/-- R264: a parked entry takes 16 bytes of the backwater; its tag is the network's. -/
def Flit.bytes (f : Flit) (ctx : Nat) : List Byte :=
  match f with
  | .token t => t.bytes ctx
  | .entry e => leBytes 16 (tokenBits ctx e.paddock 0 0 e.blk e.slot e.port e.err e.value).toNat
  | .drain _ _ => []

/-- The bytes of an image that are the device's own; which they hold is a free value. -/
def ownBytes (n seed : Nat) : List Byte := (List.range n).map (fun i => BitVec.ofNat 8 (Config.freeNat (seed + i)))

/-- The parts of a place's backwater: its spilled frames, the tokens parked for it, and the starts held for it. -/
def Place.spilled (p : Place) : List Frame := p.frames.filter (fun f => !f.resident)

def Crew.parkedAt (x : Crew) (i : Nat) : List Park := x.parks.filter (fun k => k.place == some i)

/-- The starts that the backwater of place `i` holds; one that found it full waits at its cell. -/
def Crew.startsAt (x : Crew) (i : Nat) (p : Place) : List Held :=
  x.heldStarts.filter (fun h => h.place == i && !p.bwFull.any (fun w => w.op == .hold h.ent))

/-- R294: what the backwater of place `i` of a crew holds, item by item; where firmware puts each is its own. `cellOf` gives
the cell of a start. -/
def Crew.backwater (x : Crew) (i : Nat) (p : Place) (cellOf : Dword → Nat → Nat) (seed : Nat) : List (List Byte) :=
  (Place.spilled p).map (fun f => f.image p.ctx (ownBytes 64 seed))
    ++ (x.parkedAt i).map (fun k => k.flit.bytes p.ctx)
    ++ (x.startsAt i p).map (fun h => h.ent.bytes p.ctx (cellOf h.ent.tag h.ent.blk) (ownBytes 8 seed))

/-- R294: the bytes of a place's backwater in use. -/
def bwUsed (x : Crew) (i : Nat) (p : Place) : Nat :=
  1152 * (Place.spilled p).length + 16 * (x.parkedAt i).length + 32 * (x.startsAt i p).length

/-- Where in HBM the backwater of place `i` of a crew lies, and, past the last place, the park area of its region. -/
def Crew.bwAt (x : Crew) (i : Nat) : Nat :=
  x.bwBase.toNat + 1152 * ((((x.region.map (fun r => r.places)).getD []).take i).map (fun p => p.bwCap)).sum

/-- Where the image of a spilled frame of place `i` lies. -/
def Crew.imageAt (x : Crew) (i : Nat) (p : Place) (f : Frame) : Nat := x.bwAt i + 1152 * (Place.spilled p).idxOf f

/-- R2, R264, R294: the bytes of the backwaters and of the park area of a crew, each with where it lies. -/
def Crew.bwBytes (x : Crew) (cellOf : Dword → Nat → Nat) : List (Nat × List Byte) :=
  let ps := (x.region.map (fun r => r.places)).getD []
  ((List.range ps.length).zip ps).map (fun q => (x.bwAt q.1, (x.backwater q.1 q.2 cellOf (x.bwAt q.1)).flatten))
    ++ [(x.bwAt ps.length, ((x.parks.filter (fun k => k.place.isNone)).map (fun k => k.flit.bytes 0)).flatten)]

/-- What the backwaters and the park area of a crew hold. -/
def Crew.bwHolds (x : Crew) : List (Nat × Nat × List Frame × List Held) × List Park :=
  let ps := (x.region.map (fun r => r.places)).getD []
  (((List.range ps.length).zip ps).map (fun q => (q.2.ctx, q.2.bwCap, Place.spilled q.2, x.startsAt q.1 q.2)), x.parks)

def bwRoom (x : Crew) (i : Nat) (p : Place) (n : Nat) : Bool := bwUsed x i p + n ≤ 1152 * p.bwCap

end Sys2Proof.Machine
end

