-- ==== Sys2Proof/Machine/Sys.lean ====
section
/-! DEFINITION. Class 10: TRAP, BRK, the control registers, the cycle counters (R424 to R430), and LAUNCH, WAITEV and SIGEV
(R193 to R195) with the acceptance of a launch record (R183, R184). -/

namespace Sys2Proof.Machine

/-! ### TRAP and BRK (R426, R427) -/

/-- R406: the job's ring has room for one more record now. -/
def Ctx.ringRoom (k : Ctx) (s : State) : Bool := s.ringRoom k.asid

/-- S[B][31:0], or the immediate wrapped to 32 bits. -/
def code32 (f : KF) (k : Ctx) : Nat := (opS f k.wv).toNat % 2 ^ 32

def trapOp (f : KF) (k : Ctx) (s : State) : Res :=
  let stop := f.c.getLsbD 0
  if !k.ringRoom s then .wait .memory s
  else
    let r : RecF := { k.report 15 0 (if stop then .stops else .notice) (k.first s) .terms with aux := code32 f k }
    if stop then .held (faultAt k r s) else .done (s.raise k.asid r).1

def execTrap (f : KF) (s : State) : Out := issueCore (.trap f) s (trapOp f)

def brkOp (f : KF) (k : Ctx) (s : State) : Res :=
  if !k.ringRoom s then .wait .memory s
  else
    let p := s.raise k.asid { k.report 16 0 .resumable (k.first s) .terms with aux := 0xFFFFFFFF, aux2 := code32 f k }
    .done (p.1.breakGang k.asid k.gid p.2)

def execBrk (f : KF) (s : State) : Out := issueCore (.brk f) s (brkOp f)

/-! ### Control registers (R428) -/

/-- The flags that a read of FCSR or FFLAGS sees: the wave's, or the OR over the gang in vector form. -/
def readFlags (k : Ctx) (s : State) : Nat :=
  ((k.states s).foldl (fun (a : Word) q => a ||| q.2.fcsr) 0).toNat % 32

/-- RM: the wave's, or that of wave 0, which is the leader, in vector form. -/
def readRm (k : Ctx) : Nat := fld k.wv.fcsr 7 5

def ctlVal (n : Nat) (k : Ctx) (s : State) : Nat :=
  match n with
  | 0 => readRm k * 32 + readFlags k s
  | 1 => readFlags k s
  | 2 => readRm k
  | 3 => k.g.hobase.toNat
  | 4 => k.l.prvBase.toNat
  | 5 => (if (s.asid k.asid).allstop then 2 else 0) + (if (s.asid k.asid).debug then 1 else 0)
  | _ => k.w.crew.launch % 2 ^ 32

def execCtlrd (f : KF) (s : State) : Out :=
  issueCore (.ctlrd f) s (fun k s =>
    .done (s.modWave k.w (fun x => x.wrS (KF.D f) (BitVec.ofNat 64 (ctlVal (fld f.c 2 0) k s)))))

/-- CTLWR, .SET, .CLR. -/
def ctlNew (op : Nat) (old b : Word) : Word :=
  match op with
  | 0 => b
  | 1 => old ||| b
  | _ => old &&& ~~~b

/-- FCSR with a new RM, unless it is 5 to 7. -/
def putRm (fcsr : Word) (rm : Nat) : Word :=
  if rm < 5 then BitVec.ofNat 32 (fcsr.toNat % 32 + 32 * rm) else fcsr

def putFlags (fcsr : Word) (fl : Nat) : Word := BitVec.ofNat 32 (fld fcsr 7 5 * 32 + fl % 32)

/-- The register of one wave after a write. -/
def ctlWrite (n op : Nat) (b fcsr : Word) : Word :=
  match n with
  | 0 => let v := ctlNew op fcsr b; putRm (putFlags fcsr v.toNat) (fld v 7 5)
  | 1 => putFlags fcsr (ctlNew op (fcsr &&& 31) b).toNat
  | _ => putRm fcsr (fld (ctlNew op (BitVec.ofNat 32 (fld fcsr 7 5)) b) 2 0)

def execCtlwr (f : KF) (s : State) : Out :=
  issueCore (.ctlwr f) s (fun k s =>
    .done (k.each s (fun _ x => { x with
      fcsr := ctlWrite (fld f.c 2 0) (fld f.c 5 4) ((opS f k.wv).extractLsb' 0 32) x.fcsr })))

/-! ### Cycle counters (R424, R429) -/

/-- Time passes by an amount the spec leaves open (log entry 7). -/
def State.tick (s : State) : Dword × State := (BitVec.ofNat 64 (s.fresh.1 % 2 ^ 32), s.fresh.2)

def cycOp (f : KF) (k : Ctx) (s : State) : State :=
  let t := s.tick
  let n := (s.cluster k.cluster).cycles + t.1
  (t.2.modCluster k.cluster (fun c => { c with cycles := n })).modWave k.w (fun x => x.wrS (KF.D f) n)

def execCyc (f : KF) (s : State) : Out := issueCore (.cyc f) s (fun k s => .done (cycOp f k s))

/-- A place of the crew's region by number. -/
def Crew.place? (c : Crew) (b : Nat) : Option Place :=
  match c.region with
  | some r => r.places[b]?
  | none => none

/-- A place of the crew's region by the number a program gives; the places behind the granted ones have none. -/
def Crew.named? (x : Crew) (b : Dword) : Option Place :=
  match x.region with
  | some r => if b.toNat < r.granted then r.places[b.toNat]? else none
  | none => none

/-- R268: the clock of the rows of a bay runs: some place of the bay is resident. A systolic place without a configuration
counts as one (R334). -/
def State.bayRuns (s : State) (slice bay : Nat) : Bool :=
  s.crews.any (fun q => match q.2.region with
    | some r => r.places.any (fun p => p.slice == slice && p.bay == bay && (p.state == .resident || (p.sys && p.state != .swapped)))
    | none => false)

/-- R429: the row count, over every edge that the row has received; a row whose clock was stopped since the last read has
received none. -/
def cycRowOp (f : KF) (k : Ctx) (s : State) : State :=
  match k.c.named? (opS f k.wv) with
  | some p =>
    let row := 4 * p.bay + fld f.c 1 0
    let t := if SMap.get (s.cluster p.slice).rowsOn false row then s.tick else (0, s)
    let n := SMap.get (s.cluster p.slice).rows 0 row + t.1
    (t.2.modCluster p.slice (fun c => { c with
        rows := SMap.set c.rows 0 row n, rowsOn := SMap.set c.rowsOn false row (s.bayRuns p.slice p.bay) })).modWave k.w
      (fun x => x.wrS (KF.D f) n)
  | none => s.modWave k.w (fun x => x.wrS (KF.D f) (BitVec.allOnes 64))

def execCycRow (f : KF) (s : State) : Out := issueCore (.cycRow f) s (fun k s => .done (cycRowOp f k s))

/-! ### Launch queues (R183, R184, R194) -/

/-- A field of a record that R183 reserves is nonzero. -/
def recReserved (d : List Dword) : Bool :=
  let g (i : Nat) : Dword := d.getD i 0
  fld (g 0) 63 55 != 0 || fld (g 1) 63 41 != 0 || fld (g 2) 63 44 != 0 || fld (g 2) 31 20 != 0 || fld (g 2) 15 10 != 0
    || fld (g 2) 7 4 != 0 || fld (g 3) 63 33 != 0 || fld (g 3) 7 3 != 0 || g 14 != 0 || g 15 != 0

/-- R194: BADREC for a launch of an ASID. -/
def badRec (asid : Nat) (d : List Dword) : Bool :=
  let g (i : Nat) : Dword := d.getD i 0
  let form := fld (g 2) 9 8
  recReserved d || 2 ^ 40 < fld (g 1) 40 0 || fld (g 2) 3 0 = 0 || 8 < fld (g 2) 3 0 || form = 3
    || !bit (fld (g 3) 2 0) form || (g 0).toNat % 64 != 0
    || ([4, 5, 7, 9, 11, 13].any (fun i => (g i).toNat % 8 != 0)) || fld (g 2) 43 32 != asid

/-- The launches that a queue holds. -/
def State.queued (s : State) (q : Nat) : Nat := (s.launches.filter (fun p => p.2.inQueue && p.2.queue == q)).length

/-- R194: the status of an attempt to enqueue a record for an ASID: 0 QUEUED, 1 FULL, 2 BADREC, 3 DENIED (log entry 130). -/
def State.enqStatus (s : State) (asid q : Nat) (d : List Dword) : Nat :=
  if 63 < q || (SMap.get s.lqOwner 0 q).toNat != asid || s.jobOff asid then 3
  else if badRec asid d then 2
  else if 256 ≤ s.queued q then 1
  else 0

/-- A launch number that no launch has; which one is a free value (log entry 8). -/
def State.freeNumber (s : State) : Nat × State :=
  let n := s.fresh.1 % 2 ^ 32
  let c := (List.range (s.launches.length + 1)).map (fun i => (n + i) % 2 ^ 32)
  ((c.find? (fun i => (s.launch? i).isNone)).getD n, s.fresh.2)

/-- A launch at acceptance (R184). -/
def Launch.start (d : List Dword) (q : Nat) (only : Option Nat) : Launch :=
  { record := d, queue := q, inQueue := true, state := .waiting, eff := fld (d.getD 2 0) 19 16, kernel := none, args := []
    argsRead := false, placed := 0, gone := 0, only := only, prvBase := 0, gtBase := 0, held := none }

/-- Accept a record into a queue. -/
def State.accept (s : State) (q : Nat) (d : List Dword) (only : Option Nat) : State :=
  let n := s.freeNumber
  n.2.setLaunch n.1 (Launch.start d q only)

/-- R194. -/
def launchOp (f : KF) (k : Ctx) (s : State) : Res :=
  if s.releaseWaits k.cluster k.w 1 then .wait .memory s
  else
    match wordAccess k (k.wv.rdS (KF.A f)).toNat 128 useLoad .thru s with
    | (_, .error r) => r
    | (s1, .ok p) =>
      let r := s1.readAt k 128 .thru p
      let d := recDwords r.2
      let q := (opS f k.wv).toNat
      let st := r.1.enqStatus k.asid q d
      let s2 := r.1.released k.cluster
      let s2 := if st = 0 then s2.accept q d none else s2
      .done (s2.modWave k.w (fun x => x.wrS (KF.D f) (BitVec.ofNat 64 st)))

def execLaunch (f : KF) (s : State) : Out := issueCore (.launch f) s (launchOp f)

/-! ### Events (R195) -/

/-- DEVICE, or DOMAIN when X[0] is set. -/
def evScope (f : KF) : Nat := if f.x.getLsbD 0 then 2 else 1

def waitevOp (f : KF) (k : Ctx) (s : State) : Res :=
  match wordAccess k (k.wv.rdS (KF.A f)).toNat 8 useLoad .past s with
  | (_, .error r) => r
  | (s1, .ok p) =>
    let r := s1.readAt k 8 .past p
    if (opS f k.wv).toNat ≤ r.2 then
      .done ((r.1.acquire k.cluster (evScope f)).modWave k.w (fun x => x.wrS (KF.D f) (BitVec.ofNat 64 r.2)))
    else .wait .barrier r.1

def execWaitev (f : KF) (s : State) : Out := issueCore (.waitev f) s (waitevOp f)

def sigevOp (f : KF) (k : Ctx) (s : State) : Res :=
  if s.releaseWaits k.cluster k.w (evScope f) then .wait .memory s
  else
    let a := (k.wv.rdS (KF.A f)).toNat
    match wordAccess k a 8 useStore .past s with
    | (_, .error r) => r
    | (s1, .ok p) =>
      let r := s1.rmwAt k ⟨k.first s, k.w, 0, a, a⟩ 3 (fun o => some (wrap 64 (o + (opS f k.wv).toNat))) p
      .done ((r.1.released k.cluster).modWave k.w (fun x => x.wrS (KF.D f) (BitVec.ofNat 64 r.2)))

def execSigev (f : KF) (s : State) : Out := issueCore (.sigev f) s (sigevOp f)

end Sys2Proof.Machine
end

