-- ==== Sys2Proof/Machine/Fabric.lean ====
section
/-! DEFINITION. The fabric: tags (R71), frames and where they live (R285 to R294), the firing rule (R287, R288), tokens on
the braid (R264, R265), node faults (R297), and the steps by which tokens and entries reach their cells. -/

namespace Sys2Proof.Machine

/-! ### Tags (R71, R277, R290). The CTX bits are those of the place and are filled in where a tag is shown. -/

def tagDb (t : Dword) : Nat := fld t 61 56
def tagFields (t : Dword) : Nat := fld t 55 0
def tagMk (db fields : Nat) : Dword := BitVec.ofNat 64 (db * 2 ^ 56 + fields % 2 ^ 56)

/-- Push; no answer is the tag-exhaustion fault. -/
def tagPush (t : Dword) (w k : Nat) : Option Dword :=
  if 56 < tagDb t + w then none else some (tagMk (tagDb t + w) (tagFields t * 2 ^ w + k % 2 ^ w))

def tagPop (t : Dword) (w : Nat) : Dword := tagMk (tagDb t - w) (tagFields t / 2 ^ w)

/-- The outermost 11 bits, k × 256 + j. -/
def tagIter (t : Dword) : Nat := tagFields t / 2 ^ (tagDb t - 11) % 2 ^ 11

/-- The tag of an injected iteration (R277). -/
def rootTag (kj : Nat) : Dword := tagMk 11 kj

/-- R290: CellOf. -/
def cellOf (t : Dword) (b : Nat) : Nat :=
  [0, 2, 5, 7, 8, 10, 13, 15].getD ((List.range 19).foldl (fun h k => h ^^^ (tagFields t / 2 ^ (3 * k) % 8)) b % 8) 0

/-! ### Loop records (R295) -/

def loopAct (r : BitVec 32) : Bool := r.getLsbD 31
def loopXd (r : BitVec 32) : Bool := r.getLsbD 30
def loopRein (r : BitVec 32) : Nat := fld r 23 16
def loopInfl (r : BitVec 32) : Nat := fld r 15 8
def loopHeld (r : BitVec 32) : Bool := r.getLsbD 7
def loopMk (act xd : Bool) (w rein infl : Nat) (held : Bool) : BitVec 32 :=
  BitVec.ofBool act ++ BitVec.ofBool xd ++ BitVec.ofNat 6 w ++ BitVec.ofNat 8 rein ++ BitVec.ofNat 8 infl
    ++ BitVec.ofBool held ++ (0 : BitVec 7)
def loopSet (r : BitVec 32) (xd : Bool) (infl : Nat) (held : Bool) : BitVec 32 :=
  loopMk (loopAct r) xd (fld r 29 24) (loopRein r) infl held

def Frame.loop (f : Frame) (e : Bool) : BitVec 32 := if e then f.loop1 else f.loop0
def Frame.setLoop (f : Frame) (e : Bool) (r : BitVec 32) : Frame := if e then { f with loop1 := r } else { f with loop0 := r }

/-! ### Node words -/

/-- The node of a slot. -/
def Kernel.node? (kn : Kernel) (p b t : Nat) : Option Instr :=
  match kn.nodeWord p b t with
  | some w => match Decode.node w with
    | .ok i => some i
    | .error _ => none
  | none => none

/-- The node words of a block, and all of a paddock's. -/
def Kernel.blockSize (kn : Kernel) (p b : Nat) : Nat := (((kn.paddocks.getD p []).getD b [])).length
def Kernel.words (kn : Kernel) (p : Nat) : Nat := ((kn.paddocks.getD p []).map List.length).sum

/-- The targets of a node. -/
def nodeTargets (i : Instr) : Option Tgt × Option Tgt :=
  match i with
  | .arithNodeFire n => (n.t0, n.t1)
  | .steer n | .const n | .lenter n | .lnext n | .lexit n | .calln n | .retn n | .ixrd n | .joinc n | .sink n | .sendp n
  | .eqpn n | .fend n | .errt n | .gate n => (n.t0, n.t1)
  | .cld n | .cst n | .catom n | .mnop n | .fld n | .fst n | .cfence n => (n.t0, none)
  | .mcld n | .mcst n | .mcenq n | .mcdeq n | .agen n | .mxj n | .mxout n => (n.t0, n.t1)
  | _ => (none, none)

/-- R287: whether the node fires on two operands. JOINC counts instead. -/
def twoOperand (i : Instr) : Bool :=
  match i with
  | .arithNodeFire n => !nafUnary n
  | .steer _ | .gate _ | .cst _ | .catom _ | .fst _ | .mcst _ | .mxj _ => true
  | _ => false

/-! ### Places and frames by name -/

def State.modRegion (s : State) (c : CrewId) (f : Region → Region) : State :=
  s.modCrew c (fun x => { x with region := x.region.map f })

def State.modPlace (s : State) (c : CrewId) (i : Nat) (f : Place → Place) : State :=
  s.modRegion c (fun r => { r with places := r.places.modify i f })

def Place.frame? (p : Place) (cell no : Nat) : Option Frame := p.frames.find? (fun f => f.cell == cell && f.no == no)

def Place.key? (p : Place) (blk : Nat) (tag : Dword) : Option Frame := p.frames.find? (fun f => f.blk == blk && f.tag == tag)

def Place.modFrame (p : Place) (cell no : Nat) (g : Frame → Frame) : Place :=
  { p with frames := p.frames.map (fun f => if f.cell == cell && f.no == no then g f else f) }

/-- A resident place that holds a paddock, with its number: one that does not drain before one that does. -/
def Crew.home? (c : Crew) (paddock : Nat) : Option (Nat × Place) :=
  match c.region with
  | some r =>
    let holds (p : Place) : Bool := p.state == .resident && p.paddock == paddock
    (findAt r.places (fun p => holds p && !p.draining)).or (findAt r.places holds)
  | none => none

/-- A paddock that is swapped out. -/
def Crew.swapped? (c : Crew) (paddock : Nat) : Option (Nat × Place) :=
  match c.region with
  | some r => findAt r.places (fun p => p.state == .swapped && p.paddock == paddock)
  | none => none

/-- An accepted load of a paddock that is not complete. -/
def Crew.loading? (c : Crew) (paddock : Nat) : Option (Nat × Place) :=
  match c.region with
  | some r => findAt r.places (fun p => p.next.any (fun n => n.paddock == paddock))
  | none => none

/-- R259: the place that the paddock map names for a paddock: of those that hold it, resident or swapped out, the one that
was loaded or resumed last. -/
def Crew.latest? (c : Crew) (paddock : Nat) : Option (Nat × Place) :=
  match c.region with
  | some r => ((List.range r.places.length).zip r.places).foldl (fun a q =>
      if (q.2.state == .resident || q.2.state == .swapped) && q.2.paddock == paddock
          && (match a with | some b => b.2.named < q.2.named | none => true) then some q else a) none
  | none => none

/-- A place of a crew, whatever it holds. -/
def Crew.spot? (c : Crew) (i : Nat) : Option Place := c.region.bind (fun r => r.places[i]?)

/-- R259, R264: where a flit goes: to a resident place, to one that is swapped out, to the park area of the region, or
nowhere. -/
inductive Goes where
  | at (i : Nat) (p : Place)
  | swapped (i : Nat) (p : Place)
  | unplaced
  | nowhere
  deriving DecidableEq, Repr

/-- R259, R264, R276: what the paddock map of a crew says of a paddock number. From the moment a load is accepted until it
is complete the paddock is not yet placed, and so is every paddock of a crew without a region (log entry 148). -/
def Crew.mapped (x : Crew) (kn : Kernel) (paddock : Nat) : Goes :=
  if kn.paddocks.length ≤ paddock then .nowhere
  else if (x.loading? paddock).isSome then .unplaced
  else match x.latest? paddock with
    | some q => if q.2.state == .resident then .at q.1 q.2 else .swapped q.1 q.2
    | none => if x.exits.contains paddock then .nowhere else .unplaced

/-- Where a flit goes that was routed to a place, or was not: its place as long as that holds its paddock, then the map. -/
def Crew.goes (x : Crew) (kn : Kernel) (place : Option Nat) (paddock : Nat) : Goes :=
  match place with
  | some i => match x.spot? i with
    | some p =>
      if p.paddock == paddock && p.state == .resident then .at i p
      else if p.paddock == paddock && p.state == .swapped then .swapped i p
      else x.mapped kn paddock
    | none => x.mapped kn paddock
  | none => x.mapped kn paddock

/-- The place that the map names at the moment of routing (R259). -/
def Goes.place : Goes → Option Nat
  | .at i _ => some i
  | .swapped i _ => some i
  | _ => none

def Crew.round? (c : Crew) (id : Nat) : Option Round := c.rounds.find? (fun r => r.id == id)

def State.modRound (s : State) (c : CrewId) (id : Nat) (f : Round → Round) : State :=
  s.modCrew c (fun x => { x with rounds := x.rounds.map (fun r => if r.id == id then f r else r) })

/-- A fresh number for a round or an activation of the crew. -/
def State.newId (s : State) (c : CrewId) : Nat × State :=
  match s.crew? c with
  | some x => (x.ids + 1, s.setCrew c { x with ids := x.ids + 1 })
  | none => (0, s)

/-- R261: the firing priority of a place. -/
def State.placePrio (s : State) (p : Place) : Nat := min p.fprio (SMap.get (s.cluster p.slice).fceil 15 (4 * p.bay + p.ctx))

/-! ### Records of spatial work (R297, R317, R403) -/

/-- The kernel that a crew runs. -/
def State.kernel? (s : State) (c : CrewId) : Option Kernel :=
  match s.launch? c.launch with
  | some l => l.kernel
  | none => none

/-- The iteration i of R19 that k × 256 + j names in a crew. -/
def State.iterOf (s : State) (c : CrewId) (kj : Nat) : Nat :=
  match s.launch? c.launch with
  | some l => 256 * (c.crew * l.crewSize) + kj
  | none => kj

/-- The gang that k × 256 + j names. -/
def kjGang (c : CrewId) (kj : Nat) : GangId := ⟨c, kj / 256⟩

/-- A record in spatial form about iteration k × 256 + j. -/
def State.spatial (s : State) (c : CrewId) (kind cause : Nat) (st : RStatus) (kj paddock blk slot : Nat)
    (site : Option Nat) : RecF :=
  let kn : Option Kernel := s.kernel? c
  let d : Option SiteD := match site, kn with
    | some n, some kn => kn.sites.find? (fun (d : SiteD) => d.site == n)
    | _, _ => none
  { kind := kind, cause := cause, form := 2, status := st, wave := kj % 256 / 32, launch := c.launch
    eqp := (s.gang? (kjGang c kj)).bind (fun g => g.ev)
    cluster := ((s.crew? c).map (fun x => x.cluster)).getD 0, iter := s.iterOf c kj, site := site
    taddr := (d.map (fun (x : SiteD) => x.toff)).getD 0, paddock := paddock, blk := blk, slot := slot }

/-- A tag as a record shows it, with the context of its place. -/
def shownTag (p : Place) (t : Dword) : Dword := t ||| BitVec.ofNat 64 (p.ctx * 2 ^ 62)

/-- A tag as a record about a paddock shows it. -/
def State.ctxTag (s : State) (c : CrewId) (paddock : Nat) (t : Dword) : Dword :=
  match (s.crew? c).bind (fun x => (x.home? paddock).or (x.swapped? paddock)) with
  | some h => shownTag h.2 t
  | none => t

/-- R297: a node fault. -/
def State.nodeFault (s : State) (c : CrewId) (p : Place) (cause : Nat) (tag : Dword) (blk slot : Nat)
    (site : Option Nat) : State :=
  (s.raise (s.asidOf c) { s.spatial c 11 cause .stops (tagIter tag) p.paddock blk slot site with
    tag := shownTag p tag }).1

/-- R406: a device agent whose step would raise a record that the ring has no room for holds its operation instead. -/
def State.unlessFull (s : State) (a : Nat) (o : Out) : Out :=
  match o with
  | .next t =>
    if (s.asid a).waiting.length < (t.asid a).waiting.length then
      .refused (.notEnabled "the fault record queue has no room for the record of the operation")
    else o
  | _ => o

/-! ### The braid (R264, R265) -/

def Flit.sender : Flit → Sender
  | .token t => t.sender
  | .entry e => e.sender
  | .drain x _ => x

def Flit.relayed : Flit → Bool
  | .token t => t.relayed
  | .entry e => e.relayed
  | .drain _ _ => false

/-- The place a flit was routed to and the paddock it names; none for a drain token. -/
def Flit.aim : Flit → Option (Option Nat × Nat)
  | .token t => some (t.place, t.paddock)
  | .entry e => some (e.place, e.paddock)
  | .drain _ _ => none

/-- The cell index a flit goes to. -/
def Flit.cell : Flit → Nat
  | .token t => t.cell
  | .entry e => cellOf e.tag e.blk
  | .drain _ _ => 0

/-- A flit routed to a place. -/
def Flit.routed (f : Flit) (i : Option Nat) : Flit :=
  match f with
  | .token t => .token { t with place := i }
  | .entry e => .entry { e with place := i }
  | .drain x j => .drain x j

/-- A parked flit leaves for the place that holds its paddock now; the edge controller of its bay delivers it (R264). -/
def Flit.relay (f : Flit) (i : Option Nat) : Flit :=
  match f with
  | .token t => .token { t with place := i, relayed := true }
  | .entry e => .entry { e with place := i, relayed := true }
  | .drain x j => .drain x j

/-- Whether a flit is bound for place `i` of a crew, or for what it holds. -/
def Flit.boundFor (f : Flit) (x : Crew) (kn : Kernel) (i : Nat) : Bool :=
  match f.aim with
  | some a => (x.goes kn a.1 a.2).place == some i
  | none => false

/-- The physical cell that a flit goes to: the bay of its place with the cell, or a paddock that has no bay now. -/
def Flit.dest (f : Flit) (x : Crew) (kn : Kernel) : Option (Nat × Nat) :=
  f.aim.map (fun a => match x.goes kn a.1 a.2 with
    | .at _ p => (16 * p.slice + p.bay, f.cell)
    | _ => (16 * 104 + a.2, f.cell))

/-- R265: one sender is a cell or a core's fabric port; nothing orders the tokens of the slice port. -/
def sameSender (a b : Sender) : Bool :=
  match a, b with
  | .wave _ _ _, .wave _ _ _ => true
  | .node s b c _ _ _, .node t d e _ _ _ => s == t && b == d && c == e
  | _, _ => false

/-- The frame that a flit is for, where it is there already. -/
def Flit.frame? (f : Flit) (p : Place) : Option Frame :=
  match f with
  | .token t => p.frame? t.cell t.frame
  | .entry e => p.key? e.blk e.tag
  | .drain _ _ => none

/-- R293: a flit has a resident frame to go to; else it waits for an allocation or a refill. -/
def Flit.ready (f : Flit) (x : Crew) (kn : Kernel) : Bool :=
  match f.aim with
  | some a => (match x.goes kn a.1 a.2 with
    | .at _ p => (match f.frame? p with
      | some fr => fr.resident
      | none => match f with | .token _ => true | _ => false)
    | _ => true)
  | none => true

/-- R265: a flit before another in the order of its sender, or of the edge controller that delivers both. -/
def Flit.ahead (g f : Flit) (x : Crew) (kn : Kernel) : Bool :=
  (sameSender g.sender f.sender || (g.relayed && f.relayed)) && g.dest x kn == f.dest x kn

/-- R265, R270, R293: whether the k-th flit may be delivered now. Nothing that its sender sent earlier to its cell is under
way, but for a token that waits for a unit, which one for a resident frame passes; and a drain token leaves after every
token the crew's waves sent to the paddock. -/
def mayArrive (x : Crew) (kn : Kernel) (k : Nat) : Bool :=
  match x.flight[k]? with
  | none => false
  | some f =>
    (x.flight.take k).all (fun g =>
      match f with
      | .drain _ i => !(sameSender g.sender f.sender && g.boundFor x kn i)
      | _ => !(g.ahead f x kn && (g.ready x kn || !f.ready x kn)))

/-- R265: bay routers between two bays of one slice, both ends counted. -/
def bayHops (a b : Nat) : Nat :=
  (max (a % 4) (b % 4) - min (a % 4) (b % 4)) + (max (a / 4) (b / 4) - min (a / 4) (b / 4)) + 1

/-- The slice and the bay from which a sender's tokens start: a fabric port and a slice port lie at bay 0. -/
def Sender.bay (x : Crew) : Sender → Nat × Nat
  | .node s b _ _ _ _ => (s, b)
  | _ => (x.cluster, 0)

/-- R265: the routers that a flit crosses on its way to a place. -/
def flitHops (x : Crew) (f : Flit) (p : Place) : Nat :=
  let q := f.sender.bay x
  let own : Bool := match f.sender with
    | .node s b c _ _ _ => s == p.slice && b == p.bay && c == f.cell
    | _ => false
  if own then 0 else if q.1 == p.slice then bayHops q.2 p.bay else bayHops q.2 0 + bayHops 0 p.bay

/-- The k × 256 + j that a flit belongs to, from its round. -/
def Flit.kj (f : Flit) (x : Crew) : Nat :=
  match f with
  | .token t => ((x.round? t.round).map (fun r => r.iter)).getD 0
  | .entry e => tagIter e.tag
  | .drain _ _ => 0

/-- R371: count HOP for the gang of a flit. -/
def State.countHops (s : State) (c : CrewId) (x : Crew) (f : Flit) (p : Place) : State :=
  s.modGang (kjGang c (f.kj x)) (fun g => { g with hop := sat64 (g.hop + flitHops x f p) })

def State.dropFlit (s : State) (c : CrewId) (k : Nat) : State := s.modCrew c (fun x => { x with flight := x.flight.eraseIdx k })

def State.sendFlit (s : State) (c : CrewId) (f : Flit) : State := s.modCrew c (fun x => { x with flight := x.flight ++ [f] })

/-- R264: the ORPHAN record of a dropped token, which names its sender. -/
def State.orphan (s : State) (c : CrewId) (x : Crew) (f : Flit) : State :=
  let kj := f.kj x
  let r : RecF := match f.sender with
    | .wave _ _ q =>
      { s.spatial c 10 0 .stops kj 0 0 0 q.site with
        form := q.form, ivl := q.form == 1 && q.site.isNone, taddr := q.taddr, voff := q.voff, eqp := q.eqp, aux := 0xFFFFFFFF }
    | .node _ _ _ p b t => { s.spatial c 10 0 .stops kj p b t none with aux := p }
    | .port => s.spatial c 10 0 .stops kj 0 0 0 none
  (s.raise (s.asidOf c) r).1

/-- The node and the tag that a flit is for, as a record about it names them. -/
def Flit.node (f : Flit) (x : Crew) (p : Option Place) : Nat × Nat × Nat × Dword :=
  match f with
  | .token t =>
    (t.paddock, t.blk, t.slot, ((p.bind (fun p => p.frame? t.cell t.frame)).map (fun y => y.tag)).getD (rootTag (f.kj x)))
  | .entry e => (e.paddock, e.blk, e.slot, e.tag)
  | .drain _ _ => (0, 0, 0, 0)

/-! ### The backwater and the park area (R264, R294, R309) -/

/-- R2, R294: what a step from `s` to `t` puts into the backwaters or the park area of a crew, or takes from them, is stored
in HBM, where firmware has placed them (log entry 99). -/
def State.storeBackwaters (s t : State) : State :=
  t.crews.foldl (fun u q =>
    if (s.crew? q.1).map Crew.bwHolds == some q.2.bwHolds || q.2.region.isNone then u
    else u.setMem ((q.2.bwBytes cellOf).foldl (fun m b => Memory.put m b.1 b.2) u.mem)) t

/-- A step from `s` that ends in `o`, with its backwaters stored. -/
def stored (s : State) (o : Out) : Out :=
  match o with
  | .next t => .next (s.storeBackwaters t)
  | .fault f => .fault f
  | .refused r => .refused r

/-- R294: the record of an operation of place `i` that finds the backwater of place `j` of crew `d` full; the operation
waits. -/
def State.bwRaise (s : State) (c : CrewId) (i : Nat) (op : BwOp) (d : CrewId) (j : Nat) (p : Place) (tag : Dword)
    (paddock blk slot : Nat) : State :=
  let r := s.raise (s.asidOf c) { s.spatial c 11 4 .resumable (tagIter tag) paddock blk slot none with
    tag := shownTag p tag }
  r.1.modPlace c i (fun p => { p with bwFull := p.bwFull ++ [⟨r.2, op, d, j⟩] })

/-- One record for each operation that waits. -/
def State.bwFault (s : State) (c : CrewId) (i : Nat) (op : BwOp) (d : CrewId) (j : Nat) (p : Place) (tag : Dword)
    (paddock blk slot : Nat) : Out :=
  if p.bwFull.any (fun w => w.op == op) then .refused (.notEnabled "the operation waits for room in the backwater")
  else .next (s.bwRaise c i op d j p tag paddock blk slot)

/-- Park the k-th flit. -/
def State.parkFlit (s : State) (c : CrewId) (k : Nat) (f : Flit) (paddock : Nat) (place : Option Nat) : State :=
  (s.dropFlit c k).modCrew c (fun y => { y with parks := y.parks ++ [⟨paddock, place, f⟩] })

/-- R264: the park area has taken in the flit as a wave sent it: its paddock was not placed then, and the FSEND waited for the
room. -/
def Flit.booked (f : Flit) : Bool :=
  match f with
  | .entry ⟨.wave _ _ _, none, _, _, _, _, _, _, _, _, _, false, _⟩ => true
  | _ => false

/-- R264: the k-th flit goes to the park area of the region. Whether firmware can extend it is a free value; where it cannot,
the sender waits behind a record of its own. -/
def parkArea (s : State) (c : CrewId) (k : Nat) (x : Crew) (f : Flit) (paddock : Nat) : Out :=
  if f.booked then .next (s.parkFlit c k f paddock none)
  else if x.parkFull.any (fun q => q.2 == f) then .refused (.notEnabled "the token waits for the park area")
  else if s.fresh.1 % 2 = 0 then .next (s.fresh.2.parkFlit c k f paddock none)
  else
    let s := s.fresh.2
    let n := f.node x none
    let r := s.raise (s.asidOf c) { s.spatial c 11 4 .resumable (tagIter n.2.2.2) n.1 n.2.1 n.2.2.1 none with
      tag := n.2.2.2 }
    .next (r.1.modCrew c (fun y => { y with parkFull := y.parkFull ++ [(r.2, f)] }))

/-- R264: a flit whose paddock is not resident: parked or dropped. -/
def routeAway (s : State) (c : CrewId) (k : Nat) (x : Crew) (f : Flit) (paddock : Nat) (g : Goes) : Out :=
  match g with
  | .swapped i p =>
    if bwRoom x i p 16 then .next (s.parkFlit c k f paddock (some i))
    else
      let n := f.node x (some p)
      s.bwFault c i (.park f) c i p n.2.2.2 n.1 n.2.1 n.2.2.1
  | .unplaced => parkArea s c k x f paddock
  | _ => .next ((s.dropFlit c k).orphan c x f)

/-! ### Accepting a token (R287, R304) -/

/-- A node of a frame has what it needs and waits for its cell to fire it. -/
def Place.enqueue (p : Place) (f : Frame) (slot : Nat) (l : Dword) (lerr : Bool) (r : Dword) (rerr entry : Bool) : Place :=
  { p with ready := p.ready ++ [⟨f.cell, f.no, f.blk, slot, l, lerr, r, rerr, entry, none⟩] }

/-- R304: one more token at a JOINC that fires at the n-th. -/
def joinTok (f : Frame) (slot n : Nat) (err : Bool) (v : Dword) (p : Place) : Place :=
  let key := 2 * slot
  let cnt := (if f.presence.getLsbD key then (SMap.get f.slots 0 key).toNat else 0) + 1
  let old := SMap.get f.joinErr 0 slot
  let e := if err then (if old = 0 then v.toNat + 1 else min old (v.toNat + 1)) else old
  if n ≤ cnt then
    (p.modFrame f.cell f.no (fun f => { f with
      presence := setBit f.presence key false, slots := SMap.set f.slots 0 key 0, joinErr := SMap.set f.joinErr 0 slot 0 })).enqueue
      f slot (if e = 0 then BitVec.ofNat 64 n else BitVec.ofNat 64 (e - 1)) (e != 0) 0 false false
  else
    p.modFrame f.cell f.no (fun f => { f with
      presence := setBit f.presence key true, slots := SMap.set f.slots 0 key (BitVec.ofNat 64 cnt)
      joinErr := SMap.set f.joinErr 0 slot e })

/-- R286, R292: a frame has accepted a token. -/
def State.accepted (s : State) (c : CrewId) (i : Nat) (f : Frame) : State :=
  s.modPlace c i (fun p => p.modFrame f.cell f.no (fun f => { f with
    touched := s.now, arrived := min (f.arrived + 1) 65535 }))

/-- R287: write a token into the slot of a resident frame, or complete the node. A token for a slot that has no node, and
one at the R port of a JOINC, has no effect (log entry 100). -/
def State.accept2 (s : State) (c : CrewId) (kn : Kernel) (i : Nat) (p : Place) (f : Frame) (slot : Nat) (port err : Bool)
    (v : Dword) (entry : Bool) : State :=
  let t := s.accepted c i f
  match kn.node? p.paddock f.blk slot with
  | none => s
  | some nd =>
    match nd with
    | .joinc n => if port then s else t.modPlace c i (joinTok f slot n.imm.toNat err v)
    | _ =>
      if !twoOperand nd then t.modPlace c i (fun p => p.enqueue f slot v err 0 false entry)
      else
        let here := 2 * slot + (if port then 1 else 0)
        let other := 2 * slot + (if port then 0 else 1)
        if f.presence.getLsbD here then s.nodeFault c p 2 f.tag f.blk slot none
        else if f.presence.getLsbD other then
          let w := SMap.get f.slots 0 other
          let we := f.errs.getLsbD other
          t.modPlace c i (fun p =>
            (p.modFrame f.cell f.no (fun f => { f with
              presence := setBit f.presence other false, errs := setBit f.errs other false
              slots := SMap.set f.slots 0 other 0 })).enqueue f slot
              (if port then w else v) (if port then we else err) (if port then v else w) (if port then err else we) false)
        else
          t.modPlace c i (fun p => p.modFrame f.cell f.no (fun f => { f with
            presence := setBit f.presence here true, errs := setBit f.errs here err, slots := SMap.set f.slots 0 here v }))

/-! ### The bridle (R269) -/

/-- T of R269, or none where the edge word sets no meter. -/
def bridleMax (s : State) (p : Place) : Option Nat :=
  let tok := fld p.edge 19 12
  if tok = 0 then none
  else some (min tok (max 1 ((s.cluster p.slice).brmax * 2 ^ fld p.edge 23 20 / 256)))

/-- R265, R269: the input port through which a flit enters the bay of a place: from the bay above, below, left or right (0
to 3), from the fabric port (4), the slice port (5) or a link (6), which lie at bay 0. What a cell of the bay or its edge
controller sends enters through none. A token moves along its bay column first, so it comes from the side where the
columns differ. -/
def inPort (x : Crew) (f : Flit) (p : Place) : Option Nat :=
  let q := f.sender.bay x
  let inside : Bool := match f.sender with
    | .node s b _ _ _ _ => s == p.slice && b == p.bay
    | _ => false
  if f.relayed || inside then none
  else
    let b := if q.1 == p.slice then q.2 else 0
    if b % 4 != p.bay % 4 then some (if b % 4 < p.bay % 4 then 2 else 3)
    else if b != p.bay then some (if b < p.bay then 0 else 1)
    else if q.1 != p.slice then some 6
    else some (match f.sender with | .port => 5 | _ => 4)

/-- Count a flit in the window of its port, if the window admits it. -/
def State.letIn (s : State) (c : CrewId) (x : Crew) (i : Nat) (f : Flit) (p : Place) : Option State :=
  match inPort x f p, bridleMax s p with
  | some n, some t =>
    if SMap.get p.admitted 0 n < t then
      some (s.modPlace c i (fun p => { p with admitted := SMap.set p.admitted 0 n (SMap.get p.admitted 0 n + 1) }))
    else none
  | _, _ => some s

/-- BRIDLE_WINDOW_END. -/
def execBridleWindowEnd (c : CrewId) (i : Nat) (s : State) : Out :=
  match (s.crew? c).bind (fun x => x.spot? i) with
  | some _ => .next (s.modPlace c i (fun p => { p with admitted := [] }))
  | none => .refused (.notEnabled "no such place")

/-! ### TOKEN_ARRIVE and FRAME_ENTRY (R287, R291 to R293) -/

/-- R271: a cell of a draining place that has passed takes nothing more. -/
def Place.shut (p : Place) (cell : Nat) : Bool := p.draining && p.passed.getLsbD cell

/-- R264, R271: the k-th flit meets a passed cell of place `i`: it is parked for a load of its paddock that has been
accepted, goes where a later load of the paddock is now, or is dropped. -/
def lateFlit (s : State) (c : CrewId) (k : Nat) (x : Crew) (kn : Kernel) (f : Flit) (paddock i : Nat) : Out :=
  match x.mapped kn paddock with
  | .at j _ =>
    if j == i then .next ((s.dropFlit c k).orphan c x f)
    else .next (s.modCrew c (fun x => { x with flight := x.flight.modify k (fun f => f.routed (some j)) }))
  | g => routeAway s c k x f paddock g

/-- The k-th flit of a crew under way, a token, reaches its cell. A STALE record names the root tag of its round (log entry
149). -/
def arriveToken (s : State) (c : CrewId) (k : Nat) (x : Crew) (kn : Kernel) (t : Tok) : Out :=
  let f : Flit := .token t
  match x.goes kn t.place t.paddock with
  | .at i p =>
    if p.shut t.cell then lateFlit s c k x kn f t.paddock i
    else match p.frame? t.cell t.frame with
      | none => .next ((s.dropFlit c k).nodeFault c p 3 (rootTag (f.kj x)) t.blk t.slot none)
      | some fr =>
        if !fr.resident then .refused (.notEnabled "the frame must be refilled first")
        else match s.letIn c x i f p with
          | none => .refused (.notEnabled "the bridle admits no more in this window")
          | some u => .next (((u.dropFlit c k).countHops c x f p).accept2 c kn i p fr t.slot t.port t.err t.value false)
  | g => routeAway s c k x f t.paddock g

/-- TOKEN_ARRIVE: the k-th flit of a crew under way. -/
def execTokenArrive (c : CrewId) (k : Nat) (s : State) : Out :=
  match s.crew? c, s.kernel? c with
  | some x, some kn =>
    match x.flight[k]? with
    | none => .refused (.notEnabled "no such flit")
    | some f =>
      if !mayArrive x kn k then .refused (.notEnabled "an earlier token of the sender comes first")
      else s.unlessFull (s.asidOf c) (match f with
      | .drain _ i =>
        (match x.spot? i with
          | some p =>
            if p.state == .resident then
              .next ((s.dropFlit c k).modPlace c i (fun p => { p with drainHere := BitVec.allOnes 16 }))
            else .refused (.notEnabled "the place of the drain token is not resident")
          | none => .next (s.dropFlit c k))
      | .entry e =>
        (match x.goes kn e.place e.paddock with
          | .at _ _ => .refused (.notEnabled "an entry is taken by FRAME_ENTRY")
          | g => routeAway s c k x f e.paddock g)
      | .token t => arriveToken s c k x kn t)
  | _, _ => .refused (.notEnabled "no such crew")

/-- Every place of every crew that lies in a bay. -/
def State.bayPlaces (s : State) (slice bay : Nat) : List (CrewId × Nat × Place) :=
  s.crews.flatMap (fun q =>
    match q.2.region with
    | some r => ((List.range r.places.length).zip r.places).filterMap (fun p =>
        if p.2.state != .swapped && p.2.slice == slice && p.2.bay == bay then some (q.1, p.1, p.2) else none)
    | none => [])

/-- R294, R309: a cell that waits for room in a backwater fires nothing. -/
def State.cellHeld (s : State) (slice bay cell : Nat) : Bool :=
  (s.bayPlaces slice bay).any (fun q => q.2.2.bwFull.any (fun w => w.op == .unit cell))

/-- R255, R257, R276: the units of a compute cell that hold code or a frame, or are reserved for code. -/
def State.unitsUsed (s : State) (slice bay cell : Nat) : Nat :=
  let ps := s.bayPlaces slice bay
  let code := (ps.map (fun q =>
    if q.2.2.state == .resident && !q.2.2.passed.getLsbD cell then
      (match s.kernel? q.1 with | some kn => (kn.words q.2.2.paddock + 143) / 144 | none => 8)
    else 8)).sum
  let frames := (ps.map (fun q => (q.2.2.frames.filter (fun f => f.resident && f.cell == cell)).length)).sum
  code + frames

/-- R318: a round is no more: a precise stop or a STOP has discarded it. -/
def State.roundGone (s : State) (c : CrewId) (round : Nat) : Bool := ((s.crew? c).bind (fun x => x.round? round)).isNone

/-- R292, R316, R447: the node of an entry is firing: it has begun and waits for something other than a buffer's full or
empty bit, or for its turn on a FIFO. -/
def Place.firing (p : Place) (kn : Option Kernel) (r : Ready) : Bool :=
  r.since.isSome && (match kn.bind (fun kn => kn.node? p.paddock r.blk r.slot) with
    | some (.mcld _) | some (.mcst _) | some (.mcenq _) | some (.mcdeq _) => false
    | _ => true)

/-- R292: frames of a place that a cell may evict: resident there and not firing. A firing that waits, or that a record
holds, has begun; a node that only waits for its cell to fire it, or for a buffer, has not, and one of a frame that is
ending never fires (R307). -/
def Place.evictable (p : Place) (kn : Option Kernel) (cell : Nat) : List Frame :=
  p.frames.filter (fun f => f.resident && f.cell == cell
    && !p.ready.any (fun r => r.cell == cell && r.frame == f.no && !f.ending && p.firing kn r)
    && !p.parked.any (fun q => q.2.cell == cell && q.2.frame == f.no))

/-- The least recently touched. -/
def oldest : List Frame → Option Frame
  | [] => none
  | f :: t => match oldest t with
    | some g => if g.touched < f.touched then some g else some f
    | none => some f

/-- What obtaining a unit gives: the state with a unit free, a full backwater (that of a place of a crew, which must take
a frame), or nothing to evict. -/
inductive UnitRes where
  | ok (s : State)
  | full (c : CrewId) (i : Nat) (f : Frame)
  | none_

/-- Evict a frame into the backwater of its context. -/
def evict (s : State) (c : CrewId) (i : Nat) (p : Place) (f : Frame) : UnitRes :=
  match s.crew? c with
  | some x =>
    if bwRoom x i p 1152 then .ok (s.modPlace c i (fun p => p.modFrame f.cell f.no (fun f => { f with resident := false })))
    else .full c i f
  | none => .none_

/-- R292, rule 3: evict the least recently touched frame of the cell's lowest-priority context that has one; of several
such contexts the first of the crews and their places (log entry 141). -/
def evictLow (s : State) (slice bay cell : Nat) : UnitRes :=
  let qs := (s.bayPlaces slice bay).filter (fun q => !(q.2.2.evictable (s.kernel? q.1) cell).isEmpty)
  let low := (qs.map (fun q => s.placePrio q.2.2)).foldl min 16
  match qs.find? (fun q => s.placePrio q.2.2 == low) with
  | some q => match oldest (q.2.2.evictable (s.kernel? q.1) cell) with
    | some f => evict s q.1 q.2.1 q.2.2 f
    | none => .none_
  | none => .none_

/-- R292: obtain a unit on a cell for a frame of a place. -/
def getUnit (s : State) (c : CrewId) (i : Nat) (p : Place) (cell : Nat) : UnitRes :=
  let fq := SMap.get (s.cluster p.slice).fqmax 42 (4 * p.bay + p.ctx)
  if fq ≤ (p.frames.filter (fun f => f.resident && f.cell == cell)).length then
    match oldest (p.evictable (s.kernel? c) cell) with
    | some f => evict s c i p f
    | none => .none_
  else if s.unitsUsed p.slice p.bay cell < 42 then .ok s
  else evictLow s p.slice p.bay cell

/-- R257: secure `n` more units of a cell, evicting frames as long as there are fewer. -/
def secureCell (slice bay cell n : Nat) : Nat → State → UnitRes
  | 0, _ => .none_
  | fuel + 1, s =>
    if s.unitsUsed slice bay cell + n ≤ 42 then .ok s
    else match evictLow s slice bay cell with
      | .ok t => secureCell slice bay cell n fuel t
      | r => r

/-- R257: secure `n` more units in each of a list of cells of a bay. -/
def secureCells (slice bay n : Nat) : List Nat → State → UnitRes
  | [], s => .ok s
  | c :: t, s =>
    match secureCell slice bay c n 43 s with
    | .ok u => secureCells slice bay n t u
    | r => r

/-- R294: the device itself needs the unit of frame `f` of place `j`, whose backwater is full. -/
def State.bwOwn (s : State) (d : CrewId) (j : Nat) (f : Frame) : Out :=
  match (s.crew? d).bind (fun x => x.spot? j) with
  | some p => s.unlessFull (s.asidOf d) (s.bwFault d j (.unit f.cell) d j p f.tag p.paddock f.blk 0)
  | none => .refused (.notEnabled "no such place")

/-- What follows from obtaining units for the device itself. -/
def UnitRes.orWait (r : UnitRes) (s : State) (go : State → Out) : Out :=
  match r with
  | .ok t => go t
  | .full d j f => s.bwOwn d j f
  | .none_ => .refused (.notEnabled "a cell has no frame that can be evicted")

/-- The compute cells of a bay (R11). -/
def computeCells : List Nat := [0, 2, 5, 7, 8, 10, 13, 15]

/-- A logical frame number that is free on a cell; which one is a free value. -/
def freeFrameNo (s : State) (p : Place) (cell : Nat) : Option Nat × State :=
  let n := s.fresh.1
  (((List.range 1024).map (fun k => (n + k) % 1024)).find? (fun k => (p.frame? cell k).isNone), s.fresh.2)

/-- R291, R298: an injection that reaches a frame which another has created joins the other's round, whose rounding mode
stands (log entry 126). The weir forgets the root that it would have had. -/
def State.joinRounds (s : State) (c : CrewId) (r into : Nat) : State :=
  if r == into then s else
  s.modCrew c (fun x => { x with
    rounds := x.rounds.filter (fun y => y.id != r)
    chains := x.chains.map (fun ch =>
      let gone := (ch.acts.filter (fun a => a.round == r)).map (fun a => a.id)
      { ch with
        acts := ch.acts.filter (fun a => a.round != r)
        cursor := match ch.cursor with
          | .start a => if gone.contains a then .idle else ch.cursor
          | .child a => if gone.contains a then .idle else ch.cursor
          | .done a => if gone.contains a then .idle else ch.cursor
          | .after a _ _ => if gone.contains a then .idle else ch.cursor
          | .idle => .idle }) })

/-- R291, R298, R368: an entry that reaches an existing frame joins its round while that is open; after that the frame
goes on in the new round. -/
def State.enterFrame (s : State) (c : CrewId) (i : Nat) (fr : Frame) (round : Nat) : State × Frame :=
  match (s.crew? c).bind (fun x => x.round? fr.round) with
  | some r =>
    if r.open_ then (s.joinRounds c round fr.round, fr)
    else (s.modPlace c i (fun p => p.modFrame fr.cell fr.no (fun f => { f with round := round })), { fr with round := round })
  | none => (s.modPlace c i (fun p => p.modFrame fr.cell fr.no (fun f => { f with round := round })), { fr with round := round })

/-- A frame as an entry makes it (R291). -/
def Frame.new (cell no now : Nat) (e : Ent) : Frame :=
  { cell := cell, no := no, blk := e.blk, tag := e.tag, round := e.round, how := e.how, loop0 := 0, loop1 := 0
    presence := 0, slots := [], errs := 0, joinErr := [], resident := true, ending := false
    touched := now, arrived := 0, fired := 0 }

/-- The k-th flit of a crew, an entry, reaches its cell in place `i`. -/
def enterAt (s : State) (c : CrewId) (k : Nat) (x : Crew) (kn : Kernel) (e : Ent) (i : Nat) (p : Place) : Out :=
  let f : Flit := .entry e
  let cell := cellOf e.tag e.blk
  if p.shut cell then lateFlit s c k x kn f e.paddock i
  else match s.letIn c x i f p with
  | none => .refused (.notEnabled "the bridle admits no more in this window")
  | some t =>
    match p.key? e.blk e.tag with
    | some fr =>
      if !fr.resident then .refused (.notEnabled "the frame must be refilled first")
      else
        let u := ((t.dropFlit c k).countHops c x f p).enterFrame c i fr e.round
        .next (u.1.accept2 c kn i p u.2 e.slot e.port e.err e.value e.start)
    | none =>
      if s.cellHeld p.slice p.bay cell then .refused (.notEnabled "the cell waits for room in a backwater")
      else match getUnit t c i p cell with
      | .none_ => .refused (.notEnabled "no frame of the cell can be evicted")
      | .full d j _ => s.bwFault c i (.unit cell) d j p e.tag e.paddock e.blk e.slot
      | .ok u =>
        match freeFrameNo u p cell with
        | (none, _) => .refused (.notEnabled "no logical frame number is free")
        | (some no, u) =>
          let fr := Frame.new cell no s.now e
          let u := ((u.dropFlit c k).countHops c x f p).modPlace c i (fun p => { p with frames := p.frames ++ [fr] })
          .next (u.accept2 c kn i p fr e.slot e.port e.err e.value e.start)

/-- FRAME_ENTRY: the k-th flit of a crew is an entry and reaches its cell. -/
def execFrameEntry (c : CrewId) (k : Nat) (s : State) : Out :=
  match s.crew? c, s.kernel? c with
  | some x, some kn =>
    match x.flight[k]? with
    | some (.entry e) =>
      if !mayArrive x kn k then .refused (.notEnabled "an earlier token of the sender comes first")
      else s.unlessFull (s.asidOf c) (match x.goes kn e.place e.paddock with
        | .at i p => enterAt s c k x kn e i p
        | g => routeAway s c k x (.entry e) e.paddock g)
    | some _ => .refused (.notEnabled "the flit is no entry")
    | none => .refused (.notEnabled "no such flit")
  | _, _ => .refused (.notEnabled "no such crew")

/-- The slot of the first flit that waits for a frame of place `i`, or of a node of it that waits to fire: an ending frame
fires none (R307). -/
def Crew.waitsFor (x : Crew) (kn : Kernel) (i : Nat) (p : Place) (fr : Frame) : Option Nat :=
  match x.flight.find? (fun f => f.boundFor x kn i && f.frame? p == some fr) with
  | some f => some (f.node x (some p)).2.2.1
  | none =>
    if fr.ending then none else (p.ready.find? (fun r => r.cell == fr.cell && r.frame == fr.no)).map (fun r => r.slot)

/-- R215: the record of an uncorrectable error that the image of a spilled frame meets. -/
def State.frameEcc (s : State) (c : CrewId) (p : Place) (fr : Frame) (slot : Nat) : State :=
  (s.raise (s.asidOf c) { s.spatial c 2 10 .stops (tagIter fr.tag) p.paddock fr.blk slot none with tag := shownTag p fr.tag }).1

/-- FRAME_REFILL (R293): a spilled frame for which a token waits comes back as its image in the backwater gives it (R285,
R286); what the image does not lay out is the device's own. -/
def execFrameRefill (c : CrewId) (i cell no : Nat) (s : State) : Out :=
  match s.crew? c, s.kernel? c with
  | some x, some kn => match x.spot? i with
    | some p => match p.frame? cell no with
      | some fr =>
        if fr.resident || p.state != .resident then .refused (.notEnabled "the frame is not spilled, or its place not resident")
        else if s.cellHeld p.slice p.bay cell then .refused (.notEnabled "the cell waits for room in a backwater")
        else match x.waitsFor kn i p fr with
        | none => .refused (.notEnabled "no token waits for the frame")
        | some slot =>
          let at_ := x.imageAt i p fr
          if s.eccHbm at_ 1152 then s.unlessFull (s.asidOf c) (.next (s.frameEcc c p fr slot)) else
          match getUnit s c i p cell with
          | .none_ => .refused (.notEnabled "no frame of the cell can be evicted")
          | .full d j _ => s.unlessFull (s.asidOf c) (s.bwFault c i (.unit cell) d j p fr.tag p.paddock fr.blk slot)
          | .ok u => .next (u.modPlace c i (fun p => p.modFrame cell no (fun f =>
              { f.ofImage (s.physBytes at_ 1152) with resident := true, touched := s.now })))
      | none => .refused (.notEnabled "no such frame")
    | none => .refused (.notEnabled "no such place")
  | _, _ => .refused (.notEnabled "no such crew")

/-! ### Choosing a node (R261, R447, R453) -/

/-- A gang is halted, and no hand-over that it has begun goes on (R370). -/
def Gang.still (g : Gang) : Bool := g.halted && g.moving.isNone

/-- Every gang of a crew is halted. -/
def State.allStill (s : State) (c : CrewId) : Bool := s.gangs.all (fun q => q.1.crew != c || q.2.still)

/-- R447, R453: the contexts of a crew stand still: a gang of the crew in spatial form is halted, or every gang is. The
paddocks of such a gang are those of its crew's region (log entry 121). -/
def State.nodesHeld (s : State) (c : CrewId) : Bool :=
  s.gangs.any (fun q => q.1.crew == c && q.2.still && (q.2.form == 2 || s.allStill c))

/-- R447, R453: the retire unit commits no round of a gang: it is halted in spatial form, or every gang of its crew is. -/
def State.roundsHeld (s : State) (c : CrewId) (kj : Nat) : Bool :=
  match s.gang? (kjGang c kj) with
  | some g => g.still && (g.form == 2 || s.allStill c)
  | none => false

/-- R409: the job of a crew is stopped. -/
def State.crewStopped (s : State) (c : CrewId) : Bool := (s.asid (s.asidOf c)).stopped

/-- The next node that a place has for a cell: a frame that is ending fires none (R307), and while the context stands still
only firings in progress go on (R447). A firing that has begun and waits is a ready node of its context (log entry 142). -/
def readyFor (s : State) (c : CrewId) (p : Place) (cell : Nat) : Option (Nat × Ready) :=
  findAt p.ready (fun r => r.cell == cell && (match p.frame? r.cell r.frame with
    | some f => !f.ending && f.resident && (!s.nodesHeld c || p.firing (s.kernel? c) r)
    | none => false))

/-- NODE_CHOOSE: the highest firing priority first, then round robin by context. -/
def execNodeChoose (cl bay cell : Nat) (s : State) : Out :=
  let cand := (s.bayPlaces cl bay).filterMap (fun q =>
    if q.2.2.state == .resident && !s.crewStopped q.1 then (readyFor s q.1 q.2.2 cell).map (fun r => (q, r)) else none)
  let hi := (cand.map (fun a => s.placePrio a.1.2.2)).foldl max 0
  let last := SMap.get (s.cluster cl).rr 0 (16 * bay + cell)
  let order := (List.range 4).map (fun k => (last + 1 + k) % 4)
  let pick (x : Nat) := cand.find? (fun a => s.placePrio a.1.2.2 == hi && a.1.2.2.ctx == x)
  if s.cellHeld cl bay cell then .refused (.notEnabled "the cell waits for room in a backwater")
  else match order.findSome? pick with
  | none => .refused (.notEnabled "no node of the cell is ready")
  | some a =>
    let s := s.modCluster cl (fun x => { x with rr := SMap.set x.rr 0 (16 * bay + cell) a.1.2.2.ctx })
    let s := s.modPlace a.1.1 a.1.2.1 (fun p => { p with ready := p.ready.eraseIdx a.2.1 })
    .next { s with focus := .node ⟨a.1.1, a.1.2.1, a.2.2⟩ }

end Sys2Proof.Machine
end

