-- ==== Sys2Proof/Machine/Float.lean ====
section
/-! DEFINITION. Class 1: native floating point (R107 to R121). -/

namespace Sys2Proof.Machine

/-- An operation that rounds under the mode (R117). -/
def fArith (f : KF) (G : Fmt → Mode → Nat → Nat → Nat × Fl) : Ctx → State → State :=
  fltOp f f.ty f.ty (fun m a b _ => G (nat? f.ty) m (fA f a) (fB f b))

def execFadd (f : KF) (s : State) : Out := issueCore (.fadd f) s (fun k s => .done (fArith f gAdd k s))
def execFsub (f : KF) (s : State) : Out := issueCore (.fsub f) s (fun k s => .done (fArith f gSub k s))
def execFmul (f : KF) (s : State) : Out := issueCore (.fmul f) s (fun k s => .done (fArith f gMul k s))

/-- R117: FMA with NC on the addend (R112). -/
def fmaOp (f : KF) : Ctx → State → State :=
  fltOp f f.ty f.ty (fun m a b c =>
    gFma (nat? f.ty) m (fA f a) (fB f b) (applyMods (nat? f.ty) c (KF.xbit f 7) false))

def execFma (f : KF) (s : State) : Out := issueCore (.fma f) s (fun k s => .done (fmaOp f k s))
def execFmin (f : KF) (s : State) : Out :=
  issueCore (.fmin f) s (fun k s => .done (fArith f (fun g _ a b => gMinMax g false a b) k s))
def execFmax (f : KF) (s : State) : Out :=
  issueCore (.fmax f) s (fun k s => .done (fArith f (fun g _ a b => gMinMax g true a b) k s))

/-- R119. -/
def fcmpOp (f : KF) (k : Ctx) (s : State) : State :=
  cmpOp f (fun x l => fA f (if KF.uni f then sOperand x f.ty (KF.A f) else x.rdT f.ty (KF.A f) l))
    (fun x l => fB f (opBf f k.wv x l)) (gCmp (nat? f.ty) (fld f.c 2 0)) k s

def execFcmp (f : KF) (s : State) : Out := issueCore (.fcmp f) s (fun k s => .done (fcmpOp f k s))
def execFdiv (f : KF) (s : State) : Out := issueCore (.fdiv f) s (fun k s => .done (fArith f gDiv k s))
def execFsqrt (f : KF) (s : State) : Out :=
  issueCore (.fsqrt f) s (fun k s => .done (fArith f (fun g m a _ => gSqrt g m a) k s))
def execFrcp (f : KF) (s : State) : Out :=
  issueCore (.frcp f) s (fun k s => .done (fArith f (fun g _ a _ => gRcp g a) k s))
def execFrsq (f : KF) (s : State) : Out :=
  issueCore (.frsq f) s (fun k s => .done (fArith f (fun g _ a _ => gRsq g a) k s))
def execFex2 (f : KF) (s : State) : Out :=
  issueCore (.fex2 f) s (fun k s => .done (fArith f (fun g _ a _ => gEx2 g a) k s))
def execFlg2 (f : KF) (s : State) : Out :=
  issueCore (.flg2 f) s (fun k s => .done (fArith f (fun g _ a _ => gLg2 g a) k s))

/-- R120: always a 32-bit result. -/
def execFclass (f : KF) (s : State) : Out :=
  issueCore (.fclass f) s (fun k s => .done (fltOp f 0 f.ty (fun _ a _ _ => (gClass (nat? f.ty) a, 0)) k s))

/-- The width of integer type `it` as a TY (R113). -/
def itTy (f : KF) : BitVec 2 := if f.c.getLsbD 1 then 1 else 0

def execFcvti (f : KF) (s : State) : Out :=
  issueCore (.fcvti f) s (fun k s => .done
    (fltOp f (itTy f) f.ty (fun m a _ _ => gCvti (nat? f.ty) m (fld f.c 1 0) (fA f a)) k s))
def execIcvtf (f : KF) (s : State) : Out :=
  issueCore (.icvtf f) s (fun k s => .done
    (fltOp f f.ty (itTy f) (fun m a _ _ => gIcvt (nat? f.ty) m (fld f.c 1 0) a) k s))

/-- R113, R121: FCVTW reads the other native type. -/
def execFcvtw (f : KF) (s : State) : Out :=
  let src : BitVec 2 := if f.ty == 1 then 0 else 1
  issueCore (.fcvtw f) s (fun k s => .done
    (fltOp f f.ty src (fun m a _ _ => gCvtw (nat? src) (nat? f.ty) m
      (applyMods (nat? src) a (KF.xbit f 0) (KF.xbit f 2))) k s))

def execFrnd (f : KF) (s : State) : Out :=
  issueCore (.frnd f) s (fun k s => .done (fArith f (fun g m a _ => gRnd g m (f.c.getLsbD 0) a) k s))

/-- R113, R115: the count of FSCL is a 32-bit integer in every TY. -/
def fsclOp (f : KF) (k : Ctx) (s : State) : State :=
  let cnt (x : Wave) (l : Nat) : Int :=
    match f.b with
    | .v r => (x.rdV r.toNat l).toInt
    | .s r => ((k.wv.rdS r.toNat).extractLsb' 0 32).toInt
    | .imm i => i.toInt
  if KF.uni f then
    onWave k s (fun x =>
      let r := gScl (nat? f.ty) (fMode f x) (fA f (sOperand x f.ty (KF.A f))) (cnt x 0)
      (x.wrS (KF.D f) (BitVec.ofNat 64 r.1)).orFlags r.2)
  else
    onLanesFl f k s (fun x l =>
      let r := gScl (nat? f.ty) (fMode f x) (fA f (x.rdT f.ty (KF.A f) l)) (cnt x l)
      (fun a => a.wrT f.ty (KF.D f) l r.1, r.2))

def execFscl (f : KF) (s : State) : Out := issueCore (.fscl f) s (fun k s => .done (fsclOp f k s))

end Sys2Proof.Machine
end

