-- ==== Sys2Proof/Machine/Int.lean ====
section
/-! DEFINITION. Class 0: integer, bit and address instructions (R92 to R104). The per-part functions take the part width
and unsigned patterns; they serve core words and node words alike (R308). -/

namespace Sys2Proof.Machine

/-! ### Per-part functions -/

def iAdd (w a b _c : Nat) : Nat := wrap w (a + b)
def iSub (w a b _c : Nat) : Nat := wrap w ((a : Int) - b)
def iMullo (w a b _c : Nat) : Nat := wrap w (a * b)
def iMulhi (w a b _c : Nat) : Nat := wrap w (sgn w a * sgn w b / (2 ^ w : Nat))
def iMulhn (w a b _c : Nat) : Nat := wrap w (a * b / (2 ^ w : Nat))
def iMad (w a b c : Nat) : Nat := wrap w (a * b + c)
/-- R95: truncation toward zero, with the fixed results for a zero divisor and for overflow. -/
def iDiv (w a b _c : Nat) : Nat := if b = 0 then 2 ^ w - 1 else wrap w (Int.tdiv (sgn w a) (sgn w b))
def iDivn (w a b _c : Nat) : Nat := if b = 0 then 2 ^ w - 1 else a / b
def iRem (w a b _c : Nat) : Nat := if b = 0 then a else wrap w (Int.tmod (sgn w a) (sgn w b))
def iRemn (_w a b _c : Nat) : Nat := if b = 0 then a else a % b
def iMin (w a b _c : Nat) : Nat := if sgn w a ≤ sgn w b then a else b
def iMax (w a b _c : Nat) : Nat := if sgn w a ≤ sgn w b then b else a
def iMinn (_w a b _c : Nat) : Nat := min a b
def iMaxn (_w a b _c : Nat) : Nat := max a b
def iAbs (w a _b _c : Nat) : Nat := wrap w (sgn w a).natAbs
def iNeg (w a _b _c : Nat) : Nat := wrap w (-(sgn w a))
def iAnd (_w a b _c : Nat) : Nat := a &&& b
def iOr (_w a b _c : Nat) : Nat := a ||| b
def iXor (_w a b _c : Nat) : Nat := a ^^^ b
def iNot (w a _b _c : Nat) : Nat := 2 ^ w - 1 - a
def iAndn (w a b _c : Nat) : Nat := a &&& (2 ^ w - 1 - b)
/-- R96: counts at or above the width. -/
def iShl (w a b _c : Nat) : Nat := if w ≤ b then 0 else wrap w (a * 2 ^ b)
def iShr (w a b _c : Nat) : Nat := if w ≤ b then 0 else a / 2 ^ b
def iSar (w a b _c : Nat) : Nat := wrap w (sgn w a / (2 ^ (min b w) : Nat))
def iRol (w a b _c : Nat) : Nat := (a * 2 ^ (b % w)) % 2 ^ w + a * 2 ^ (b % w) / 2 ^ w
/-- R97. -/
def iClz (w a _b _c : Nat) : Nat := if a = 0 then w else w - 1 - Nat.log2 a
def iPopc (w a _b _c : Nat) : Nat := ((List.range w).filter (fun i => bit a i)).length
def iBrev (w a _b _c : Nat) : Nat := ((List.range w).map (fun i => if bit a i then 2 ^ (w - 1 - i) else 0)).sum
/-- R98: the effective length of a field. -/
def fieldLen (w pos len : Nat) : Nat := min len (w - pos)
def iBfx (sx : Bool) (w a b _c : Nat) : Nat :=
  let pos := bits b 7 0
  let n := fieldLen w pos (bits b 15 8)
  if n = 0 then 0
  else
    let v := a / 2 ^ pos % 2 ^ n
    if sx then wrap w (sgn n v) else v
/-- R98: the third operand is the old destination. -/
def iBfi (w a b old : Nat) : Nat :=
  let pos := bits b 7 0
  let n := fieldLen w pos (bits b 15 8)
  if n = 0 then old
  else old / 2 ^ (pos + n) * 2 ^ (pos + n) + a % 2 ^ n * 2 ^ pos + old % 2 ^ pos
/-- R99. -/
def iLea (scale idxW base idx : Nat) : Nat := wrap 64 ((base : Int) + sgn idxW idx * (2 ^ scale : Nat))
/-- R93. -/
def iClamp (nat : Bool) (w : Nat) (x : Int) : Nat :=
  let lo : Int := if nat then 0 else -(2 ^ (w - 1) : Nat)
  let hi : Int := if nat then (2 ^ w : Nat) - 1 else (2 ^ (w - 1) : Nat) - 1
  wrap w (max lo (min hi x))
def iAdds (nat : Bool) (w a b _c : Nat) : Nat :=
  iClamp nat w (if nat then (a : Int) + b else sgn w a + sgn w b)
def iSubs (nat : Bool) (w a b _c : Nat) : Nat :=
  iClamp nat w (if nat then (a : Int) - b else sgn w a - sgn w b)
/-- R100. -/
def iCmp (cond w a b : Nat) : Bool :=
  match cond with
  | 0 => a == b
  | 1 => a != b
  | 2 => sgn w a < sgn w b
  | 3 => sgn w a ≤ sgn w b
  | 4 => sgn w b < sgn w a
  | 5 => sgn w b ≤ sgn w a
  | 6 => a < b
  | 7 => a ≤ b
  | 8 => b < a
  | _ => b ≤ a
/-- R104: byte k as a value. -/
def dotByte (uns : Bool) (v k : Nat) : Int := if uns then (part 8 k v : Int) else sgn 8 (part 8 k v)
def iDot4 (an bn : Bool) (a b c : Nat) : Nat :=
  wrap 32 (sgn 32 c + ((List.range 4).map (fun k => dotByte an a k * dotByte bn b k)).sum)

/-! ### The instructions -/

def execAdd (f : KF) (s : State) : Out := issueCore (.add f) s (fun k s => .done (intOp f iAdd k s))
def execSub (f : KF) (s : State) : Out := issueCore (.sub f) s (fun k s => .done (intOp f iSub k s))

/-- R94: add or subtract with carries in masks; `cout` and the result from the exact sum. -/
def carryOp (f : KF) (sub : Bool) (k : Ctx) (s : State) : State :=
  let w := partW f.ty
  onLanes f k s (fun x l a =>
    let cin : Int := if f.c.getLsbD 3 && (x.rdM (fld f.c 2 0)).getLsbD l then 1 else 0
    let va : Int := x.rdT f.ty (KF.A f) l
    let vb : Int := opB f k.wv x l
    let r := if sub then va - vb - cin else va + vb + cin
    let co : Bool := if sub then r < 0 else (2 ^ w : Nat) ≤ r
    (a.wrT f.ty (KF.D f) l (wrap w r)).wrMbit (fld f.c 6 4) l co)

def execAddc (f : KF) (s : State) : Out := issueCore (.addc f) s (fun k s => .done (carryOp f false k s))
def execSubb (f : KF) (s : State) : Out := issueCore (.subb f) s (fun k s => .done (carryOp f true k s))
def execMullo (f : KF) (s : State) : Out := issueCore (.mullo f) s (fun k s => .done (intOp f iMullo k s))
def execMulhi (f : KF) (s : State) : Out := issueCore (.mulhi f) s (fun k s => .done (intOp f iMulhi k s))
def execMulhn (f : KF) (s : State) : Out := issueCore (.mulhn f) s (fun k s => .done (intOp f iMulhn k s))
def execMad (f : KF) (s : State) : Out := issueCore (.mad f) s (fun k s => .done (intOp f iMad k s))
def execDiv (f : KF) (s : State) : Out := issueCore (.div f) s (fun k s => .done (intOp f iDiv k s))
def execDivn (f : KF) (s : State) : Out := issueCore (.divn f) s (fun k s => .done (intOp f iDivn k s))
def execRem (f : KF) (s : State) : Out := issueCore (.rem f) s (fun k s => .done (intOp f iRem k s))
def execRemn (f : KF) (s : State) : Out := issueCore (.remn f) s (fun k s => .done (intOp f iRemn k s))
def execMin (f : KF) (s : State) : Out := issueCore (.min f) s (fun k s => .done (intOp f iMin k s))
def execMax (f : KF) (s : State) : Out := issueCore (.max f) s (fun k s => .done (intOp f iMax k s))
def execMinn (f : KF) (s : State) : Out := issueCore (.minn f) s (fun k s => .done (intOp f iMinn k s))
def execMaxn (f : KF) (s : State) : Out := issueCore (.maxn f) s (fun k s => .done (intOp f iMaxn k s))
def execAbs (f : KF) (s : State) : Out := issueCore (.abs f) s (fun k s => .done (intOp f iAbs k s))
def execNeg (f : KF) (s : State) : Out := issueCore (.neg f) s (fun k s => .done (intOp f iNeg k s))
def execAnd (f : KF) (s : State) : Out := issueCore (.and f) s (fun k s => .done (intOp f iAnd k s))
def execOr (f : KF) (s : State) : Out := issueCore (.or f) s (fun k s => .done (intOp f iOr k s))
def execXor (f : KF) (s : State) : Out := issueCore (.xor f) s (fun k s => .done (intOp f iXor k s))
def execAndn (f : KF) (s : State) : Out := issueCore (.andn f) s (fun k s => .done (intOp f iAndn k s))
def execNot (f : KF) (s : State) : Out := issueCore (.not f) s (fun k s => .done (intOp f iNot k s))
def execShl (f : KF) (s : State) : Out := issueCore (.shl f) s (fun k s => .done (intOp f iShl k s))
def execShr (f : KF) (s : State) : Out := issueCore (.shr f) s (fun k s => .done (intOp f iShr k s))
def execSar (f : KF) (s : State) : Out := issueCore (.sar f) s (fun k s => .done (intOp f iSar k s))
def execRol (f : KF) (s : State) : Out := issueCore (.rol f) s (fun k s => .done (intOp f iRol k s))
def execClz (f : KF) (s : State) : Out := issueCore (.clz f) s (fun k s => .done (intOp f iClz k s))
def execPopc (f : KF) (s : State) : Out := issueCore (.popc f) s (fun k s => .done (intOp f iPopc k s))
def execBrev (f : KF) (s : State) : Out := issueCore (.brev f) s (fun k s => .done (intOp f iBrev k s))
def execBfx (f : KF) (s : State) : Out :=
  issueCore (.bfx f) s (fun k s => .done (intOp f (iBfx (f.c.getLsbD 0)) k s))

/-- R98: BFI reads its destination. -/
def bfiOp (f : KF) (k : Ctx) (s : State) : State :=
  if KF.uni f then
    onWave k s (fun x => x.wrS (KF.D f) (BitVec.ofNat 64
      (iBfi (partW f.ty) (sOperand x f.ty (KF.A f)) (opB f x x 0) (sOperand x f.ty (KF.D f)))))
  else
    onLanes f k s (fun x l a => a.wrT f.ty (KF.D f) l
      (iBfi (partW f.ty) (x.rdT f.ty (KF.A f) l) (opB f k.wv x l) (x.rdT f.ty (KF.D f) l)))

def execBfi (f : KF) (s : State) : Out := issueCore (.bfi f) s (fun k s => .done (bfiOp f k s))

/-- R99: the result is always a 64-bit address. -/
def leaOp (f : KF) (k : Ctx) (s : State) : State :=
  let sc := fld f.c 2 0
  if KF.uni f then
    onWave k s (fun x => x.wrS (KF.D f) (BitVec.ofNat 64 (iLea sc (partW f.ty) (x.rdS (KF.A f)).toNat (opB f x x 0))))
  else
    onLanes f k s (fun x l a =>
      a.wrD (KF.D f) l (BitVec.ofNat 64 (iLea sc (partW f.ty) (x.rdD (KF.A f) l).toNat (opB f k.wv x l))))

def execLea (f : KF) (s : State) : Out := issueCore (.lea f) s (fun k s => .done (leaOp f k s))

/-- R101. -/
def selOp (f : KF) (k : Ctx) (s : State) : State :=
  onLanes f k s (fun x l a => a.wrT f.ty (KF.D f) l
    (if (x.rdM (fld f.c 2 0)).getLsbD l then x.rdT f.ty (KF.A f) l else opB f k.wv x l))

def execSel (f : KF) (s : State) : Out := issueCore (.sel f) s (fun k s => .done (selOp f k s))

/-- R100. -/
def cmpIntOp (f : KF) (k : Ctx) (s : State) : State :=
  cmpOp f (fun x l => if KF.uni f then sOperand x f.ty (KF.A f) else x.rdT f.ty (KF.A f) l) (fun x l => opB f k.wv x l)
    (fun a b => (iCmp (fld f.c 3 0) (partW f.ty) a b, 0)) k s

def execCmp (f : KF) (s : State) : Out := issueCore (.cmp f) s (fun k s => .done (cmpIntOp f k s))
def execMov (f : KF) (s : State) : Out := issueCore (.mov f) s (fun k s => .done (intOp f (fun _ _ b _ => b) k s))

/-- R102: write the immediate to the active lanes under HX. -/
def onLanesJ (f : JF) (k : Ctx) (s : State) (g : Nat → Wave → Wave) : State :=
  k.each s (fun v x => foldLanes (k.act f.pm f.pn v x) g x)

def execMovi (f : JF) (s : State) : Out :=
  issueCore (.movi f) s (fun k s => .done (onLanesJ f k s (fun l a => a.wrV f.d.toNat l f.imm)))
def execMoviHi (f : JF) (s : State) : Out :=
  issueCore (.moviHi f) s (fun k s => .done (onLanesJ f k s (fun l a => a.wrV (f.d.toNat + 1) l f.imm)))
def execMoviPair (f : JF) (s : State) : Out :=
  issueCore (.moviPair f) s (fun k s => .done (onLanesJ f k s (fun l a => a.wrD f.d.toNat l (f.imm.signExtend 64))))

/-- R103: system value n of element e. -/
def sysValue (k : Ctx) (n e : Nat) : Nat :=
  match n with
  | 0 => e % 32
  | 1 => if k.vec then e / 32 else k.w.wave
  | 2 => k.gangNo
  | 3 => k.w.crew.crew
  | 4 => k.iter e
  | 5 => k.l.niter
  | 6 => k.g.form.toNat
  | 7 => (k.l.dw 4).toNat
  | 8 => k.cluster
  | _ => k.asid

/-- R103: the lane's wave number gives the element in vector form. -/
def movsvOp (f : KF) (k : Ctx) (s : State) : State :=
  let n := match f.b with | .v n => n.toNat | _ => 0
  let w := partW f.ty
  if KF.uni f then onWave k s (fun x => x.wrS (KF.D f) (BitVec.ofNat 64 (sysValue k n 0 % 2 ^ w)))
  else
    k.each s (fun v x => foldLanes (k.act f.pm f.pn v x)
      (fun l a => a.wrT f.ty (KF.D f) l (sysValue k n (if k.vec then 32 * v.wave + l else l) % 2 ^ w)) x)

def execMovsv (f : KF) (s : State) : Out := issueCore (.movsv f) s (fun k s => .done (movsvOp f k s))
def execAdds (f : KF) (s : State) : Out :=
  issueCore (.adds f) s (fun k s => .done (intOp f (iAdds (f.c.getLsbD 0)) k s))
def execSubs (f : KF) (s : State) : Out :=
  issueCore (.subs f) s (fun k s => .done (intOp f (iSubs (f.c.getLsbD 0)) k s))

/-- R104. -/
def dot4Op (f : KF) (k : Ctx) (s : State) : State :=
  onLanes f k s (fun x l a => a.wrV (KF.D f) l (BitVec.ofNat 32
    (iDot4 (KF.xbit f 0) (KF.xbit f 1) (x.rdV (KF.A f) l).toNat (opB f k.wv x l) (x.rdV f.c.toNat l).toNat)))

def execDot4 (f : KF) (s : State) : Out := issueCore (.dot4 f) s (fun k s => .done (dot4Op f k s))

end Sys2Proof.Machine
end

