-- ==== Sys2Proof/Machine/Nodes.lean ====
section
/-! DEFINITION. Firing a node (R288, R289), the node forms of classes 0 to 2 (R89, R116, R138, R308), and every class 12
node (R296, R300 to R307). -/

namespace Sys2Proof.Machine

/-! ### A firing -/

/-- What a firing works with. -/
structure NCtx where
  c : CrewId
  i : Nat
  rd : Ready
  x : Crew
  p : Place
  fr : Frame
  kn : Kernel
  deriving DecidableEq, Repr

/-- What the effect of a node answers: it fires, it waits and is taken up again later, or a record holds its firing. -/
inductive NRes where
  | fire (s : State)
  | wait (s : State)
  | held (s : State)
  deriving Repr

def nctx? (s : State) (f : Firing) : Option NCtx :=
  match s.crew? f.crew, s.kernel? f.crew with
  | some x, some kn =>
    match x.place? f.place with
    | some p => (p.frame? f.ready.cell f.ready.frame).map (fun fr => ⟨f.crew, f.place, f.ready, x, p, fr, kn⟩)
    | none => none
  | _, _ => none

/-- R286, R292, R371: the marks that a firing leaves. -/
def NCtx.fired (k : NCtx) (s : State) : State :=
  let s := s.modPlace k.c k.i (fun p =>
    { p.modFrame k.fr.cell k.fr.no (fun f => { f with fired := min (f.fired + 1) 65535, touched := s.now }) with
      fired := s.now })
  s.modGang (kjGang k.c (tagIter k.fr.tag)) (fun g => { g with fire := sat64 (g.fire + 1) })

/-- The firing as one that has fired and waits since then. -/
def NCtx.late (k : NCtx) (s : State) : Ready := { k.rd with since := some (k.rd.since.getD s.now) }

/-- A node is put back among those that its cell has to fire. -/
def NCtx.again (k : NCtx) (r : Ready) (s : State) : State :=
  s.modPlace k.c k.i (fun p => { p with ready := p.ready ++ [r] })

/-- R406: an effect that would raise a record for which the ring has no room does not happen: its cell holds it. -/
def NCtx.orHold (k : NCtx) (s t u : State) : State :=
  if (s.asid (s.asidOf k.c)).waiting.length < (t.asid (s.asidOf k.c)).waiting.length then k.again k.rd s else u

/-- What follows the effect of a firing. -/
def NRes.ends (k : NCtx) (s : State) : NRes → State
  | .fire t => k.orHold s t (k.fired t)
  | .wait t => k.again (k.late s) t
  | .held t => k.orHold s t t

/-- Run the firing in focus. A firing whose frame has been freed, or is ending (R307), is dropped. -/
def fireNode (s : State) (body : NCtx → State → NRes) : Out :=
  match s.focus with
  | .node f =>
    let s := { s with focus := .none }
    match nctx? s f with
    | some k => if k.fr.ending then .next s else .next ((body k s).ends k s)
    | none => .next s
  | _ => .refused .noFiring

def NCtx.sender (k : NCtx) : Sender := .node k.p.slice k.p.bay k.fr.cell k.p.paddock k.fr.blk k.rd.slot

/-- R288: one token for the same frame to a target, if there is one. -/
def NCtx.send (k : NCtx) (t : Option Tgt) (v : Dword) (err : Bool) (s : State) : State :=
  match t with
  | none => s
  | some t => s.sendFlit k.c (.token
      { sender := k.sender, place := some k.i, paddock := k.p.paddock, cell := k.fr.cell, frame := k.fr.no
        blk := k.fr.blk, slot := t.slot.toNat, port := t.port, err := err, value := v, round := k.fr.round
        relayed := false })

/-- T0 before T1. -/
def NCtx.both (k : NCtx) (t0 t1 : Option Tgt) (v : Dword) (err : Bool) (s : State) : State :=
  k.send t1 v err (k.send t0 v err s)

/-- R289: the code of the left operand when it is an error, else that of the right. -/
def NCtx.err (k : NCtx) : Option Dword := if k.rd.lerr then some k.rd.l else if k.rd.rerr then some k.rd.r else none

/-- R289, every other node: an error goes to each target, and nothing is computed. -/
def NCtx.pass (k : NCtx) (t0 t1 : Option Tgt) (s : State) (body : State → NRes) : NRes :=
  match k.err with
  | some e => .fire (k.both t0 t1 e true s)
  | none => body s

/-- R110: the wave that owns the iteration of a firing. -/
def kjWave (c : CrewId) (kj : Nat) : WaveId := ⟨c, kj / 256, kj % 256 / 32⟩

/-- R110: RM of a round's iteration. -/
def State.roundRm (s : State) (c : CrewId) (x : Crew) (round kj : Nat) : Mode :=
  match x.round? round with
  | some r => modeOfRm r.rm.toNat
  | none => modeOfRm (((s.gang? (kjGang c kj)).map (fun g => g.rm.toNat / 2 ^ (3 * (kj % 256 / 32)) % 8)).getD 0)

/-- R262, R411: what the retire unit does to a wave of a saved crew, `f`, is done to its wave block too: the masks, and the
flags that it adds to FCSR. -/
def State.modSaved (s : State) (w : WaveId) (fl : BitVec 5) (f : Wave → Wave) : State :=
  match s.crew? w.crew, (s.modWave w f).wave? w with
  | some x, some y =>
    if x.saved then
      let b := x.ctxBase.toNat + 0x4A00 + 0x800 * (8 * w.gang + w.wave)
      let s := (s.modWave w f).physWrite (b + 8) (leBytes 4 y.mask.toNat ++ leBytes 4 y.exited.toNat)
      s.physWrite (b + 0x14) (leBytes 4 (s.physLe (b + 0x14) 4 ||| fl.toNat))
    else s.modWave w f
  | _, _ => s.modWave w f

/-- R110, R298: flags are held with the round; those of a round that has committed join the wave's at once. -/
def State.roundFlags (s : State) (c : CrewId) (x : Crew) (round kj : Nat) (fl : Fl) : State :=
  match x.round? round with
  | some r =>
    if r.committed then s.modSaved (kjWave c kj) fl (fun w => w.orFlags fl)
    else s.modRound c round (fun r => { r with flags := r.flags ||| fl })
  | none => s.modSaved (kjWave c kj) fl (fun w => w.orFlags fl)

/-! ### Errors at the retire unit (R289, R298, R319) -/

/-- R135: the threaded address of the last point of an iteration, which an interval record gives. -/
def State.lastPoint (s : State) (c : CrewId) (kj : Nat) : Nat :=
  match s.kernel? c, (s.gang? (kjGang c kj)).bind (fun g => g.ev) with
  | some kn, some n => kn.eqpOffT n
  | _, _ => 0

/-- The record that a handed-over error makes (R319, R355). A format fault is known to the interval (R135). -/
def errRecord (s : State) (c : CrewId) (paddock : Nat) (e : RErr) : RecF :=
  let code := e.code % 2 ^ 32
  let base (kind cause : Nat) : RecF :=
    { s.spatial c kind cause .stops (tagIter e.tag) paddock e.blk e.slot e.site with tag := s.ctxTag c paddock e.tag }
  if code < 2 ^ 16 then
    { base 3 (code / 256 % 256) with aux := code % 256, ivl := true, taddr := s.lastPoint c (tagIter e.tag) }
  else if code / 2 ^ 16 = 1 then { base 2 (code % 256) with va := e.va.toNat % 2 ^ 55 }
  else if code / 2 ^ 16 = 2 then { base 12 (code % 256) with aux := code }
  else base 13 (code % 256)

/-- R135, R319: the retire unit notes, with the token's round, where an error token arises, the address and the site. -/
def State.noteFault (s : State) (c : CrewId) (round : Nat) (e : RErr) : State :=
  s.modRound c round (fun r => { r with faults := r.faults ++ [e] })

/-- An error that this node raises, with no address. -/
def NCtx.raised (k : NCtx) (code : Nat) : RErr := ⟨code, 0, none, k.fr.cell, k.fr.no, k.fr.blk, k.rd.slot, k.fr.tag⟩

def NCtx.note (k : NCtx) (code : Nat) (s : State) : State := s.noteFault k.c k.fr.round (k.raised code)

/-- What the retire unit noted of an error handed over: the notes of one code in the order they were made, one for each
error of that code, the last for any further one (log entry 32). -/
def Round.noted (r : Round) (code : Nat) : Option RErr :=
  let l := r.faults.filter (fun (f : RErr) => f.code == code)
  let n := (r.errors.filter (fun (f : RErr) => f.code == code)).length
  l[n]?.or l.getLast?

/-- Hand an error to the retire unit. A round that has committed already is recorded at once. -/
def NCtx.hand (k : NCtx) (code : Dword) (s : State) : State :=
  let rs := (s.crew? k.c).bind (fun x => x.round? k.fr.round)
  let n := code.toNat % 2 ^ 32
  let e : RErr := (rs.bind (fun (r : Round) => r.noted n)).getD (k.raised n)
  match rs with
  | some r =>
    if r.committed then (s.raise (s.asidOf k.c) (errRecord s k.c k.p.paddock e)).1
    else s.modRound k.c k.fr.round (fun r => { r with errors := r.errors ++ [e] })
  | none => (s.raise (s.asidOf k.c) (errRecord s k.c k.p.paddock e)).1

/-- R298: the round ends, at a SINK (`none`) or at an EQPN. -/
def NCtx.endRound (k : NCtx) (at_ : Option Nat) (s : State) : State :=
  s.modRound k.c k.fr.round (fun r => if r.open_ then { r with open_ := false, eqpn := at_ } else r)

/-- R289: LENTER, LNEXT, LEXIT, CALLN, RETN, EQPN and FEND on an error: the round ends there, and nothing else happens. -/
def NCtx.orEnd (k : NCtx) (s : State) (body : State → NRes) : NRes :=
  match k.err with
  | some e => .fire (k.endRound none (k.hand e s))
  | none => body s

/-! ### Classes 0 to 2 (R89, R116, R138, R308) -/

/-- The per-part function of a class 0 node; `m` is MOD[26:20]. -/
def nodeInt (op m : Nat) : Nat → Nat → Nat → Nat → Nat :=
  match op with
  | 0x00 => iAdd
  | 0x01 => iSub
  | 0x04 => iMullo
  | 0x05 => iMulhi
  | 0x06 => iMulhn
  | 0x08 => iDiv
  | 0x09 => iDivn
  | 0x0A => iRem
  | 0x0B => iRemn
  | 0x0C => iMin
  | 0x0D => iMax
  | 0x0E => iMinn
  | 0x0F => iMaxn
  | 0x10 => iAbs
  | 0x11 => iNeg
  | 0x12 => iAnd
  | 0x13 => iOr
  | 0x14 => iXor
  | 0x15 => iAndn
  | 0x16 => iNot
  | 0x17 => iShl
  | 0x18 => iShr
  | 0x19 => iSar
  | 0x1A => iRol
  | 0x1B => iClz
  | 0x1C => iPopc
  | 0x1D => iBrev
  | 0x1E => iBfx (m % 2 == 1)
  | 0x26 => iAdds (m % 2 == 1)
  | 0x27 => iSubs (m % 2 == 1)
  | _ => fun _ a _ _ => a

/-- A class 0 node: R70 keeps the widths. -/
def nafInt (n : NAF) (a b : Nat) : Nat :=
  let m := fld n.mod 26 20
  let w := partW n.ty
  match n.op.toNat with
  | 0x20 => iLea m w a (b % 2 ^ w)
  | 0x22 => if iCmp m w (a % 2 ^ w) (b % 2 ^ w) then 1 else 0
  | o => perPart n.ty (nodeInt o m) a b 0

/-- A class 1 node under a mode (R116 to R121). -/
def nafFloat (n : NAF) (mode : Mode) (a b : Nat) : Nat × Fl :=
  let t := nat? n.ty
  let w := if n.ty == 1 then 64 else 32
  let fa (v : Nat) : Nat := applyMods t (v % 2 ^ w) (n.mod.getLsbD 20) (n.mod.getLsbD 22)
  let fb (v : Nat) : Nat := applyMods t (v % 2 ^ w) (n.mod.getLsbD 21) (n.mod.getLsbD 23)
  let c := fld n.mod 29 27
  match n.op.toNat with
  | 0x00 => gAdd t mode (fa a) (fb b)
  | 0x01 => gSub t mode (fa a) (fb b)
  | 0x02 => gMul t mode (fa a) (fb b)
  | 0x04 => gMinMax t false (fa a) (fb b)
  | 0x05 => gMinMax t true (fa a) (fb b)
  | 0x06 => let r := gCmp t c (fa a) (fb b); (if r.1 then 1 else 0, r.2)
  | 0x07 => gDiv t mode (fa a) (fb b)
  | 0x08 => gSqrt t mode (fa a)
  | 0x09 => gRcp t (fa a)
  | 0x0A => gRsq t (fa a)
  | 0x0B => gEx2 t (fa a)
  | 0x0C => gLg2 t (fa a)
  | 0x0D => (gClass t (a % 2 ^ w), 0)
  | 0x0E => gCvti t mode c (fa a)
  | 0x0F => gIcvt t mode c (a % 2 ^ itW c)
  | 0x10 =>
    let src := if n.ty == 1 then f32 else f64
    let v := applyMods src a (n.mod.getLsbD 20) (n.mod.getLsbD 22)
    gCvtw src t mode v
  | 0x11 => gRnd t mode (c % 2 == 1) (fa a)
  | _ => gScl t mode (fa a) (sgn 32 (b % 2 ^ 32))

/-- The immediate of a node of classes 0 and 1 (R87, R115; log entry 127); that of an LEA at TY 00 is its 32-bit pattern (log
entry 145). -/
def nafImm (n : NAF) : Nat :=
  let i : BitVec 20 := n.mod.extractLsb' 0 20
  if n.cls == 0 then immOperand n.ty i else if n.op == 0x12 then wrap 32 i.toInt else immFloat n.ty i

/-- A class 2 node: its result, or the code of its format fault (R135, R319). -/
def nafFmt (n : NAF) (x : Crew) (mode : Mode) (a b : Nat) : Except Nat (Nat × Fl) :=
  let fd : BitVec 6 := n.mod.extractLsb' 24 6
  let fs : BitVec 6 := n.mod.extractLsb' 18 6
  let ps := fld n.mod 14 13
  let pd := fld n.mod 12 11
  let ws := x.fmtEntry fs.toNat
  let wd := x.fmtEntry fd.toNat
  match firstErr [fmtInvalid x fs, fmtInvalid x fd, partLimit x fs ps, partLimit x fd pd] with
  | some e => .error (e.cause * 256 + e.entry)
  | none =>
    let cv : Conv := if n.op == 2 then .cvt else if n.op == 3 then .sclq else .scld
    let r := convert cv wd ws mode (fmtPart ws ps a) b
    if r.fault then .error (4 * 256 + fd.toNat) else .ok (putPart wd pd r.pat 0, r.fl)

/-- R110: the RM field of a node, DYN from the round. -/
def NCtx.mode (k : NCtx) (s : State) (rm : Nat) : Mode :=
  if rm = 0 then s.roundRm k.c k.x k.fr.round (tagIter k.fr.tag) else modeOfRm (rm - 1)

/-- The result of a node of classes 0 to 2: a value with its flags, or an error code. -/
def nafValue (n : NAF) (k : NCtx) (s : State) : Except Nat (Nat × Fl) :=
  let l := k.rd.l.toNat
  let r := if n.im then nafImm n else k.rd.r.toNat
  let a := if n.sw then r else l
  let b := if n.sw then l else r
  if n.cls == 0 then .ok (nafInt n a b, 0)
  else if n.cls == 1 then .ok (nafFloat n (k.mode s (fld n.mod 26 24)) a b)
  else nafFmt n k.x (k.mode s (fld n.mod 17 15)) a b

def nafOp (n : NAF) (k : NCtx) (s : State) : NRes :=
  k.pass n.t0 n.t1 s (fun s =>
    match nafValue n k s with
    | .ok r => .fire (k.both n.t0 n.t1 (BitVec.ofNat 64 r.1) false
        (s.roundFlags k.c k.x k.fr.round (tagIter k.fr.tag) r.2))
    | .error e => .fire (k.both n.t0 n.t1 (BitVec.ofNat 64 e) true (k.note e s)))

def execArithNodeFire (n : NAF) (s : State) : Out := fireNode s (nafOp n)

/-! ### Routing and constants (R302, R303, R304) -/

def steerOp (n : NDF) (k : NCtx) (s : State) : NRes :=
  k.pass n.t0 n.t1 s (fun s => .fire (k.send (if k.rd.r != 0 then n.t0 else n.t1) k.rd.l false s))

def execSteer (n : NDF) (s : State) : Out := fireNode s (steerOp n)

/-- A node that sends one value to both targets. -/
def plainOp (n : NDF) (v : NCtx → State → Dword) (k : NCtx) (s : State) : NRes :=
  k.pass n.t0 n.t1 s (fun s => .fire (k.both n.t0 n.t1 (v k s) false s))

def execGate (n : NDF) (s : State) : Out := fireNode s (plainOp n (fun k _ => k.rd.l))

def errtOp (n : NDF) (k : NCtx) (s : State) : NRes :=
  .fire (if k.rd.lerr then k.send n.t1 k.rd.l false s else k.send n.t0 k.rd.l false s)

def execErrt (n : NDF) (s : State) : Out := fireNode s (errtOp n)

def constVal (n : NDF) : Dword :=
  match n.w.toNat with
  | 0 => n.imm.signExtend 64
  | 1 => n.imm.setWidth 64 <<< 8
  | _ => n.imm.setWidth 64 <<< 40

def execConst (n : NDF) (s : State) : Out := fireNode s (plainOp n (fun _ _ => constVal n))

def ixrdVal (n : NDF) (k : NCtx) (s : State) : Dword :=
  BitVec.ofNat 64 (if n.imm.getLsbD 6 then s.iterOf k.c (tagIter k.fr.tag)
    else tagFields k.fr.tag / 2 ^ fld n.imm 5 0 % 2 ^ n.w.toNat)

def execIxrd (n : NDF) (s : State) : Out := fireNode s (plainOp n (ixrdVal n))

/-- R304: the count, or the least error code, has been formed at arrival. -/
def execJoinc (n : NDF) (s : State) : Out := fireNode s (plainOp n (fun k _ => k.rd.l))

/-! ### Activations as the weir learns of them (R312) -/

def State.modChain (s : State) (c : CrewId) (paddock : Nat) (f : Chain → Chain) : State :=
  s.modCrew c (fun x => { x with chains := x.chains.map (fun ch => if ch.paddock == paddock then f ch else ch) })

def Chain.act? (ch : Chain) (round blk : Nat) (tag : Dword) : Option Act :=
  ch.acts.find? (fun a => a.round == round && a.blk == blk && a.tag == tag)

/-- A new activation of a chained paddock; one below an activation that the weir no longer knows is not noted. -/
def State.newAct (s : State) (c : CrewId) (paddock round blk : Nat) (tag : Dword) (parent : Option Nat) (loop : Bool) :
    State :=
  match s.crew? c with
  | some x =>
    if x.chains.any (fun ch => ch.paddock == paddock) then
      let n := s.newId c
      n.2.modChain c paddock (fun ch => { ch with acts := ch.acts ++ [⟨n.1, round, blk, tag, parent, loop, false, false⟩] })
    else s
  | none => s

def State.childAct (s : State) (c : CrewId) (paddock round blk : Nat) (tag : Dword) (parent : Option Act) (loop : Bool) :
    State :=
  match parent with
  | some a => s.newAct c paddock round blk tag (some a.id) loop
  | none => s

/-- The activation of a frame. -/
def State.actOf (s : State) (c : CrewId) (paddock round blk : Nat) (tag : Dword) : Option Act :=
  (s.crew? c).bind (fun x => (x.chains.find? (fun ch => ch.paddock == paddock)).bind (fun ch => ch.act? round blk tag))

def State.modAct (s : State) (c : CrewId) (paddock round blk : Nat) (tag : Dword) (f : Act → Act) : State :=
  s.modChain c paddock (fun ch => { ch with
    acts := ch.acts.map (fun a => if a.round == round && a.blk == blk && a.tag == tag then f a else a) })

/-! ### Entries (R291, R296) -/

def Flit.entryFor (f : Flit) (i blk : Nat) (tag : Dword) : Bool :=
  match f with
  | .entry e => e.place == some i && e.blk == blk && e.tag == tag
  | _ => false

/-- A frame with the key exists or is on its way. -/
def State.keyKnown (s : State) (c : CrewId) (i blk : Nat) (tag : Dword) : Bool :=
  match s.crew? c with
  | some x => match x.place? i with
    | some p => (p.key? blk tag).isSome || x.flight.any (fun f => f.entryFor i blk tag)
        || x.parks.any (fun k => k.flit.entryFor i blk tag)
    | none => false
  | none => false

/-- Change a loop record of a frame. -/
def State.modLoop (s : State) (c : CrewId) (i : Nat) (fr : Nat × Nat) (e : Bool) (g : BitVec 32 → BitVec 32) : State :=
  s.modPlace c i (fun p => p.modFrame fr.1 fr.2 (fun f => f.setLoop e (g (f.loop e))))

def State.frameAt (s : State) (c : CrewId) (i : Nat) (fr : Nat × Nat) : Option Frame :=
  ((s.crew? c).bind (fun x => x.place? i)).bind (fun p => p.frame? fr.1 fr.2)

/-- The parts of IMM24 that name another frame (R300). -/
def ndDest (n : NDF) : Nat := fld n.imm 15 9
def ndPort (n : NDF) : Bool := n.imm.getLsbD 8
def ndBlk (n : NDF) : Nat := fld n.imm 18 16
def ndE (n : NDF) : Bool := n.imm.getLsbD 19

/-- An entry from a node. -/
def NCtx.ent (k : NCtx) (n : NDF) (blk : Nat) (tag : Dword) (slot : Nat) (how : Entry) : Ent :=
  { sender := k.sender, place := some k.i, paddock := k.p.paddock, blk := blk, tag := tag, slot := slot, port := ndPort n
    err := false, value := k.rd.l, round := k.fr.round, how := how, start := false, relayed := false }

def NCtx.enter (k : NCtx) (n : NDF) (blk : Nat) (tag : Dword) (slot : Nat) (how : Entry) (s : State) : State :=
  s.sendFlit k.c (.entry (k.ent n blk tag slot how))

/-- R297: a fault of a firing. -/
def NCtx.fault (k : NCtx) (cause : Nat) (s : State) : State :=
  s.nodeFault k.c k.p cause k.fr.tag k.fr.blk k.rd.slot none

/-! ### LENTER, LNEXT, LEXIT (R296, R305) -/

def lenterOp (n : NDF) (k : NCtx) (s : State) : NRes :=
  k.orEnd s (fun s =>
    let e := ndE n
    let r := k.fr.loop e
    if loopAct r && loopXd r then .wait s
    else match tagPush k.fr.tag n.w.toNat 0 with
      | none => .fire (k.fault 1 s)
      | some t =>
        let r := if loopAct r then r else loopMk true false n.w.toNat (fld n.imm 7 0) 0 false
        let isNew := !s.keyKnown k.c k.i (ndBlk n) t
        let r := if isNew then loopSet r (loopXd r) (loopInfl r + 1) (loopHeld r) else r
        let me := s.actOf k.c k.p.paddock k.fr.round k.fr.blk k.fr.tag
        let s := s.modLoop k.c k.i (k.fr.cell, k.fr.no) e (fun _ => r)
        let s := k.enter n (ndBlk n) t (ndDest n) ⟨if e then 2 else 1, some (k.fr.cell, k.fr.no), 0⟩ s
        let s := if isNew then s.childAct k.c k.p.paddock k.fr.round (ndBlk n) t me true else s
        .fire (k.both n.t0 n.t1 k.rd.l false s))

def execLenter (n : NDF) (s : State) : Out := fireNode s (lenterOp n)

/-- The tag of the next iteration. -/
def nextTag (t : Dword) (w : Nat) : Dword :=
  let f := tagFields t
  tagMk (tagDb t) (f / 2 ^ w * 2 ^ w + (f % 2 ^ w + 1) % 2 ^ w)

/-- Start an iteration of a loop of a parent: its frame counts when its key is new. -/
def State.startIter (s : State) (c : CrewId) (i : Nat) (parent : Nat × Nat) (e : Bool) (f : Ent) : State :=
  if s.keyKnown c i f.blk f.tag then s.sendFlit c (.entry f)
  else
    let up := (s.frameAt c i parent).bind (fun p => s.actOf c f.paddock f.round p.blk p.tag)
    let s := s.modLoop c i parent e (fun r => loopSet r (loopXd r) (loopInfl r + 1) (loopHeld r))
    (s.sendFlit c (.entry f)).childAct c f.paddock f.round f.blk f.tag up true

def lnextOp (n : NDF) (k : NCtx) (s : State) : NRes :=
  k.orEnd s (fun s =>
    let own (s : State) : NRes := .fire (k.both n.t0 n.t1 k.rd.l false s)
    match k.fr.how.parent with
    | none => own s
    | some up =>
      match s.frameAt k.c k.i up with
      | none => own s
      | some pf =>
        let e := ndE n
        let r := pf.loop e
        let t := nextTag k.fr.tag n.w.toNat
        let f : Ent := k.ent n k.fr.blk t (ndDest n) ⟨if e then 2 else 1, some up, 0⟩
        if s.keyKnown k.c k.i k.fr.blk t || loopInfl r < loopRein r then own (s.startIter k.c k.i up e f)
        else
          let s := s.modLoop k.c k.i up e (fun r => loopSet r (loopXd r) (loopInfl r) true)
          let full := match s.crew? k.c with
            | some x => match x.place? k.i with
              | some p => !bwRoom x k.i p 32
              | none => false
            | none => false
          let s := if full then s.bwRaise k.c k.i (.hold f) k.c k.i k.p k.fr.tag k.p.paddock k.fr.blk k.rd.slot else s
          own (s.modCrew k.c (fun x => { x with heldStarts := x.heldStarts ++ [⟨k.i, up, e, f⟩] })))

def execLnext (n : NDF) (s : State) : Out := fireNode s (lnextOp n)

def lexitOp (n : NDF) (k : NCtx) (s : State) : NRes :=
  k.orEnd s (fun s =>
    let own (s : State) : NRes := .fire (k.both n.t0 n.t1 k.rd.l false s)
    match k.fr.how.parent with
    | none => own s
    | some up =>
      match s.frameAt k.c k.i up with
      | none => own s
      | some pf =>
        let s := s.modLoop k.c k.i up (ndE n) (fun r => loopSet r true (loopInfl r) (loopHeld r))
        let s := s.modAct k.c k.p.paddock k.fr.round k.fr.blk k.fr.tag (fun a => { a with lexit := true })
        own (k.enter n pf.blk (tagPop k.fr.tag n.w.toNat) (ndDest n) ⟨0, none, 0⟩ s))

def execLexit (n : NDF) (s : State) : Out := fireNode s (lexitOp n)

/-! ### CALLN and RETN (R306) -/

def callnOp (n : NDF) (k : NCtx) (s : State) : NRes :=
  k.orEnd s (fun s =>
    match tagPush k.fr.tag n.w.toNat (fld n.imm 23 19) with
    | none => .fire (k.fault 1 s)
    | some t =>
      let isNew := !s.keyKnown k.c k.i (ndBlk n) t
      let me := s.actOf k.c k.p.paddock k.fr.round k.fr.blk k.fr.tag
      let s := k.enter n (ndBlk n) t (ndDest n) ⟨3, some (k.fr.cell, k.fr.no), fld n.imm 6 0⟩ s
      let s := if isNew then s.childAct k.c k.p.paddock k.fr.round (ndBlk n) t me false else s
      .fire (k.both n.t0 n.t1 k.rd.l false s))

def execCalln (n : NDF) (s : State) : Out := fireNode s (callnOp n)

def retnOp (n : NDF) (k : NCtx) (s : State) : NRes :=
  k.orEnd s (fun s =>
    match k.fr.how.parent with
    | none => .fire s
    | some up =>
      match s.frameAt k.c k.i up with
      | none => .fire s
      | some pf =>
        let slot := k.fr.how.rslot + ndDest n
        if k.kn.blockSize k.p.paddock pf.blk ≤ slot then .fire (k.fault 5 s)
        else .fire (k.enter n pf.blk (tagPop k.fr.tag n.w.toNat) slot ⟨0, none, 0⟩ s))

def execRetn (n : NDF) (s : State) : Out := fireNode s (retnOp n)

/-! ### SINK, SENDP, EQPN (R307, R278) -/

def sinkOp (n : NDF) (k : NCtx) (s : State) : NRes :=
  let s := match k.err with
    | some e => k.hand e s
    | none => s
  .fire (k.both n.t0 n.t1 k.rd.l k.rd.lerr (k.endRound none s))

def execSink (n : NDF) (s : State) : Out := fireNode s (sinkOp n)

/-- A result of a round waits for its commit; one of a committed round goes on at once (R278, R298). -/
def NCtx.result (k : NCtx) (port : Nat) (s : State) : State :=
  let r : Result := ⟨k.p.paddock, port, tagIter k.fr.tag, k.rd.l⟩
  match (s.crew? k.c).bind (fun x => x.round? k.fr.round) with
  | some y =>
    if y.committed then s.modCrew k.c (fun x => { x with results := x.results ++ [r] })
    else s.modRound k.c k.fr.round (fun y => { y with results := y.results ++ [r] })
  | none => s.modCrew k.c (fun x => { x with results := x.results ++ [r] })

/-- R265, R371: the routers that a result crosses on its way to the slice port. -/
def NCtx.resultHops (k : NCtx) (s : State) : State :=
  let n := bayHops k.p.bay 0 + (if k.p.slice == k.x.cluster then 0 else 1)
  s.modGang (kjGang k.c (tagIter k.fr.tag)) (fun g => { g with hop := sat64 (g.hop + n) })

def sendpOp (n : NDF) (k : NCtx) (s : State) : NRes :=
  let s := match k.err with
    | some e => k.hand e s
    | none => k.resultHops (k.result (fld n.imm 2 0) s)
  .fire (k.both n.t0 n.t1 k.rd.l k.rd.lerr s)

def execSendp (n : NDF) (s : State) : Out := fireNode s (sendpOp n)

/-- R307, R368: a start token only passes; any other ends the round at the point. -/
def eqpnOp (n : NDF) (k : NCtx) (s : State) : NRes :=
  k.orEnd s (fun s =>
    let s := if k.rd.entry then s else k.endRound (some (fld n.imm 11 0)) s
    .fire (k.both n.t0 n.t1 k.rd.l false s))

def execEqpn (n : NDF) (s : State) : Out := fireNode s (eqpnOp n)

/-! ### FEND (R296, R307) -/

/-- R296: admit held starts of a loop of a parent, oldest first, while its rein allows. -/
def admitHeld (c : CrewId) (i : Nat) (parent : Nat × Nat) (e : Bool) : List Held → State → State
  | [], s => s
  | h :: t, s =>
    let s :=
      if h.place == i && h.parent == parent && h.e == e then
        let known := s.keyKnown c i h.ent.blk h.ent.tag
        let room := match s.frameAt c i parent with
          | some f => loopInfl (f.loop e) < loopRein (f.loop e)
          | none => false
        if known || room then
          ((s.modCrew c (fun x => { x with heldStarts := x.heldStarts.erase h })).modPlace c i (fun p => { p with
            bwFull := p.bwFull.filter (fun w => w.op != .hold h.ent) })).startIter c i parent e h.ent
        else s
      else s
    admitHeld c i parent e t s

/-- Whether starts of the loop are still held. -/
def State.anyHeld (s : State) (c : CrewId) (i : Nat) (parent : Nat × Nat) (e : Bool) : Bool :=
  match s.crew? c with
  | some x => x.heldStarts.any (fun h => h.place == i && h.parent == parent && h.e == e)
  | none => false

/-- R296: an iteration frame of a loop has ended. -/
def loopEnded (c : CrewId) (i : Nat) (parent : Nat × Nat) (e : Bool) (s : State) : State :=
  let s := s.modLoop c i parent e (fun r => loopSet r (loopXd r) (loopInfl r - 1) (loopHeld r))
  let s := admitHeld c i parent e (((s.crew? c).map (fun x => x.heldStarts)).getD []) s
  let held := s.anyHeld c i parent e
  s.modLoop c i parent e (fun r =>
    let r := loopSet r (loopXd r) (loopInfl r) held
    if loopXd r && loopInfl r == 0 && !held then r &&& 0x7FFFFFFF else r)

def Frame.idle (f : Frame) : Bool := !loopAct f.loop0 && !loopAct f.loop1

/-- Free a frame; a parent that was ending and is idle now is freed in turn. -/
def freeFrame (c : CrewId) (i : Nat) : Nat → Nat × Nat → State → State
  | 0, _, s => s
  | n + 1, fr, s =>
    match s.frameAt c i fr with
    | none => s
    | some f =>
      let paddock := (((s.crew? c).bind (fun x => x.place? i)).map (fun p => p.paddock)).getD 0
      let s := s.modPlace c i (fun p => { p with
        frames := p.frames.filter (fun g => !(g.cell == fr.1 && g.no == fr.2))
        ready := p.ready.filter (fun r => !(r.cell == fr.1 && r.frame == fr.2)) })
      let s := s.modAct c paddock f.round f.blk f.tag (fun a => { a with freed := true })
      match f.how.parent with
      | some up =>
        if f.how.kind == 1 || f.how.kind == 2 then
          let s := loopEnded c i up (f.how.kind == 2) s
          match s.frameAt c i up with
          | some g => if g.ending && g.idle then freeFrame c i n up s else s
          | none => s
        else s
      | none => s

def fendOp (k : NCtx) (s : State) : NRes :=
  k.orEnd s (fun s =>
    if k.fr.idle then .fire (freeFrame k.c k.i 58 (k.fr.cell, k.fr.no) s)
    else .fire (s.modPlace k.c k.i (fun p => p.modFrame k.fr.cell k.fr.no (fun f => { f with ending := true }))))

def execFend (n : NDF) (s : State) : Out := fireNode s (fun k s => let _ := n; fendOp k s)

end Sys2Proof.Machine
end

