-- ==== Sys2Proof/Machine/Weir.lean ====
section
/-! DEFINITION. Class 13: node accesses (R310, R326, R327), the free class (R320, R321), the weir and its cursor (R311 to
R319), and the steps by which accesses arrive at the weir and the cursor passes them. -/

namespace Sys2Proof.Machine

/-! ### A node access (R310, R317, R327) -/

/-- What an access of a node meets: an address that R327 refuses (its error code), a cause of translation, a home that does
not answer, an uncorrectable error, or its location. -/
inductive NAcc where
  | addr (code : Nat)
  | xlat (cause : Nat)
  | silent
  | ecc
  | at (l : Loc)
  deriving DecidableEq, Repr

/-- R327: the error code of an address. -/
def addrCode (a n : Nat) : Option Nat :=
  if 2 ^ 55 ≤ a then some 0x00010002 else if a % n != 0 then some 0x00010001 else none

/-- Translate an access of `n` bytes. -/
def State.nodeXlat (s : State) (asid a n : Nat) (u : Use) : State × Except NAcc Loc :=
  match addrCode a n with
  | some c => (s, .error (.addr c))
  | none =>
    match s.xlatTile asid a u with
    | (s, .error c) => (s, .error (.xlat c))
    | (s, .ok t) => (s, .ok (t.loc a))

/-- What a home channel answers for the bytes `pick` names of `n` from a location. -/
def State.nodeAnswer (s : State) (l : Loc) (n : Nat) (pick : Nat → Bool) : NAcc :=
  if !s.answers l then .silent
  else if !l.rmt && (List.range n).any (fun i => pick i && s.eccHbm (l.pa + i) 1) then .ecc
  else .at l

/-- Find where an access of `n` bytes is performed. -/
def State.nodeFind (s : State) (asid a n : Nat) (u : Use) : State × NAcc :=
  match s.nodeXlat asid a n u with
  | (s, .error x) => (s, x)
  | (s, .ok l) => (s, s.nodeAnswer l n (fun _ => true))

/-- The cause for which the access parks, and the error code of any other outcome. -/
def NAcc.parks : NAcc → Option Nat
  | .xlat c => if causeRecoverable c then some c else none
  | .silent => some 9
  | _ => none

def NAcc.code : NAcc → Nat
  | .addr c => c
  | .xlat c => 0x00010000 + c
  | .silent => 0x00010009
  | .ecc => 0x0001000A
  | .at _ => 0

/-- R327: the value of a load. -/
def nodeLoadVal (size : Nat) (sx : Bool) (v : Nat) : Nat :=
  if sx && size ≤ 2 then wrap 32 (sgn (8 * 2 ^ size) v) else v

/-- R391, R392: a store of a crew's spatial work at its home channel, through the slice port of `slice`. Through that of the
crew's own cluster `cl` it comes after what the cluster has stored there, and writes the line that L1 holds; through another
it comes after what a release of the crew has covered (R387, R395). -/
def State.nodeStore (s : State) (cl slice : Nat) (l : Loc) (bs : List Byte) : State :=
  let s := s.countRemote slice l
  if slice == cl then ((s.performRange cl l bs.length).l1Store cl l bs).homeWrite l bs
  else ((s.crewSees cl l bs.length).homeWrite l bs).pastL1 cl

/-- R387: a load of a crew's spatial work at its home channel, through the slice port of `slice`. -/
def State.nodeLoad (s : State) (cl slice : Nat) (l : Loc) (n : Nat) : List Byte × State :=
  let s := (s.countRemote slice l).crewSees cl l n
  (s.homeRead l n, s)

/-- R371: one sector of a node access. -/
def State.countMem (s : State) (c : CrewId) (kj n : Nat) : State :=
  s.modGang (kjGang c kj) (fun g => { g with memtx := sat64 (g.memtx + n) })

/-- R317, R319: a record of kind MEMORY about an access of a node. -/
def nodeMemRecord (s : State) (c : CrewId) (paddock blk slot : Nat) (tag : Dword) (site : Option Nat) (cause va : Nat)
    (st : RStatus) : RecF :=
  { s.spatial c 2 cause st (tagIter tag) paddock blk slot site with
    va := va % 2 ^ 55, tag := s.ctxTag c paddock tag }

/-! ### The free class (R320, R321) -/

/-- A free access: it performs when it fires, sends an error token, or parks its firing. -/
def freeAccess (n : NMF) (u : Use) (k : NCtx) (s : State) (body : State → Loc → State) : NRes :=
  k.pass n.t0 none s (fun s =>
    let a := k.rd.l.toNat
    let r := s.nodeFind (s.asidOf k.c) a (2 ^ n.size.toNat) u
    match r.2 with
    | .at l => .fire (body (r.1.countMem k.c (tagIter k.fr.tag) 1) l)
    | x =>
      match x.parks with
      | some cause =>
        let q := r.1.raise (r.1.asidOf k.c)
          (nodeMemRecord r.1 k.c k.p.paddock k.fr.blk k.rd.slot k.fr.tag (some n.site.toNat) cause a .resumable)
        .held (q.1.modPlace k.c k.i (fun p => { p with parked := p.parked ++ [(q.2, k.late s)] }))
      | none =>
        let e : RErr := ⟨x.code, k.rd.l, some n.site.toNat, k.fr.cell, k.fr.no, k.fr.blk, k.rd.slot, k.fr.tag⟩
        .fire (k.send n.t0 (BitVec.ofNat 64 x.code) true (r.1.noteFault k.c k.fr.round e)))

def fldOp (n : NMF) (k : NCtx) (s : State) : NRes :=
  freeAccess n useLoad k s (fun s l =>
    let r := s.nodeLoad k.x.cluster k.p.slice l (2 ^ n.size.toNat)
    k.send n.t0 (BitVec.ofNat 64 (nodeLoadVal n.size.toNat n.sx (leNat r.1))) false r.2)

def execFld (n : NMF) (s : State) : Out := fireNode s (fldOp n)

def fstOp (n : NMF) (k : NCtx) (s : State) : NRes :=
  freeAccess n useStore k s (fun s l =>
    k.send n.t0 k.rd.r false (s.nodeStore k.x.cluster k.p.slice l (leBytes (2 ^ n.size.toNat) k.rd.r.toNat)))

def execFst (n : NMF) (s : State) : Out := fireNode s (fstOp n)

/-- R321: a firing of a free access that fired before step `t` and has not performed. -/
def NCtx.freeBefore (k : NCtx) (t : Nat) (r : Ready) : Bool :=
  (match r.since with | some u => u < t | none => false) &&
    (match k.kn.node? k.p.paddock r.blk r.slot with
      | some (.fld _) | some (.fst _) => true
      | _ => false)

/-- R321: every free access performs as it fires, but for those that a recoverable fault has parked; what is left to wait
for are the parked firings, and the released ones that have still to perform. -/
def cfenceOp (n : NMF) (k : NCtx) (s : State) : NRes :=
  k.pass n.t0 none s (fun s =>
    let t := k.rd.since.getD s.now
    if (k.p.parked.map Prod.snd ++ k.p.ready).any (k.freeBefore t) then .wait s
    else .fire (k.send n.t0 k.rd.l false s))

def execCfence (n : NMF) (s : State) : Out := fireNode s (cfenceOp n)

/-! ### Chained nodes fire (R314, R315) -/

/-- The access of a chained node leaves its cell. An error operand is sent on at once, and the access only fills its
position (R289). -/
def chainOp (n : NMF) (kind : AKind) (k : NCtx) (s : State) : NRes :=
  let id := ((s.actOf k.c k.p.paddock k.fr.round k.fr.blk k.fr.tag).map (fun a => a.id)).getD 0
  let e : WEntry :=
    { act := id, kind := if k.err.isSome then .mnop else kind, seq := n.seq.toNat, pred := n.pred.toNat
      succ := n.succ.toNat, site := n.site.toNat, addr := k.rd.l, size := n.size.toNat, sx := n.sx, aop := n.aop.toNat
      data := k.rd.r, errCode := none, parked := none, released := false, stopped := false, quiet := k.err.isSome
      round := k.fr.round, tag := k.fr.tag, place := k.i, cell := k.fr.cell, frame := k.fr.no, blk := k.fr.blk, slot := k.rd.slot }
  let s := match k.err with
    | some c => k.send n.t0 c true s
    | none => s
  .fire (s.modCrew k.c (fun x => { x with transit := x.transit ++ [⟨k.p.paddock, e⟩] }))

def execCld (n : NMF) (s : State) : Out := fireNode s (chainOp n .cld)
def execCst (n : NMF) (s : State) : Out := fireNode s (chainOp n .cst)
def execCatom (n : NMF) (s : State) : Out := fireNode s (chainOp n .catom)
def execMnop (n : NMF) (s : State) : Out := fireNode s (chainOp n .mnop)

/-! ### The weir: replies and records -/

/-- A token from the slice port to the target of the node that made an access. -/
def State.reply (s : State) (c : CrewId) (paddock : Nat) (e : WEntry) (v : Dword) (err : Bool) : State :=
  match ((s.kernel? c).bind (fun kn => kn.node? paddock e.blk e.slot)).bind (fun i => (nodeTargets i).1) with
  | some t => s.sendFlit c (.token
      { sender := .port, place := some e.place, paddock := paddock, cell := e.cell, frame := e.frame, blk := e.blk
        slot := t.slot.toNat, port := t.port, err := err, value := v, round := e.round, relayed := false })
  | none => s

def State.modEntry (s : State) (c : CrewId) (paddock : Nat) (e : WEntry) (f : WEntry → WEntry) : State :=
  s.modChain c paddock (fun ch => { ch with entries := ch.entries.map (fun x => if x == e then f x else x) })

/-- The chain of an exited paddock gives its slot back once it holds no entry (R313). -/
def Crew.unbind (x : Crew) (pad : Nat) : Crew :=
  { x with chains := x.chains.filter (fun ch => ch.paddock != pad || !ch.entries.isEmpty) }

/-- An access leaves the weir; its slot is free once the chain of an exited paddock holds no entry any more. -/
def State.dropEntry (s : State) (c : CrewId) (paddock : Nat) (e : WEntry) : State :=
  (s.modChain c paddock (fun ch => { ch with entries := ch.entries.erase e })).modCrew c (fun x =>
    if x.exits.contains paddock then x.unbind paddock else x)

def WEntry.record (e : WEntry) (s : State) (c : CrewId) (paddock cause : Nat) (st : RStatus) : RecF :=
  nodeMemRecord s c paddock e.blk e.slot e.tag (some e.site) cause e.addr.toNat st

/-- R317: park an access that holds an entry. -/
def State.parkEntry (s : State) (c : CrewId) (paddock : Nat) (e : WEntry) (cause : Nat) : State :=
  let q := s.raise (s.asidOf c) (e.record s c paddock cause .resumable)
  q.1.modEntry c paddock e (fun x => { x with parked := some q.2 })

/-- R317: a cause found when an access performs that cannot be resolved. -/
def State.stopEntry (s : State) (c : CrewId) (paddock : Nat) (e : WEntry) (cause : Nat) : State :=
  (s.raise (s.asidOf c) (e.record s c paddock cause .stops)).1

/-- What an access asks of its page. -/
def WEntry.use (e : WEntry) : Use :=
  match e.kind with
  | .cst => useStore
  | .catom => useStore
  | _ => useLoad

def WEntry.sz (e : WEntry) : Nat := 2 ^ e.size

/-- WEIR_ARRIVE (R315, R317): the k-th access on its way takes its entry. A and D bits are set when it performs. -/
def execWeirArrive (c : CrewId) (k : Nat) (s : State) : Out :=
  match s.crew? c with
  | none => .refused (.notEnabled "no such crew")
  | some x =>
    match x.transit[k]? with
    | none => .refused (.notEnabled "no such access")
    | some t =>
      s.unlessFull (s.asidOf c) <|
      let s := s.modCrew c (fun x => { x with transit := x.transit.eraseIdx k })
      match x.chains.find? (fun ch => ch.paddock == t.paddock) with
      | none => .next s
      | some ch =>
        let e := t.entry
        if ch.depth ≤ ch.entries.length then
          .next (s.raise (s.asidOf c) { s.spatial c 11 7 .stops (tagIter e.tag) t.paddock e.blk e.slot (some e.site) with
            tag := s.ctxTag c t.paddock e.tag }).1
        else
          let put (s : State) (e : WEntry) : State :=
            s.modChain c t.paddock (fun ch => { ch with entries := ch.entries ++ [e] })
          let taken (s : State) : State :=
            if e.quiet then s
            else match e.kind with
              | .cst => s.reply c t.paddock e e.data false
              | .mnop => s.reply c t.paddock e e.addr false
              | _ => s
          if e.kind == .mnop then .next (taken (put s e))
          else
            let r := s.nodeFind (s.asidOf c) e.addr.toNat e.sz { e.use with a := false, d := false }
            match r.2 with
            | .addr code => .next (put r.1 { e with errCode := some code })
            | .xlat cause =>
              if causeRecoverable cause then
                let q := r.1.raise (r.1.asidOf c) (e.record r.1 c t.paddock cause .resumable)
                .next (taken (put q.1 { e with parked := some q.2 }))
              else .next (put r.1 { e with errCode := some (0x00010000 + cause) })
            | _ => .next (taken (put r.1 e))

/-! ### The cursor (R312) -/

/-- Whether a block holds chained nodes. -/
def Kernel.blockChained (kn : Kernel) (p b : Nat) : Bool :=
  (List.range (kn.blockSize p b)).any (fun t => match kn.node? p b t with
    | some (.cld _) | some (.cst _) | some (.catom _) | some (.mnop _) => true
    | _ => false)

/-- The entry node of a block (R311): the width that it pushes. -/
def Kernel.blockEntry (kn : Kernel) (p b : Nat) : Option Nat :=
  (List.range (kn.blockSize p b)).findSome? (fun t => match kn.node? p b t with
    | some (.lenter n) | some (.calln n) => some n.w.toNat
    | _ => none)

def Chain.actId? (ch : Chain) (id : Nat) : Option Act := ch.acts.find? (fun a => a.id == id)

/-- The root of the next round whose subtree the cursor has not walked. -/
def Chain.root? (ch : Chain) : Option Act := ch.acts.find? (fun a => a.parent.isNone)

/-- The width of the field that the children of an activation carry. -/
def Kernel.childWidth (kn : Kernel) (ch : Chain) (parent : Nat) : Nat :=
  ((ch.actId? parent).bind (fun p => kn.blockEntry ch.paddock p.blk)).getD 0

/-- One silent move of the cursor, if there is one (R312). -/
def Chain.move (kn : Kernel) (ch : Chain) : Option Chain :=
  let child (a : Act) : Option Act :=
    let w := kn.childWidth ch a.id
    ch.acts.find? (fun b => b.parent == some a.id && (!b.loop || tagFields b.tag % 2 ^ w == 0))
  match ch.cursor with
  | .idle => ch.root?.map (fun a => { ch with cursor := .start a.id })
  | .start i =>
    match ch.actId? i with
    | some a => if kn.blockChained ch.paddock a.blk then none else some { ch with cursor := .child i }
    | none => some { ch with cursor := .idle }
  | .after i _ succ => if succ = 0xFE then some { ch with cursor := .child i } else none
  | .child i =>
    match ch.actId? i with
    | none => some { ch with cursor := .idle }
    | some a =>
      if (kn.blockEntry ch.paddock a.blk).isNone then some { ch with cursor := .done i }
      else match child a with
        | some b => some { ch with cursor := .start b.id }
        | none => if a.freed then some { ch with cursor := .done i } else none
  | .done i =>
    match ch.actId? i with
    | none => some { ch with cursor := .idle }
    | some a =>
      match a.parent with
      | none => some { ch with cursor := .idle, acts := ch.acts.filter (fun b => b.round != a.round) }
      | some p =>
        let rest := ch.acts.filter (fun b => b.id != i)
        if a.loop then
          let w := kn.childWidth ch p
          let nx := tagFields (nextTag a.tag w) % 2 ^ w
          match ch.acts.find? (fun b => b.parent == some p && b.loop && b.id != i && tagFields b.tag % 2 ^ w == nx) with
          | some b => some { ch with cursor := .start b.id, acts := rest }
          | none => if a.lexit then some { ch with cursor := .done p, acts := rest } else none
        else some { ch with cursor := .done p, acts := rest }

/-- Every silent move. -/
def Chain.advance (kn : Kernel) : Nat → Chain → Chain
  | 0, ch => ch
  | n + 1, ch => match ch.move kn with
    | some ch2 => Chain.advance kn n ch2
    | none => ch

/-- Enough moves for every activation. -/
def Chain.settled (kn : Kernel) (ch : Chain) : Chain := ch.advance kn (4 * ch.acts.length + 4)

/-- Whether an entry is the access that the cursor waits for. -/
def Chain.wants (ch : Chain) (e : WEntry) : Bool :=
  match ch.cursor with
  | .start i => e.act == i && e.pred == 0xFE
  | .after i seq succ =>
    e.act == i && (if succ = 0xFF then e.pred == seq else e.seq == succ && (e.pred == seq || e.pred == 0xFF))
  | _ => false

/-- The next access, if it has arrived; a parked load counts as not arrived (R317). -/
def Chain.next? (ch : Chain) : Option WEntry :=
  ch.entries.find? (fun e => !e.released && ch.wants e && (e.kind == .cst || e.parked.isNone))

/-! ### Performing held stores (R298, R314, R317) -/

/-- How performing a list of stores ends: all performed, or a cause holds or stops them all. -/
inductive Performed where
  | all (s : State)
  | stuck (s : State)

/-- R419, R420: the COMMIT entry of a chained store, in the leader's log. Dword 1 holds the VA in its 55 bits, and the
iteration j of the gang in bits [63:56] (log entry 108). -/
def State.undoCommit (s : State) (c : CrewId) (x : Crew) (e : WEntry) (old : Nat) : State :=
  if x.debug then
    let d := (s.kernel? c).bind (fun kn => kn.sites.find? (fun (d : SiteD) => d.site == e.site))
    let pc := BitVec.ofNat 32 ((d.map (fun (d : SiteD) => d.toff)).getD 0)
    s.undoPush x ⟨c, tagIter e.tag / 256, 0⟩ (undoEntry 7 0 0 e.size false pc
      (BitVec.ofNat 8 (tagIter e.tag % 256) ++ (0 : BitVec 1) ++ e.addr.setWidth 55) old)
  else s

/-- Where the stores of a list are performed; a parked one, or a cause that one meets, holds or stops them all, so that a
round is performed whole or not at all (log entry 101). -/
def findStores (c : CrewId) (paddock : Nat) : List WEntry → State → State × Option (List (WEntry × Loc))
  | [], s => (s, some [])
  | e :: t, s =>
    if e.parked.isSome then (s, none)
    else
      let r := s.nodeFind (s.asidOf c) e.addr.toNat e.sz useStore
      match r.2 with
      | .at l =>
        let q := findStores c paddock t r.1
        (q.1, q.2.map (fun ls => (e, l) :: ls))
      | x =>
        match x.parks with
        | some cause => (r.1.parkEntry c paddock e cause, none)
        | none => (r.1.stopEntry c paddock e (x.code % 256), none)

/-- Perform one held store at its location; older stores of the cluster to it come first, and the log holds the value that
it replaces in coherence order (R392, R420). -/
def performStore (c : CrewId) (paddock : Nat) (x : Crew) (s : State) (q : WEntry × Loc) : State :=
  let e := q.1
  let s := s.performRange x.cluster q.2 e.sz
  let s := s.undoCommit c x e (leNat (s.homeRead q.2 e.sz))
  let s := (s.nodeStore x.cluster x.cluster q.2 (leBytes e.sz e.data.toNat)).countMem c (tagIter e.tag) 1
  s.dropEntry c paddock e

/-- R390, R395: a chained store acts as a release at DEVICE scope: what a release at CREW has covered is performed before
it. -/
def settleCrew (x : Crew) (s : State) : Performed :=
  if s.silentStore x.cluster (fun p => p.crew) then .stuck s else .all (s.performPicked x.cluster (fun p => p.crew))

/-- Perform stores in order. -/
def performStores (c : CrewId) (paddock : Nat) (es : List WEntry) (s : State) : Performed :=
  match findStores c paddock es s, s.crew? c with
  | (t, some []), some _ => .all t
  | (t, some ls), some x => match settleCrew x t with
    | .all u => .all (ls.foldl (performStore c paddock x) u)
    | .stuck u => .stuck u
  | (t, _), _ => .stuck t

/-- The held stores of a round in chain order. -/
def Crew.heldStores (x : Crew) (paddock round : Nat) : List WEntry :=
  ((x.chains.find? (fun ch => ch.paddock == paddock)).map (fun ch =>
    ch.entries.filter (fun e => e.released && e.round == round))).getD []

/-! ### WEIR_RELEASE (R314) -/

/-- Whether two accesses of an address space touch a byte: the location of byte `i` of a load against a held store. -/
def State.sameByte (s : State) (asid a b : Nat) : Bool :=
  a == b || (match s.walk asid a, s.walk asid b with
    | .ok t, .ok u => t.loc a == u.loc b
    | _, _ => false)

/-- R314: the byte of the youngest held store that writes the address. -/
def State.forwardByte (s : State) (asid a : Nat) (stores : List WEntry) : Option Byte :=
  stores.foldl (fun acc e =>
    match (List.range e.sz).find? (fun j => s.sameByte asid a (e.addr.toNat + j)) with
    | some j => some (BitVec.ofNat 8 (e.data.toNat / 2 ^ (8 * j)))
    | none => acc) none

/-- R314: the bytes of a load from the location `l`: those of the held stores, else the home channel's. -/
def State.loadBytes (s : State) (l : Loc) (fw : List (Option Byte)) : List Byte :=
  ((List.range fw.length).zip fw).map (fun q => q.2.getD (s.homeByte { l with pa := l.pa + q.1 }))

/-- The cursor passes an access. -/
def State.passed (s : State) (c : CrewId) (paddock : Nat) (kn : Kernel) (e : WEntry) : State :=
  s.modChain c paddock (fun ch =>
    Chain.settled kn { ch with cursor := .after e.act e.seq e.succ, last := some e })

/-- R314: rounds of the chain before this one are all committed. -/
def Crew.oldestRound (x : Crew) (paddock round : Nat) : Bool :=
  (x.rounds.takeWhile (fun r => r.id != round)).all (fun r => r.paddock != paddock || r.committed)

/-- R423: site breakpoints on an access that the weir is about to release. -/
def weirBreaks (s : State) (c : CrewId) (kn : Kernel) (e : WEntry) : List (Nat × Nat) :=
  if e.stopped || e.kind == .mnop then []
  else bpHits (s.asid (s.asidOf c)) 2 e.site kn.image 0 [s.iterOf c (tagIter e.tag)]

/-- R315: an access with an error is passed: it performs nothing and sends its error token. -/
def releaseErr (s : State) (c : CrewId) (paddock : Nat) (kn : Kernel) (e : WEntry) (code : Nat) : State :=
  let s := s.noteFault c e.round ⟨code, e.addr, some e.site, e.cell, e.frame, e.blk, e.slot, e.tag⟩
  ((s.dropEntry c paddock e).reply c paddock e (BitVec.ofNat 64 code) true).passed c paddock kn e

/-- R315, R317: an access meets a cause as it performs. -/
def releaseMiss (s : State) (c : CrewId) (paddock : Nat) (kn : Kernel) (e : WEntry) (x : NAcc) : State :=
  match x with
  | .ecc => releaseErr s c paddock kn e 0x0001000A
  | _ => match x.parks with
    | some cause => s.parkEntry c paddock e cause
    | none => s.stopEntry c paddock e (x.code % 256)

/-- R314: release a load. What is forwarded whole asks nothing of the home channel; a read there is an acquire (R390). -/
def releaseLoad (s : State) (c : CrewId) (x : Crew) (ch : Chain) (kn : Kernel) (e : WEntry) : State :=
  let asid := s.asidOf c
  match s.nodeXlat asid e.addr.toNat e.sz useLoad with
  | (s, .error y) => releaseMiss s c ch.paddock kn e y
  | (s, .ok l) =>
    let fw := (List.range e.sz).map (fun i =>
      s.forwardByte asid (e.addr.toNat + i) (ch.entries.filter (fun y => y.released)))
    let pass (s : State) (bs : List Byte) : State :=
      let v := nodeLoadVal e.size e.sx (leNat bs)
      ((s.dropEntry c ch.paddock e).reply c ch.paddock e (BitVec.ofNat 64 v) false).passed c ch.paddock kn e
    if fw.all Option.isSome then pass s (s.loadBytes l fw)
    else match s.nodeAnswer l e.sz (fun i => ((fw.getD i none)).isNone) with
      | .at l =>
        let s := ((s.countRemote x.cluster l).countMem c (tagIter e.tag) 1).crewSees x.cluster l e.sz
        pass (s.pastL1 x.cluster) (s.loadBytes l fw)
      | y => releaseMiss s c ch.paddock kn e y

/-- R314, R220: release an atomic: the earlier stores of its round are performed, and the round is bound. -/
def releaseAtom (s : State) (c : CrewId) (x : Crew) (ch : Chain) (kn : Kernel) (e : WEntry) : State :=
  let r := s.nodeFind (s.asidOf c) e.addr.toNat e.sz useStore
  match r.2 with
  | .at l =>
    (match performStores c ch.paddock (x.heldStores ch.paddock e.round) r.1 with
    | .stuck t => t
    | .all t =>
    match settleCrew x t with
    | .stuck t => t
    | .all t =>
      let w := 8 * e.sz
      let q := (t.countRemote x.cluster l).rmw x.cluster l e.sz (fun o => some (atomNew e.aop w o (e.data.toNat % 2 ^ w)))
      let s := ((q.1.pastL1 x.cluster).modRound c e.round (fun y => { y with bound := true })).countMem c (tagIter e.tag) 1
      ((s.dropEntry c ch.paddock e).reply c ch.paddock e (BitVec.ofNat 64 q.2) false).passed c ch.paddock kn e)
  | y => releaseMiss r.1 c ch.paddock kn e y

/-- Release an access that the cursor has reached. -/
def releaseEntry (s : State) (c : CrewId) (x : Crew) (ch : Chain) (kn : Kernel) (e : WEntry) : Out :=
  match e.errCode with
  | some code => .next (releaseErr s c ch.paddock kn e code)
  | none =>
    match e.kind with
    | .mnop => .next ((s.dropEntry c ch.paddock e).passed c ch.paddock kn e)
    | .cst =>
      let s := s.modChain c ch.paddock (fun y => { y with entries := y.entries.erase e ++ [{ e with released := true }] })
      .next (s.passed c ch.paddock kn e)
    | .cld => .next (releaseLoad s c x ch kn e)
    | .catom =>
      if x.oldestRound ch.paddock e.round then .next (releaseAtom s c x ch kn e)
      else .refused (.notEnabled "the round of the atomic is not the oldest uncommitted one")

/-- WEIR_RELEASE: the cursor of a paddock's chain passes its next access. -/
def execWeirRelease (c : CrewId) (paddock : Nat) (s : State) : Out :=
  match s.crew? c, s.kernel? c with
  | some x, some kn =>
    match x.chains.find? (fun ch => ch.paddock == paddock) with
    | none => .refused (.notEnabled "the paddock has no bound chain")
    | some ch0 =>
      let ch := ch0.settled kn
      let s := s.modChain c paddock (fun _ => ch)
      match ch.next? with
      | none => .refused (.notEnabled "the cursor is in a gap stall")
      | some e =>
        if s.nodesHeld c || s.crewStopped c then .refused (.notEnabled "the gang is halted or its job stopped")
        else
          let hits := weirBreaks s c kn e
          s.unlessFull (s.asidOf c) <|
          if hits.isEmpty then releaseEntry s c x ch kn e
          else
            let r := { s.spatial c 16 0 .resumable (tagIter e.tag) paddock e.blk e.slot (some e.site) with
              tag := s.ctxTag c paddock e.tag }
            .next (fireBreak (s.asidOf c) (kjGang c (tagIter e.tag)) r hits
              (s.modEntry c paddock e (fun y => { y with stopped := true })))
  | _, _ => .refused (.notEnabled "no such crew")

/-! ### Quiescence (R316) -/

/-- R316: nothing of a paddock moves: no token in flight or parked, no firing, no start held. Nodes of `waiting` are those
that wait on a buffer. -/
def Crew.quiescent (x : Crew) (kn : Kernel) (paddock : Nat) (i : Nat) (p : Place) (waiting : Ready → Bool) : Bool :=
  x.flight.all (fun f => !f.boundFor x kn i) && x.parks.all (fun k => k.place != some i && k.paddock != paddock)
    && x.heldStarts.all (fun h => h.place != i) && p.ready.all waiting && p.parked.isEmpty
    && x.transit.all (fun t => t.paddock != paddock)

/-- Whether the cursor of a chain is in a gap stall inside a round. -/
def Chain.gap (kn : Kernel) (ch : Chain) : Bool :=
  let ch := ch.settled kn
  ch.cursor != .idle && ch.next?.isNone && !ch.entries.any (fun e => !e.released && ch.wants e)

end Sys2Proof.Machine
end

