-- ==== Sys2Proof/Machine/Mtx.lean ====
section
/-! DEFINITION. The matrix array (R334 to R358): its geometry and arithmetic, class 8, the nodes MXJ and MXOUT, and the
steps by which weight events apply, column heads read and passes complete. -/

namespace Sys2Proof.Machine

/-! ### The array (R334 to R338) -/

/-- R334: the systolic places of a crew's region, ascending. -/
def Crew.sysPlaces (x : Crew) : List Place :=
  match x.region with
  | some r => r.places.filter (fun p => p.sys && p.state != .swapped)
  | none => []

def clsK (cls : Nat) : Nat := if cls = 0 then 16 else if cls = 1 then 32 else 64
def clsZ (cls : Nat) : Nat := if cls = 0 then 2 else 1
def clsBpc (cls : Nat) : Nat := if cls = 2 then 2 else 1

/-- R337: Kt. -/
def Geometry.kt (g : Geometry) : Nat := g.kb * clsK g.cls
/-- R350: NBk. -/
def Geometry.nbk (g : Geometry) : Nat := (g.kt + 31) / 32

/-- R337: the format fault that an entry gives the array (R135). -/
def arrayFmt (x : Crew) (g : Geometry) (n : BitVec 6) : Option FmtErr :=
  let t := fmtOf (x.fmtEntry n.toNat)
  let inRange := if g.cls = 0 then 9 ≤ t.width && t.width ≤ 16 else if g.cls = 1 then 5 ≤ t.width && t.width ≤ 8
    else 2 ≤ t.width && t.width ≤ 4
  firstErr [fmtInvalid x n, if !t.int && t.ew ≤ 8 && t.fw ≤ 10 && inRange then none else some ⟨3, n.toNat⟩]

/-- R334: an array cell with no tile: weights +0 and scales 1.0. -/
def mxScale1 : BitVec 24 := 0x7F0000

/-- R338, R340: a weight under its recorded word. -/
def MxCell.weight (c : MxCell) (k : Nat) : Val :=
  if c.fmt.getLsbD 31 then decodeV (fmtOf c.fmt) (SMap.get c.w 0 k).toNat else .num false 0 0 false

def MxCell.scale (c : MxCell) (k : Nat) : Val := bscale (SMap.get c.sc mxScale1 k).toNat

/-! ### The arithmetic of a pass (R340, R341) -/

/-- The operands of a pass: M, patterns by r × Kt + g, scales by r × NBk + β, and Cin by 16 × r + n. -/
structure PassIn where
  m : Nat
  a : List Nat
  sa : List (BitVec 24)
  cin : List Nat
  deriving DecidableEq, Repr

/-- The sign of an infinity. -/
def Val.infSign? : Val → Option Bool
  | .inf n => some n
  | _ => none

/-- R340, R341: a block of cell k in row r and column n: its scaled sum, its flags, and the signs of the infinities among its
products, which a NaN may hide in the sum. Scales have no sign. -/
structure BlockOut where
  v : Val
  fl : Fl
  infs : List Bool
  deriving DecidableEq, Repr

/-- R340: block b of cell k, row r, column n: D, times the operand's scale, times the weight's. -/
def blockSum (g : Geometry) (fa : Word) (i : PassIn) (c : MxCell) (r n k b : Nat) : BlockOut :=
  let kk := clsK g.cls
  let bs := clsBpc g.cls
  let ps := (List.range (kk / bs)).map (fun j =>
    let e := kk / bs * b + j
    mulV (decodeV (fmtOf fa) (i.a.getD (r * g.kt + k * kk + e) 0)) (c.weight (16 * e + n)))
  let d := sumV .rne (ps.map Prod.fst)
  let gi := k * kk + kk / bs * b
  let da := mulV d.1 (bscale (i.sa.getD (r * g.nbk + gi / 32) mxScale1).toNat)
  let t := mulV da.1 (c.scale (16 * b + n))
  ⟨t.1, ps.foldl (fun fl p => fl ||| p.2) (d.2 ||| da.2 ||| t.2), ps.filterMap (fun p => p.1.infSign?)⟩

/-- The partial sum after one cell; infinities of both signs raise NV beside a NaN too (R341). -/
def cellSum (g : Geometry) (fa : Word) (i : PassIn) (cells : Nat → MxCell) (r n k : Nat) (p : Nat × Fl) : Nat × Fl :=
  let ts := (List.range (clsBpc g.cls)).map (blockSum g fa i (cells k) r n k)
  let v := give f32 .rne (sumV .rne (decodeV f32 p.1 :: ts.map (fun t => t.v)))
  let infs := (decodeV f32 p.1).infSign?.toList ++ ts.flatMap (fun t => t.infs)
  let both : Fl := if infs.contains true && infs.contains false then fNV else 0
  (v.1, ts.foldl (fun fl t => fl ||| t.fl) (v.2 ||| p.2 ||| both))

/-- R340: the results of a pass and its flags. -/
def passOut (g : Geometry) (fa : Word) (i : PassIn) (cells : Nat → MxCell) : List Word × Fl :=
  let vs := (List.range (16 * i.m)).map (fun e =>
    (List.range g.kb).foldl (fun p k => cellSum g fa i cells (e / 16) (e % 16) k p) (i.cin.getD e 0, 0))
  (vs.map (fun v => BitVec.ofNat 32 v.1), vs.foldl (fun fl v => fl ||| v.2) 0)

/-- The cells of a column by depth (R336). -/
def Crew.column (x : Crew) (g : Geometry) (b k : Nat) : MxCell := SMap.get x.cells MxCell.init (b * g.kb + k)

/-! ### Buffers that passes hold (R343) -/

/-- The fields of a tile header (R354). -/
def hdrM (h : Dword) : Nat := fld h 28 24
def hdrSon (h : Dword) : Bool := h.getLsbD 20
def hdrSbuf (h : Dword) : Nat := fld h 19 16
def hdrGen (h : Dword) : Nat := fld h 14 13
def hdrAsel (h : Dword) : Bool := h.getLsbD 12
def hdrAbuf (h : Dword) : Nat := fld h 11 8
def hdrFa (h : Dword) : BitVec 6 := h.extractLsb' 0 6

/-- The buffers of `n` bytes from buffer `b`. -/
def bufRange (b n : Nat) : List Nat := (List.range ((n + 3071) / 3072)).map (fun i => b + i)

def hdrOperand (g : Geometry) (h : Dword) : List Nat :=
  if hdrAsel h then [] else bufRange (hdrAbuf h) (hdrM h * g.kt * clsZ g.cls)

def hdrScales (g : Geometry) (h : Dword) : List Nat :=
  if hdrSon h then bufRange (hdrSbuf h) (4 * hdrM h * g.nbk) else []

/-- The feeds in flight at a memory cell. -/
def Crew.feeds (x : Crew) (i mc : Nat) : List (MxItem × MxFeed) :=
  x.mx.filterMap (fun y => match y.kind with
    | .feed f _ _ => if f.place == i && f.mc == mc then some (y, f) else none
    | _ => none)

/-- A buffer is an accumulator of a pass in flight. -/
def Crew.accHeld (x : Crew) (i mc b : Nat) : Bool := (x.feeds i mc).any (fun q => q.2.buf == b)

/-- A buffer is held by a pass in flight. -/
def Crew.bufHeld (x : Crew) (i mc b : Nat) : Bool :=
  x.accHeld i mc b || (match x.geometry with
    | some g => (x.feeds i mc).any (fun q => !q.1.headRead &&
        ((hdrOperand g q.2.header).contains b || (hdrScales g q.2.header).contains b))
    | none => false)

/-! ### Memory cells by name (R322) -/

def Place.mc (p : Place) (mc : Nat) : MCell := SMap.get p.mcells MCell.init mc

def State.modMc (s : State) (c : CrewId) (i mc : Nat) (f : MCell → MCell) : State :=
  s.modPlace c i (fun p => { p with mcells := SMap.set p.mcells MCell.init mc (f (p.mc mc)) })

/-- `z` bytes of a buffer at an offset; buffers lie one after another. -/
def MCell.rd (m : MCell) (b o z : Nat) : Nat := Memory.le m.bytes (3072 * b + o) z

def MCell.wr (m : MCell) (b o z v : Nat) : MCell := { m with bytes := Memory.setLe m.bytes (3072 * b + o) z v }

def MCell.gen (m : MCell) (g : Nat) : Gen := SMap.get m.gens Gen.init g

def MCell.setGen (m : MCell) (g : Nat) (x : Gen) : MCell := { m with gens := SMap.set m.gens Gen.init g x }

/-- R323: the elements of a generator. -/
def Gen.total (g : Gen) : Nat := (g.dims.map Prod.snd).foldl (fun a b => a * b) 1

/-! ### Class 8 (R347 to R353) -/

def MxItem.isFeed (i : MxItem) : Bool :=
  match i.kind with
  | .feed _ _ _ => true
  | _ => false

/-- A pass, of MXA or of MXJ. -/
def MxItem.isPass (i : MxItem) : Bool :=
  match i.kind with
  | .pass _ _ _ => true
  | .feed _ _ _ => true
  | _ => false

/-- The matrix work of a wave that is in flight. -/
def Crew.mxOf (x : Crew) (gang wave : Nat) : List MxItem :=
  x.mx.filter (fun i => i.gang == gang && i.wave == wave && !i.isFeed)

/-- R129: an FMTW of the entry waits in the crew; a word that names the entry then waits before it looks at it. -/
def Crew.fmtWaits (x : Crew) (n : Nat) : Bool := x.fmtw.any (fun w => w.entry == n)

/-- R129, R344, R347: a class 8 word waits for the wave's class 7 operations, for an FMTW of the entry that it names, and
while its port queue is full; the first that applies is its reason (R190). -/
def mxGate (k : Ctx) (entry : Option Nat) (s : State) (body : State → Res) : Res :=
  if k.c.fops.any (fun o => o.gang == k.w.gang && o.wave == k.w.wave) then .wait .scoreboard s
  else if entry.any k.c.fmtWaits then .wait .scoreboard s
  else if 16 ≤ (k.c.mxOf k.w.gang k.w.wave).length then .wait .memory s
  else body s

/-- R353: a matrix fault. -/
def mxFault (k : Ctx) (cause : Nat) (s : State) : Res := .held (faultAt k (k.report 13 cause .stops (k.first s) .form) s)

/-- R353: NOARRAY and COLUMN; `n` gives the count of cells or of columns. -/
def mxTarget (k : Ctx) (b : Nat) (n : Geometry → Nat) (s : State) (body : Geometry → Res) : Res :=
  match k.c.geometry with
  | none => mxFault k 1 s
  | some g => if n g ≤ b then mxFault k 2 s else body g

/-- S[B] or the immediate, as an unsigned number of a cell, a column, a place or a paddock. -/
def argB (f : KF) (k : Ctx) : Nat :=
  match f.b with
  | .imm i => i.toNat
  | _ => (opS f k.wv).toNat

/-- An accepted event or pass of a wave. -/
def mxNew (k : Ctx) (s : State) (kind : MxKind) (target rows : Nat) : MxItem :=
  let r := k.report 2 0 .stops (k.first s) .access
  { kind := kind, target := target, gang := k.w.gang, wave := k.w.wave, vform := k.vec, taddr := r.taddr, voff := r.voff
    site := r.site, iter := r.iter, eqp := r.eqp, after := s.now, headRead := false, rows := rows, out := [], flags := 0
    written := 0, parked := none }

def mxPut (k : Ctx) (i : MxItem) (s : State) : Res := .done (s.modCrew k.w.crew (fun x => { x with mx := x.mx ++ [i] }))

/-- ALIGN and RANGE of S[A] (R348, R358). -/
def mxAddr (k : Ctx) (s : State) (a : Nat) : Option Res :=
  if a % 64 != 0 then some (addrFault k 1 a s) else if 2 ^ 55 ≤ a then some (addrFault k 2 a s) else none

def mxwOp (f : KF) (k : Ctx) (s : State) : Res :=
  let fw : BitVec 6 := f.c.extractLsb' 0 6
  mxGate k (some fw.toNat) s (fun s =>
    let b := argB f k
    mxTarget k b (fun g => g.kb * g.nb) s (fun g =>
      match arrayFmt k.c g fw with
      | some e => .held (fmtFault k e (k.first s) s)
      | none => match mxAddr k s (k.wv.rdS (KF.A f)).toNat with
          | some r => r
          | none => mxPut k (mxNew k s (.weights (k.wv.rdS (KF.A f)) (k.c.fmtEntry fw.toNat) fw.toNat) b 0) s))

def execMxw (f : KF) (s : State) : Out := issueCore (.mxw f) s (mxwOp f)

def mxscOp (f : KF) (k : Ctx) (s : State) : Res :=
  mxGate k none s (fun s =>
    mxTarget k (argB f k) (fun g => g.kb * g.nb) s (fun _ =>
      match mxAddr k s (k.wv.rdS (KF.A f)).toNat with
      | some r => r
      | none => mxPut k (mxNew k s (.scales (k.wv.rdS (KF.A f))) (argB f k) 0) s))

def execMxsc (f : KF) (s : State) : Out := issueCore (.mxsc f) s (mxscOp f)

def mxzOp (f : KF) (k : Ctx) (s : State) : Res :=
  mxGate k none s (fun s =>
    mxTarget k (argB f k) (fun g => g.kb * g.nb) s (fun _ => mxPut k (mxNew k s .zero (argB f k) 0) s))

def execMxz (f : KF) (s : State) : Out := issueCore (.mxz f) s (mxzOp f)

/-- R336, R349. -/
def mxcOp (f : KF) (k : Ctx) (s : State) : Res :=
  mxGate k none s (fun s =>
    let w := k.wv.rdS (KF.A f)
    let kb := fld w 13 8 + 1
    let nb := fld w 21 16 + 1
    let p := k.c.sysPlaces.length
    let bad := fld w 63 22 != 0 || fld w 15 14 != 0 || fld w 7 2 != 0 || fld w 1 0 == 3 || 8 * p < kb * nb
    let st : Nat := if p = 0 then 2 else if bad then 3 else if !k.c.mx.isEmpty then 1 else 0
    let s := if st = 0 then
        s.modCrew k.w.crew (fun x => { x with geometry := some ⟨fld w 1 0, kb, nb⟩, cells := [] })
      else s
    .done (s.modWave k.w (fun x => x.wrS (KF.D f) (BitVec.ofNat 64 st))))

def execMxc (f : KF) (s : State) : Out := issueCore (.mxc f) s (mxcOp f)

/-- R350: a field of a descriptor breaks its map. -/
def mxShape (g : Geometry) (d : List Dword) : Bool :=
  let x (i : Nat) : Dword := d.getD i 0
  let z := clsZ g.cls
  let high (a : Dword) : Bool := 2 ^ 55 ≤ a.toNat
  high (x 0) || (x 0).toNat % z != 0 || fld (x 1) 63 32 % z != 0 || fld (x 1) 31 5 != 0 || fld (x 1) 4 0 == 0
    || 16 < fld (x 1) 4 0 || high (x 2) || (x 2).toNat % 4 != 0 || high (x 3) || (x 3).toNat % 64 != 0 || high (x 4)
    || (x 4).toNat % 64 != 0 || x 5 != 0 || x 6 != 0 || x 7 != 0

def mxaOp (f : KF) (k : Ctx) (s : State) : Res :=
  let fa : BitVec 6 := f.c.extractLsb' 0 6
  mxGate k (some fa.toNat) s (fun s =>
    let b := argB f k
    mxTarget k b (fun g => g.nb) s (fun g =>
      match arrayFmt k.c g fa with
      | some e => .held (fmtFault k e (k.first s) s)
      | none => match wordAccess k (k.wv.rdS (KF.A f)).toNat 64 useLoad .thru s with
          | (_, .error r) => r
          | (s1, .ok p) =>
            let r := s1.readAt k 64 .thru p
            let d := (recDwords r.2).take 8
            if mxShape g d then mxFault k 3 r.1
            else mxPut k (mxNew k r.1 (.pass d (k.c.fmtEntry fa.toNat) fa.toNat) b (fld (d.getD 1 0) 4 0)) r.1))

def execMxa (f : KF) (s : State) : Out := issueCore (.mxa f) s (mxaOp f)

/-- R352: wait for the wave's matrix work, then acquire at DEVICE scope. -/
def mxwaitOp (k : Ctx) (s : State) : Res :=
  if k.c.fops.any (fun o => o.gang == k.w.gang && o.wave == k.w.wave) then .wait .scoreboard s
  else if !(k.c.mxOf k.w.gang k.w.wave).isEmpty then .wait .memory s
  else .done (s.acquire k.cluster 1)

def execMxwait (f : KF) (s : State) : Out := issueCore (.mxwait f) s mxwaitOp

/-! ### Reading and writing for the array (R348, R351) -/

/-- Read `n` bytes from an address at the home channels, through the slice port of cluster `cl`, page by page: the bytes, or the cause with its address. -/
def State.readSpan (s : State) (cl asid va : Nat) : Nat → Nat → State × Except (Nat × Nat) (List Byte)
  | 0, _ => (s, .ok [])
  | fuel + 1, n =>
    if n = 0 then (s, .ok [])
    else
      let m := min n (65536 - va % 65536)
      if 2 ^ 55 < va + m then (s, .error (2, va))
      else match s.xlatTile asid va useLoad with
        | (s, .error c) => (s, .error (c, va))
        | (s, .ok t) =>
          let l := t.loc va
          if !s.answers l then (s, .error (9, va))
          else if !l.rmt && s.eccHbm l.pa m then (s, .error (10, va))
          else
            let r := s.nodeLoad cl cl l m
            let q := State.readSpan r.2 cl asid (va + m) fuel (n - m)
            match q.2 with
            | .ok bs => (q.1, .ok (r.1 ++ bs))
            | .error e => (q.1, .error e)

/-- Read a span whose length is small. -/
def State.readMem (s : State) (cl asid va n : Nat) : State × Except (Nat × Nat) (List Byte) :=
  s.readSpan cl asid va (n / 65536 + 3) n

/-- Read several spans. -/
def State.readSpans (s : State) (cl asid : Nat) : List (Nat × Nat) → State × Except (Nat × Nat) (List (List Byte))
  | [] => (s, .ok [])
  | p :: t =>
    match s.readMem cl asid p.1 p.2 with
    | (s, .error e) => (s, .error e)
    | (s, .ok bs) =>
      match State.readSpans s cl asid t with
      | (s, .ok l) => (s, .ok (bs :: l))
      | (s, .error e) => (s, .error e)

/-- The numbers that consecutive groups of `z` bytes hold. -/
def groupsOf (z : Nat) : Nat → List Byte → List Nat
  | 0, _ => []
  | n + 1, bs => leNat (bs.take z) :: groupsOf z n (bs.drop z)

/-- R348, R351: reading may begin once the stores issued before the word are performed at DEVICE scope. -/
def MxItem.mayRead (i : MxItem) (c : CrewId) (cl : Cluster) : Bool :=
  !cl.stores.any (fun p => p.born < i.after && !p.loc.rmt && p.wave.crew == c && p.wave.gang == i.gang
    && (i.vform || p.wave.wave == i.wave))

/-- A record of kind MEMORY about an item, with the threaded terms of its word. -/
def MxItem.record (i : MxItem) (c : CrewId) (cl cause va : Nat) : RecF :=
  { kind := 2, cause := cause, form := if i.vform then 1 else 0, site := i.site
    status := if causeRecoverable cause then .resumable else .stops, wave := i.iter % 256 / 32, launch := c.launch
    eqp := i.eqp, cluster := cl, iter := i.iter, taddr := i.taddr, voff := i.voff, va := va % 2 ^ 55 }

def State.modMx (s : State) (c : CrewId) (k : Nat) (f : MxItem → MxItem) : State :=
  s.modCrew c (fun x => { x with mx := x.mx.modify k f })

/-- R348, R351: a cause that a read or write of an item meets: the item parks, or the job stops. -/
def State.parkMx (s : State) (c : CrewId) (cl k : Nat) (i : MxItem) (e : Nat × Nat) : State :=
  let q := s.raise (s.asidOf c) (i.record c cl e.1 e.2)
  q.1.modMx c k (fun i => { i with parked := some q.2 })

/-- The column that an item works on. -/
def MxItem.col (i : MxItem) (g : Geometry) : Nat :=
  match i.kind with
  | .pass _ _ _ => i.target
  | .feed _ _ _ => i.target
  | _ => i.target / g.kb

/-- R339, R343: nothing that must enter the column before the k-th item is left: earlier work of its wave, or, for a feed,
earlier feeds. -/
def Crew.mxInOrder (x : Crew) (g : Geometry) (k : Nat) (i : MxItem) : Bool :=
  (x.mx.take k).all (fun y => y.headRead || y.col g != i.col g || y.isFeed != i.isFeed
    || (!i.isFeed && (y.gang != i.gang || y.wave != i.wave)))

/-- R344: the k-th item is among the four passes that the head of its column can queue; an MXJ behind them waits with its
buffers held. -/
def Crew.mxQueued (x : Crew) (g : Geometry) (k : Nat) (i : MxItem) : Bool :=
  ((x.mx.take k).filter (fun y => !y.headRead && y.isPass && y.col g == i.col g)).length < 4

/-! ### WEIGHT_EVENT_APPLY -/

/-- The tile of MXW from its bytes (R338). -/
def weightsOf (g : Geometry) (bs : List Byte) : SMap (BitVec 16) :=
  let vs := groupsOf (clsZ g.cls) (16 * clsK g.cls) bs
  ((List.range vs.length).zip vs).foldl (fun m p => SMap.set m 0 p.1 (BitVec.ofNat 16 p.2)) []

def scalesOf (g : Geometry) (bs : List Byte) : SMap (BitVec 24) :=
  let vs := groupsOf 4 (16 * clsBpc g.cls) bs
  ((List.range vs.length).zip vs).foldl (fun m p => SMap.set m mxScale1 p.1 (BitVec.ofNat 24 p.2)) []

/-- An event is applied to its cell and is over. -/
def State.applyEvent (s : State) (c : CrewId) (k n : Nat) (f : MxCell → MxCell) : State :=
  s.modCrew c (fun x => { x with
    mx := x.mx.eraseIdx k, cells := SMap.set x.cells MxCell.init n (f (SMap.get x.cells MxCell.init n)) })

def execWeightEventApply (c : CrewId) (k : Nat) (s : State) : Out :=
  s.unlessFull (s.asidOf c) <| match s.crew? c with
  | none => .refused (.notEnabled "no such crew")
  | some x =>
    match x.mx[k]?, x.geometry with
    | some i, some g =>
      if i.parked.isSome || !x.mxInOrder g k i || !i.mayRead c (s.cluster x.cluster) then
        .refused (.notEnabled "the event is parked, or earlier stores or events of its wave come first")
      else match i.kind with
        | .zero => .next (s.applyEvent c k i.target (fun _ => MxCell.init))
        | .weights a w _ =>
          match s.readMem x.cluster (s.asidOf c) a.toNat (16 * clsK g.cls * clsZ g.cls) with
          | (s, .error e) => .next (s.parkMx c x.cluster k i e)
          | (s, .ok bs) => .next (s.applyEvent c k i.target (fun y => { y with w := weightsOf g bs, fmt := w }))
        | .scales a =>
          match s.readMem x.cluster (s.asidOf c) a.toNat (64 * clsBpc g.cls) with
          | (s, .error e) => .next (s.parkMx c x.cluster k i e)
          | (s, .ok bs) => .next (s.applyEvent c k i.target (fun y => { y with sc := scalesOf g bs }))
        | _ => .refused (.notEnabled "the item is a pass")
    | _, _ => .refused (.notEnabled "no such event")

/-! ### COLUMN_HEAD_READ -/

/-- R339: the item moves behind those that the heads have read before, with its result. -/
def State.headTaken (s : State) (c : CrewId) (k : Nat) (i : MxItem) (o : List Word × Fl) : State :=
  s.modCrew c (fun x =>
    let rest := x.mx.eraseIdx k
    let r := rest.span (fun y => y.headRead)
    { x with mx := r.1 ++ [{ i with headRead := true, out := o.1, flags := o.2 }] ++ r.2 })

/-- R350: the operands of an MXA pass, or the cause that a read meets. -/
def passRead (s : State) (cl asid : Nat) (g : Geometry) (d : List Dword) : State × Except (Nat × Nat) PassIn :=
  let x (n : Nat) : Nat := (d.getD n 0).toNat
  let m := fld (d.getD 1 0) 4 0
  let pitch := fld (d.getD 1 0) 63 32
  let z := clsZ g.cls
  let rows := (List.range m).map (fun r => (x 0 + r * pitch, g.kt * z))
  let sc := if x 2 = 0 then [] else [(x 2, 4 * m * g.nbk)]
  let ci := if x 3 = 0 then [] else [(x 3, 64 * m)]
  match s.readSpans cl asid (rows ++ sc ++ ci) with
  | (s, .error e) => (s, .error e)
  | (s, .ok l) =>
    let a := (l.take m).flatMap (groupsOf z g.kt)
    let sv := if x 2 = 0 then [] else groupsOf 4 (m * g.nbk) (l.getD m [])
    let cv := if x 3 = 0 then [] else groupsOf 4 (16 * m) (l.getD (m + sc.length) [])
    (s, .ok ⟨m, a, sv.map (BitVec.ofNat 24), cv⟩)

/-- A token from a memory cell's work to a target of the firing that started it. -/
def State.feedToken (s : State) (c : CrewId) (i : Nat) (p : Place) (r : FireRef) (t : Option Tgt) (v : Dword) (err : Bool) :
    State :=
  match t with
  | some t => s.sendFlit c (.token
      { sender := .node p.slice p.bay r.cell p.paddock r.blk r.slot, place := some i, paddock := p.paddock, cell := r.cell
        frame := r.frame, blk := r.blk, slot := t.slot.toNat, port := t.port, err := err, value := v, round := r.round
        relayed := false })
  | none => s

/-- The targets of a node by its place. -/
def Kernel.targetsAt (kn : Kernel) (p b t : Nat) : Option Tgt × Option Tgt :=
  match kn.node? p b t with
  | some i => nodeTargets i
  | none => (none, none)

/-- R354: the operands of an MXJ pass; no answer while its generator has not delivered them. -/
def feedRead (m : MCell) (g : Geometry) (f : MxFeed) : Option PassIn :=
  let h := f.header
  let n := hdrM h * g.kt
  let z := clsZ g.cls
  let a : Option (List Nat) :=
    if hdrAsel h then
      let q := (m.gen (hdrGen h)).queue
      if q.length < n then none else some ((q.take n).map BitVec.toNat)
    else some ((List.range n).map (fun i => m.rd (hdrAbuf h) (i * z) z))
  let sa := if hdrSon h then (List.range (hdrM h * g.nbk)).map (fun i => BitVec.ofNat 24 (m.rd (hdrSbuf h) (4 * i) 4)) else []
  let ci := if f.rval.getLsbD 0 then [] else (List.range (16 * hdrM h)).map (fun i => m.rd f.buf (4 * i) 4)
  a.map (fun a => ⟨hdrM h, a, sa, ci⟩)

/-- R354, R357: a generator cannot deliver `n` elements to a feed any more: it is in another mode, or it ends short. -/
def Gen.short (y : Gen) (n : Nat) : Bool :=
  y.mode != 3 || y.queue.length + (if y.running then y.total - y.next else 0) < n

def feedShort (m : MCell) (g : Geometry) (f : MxFeed) : Bool :=
  hdrAsel f.header && (m.gen (hdrGen f.header)).short (hdrM f.header * g.kt)

def readFeed (s : State) (c : CrewId) (x : Crew) (k : Nat) (i : MxItem) (g : Geometry) (f : MxFeed) (fa : Word) : Out :=
  match x.place? f.place, s.kernel? c with
  | some p, some kn =>
    let m := p.mc f.mc
    let t := kn.targetsAt p.paddock f.ref.blk f.ref.slot
    match feedRead m g f with
    | some ops =>
      let s := if hdrAsel f.header then s.modMc c f.place f.mc (fun m =>
          let y := m.gen (hdrGen f.header)
          m.setGen (hdrGen f.header) { y with queue := y.queue.drop (hdrM f.header * g.kt) }) else s
      .next ((s.headTaken c k i (passOut g fa ops (x.column g i.target))).feedToken c f.place p f.ref t.2 f.header false)
    | none =>
      if feedShort m g f then
        let s := s.modCrew c (fun x => { x with mx := x.mx.eraseIdx k })
        let s := s.noteFault c f.ref.round ⟨0x00030003, 0, none, f.ref.cell, f.ref.frame, f.ref.blk, f.ref.slot, f.ref.tag⟩
        let s := s.feedToken c f.place p f.ref t.1 0x00030003 true
        .next (s.feedToken c f.place p f.ref t.2 0x00030003 true)
      else .refused (.notEnabled "the generator has not delivered the operands")
  | _, _ => .refused (.notEnabled "the feed has no place")

def execColumnHeadRead (c : CrewId) (k : Nat) (s : State) : Out :=
  s.unlessFull (s.asidOf c) <| match s.crew? c with
  | none => .refused (.notEnabled "no such crew")
  | some x =>
    match x.mx[k]?, x.geometry with
    | some i, some g =>
      if i.headRead || i.parked.isSome || !x.mxInOrder g k i || !x.mxQueued g k i then
        .refused (.notEnabled "the pass has been read, is parked, or an earlier event or pass of its column comes first")
      else match i.kind with
        | .pass d fa _ =>
          if !i.mayRead c (s.cluster x.cluster) then .refused (.notEnabled "earlier stores of the wave come first")
          else match passRead s x.cluster (s.asidOf c) g d with
            | (s, .error e) => .next (s.parkMx c x.cluster k i e)
            | (s, .ok ops) => .next (s.headTaken c k i (passOut g fa ops (x.column g i.target)))
        | .feed f fa _ => readFeed s c x k i g f fa
        | _ => .refused (.notEnabled "the item is a weight event")
    | _, _ => .refused (.notEnabled "no such pass")

/-! ### PASS_COMPLETE -/

/-- R351: write the rows that are left, resuming at the page that met a cause. Stores of the cluster that a release has
covered come first (R387, R395), and remote rows are counted (R211). -/
def writeRows (s : State) (c : CrewId) (cl k : Nat) (i : MxItem) (cout : Nat) : Nat → Nat → State × Bool
  | 0, _ => (s, true)
  | n + 1, r =>
    if i.rows ≤ r then (s, true)
    else
      let va := cout + 64 * r
      let bs := ((i.out.drop (16 * r)).take 16).flatMap (fun (w : Word) => leBytes 4 w.toNat)
      let stop (s : State) (cause : Nat) : State × Bool :=
        ((s.modMx c k (fun i => { i with written := r })).parkMx c cl k i (cause, va), false)
      if 2 ^ 55 < va + 64 then stop s 2
      else match s.xlatTile (s.asidOf c) va useStore with
        | (s, .error e) => stop s e
        | (s, .ok t) =>
          let l := t.loc va
          if !s.answers l then stop s 9
          else if !l.rmt && s.eccHbm l.pa 64 then stop s 10
          else writeRows (((s.countRemote cl l).crewSees cl l 64).homeWrite l bs) c cl k i cout n (r + 1)

/-- R343, R355: an MXJ pass writes its accumulator buffer and sends VALUE(R) to T0; its flags join its round. One whose round
has been discarded only writes its buffer (R318, R409). -/
def feedDone (s : State) (c : CrewId) (x : Crew) (i : MxItem) (f : MxFeed) : State :=
  let s := s.modMc c f.place f.mc (fun m =>
    ((List.range i.out.length).zip i.out).foldl (fun m (e : Nat × Word) => m.wr f.buf (4 * e.1) 4 e.2.toNat) m)
  if s.roundGone c f.ref.round then s
  else
  let s := s.roundFlags c x f.ref.round (tagIter f.ref.tag) i.flags
  match x.place? f.place, s.kernel? c with
  | some p, some kn => s.feedToken c f.place p f.ref (kn.targetsAt p.paddock f.ref.blk f.ref.slot).1 f.rval false
  | _, _ => s

/-- R340, R420: the flags of a pass go into the FCSR of its wave, which a debug crew logs as a write of its MXA. -/
def State.mxFlags (s : State) (c : CrewId) (x : Crew) (i : MxItem) : State :=
  let w : WaveId := ⟨c, i.gang, i.wave⟩
  let s := match (if x.debug && i.flags != 0 then s.wave? w else none) with
    | some y => s.undoPush x w (undoEntry 5 0 0 0 (i.vform && i.site.isNone)
        (BitVec.ofNat 32 (if i.vform && i.site.isNone then i.voff else i.taddr)) 0 y.fcsr.toNat)
    | none => s
  s.modWave w (fun w => w.orFlags i.flags)

/-- PASS_COMPLETE: the k-th item of a crew, a pass, writes its results and leaves the array. -/
def execPassComplete (c : CrewId) (k : Nat) (s : State) : Out :=
  s.unlessFull (s.asidOf c) <| match s.crew? c with
  | none => .refused (.notEnabled "no such crew")
  | some x =>
    match x.mx[k]? with
    | none => .refused (.notEnabled "no such pass")
    | some i =>
      if !i.headRead || i.parked.isSome || (x.mx.take k).any (fun y => y.headRead && y.target == i.target) then
        .refused (.notEnabled "the pass has not been read, is parked, or an earlier pass of its column comes first")
      else
        let leave (s : State) : State := s.modCrew c (fun x => { x with mx := x.mx.eraseIdx k })
        match i.kind with
        | .pass d _ _ =>
          let r := writeRows s c x.cluster k i (d.getD 4 0).toNat 17 i.written
          if r.2 then .next (leave (r.1.mxFlags c x i)) else .next r.1
        | .feed f _ _ => .next (feedDone (leave s) c x i f)
        | _ => .refused (.notEnabled "the item is a weight event")

/-! ### MXJ and MXOUT (R354 to R357) -/

/-- R357: an error of a matrix node. -/
def mxNodeErr (n : NCF) (k : NCtx) (code : Nat) (s : State) : NRes :=
  .fire (k.both n.t0 n.t1 (BitVec.ofNat 64 code) true (k.note code s))

/-- R354: a header or an R value that breaks R354. -/
def badHeader (g : Geometry) (m : MCell) (buf : Nat) (h r : Dword) : Bool :=
  let a := hdrOperand g h
  let c := hdrScales g h
  let y := m.gen (hdrGen h)
  fld h 63 29 != 0 || fld h 23 21 != 0 || h.getLsbD 15 || fld h 7 6 != 0 || hdrM h == 0 || 16 < hdrM h || fld r 63 1 != 0
    || (a ++ c).any (fun b => 15 < b || b == buf) || a.any c.contains
    || (hdrAsel h && ((!y.running && y.queue.isEmpty) || 2 ^ y.esz != clsZ g.cls || y.short (hdrM h * g.kt)))

def mxjOp (n : NCF) (k : NCtx) (s : State) : NRes :=
  k.pass n.t0 n.t1 s (fun s =>
    let col := fld n.arg 5 0
    let mc := n.mc.toNat
    let b := n.buf.toNat
    match k.x.geometry with
    | none => mxNodeErr n k 0x00030001 s
    | some g =>
      if g.nb ≤ col then mxNodeErr n k 0x00030002 s
      else
        let h := k.rd.l
        let fa := hdrFa h
        if k.x.fmtWaits fa.toNat then .wait s
        else match arrayFmt k.x g fa with
        | some e => mxNodeErr n k (e.cause * 256 + e.entry) s
        | none =>
          if badHeader g (k.p.mc mc) b h k.rd.r then mxNodeErr n k 0x00030003 s
          else if (b :: hdrOperand g h ++ hdrScales g h).any (k.x.bufHeld k.i mc) then .wait s
          else
            let f : MxFeed := ⟨k.i, mc, b, ⟨k.fr.cell, k.fr.no, k.fr.blk, k.rd.slot, k.fr.round, k.fr.tag⟩, h, k.rd.r⟩
            let kj := tagIter k.fr.tag
            let i : MxItem :=
              { kind := .feed f (k.x.fmtEntry fa.toNat) fa.toNat, target := col, gang := kj / 256, wave := kj % 256 / 32
                vform := false, taddr := 0, voff := 0, site := none, iter := s.iterOf k.c kj, eqp := none, after := s.now
                headRead := false, rows := hdrM h, out := [], flags := 0, written := 0, parked := none }
            .fire (s.modCrew k.c (fun x => { x with mx := x.mx ++ [i] })))

def execMxj (n : NCF) (s : State) : Out := fireNode s (mxjOp n)

def mxoutOp (n : NCF) (k : NCtx) (s : State) : NRes :=
  k.pass n.t0 n.t1 s (fun s =>
    let mc := n.mc.toNat
    let b := n.buf.toNat
    let ob := fld n.arg 12 9
    let fd : BitVec 6 := n.arg.extractLsb' 0 6
    let w := k.x.fmtEntry fd.toNat
    if k.x.fmtWaits fd.toNat then .wait s
    else match firstErr [fmtInvalid k.x fd, if 32 < fmtW w then some ⟨3, fd.toNat⟩ else none] with
    | some e => mxNodeErr n k (e.cause * 256 + e.entry) s
    | none =>
      if k.x.accHeld k.i mc b || k.x.accHeld k.i mc ob then .wait s
      else
        let m := k.p.mc mc
        let mode := k.mode s (fld n.arg 8 6)
        let rs := (List.range 256).map (fun e => roundFmt (fmtOf w) mode (decodeV f32 (m.rd b (4 * e) 4)))
        if rs.any (fun r => r.fault) then mxNodeErr n k (4 * 256 + fd.toNat) s
        else
          let zd := fmtPartW (fmtW w) / 8
          let s := s.modMc k.c k.i mc (fun m =>
            ((List.range 256).zip rs).foldl (fun m (e : Nat × RRes) => m.wr ob (zd * e.1) zd e.2.pat) m)
          let s := s.roundFlags k.c k.x k.fr.round (tagIter k.fr.tag) (rs.foldl (fun fl r => fl ||| r.fl) 0)
          .fire (k.both n.t0 n.t1 k.rd.l false s))

def execMxout (n : NCF) (s : State) : Out := fireNode s (mxoutOp n)

end Sys2Proof.Machine
end

