-- ==== Sys2Proof/Machine/Cells.lean ====
section
/-! DEFINITION. Memory cells (R322 to R331): MCLD, MCST, MCENQ, MCDEQ and AGEN, the steps of the address generators, and
what a quiescent paddock raises (R316). -/

namespace Sys2Proof.Machine

/-! ### Buffers (R322, R329) -/

/-- The elements of a buffer. -/
def bufElems (z : Nat) : Nat := 3072 / z

def ncEsz (n : NCF) : Nat := 2 ^ fld n.arg 1 0
def ncSx (n : NCF) : Bool := n.arg.getLsbD 2
def ncClrf (n : NCF) : Bool := n.arg.getLsbD 3
def ncSetf (n : NCF) : Bool := n.arg.getLsbD 4
def ncRing (n : NCF) : Bool := n.arg.getLsbD 5

def Gen.ring (g : Gen) (i : Nat) : Nat := g.buf0 + i % (g.nb + 1)

/-- R322: the buffers that running generators have. -/
def MCell.bound (m : MCell) (b : Nat) : Bool :=
  m.gens.any (fun g => g.2.running && g.2.buf0 ≤ b && b ≤ g.2.buf0 + g.2.nb)

def MCell.setF (m : MCell) (b : Nat) (v : Bool) : MCell := { m with full := setBit m.full b v }

/-- An element as a memory-cell node sends it. -/
def ncVal (n : NCF) (v : Nat) : Dword := BitVec.ofNat 64 (nodeLoadVal (fld n.arg 1 0) (ncSx n) v)

/-- R319: the error codes of memory cells. -/
def eINDEX : Nat := 0x00020001
def eMODE : Nat := 0x00020002
def eDESC : Nat := 0x00020003
def eGENBUSY : Nat := 0x00020004

/-- What an operation on a memory cell gives: an error code, a wait, or the value it sends with the cell after it. -/
inductive McRes where
  | err (code : Nat)
  | wait
  | ok (v : Dword) (m : MCell)
  deriving Repr

/-- R324, R329: MCLD. `idx` is VALUE(L). -/
def mcld (n : NCF) (idx : Dword) (m : MCell) : McRes :=
  let z := ncEsz n
  let i := fld idx 31 0
  let b := n.buf.toNat
  if ncRing n then
    let g := m.gen b
    if !(g.running && ((g.mode = 0 && !g.dir) || g.mode = 2)) then .err eMODE
    else if bufElems z ≤ i then .err eINDEX
    else
      let o := if g.mode = 2 then fld idx 47 32 else 0
      if g.mode = 2 && g.nb + 1 ≤ o then .err eINDEX
      else if g.lines.length ≤ o then .wait
      else
        let buf := if g.mode = 2 then g.lines.getD (g.lines.length - 1 - o) 0 else g.lines.getD 0 0
        let v := ncVal n (m.rd buf (i * z) z)
        if ncClrf n then .ok v ((m.setF (g.lines.getD 0 0) false).setGen b { g with lines := g.lines.drop 1 })
        else .ok v m
  else if m.bound b then .err eMODE
  else if bufElems z ≤ i then .err eINDEX
  else if !m.full.getLsbD b then .wait
  else
    let v := ncVal n (m.rd b (i * z) z)
    .ok v (if ncClrf n then m.setF b false else m)

/-- R324, R329: MCST. -/
def mcst (n : NCF) (idx val : Dword) (m : MCell) : McRes :=
  let z := ncEsz n
  let i := fld idx 31 0
  let b := n.buf.toNat
  if ncRing n then
    let g := m.gen b
    if !(g.running && g.mode = 0 && g.dir) then .err eMODE
    else if bufElems z ≤ i then .err eINDEX
    else
      let buf := g.ring g.cur
      if m.full.getLsbD buf then .wait
      else
        let m := m.wr buf (i * z) z val.toNat
        if ncSetf n then
          .ok val ((m.setF buf true).setGen b { g with cur := (g.cur + 1) % (g.nb + 1), lines := g.lines ++ [buf] })
        else .ok val m
  else if m.bound b then .err eMODE
  else if bufElems z ≤ i then .err eINDEX
  else
    let m := m.wr b (i * z) z val.toNat
    .ok val (if ncSetf n then m.setF b true else m)

/-- The capacity of a generator's FIFO, in elements. -/
def Gen.cap (g : Gen) : Nat := (g.nb + 1) * bufElems (2 ^ g.esz)

/-- R324, R330: MCENQ. -/
def mcenq (n : NCF) (val : Dword) (m : MCell) : McRes :=
  let z := ncEsz n
  let b := n.buf.toNat
  if ncRing n then
    let g := m.gen b
    if !(g.running && g.mode = 1 && g.dir) then .err eMODE
    else if g.cap ≤ g.queue.length then .wait
    else .ok val (m.setGen b { g with queue := g.queue ++ [BitVec.ofNat 64 (val.toNat % 2 ^ (8 * z))] })
  else if m.bound b then .err eMODE
  else
    let h := SMap.get m.head 0 b
    let c := SMap.get m.count 0 b
    if bufElems z ≤ c then .wait
    else .ok val { m.wr b ((h + c) % bufElems z * z) z val.toNat with count := SMap.set m.count 0 b (c + 1) }

/-- R324, R330: MCDEQ. -/
def mcdeq (n : NCF) (m : MCell) : McRes :=
  let z := ncEsz n
  let b := n.buf.toNat
  if ncRing n then
    let g := m.gen b
    if !(g.running && g.mode = 1 && !g.dir) then .err eMODE
    else match g.queue with
      | [] => .wait
      | v :: t => .ok (ncVal n (v.toNat % 2 ^ (8 * z))) (m.setGen b { g with queue := t })
  else if m.bound b then .err eMODE
  else
    let h := SMap.get m.head 0 b
    let c := SMap.get m.count 0 b
    if c = 0 then .wait
    else .ok (ncVal n (m.rd b (h % bufElems z * z) z))
      { m with head := SMap.set m.head 0 b ((h + 1) % bufElems z), count := SMap.set m.count 0 b (c - 1) }

/-- The buffers that an operation touches: the one it names; with RING the current one of the ring (MCST), the one that it
reads (MCLD), or all that the FIFO runs through. -/
def ncTouches (n : NCF) (i : Instr) (idx : Dword) (m : MCell) : List Nat :=
  if !ncRing n then [n.buf.toNat]
  else
    let g := m.gen n.buf.toNat
    match i with
    | .mcld _ =>
      let o := fld idx 47 32
      if g.mode = 2 then (if o < g.lines.length then [g.lines.getD (g.lines.length - 1 - o) 0] else []) ++ g.lines.take 1
      else g.lines.take 1
    | .mcst _ => [g.ring g.cur]
    | _ => (List.range (g.nb + 1)).map (fun j => g.buf0 + j)

/-- R330: an operation of the kind `same` on the FIFO fired before this one and still waits. -/
def NCtx.behind (k : NCtx) (same : Instr → Bool) (s : State) : Bool :=
  k.p.ready.any (fun r => (match r.since with | some u => u < k.rd.since.getD s.now | none => false) &&
    (match k.kn.node? k.p.paddock r.blk r.slot with
      | some i => same i
      | none => false))

/-- The operations that append to the FIFO of one, or take from it. -/
def ncSame (n m : NCF) : Bool := n.mc == m.mc && n.buf == m.buf && ncRing n == ncRing m
def enqSame (n : NCF) : Instr → Bool
  | .mcenq m => ncSame n m
  | _ => false
def deqSame (n : NCF) : Instr → Bool
  | .mcdeq m => ncSame n m
  | _ => false

/-- A node of a memory cell fires. `held` tells whether a pass holds a buffer that it may not touch (R343), `same` which
nodes it must not overtake (R330). -/
def mcOp (n : NCF) (held : NCtx → Bool) (same : Instr → Bool) (act : NCtx → MCell → McRes) (k : NCtx) (s : State) : NRes :=
  k.pass n.t0 n.t1 s (fun s =>
    if held k || k.behind same s then .wait s
    else match act k (k.p.mc n.mc.toNat) with
      | .err e => .fire (k.both n.t0 n.t1 (BitVec.ofNat 64 e) true (k.note e s))
      | .wait => .wait s
      | .ok v m => .fire (k.both n.t0 n.t1 v false (s.modMc k.c k.i n.mc.toNat (fun _ => m))))

/-- R343: an MCLD waits on a held accumulator, the others on any held buffer. -/
def heldAcc (n : NCF) (i : Instr) (k : NCtx) : Bool :=
  (ncTouches n i k.rd.l (k.p.mc n.mc.toNat)).any (k.x.accHeld k.i n.mc.toNat)
def heldBuf (n : NCF) (i : Instr) (k : NCtx) : Bool :=
  (ncTouches n i k.rd.l (k.p.mc n.mc.toNat)).any (k.x.bufHeld k.i n.mc.toNat)

def mcldOp (n : NCF) : NCtx → State → NRes :=
  mcOp n (heldAcc n (.mcld n)) (fun _ => false) (fun k m => mcld n k.rd.l m)
def mcstOp (n : NCF) : NCtx → State → NRes :=
  mcOp n (heldBuf n (.mcst n)) (fun _ => false) (fun k m => mcst n k.rd.l k.rd.r m)
def mcenqOp (n : NCF) : NCtx → State → NRes := mcOp n (heldBuf n (.mcenq n)) (enqSame n) (fun k m => mcenq n k.rd.l m)
def mcdeqOp (n : NCF) : NCtx → State → NRes := mcOp n (heldBuf n (.mcdeq n)) (deqSame n) (fun _ m => mcdeq n m)

def execMcld (n : NCF) (s : State) : Out := fireNode s (mcldOp n)
def execMcst (n : NCF) (s : State) : Out := fireNode s (mcstOp n)
def execMcenq (n : NCF) (s : State) : Out := fireNode s (mcenqOp n)
def execMcdeq (n : NCF) (s : State) : Out := fireNode s (mcdeqOp n)

/-! ### AGEN (R323, R331) -/

/-! #### Rings between two runs of a generator (R322, R324; log entry 103) -/

/-- The buffers of a generator's ring. -/
def Gen.buffers (g : Gen) : List Nat := (List.range (g.nb + 1)).map (fun i => g.buf0 + i)

/-- The elements, of `z` bytes, that the FIFO of a buffer holds, oldest first. -/
def MCell.fifo (m : MCell) (z b : Nat) : List Dword :=
  (List.range (SMap.get m.count 0 b)).map (fun j =>
    BitVec.ofNat 64 (m.rd b ((SMap.get m.head 0 b + j) % bufElems z * z) z))

/-- A buffer's FIFO holds a list of elements. -/
def MCell.putFifo (m : MCell) (z b : Nat) (q : List Dword) : MCell :=
  let m := ((List.range q.length).zip q).foldl (fun m e => m.wr b (e.1 * z) z (e.2.toNat % 2 ^ (8 * z))) m
  { m with head := SMap.set m.head 0 b 0, count := SMap.set m.count 0 b q.length }

/-- A stopped generator in FIFO mode leaves its elements in the FIFOs of its ring's buffers, from the first upward. -/
def MCell.layRing (m : MCell) (g : Gen) : MCell :=
  if g.mode = 1 then
    let n := bufElems (2 ^ g.esz)
    (List.range (g.nb + 1)).foldl (fun m i => m.putFifo (2 ^ g.esz) (g.buf0 + i) ((g.queue.drop (i * n)).take n)) m
  else m

/-- A generator stops: the ring keeps what it holds. -/
def MCell.stopGen (m : MCell) (gn : Nat) (g : Gen) : MCell :=
  (m.layRing g).setGen gn { g with running := false, queue := if g.mode = 1 then [] else g.queue }

/-- A generator starts over a ring as it is: the buffers that are full count as such, those of its last run in their order
and then the others, and in FIFO mode the elements in the buffers are the first of the ring's FIFO. -/
def MCell.startGen (m : MCell) (gn : Nat) (g : Gen) : MCell :=
  let bs := g.buffers
  if g.mode = 1 then
    let q := bs.flatMap (fun b => m.fifo (2 ^ g.esz) b)
    (bs.foldl (fun m b => m.putFifo (2 ^ g.esz) b []) m).setGen gn { g with queue := q }
  else if g.mode = 3 then m.setGen gn g
  else
    let old := (m.gen gn).lines.filter (fun b => bs.contains b && m.full.getLsbD b)
    m.setGen gn { g with lines := old ++ bs.filter (fun b => m.full.getLsbD b && !old.contains b) }

/-- A generator from its descriptor, before it starts. -/
def genOf (d : List Dword) : Gen :=
  let x (i : Nat) : Dword := d.getD i 0
  let nd := fld (x 1) 1 0
  { Gen.init with
    base := x 0, mode := fld (x 1) 63 62, dir := (x 1).getLsbD 61, esz := fld (x 1) 57 56, buf0 := fld (x 1) 55 52
    nb := fld (x 1) 51 48, nd := nd
    dims := (List.range (nd + 1)).map (fun k => ((((x (2 + k)).extractLsb' 24 40).toInt), fld (x (2 + k)) 23 0)) }

/-- R323: a descriptor that breaks its map or the cell's bounds. -/
def descBad (m : MCell) (d : List Dword) : Bool :=
  let x (i : Nat) : Dword := d.getD i 0
  let g := genOf d
  let z : Int := (2 ^ g.esz : Nat)
  2 ^ 55 ≤ (x 0).toNat || (g.dir && 2 ≤ g.mode) || fld (x 1) 60 58 != 0 || fld (x 1) 47 2 != 0
    || (g.base.toNat : Int) % z != 0 || g.dims.any (fun q => q.1 % z != 0 || q.2 == 0) || 15 < g.buf0 + g.nb
    || (List.range (g.nb + 1)).any (fun i => m.bound (g.buf0 + i)) || x 6 != 0 || x 7 != 0
    || (g.mode = 2 && bufElems (2 ^ g.esz) < ((g.dims.headD (0, 0)).2))

def agenOp (n : NCF) (k : NCtx) (s : State) : NRes :=
  k.pass n.t0 n.t1 s (fun s =>
    let a := k.rd.l.toNat
    let fail (s : State) (code : Nat) : NRes :=
      .fire (k.send n.t0 (BitVec.ofNat 64 code) true
        (s.noteFault k.c k.fr.round ⟨code, k.rd.l, none, k.fr.cell, k.fr.no, k.fr.blk, k.rd.slot, k.fr.tag⟩))
    let r := s.nodeFind (s.asidOf k.c) a 64 useLoad
    match r.2 with
    | .at l =>
      let q := r.1.nodeLoad k.x.cluster k.p.slice l 64
      let d := (recDwords (leNat q.1)).take 8
      let s := q.2.countMem k.c (tagIter k.fr.tag) 2
      let m := k.p.mc n.mc.toNat
      let gn := n.buf.toNat
      if (m.gen gn).running then fail s eGENBUSY
      else if descBad m d then fail s eDESC
      else
        let ref : FireRef := ⟨k.fr.cell, k.fr.no, k.fr.blk, k.rd.slot, k.fr.round, k.fr.tag⟩
        let s := s.modMc k.c k.i n.mc.toNat (fun m => m.startGen gn { genOf d with running := true, agen := some ref })
        .fire (k.send n.t0 0 false s)
    | x =>
      match x.parks with
      | some cause =>
        let q := r.1.raise (r.1.asidOf k.c)
          (nodeMemRecord r.1 k.c k.p.paddock k.fr.blk k.rd.slot k.fr.tag none cause a .resumable)
        .held (q.1.modPlace k.c k.i (fun p => { p with parked := p.parked ++ [(q.2, k.late s)] }))
      | none => fail r.1 x.code)

def execAgen (n : NCF) (s : State) : Out := fireNode s (agenOp n)

/-! ### Generators at work (R323, R324) -/

/-- The position of element `e` in each dimension, innermost first. -/
def elemIdx : List (Int × Nat) → Nat → List (Int × Nat)
  | [], _ => []
  | q :: t, e => (q.1, e % q.2) :: elemIdx t (e / q.2)

/-- R323: the address of element `e`. -/
def Gen.addr (g : Gen) (e : Nat) : Nat :=
  wrap 64 ((g.base.toNat : Int) + ((elemIdx g.dims e).map (fun q => q.1 * (q.2 : Int))).sum)

/-- The elements of a feed that waits for a pass-through generator. -/
def Crew.feedNeed (x : Crew) (i mc gn : Nat) : Nat :=
  match x.geometry with
  | some g => ((x.feeds i mc).filterMap (fun q =>
      if !q.1.headRead && hdrAsel q.2.header && hdrGen q.2.header == gn then some (hdrM q.2.header * g.kt) else none)).foldl max 0
  | none => 0

/-- R324: the next element can be done: the ring has room for it, or holds it. -/
def genReady (x : Crew) (i mc gn : Nat) (m : MCell) (g : Gen) : Bool :=
  g.running && g.parked.isNone && g.next < g.total &&
    (match g.mode, g.dir with
      | 0, true => !g.lines.isEmpty
      | 1, true => !g.queue.isEmpty
      | 1, false => g.queue.length < g.cap
      | 3, _ => g.queue.length < max g.cap (x.feedNeed i mc gn)
      | _, _ => !m.full.getLsbD (g.ring g.cur))

/-- The elements that one buffer of the ring takes. -/
def Gen.perBuf (g : Gen) : Nat := if g.mode = 2 then (g.dims.headD (0, 1)).2 else bufElems (2 ^ g.esz)

/-- An element read from memory goes into the ring. -/
def genTake (gn : Nat) (g : Gen) (v : Nat) (m : MCell) : MCell :=
  if g.mode = 1 || g.mode = 3 then m.setGen gn { g with queue := g.queue ++ [BitVec.ofNat 64 v], next := g.next + 1 }
  else
    let z := 2 ^ g.esz
    let b := g.ring g.cur
    let m := m.wr b (g.fill * z) z v
    if g.fill + 1 = g.perBuf || g.next + 1 = g.total then
      (m.setF b true).setGen gn
        { g with next := g.next + 1, fill := 0, cur := (g.cur + 1) % (g.nb + 1), lines := g.lines ++ [b] }
    else m.setGen gn { g with next := g.next + 1, fill := g.fill + 1 }

/-- The element that a generator of DIR 1 writes next. -/
def genGive (g : Gen) (m : MCell) : Nat :=
  let z := 2 ^ g.esz
  if g.mode = 1 then (g.queue.headD 0).toNat % 2 ^ (8 * z) else m.rd (g.lines.headD 0) (g.fill * z) z

/-- An element has been written to memory. -/
def genGiven (gn : Nat) (g : Gen) (m : MCell) : MCell :=
  if g.mode = 1 then m.setGen gn { g with queue := g.queue.drop 1, next := g.next + 1 }
  else if g.fill + 1 = g.perBuf || g.next + 1 = g.total then
    (m.setF (g.lines.headD 0) false).setGen gn { g with next := g.next + 1, fill := 0, lines := g.lines.drop 1 }
  else m.setGen gn { g with next := g.next + 1, fill := g.fill + 1 }

/-- R371: whether element `next` starts another sector than the one before it. -/
def Gen.newSector (g : Gen) : Bool := g.next = 0 || g.addr g.next / 32 != g.addr (g.next - 1) / 32

/-- A generator by name. -/
def genAt (s : State) (c : CrewId) (i mc gn : Nat) : Option (Crew × Place × MCell × Gen) :=
  match s.crew? c with
  | some x => (x.place? i).map (fun p => (x, p, p.mc mc, (p.mc mc).gen gn))
  | none => none

/-- A token from a generator to a target of its AGEN; one whose round has been discarded sends none. -/
def genToken (s : State) (c : CrewId) (i : Nat) (p : Place) (r : FireRef) (v : Dword) (err : Bool) : State :=
  match (if s.roundGone c r.round then none else s.kernel? c) with
  | some kn => s.feedToken c i p r (kn.targetsAt p.paddock r.blk r.slot).2 v err
  | none => s

/-- R324: a cause that cannot be resolved ends the generator with an error token from its T1. -/
def genFail (s : State) (c : CrewId) (i mc gn : Nat) (p : Place) (g : Gen) (r : FireRef) (code va : Nat) : State :=
  let s := s.noteFault c r.round ⟨code, BitVec.ofNat 64 va, none, r.cell, r.frame, r.blk, r.slot, r.tag⟩
  (genToken s c i p r (BitVec.ofNat 64 code) true).modMc c i mc (fun m => m.stopGen gn g)

/-- GENERATOR_STEP: one element. A generator stops at a step while its gang is halted (R447), and runs to completion once
the job is stopped (R409). -/
def execGeneratorStep (c : CrewId) (i mc gn : Nat) (s : State) : Out :=
  match genAt s c i mc gn with
  | none => .refused (.notEnabled "no such generator")
  | some (x, p, m, g) =>
    match g.agen with
    | none => .refused (.notEnabled "the generator has not started")
    | some ref =>
      if p.state != .resident || !genReady x i mc gn m g || (s.nodesHeld c && !s.crewStopped c) then
        .refused (.notEnabled "the generator is parked, held, done, or waits for its ring")
      else
        let va := g.addr g.next
        let z := 2 ^ g.esz
        let r := s.nodeFind (s.asidOf c) va z (if g.dir then useStore else useLoad)
        match r.2 with
        | .at l =>
          let s := r.1.countMem c (tagIter ref.tag) (if g.newSector then 1 else 0)
          if g.dir then
            .next ((s.nodeStore x.cluster p.slice l (leBytes z (genGive g m))).modMc c i mc (genGiven gn g))
          else
            let q := s.nodeLoad x.cluster p.slice l z
            .next (q.2.modMc c i mc (genTake gn g (leNat q.1)))
        | y =>
          match y.parks with
          | some cause =>
            let q := r.1.raise (r.1.asidOf c)
              (nodeMemRecord r.1 c p.paddock ref.blk ref.slot ref.tag none cause va .resumable)
            s.unlessFull (s.asidOf c) (.next (q.1.modMc c i mc (fun m => m.setGen gn { g with parked := some q.2 })))
          | none => .next (genFail r.1 c i mc gn p g ref y.code va)

/-- R324, R331: every element is done: a generator of DIR 0 has brought it, one of DIR 1 has performed its store. -/
def Gen.over (g : Gen) : Bool := g.running && g.next == g.total

/-- GENERATOR_DONE: the count goes to T1 and the generator stops; its ring keeps what nodes have not taken. -/
def execGeneratorDone (c : CrewId) (i mc gn : Nat) (s : State) : Out :=
  match genAt s c i mc gn with
  | none => .refused (.notEnabled "no such generator")
  | some (_, p, _, g) =>
    match g.agen with
    | none => .refused (.notEnabled "the generator has not started")
    | some ref =>
      if p.state == .resident && g.over then
        .next ((genToken s c i p ref (BitVec.ofNat 64 g.total) false).modMc c i mc (fun m => m.stopGen gn g))
      else .refused (.notEnabled "elements are left")

/-! ### Quiescence (R316) -/

/-- A firing of a place. -/
def firingCtx (c : CrewId) (i : Nat) (x : Crew) (p : Place) (kn : Kernel) (r : Ready) : Option (NCtx × Instr) :=
  match p.frame? r.cell r.frame, kn.node? p.paddock r.blk r.slot with
  | some f, some nd => some (⟨c, i, r, x, p, f, kn⟩, nd)
  | _, _ => none

/-- A node that waits on a buffer's full or empty bit. -/
def bufWaits (c : CrewId) (i : Nat) (x : Crew) (p : Place) (kn : Kernel) (s : State) (r : Ready) : Bool :=
  match firingCtx c i x p kn r with
  | some (k, nd) =>
    let op : Option (NCtx → State → NRes) := match nd with
      | .mcld n => some (mcldOp n)
      | .mcst n => some (mcstOp n)
      | .mcenq n => some (mcenqOp n)
      | .mcdeq n => some (mcdeqOp n)
      | _ => none
    (match op with
      | some f => (match f k s with | .wait _ => true | _ => false)
      | none => false)
  | none => false

/-- A generator of the place can go on, or waits for firmware. -/
def genAlive (x : Crew) (i : Nat) (p : Place) : Bool :=
  p.mcells.any (fun q => q.2.gens.any (fun g => genReady x i q.1 g.1 q.2 g.2 || (g.2.running && g.2.parked.isSome)))

/-- R316: one MCWAIT record for each waiting node. -/
def mcwaitRecords (s : State) (c : CrewId) (p : Place) (rs : List Ready) : State :=
  rs.foldl (fun s r => match p.frame? r.cell r.frame with
    | some f => s.nodeFault c p 9 f.tag f.blk r.slot none
    | none => s) s

/-- PADDOCK_QUIESCENT (R316): a gap in the chain raises GAP at the last access passed, and nodes that wait on a buffer
raise MCWAIT. -/
def execPaddockQuiescent (c : CrewId) (paddock : Nat) (s : State) : Out :=
  match s.crew? c, s.kernel? c with
  | some x, some kn =>
    match x.home? paddock with
    | none => .refused (.notEnabled "the paddock is not resident")
    | some h =>
      let waits := bufWaits c h.1 x h.2 kn s
      if !x.quiescent kn paddock h.1 h.2 waits || s.nodesHeld c || s.crewStopped c || !s.ringRoom (s.asidOf c) then
        .refused (.notEnabled "the paddock is not quiescent, or the ring has no room for its record")
      else
        let gap := (x.chains.find? (fun ch => ch.paddock == paddock)).filter (fun ch => ch.gap kn)
        let w := if genAlive x h.1 h.2 || !(x.mx.filter (fun y => y.isFeed)).isEmpty then [] else h.2.ready
        match gap with
        | some ch =>
          let e := ch.last
          let tag := (e.map (fun e => e.tag)).getD 0
          let r := s.raise (s.asidOf c)
            { s.spatial c 11 8 .stops (tagIter tag) paddock ((e.map (fun e => e.blk)).getD 0)
                ((e.map (fun e => e.slot)).getD 0) (e.map (fun e => e.site)) with tag := s.ctxTag c paddock tag }
          .next (mcwaitRecords r.1 c h.2 w)
        | none =>
          if w.isEmpty then .refused (.notEnabled "nothing of the paddock waits") else .next (mcwaitRecords s c h.2 w)
  | _, _ => .refused (.notEnabled "no such crew")

end Sys2Proof.Machine
end

