-- ==== Sys2Proof/Machine/Ctl.lean ====
section
/-! DEFINITION. Class 4: paths, the divergence and return stacks, branches, calls, YIELD, PREFI and IFENCE (R166 to
R182). -/

namespace Sys2Proof.Machine

/-! ### Spill and fill (R170, R171) -/

/-- An entry of the divergence stack in its 128 bits (R166). -/
def DEntry.bits (e : DEntry) : Nat :=
  e.pend.toNat * 2 ^ 96 + e.mask.toNat * 2 ^ 64
    + (match e.kind with | .reconv => 0 | .path => 1 | .callx => 2) * 2 ^ 62 + e.rdepth % 2 ^ 11 * 2 ^ 32 + e.pc.toNat

/-- An entry of the return stack in 64 bits: PC, depth at [40:32], group flag at [41] (log entry 15). -/
def REntry.bits (e : REntry) : Nat := e.pc.toNat + e.depth % 2 ^ 9 * 2 ^ 32 + (if e.group then 2 ^ 41 else 0)

/-- An entry of the divergence stack from its 128 bits; they do not hold the register of a CALLX. -/
def DEntry.ofBits (e : DEntry) (v : Nat) : DEntry :=
  { e with
    pend := BitVec.ofNat 32 (Machine.bits v 127 96), mask := BitVec.ofNat 32 (Machine.bits v 95 64)
    kind := match Machine.bits v 63 62 with | 1 => .path | 2 => .callx | _ => .reconv
    rdepth := Machine.bits v 42 32, pc := BitVec.ofNat 32 (Machine.bits v 31 0) }

/-- An entry of the return stack from its 64 bits. -/
def REntry.ofBits (v : Nat) : REntry := ⟨BitVec.ofNat 32 (Machine.bits v 31 0), Machine.bits v 40 32, Machine.bit v 41⟩

/-- R412: the spill area of a wave of a crew. -/
def spillBase (c : Crew) (w : WaveId) : Nat := c.ctxBase.toNat + 0x24A00 + 0x3000 * (8 * w.gang + w.wave)

/-- Move entries to the spill area while more than `core` are resident, `n` at a time and oldest first, and back when the
resident entries have run out. Answers how many lie in the spill area. `depth` entries are held, `at_` gives entry i
counted from the bottom. -/
def spillGo (core n size base : Nat) (at_ : Nat → Nat) (depth : Nat) : Nat → Nat → Memory → Nat × Memory
  | 0, sp, m => (sp, m)
  | fuel + 1, sp, m =>
    if core < depth - sp then
      spillGo core n size base at_ depth fuel (sp + n)
        ((List.range n).foldl (fun m i => Memory.put m (base + size * (sp + i)) (leBytes size (at_ (sp + i)))) m)
    else if depth ≤ sp && 0 < sp then spillGo core n size base at_ depth fuel (sp - n) m
    else (sp, m)

/-- Entry i of a stack of a wave, counted from the bottom, as the spill area stores it. -/
def Wave.dBits (x : Wave) (i : Nat) : Nat := ((x.dstack.reverse[i]?).map DEntry.bits).getD 0

def Wave.rBits (x : Wave) (i : Nat) : Nat := ((x.rstack.reverse[i]?).map REntry.bits).getD 0

/-- Where one of the `n` spilled entries of a stack has changed from `old` to `new`, its bytes in the area change. -/
def spillKeep (size base n : Nat) (old new : Nat → Nat) (m : Memory) : Memory :=
  (List.range n).foldl (fun m i => if old i == new i then m else Memory.put m (base + size * i) (leBytes size (new i))) m

/-- The entries of a stack after a fill: those numbered `lo` to `hi - 1` from the bottom come from the area. -/
def filled {α : Type} (st : List α) (lo hi : Nat) (get : α → Nat → α) : List α :=
  st.mapIdx (fun j e => let i := st.length - 1 - j; if lo ≤ i && i < hi then get e i else e)

/-- R170, R171: keep the stacks of a wave within the core and its spill area: what changed of a spilled entry is written
there, entries move there and back, and one that comes back is what the area holds. -/
def State.respill (s : State) (c : Crew) (w : WaveId) (x : Wave) : State :=
  let b := spillBase c w
  let y := (s.wave? w).getD x
  let m := spillKeep 8 (b + 3584) (min x.rsp x.rstack.length) y.rBits x.rBits
    (spillKeep 16 b (min x.dsp x.dstack.length) y.dBits x.dBits s.mem)
  let d := spillGo 32 16 16 b x.dBits x.dstack.length 32 x.dsp m
  let r := spillGo 16 8 8 (b + 3584) x.rBits x.rstack.length 128 x.rsp d.2
  let t : State := { s with mem := r.2 }
  t.setWave w { x with
    dstack := filled x.dstack d.1 x.dsp (fun e i => e.ofBits (t.physLe (b + 16 * i) 16)), dsp := d.1
    rstack := filled x.rstack r.1 x.rsp (fun _ i => REntry.ofBits (t.physLe (b + 3584 + 8 * i) 8)), rsp := r.1 }

/-! ### Paths (R166 to R168) -/

/-- The entries of the innermost region, and the rest of the stack. -/
def innermost (st : List DEntry) : List DEntry × List DEntry := st.span (fun e => e.kind != .reconv)

/-- R167: the depth of the innermost region. -/
def regionDepth (st : List DEntry) : Nat :=
  match (innermost st).2 with
  | e :: _ => e.rdepth
  | [] => 0

/-- Take the topmost PATH entry. -/
def popPath : List DEntry → Option (DEntry × List DEntry)
  | [] => none
  | e :: t => if e.kind == .path then some (e, t) else (popPath t).map (fun r => (r.1, e :: r.2))

/-- Follow an entry. -/
def Wave.follow (x : Wave) (pc mask : Word) : Wave := { x with pc := pc, mask := mask }

/-- R167: Rotate. -/
def Wave.rotate (x : Wave) : Wave :=
  let r := innermost x.dstack
  if r.1.any (fun e => e.kind == .path) && x.rstack.length == regionDepth x.dstack then
    match popPath (r.1 ++ [⟨.path, 0, x.mask, x.rstack.length, x.pc, 0⟩]) with
    | some (e, l) => { x.follow e.pc e.mask with dstack := l ++ r.2 }
    | none => x
  else x

/-- R167: Split, given the taken lanes. -/
def Wave.split (x : Wave) (t : Word) (target : Word) : Wave :=
  let f := x.mask &&& ~~~t
  if t == 0 then { x with pc := x.pc + 8 }
  else if f == 0 then
    let y := { x with pc := target }
    if target.toNat ≤ x.pc.toNat then y.rotate else y
  else { x.follow (x.pc + 8) f with dstack := ⟨.path, 0, t, x.rstack.length, target, 0⟩ :: x.dstack }

/-- R177: NextGroup for the CALLX entry `e` on top of `t`. -/
def Wave.nextGroup (x : Wave) (e : DEntry) (t : List DEntry) : Wave :=
  let tgt (l : Nat) : Nat := (x.rdV e.reg l).toNat
  let ls := (List.range 32).filter (fun l => e.pend.getLsbD l)
  match ls with
  | [] => { x.follow e.pc e.mask with dstack := t }
  | l0 :: _ =>
    let least := ls.foldl (fun a l => min a (tgt l)) (tgt l0)
    let m : Word := ls.foldl (fun m l => if tgt l = least then setBit m l true else m) 0
    { x.follow (BitVec.ofNat 32 least) m with
      dstack := { e with pend := e.pend &&& ~~~m } :: t
      rstack := ⟨e.pc, t.length + 1, true⟩ :: x.rstack }

/-- Retire a wave whose lanes have all exited (R196); its mappings end (R244). -/
def Wave.retire (x : Wave) : Wave :=
  { x with mask := 0, exited := 0xFFFFFFFF, retired := true, dstack := [], rstack := [], dsp := 0, rsp := 0, qmaps := [] }

/-- R167: Resume: pop entries until one has lanes left. -/
def Wave.resumeGo (x : Wave) : List DEntry → Wave
  | [] => x.retire
  | e :: t =>
    let x := { x with rstack := x.rstack.drop (x.rstack.length - e.rdepth) }
    if e.mask == 0 then x.resumeGo t
    else match e.kind with
      | .path => { x.follow e.pc e.mask with dstack := t }
      | .reconv => { x.follow (e.pc + 8) e.mask with dstack := t }
      | .callx => if e.pend == 0 then { x.follow e.pc e.mask with dstack := t } else x.nextGroup e t

def Wave.resume (x : Wave) : Wave := x.resumeGo x.dstack

/-- R178: lanes exit: they leave the current path and every entry, and the wave resumes another path when its own has no
lanes left. -/
def Wave.exitLanes (x : Wave) (a : Word) : Wave :=
  let y := { x with
    exited := x.exited ||| a
    mask := x.mask &&& ~~~a
    dstack := x.dstack.map (fun e => { e with mask := e.mask &&& ~~~a, pend := e.pend &&& ~~~a }) }
  if y.mask == 0 then y.resume else y

/-! ### How a transfer ends -/

/-- R172: a stack fault. -/
def stackFault (k : Ctx) (cause : Nat) (s : State) : Res :=
  .held (faultAt k (k.report 4 cause .stops (k.first s) .form) s)

/-- A word that R56 makes illegal. -/
def illegalRes (k : Ctx) (s : State) : Res := .held (illegal k s)

/-- Move the wave to its new path, if R56 lets it go on there (log entry 12). -/
def go (k : Ctx) (s : State) (x : Wave) : Res :=
  if x.retired || k.inside x.pc.toNat then .moved (s.respill k.c k.w x) else illegalRes k s

/-- The target of a layout B word. -/
def BF.target (f : BF) (x : Wave) : Word := x.pc + 8 * f.off

/-- Whether a branch offset stays within 32 bits: an offset that leaves them lies outside every version. -/
def BF.reach (f : BF) (x : Wave) : Bool :=
  let t : Int := x.pc.toNat + 8 * f.off.toInt
  0 ≤ t && t < 2 ^ 32

/-- R61: COND against zero. -/
def condMet (c : BitVec 4) (x : Int) : Bool :=
  match c.toNat with
  | 0 => true
  | 1 => x == 0
  | 2 => x != 0
  | 3 => x < 0
  | 4 => 0 ≤ x
  | 5 => 0 < x
  | _ => x ≤ 0

/-- Branch the lanes `t` of a threaded wave to a target (R174, R56, R172). -/
def branchLanes (k : Ctx) (s : State) (x : Wave) (t : Word) (target : Word) (ok : Bool) : Res :=
  let f := x.mask &&& ~~~t
  if t != 0 && !(ok && k.inside target.toNat) then illegalRes k s
  else if (t == 0 || f != 0) && !k.inside (x.pc.toNat + 8) then illegalRes k s
  else if t != 0 && f != 0 && 256 ≤ x.dstack.length then stackFault k 1 s
  else go k s (x.split t target)

/-- Branch the whole path or stream, when `taken` (R174, R179). -/
def branchAll (k : Ctx) (s : State) (x : Wave) (taken : Bool) (target : Word) (ok : Bool) : Res :=
  if k.vec then
    if taken then
      if ok && k.inside target.toNat then go k s { x with pc := target } else illegalRes k s
    else go k s { x with pc := x.pc + 8 }
  else branchLanes k s x (if taken then x.mask else 0) target ok

/-! ### Branches (R174, R179) -/

def brOp (f : BF) (k : Ctx) (s : State) : Res :=
  branchAll k s k.wv (f.cond == 0 || condMet f.cond (k.wv.rdS f.a.toNat).toInt) (BF.target f k.wv) (BF.reach f k.wv)

def execBr (f : BF) (s : State) : Out := issueCore (.br f) s (brOp f)

def brmOp (f : BF) (k : Ctx) (s : State) : Res :=
  branchLanes k s k.wv (k.act f.pm f.pn k.w k.wv) (BF.target f k.wv) (BF.reach f k.wv)

def execBrm (f : BF) (s : State) : Out := issueCore (.brm f) s (brmOp f)

def brsOp (f : BF) (k : Ctx) (s : State) : Res :=
  let a := k.act f.pm f.pn k.w k.wv
  let t : Word := (List.range 32).foldl (fun m l =>
    if a.getLsbD l && condMet f.cond (k.wv.rdV f.a.toNat l).toInt then setBit m l true else m) 0
  branchLanes k s k.wv t (BF.target f k.wv) (BF.reach f k.wv)

def execBrs (f : BF) (s : State) : Out := issueCore (.brs f) s (brsOp f)

def loopOp (f : BF) (k : Ctx) (s : State) : Res :=
  let v := k.wv.rdS f.a.toNat - 1
  branchAll k s (k.wv.wrS f.a.toNat v) (condMet f.cond v.toInt) (BF.target f k.wv) (BF.reach f k.wv)

def execLoop (f : BF) (s : State) : Out := issueCore (.loop f) s (loopOp f)

/-! ### Regions (R175) -/

def rcvOp (f : BF) (k : Ctx) (s : State) : Res :=
  let x := k.wv
  if 256 ≤ x.dstack.length then stackFault k 1 s
  else go k s { x with
    pc := x.pc + 8, dstack := ⟨.reconv, 0, x.mask, x.rstack.length, BF.target f x, 0⟩ :: x.dstack }

def execRcv (f : BF) (s : State) : Out := issueCore (.rcv f) s (rcvOp f)

def joinOp (k : Ctx) (s : State) : Res :=
  let x := k.wv
  let r := innermost x.dstack
  match r.2 with
  | e :: t =>
    if e.pc != x.pc || e.rdepth != x.rstack.length then stackFault k 5 s
    else match popPath r.1 with
      | some (p, l) => go k s { x.follow p.pc p.mask with dstack := l ++ r.2 }
      | none => go k s { x.follow (x.pc + 8) e.mask with dstack := r.1 ++ t }
  | [] => stackFault k 5 s

def execJoin (f : KF) (s : State) : Out := issueCore (.join f) s joinOp

/-! ### Calls (R176, R177) -/

/-- Call a target: push the return address and go there. -/
def callTo (k : Ctx) (s : State) (target : Word) (ok : Bool) : Res :=
  let x := k.wv
  if !(ok && k.inside target.toNat) then illegalRes k s
  else if 1024 ≤ x.rstack.length then stackFault k 2 s
  else go k s { x with pc := target, rstack := ⟨x.pc + 8, x.dstack.length, false⟩ :: x.rstack }

def execCall (f : BF) (s : State) : Out :=
  issueCore (.call f) s (fun k s => callTo k s (BF.target f k.wv) (BF.reach f k.wv))

/-- The S operand of CALLX and JMPX: bits 31 to 0 of S[B]. -/
def sTarget (f : KF) (k : Ctx) : Word := (opS f k.wv).extractLsb' 0 32

def execCallxS (f : KF) (s : State) : Out :=
  issueCore (.callxS f) s (fun k s => callTo k s (sTarget f k) true)

def execJmpxS (f : KF) (s : State) : Out :=
  issueCore (.jmpxS f) s (fun k s => branchAll k s k.wv true (sTarget f k) true)

/-- The active lanes of the current path. -/
def actLanes (f : KF) (k : Ctx) : Word := k.act f.pm f.pn k.w k.wv

/-- R177: every target of an active lane is a word of the version. -/
def targetsOk (f : KF) (k : Ctx) : Bool :=
  (List.range 32).all (fun l => !(actLanes f k).getLsbD l || k.inside (k.wv.rdV (KF.A f) l).toNat)

def callxOp (f : KF) (k : Ctx) (s : State) : Res :=
  let x := k.wv
  let g := actLanes f k
  let rest := x.mask &&& ~~~g
  if (g == 0 || rest != 0) && !k.inside (x.pc.toNat + 8) then illegalRes k s
  else if g == 0 then go k s { x with pc := x.pc + 8 }
  else if !targetsOk f k then illegalRes k s
  else if 256 ≤ x.dstack.length then stackFault k 1 s
  else if 1024 ≤ x.rstack.length then stackFault k 2 s
  else go k s (x.nextGroup ⟨.callx, g, x.mask, x.rstack.length, x.pc + 8, KF.A f⟩ x.dstack)

def execCallxV (f : KF) (s : State) : Out := issueCore (.callxV f) s (callxOp f)

/-- The distinct targets of the active lanes, ascending, with their lanes. -/
def groupTargets (f : KF) (k : Ctx) : SMap Word :=
  ((List.range 32).filter (fun l => (actLanes f k).getLsbD l)).foldl (fun m l =>
    let t := (k.wv.rdV (KF.A f) l).toNat
    SMap.set m 0 t (setBit (SMap.get m 0 t) l true)) []

def jmpxOp (f : KF) (k : Ctx) (s : State) : Res :=
  let x := k.wv
  let g := actLanes f k
  let rest := x.mask &&& ~~~g
  if (g == 0 || rest != 0) && !k.inside (x.pc.toNat + 8) then illegalRes k s
  else if !targetsOk f k then illegalRes k s
  else
    let r := x.rstack.length
    match groupTargets f k with
    | [] => go k s { x with pc := x.pc + 8 }
    | (t0, m0) :: more =>
      let st := if rest == 0 then x.dstack else ⟨.path, 0, rest, r, x.pc + 8, 0⟩ :: x.dstack
      let st := more.reverse.foldl (fun st p => ⟨.path, 0, p.2, r, BitVec.ofNat 32 p.1, 0⟩ :: st) st
      if 256 < st.length then stackFault k 1 s
      else
        let y := { x.follow (BitVec.ofNat 32 t0) m0 with dstack := st }
        go k s (if t0 ≤ x.pc.toNat && rest == 0 && more.isEmpty then y.rotate else y)

def execJmpxV (f : KF) (s : State) : Out := issueCore (.jmpxV f) s (jmpxOp f)

def retOp (k : Ctx) (s : State) : Res :=
  let x := k.wv
  match x.rstack with
  | [] => stackFault k 3 s
  | r :: rs =>
    if r.depth != x.dstack.length then stackFault k 4 s
    else
      let y := { x with rstack := rs }
      if r.group then
        match x.dstack with
        | e :: t =>
          if e.pend != 0 then go k s (y.nextGroup e t)
          else if e.mask == 0 then go k s { y with dstack := t }.resume
          else go k s { y.follow e.pc e.mask with dstack := t }
        | [] => stackFault k 4 s
      else go k s { y with pc := r.pc }

def execRet (f : KF) (s : State) : Out := issueCore (.ret f) s retOp

/-! ### NOP, YIELD, PREFI, IFENCE (R180, R181) -/

def execNop (f : KF) (s : State) : Out := issueCore (.nop f) s (fun _ s => .done s)

/-- R180: `settle` makes the wave the youngest. -/
def yieldOp (k : Ctx) (s : State) : Res :=
  let x := { k.wv with pc := k.wv.pc + 8 }
  .moved (s.respill k.c k.w (if k.vec then x else x.rotate))

def execYield (f : KF) (s : State) : Out := issueCore (.yield f) s yieldOp

/-- R180: bring a line of the version in; never a fault. -/
def prefiOp (f : BF) (k : Ctx) (s : State) : State :=
  if BF.reach f k.wv && k.inside (BF.target f k.wv).toNat then
    (s.fetchLine k.cluster k.asid (k.codeVa (BF.target f k.wv).toNat / 128)).1
  else s

def execPrefi (f : BF) (s : State) : Out := issueCore (.prefi f) s (fun k s => .done (prefiOp f k s))

/-- R181: wait until the wave's stores are performed at DEVICE scope, then drop the core's instruction cache. -/
def ifenceOp (k : Ctx) (s : State) : Res :=
  if (s.cluster k.cluster).stores.any (fun p => k.waves.contains p.wave && !p.loc.rmt) then .wait .memory s
  else .done (s.modCluster k.cluster (fun c => { c with icache := [] }))

def execIfence (f : KF) (s : State) : Out := issueCore (.ifence f) s ifenceOp

end Sys2Proof.Machine
end

