-- ==== Sys2Proof/Machine/Loader.lean ====
section
/-! DEFINITION. The paddock loader (R80 to R82, R301, R310, R311, R320, R322, R332, R357, R368): the checks of a whole
paddock image before any cell is written, and the record of a refusal. -/

namespace Sys2Proof.Machine

/-! ### One word by itself (R80) -/

/-- The fields of a word of a node class with an assigned operation, whatever the fields hold. -/
def rawNode (w : BitVec 64) : Option Instr :=
  let op : BitVec 8 := w.extractLsb' 52 8
  let t (lo : Nat) : Option Tgt := (Decode.target (w.extractLsb' lo 9)).getD none
  match fld w 63 60 with
  | 0 | 1 | 2 => some (.arithNodeFire
      ⟨w.extractLsb' 60 2, op, w.extractLsb' 50 2, w.getLsbD 49, w.getLsbD 48, t 39, t 30, w.extractLsb' 0 30⟩)
  | 12 => Decode.ndRow op ⟨t 39, t 30, w.extractLsb' 24 6, w.extractLsb' 0 24⟩
  | 13 => Decode.nmRow op ⟨w.extractLsb' 49 3, w.getLsbD 48, w.extractLsb' 44 4, t 35, w.extractLsb' 27 8,
      w.extractLsb' 19 8, w.extractLsb' 11 8, w.extractLsb' 0 11⟩
  | 14 => Decode.ncRow op ⟨t 39, t 30, w.extractLsb' 24 6, w.extractLsb' 16 8, w.extractLsb' 0 16⟩
  | _ => none

/-- The least word-local reason code of a word, or 0. -/
def wordCode (w : BitVec 64) : Nat :=
  match Decode.node w with
  | .ok _ => 0
  | .error .unassignedClass => 1
  | .error e =>
    match rawNode w with
    | none => 2
    | some i =>
      let own := (nodeCode i).getD 3
      if e == .badFields then own else min own 3

/-! ### A word in its paddock -/

/-- A node with its block and slot. -/
structure NodeAt where
  blk : Nat
  slot : Nat
  i : Instr
  deriving DecidableEq, Repr

/-- The words of a paddock with their places, in order. -/
def padWords (bs : List (List (BitVec 64))) : List (Nat × Nat × BitVec 64) :=
  ((List.range bs.length).zip bs).flatMap (fun b => ((List.range b.2.length).zip b.2).map (fun t => (b.1, t.1, t.2)))

/-- The node that a word is, well formed or not: its class and operation are assigned. -/
def wordNode (w : BitVec 64) : Option Instr :=
  match Decode.node w with
  | .ok i => some i
  | .error _ => if wordCode w = 1 || wordCode w = 2 then none else rawNode w

/-- The nodes of a paddock; one whose word is refused still has its ports and its links. -/
def padNodes (bs : List (List (BitVec 64))) : List NodeAt :=
  (padWords bs).filterMap (fun w => (wordNode w.2.2).map (fun i => ⟨w.1, w.2.1, i⟩))

/-- What the loader knows: the kernel, the paddock's number and words, and the mode of its place. -/
structure LoadCtx where
  kn : Kernel
  pad : Nat
  bs : List (List (BitVec 64))
  nodes : List NodeAt
  sys : Bool
  deriving DecidableEq, Repr

def loadCtx (kn : Kernel) (pad : Nat) (sys : Bool) : LoadCtx :=
  let bs := kn.paddocks.getD pad []
  ⟨kn, pad, bs, padNodes bs, sys⟩

def LoadCtx.size (k : LoadCtx) (b : Nat) : Nat := (k.bs.getD b []).length

def LoadCtx.at? (k : LoadCtx) (b t : Nat) : Option Instr :=
  (k.nodes.find? (fun n => n.blk == b && n.slot == t)).map (fun n => n.i)

/-- The SEQ, PRED, SUCC and SITE of a chained node. -/
def chainedOf : Instr → Option NMF
  | .cld n | .cst n | .catom n | .mnop n => some n
  | _ => none

/-- The nodes of class 13: the image's table must hold the SITE of each (R67). -/
def sitedOf : Instr → Option NMF
  | .cld n | .cst n | .catom n | .mnop n | .fld n | .fst n | .cfence n => some n
  | _ => none

/-- The entry node that an instruction is: the block it enters, its width, and whether it is a LENTER. -/
def entryOf : Instr → Option (NDF × Bool)
  | .lenter n => some (n, true)
  | .calln n => some (n, false)
  | _ => none

/-- The blocks that the loop E of block `b` was entered from. -/
def LoadCtx.parents (k : LoadCtx) (b : Nat) (e : Bool) : List NodeAt :=
  k.nodes.filter (fun n => match n.i with
    | .lenter m => ndBlk m == b && ndE m == e
    | _ => false)

/-- The blocks that call block `b`, with their CALLN nodes. -/
def LoadCtx.callers (k : LoadCtx) (b : Nat) : List (Nat × NDF) :=
  k.nodes.filterMap (fun n => match n.i with
    | .calln m => if ndBlk m == b then some (n.blk, m) else none
    | _ => none)

def ndRslot (n : NDF) : Nat := fld n.imm 6 0
def ndIdx (n : NDF) : Nat := fld n.imm 23 19

/-- The slots in other frames that a node sends to through DEST. -/
def LoadCtx.dests (k : LoadCtx) (n : NodeAt) : List (Nat × Nat) :=
  match n.i with
  | .lenter m | .calln m => [(ndBlk m, ndDest m)]
  | .lnext m => [(n.blk, ndDest m)]
  | .lexit m => (k.parents n.blk (ndE m)).map (fun p => (p.blk, ndDest m))
  | .retn m => (k.callers n.blk).map (fun c => (c.1, ndRslot c.2 + ndDest m))
  | _ => []

/-- Code 4 (R80, R301): a target, DEST or BLK outside its block or paddock. RETN is tested as it fires (R297). -/
def LoadCtx.code4 (k : LoadCtx) (n : NodeAt) : Bool :=
  let out (t : Option Tgt) : Bool := match t with
    | some t => k.size n.blk ≤ t.slot.toNat
    | none => false
  let far : Bool := match n.i with
    | .retn _ => false
    | _ => (k.dests n).any (fun d => k.size d.1 ≤ d.2)
  out (nodeTargets n.i).1 || out (nodeTargets n.i).2 || far

/-- R287: the node has one operand; a JOINC, which counts, is none of these. -/
def oneOperand (i : Instr) : Bool :=
  match i with
  | .joinc _ => false
  | _ => !twoOperand i

/-- Code 8: a target that names the R port of a node of one operand (R106, R123, R147, R301). -/
def LoadCtx.badPort (k : LoadCtx) (n : NodeAt) : Bool :=
  let bad (t : Option Tgt) : Bool := match t with
    | some t => t.port && (match k.at? n.blk t.slot.toNat with
        | some i => oneOperand i
        | none => false)
    | none => false
  bad (nodeTargets n.i).1 || bad (nodeTargets n.i).2

/-- Code 8: loops and calls that do not agree (R301), and EQPN (R301, R368). -/
def LoadCtx.badNd (k : LoadCtx) (n : NodeAt) : Bool :=
  let others : List NodeAt := k.nodes.filter (fun m => m.blk == n.blk)
  match n.i with
  | .lenter x => others.any (fun m => match m.i with
      | .lenter y => ndE y == ndE x && (y.w != x.w || fld y.imm 7 0 != fld x.imm 7 0 || ndBlk y != ndBlk x)
      | _ => false)
  | .lnext x | .lexit x => (k.parents n.blk (ndE x)).any (fun p => match p.i with
      | .lenter y => y.w != x.w
      | _ => false)
  | .calln x => k.size n.blk ≤ ndRslot x || others.any (fun m => match m.i with
      | .calln y => ndIdx y == ndIdx x && ndBlk y == ndBlk x && (y.w != x.w || ndRslot y != ndRslot x)
      | _ => false)
  | .eqpn x => n.blk != 0 || !k.kn.eqps.any (fun e => e.n == fld x.imm 11 0)
  | _ => false

/-- R311, R312: whether access `y` may follow access `x` on a path of their block. -/
def chainLink (x y : NMF) : Bool :=
  (x.succ == y.seq || x.succ == 0xFF) && (y.pred == x.seq || y.pred == 0xFF)

/-- The accesses of a list from which a set of them is left, or reached, by links, in `n` rounds. -/
def chainSpread (link : NMF → NMF → Bool) (ch : List NMF) : Nat → List NMF → List NMF
  | 0, l => l
  | n + 1, l => chainSpread link ch n (ch.filter (fun y => l.contains y || l.any (fun x => link x y)))

/-- R311: an access that no path from a first access of the block reaches, or from which no path reaches a last one. -/
def chainLoose (ch : List NMF) (x : NMF) : Bool :=
  !(chainSpread chainLink ch ch.length (ch.filter (fun y => y.pred == 0xFE))).contains x
    || !(chainSpread (fun a b => chainLink b a) ch ch.length (ch.filter (fun y => y.succ == 0xFE))).contains x

/-- Code 8: chains (R310, R311). -/
def LoadCtx.badChain (k : LoadCtx) (n : NodeAt) : Bool :=
  let others : List NodeAt := k.nodes.filter (fun m => m.blk == n.blk)
  let holds : Bool := k.nodes.any (fun m => (chainedOf m.i).isSome)
  let ch : List (Nat × NMF) := others.filterMap (fun m => (chainedOf m.i).map (fun c => (m.slot, c)))
  match chainedOf n.i with
  | some x =>
    16 ≤ k.pad || !k.kn.chains.any (fun c => c.1 == k.pad)
      || ch.any (fun c => c.1 != n.slot && c.2.seq == x.seq)
      || (x.pred.toNat < 0xFE && !ch.any (fun c => c.2.seq == x.pred))
      || (x.succ.toNat < 0xFE && !ch.any (fun c => c.2.seq == x.succ))
      || chainLoose (ch.map Prod.snd) x
  | none => match entryOf n.i with
    | some (x, lp) => holds && others.any (fun m => match entryOf m.i with
        | some (y, lq) => lp != lq || (if lp then ndE x != ndE y else ndBlk x != ndBlk y || ndIdx x != ndIdx y)
        | none => false)
    | none => false

/-- How a node of class 14 uses a buffer that it names by number: the cell, the buffer, and 0 random, 1 FIFO or 2 matrix
with the element size. -/
def bufUse : Instr → Option (Nat × Nat × Nat × Nat)
  | .mcld n | .mcst n => if ncRing n then none else some (n.mc.toNat, n.buf.toNat, 0, fld n.arg 1 0)
  | .mcenq n | .mcdeq n => if ncRing n then none else some (n.mc.toNat, n.buf.toNat, 1, fld n.arg 1 0)
  | .mxj n | .mxout n => some (n.mc.toNat, n.buf.toNat, 2, 0)
  | _ => none

/-- The output buffer of an MXOUT, which it names too. -/
def bufUse2 : Instr → Option (Nat × Nat × Nat × Nat)
  | .mxout n => some (n.mc.toNat, fld n.arg 12 9, 2, 0)
  | _ => none

def bufUses (i : Instr) : List (Nat × Nat × Nat × Nat) := (bufUse i).toList ++ (bufUse2 i).toList

/-- Code 8: one buffer named both ways or with two element sizes (R322, R357), and MXJ or MXOUT in a dataflow place. -/
def LoadCtx.badBuf (k : LoadCtx) (n : NodeAt) : Bool :=
  let clash (a b : Nat × Nat × Nat × Nat) : Bool :=
    a.1 == b.1 && a.2.1 == b.2.1 &&
      (if a.2.2.1 == 2 || b.2.2.1 == 2 then a.2.2.1 == 1 || b.2.2.1 == 1
       else a.2.2.1 != b.2.2.1 || a.2.2.2 != b.2.2.2)
  let mx : Bool := match n.i with
    | .mxj _ | .mxout _ => !k.sys
    | _ => false
  mx || (bufUses n.i).any (fun a => k.nodes.any (fun m => (bufUses m.i).any (clash a)))

/-- Code 8: a free node whose site has no range (R320). -/
def badFree : Instr → Bool
  | .fld n | .fst n => 128 ≤ n.site.toNat
  | _ => false

/-- The least reason code of a node that decodes, or 0. -/
def LoadCtx.nodeCodes (k : LoadCtx) (n : NodeAt) : Nat :=
  if k.code4 n then 4
  else if (match sitedOf n.i with | some m => !k.kn.sites.any (fun d => d.site == m.site.toNat) | none => false) then 7
  else if k.badPort n || k.badNd n || k.badChain n || k.badBuf n || badFree n.i then 8
  else 0

/-- The lesser of two codes, where 0 is none. -/
def lesserCode (a b : Nat) : Nat := if a = 0 then b else if b = 0 then a else min a b

/-- The refused word of the lowest block and slot, with its code: the least of all that it matches (log entry 44). -/
def LoadCtx.badWord (k : LoadCtx) : Option (Nat × Nat × Nat) :=
  (padWords k.bs).findSome? (fun w =>
    let c := lesserCode (wordCode w.2.2) (match k.at? w.1 w.2.1 with
      | some i => k.nodeCodes ⟨w.1, w.2.1, i⟩
      | none => 0)
    if c = 0 then none else some (w.1, w.2.1, c))

/-! ### Declared ranges (R320) -/

/-- The nodes that a node reaches in one step. -/
def LoadCtx.nextOf (k : LoadCtx) (b t : Nat) : List (Nat × Nat) :=
  match k.at? b t with
  | some i =>
    let tg (x : Option Tgt) : List (Nat × Nat) := (x.map (fun y => (b, y.slot.toNat))).toList
    tg (nodeTargets i).1 ++ tg (nodeTargets i).2 ++ k.dests ⟨b, t, i⟩
  | none => []

/-- Every node reached from a set. -/
def LoadCtx.closure (k : LoadCtx) : Nat → List (Nat × Nat) → List (Nat × Nat)
  | 0, l => l
  | n + 1, l =>
    let more := ((l.flatMap (fun p => k.nextOf p.1 p.2)).filter (fun p => !l.contains p)).eraseDups
    if more.isEmpty then l else k.closure n (l ++ more)

def LoadCtx.reaches (k : LoadCtx) (a b : NodeAt) : Bool :=
  (k.closure 1024 (k.nextOf a.blk a.slot)).contains (b.blk, b.slot)

/-- A range and its RACEOK; a chained node's is the whole address space. -/
def rangeOf (args : Memory) (i : Instr) : Option (Nat × Nat × Bool) :=
  match i with
  | .cld _ | .cst _ | .catom _ | .mnop _ => some (0, 2 ^ 64, false)
  | .fld n | .fst n =>
    let o := 0x800 + 16 * n.site.toNat
    let d1 := Memory.le args (o + 8) 8
    some (Memory.le args o 8, bits d1 54 0, bit d1 63)
  | _ => none

/-- A free writer (R320). -/
def isFst : Instr → Bool
  | .fst _ => true
  | _ => false

/-- The conflicts of a free writer, each pair once, at its lower writer (R81): whether each is accepted by both records. -/
def LoadCtx.conflicts (k : LoadCtx) (args : Memory) (w : NodeAt) : List Bool :=
  match rangeOf args w.i with
  | none => []
  | some r => k.nodes.filterMap (fun m =>
      if m.blk == w.blk && m.slot == w.slot || (isFst m.i && (m.blk < w.blk || (m.blk == w.blk && m.slot < w.slot))) then none
      else match rangeOf args m.i with
        | some q =>
          if max r.1 q.1 < min r.2.1 q.2.1 && !k.reaches w m && !k.reaches m w then some (r.2.2 && q.2.2) else none
        | none => none)

def LoadCtx.writers (k : LoadCtx) : List NodeAt :=
  k.nodes.filter (fun n => isFst n.i)

/-! ### The verdict (R81) -/

/-- WLIM of a slot of a slice port. -/
def Cluster.wlimAt (c : Cluster) (slot : Nat) : BitVec 32 := SMap.get c.wlim 0x04000000 slot
def Cluster.wcap (c : Cluster) (slot : Nat) : Nat := fld (c.wlimAt slot) 26 16
def Cluster.wmin (c : Cluster) (slot : Nat) : Nat := fld (c.wlimAt slot) 10 0

/-- The declared depth of a paddock's chain. -/
def Kernel.depth? (kn : Kernel) (pad : Nat) : Option Nat := (kn.chains.find? (fun c => c.1 == pad)).map Prod.snd

/-- A refusal, or an acceptance that R320 records: reason code, block, slot, site. -/
structure LoadNote where
  code : Nat
  blk : Nat
  slot : Nat
  site : Option Nat
  deriving DecidableEq, Repr

/-- R313: the declared depth of a paddock's chain exceeds the WCAP of every slot. -/
def Kernel.tooDeep (kn : Kernel) (cl : Cluster) (pad : Nat) : Bool :=
  match kn.depth? pad with
  | some d => (List.range 16).all (fun s => cl.wcap s < d)
  | none => false

/-- The refusal of a paddock image, if there is one. `cl` is the cluster of the crew, `sys` the mode of the place. A refused
word is named before code 10, and code 10 before code 11 (log entry 44). -/
def loadRefusal (kn : Kernel) (args : Memory) (cl : Cluster) (pad : Nat) (sys : Bool) : Option LoadNote :=
  let k := loadCtx kn pad sys
  match k.badWord with
  | some w => some ⟨w.2.2, w.1, w.2.1, none⟩
  | none =>
    if kn.tooDeep cl pad then some ⟨10, 0, 0, none⟩ else ranges k
where
  ranges (k : LoadCtx) : Option LoadNote :=
    (k.writers.find? (fun w => (k.conflicts args w).any (fun ok => !ok))).map (fun w =>
      ⟨11, w.blk, w.slot, (sitedOf w.i).map (fun n => n.site.toNat)⟩)

/-- R320: the overlaps that both records accept, one note for each pair. -/
def loadNotes (kn : Kernel) (args : Memory) (pad : Nat) (sys : Bool) : List LoadNote :=
  let k := loadCtx kn pad sys
  k.writers.flatMap (fun w => (k.conflicts args w).map (fun _ =>
    ⟨11, w.blk, w.slot, (sitedOf w.i).map (fun n => n.site.toNat)⟩))

/-- R81: the record of a note. -/
def State.configRecord (s : State) (launch cl : Nat) (pad : Nat) (st : RStatus) (n : LoadNote) : State :=
  match s.launch? launch with
  | some l => (s.raise l.asid
      { kind := 9, cause := n.code, form := 2, status := st, launch := launch, cluster := cl, paddock := pad
        blk := n.blk, slot := n.slot, site := n.site }).1
  | none => s

/-! ### Weir slots (R313) -/

/-- The chains bound at a slice port, each with its slot and depth. -/
def State.bound (s : State) (cl : Nat) : List (Nat × Nat) :=
  s.crews.flatMap (fun q => if q.2.cluster == cl then q.2.chains.map (fun ch => (ch.slot, ch.depth)) else [])

/-- The slot that a chain of depth `d` can bind to. -/
def State.weirSlot (s : State) (cl d : Nat) : Option Nat :=
  let b := s.bound cl
  let c := s.cluster cl
  let used := (b.map (fun x => max (c.wmin x.1) x.2)).sum
  (List.range 16).find? (fun i => !b.any (fun x => x.1 == i) && d ≤ c.wcap i && used + max (c.wmin i) d ≤ 1024)

/-- Whether the chain of a paddock is bound, or needs no slot. -/
def chainReady (x : Crew) (kn : Kernel) (pad : Nat) : Bool :=
  (kn.depth? pad).isNone || x.chains.any (fun ch => ch.paddock == pad)

/-- Bind the chain of a paddock; no answer when no slot can. -/
def State.bindChain (s : State) (c : CrewId) (kn : Kernel) (pad : Nat) : Option State :=
  match s.crew? c with
  | none => none
  | some x =>
    if chainReady x kn pad then some s
    else match kn.depth? pad with
      | none => some s
      | some d => (s.weirSlot x.cluster d).map (fun i =>
          s.modCrew c (fun y => { y with chains := y.chains ++ [⟨pad, i, d, .idle, none, [], []⟩] }))

end Sys2Proof.Machine
end

