-- ==== Sys2Proof/Machine/Fab.lean ====
section
/-! DEFINITION. Regions, places and paddocks: granting (R257, R258, R260), loading and draining (R264, R270, R276), swapping
(R263), and class 7 (R272 to R282). -/

namespace Sys2Proof.Machine

/-! ### Free places (R257, R258) -/

/-- The contexts of a bay that no place holds; a gated cluster has none. -/
def State.freeCtx (s : State) (slice bay : Nat) : List Nat :=
  if (s.cluster slice).isOff then []
  else
    let used := (s.bayPlaces slice bay).map (fun q => q.2.2.ctx)
    (List.range 4).filter (fun x => !used.contains x)

/-- The free places of a slice. -/
def State.freePlaces (s : State) (slice : Nat) : List (Nat × Nat × Nat) :=
  (List.range 16).flatMap (fun b => (s.freeCtx slice b).map (fun x => (slice, b, x)))

/-- A place as it is granted. -/
def Place.fresh (spot : Nat × Nat × Nat) (prio : Nat) : Place :=
  { slice := spot.1, bay := spot.2.1, ctx := spot.2.2, sys := false, state := .free, draining := false, drainHere := 0
    passed := 0, paddock := 0, fprio := prio, edge := 0, frames := [], ready := [], fired := 0, mcells := [], admitted := []
    bwCap := 0, bwFull := [], parked := [], next := [], named := 0 }

/-- Choose `n` free places for a crew of a slice; which they are is a free value within R258's bounds. -/
def State.choosePlaces (s : State) (slice n : Nat) (loc : Bool) : Option (List (Nat × Nat × Nat)) × State :=
  let own := s.freePlaces slice
  if n ≤ own.length then
    let r := shuffle own.length own s
    (some (r.1.take n), r.2)
  else if loc then (none, s)
  else
    let rest := ((List.range 104).filter (fun c => c != slice)).flatMap s.freePlaces
    if own.length + rest.length < n then (none, s)
    else
      let r := shuffle rest.length rest s
      (some (own ++ r.1.take (n - own.length)), r.2)

/-- A region handle that no crew of the cluster has; which one is a free value. -/
def State.freeHandle (s : State) (cl : Nat) : Nat × State :=
  let used := s.crews.filterMap (fun q => if q.2.cluster == cl then q.2.region.map (fun r => r.handle) else none)
  let n := s.fresh.1
  let c := (List.range (used.length + 1)).map (fun i => (n + i) % 65535 + 1)
  ((c.find? (fun i => !used.contains i)).getD 1, s.fresh.2)

/-- R261: the device sets the ceilings of granted places to the crew's priority. -/
def State.setCeils (s : State) (ps : List (Nat × Nat × Nat)) (prio : Nat) : State :=
  ps.foldl (fun s p => s.modCluster p.1 (fun c => { c with fceil := SMap.set c.fceil 15 (4 * p.2.1 + p.2.2) prio })) s

/-- How a request for a region ends: no room; a cell has still to give up units; or the handle. -/
inductive Grant where
  | noRoom
  | blocked (o : Out)
  | ok (h : Nat) (s : State)

/-- R257: the units that places reserve are secured in their bays. -/
def secureSpots : List (Nat × Nat × Nat) → State → UnitRes
  | [], s => .ok s
  | p :: t, s =>
    match secureCells p.1 p.2.1 0 computeCells s with
    | .ok u => secureSpots t u
    | r => r

/-- Grant a region. -/
def State.grant (s : State) (c : CrewId) (x : Crew) (n : Nat) (loc given : Bool) : Grant :=
  match s.choosePlaces x.cluster n loc with
  | (some ps, t) =>
    let h := t.freeHandle x.cluster
    let t := (h.2.setCeils ps x.prio).modCrew c (fun x => { x with
      region := some ⟨h.1, n, ps.map (fun p => Place.fresh p x.prio), loc, given⟩ })
    match secureSpots ps t with
    | .ok u => .ok h.1 u
    | .full d j f => .blocked (s.bwOwn d j f)
    | .none_ => .blocked (.refused (.notEnabled "a cell has no frame that can be evicted"))
  | (none, _) => .noRoom

/-! ### Loading (R259, R276) -/

/-- Note the rounds whose injections still wait for a paddock, in the chain that has been bound for it (R312). -/
def State.noteRoots (s : State) (c : CrewId) (pad : Nat) : State :=
  match s.crew? c with
  | some x =>
    let waits (r : Round) : Bool :=
      (x.flight ++ x.parks.map (fun p => p.flit)).any (fun f => match f with
        | .entry e => e.paddock == pad && e.round == r.id
        | _ => false)
    (x.rounds.filter (fun r => r.paddock == pad && r.open_ && waits r)).foldl (fun s r =>
      if (s.actOf c pad r.id 0 (rootTag r.iter)).isSome then s
      else s.newAct c pad r.id 0 (rootTag r.iter) none false) s
  | none => s

/-- Accept the load of a paddock into place `i`, behind those that the place has accepted: its chain binds, the loader goes
to work, and the paddock has not exited any more (R264). -/
def State.acceptLoad (s : State) (c : CrewId) (kn : Kernel) (i pad : Nat) (edge : Dword) : Option State :=
  (s.bindChain c kn pad).map (fun t =>
    ((t.noteRoots c pad).modPlace c i (fun p => { p with
      next := p.next ++ [⟨pad, edge, false⟩], state := if p.state == .free then .loading else p.state })).modCrew c (fun x =>
        { x with exits := x.exits.filter (fun a => a != pad) }))

/-- Parked flits leave for place `i`, in the order they were parked, before what is under way (R264, R265). -/
def State.deliverParks (s : State) (c : CrewId) (i : Nat) (pick : Park → Bool) : State :=
  s.modCrew c (fun x => { x with
    flight := (x.parks.filter pick).map (fun k => k.flit.relay (some i)) ++ x.flight
    parks := x.parks.filter (fun k => !pick k) })

/-- R268: the clocks of the rows of a bay run. -/
def State.startRows (s : State) (slice bay : Nat) : State :=
  s.modCluster slice (fun c => { c with
    rowsOn := (List.range 4).foldl (fun m r => SMap.set m false (4 * bay + r) true) c.rowsOn })

/-- The number that a class 7 operation gives its place. -/
def FOp.onPlace (o : FOp) (i : Nat) : Bool :=
  match o.kind with
  | .fcfg _ b _ => b.toNat == i
  | .fdrain b => b.toNat == i
  | _ => false

def FOp.isLoad (o : FOp) : Bool := match o.kind with | .fcfg _ _ _ => true | _ => false
def FOp.isDrain (o : FOp) : Bool := match o.kind with | .fdrain _ => true | _ => false

/-- The accepted drains of what a place held are over. -/
def State.endDrains (s : State) (c : CrewId) (i : Nat) : State :=
  s.modCrew c (fun x => { x with fops := x.fops.map (fun o =>
    if o.accepted && o.later == 0 && o.onPlace i && o.isDrain then { o with ended := true } else o) })

/-- The FCFG of paddock `pad` into place `i`, as it stands while the load is under way. -/
def FOp.loads (o : FOp) (i pad : Nat) : Bool :=
  o.accepted && !o.ended && (match o.kind with | .fcfg a b _ => a.toNat == pad && b.toNat == i | _ => false)

/-- The load of paddock `pad` into place `i` is over, and drains of later loads have one load less to wait for. -/
def State.endLoad (s : State) (c : CrewId) (i pad : Nat) : State :=
  s.modCrew c (fun x =>
    let ops := match findAt x.fops (fun o => o.loads i pad) with
      | some q => x.fops.modify q.1 (fun o => { o with ended := true })
      | none => x.fops
    { x with fops := ops.map (fun o => if o.onPlace i then { o with later := o.later - 1 } else o) })

/-- R294: the backwater that firmware gives a load. -/
def State.bwFrames (s : State) (p : Place) : Nat := SMap.get (s.cluster p.slice).bwframes 16384 (4 * p.bay + p.ctx)

/-- A wave that no record about a drain token needs to name. -/
def noSpot : Spot := ⟨0, 0, 0, none, none⟩

/-- PADDOCK_LOAD_COMPLETE: every cell is written, and the map names the place. What an FDRAIN has drained already gets its
drain token now (R270), and a load accepted behind it goes on as its cells pass (R279). -/
def execPaddockLoadComplete (c : CrewId) (i : Nat) (s : State) : Out :=
  match (s.crew? c).bind (fun x => x.spot? i) with
  | some p =>
    match p.next with
    | n :: rest =>
      if p.state != .loading then .refused (.notEnabled "not every cell of the place is free or passed")
      else
        let s := s.modPlace c i (fun p => { p with
          state := .resident, draining := n.drain, drainHere := 0, passed := 0, paddock := n.paddock, edge := n.edge
          frames := [], ready := [], fired := s.now, mcells := [], admitted := [], bwCap := s.bwFrames p, bwFull := []
          parked := [], next := rest, named := s.now })
        let s := (s.startRows p.slice p.bay).deliverParks c i (fun k => k.place.isNone && k.paddock == n.paddock)
        let s := if n.drain then s.sendFlit c (.drain (.wave 0 0 noSpot) i) else s
        .next (s.endLoad c i n.paddock)
    | [] => .refused (.notEnabled "nothing loads into the place")
  | none => .refused (.notEnabled "no such place")

/-! ### The dispatcher's or a remount's region (R260) -/

/-- How giving a region ends: no room now, the loader refuses a paddock, or the region is given and its loads run. -/
inductive Given where
  | noRoom
  | refused (s : State)
  | ok (s : State)

/-- The paddocks for which a given region has places. -/
def Kernel.firstPads (kn : Kernel) : List Nat := List.range (min kn.paddocks.length 64)

/-- Bind the chains of paddocks (R313). -/
def State.bindAll (s : State) (c : CrewId) (kn : Kernel) : List Nat → Option State
  | [] => some s
  | i :: t => (s.bindChain c kn i).bind (fun u => u.bindAll c kn t)

/-- Accept the loads of paddocks into the places of their numbers. -/
def State.loadAll (s : State) (c : CrewId) (kn : Kernel) : List Nat → Option State
  | [] => some s
  | i :: t => (s.acceptLoad c kn i i 0).bind (fun u => u.loadAll c kn t)

/-- R320: records of accepted overlaps. -/
def State.acceptNotes (s : State) (c : CrewId) (cl : Nat) (kn : Kernel) (args : Memory) (pad : Nat) (sys : Bool) : State :=
  (loadNotes kn args pad sys).foldl (fun s n => s.configRecord c.launch cl pad .notice n) s

/-- Give a crew the places of R260 and the weir slots of the chains of some paddocks (R313). -/
def State.placeRegion (s : State) (c : CrewId) (chains : List Nat) : Option State :=
  match s.crew? c, s.kernel? c with
  | some x, some kn =>
    match s.grant c x kn.firstPads.length false true with
    | .ok _ t => t.bindAll c kn chains
    | _ => none
  | _, _ => none

/-- R81, R260: load the paddocks of a given region, or record every refusal among them; a refused image changes nothing, and
the crew holds its places. -/
def State.loadRegion (s : State) (c : CrewId) : Given :=
  match s.crew? c, s.launch? c.launch, s.kernel? c with
  | some x, some l, some kn =>
    let bad := kn.firstPads.filterMap (fun i =>
      (loadRefusal kn l.args (s.cluster x.cluster) i false).map (fun r => (i, r)))
    if bad.isEmpty then
      match s.loadAll c kn kn.firstPads with
      | some t => .ok (kn.firstPads.foldl (fun t i => t.acceptNotes c x.cluster kn l.args i false) t)
      | none => .noRoom
    else .refused (bad.foldl (fun s r => s.configRecord c.launch x.cluster r.1 .stops r.2) s)
  | _, _, _ => .noRoom

/-- Give a crew the region of R260 and load it. -/
def State.giveRegion (s : State) (c : CrewId) : Given :=
  match s.placeRegion c (((s.kernel? c).map Kernel.firstPads).getD []) with
  | some t => t.loadRegion c
  | none => .noRoom

/-- Available(2) of R375: the crew holds a region and the chains of its paddocks bind (R313), or it can be given one. -/
def State.spatialRoom (s : State) (c : CrewId) : Bool :=
  match s.crew? c, s.kernel? c with
  | some x, some kn =>
    if x.region.isSome then (s.bindAll c kn (List.range kn.paddocks.length)).isSome
    else (match s.giveRegion c with | .noRoom => false | _ => true)
  | _, _ => false

/-! ### The drain (R270, R271) -/

/-- R270: no frame, firing, token or held start of the context is left. Tokens on their way from the crew's waves do not
count, nor do those parked for a later load, which belong to no context (R264). -/
def Crew.quiet (x : Crew) (kn : Kernel) (i : Nat) (p : Place) : Bool :=
  p.frames.isEmpty && p.ready.isEmpty && p.parked.isEmpty
    && x.flight.all (fun f => match f.sender, f.relayed with
        | .wave _ _ _, false => true
        | _, _ => !f.boundFor x kn i)
    && x.parks.all (fun k => k.place != some i) && x.heldStarts.all (fun h => h.place != i)

/-- The cells of a bay that are memory cells, by number (R11). -/
def mcellOf (cell : Nat) : Option Nat := (findAt [1, 3, 4, 6, 9, 11, 12, 14] (fun c => c == cell)).map Prod.fst

/-- R270: a memory cell has finished every generator step and emptied its buffers. -/
def Place.mcellDone (p : Place) (mc : Nat) : Bool :=
  let m := p.mc mc
  m.gens.all (fun g => !g.2.running && (g.2.mode != 3 || g.2.queue.isEmpty)) && m.full == 0 && m.count.isEmpty

/-- R345: no pass that an MXJ of the place has injected is in flight. -/
def Crew.fedDone (x : Crew) (i : Nat) : Bool :=
  x.mx.all (fun t => match t.kind with
    | .feed f _ _ => f.place != i
    | _ => true)

/-- Every cell has passed: the paddock has exited, unless it is loaded again, or being loaded, in another place (R264). Its
chain gives its slot back once it holds no entry (R313). -/
def State.exitPaddock (s : State) (c : CrewId) (i : Nat) (p : Place) : State :=
  let s := s.modPlace c i (fun p => { p with
    state := if p.next.isEmpty then .free else .loading, draining := false, drainHere := 0, passed := 0, frames := []
    ready := [], mcells := [], paddock := 0, parked := [] })
  let s := s.modCrew c (fun x =>
    if (x.loading? p.paddock).isSome || (x.home? p.paddock).isSome || (x.swapped? p.paddock).isSome then x
    else { x.unbind p.paddock with exits := p.paddock :: x.exits.filter (fun a => a != p.paddock) })
  s.endDrains c i

/-- A cell that has passed returns its part of the place, with the units that it reserves (R257, R270). -/
def passCell (s : State) (c : CrewId) (i cell : Nat) (p : Place) : Out :=
  let passed := setBit p.passed cell true
  let t := s.modPlace c i (fun p => { p with passed := passed })
  let go (t : State) : Out := .next (if passed == BitVec.allOnes 16 then t.exitPaddock c i p else t)
  if computeCells.contains cell then (secureCell p.slice p.bay cell 0 43 t).orWait s go else go t

/-- CELL_PASS. -/
def execCellPass (c : CrewId) (i cell : Nat) (s : State) : Out :=
  match s.crew? c, s.kernel? c with
  | some x, some kn =>
    match x.spot? i with
    | some p =>
      if 16 ≤ cell || !p.draining || p.state != .resident || !p.drainHere.getLsbD cell || p.passed.getLsbD cell then
        .refused (.notEnabled "no drain token is at the cell")
      else if !x.quiet kn i p then .refused (.notEnabled "the place is not quiet")
      else if !x.fedDone i then .refused (.notEnabled "a pass that the paddock feeds is in flight")
      else if !(match mcellOf cell with | some m => p.mcellDone m | none => true) then
        .refused (.notEnabled "the memory cell is not done")
      else if x.rounds.any (fun r => r.paddock == p.paddock && !r.open_ && !r.committed) then
        .refused (.notEnabled "an ended round is not committed")
      else passCell s c i cell p
    | none => .refused (.notEnabled "no such place")
  | _, _ => .refused (.notEnabled "no such crew")

/-! ### Swapping (R263) -/

/-- The cluster that a running RETIRE operation retires (R445). -/
def State.retiring (s : State) (cl : Nat) : Bool :=
  (s.svcStat == .running || s.svcStat == .waitSys) && fld s.svcCmd 63 56 == 2 && fld s.svcCmd 55 48 == cl

/-- R263, R264: a swapped paddock whose resume is requested: tokens, or the drain token, wait for it. -/
def Crew.asked (x : Crew) (i : Nat) (p : Place) : Bool :=
  p.state == .swapped && (p.draining || x.parks.any (fun k => k.place == some i))

/-- The places of a region with their numbers. -/
def Region.numbered (r : Region) : List (Nat × Place) := (List.range r.places.length).zip r.places

/-- R260: a paddock that tokens wait for and that has never been placed. -/
def Crew.unseen (x : Crew) (pad : Nat) : Bool :=
  x.parks.any (fun k => k.place.isNone && k.paddock == pad) && (x.home? pad).isNone && (x.loading? pad).isNone
    && (x.swapped? pad).isNone

/-- R275: a place that holds a configuration or a load in progress. -/
def Place.live (p : Place) : Bool := p.state != .free || !p.next.isEmpty

/-- The lowest place of a region that is free, its paddock having exited, with its number. -/
def Region.freed (r : Region) : Option (Nat × Place) := r.numbered.find? (fun q => q.1 < r.granted && !q.2.live)

/-- The lowest place of a region that holds nothing, since its paddock is swapped out, with its number. -/
def Region.vacant (r : Region) : Option (Nat × Place) :=
  r.numbered.find? (fun q => q.1 < r.granted && q.2.state == .swapped && !q.2.draining)

/-- R276: a load that waits for its turn goes into a place whose paddock is swapped out. -/
def FOp.needsPlace (o : FOp) (r : Region) : Bool :=
  match o.kind with
  | .fcfg _ b _ => !o.accepted && b.toNat < r.granted && (match r.places[b.toNat]? with
    | some p => p.state == .swapped && !p.draining
    | none => false)
  | _ => false

/-- R263, case 1: a load of a region needs a context: a paddock is to resume, a paddock that was never placed is to take a
place that was swapped out (R260), or an FCFG names such a place. -/
def Crew.needsPlace (x : Crew) (r : Region) : Bool :=
  r.numbered.any (fun a => x.asked a.1 a.2)
    || (r.given && r.vacant.isSome && r.freed.isNone && x.parks.any (fun k => k.place.isNone && x.unseen k.paddock))
    || x.fops.any (fun o => o.needsPlace r)

/-- R263, case 1: a load that needs a context finds no free place that it may take, and a place of `slice` would serve it. -/
def State.fifth (s : State) (slice : Nat) : Bool :=
  s.crews.any (fun q => match q.2.region with
    | some r => q.2.needsPlace r && (s.freePlaces q.2.cluster).isEmpty
        && (if r.local_ then slice == q.2.cluster else (List.range 104).all (fun c => (s.freePlaces c).isEmpty))
    | none => false)

/-- R260, R263, case 2: every place of a given region is taken, a paddock that is not resident is waited for, and `p` is the
least recently fired. -/
def Crew.makesRoom (x : Crew) (r : Region) (p : Place) : Bool :=
  r.given && r.granted ≤ (r.places.filter (fun q => q.state != .swapped && q.live)).length
    && (x.parks.any (fun k => k.place.isNone && x.unseen k.paddock) || r.numbered.any (fun a => x.asked a.1 a.2))
    && r.places.all (fun q => q.state != .resident || q.sys || p.fired ≤ q.fired)

/-- R263: whether a place may be swapped out now; one that drains takes its drain with it. -/
def State.maySwap (s : State) (x : Crew) (r : Region) (p : Place) : Bool :=
  p.state == .resident && !p.sys && (s.retiring p.slice || s.fifth p.slice || x.makesRoom r p)

/-- PADDOCK_SWAP_OUT: every resident frame goes to the backwater, and the place becomes free. -/
def execPaddockSwapOut (c : CrewId) (i : Nat) (s : State) : Out :=
  match s.crew? c with
  | some x =>
    match x.region with
    | some r =>
      match r.places[i]? with
      | some p =>
        if !s.maySwap x r p then .refused (.notEnabled "no case of R263 swaps the paddock out")
        else
          let fs := p.frames.filter (fun f => f.resident)
          if !bwRoom x i p (1152 * fs.length) then
            let f := fs.head?
            s.unlessFull (s.asidOf c) (s.bwFault c i .swap c i p ((f.map (fun f => f.tag)).getD 0) p.paddock
              ((f.map (fun f => f.blk)).getD 0) 0)
          else .next (s.modPlace c i (fun p => { p with
            state := .swapped, frames := p.frames.map (fun f => { f with resident := false }) }))
      | none => .refused (.notEnabled "no such place")
    | none => .refused (.notEnabled "the crew has no region")
  | none => .refused (.notEnabled "no such crew")

/-- Exchange two places of a region, with everything that names them. -/
def Crew.exchange (x : Crew) (a b : Nat) : Crew :=
  let sw (i : Nat) : Nat := if i == a then b else if i == b then a else i
  let flit (f : Flit) : Flit := match f.aim with
    | some q => f.routed (q.1.map sw)
    | none => f
  match x.region with
  | some r =>
    match r.places[a]?, r.places[b]? with
    | some p, some q =>
      { x with
        region := some { r with places := (r.places.set a q).set b p }
        flight := x.flight.map flit
        parks := x.parks.map (fun k => { k with place := k.place.map sw, flit := flit k.flit })
        heldStarts := x.heldStarts.map (fun h => { h with place := sw h.place, ent := { h.ent with
          place := h.ent.place.map sw } })
        transit := x.transit.map (fun t => { t with entry := { t.entry with place := sw t.entry.place } })
        chains := x.chains.map (fun ch => { ch with
          entries := ch.entries.map (fun e => { e with place := sw e.place }) }) }
    | _, _ => x
  | none => x

/-- R263: the slices in which a swapped or new paddock of a region may be placed now. -/
def State.sliceOk (s : State) (x : Crew) (r : Region) (slice : Nat) : Bool :=
  slice == x.cluster || (!r.local_ && (s.freePlaces x.cluster).isEmpty)

/-- A swapped paddock is resident again in place `i`, at a spot that was free; its frames stay in the backwater until tokens
come for them. -/
def State.resumeAt (s : State) (c : CrewId) (i : Nat) (spot : Nat × Nat × Nat) (prio : Nat) : State :=
  (((s.setCeils [spot] prio).modPlace c i (fun p => { p with
    state := .resident, slice := spot.1, bay := spot.2.1, ctx := spot.2.2, fired := s.now, named := s.now })).startRows spot.1
      spot.2.1).deliverParks c i (fun k => k.place == some i)

/-- R260: the context of a bay that a paddock takes which makes do with the place of one that was swapped out: the very
place, as long as that is free and R263 allows its slice. -/
def State.vacated (s : State) (x : Crew) (r : Region) (v : Place) (slice bay ctx : Nat) : Bool :=
  !((s.freeCtx v.slice v.bay).contains v.ctx && s.sliceOk x r v.slice) || (slice == v.slice && bay == v.bay && ctx == v.ctx)

/-- A place that a region no longer has: its number is past the granted ones, and it lies in no bay. -/
def Place.nowhere (prio : Nat) : Place := Place.fresh (104, 0, 0) prio

/-- R260: a paddock that has no place takes the free place `v` of its region: a swapped one resumes there, and one that was
never placed is loaded. -/
def fillFreed (s : State) (c : CrewId) (x : Crew) (kn : Kernel) (args : Memory) (pad : Nat) (v : Nat × Place) : Out :=
  match loadRefusal kn args (s.cluster x.cluster) pad v.2.sys with
  | some n => .next (s.configRecord c.launch x.cluster pad .stops n)
  | none => match x.swapped? pad with
    | some q => .next (((s.modCrew c (fun x => x.exchange v.1 q.1)).modPlace c q.1 (fun _ => Place.nowhere x.prio)).resumeAt c
        v.1 (v.2.slice, v.2.bay, v.2.ctx) x.prio)
    | none => match s.acceptLoad c kn v.1 pad 0 with
      | some t => .next (t.acceptNotes c x.cluster kn args pad v.2.sys)
      | none => .refused (.notEnabled "no weir slot can bind the chain")

/-- R260: a paddock of a given region that a free place of the region can take: one that was never placed, or a swapped one
whose number is past the granted places. -/
def Crew.takesFreed (x : Crew) (r : Region) (kn : Kernel) (pad : Nat) : Option (Nat × Place) :=
  if !r.given then none
  else match x.swapped? pad with
    | some q => if q.1 < r.granted then none else r.freed
    | none => if kn.paddocks.length ≤ pad || !x.unseen pad then none else r.freed

/-- Place `j` of the region, whose own paddock is swapped out, holds nothing at a spot that was free; the swapped paddock is
kept behind the granted places. -/
def State.makeWay (s : State) (c : CrewId) (x : Crew) (r : Region) (j : Nat) (spot : Nat × Nat × Nat) : State :=
  let prio := ((r.places[j]?).map (fun p => p.fprio)).getD x.prio
  let s := s.modCrew c (fun x => { x with region := some { r with places := r.places ++ [Place.fresh spot prio] } })
  (s.setCeils [spot] x.prio).modCrew c (fun x => x.exchange j r.places.length)

/-- The paddock takes place `j` of the region, whose own paddock is swapped out, and loads there. -/
def loadVacant (s : State) (c : CrewId) (x : Crew) (r : Region) (kn : Kernel) (args : Memory) (j pad : Nat)
    (spot : Nat × Nat × Nat) : Out :=
  match (s.makeWay c x r j spot).acceptLoad c kn j pad 0 with
  | some t => .next (t.acceptNotes c x.cluster kn args pad false)
  | none => .refused (.notEnabled "no weir slot can bind the chain")

/-- PADDOCK_RESUME at a free context of a bay: a swapped paddock, or one never placed in a region that the dispatcher or a
remount gave (R260), gets a place. -/
def resumeIn (s : State) (c : CrewId) (x : Crew) (r : Region) (kn : Kernel) (args : Memory) (pad slice bay ctx : Nat) : Out :=
  let units (go : State → Out) : Out := (secureCells slice bay 8 computeCells s).orWait s go
  match x.swapped? pad with
  | some q =>
    (match loadRefusal kn args (s.cluster x.cluster) pad q.2.sys with
    | some n => .next (s.configRecord c.launch x.cluster pad .stops n)
    | none =>
      if q.1 < r.granted then units (fun s => .next (s.resumeAt c q.1 (slice, bay, ctx) x.prio))
      else match r.vacant with
        | some v =>
          if s.vacated x r v.2 slice bay ctx then
            units (fun s => .next ((s.modCrew c (fun x => x.exchange v.1 q.1)).resumeAt c v.1 (slice, bay, ctx) x.prio))
          else .refused (.notEnabled "the place of the paddock that was swapped out comes first")
        | none => units (fun s => .next (s.resumeAt c q.1 (slice, bay, ctx) x.prio)))
  | none =>
    if !r.given || kn.paddocks.length ≤ pad || !x.unseen pad then .refused (.notEnabled "the paddock waits for no place")
    else match loadRefusal kn args (s.cluster x.cluster) pad false with
    | some n => .next (s.configRecord c.launch x.cluster pad .stops n)
    | none =>
      match r.vacant with
      | none => .refused (.notEnabled "the region has no vacant place")
      | some v =>
        if s.vacated x r v.2 slice bay ctx then
          units (fun s => loadVacant s c x r kn args v.1 pad (slice, bay, ctx))
        else .refused (.notEnabled "the place of the paddock that was swapped out comes first")

/-- The context of a bay that a resumed paddock takes: that of the place which it fills again, where it is free. -/
def State.ctxFor (s : State) (r : Region) (slice bay : Nat) : Option Nat :=
  let cs := s.freeCtx slice bay
  match r.vacant with
  | some v => if v.2.slice == slice && v.2.bay == bay && cs.contains v.2.ctx then some v.2.ctx else cs.head?
  | none => cs.head?

/-- PADDOCK_RESUME. Where a free place of the region takes the paddock, the bay is that place's. -/
def execPaddockResume (c : CrewId) (pad slice bay : Nat) (s : State) : Out :=
  match s.crew? c, s.launch? c.launch with
  | some x, some l =>
    match x.region, l.kernel with
    | some r, some kn =>
      match x.takesFreed r kn pad with
      | some v =>
        if slice != v.2.slice || bay != v.2.bay then .refused (.notEnabled "the free place of the region comes first")
        else s.unlessFull (s.asidOf c) (fillFreed s c x kn l.args pad v)
      | none =>
      match s.ctxFor r slice bay with
      | none => .refused (.notEnabled "no place of the bay is free")
      | some ctx =>
        if 104 ≤ slice || 16 ≤ bay || !s.sliceOk x r slice then .refused (.notEnabled "the slice is not one that R263 allows")
        else s.unlessFull (s.asidOf c) (resumeIn s c x r kn l.args pad slice bay ctx)
    | _, _ => .refused (.notEnabled "the crew has no region")
  | _, _ => .refused (.notEnabled "no such crew")

/-! ### Class 7: operations that complete later (R273 to R276, R279, R281, R282) -/

/-- One attempt at a class 7 operation: it is over, with its result; a load or a drain has begun; or it has to wait. -/
inductive Attempt where
  | over (v : Dword) (s : State)
  | begun (s : State)
  | blocked (o : Out)

def Attempt.status (n : Nat) (s : State) : Attempt := .over (BitVec.ofNat 64 n) s

/-- R274 (log entry 131). -/
def freqTry (c : CrewId) (x : Crew) (n : Dword) (loc : Bool) (s : State) : Attempt :=
  if x.region.isSome then .status (2 * 2 ^ 62) s
  else if n == 0 || 64 < n.toNat then .status (3 * 2 ^ 62) s
  else match s.grant c x n.toNat loc false with
    | .ok h t => .status (n.toNat * 2 ^ 16 + h) t
    | .noRoom => .status (2 ^ 62) s
    | .blocked o => .blocked o

def frelStatus (c : CrewId) (x : Crew) (h : Dword) (s : State) : Nat × State :=
  match x.region with
  | some r =>
    if h.toNat != r.handle then (2, s)
    else if r.places.any Place.live then (1, s)
    else (0, s.modCrew c (fun x => { x with region := none, geometry := none, cells := [] }))
  | none => (2, s)

/-- R267: an edge word breaks the map. -/
def edgeBad (e : Dword) : Bool :=
  fld e 63 24 != 0 || (fld e 19 12 != 0 && (fld e 23 20 < 4 || 12 < fld e 23 20))
    || 6 ≤ fld e 11 9 || 6 ≤ fld e 8 6 || 6 ≤ fld e 5 3 || 6 ≤ fld e 2 0

/-- R276: a place holds a configuration that is resident or loading and does not drain; of several loads that it has
accepted all but the last drain. -/
def Place.keeps (p : Place) : Bool :=
  match p.next.getLast? with
  | some n => !n.drain
  | none => p.state == .resident && !p.draining

/-- R276: a place holds paddock `a`, resident or loading and not draining. -/
def Place.keepsPad (p : Place) (a : Nat) : Bool :=
  p.next.any (fun n => n.paddock == a && !n.drain) || (p.state == .resident && p.paddock == a && !p.draining)

/-- R276: BUSY. -/
def loadBusy (r : Region) (a b : Nat) (p : Place) : Bool :=
  p.keeps || r.numbered.any (fun q => q.1 != b && q.2.keepsPad a)

/-- R313: no weir slot can bind now though some slot is deep enough. -/
def State.slotBusy (s : State) (x : Crew) (kn : Kernel) (a : Nat) : Bool :=
  !chainReady x kn a && (match kn.depth? a with
    | some d => (s.weirSlot x.cluster d).isNone && (List.range 16).any (fun i => d ≤ (s.cluster x.cluster).wcap i)
    | none => false)

/-- R20: where a load into a place goes whose paddock is swapped out: where the place was, as long as that is free and R263
allows its slice, else to the first free context that R263 allows (log entry 102). -/
def State.spotFor (s : State) (x : Crew) (r : Region) (p : Place) : Option (Nat × Nat × Nat) :=
  if (s.freeCtx p.slice p.bay).contains p.ctx && s.sliceOk x r p.slice then some (p.slice, p.bay, p.ctx)
  else match s.freePlaces x.cluster with
    | q :: _ => some q
    | [] => if r.local_ then none else ((List.range 104).flatMap s.freePlaces).head?

/-- R263, R276: the place `b` of a swapped paddock is free, and takes a load once a context is found for it. -/
def State.clearPlace (s : State) (c : CrewId) (x : Crew) (r : Region) (b : Nat) (p : Place) (go : State → Attempt) : Attempt :=
  if p.state == .swapped && !p.draining then
    match s.spotFor x r p with
    | none => .blocked (.refused (.notEnabled "the load would need a fifth context"))
    | some spot => match secureCells spot.1 spot.2.1 8 computeCells s with
      | .ok t => go (t.makeWay c x r b spot)
      | .full d j f => .blocked (s.bwOwn d j f)
      | .none_ => .blocked (.refused (.notEnabled "a cell has no frame that can be evicted"))
  else go s

/-- FCFG: a status at once, or the load is accepted. -/
def fcfgTry (c : CrewId) (x : Crew) (a b edge : Dword) (s : State) : Attempt :=
  match s.launch? c.launch with
  | some l =>
    match x.named? b, x.region, l.kernel with
    | some p, some r, some kn =>
      if kn.paddocks.length ≤ a.toNat || edgeBad edge then .status 4 s
      else if loadBusy r a.toNat b.toNat p || s.slotBusy x kn a.toNat then .status 1 s
      else match loadRefusal kn l.args (s.cluster x.cluster) a.toNat p.sys with
        | some n => .status 3 (s.configRecord c.launch x.cluster a.toNat .notice n)
        | none => s.clearPlace c x r b.toNat p (fun t => match t.acceptLoad c kn b.toNat a.toNat edge with
          | some t => .begun (t.acceptNotes c x.cluster kn l.args a.toNat p.sys)
          | none => .status 1 s)
    | _, _, _ => .status 2 s
  | none => .status 2 s

/-- FDRAIN of a place that holds something: the paddock drains from now on, and the drain token is on its way; or what is
being loaded, the last load that has been accepted, will drain as soon as it is resident. The answer tells which. -/
def drainStart (c : CrewId) (gang wave : Nat) (spot : Spot) (x : Crew) (b : Dword) (s : State) : Option (Bool × State) :=
  match x.named? b with
  | none => none
  | some p =>
    if !p.next.isEmpty then
      some (true, s.modPlace c b.toNat (fun p => { p with
        next := p.next.modify (p.next.length - 1) (fun n => { n with drain := true }) }))
    else if p.state == .free then none
    else if p.draining then some (false, s)
    else some (false, (s.modPlace c b.toNat (fun p => { p with draining := true, passed := 0, drainHere := 0 })).sendFlit c
      (.drain (.wave gang wave spot) b.toNat))

/-- FDRAIN of a place that holds nothing, or of no place. -/
def drainStatus (x : Crew) (b : Dword) : Nat := if (x.named? b).isSome then 1 else 2

/-- R281, R334. A systolic place counts as resident for the clocks of its rows (R268). -/
def fmodeStatus (c : CrewId) (x : Crew) (b : Dword) (sys : Bool) (s : State) : Nat × State :=
  match x.named? b, x.region with
  | some p, some r =>
    if p.live || p.draining || !x.mx.isEmpty then (1, s)
    else if p.sys == sys then (0, s)
    else if sys && ((s.bayPlaces p.slice p.bay).any (fun q => q.2.2.sys) || 8 ≤ (r.places.filter (fun q => q.sys)).length)
    then (1, s)
    else
      let t := s.modPlace c b.toNat (fun p => { p with sys := sys })
      (0, (if sys then t.startRows p.slice p.bay else t).modCrew c (fun x => { x with geometry := none, cells := [] }))
  | _, _ => (2, s)

/-- R282. -/
def fstatWord (x : Crew) (s : State) (b : Dword) : Dword :=
  match x.named? b with
  | none => BitVec.allOnes 64
  | some p =>
    let st : Nat := match p.state with | .free => 0 | .loading => 1 | .resident => 2 | .swapped => 3
    let pad : Nat := if p.state == .free then 0 else if p.state == .loading then (p.next.head?.map (fun n => n.paddock)).getD 0 else p.paddock
    let parked : Nat := if p.state == .free then 0
      else min 65535 (x.parks.filter (fun k => k.paddock == pad && (k.place == some b.toNat || k.place.isNone))).length
    BitVec.ofNat 2 st ++ BitVec.ofBool (p.drainHere != 0) ++ BitVec.ofBool p.sys ++ BitVec.ofNat 12 pad
      ++ BitVec.ofNat 4 (s.placePrio p) ++ BitVec.ofNat 8 p.slice ++ BitVec.ofNat 4 p.bay ++ BitVec.ofNat 2 p.ctx
      ++ (0 : BitVec 4) ++ BitVec.ofNat 10 (p.frames.filter (fun f => f.resident)).length ++ BitVec.ofNat 16 parked

/-- FPRIO: the new value of every place of the crew's region. -/
def State.setPrio (s : State) (c : CrewId) (n : Nat) : State :=
  s.modRegion c (fun r => { r with places := r.places.map (fun p => { p with fprio := n }) })

/-- One attempt at an operation whose turn has come. -/
def FOp.attempt (o : FOp) (c : CrewId) (x : Crew) (spot : Spot) (s : State) : Attempt :=
  let wait : Attempt := .blocked (.refused (.notEnabled "the load or the drain is not over"))
  let st (p : Nat × State) : Attempt := .status p.1 p.2
  match o.kind with
  | .freq n loc => freqTry c x n loc s
  | .frel h => st (frelStatus c x h s)
  | .fcfg a b e => if o.accepted then (if o.ended then .over 0 s else wait) else fcfgTry c x a b e s
  | .fdrain b =>
    if o.accepted then (if o.ended then .over 0 s else wait)
    else match drainStart c o.gang o.wave spot x b s with
      | some q => .begun q.2
      | none => .status (drainStatus x b) s
  | .fstat b => .over (fstatWord x s b) s
  | .fmode b sys => st (fmodeStatus c x b sys s)
  | .fprio n => .over 0 (s.setPrio c n)

/-- The oldest operation of a wave that has not completed, with its place in the list. -/
def Crew.opOf (x : Crew) (w : WaveId) : Option (Nat × FOp) :=
  findAt x.fops (fun o => o.gang == w.gang && o.wave == w.wave)

/-- The operation is accepted; a drain of a place that is being loaded drains what its last load brings. -/
def FOp.begin (o : FOp) (x : Crew) : FOp :=
  { o with accepted := true, later := match o.kind with
    | .fdrain b => (match x.named? b with | some p => p.next.length | none => 0)
    | _ => 0 }

/-- FABRIC_OP_COMPLETE: the oldest operation of a wave completes; a load or a drain whose turn has come is accepted. -/
def execFabricOpComplete (w : WaveId) (s : State) : Out :=
  match s.crew? w.crew with
  | some x =>
    match x.opOf w with
    | none => .refused (.notEnabled "the wave has no operation under way")
    | some o => s.unlessFull (s.asidOf w.crew) (match o.2.attempt w.crew x noSpot s with
      | .over v t =>
        if x.saved then .refused (.notEnabled "the crew is saved, and the status waits for it")
        else .next ((t.modCrew w.crew (fun x => { x with fops := x.fops.eraseIdx o.1 })).modWave w (fun y => y.wrS o.2.d v))
      | .begun t => .next (t.modCrew w.crew (fun y => { y with fops := y.fops.modify o.1 (fun o => o.begin x) }))
      | .blocked r => r)
  | none => .refused (.notEnabled "no such crew")

/-- R264: where a word stands, as a record names it: by its site in vector form when it carries one, else by its interval. -/
def Ctx.spot (k : Ctx) (s : State) : Spot :=
  let r := k.report 10 0 .stops (k.first s) .terms
  ⟨r.form, r.taddr, r.voff, r.site, r.eqp⟩

/-- Whether an operation that issues begins at once: a load, when every earlier operation of the wave has been accepted; a
drain, when no earlier load of the wave into its place has still to be (R270). -/
def FOp.early (o : FOp) (x : Crew) : Bool :=
  let mine := x.fops.filter (fun q => q.gang == o.gang && q.wave == o.wave && !q.accepted)
  match o.kind with
  | .fcfg _ _ _ => mine.isEmpty
  | .fdrain b => !mine.any (fun q => q.isLoad && q.onPlace b.toNat)
  | _ => false

/-- Issue an operation: a load or a drain begins at once where it can; the others take their turn. -/
def fopOp (f : KF) (kind : FKind) (k : Ctx) (s : State) : State :=
  let o : FOp := ⟨k.w.gang, k.w.wave, KF.D f, kind, false, false, 0⟩
  let add (o : FOp) (s : State) : State := s.modCrew k.w.crew (fun x => { x with fops := x.fops ++ [o] })
  match s.crew? k.w.crew with
  | none => s
  | some x =>
    if o.early x then
      match o.attempt k.w.crew x (k.spot s) s with
      | .begun t => if (s.asid k.asid).waiting.length < (t.asid k.asid).waiting.length then add o s else add (o.begin x) t
      | _ => add o s
    else add o s

def execFreq (f : KF) (s : State) : Out :=
  issueCore (.freq f) s (fun k s => .done (fopOp f (.freq (opS f k.wv) (f.c.getLsbD 0)) k s))

def execFrel (f : KF) (s : State) : Out :=
  issueCore (.frel f) s (fun k s => .done (fopOp f (.frel (k.wv.rdS (KF.A f))) k s))

def execFcfg (f : KF) (s : State) : Out :=
  issueCore (.fcfg f) s (fun k s =>
    .done (fopOp f (.fcfg (k.wv.rdS (KF.A f)) (opS f k.wv) (k.wv.rdS f.c.toNat)) k s))

def execFdrain (f : KF) (s : State) : Out :=
  issueCore (.fdrain f) s (fun k s => .done (fopOp f (.fdrain (opS f k.wv)) k s))

def execFstat (f : KF) (s : State) : Out :=
  issueCore (.fstat f) s (fun k s => .done (fopOp f (.fstat (opS f k.wv)) k s))

def execFmodeDf (f : KF) (s : State) : Out :=
  issueCore (.fmodeDf f) s (fun k s => .done (fopOp f (.fmode (opS f k.wv) false) k s))

def execFmodeSys (f : KF) (s : State) : Out :=
  issueCore (.fmodeSys f) s (fun k s => .done (fopOp f (.fmode (opS f k.wv) true) k s))

/-! ### FPRIO, FSEND, FRECV (R277, R278, R280) -/

/-- FPRIO takes its turn behind the operations of its wave that have not completed (R273). -/
def fprioOp (f : KF) (k : Ctx) (s : State) : State :=
  let b := opS f k.wv
  if b.toNat < 16 then
    (match (s.crew? k.w.crew).bind (fun x => x.opOf k.w) with
    | some _ => fopOp f (.fprio b.toNat) k s
    | none => s.setPrio k.w.crew b.toNat)
  else s

def execFprio (f : KF) (s : State) : Out := issueCore (.fprio f) s (fun k s => .done (fprioOp f k s))

/-- One token of an FSEND: a round of its own (log entry 25), its root in the chain, and its entry on the braid, routed to
the place that the map names (R259). -/
def fsendOne (f : KF) (k : Ctx) (n : Nat) (s : State) (e : Nat) : State :=
  match s.wave? (k.owner e) with
  | none => s
  | some x =>
    let l := e % 32
    let v : Dword := if f.ty == 1 then x.rdD (KF.A f) l else (x.rdV (KF.A f) l).setWidth 64
    let kj := 256 * k.w.gang + k.iterJ e
    let id := s.newId k.w.crew
    let r : Round := ⟨id.1, n, kj, BitVec.ofNat 3 (fld x.fcsr 7 5), false, true, none, 0, [], [], [], false, false⟩
    let s := id.2.modCrew k.w.crew (fun c => { c with rounds := c.rounds ++ [r] })
    let s := s.newAct k.w.crew n id.1 0 (rootTag kj) none false
    s.sendFlit k.w.crew (.entry
      { sender := .wave k.w.gang k.w.wave (k.spot s), place := (k.c.mapped k.kn n).place, paddock := n, blk := 0
        tag := rootTag kj, slot := fld f.c 2 0, port := false, err := false, value := v, round := id.1
        how := ⟨0, none, 0⟩, start := false, relayed := false })

/-- R264: the record of an FSEND whose tokens find a park area that firmware cannot extend. -/
def fsendFull (f : KF) (k : Ctx) (n : Nat) (s : State) : RecF :=
  { k.report 11 4 .resumable (k.first s) .terms with
    tag := rootTag (256 * k.w.gang + k.iterJ (k.first s)), paddock := n, slot := fld f.c 2 0 }

/-- FSEND. A wave whose tokens would go to a park area that is full waits until firmware has acted (R264); whether firmware
can extend the area is a free value (log entry 132). -/
def fsendOp (f : KF) (k : Ctx) (s : State) : Res :=
  let n := (opS f k.wv).toNat
  let go (s : State) : Res := .done ((k.active s f.pm f.pn).foldl (fsendOne f k n) s)
  if k.c.mapped k.kn n != .unplaced || (k.active s f.pm f.pn).isEmpty then go s
  else if !k.c.parkFull.isEmpty then .wait .memory s
  else if s.fresh.1 % 2 = 0 then go s.fresh.2
  else .held (faultAt k (fsendFull f k n s) s.fresh.2)

def execFsend (f : KF) (s : State) : Out := issueCore (.fsend f) s (fsendOp f)

def frecvOp (f : KF) (k : Ctx) (s : State) : State :=
  (k.active s f.pm f.pn).foldl (fun s e => s.modWave (k.owner e) (fun x => { x with
    recvs := x.recvs ++ [{ paddock := (opS f k.wv).toNat, port := fld f.c 2 0, lane := e % 32, reg := KF.D f
                           pair := f.ty == 1, born := s.now, pc := k.wv.pc, act := k.act f.pm f.pn k.w k.wv
                           outs := (k.maps (.frecv f)).2 }] })) s

def execFrecv (f : KF) (s : State) : Out := issueCore (.frecv f) s (fun k s => .done (frecvOp f k s))

end Sys2Proof.Machine
end

