-- ==== Sys2Proof/Machine/Eqv.lean ====
section
/-! DEFINITION. Equivalence points: arrival (R359 to R361), the gait monitor and the decision (R371 to R376), the hand-over
(R362 to R368), EXIT (R178), and class 9 (R380 to R385). -/

namespace Sys2Proof.Machine

/-! ### Points in the versions (R53, R54, R362, R366) -/

def Kernel.eqp? (kn : Kernel) (n : Nat) : Option EqpD := kn.eqps.find? (fun e => e.n == n)

def Kernel.map? (kn : Kernel) (n : Nat) : Option MapD := kn.maps.find? (fun m => m.n == n)

def Kernel.entries (kn : Kernel) (n : Nat) : List MapEntry := ((kn.map? n).map (fun m => m.entries)).getD []

def Kernel.serialMap (kn : Kernel) (n : Nat) : Bool := ((kn.map? n).map (fun m => m.serial)).getD false

/-- The offset of EQP n in the vector version. -/
def Kernel.eqpOffV (kn : Kernel) (n : Nat) : Nat := ((kn.eqpV.find? (fun p => p.1 == n)).map Prod.snd).getD 0

/-- R368: the paddock that holds EQPN n, and the slot of the node. One that the loader refuses is named too: its paddock is
refused when it is loaded. -/
def Kernel.eqpn? (kn : Kernel) (n : Nat) : Option (Nat × Nat) :=
  (List.range kn.paddocks.length).findSome? (fun p => (padNodes (kn.paddocks.getD p [])).findSome? (fun t =>
    match t.i with
    | .eqpn x => if fld x.imm 11 0 == n then some (p, t.slot) else none
    | _ => none))

/-- Version f holds EQP n. -/
def Kernel.holds (kn : Kernel) (f n : Nat) : Bool :=
  match f with
  | 0 => kn.eqpT.any (fun p => p.1 == n)
  | 1 => kn.eqpV.any (fun p => p.1 == n)
  | _ => (kn.eqpn? n).isSome

/-- R362: the type of an entry needs 64 bits; a format entry as the image declares it. -/
def MapEntry.wide (kn : Kernel) (e : MapEntry) : Bool :=
  if e.tyFmt then
    32 < fmtW (if e.ty < 8 then fixedFmt e.ty else ((kn.formats.find? (fun f => f.1 == e.ty)).map Prod.snd).getD 0)
  else e.ty == 3 || e.ty == 7 || e.ty == 9

/-! ### Memory that firmware places for a gang (R364, R374); an address that is not mapped there reads a free value, and a
write of it has no effect (log entry 26). What R215 keeps from registers, `devEcc` tells first. -/

def State.devRead (s : State) (asid va n : Nat) : Nat × State :=
  match s.devAt asid va n useLoad with
  | (s, .ok l) => (leNat (s.homeRead l n), s)
  | (s, .error _) => (s.fresh.1 % 2 ^ (8 * n), s.fresh.2)

def State.devWrite (s : State) (asid va n v : Nat) : State :=
  match s.devAt asid va n useStore with
  | (s, .ok l) => s.homeWrite l (leBytes n v)
  | (s, .error _) => s

/-- R215: a read of the device itself would meet an uncorrectable error. -/
def State.devEcc (s : State) (asid va n : Nat) : Bool :=
  match (s.devAt asid va n useLoad).2 with
  | .error c => c == 10
  | .ok _ => false

/-- The address of slot `k` of iteration `j` (R364). -/
def Gang.slotVa (g : Gang) (j k : Nat) : Nat := g.hobase.toNat + 0x80 + 256 * j + 8 * k

/-! ### What a gang is -/

/-- A gang with what it belongs to. -/
structure GCtx where
  id : GangId
  g : Gang
  c : Crew
  l : Launch
  kn : Kernel
  deriving DecidableEq, Repr

def gctx? (s : State) (i : GangId) : Option GCtx :=
  match s.gang? i, s.crew? i.crew, s.launch? i.crew.launch with
  | some g, some c, some l => l.kernel.map (fun kn => ⟨i, g, c, l, kn⟩)
  | _, _, _ => none

/-- The lanes of a wave in a mask over the gang. -/
def lanesOf (m : BitVec 256) (w : Nat) : Word := m.extractLsb' (32 * w) 32

/-- The iterations of a mask in ascending order. -/
def itersOf (m : BitVec 256) : List Nat := (List.range 256).filter (fun j => m.getLsbD j)

/-- Change each wave of a gang. -/
def State.eachWave (s : State) (i : GangId) (f : WaveId → Wave → Wave) : State :=
  i.waves.foldl (fun s w => s.modWave w (f w)) s

/-- A record about iteration `j` of a gang at a point (R378, R404): the threaded address in threaded form, the vector
offset, or the EQPN node. -/
def GCtx.recordOf (k : GCtx) (s : State) (kind cause n : Nat) (st : RStatus) (j : Nat) : RecF :=
  let base : RecF :=
    { kind := kind, cause := cause, form := k.g.form, status := st, wave := j / 32, launch := k.id.crew.launch
      eqp := ((s.gang? k.id).bind (fun g => g.ev)), cluster := k.c.cluster, iter := s.iterOf k.id.crew (256 * k.id.gang + j) }
  match k.g.form.toNat with
  | 0 => { base with taddr := k.kn.eqpOffT n }
  | 1 => { base with voff := k.kn.eqpOffV n }
  | _ => match k.kn.eqpn? n with
    | some p => { base with paddock := p.1, slot := p.2 }
    | none => base

/-- A record about a gang at a point, which names the lowest of its iterations that take part. -/
def GCtx.record (k : GCtx) (s : State) (kind cause n : Nat) (st : RStatus) : RecF :=
  k.recordOf s kind cause n st ((lowBit (s.takes k.id)).getD 0)

/-- A record that stops the job: while the ring has no room for it, the wave that it names waits (R406). -/
def GCtx.raise (k : GCtx) (s : State) (r : RecF) : State := s.raiseStops k.l.asid ⟨k.id.crew, k.id.gang, r.wave⟩ r

/-- An equivalence fault that no wave issues. -/
def GCtx.fault (k : GCtx) (s : State) (cause n : Nat) : State := k.raise s (k.record s 14 cause n .stops)

/-- R215: the record of an uncorrectable error that the sequencer or the monitor meets at point n. -/
def GCtx.eccFault (k : GCtx) (s : State) (n va : Nat) : State :=
  k.raise s { k.record s 2 10 n .stops with va := va % 2 ^ 55 }

/-! ### Closing an interval (R371 to R373, R449, R450) -/

/-- GAITW as five weights: ISSUE, LANEOP, MEMTX, FIRE, HOP (R372). -/
def gaitCost (w : BitVec 40) (g : Gang) : Nat :=
  fld w 39 32 * g.issue + fld w 31 24 * g.laneop + fld w 23 16 * g.memtx + fld w 15 8 * g.fire + fld w 7 0 * g.hop

/-- Gait[n].c[f], a 32-bit field (R374). -/
def Launch.gaitVa (l : Launch) (n f : Nat) : Nat := l.gtBase.toNat + 16 * n + 4 * f

/-- R373: the cost per step of the interval that ends, or none where it declares no steps. -/
def stepCost (kn : Kernel) (n cost live : Nat) : Option Nat :=
  let steps := ((kn.eqp? n).map (fun e => e.steps)).getD 0 * live
  if steps = 0 then none else some (min (cost * 256 / steps) 0xFFFFFFFE)

/-- Clear the counters of a gang. -/
def Gang.cleared (g : Gang) : Gang := { g with issue := 0, laneop := 0, memtx := 0, fire := 0, hop := 0 }

/-- R215: the closing of an interval at a point would write Gait where it meets an uncorrectable error. -/
def GCtx.gaitEcc (k : GCtx) (s : State) : Option Nat :=
  match k.g.interval with
  | none => none
  | some o =>
    let va := k.l.gaitVa o k.g.intForm.toNat
    if (stepCost k.kn o (gaitCost (s.cluster k.c.cluster).gaitw k.g) k.g.intLive).isSome && s.devEcc k.l.asid va 4 then some va
    else none

/-- R371 to R374: the interval that ends is measured and the next one starts. -/
def closeInterval (i : GangId) (n : Nat) (s : State) : State :=
  match gctx? s i with
  | none => s
  | some k =>
    let live := popc (s.takes i)
    let start (g : Gang) : Gang := { g.cleared with interval := some n, intForm := g.form, intLive := live }
    match k.g.interval with
    | none => s.modGang i start
    | some o =>
      let cost := gaitCost (s.cluster k.c.cluster).gaitw k.g
      let s := match stepCost k.kn o cost k.g.intLive with
        | some c => s.devWrite k.l.asid (k.l.gaitVa o k.g.intForm.toNat) 4 c
        | none => s
      s.modGang i (fun g => { start g with
        cost := if cost < 2 ^ 64 then BitVec.ofNat 64 cost else Config.costBeyond cost })

/-! ### Values of a map (R362, R365, R366) -/

/-- The value of a map entry at its location: in threaded form of iteration `j`, in vector form the S register of the
leader or element `el`. -/
def locGet (s : State) (k : GCtx) (vec : Bool) (e : MapEntry) (j el : Nat) : Dword :=
  let sreg := if vec then e.vs else e.ts
  let r := if vec then e.vreg else e.treg
  let pair := if vec then e.vpair else e.tpair
  let w : WaveId := ⟨k.id.crew, k.id.gang, if sreg then (if vec then 0 else j / 32) else el / 32⟩
  match s.wave? w with
  | none => 0
  | some x =>
    if sreg then (if e.wide k.kn then x.rdS r else (x.rdS r).setWidth 32 |>.setWidth 64)
    else if pair then x.rdD r (el % 32) else (x.rdV r (el % 32)).setWidth 64

/-- R419, R420: in a debug crew, log a register of a wave that the hand-over at point n is about to write. The entry stands
at the word of the point in the version that takes the value (log entry 67). -/
def State.undoLoc (s : State) (k : GCtx) (vec : Bool) (n : Nat) (w : WaveId) (r : Reg) (pair : Bool) (lane : Nat) : State :=
  match (if k.c.debug then s.wave? w else none) with
  | none => s
  | some x =>
    let pc := BitVec.ofNat 32 (if vec then k.kn.eqpOffV n else k.kn.eqpOffT n)
    s.undoPush k.c w (match r.1 with
      | .v => if pair then undoEntry 2 r.2 lane 0 vec pc 0 (x.rdD r.2 lane).toNat
        else undoEntry 1 r.2 lane 0 vec pc 0 (x.rdV r.2 lane).toNat
      | .s => undoEntry 3 r.2 0 0 vec pc 0 (x.rdS r.2).toNat
      | .m => undoEntry 4 r.2 lane 0 vec pc 0 ((x.rdM r.2).getLsbD lane).toNat)

/-- The hand-over writes an S register of a wave. -/
def putS (k : GCtx) (vec : Bool) (n r : Nat) (v : Dword) (w : WaveId) (s : State) : State :=
  (s.undoLoc k vec n w (.s, r) false 0).modWave w (fun x => x.wrS r v)

/-- R363: M7 of each wave of a gang becomes its part of a mask. -/
def putM7 (k : GCtx) (n : Nat) (m : BitVec 256) (s : State) : State :=
  k.id.waves.foldl (fun s w => ((List.range 32).foldl (fun s l => s.undoLoc k true n w (.m, 7) false l) s).modWave w
    (fun x => x.wrM 7 (lanesOf m w.wave))) s

/-- Write a value of point n to its location: in every wave for a threaded S register, else in the lanes of `els`. -/
def locPut (k : GCtx) (vec : Bool) (n : Nat) (e : MapEntry) (v : Dword) (els : List Nat) (s : State) : State :=
  let sreg := if vec then e.vs else e.ts
  let r := if vec then e.vreg else e.treg
  let pair := if vec then e.vpair else e.tpair
  if sreg then
    let v := if e.wide k.kn then v else v.setWidth 32 |>.setWidth 64
    if vec then putS k vec n r v ⟨k.id.crew, k.id.gang, 0⟩ s else k.id.waves.foldl (fun s w => putS k vec n r v w s) s
  else els.foldl (fun s el =>
    let w : WaveId := ⟨k.id.crew, k.id.gang, el / 32⟩
    (s.undoLoc k vec n w (.v, r) pair (el % 32)).modWave w (fun x =>
      if pair then x.wrD r (el % 32) v else x.wrV r (el % 32) (v.setWidth 32))) s

/-- Write the slots of iterations from a form's locations. -/
def writeSlots (k : GCtx) (vec : Bool) (n : Nat) (js : List Nat) (s : State) : State :=
  js.foldl (fun s j => (k.kn.entries n).foldl (fun s e =>
    s.devWrite k.l.asid (k.g.slotVa j e.slot) 8 (locGet s k vec e j j).toNat) s) s

/-- Read the slots of iterations into a form's locations. -/
def readSlots (k : GCtx) (vec : Bool) (n : Nat) (js : List Nat) (s : State) : State :=
  js.foldl (fun s j => (k.kn.entries n).foldl (fun s e =>
    let r := s.devRead k.l.asid (k.g.slotVa j e.slot) 8
    locPut k vec n e (BitVec.ofNat 64 r.1) [j] r.2) s) s

/-- R215: the first slot of iterations at point n whose access would meet an uncorrectable error. -/
def slotEcc (k : GCtx) (n : Nat) (js : List Nat) (s : State) : Option Nat :=
  (js.flatMap (fun j => (k.kn.entries n).map (fun e => k.g.slotVa j e.slot))).find? (fun va => s.devEcc k.l.asid va 8)

/-- Whether the two locations of an entry have different names. -/
def MapEntry.differs (e : MapEntry) : Bool := e.ts || e.vs || e.treg != e.vreg || e.tpair != e.vpair

/-- R366: copy each location whose two names differ, every value as it stood; a uniform register is one in each wave, so
it is copied whatever its number (log entry 27). -/
def copyDirect (k : GCtx) (toVec : Bool) (n : Nat) (js : List Nat) (s : State) : State :=
  let es := (k.kn.entries n).filter MapEntry.differs
  let vals := es.flatMap (fun e => js.map (fun j => (e, j, locGet s k (!toVec) e j j)))
  vals.foldl (fun s v => locPut k toVec n v.1 v.2.2 [v.2.1] s) s

/-- R367: the first entry and wave whose uniform values differ. -/
def mismatch (s : State) (k : GCtx) (n : Nat) (m : BitVec 256) : Option (Nat × Nat) :=
  let ws := (List.range 8).filter (fun w => lanesOf m w != 0)
  let val (e : MapEntry) (w : Nat) : Dword := ((s.wave? ⟨k.id.crew, k.id.gang, w⟩).map (fun x => x.rdS e.treg)).getD 0
  match ws with
  | [] => none
  | w0 :: more => (k.kn.entries n).findSome? (fun e =>
      if e.ts then (more.find? (fun w => val e w != val e w0)).map (fun w => (e.slot, w)) else none)

/-- R364: the header. -/
def writeHeader (k : GCtx) (n form : Nat) (act held : BitVec 256) (rm : BitVec 24) (s : State) : State :=
  let d0 := (k.kn.entries n).length * 2 ^ 16 + (if k.kn.serialMap n then 2 ^ 14 else 0) + form * 2 ^ 12 + n % 2 ^ 12
  let w (m : BitVec 256) (i : Nat) : Nat := (m.extractLsb' (64 * i) 64).toNat
  let ds : List Nat := [d0, w act 0, w act 1, w act 2, w act 3, rm.toNat, w held 0, w held 1, w held 2, w held 3,
    0, 0, 0, 0, 0, 0]
  ((List.range 16).zip ds).foldl (fun s d => s.devWrite k.l.asid (k.g.hobase.toNat + 8 * d.1) 8 d.2) s

/-- R215: the first dword of the header whose write would meet an uncorrectable error. -/
def hdrEcc (k : GCtx) (s : State) : Option Nat :=
  ((List.range 16).map (fun i => k.g.hobase.toNat + 8 * i)).find? (fun va => s.devEcc k.l.asid va 8)

/-- The FCSR.RM of each wave (R110, R364). -/
def State.gangRm (s : State) (i : GangId) : BitVec 24 :=
  BitVec.ofNat 24 ((List.range 8).map (fun w =>
    (((s.wave? ⟨i.crew, i.gang, w⟩).map (fun x => fld x.fcsr 7 5)).getD 0) * 2 ^ (3 * w))).sum

/-! ### Starting a form (R363, R365, R366, R368) -/

/-- A wave that goes on at an offset. -/
def Wave.goAt (x : Wave) (pc : Nat) (now : Nat) : Wave :=
  { x with pc := BitVec.ofNat 32 pc, stall := .ready, since := now, passed := 0, bpDone := false, arrived := none }

/-- R366: threaded form, each wave at the word after EQP n with its lanes of `m`. `fresh`: the stacks are empty. -/
def startThreaded (k : GCtx) (n : Nat) (m : BitVec 256) (fresh : Bool) (s : State) : State :=
  s.eachWave k.id (fun w x =>
    let x := { x.goAt (k.kn.eqpOffT n + 8) s.now with mask := lanesOf m w.wave, retired := x.exited == 0xFFFFFFFF }
    if fresh then { x with dstack := [], rstack := [], dsp := 0, rsp := 0, rpm := 0xFFFFFFFF } else x)

/-- R149, R363: vector form, the leader at the word after EQP n; on entering it, VL and M7 are set. -/
def startVector (k : GCtx) (n : Nat) (m : BitVec 256) (enter : Bool) (s : State) : State :=
  let s := if enter then
      (putM7 k n m (s.modGang k.id (fun g => { g with vl := 256 }))).eachWave k.id (fun _ x => { x with
        rpm := 0xFFFFFFFF, arrived := none })
    else s
  s.modWave ⟨k.id.crew, k.id.gang, 0⟩ (fun x =>
    let x := { x.goAt (k.kn.eqpOffV n + 8) s.now with retired := false }
    if enter then { x with dstack := [], rstack := [], dsp := 0, rsp := 0 } else x)

/-- R365: the run of iteration j of the interval that point n opened; `rest` have their runs to come. -/
def startRun (k : GCtx) (n j : Nat) (rest : BitVec 256) (s : State) : State :=
  let s := (k.kn.entries n).foldl (fun s e =>
    let r := s.devRead k.l.asid (k.g.slotVa j e.slot) 8
    locPut k true n e (BitVec.ofNat 64 r.1) (List.range 256) r.2) s
  let s := s.modGang k.id (fun g => { g with vl := 256, serial := some ⟨n, j, rest⟩ })
  (putS k true n 63 (BitVec.ofNat 64 j) ⟨k.id.crew, k.id.gang, 0⟩ s).modWave ⟨k.id.crew, k.id.gang, 0⟩ (fun x =>
    { x.goAt (k.kn.eqpOffV n + 8) s.now with retired := false })

/-- The first run of an interval under a SERIAL map. -/
def startRuns (k : GCtx) (n : Nat) (m : BitVec 256) (s : State) : State :=
  match itersOf m with
  | j :: _ => startRun k n j (setBit m j false) s
  | [] => s

/-- R368: one start token for each iteration, in ascending order; each begins a round. -/
def startTokens (k : GCtx) (n : Nat) (js : List Nat) (s : State) : State :=
  match k.kn.eqpn? n with
  | none => s
  | some p => js.foldl (fun s j =>
      let kj := 256 * k.id.gang + j
      let id := s.newId k.id.crew
      let rm : BitVec 3 := (((id.2.gang? k.id).map (fun (g : Gang) => g.rm)).getD 0).extractLsb' (3 * (j / 32)) 3
      let r : Round := ⟨id.1, p.1, kj, rm, true, true, none, 0, [], [], [], false, false⟩
      let s := id.2.modCrew k.id.crew (fun c => { c with rounds := c.rounds ++ [r] })
      let s := s.newAct k.id.crew p.1 id.1 0 (rootTag kj) none false
      s.sendFlit k.id.crew (.entry
        { sender := .wave k.id.gang 0 ⟨2, k.kn.eqpOffT n, 0, none, some n⟩
          place := ((s.crew? k.id.crew).bind (fun x => (x.mapped k.kn p.1).place)), paddock := p.1, blk := 0
          tag := rootTag kj, slot := p.2, port := false, err := false, value := BitVec.ofNat 64 (k.g.slotVa j 0)
          round := id.1, how := ⟨0, none, 0⟩, start := true, relayed := false })) s

/-! ### The decision (R375) -/

/-- What a decision answers: the form, REASON and DEC of R384. -/
structure Decided where
  dst : BitVec 2
  reason : Nat
  dec : Nat
  deriving DecidableEq, Repr

def Launch.probe (l : Launch) : Nat := fld (l.dw 3) 31 16
def Launch.hyst (l : Launch) : Nat := fld (l.dw 3) 15 8

/-- Available(f). -/
def State.available (s : State) (c : CrewId) (f : Nat) : Bool := f < 2 || s.spatialRoom c

/-- The least of the candidates by estimate; ties go to the lower form. -/
def leastEst (est : Nat → Option Nat) : List Nat → Option (Nat × Nat)
  | [] => none
  | f :: t =>
    match est f, leastEst est t with
    | some a, some b => if b.2 < a then some b else some (f, a)
    | some a, none => some (f, a)
    | none, r => r

/-- The part of the decision that reads the gait table. -/
def decideByCost (s : State) (k : GCtx) (n : Nat) (cand : List Nat) : Decided × State :=
  let cur := k.g.form.toNat
  let decVa := k.l.gtBase.toNat + 16 * n + 12
  let d := s.devRead k.l.asid decVa 2
  let s := d.2.devWrite k.l.asid decVa 2 ((d.1 + 1) % 2 ^ 16)
  let c0 := s.devRead k.l.asid (k.l.gaitVa n 0) 4
  let c1 := c0.2.devRead k.l.asid (k.l.gaitVa n 1) 4
  let c2 := c1.2.devRead k.l.asid (k.l.gaitVa n 2) 4
  let meas (f : Nat) : Option Nat :=
    let c := match f with | 0 => c0.1 | 1 => c1.1 | _ => c2.1
    if c = 0xFFFFFFFF then none else some c
  let stat (f : Nat) : Option Nat := (k.kn.eqp? n).bind (fun e =>
    let v := match f with | 0 => e.estt | 1 => e.estv | _ => e.ests
    if v = 0 then none else some (256 * v))
  let est (f : Nat) : Option Nat := (meas f).or (stat f)
  let other := cand.filter (fun f => f != cur)
  let res (f reason : Nat) : Decided := ⟨BitVec.ofNat 2 f, reason, d.1⟩
  let probed := if k.l.probe != 0 && d.1 % k.l.probe = 0 then other.find? (fun f => (meas f).isNone) else none
  let r : Decided := match probed with
    | some u => res u 3
    | none => match est cur with
      | none => res cur 0
      | some e => match leastEst est other with
        | some b => if b.2 * (256 + k.l.hyst) < e * 256 then res b.1 2 else res cur 1
        | none => res cur 1
  (r, c2.2)

/-- R375. The pending request and the debugger's form are cleared as they are taken. -/
def decideForm (s : State) (k : GCtx) (n : Nat) : Decided × State :=
  let cur := k.g.form
  let deep := k.id.waves.any (fun w => match s.wave? w with | some x => !x.rstack.isEmpty | none => false)
  if deep then (⟨cur, 7, 0⟩, s)
  else
    let dbg : Option (BitVec 2) := match k.g.dbgForm with
      | some f => if k.kn.holds f.toNat n && s.available k.id.crew f.toNat then some f else none
      | none => none
    match dbg with
    | some f => (⟨f, 6, 0⟩, s.modGang k.id (fun g => { g with dbgForm := none }))
    | none =>
      if k.l.pin || k.g.pinned then (⟨cur, 5, 0⟩, s)
      else
        let cand := (List.range 3).filter (fun f =>
          k.l.allow.getLsbD f && k.kn.holds f n && s.available k.id.crew f)
        match k.g.req with
        | some r => (⟨if cand.contains r.toNat then r else cur, 4, 0⟩, s.modGang k.id (fun g => { g with req := none }))
        | none => decideByCost s k n cand

/-- R384: the decision word. -/
def Decided.word (d : Decided) (cur : BitVec 2) (n : Nat) : Dword :=
  (0 : BitVec 16) ++ BitVec.ofNat 16 d.dec ++ (0 : BitVec 13) ++ BitVec.ofNat 3 d.reason ++ d.dst ++ cur ++ BitVec.ofNat 12 n

/-! ### The hand-over (R366) -/

/-- R366, R395, step 1: the stores that the hand-over performs: those that the gang's waves issued, and those that a release
has covered. -/
def handStores (i : GangId) (p : PStore) : Bool := (p.wave.crew == i.crew && p.wave.gang == i.gang) || p.crew

/-- R321, R366: a free access of a frame whose round is one of these has fired and is not performed: it is parked, or has
been released. -/
def Crew.freeOpen (x : Crew) (kn : Kernel) (mine : Nat → Bool) : Bool :=
  match x.region with
  | some g => g.places.any (fun p => (p.parked.map Prod.snd ++ p.ready.filter (fun y => y.since.isSome)).any (fun y =>
      (match p.frame? y.cell y.frame with | some f => mine f.round | none => false)
        && (match kn.node? p.paddock y.blk y.slot with
            | some (.fld _) | some (.fst _) => true
            | _ => false)))
  | none => false

/-- R366, step 1: an access of the gang's spatial work is open. A chained one of a round that has not committed is on its
way to the weir or held there; a free one has fired and is not performed. -/
def Crew.openAccess (x : Crew) (kn : Kernel) (gang : Nat) : Bool :=
  let of (r : Round) : Bool := r.iter / 256 == gang
  let mine (n : Nat) : Bool := x.rounds.any (fun r => r.id == n && !r.committed && of r)
  x.transit.any (fun t => mine t.entry.round) || x.chains.any (fun ch => ch.entries.any (fun e => mine e.round))
    || x.freeOpen kn (fun n => x.rounds.any (fun r => r.id == n && of r))

/-- R366, step 1: an access that the gang issued before the point cannot be performed yet. -/
def State.owesPoint (s : State) (k : GCtx) : Bool :=
  ((s.crew? k.id.crew).map (fun x => x.openAccess k.kn k.id.gang)).getD false || s.silentStore k.c.cluster (handStores k.id)

/-- The registers of an entry's location in a form. -/
def MapEntry.regs (vec : Bool) (e : MapEntry) : List Reg :=
  let r := if vec then e.vreg else e.treg
  if (if vec then e.vs else e.ts) then [(.s, r)]
  else if (if vec then e.vpair else e.tpair) then [(.v, r), (.v, r + 1)] else [(.v, r)]

/-- The registers that a hand-over at point n reads in the form it leaves and writes in the form it starts. -/
def handRegs (k : GCtx) (n dst : Nat) : List Reg :=
  let es := k.kn.entries n
  let runs := dst = 1 && k.kn.serialMap n
  if k.g.form.toNat = dst && !runs && !k.g.slots then []
  else (if k.g.form == 2 then [] else es.flatMap (MapEntry.regs (k.g.form == 1)))
    ++ (if dst = 2 then [] else es.flatMap (MapEntry.regs (dst = 1))) ++ (if runs then [(.s, 63)] else [])

/-- R84: one of these registers of a gang waits for a result (R278) or for a status (R273). -/
def State.gangPends (s : State) (i : GangId) (rs : List Reg) : Bool :=
  i.waves.any (fun w => match s.wave? w with
      | some x => x.recvs.any (fun r => rs.contains (.v, r.reg) || (r.pair && rs.contains (.v, r.reg + 1)))
      | none => false)
    || (match s.crew? i.crew with
        | some c => c.fops.any (fun o => o.gang == i.gang && rs.contains (.s, o.d))
        | none => false)

/-- R366, step 3: the values are moved for the form that starts. -/
def moveValues (k : GCtx) (n dst : Nat) (js : List Nat) (s : State) : State :=
  let src := k.g.form.toNat
  let inSlots := src = 2 || k.g.slots
  let need := dst = 2 || (dst = 1 && k.kn.serialMap n)
  let toVec := dst == 1
  if need then (if inSlots then s else writeSlots k (src == 1) n js s)
  else if inSlots then readSlots k toVec n js s
  else if dst = src then s
  else if k.kn.serialMap n then readSlots k toVec n js (writeSlots k (src == 1) n js s)
  else copyDirect k toVec n js s

/-- R366, step 5. -/
def startForm (k : GCtx) (n dst : Nat) (m : BitVec 256) (s : State) : State :=
  match dst with
  | 0 => startThreaded k n m (k.g.form != 0) s
  | 1 =>
    let s := startVector k n m (k.g.form != 1) s
    if k.kn.serialMap n then startRuns k n m s else s
  | _ => startTokens k n (itersOf m) (s.eachWave k.id (fun _ x => { x with arrived := none, stall := .ready }))

/-- R377: the values of the entries of point n for iterations, as they stand at the point, beside those kept for the
iterations that a restart holds (R369). -/
def pointVals (k : GCtx) (n : Nat) (js : List Nat) (s : State) : SMap Dword × State :=
  let es := (List.range (k.kn.entries n).length).zip (k.kn.entries n)
  js.foldl (fun a j => es.foldl (fun a e =>
    let r : Dword × State :=
      if k.g.form == 2 || k.g.slots then
        let d := a.2.devRead k.l.asid (k.g.slotVa j e.2.slot) 8
        (BitVec.ofNat 64 d.1, d.2)
      else (locGet a.2 k (k.g.form == 1) e.2 j j, a.2)
    (SMap.set a.1 0 (256 * e.1 + j) r.1, r.2)) a) (k.g.mapVals.filter (fun v => k.g.heldMask.getLsbD (v.1 % 256)), s)

/-- R318, R377: keep the values of the point. -/
def keepVals (k : GCtx) (n : Nat) (js : List Nat) (s : State) : State :=
  let r := pointVals k n js s
  r.2.modGang k.id (fun g => { g with mapVals := r.1 })

/-- R369, R377: the last point of iteration `j`: the gang's, or the one at which a restart holds the iteration. -/
def GCtx.lastPoint (k : GCtx) (j : Nat) : Option Nat := if k.g.heldMask.getLsbD j then k.g.heldAt else k.g.ev

/-- R377: the value that the map of the last point gives a threaded register of iteration `j`: a V register or half of a
pair of them, or an S register. -/
def GCtx.pointReg (k : GCtx) (j : Nat) (r : Reg) : Option Dword :=
  match k.lastPoint j with
  | none => none
  | some n =>
    let es := (List.range (k.kn.entries n).length).zip (k.kn.entries n)
    es.findSome? (fun e =>
      let v : Dword := SMap.get k.g.mapVals 0 (256 * e.1 + j)
      match r.1 with
      | .s => if e.2.ts && e.2.treg == r.2 then some v else none
      | .v => if e.2.ts then none
        else if e.2.treg == r.2 then some ((v.setWidth 32).setWidth 64)
        else if e.2.tpair && e.2.treg + 1 == r.2 then some (v >>> 32) else none
      | .m => none)

/-- R377: the debugger's view of a register of iteration `j` of a gang in threaded terms: in threaded form the register; in
any other form, and while a restart holds the iteration, the value of the last point's map, and none, unavailable, where
the map does not name the register. -/
def State.debugView (s : State) (i : GangId) (j : Nat) (r : Reg) : Option Dword :=
  match gctx? s i with
  | none => none
  | some k =>
    if k.g.form != 0 || k.g.heldMask.getLsbD j then k.pointReg j r
    else (s.wave? ⟨i.crew, i.gang, j / 32⟩).map (fun x => match r.1 with
      | .v => (x.rdV r.2 (j % 32)).setWidth 64
      | .s => x.rdS r.2
      | .m => (x.rdM r.2).setWidth 64)

/-- R366, R388, R394: the accesses of the gang before the point come before those that follow it: at DEVICE scope before
those of another form, and in the same form before the gang's own, whose nodes may have stored past L1 (R392). -/
def handEdge (k : GCtx) (dst : Nat) (s : State) : State :=
  s.acquire k.c.cluster (if k.g.form.toNat = dst then 0 else 1)

/-- R56: the word after EQP n is one of the version that starts; in spatial form there is none. -/
def Kernel.landsIn (kn : Kernel) (n dst : Nat) : Bool :=
  match dst with
  | 0 => kn.eqpOffT n + 16 ≤ kn.tLen
  | 1 => kn.eqpOffV n + 16 ≤ kn.vLen
  | _ => true

/-- The hand-over writes the header (R364). -/
def writesHeader (k : GCtx) (n dst : Nat) : Bool := dst = 2 || (dst = 1 && k.kn.serialMap n) || k.g.form == 2

/-- The values move, the header is written, and the form starts (R363, R364, R366). -/
def handGo (k : GCtx) (n dst : Nat) (m : BitVec 256) (s : State) : State :=
  let s := keepVals k n (itersOf m) (handEdge k dst s)
  let s := moveValues k n dst (itersOf m) s
  let rm := if k.g.form == 2 then k.g.rm else s.gangRm k.id
  let s := if writesHeader k n dst then writeHeader k n dst m k.g.heldMask rm s else s
  let s := s.modGang k.id (fun g => { g with
    form := BitVec.ofNat 2 dst, intForm := BitVec.ofNat 2 dst, rm := if dst = 2 then rm else g.rm, due := none, moving := none
    slots := false, point := none, atPoint := 0, serial := none })
  startForm k n dst m s

/-- R215: the first address of the gang's record that the hand-over touches and that meets an uncorrectable error. -/
def handEcc (k : GCtx) (n dst : Nat) (m : BitVec 256) (s : State) : Option Nat :=
  let slots := if k.g.form == 2 || k.g.slots then dst != 2
    else dst = 2 || (k.kn.serialMap n && (dst = 1 || dst != k.g.form.toNat))
  (if slots then slotEcc k n (itersOf m) s else none).or (if writesHeader k n dst then hdrEcc k s else none)

/-- The tests before anything moves. The word after the point must be in the version (R56), and what the hand-over touches
of the gang's record must be sound (R215). -/
def handTry (k : GCtx) (n dst : Nat) (m : BitVec 256) (s : State) : State :=
  if !k.kn.landsIn n dst then k.raise s (k.record s 1 0 n .stops)
  else match handEcc k n dst m s with
    | some va => k.eccFault s n va
    | none => handGo k n dst m s

/-- R366, R388: what the gang issued before the point and what is still open: of its spatial work where the form stays, and
of all its accesses where it changes. -/
def State.owesHand (s : State) (k : GCtx) (stays : Bool) : Bool :=
  if stays then ((s.crew? k.id.crew).map (fun x => x.openAccess k.kn k.id.gang)).getD false else s.owesPoint k

/-- R366, R367, R388: every register that the hand-over touches is written, and every earlier access is performed, or the
hand-over waits; a uniform value that differs stops it; the values move. -/
def handMove (k : GCtx) (n dst : Nat) (s : State) : State :=
  let m := s.takes k.id
  let stays := k.g.form.toNat = dst
  if s.gangPends k.id (handRegs k n dst) || s.owesHand k stays then
    s.modGang k.id (fun g => { g with moving := some (BitVec.ofNat 2 dst) })
  else if stays then handTry k n dst m s
  else
    let s := s.performPicked k.c.cluster (handStores k.id)
    match (if k.g.form == 0 then mismatch s k n m else none) with
    | some p => k.raise s { k.record s 14 2 n .stops with aux := p.1, aux2 := p.2 }
    | none => handTry k n dst m s

/-- R81, R406: a refused image stops the job; while the ring has no room for its record, the gang waits at the point. -/
def holdPoint (k : GCtx) (n : Nat) (s t : State) : State :=
  if (s.asid k.l.asid).waiting.length < (t.asid k.l.asid).waiting.length then
    t.modWave ⟨k.id.crew, k.id.gang, (k.record s 14 0 n .stops).wave⟩ (fun x => { x with
      pending := some (t.asid k.l.asid).seq })
  else t

/-- R366: remount, or go on in the form. A crew without a region is given one first (R260, R375). -/
def handOver (k : GCtx) (n dst : Nat) (s : State) : State :=
  if dst = 2 && k.g.form != 2 && k.c.region.isNone then
    match s.giveRegion k.id.crew with
    | .ok t => handMove k n dst t
    | .refused t => holdPoint k n s t
    | .noRoom => handMove k n k.g.form.toNat s
  else handMove k n dst s

/-- The crew and the job of a gang run, and none of its waves has a record pending (R370). -/
def State.mayMove (s : State) (k : GCtx) : Bool :=
  !k.c.saved && !s.jobOff k.l.asid
    && k.id.waves.all (fun w => match s.wave? w with | some x => x.pending.isNone | none => true)

/-- A gang that is not halted may take its decision (R370). -/
def State.mayDecide (s : State) (k : GCtx) : Bool := !k.g.halted && s.mayMove k

/-- The decision at the point that the gang has reached, and what follows from it. One after which the gang would go on
outside a version takes no effect (R56). Once it has been taken, a halt waits for the hand-over (R370). -/
def State.tryDecide (s : State) (i : GangId) : State :=
  match gctx? s i with
  | none => s
  | some k =>
    match k.g.due with
    | none => s
    | some n =>
      match k.g.moving with
      | some f => if s.mayMove k then handMove k n f.toNat s else s
      | none =>
      if !s.mayDecide k then s
      else
        let d := decideForm s k n
        if !k.kn.landsIn n d.1.dst.toNat then k.raise s (k.record s 1 0 n .stops)
        else if d.1.reason < 4 && s.devEcc k.l.asid (k.l.gtBase.toNat + 16 * n) 16 then
          k.eccFault s n (k.l.gtBase.toNat + 16 * n)
        else
        let s := d.2.modGang i (fun g => { g with decision := d.1.word k.g.form n })
        match gctx? s i with
        | some k2 => handOver k2 n d.1.dst.toNat s
        | none => s

/-! ### Reaching a point (R359, R369, R370, R449) -/

/-- R369: the held iterations rejoin; their values of the point, which lie in their slots, go where the form keeps them. -/
def rejoin (k : GCtx) (n : Nat) (s : State) : State :=
  let held := itersOf (k.g.heldMask &&& s.live k.id)
  let s := if k.g.form == 2 || k.g.slots then s else readSlots k (k.g.form == 1) n held s
  let s := if k.g.form == 1 then putM7 k n (s.live k.id) s else s
  s.modGang k.id (fun g => { g with heldMask := 0, heldAt := none, part := BitVec.allOnes 256 })

/-- R420: an EQP mark in the leader's log. -/
def undoMark (k : GCtx) (n : Nat) (s : State) : State :=
  if k.c.debug && k.g.form == 2 then
    s.undoPush k.c ⟨k.id.crew, k.id.gang, 0⟩
      (undoEntry 8 0 0 0 false (BitVec.ofNat 32 (k.kn.eqpOffT n)) (BitVec.ofNat 64 n) 0)
  else s

/-- The waves wait at the point: in threaded form every wave with live lanes, in vector form the leader. -/
def waitAt (k : GCtx) (n : Nat) (s : State) : State :=
  let at_ (pc : Nat) (x : Wave) : Wave := { x with
    pc := BitVec.ofNat 32 pc, arrived := some n, stall := .eqp, bpDone := true, retired := false }
  match k.g.form.toNat with
  | 0 => s.eachWave k.id (fun _ x => if x.exited == 0xFFFFFFFF then x
      else { at_ (k.kn.eqpOffT n) x with mask := ~~~x.exited })
  | 1 => s.modWave ⟨k.id.crew, k.id.gang, 0⟩ (at_ (k.kn.eqpOffV n))
  | _ => s

/-- R370, R423: the breakpoints on a point. -/
def pointBreaks (k : GCtx) (n : Nat) (s : State) : State :=
  let its := (itersOf (s.takes k.id)).map (fun j => s.iterOf k.id.crew (256 * k.id.gang + j))
  let hits := bpHits (s.asid k.l.asid) 1 n k.kn.image 0 its
  if hits.isEmpty then s
  else fireBreak k.l.asid k.id { k.record s 16 0 n .resumable with taddr := k.kn.eqpOffT n } hits s

/-- R369: the values of the held iterations lie in their slots and go to registers when they rejoin. -/
def rejoinReads (k : GCtx) : Bool := k.g.heldMask != 0 && k.g.form != 2 && !k.g.slots

/-- The gang reaches point n: the interval closes, the values of the point are kept (R377), and the decision is due. -/
def State.reach (s : State) (i : GangId) (n : Nat) : State :=
  match gctx? s i with
  | none => s
  | some k =>
    if k.g.heldMask != 0 && k.g.heldAt != some n then k.fault s 3 n
    else match (if rejoinReads k then slotEcc k n (itersOf (k.g.heldMask &&& s.live i)) s else none).or (k.gaitEcc s) with
    | some va => k.eccFault s n va
    | none =>
      let s := if k.g.heldMask != 0 then rejoin k n s else s.modGang i (fun g => { g with part := BitVec.allOnes 256 })
      let s := closeInterval i n s
      let s := s.modGang i (fun g => { g with ev := some n, due := some n, atPoint := 0, point := none })
      pointBreaks k n (undoMark k n (keepVals k n (itersOf (s.takes i)) (waitAt k n s)))

/-- All waves that take part have arrived (R359, R369). -/
def State.allArrived (s : State) (i : GangId) : Bool :=
  let m := s.takes i
  i.waves.all (fun w => match s.wave? w with
    | some x => lanesOf m w.wave == 0 || x.arrived.isSome
    | none => true)

/-- After iterations have exited or a round has committed: whether the gang has reached a point without a wave that
issues. -/
def State.rendezvous (s : State) (i : GangId) : State :=
  match gctx? s i with
  | none => s
  | some k =>
    if k.g.due.isSome then s
    else
      let m := s.takes i
      if m == 0 then (match k.g.heldAt with
        | some n => if k.g.heldMask &&& s.live i == 0 then s else s.reach i n
        | none => s)
      else match k.g.form.toNat, k.g.point with
        | 0, some n => if s.allArrived i then s.reach i n else s
        | 2, some n => if m &&& ~~~k.g.atPoint == 0 then s.reach i n else s
        | _, _ => s

/-! ### EQP (R381) -/

/-- R378: an equivalence fault of a wave. -/
def eqvFault (k : Ctx) (cause : Nat) (s : State) : Res := .held (faultAt k (k.report 14 cause .stops (k.first s) .form) s)

/-- R365: a run has reached EQP m: its values go to the slots of its iteration, and the next run starts or the gang has
reached m. -/
def runEnd (gk : GCtx) (r : Serial) (m : Nat) (s : State) : State :=
  let el := if gk.kn.serialMap m then 0 else r.run
  match slotEcc gk m [r.run] s with
  | some va => gk.eccFault s m va
  | none =>
  let s := (gk.kn.entries m).foldl (fun s e =>
    s.devWrite gk.l.asid (gk.g.slotVa r.run e.slot) 8 (locGet s gk true e r.run el).toNat) s
  match itersOf r.live with
  | j :: _ => startRun gk r.point j (setBit r.live j false) (s.modGang gk.id (fun g => { g with point := some m }))
  | [] => (s.modGang gk.id (fun g => { g with serial := none, slots := true })).reach gk.id m

/-- The arrival of a wave at EQP n. -/
def arrive (k : Ctx) (gk : GCtx) (n : Nat) (s : State) : State :=
  if k.vec then
    match k.g.serial with
    | some r => runEnd gk r n s
    | none => s.reach k.gid n
  else
    let s := s.modWave k.w (fun x => { x with arrived := some n, stall := .eqp, bpDone := true, passed := 0 })
    let s := s.modGang k.gid (fun g => { g with point := some n })
    if s.allArrived k.gid then s.reach k.gid n else s

/-- R84: the registers that the end of a SERIAL run reads and the start of the next one writes. -/
def runRegs (k : Ctx) (n : Nat) : List Reg :=
  match k.g.serial with
  | some r => (k.kn.entries n).flatMap (MapEntry.regs true)
      ++ (if r.live == 0 then [] else (.s, 63) :: (k.kn.entries r.point).flatMap (MapEntry.regs true))
  | none => []

/-- R56: EQP n is the last word of the version, and the decision that the gang would take, having reached the point in state
`t`, keeps it in its form, to continue at the address after the word. -/
def eqpFalls (k : Ctx) (n : Nat) (t : State) : Bool :=
  !k.kn.landsIn n k.g.form.toNat && (match gctx? t k.gid with
    | some gk => gk.g.due == some n && (decideForm t gk n).1.dst == gk.g.form
    | none => false)

/-- R406: `t` reaches a point with a breakpoint whose record finds the ring full. -/
def breakWaits (k : Ctx) (s t : State) : Bool :=
  !s.ringRoom k.asid && (t.gang? k.gid).map (fun g => g.brk) != (s.gang? k.gid).map (fun g => g.brk)

/-- EQP. One after which the stream would go on outside the version is illegal at its issue (R56); one whose breakpoint
finds the ring full waits with MEMORY until there is room (R406). The end of a SERIAL run waits for results and statuses that the registers it touches still await. -/
def eqpOp (f : KF) (k : Ctx) (s : State) : Res :=
  let n := fld f.x 11 0
  match k.wv.arrived with
  | some _ =>
    let t := if k.g.due.isSome then s.tryDecide k.gid else s
    if (t.gang? k.gid).any (fun g => g.due.isNone) && k.g.due.isSome then .held t else .wait .eqp t
  | none =>
    if (k.kn.eqp? n).isNone then eqvFault k 4 s
    else if !k.vec && !k.wv.dstack.isEmpty then eqvFault k 1 s
    else if (match k.g.point with | some m => m != n | none => false) then eqvFault k 3 s
    else if fopPending k (runRegs k n) then .wait .scoreboard s
    else if recvPending k s (runRegs k n) then .wait .frecv s
    else match gctx? s k.gid with
      | some gk =>
        let t := arrive k gk n (countIssue (.eqp f) k s s)
        if eqpFalls k n t then illegalRes k s
        else if breakWaits k s t then .wait .memory s
        else .held t
      | none => .wait .eqp s

def execEqp (f : KF) (s : State) : Out := issueCore (.eqp f) s (eqpOp f)

/-! ### EXIT (R178) -/

/-- Lanes of a wave exit. A wave whose other lanes are held by a restart (R369) stays, with no path of its own. -/
def exitWave (a : Word) (x : Wave) : Wave :=
  let y := x.exitLanes a
  if y.retired && x.exited ||| a != 0xFFFFFFFF then
    { y with retired := false, exited := x.exited ||| a, mask := 0, qmaps := x.qmaps }
  else y

/-- R178, R369: every iteration that takes part exits. -/
def exitAll (k : Ctx) (s : State) : State :=
  let m := s.takes k.gid
  (k.each s (fun w x => exitWave (lanesOf m w.wave) { x with mask := ~~~x.exited, dstack := [] })).modGang k.gid
    (fun g => { g with serial := none, slots := false })

/-- An EXIT after which the wave issues no further word: it has been counted when the gang may reach a point (R449, R450),
and where waves have retired it is an arrival at the crew barrier, a release (R235, R394). It waits while a breakpoint of
that point finds the ring full (R406). -/
def exitEnds (f : KF) (k : Ctx) (s t : State) (retires : Bool) : Res :=
  let t := settle k (countIssue (.exit f) k s t)
  let u := (if retires then t.released k.cluster else t).rendezvous k.gid
  if breakWaits k s u then .wait .memory s else .held u

def exitOp (f : KF) (k : Ctx) (s : State) : Res :=
  if k.vec then exitEnds f k s (exitAll k s) true
  else
    let a := actLanes f k
    let x := exitWave a k.wv
    if x.retired || x.mask == 0 then exitEnds f k s (s.setWave k.w x) x.retired
    else if k.wv.mask &&& ~~~a == 0 then go k s x
    else go k s { x with pc := x.pc + 8 }

def execExit (f : KF) (s : State) : Out := issueCore (.exit f) s (exitOp f)

/-! ### REMOUNT, GAITR, PIN (R382 to R384) -/

def execRemount (f : KF) (s : State) : Out :=
  issueCore (.remount f) s (fun k s => .done (s.modGang k.gid (fun g => { g with req := some (f.c.extractLsb' 0 2) })))

def execRemountClr (f : KF) (s : State) : Out :=
  issueCore (.remountClr f) s (fun k s => .done (s.modGang k.gid (fun g => { g with req := none })))

/-- R384, R385: GAITR.TAB. -/
def gaitTab (f : KF) (k : Ctx) (s : State) : Nat × State :=
  let b := (opS f k.wv).toNat
  if 4095 < b then (0, s) else s.devRead k.asid (k.l.gaitVa b (fld f.c 5 4)) 4

/-- R215: the cost that a GAITR.TAB names cannot be read. -/
def gaitEcc (f : KF) (k : Ctx) (s : State) : Option Nat :=
  let b := (opS f k.wv).toNat
  let va := k.l.gaitVa b (fld f.c 5 4)
  if 7 ≤ fld f.c 3 0 && b ≤ 4095 && s.devEcc k.asid va 4 then some va else none

def gaitrVal (f : KF) (k : Ctx) (s : State) : State :=
  let r : Nat × State := match fld f.c 3 0 with
    | 0 => (k.g.issue, s)
    | 1 => (k.g.laneop, s)
    | 2 => (k.g.memtx, s)
    | 3 => (k.g.fire, s)
    | 4 => (k.g.hop, s)
    | 5 => (k.g.cost.toNat, s)
    | 6 => (k.g.decision.toNat, s)
    | _ => gaitTab f k s
  r.2.modWave k.w (fun x => x.wrS (KF.D f) (BitVec.ofNat 64 r.1))

def gaitrOp (f : KF) (k : Ctx) (s : State) : Res :=
  match gaitEcc f k s with
  | some va => .held (faultAt k { k.report 2 10 .stops (k.first s) .access with va := va % 2 ^ 55 } s)
  | none => .done (gaitrVal f k s)

def execGaitr (f : KF) (s : State) : Out := issueCore (.gaitr f) s (gaitrOp f)

def execPin (f : KF) (s : State) : Out :=
  issueCore (.pin f) s (fun k s => .done (s.modGang k.gid (fun g => { g with pinned := true })))

def execPinOff (f : KF) (s : State) : Out :=
  issueCore (.pinOff f) s (fun k s => .done (s.modGang k.gid (fun g => { g with pinned := false })))

end Sys2Proof.Machine
end

