-- ==== Sys2Proof/Machine/Retire.lean ====
section
/-! DEFINITION. The retire unit: commit of a round (R298, R359), results to the crew (R278), and the precise stop with its
restart (R318, R369). -/

namespace Sys2Proof.Machine

/-! ### ROUND_COMMIT (R298) -/

/-- Every access of the round has arrived and been passed by the cursor. -/
def Crew.walked (x : Crew) (kn : Kernel) (r : Round) : Bool :=
  x.transit.all (fun t => t.entry.round != r.id) &&
    x.chains.all (fun ch => ch.paddock != r.paddock ||
      (let ch := ch.settled kn
       ch.acts.all (fun a => a.round != r.id) && ch.entries.all (fun e => e.round != r.id || e.released)))

/-- R359: in spatial form a round that ends at a SINK exits its iteration. -/
def exitIteration (s : State) (c : CrewId) (kj : Nat) : State :=
  s.modSaved (kjWave c kj) 0 (fun x =>
    let e := setBit x.exited (kj % 32) true
    if e == 0xFFFFFFFF then x.retire else { x with exited := e, mask := setBit x.mask (kj % 32) false })

/-- R359, R360, R369: an iteration has arrived at EQPN n; a record of a SPLIT names it. -/
def arriveSpatial (s : State) (c : CrewId) (kj n : Nat) : State :=
  let i := kjGang c kj
  match gctx? s i with
  | none => s
  | some k =>
    if (match k.g.point with | some m => m != n | none => false) || (k.g.heldMask != 0 && k.g.heldAt != some n) then
      k.raise s (k.recordOf s 14 3 n .stops (kj % 256))
    else s.modGang i (fun g => { g with point := some n, atPoint := setBit g.atPoint (kj % 256) true })

/-- What follows from the commit of a round of a remount start. -/
def afterCommit (s : State) (c : CrewId) (r : Round) : State :=
  if !r.remount then s
  else
    let s := match r.eqpn with
      | some n => arriveSpatial s c r.iter n
      | none => exitIteration s c r.iter
    (s.rendezvous (kjGang c r.iter)).tryDecide (kjGang c r.iter)

/-- R298, steps 2 and 3, once the stores are performed. -/
def commitRest (s : State) (c : CrewId) (r : Round) : State :=
  let s := s.modSaved (kjWave c r.iter) r.flags (fun w => w.orFlags r.flags)
  let s := s.modCrew c (fun x => { x with results := x.results ++ r.results })
  let s := s.modRound c r.id (fun r => { r with committed := true, flags := 0, results := [] })
  afterCommit s c r

/-- R298, step 1: a record for each error. The first of them stops the job before the stores of the round are released
(R407). -/
def commitErrors (s : State) (c : CrewId) (r : Round) : State :=
  let s := r.errors.foldl (fun s e => (s.raise (s.asidOf c) (errRecord s c r.paddock e)).1) s
  s.modRound c r.id (fun r => { r with errors := [] })

/-- A paddock has a chain, by which its rounds are ordered and which a precise stop acts on (R312, R318). -/
def Crew.chained (x : Crew) (pad : Nat) : Bool := x.chains.any (fun ch => ch.paddock == pad)

/-- R408: the job of a STOP stops once no older round is left to commit. -/
def State.endStop (s : State) (a : Nat) : State :=
  if (s.asid a).stopping
      && s.crews.all (fun q => s.asidOf q.1 != a || q.2.rounds.all (fun r => r.committed || !q.2.chained r.paddock)) then
    s.stopJob a
  else s

/-- R298, R390: what must commit before a round: the rounds of older iterations injected before it, and those of its own
chain, whose stores are performed in chain order. -/
def Crew.comesFirst (x : Crew) (r q : Round) : Bool :=
  !q.committed && (q.iter < r.iter || (q.paddock == r.paddock && x.chained r.paddock))

/-- ROUND_COMMIT: the k-th round of a crew. -/
def execRoundCommit (c : CrewId) (k : Nat) (s : State) : Out :=
  match s.crew? c, s.kernel? c with
  | some x, some kn =>
    match x.rounds[k]? with
    | none => .refused (.notEnabled "no such round")
    | some r =>
      if r.open_ || r.committed then .refused (.notEnabled "the round has not ended, or has committed")
      else if s.roundsHeld c r.iter || s.crewStopped c then .refused (.notEnabled "the gang is halted or its job stopped")
      else if (x.rounds.take k).any (x.comesFirst r) then .refused (.notEnabled "an older round comes first")
      else if !r.errors.isEmpty then
        (if s.ringRoom (s.asidOf c) then .next (commitErrors s c r)
         else .refused (.notEnabled "the fault record queue has no room for the record of the error"))
      else if !x.walked kn r then .refused (.notEnabled "an access of the round has not been passed")
      else if r.remount && x.freeOpen kn (fun n => n == r.id) then .refused (.notEnabled "a free access of the iteration is not performed")
      else s.unlessFull (s.asidOf c) <| match performStores c r.paddock (x.heldStores r.paddock r.id) s with
        | .stuck t => .next t
        | .all t => .next ((commitRest t c r).endStop (s.asidOf c))
  | _, _ => .refused (.notEnabled "no such crew")

/-! ### RESULT_DELIVER (R278) -/

/-- R244: the pushes of an FRECV of the wave `x` whose last pending lane `q` is about to be written, `rest` being what is
still pending then. A mapping lasts until the wave retires. -/
def lateOuts (x : Wave) (rest : List Recv) (q : Recv) : List QMap :=
  if x.retired || rest.any (fun r => r.born == q.born) then [] else q.outs

/-- R244, R246: the first of those pushes whose queue is bound to the wave's ASID no more, with the FRECV as it issued. -/
def lateUnbound (s : State) (w : WaveId) (q : Recv) (outs : List QMap) : Option (Ctx × QMap) :=
  match ctx? s w with
  | some k => (s.unboundMap k outs).map (fun m => ({ k with wv := { k.wv with pc := q.pc } }, m))
  | none => none

/-- R241, R244: the pushes wait, for a place in each queue or for the release that they are. -/
def State.pushWaits (s : State) (cl : Nat) (w : WaveId) (ms : List QMap) : Bool :=
  !ms.isEmpty && (s.releaseWaits cl w 0 || ms.any (fun m =>
    (s.queue cl m.queue).depth < (s.queue cl m.queue).entries.length + mapsOf ms m.queue))

/-- R278: the lane that `q` holds, the k-th that waits in the wave, takes a result of its crew. -/
def State.takeResult (s : State) (c : CrewId) (k : Nat) (w : WaveId) (wv : Wave) (q : Nat × Recv) (value : Dword) : State :=
  let wv := { wv with recvs := wv.recvs.eraseIdx q.1 }
  (s.setWave w (if q.2.pair then wv.wrD q.2.reg q.2.lane value else wv.wrV q.2.reg q.2.lane (value.setWidth 32))).modCrew c
    (fun x => { x with results := x.results.eraseIdx k })

/-- RESULT_DELIVER: the k-th result of a crew goes to the lane that waits for it longest: the n-th to the n-th FRECV. What its round stored is then
before every later access of the lane, so no line of L1 may be older (R392, R394). -/
def execResultDeliver (c : CrewId) (k : Nat) (s : State) : Out :=
  match s.crew? c with
  | none => .refused (.notEnabled "no such crew")
  | some x =>
    match x.results[k]? with
    | none => .refused (.notEnabled "no such result")
    | some r =>
      let same (q : Result) : Bool := q.paddock == r.paddock && q.port == r.port && q.iter == r.iter
      if x.saved then .refused (.notEnabled "the crew is saved, and the result waits for it")
      else if (x.results.take k).any same then .refused (.notEnabled "an earlier result of the lane comes first")
      else
        let w := kjWave c r.iter
        match s.wave? w with
        | none => .refused (.notEnabled "no such wave")
        | some wv =>
          match findAt wv.recvs (fun q => q.paddock == r.paddock && q.port == r.port && q.lane == r.iter % 32) with
          | none => .refused (.notEnabled "no FRECV waits for the result")
          | some q =>
            let outs := lateOuts wv (wv.recvs.eraseIdx q.1) q.2
            let t := (s.takeResult c k w wv q r.value).dropL1 x.cluster
            match lateUnbound s w q.2 outs with
            | some m => .next (faultAt m.1 { m.1.report 5 3 .stops (m.1.first s) .terms with aux := m.2.queue } t)
            | none =>
              if s.pushWaits x.cluster w outs then
                .refused (.notEnabled "the result of a mapped register waits for a place in its queue or for a release")
              else .next (t.pushRegs x.cluster w q.2.act outs)

/-! ### The precise stop (R318) -/

/-- The paddocks on whose chains a precise stop acts. -/
def Crew.roundPads (x : Crew) : List Nat :=
  (((x.rounds.filter (fun r => !r.committed)).map (fun r => r.paddock)).filter x.chained).eraseDups

/-- Whether an access of a round is parked, a chained one or a free one. -/
def Crew.parkedRound (x : Crew) (r : Round) : Bool :=
  x.chains.any (fun ch => ch.entries.any (fun e => e.round == r.id && e.parked.isSome))
    || (match x.region with
        | some g => g.places.any (fun p => p.parked.any (fun q =>
            match p.frame? q.2.cell q.2.frame with | some f => f.round == r.id | none => false))
        | none => false)

/-- The uncommitted rounds of a paddock, oldest first. -/
def Crew.openRounds (x : Crew) (pad : Nat) : List Round := x.rounds.filter (fun r => r.paddock == pad && !r.committed)

/-- The stopping round and all younger ones of a paddock, with what must commit before them: older rounds, and a bound
round, which is never discarded. -/
def Crew.stopAt (x : Crew) (pad : Nat) : List Round × List Round :=
  let rs := x.openRounds pad
  let sp := rs.span (fun r => !x.parkedRound r)
  let p := if sp.2.isEmpty then ([], rs) else sp
  match p.2 with
  | r :: t => if r.bound then (p.1 ++ [r], t) else p
  | [] => p

/-- Drop everything that belongs to discarded rounds. The chain of an exited paddock that holds no entry then gives its slot
back (R313). Their running generators and passes go on, and send no token (R409; log entry 150). -/
def Crew.discard (x : Crew) (ids : List Nat) : Crew :=
  let gone (n : Nat) : Bool := ids.contains n
  let flit (f : Flit) : Bool := match f with
    | .token t => gone t.round
    | .entry e => gone e.round
    | .drain _ _ => false
  let waits (w : BwWait) : Bool := match w.op with
    | .park f => flit f
    | .hold e => gone e.round
    | _ => false
  let place (p : Place) : Place :=
    let lost (cell no : Nat) : Bool := p.frames.any (fun f => f.cell == cell && f.no == no && gone f.round)
    { p with
      frames := p.frames.filter (fun f => !gone f.round)
      ready := p.ready.filter (fun r => !lost r.cell r.frame)
      parked := p.parked.filter (fun q => !lost q.2.cell q.2.frame)
      bwFull := p.bwFull.filter (fun w => !waits w) }
  { x with
    region := x.region.map (fun r => { r with places := r.places.map place })
    flight := x.flight.filter (fun f => !flit f)
    parks := x.parks.filter (fun k => !flit k.flit)
    parkFull := x.parkFull.filter (fun q => !flit q.2)
    heldStarts := x.heldStarts.filter (fun h => !gone h.ent.round)
    transit := x.transit.filter (fun t => !gone t.entry.round)
    chains := (x.chains.map (fun ch =>
      let acts := ch.acts.filter (fun a => !gone a.round)
      let keep (a : Nat) : Bool := acts.any (fun b => b.id == a)
      { ch with
        acts := acts
        entries := ch.entries.filter (fun e => !gone e.round)
        cursor := match ch.cursor with
          | .idle => .idle
          | .start a => if keep a then ch.cursor else .idle
          | .after a _ _ => if keep a then ch.cursor else .idle
          | .child a => if keep a then ch.cursor else .idle
          | .done a => if keep a then ch.cursor else .idle })).filter (fun ch =>
        !(x.exits.contains ch.paddock && ch.entries.isEmpty))
    rounds := x.rounds.filter (fun r => !gone r.id) }

/-- R318, R377: the slots of iterations hold the values that their last point had. -/
def refillSlots (k : GCtx) (n : Nat) (js : List Nat) (s : State) : State :=
  let es := (List.range (k.kn.entries n).length).zip (k.kn.entries n)
  js.foldl (fun s j => es.foldl (fun s e =>
    s.devWrite k.l.asid (k.g.slotVa j e.2.slot) 8 (SMap.get k.g.mapVals 0 (256 * e.1 + j)).toNat) s) s

/-- R318: the waves of a gang that is not in spatial form leave what they were doing. -/
def Wave.dropWork (x : Wave) : Wave :=
  { x with dstack := [], rstack := [], dsp := 0, rsp := 0, rpm := 0xFFFFFFFF, recvs := [], arrived := none
           mask := ~~~x.exited }

/-- R377: the values that iterations held at point n have in their slots are kept. -/
def keepHeld (k : GCtx) (n : Nat) (js : List Nat) (s : State) : State :=
  let r := pointVals { k with g := { k.g with slots := true, heldMask := BitVec.allOnes 256 } } n js s
  r.2.modGang k.id (fun g => { g with mapVals := r.1 })

/-- R318, R369: what a restart finds in the slots of a gang. Out of spatial form every iteration that takes part goes back to
the point, with the values it had there (log entry 104), and no FMTW of it waits any more (R129); those that an earlier
restart holds stay held. -/
def rewind (i : GangId) (n : Nat) (s : State) : State :=
  match gctx? s i with
  | none => s
  | some k =>
    if k.g.form == 2 then s
    else
      let s := (match slotEcc k n (itersOf (s.takes i)) s with
        | some va => k.eccFault s n va
        | none => refillSlots k n (itersOf (s.takes i)) s).eachWave i (fun _ x => x.dropWork)
      waitAt k n (s.modCrew i.crew (fun x => { x with fmtw := x.fmtw.filter (fun w => w.gang != i.gang) }))

/-- R369, R371, R377: a gang restarts some iterations at its last point; the others that have not exited are held, with the
values that they have in their slots. The gang is
halted there, and the decision waits until the debugger resumes it (R370). -/
def restartGang (i : GangId) (m : BitVec 256) (s : State) : State :=
  match s.gang? i with
  | none => s
  | some g =>
    match g.ev with
    | none => s
    | some n =>
      let m := if g.form == 2 then m else s.takes i
      let held := s.live i &&& ~~~m &&& (g.part ||| g.heldMask)
      let at_ := if held == 0 then none else if g.form == 2 then g.point.or g.heldAt else g.heldAt
      let s := rewind i n s
      let s := match gctx? s i, at_ with
        | some k, some p => keepHeld k p (itersOf (held &&& ~~~g.heldMask)) s
        | _, _ => s
      let s := s.modGang i (fun g => { g.cleared with
        part := m, heldMask := held, heldAt := at_, atPoint := 0, point := none
        interval := some n, intLive := popc m, slots := true, serial := none, due := some n, moving := none, halted := true })
      s.tryDecide i

/-- The iterations of discarded rounds, by gang. -/
def restartMask (rs : List Round) (gang : Nat) : BitVec 256 :=
  rs.foldl (fun m r => if r.iter / 256 == gang then setBit m (r.iter % 256) true else m) 0

/-- Discard the stopping rounds of a crew and, when `again`, restart their iterations. -/
def stopCrew (c : CrewId) (again : Bool) (s : State) : State :=
  match s.crew? c with
  | none => s
  | some x =>
    let rs := x.roundPads.flatMap (fun p => (x.stopAt p).2)
    let s := s.modCrew c (fun x => x.discard (rs.map (fun r => r.id)))
    if again then
      (x.gangIds c).foldl (fun s i =>
        let m := restartMask rs i.gang
        if m == 0 then s else restartGang i m s) s
    else s

/-- The crews of a job. -/
def State.crewsOf (s : State) (asid : Nat) : List CrewId :=
  (s.crews.map Prod.fst).filter (fun c => s.asidOf c == asid)

/-- PRECISE_STOP: the retire unit has committed every older round, and the rest is discarded and restarted. -/
def execPreciseStop (asid : Nat) (s : State) : Out :=
  let cs := s.crewsOf asid
  if cs.any (fun c => match s.crew? c with
      | some x => x.roundPads.any (fun p => !(x.stopAt p).1.isEmpty)
      | none => false) then .refused (.notEnabled "an older round has not committed")
  else .next (cs.foldl (fun s c => stopCrew c true s) s)

end Sys2Proof.Machine
end

