-- ==== Sys2Proof/Machine/Image.lean ====
section
/-! DEFINITION. Kernel images as the dispatcher reads and checks them at first placement (R48, R52 to R54, R188, R362,
R366, R446). -/

namespace Sys2Proof.Machine

/-- A doubleword of an address space, as the dispatcher reads it: an access of the device, which sets A and is counted where
its page is remote (R209, R211); none where the page cannot be read (log entry 28). -/
def State.vaDw (s : State) (asid va : Nat) : State × Option Dword :=
  match s.devAt asid va 8 useLoad with
  | (s, .ok l) => (s, some (BitVec.ofNat 64 (leNat (s.homeRead l 8))))
  | (s, .error _) => (s, none)

/-- `n` doublewords from an address upward. -/
def State.vaDws (s : State) (asid va : Nat) : Nat → State × Option (List Dword)
  | 0 => (s, some [])
  | n + 1 => match s.vaDw asid va with
    | (s, some d) =>
      let r := s.vaDws asid (va + 8) n
      (r.1, r.2.map (fun t => d :: t))
    | (s, none) => (s, none)

/-- A section: its identifier, offset and length, and its doublewords. -/
structure Section_ where
  sid : Nat
  off : Nat
  len : Nat
  dws : List Dword
  deriving DecidableEq, Repr

/-- The sections of the directory (R52), each read where the directory puts it, whatever its alignment and LEN say (log entry
105). -/
def State.sections (s : State) (asid image : Nat) : List (Dword × Dword) → State × Option (List Section_)
  | [] => (s, some [])
  | e :: t =>
    let len := fld e.1 63 32
    match s.vaDws asid (image + e.2.toNat) ((len + 7) / 8) with
    | (s, some ds) =>
      let r := s.sections asid image t
      (r.1, r.2.map (fun l => ⟨fld e.1 15 0, e.2.toNat, len, ds⟩ :: l))
    | (s, none) => (s, none)

/-- Doublewords two by two; one that is left over makes no record (log entry 105). -/
def pairUp : List Dword → List (Dword × Dword)
  | a :: b :: t => (a, b) :: pairUp t
  | _ => []

/-- R54: the paddock records of section 0x03, each with its number as its place; one that its own header does not describe
refuses the image (log entry 105). -/
def parsePads : Nat → Nat → List Dword → Option (List (List (List (BitVec 64))))
  | 0, _, _ => none
  | fuel + 1, n, ds =>
    match ds with
    | [] => some []
    | h :: z :: t =>
      let nb := fld h 15 12
      let size (b : Nat) : Nat := fld z (8 * b + 7) (8 * b)
      let total := ((List.range 8).map size).sum
      if fld h 63 16 != 0 || fld h 11 0 != n || nb = 0 || 8 < nb
        || (List.range 8).any (fun b => 128 < size b || (nb ≤ b && size b != 0)) || t.length < total then none
      else
        let blocks := (List.range nb).map (fun b => (t.drop ((List.range b).map size).sum).take (size b))
        (parsePads fuel (n + 1) (t.drop total)).map (fun r => blocks :: r)
    | _ => none

/-- R54: an entry of a map; none where a reserved field or a value breaks its layout. -/
def parseEntry (d : Dword) : Option MapEntry :=
  let ts := d.getLsbD 16
  if fld d 63 49 != 0 || fld d 47 45 != 0 || fld d 39 34 != 0 || fld d 23 18 != 0 || d.getLsbD 6
    || d.getLsbD 48 != ts || (!d.getLsbD 7 && 10 ≤ fld d 5 0) then none
  else some
    { tyFmt := d.getLsbD 7, ty := fld d 5 0, treg := fld d 15 8, ts := ts, tpair := d.getLsbD 17, vreg := fld d 31 24
      vs := d.getLsbD 32, vpair := d.getLsbD 33, slot := fld d 44 40 }

/-- R54: the maps of section 0x05. -/
def parseMaps : Nat → List Dword → Option (List MapD)
  | 0, _ => none
  | fuel + 1, ds =>
    match ds with
    | [] => some []
    | h :: t =>
      let n := fld h 21 16
      if fld h 63 22 != 0 || fld h 15 13 != 0 || 32 < n || t.length < n then none
      else match (t.take n).mapM parseEntry, parseMaps fuel (t.drop n) with
        | some es, some r => some (⟨fld h 11 0, h.getLsbD 12, es⟩ :: r)
        | _, _ => none

/-- R54: the symbols of section 0x0B, of which only the layout counts. -/
def symbolsOk : Nat → List Dword → Bool
  | 0, _ => false
  | fuel + 1, ds =>
    match ds with
    | [] => true
    | _ :: h :: t =>
      let n := fld h 7 0
      fld h 63 24 == 0 && fld h 23 16 < 3 && 1 ≤ n && n ≤ 63 && (n + 7) / 8 ≤ t.length
        && symbolsOk fuel (t.drop ((n + 7) / 8))
    | _ => false

/-- The EQP words of a version with their offsets. -/
def eqpWords (ws : List Dword) : List (Nat × Nat) :=
  ((List.range ws.length).zip ws).filterMap (fun w =>
    match Decode.core w.2 with
    | .ok (.eqp f) => some (fld f.x 11 0, 8 * w.1)
    | _ => none)

/-- The EQPN nodes of the paddocks. -/
def eqpNodes (ps : List (List (List (BitVec 64)))) : List Nat :=
  ps.flatMap (fun bs => (padNodes bs).filterMap (fun n => match n.i with
    | .eqpn x => some (fld x.imm 11 0)
    | _ => none))

/-- A number stands twice in a list. -/
def twice (l : List Nat) : Bool := l.eraseDups.length != l.length

/-- R362: the locations of an entry are legal together and have the width of its type. -/
def entryOk (kn : Kernel) (serial : Bool) (e : MapEntry) : Bool :=
  let wide := e.wide kn
  (if e.ts then e.vs else if serial then true else !e.vs)
    && (e.ts || e.tpair == wide) && (e.vs || e.vpair == wide)
    && (!e.tyFmt || e.ty < 8 || kn.formats.any (fun f => f.1 == e.ty))

/-- The kernel that the sections of an image make; none where a check of R52 to R54 fails. Two records of one number in
another section than that of the sites are accepted (log entry 124), and so is a site whose TOFF is no multiple of 8 (log
entry 105). -/
def kernelOf (image : Nat) (h1 : Dword) (ss : List Section_) : Option Kernel :=
  let sec (n : Nat) : Option Section_ := ss.find? (fun x => x.sid == n)
  let dws (n : Nat) : List Dword := ((sec n).map (fun x => x.dws)).getD []
  let off (n : Nat) : Nat := ((sec n).map (fun x => x.off)).getD 0
  let len (n : Nat) : Nat := ((sec n).map (fun x => x.len)).getD 0
  match parsePads 4097 0 (dws 3), parseMaps 4097 (dws 5) with
  | some pads, some maps =>
    let eqps := (pairUp (dws 4)).map (fun p =>
      (⟨fld p.1 11 0, fld p.1 63 32, fld p.2 15 0, fld p.2 31 16, fld p.2 47 32⟩ : EqpD))
    let sites := (pairUp (dws 6)).map (fun p =>
      (⟨fld p.1 10 0, fld p.1 63 32, if p.2.getLsbD 0 then some (fld p.2 63 32) else none⟩ : SiteD))
    if (pairUp (dws 4)).any (fun p => fld p.1 31 12 != 0 || fld p.2 63 48 != 0)
      || (pairUp (dws 6)).any (fun p => fld p.1 31 11 != 0 || fld p.2 31 1 != 0
        || (p.2.getLsbD 0 && (fld p.2 63 32 % 8 != 0 || len 2 ≤ fld p.2 63 32)))
      || (dws 7).any (fun d => fld d 31 6 != 0) || (dws 8).any (fun d => fld d 63 43 != 0 || fld d 31 4 != 0)
      || (dws 9).any (fun d => fld d 31 6 != 0) || !symbolsOk ((dws 11).length + 1) (dws 11)
      || twice (sites.map (fun d => d.site)) then none
    else some
      { image := BitVec.ofNat 64 image, vregs := 8 * fld h1 7 0, crw := fld h1 63 32
        forms := h1.extractLsb' 8 3, tOff := off 1, tLen := len 1, vOff := off 2, vLen := len 2, paddocks := pads
        eqps := eqps, maps := maps, sites := sites, queues := (dws 7).map (fun d => (fld d 5 0, fld d 63 32))
        chains := (dws 8).map (fun d => (fld d 3 0, fld d 42 32))
        formats := (dws 9).map (fun d => (fld d 5 0, d.extractLsb' 32 32))
        consts := ((dws 10).flatMap (fun d => leBytes 8 d.toNat)).take (len 10)
        eqpT := eqpWords (dws 1), eqpV := eqpWords (dws 2) }
  | _, _ => none

/-- R446: a launch of spatial form starts at the EQP that is the threaded version's first word. -/
def Kernel.startPoint? (kn : Kernel) : Option Nat := (kn.eqpT.find? (fun p => p.2 == 0)).map Prod.fst

/-- The checks of R48, R188, R362, R366 and R446 on a kernel and the record of its launch. An entry of section 0x09 for a
fixed entry, 0 to 7, is refused too (log entry 105). -/
def kernelOk (kn : Kernel) (l : Launch) : Bool :=
  l.allow &&& ~~~kn.forms == 0
    && kn.formats.all (fun f => 8 ≤ f.1 && fmtLegal f.2)
    && kn.maps.all (fun m => m.entries.all (entryOk kn m.serial))
    && !twice (kn.eqpT.map Prod.fst) && !twice (kn.eqpV.map Prod.fst) && !twice (eqpNodes kn.paddocks)
    && (l.form != 2 || (match kn.startPoint? with
        | some n => (kn.entries n).isEmpty && (eqpNodes kn.paddocks).contains n
        | none => false))

/-- R52: the header of an image, by its first 8 doublewords, is one that the dispatcher takes. Sizes that no assembler gives
refuse it (log entry 105). -/
def headerOk (h : List Dword) : Bool :=
  let g (i : Nat) : Dword := h.getD i 0
  let nsec := fld (g 0) 63 48
  fld (g 0) 31 0 == 0x4F414B31 && fld (g 0) 47 32 == 1 && 1 ≤ nsec && nsec ≤ 11 && fld (g 1) 31 11 == 0
    && (List.range 5).all (fun i => g (i + 3) == 0) && 1 ≤ fld (g 1) 7 0 && fld (g 1) 7 0 ≤ 32
    && fld (g 1) 63 32 ≤ 1048576 && (g 1).getLsbD 8

/-- R52: the directory names each section once, and the versions that the header names. Bits of it that R52 does not name
refuse the image (log entry 105). -/
def directoryOk (h1 : Dword) (es : List (Dword × Dword)) : Bool :=
  let ids := es.map (fun e => fld e.1 15 0)
  ids.all (fun i => 1 ≤ i && i ≤ 11) && es.all (fun e => fld e.1 31 16 == 0) && !twice ids && ids.contains 1
    && h1.getLsbD 9 == ids.contains 2 && h1.getLsbD 10 == ids.contains 3

/-- Read and check the image of a launch (R188): the kernel, or none. -/
def State.readImage (s : State) (l : Launch) : State × Option Kernel :=
  let image := fld (l.dw 0) 54 0
  match s.vaDws l.asid image 8 with
  | (s, none) => (s, none)
  | (s, some h) =>
    if !headerOk h then (s, none)
    else match s.vaDws l.asid (image + 64) (2 * fld (h.getD 0 0) 63 48) with
      | (s, none) => (s, none)
      | (s, some dir) =>
        let es := pairUp dir
        if !directoryOk (h.getD 1 0) es then (s, none)
        else
          let r := s.sections l.asid image es
          (r.1, (r.2.bind (kernelOf image (h.getD 1 0))).bind (fun kn => if kernelOk kn l then some kn else none))

end Sys2Proof.Machine
end

