-- ==== Sys2Proof/Machine/Place.lean ====
section
/-! DEFINITION. The dispatcher: prerequisites and the argument block (R185, R199), placement (R186 to R188, R446, R454),
aging (R187), queue triggers (R243), and the retirement of crews and launches (R196). -/

namespace Sys2Proof.Machine

/-! ### Records of the device itself -/

/-- A RESUMABLE record about an access that the device makes for a launch (R185, R196, R199). -/
def State.launchMemory (s : State) (l asid cause va : Nat) : State × BitVec 32 :=
  s.raise asid { kind := 2, cause := cause, status := .resumable, launch := l, va := va % 2 ^ 55 }

/-- A record of kind LAUNCH that stops the job (R405). -/
def State.launchFault (s : State) (l asid aux : Nat) : State :=
  (s.raise asid { kind := 8, launch := l, aux := aux }).1

/-! ### Retirement of a launch (R196) -/

/-- The stores of a launch's waves that are still pending on this module are performed: DONE is a release at DEVICE
scope. -/
def State.settleLaunch (s : State) (l : Nat) : State :=
  let mine (p : PStore) : Bool := p.wave.crew.launch == l && !p.loc.rmt
  (s.clusters.map Prod.fst).foldl (fun s cl => s.performPicked cl mine) s

/-- A launch whose crews have retired adds 1 to DONE and is gone; a cause of R212 holds it or stops the job. -/
def State.retireLaunch (s : State) (n : Nat) (l : Launch) : State :=
  let va := (l.dw 13).toNat
  let s := s.settleLaunch n
  let gone (s : State) : State := { s with launches := Tab.drop s.launches n }
  if va = 0 then gone s
  else match s.devAt l.asid va 8 useStore with
    | (s, .ok loc) => gone (s.homeWrite loc (leBytes 8 ((leNat (s.homeRead loc 8) + 1) % 2 ^ 64)))
    | (s, .error c) =>
      if causeRecoverable c then
        let q := s.launchMemory n l.asid c va
        q.1.setLaunch n { l with state := .retiring, inQueue := false, held := some q.2 }
      else (s.raise l.asid { kind := 2, cause := c, launch := n, va := va % 2 ^ 55 }).1.setLaunch n
        { l with state := .retiring, inQueue := false }

/-! ### LAUNCH_PREREQ_READ (R185) -/

/-- The used prerequisites: counter and threshold. -/
def Launch.prereqs (l : Launch) : List (Nat × Nat) :=
  ((List.range 4).map (fun k => ((l.dw (5 + 2 * k)).toNat, (l.dw (6 + 2 * k)).toNat))).filter (fun p => p.1 != 0)

/-- Read counters in order: whether all are met, or the first cause and its address. -/
def readPrereqs (asid : Nat) : List (Nat × Nat) → State → State × Except (Nat × Nat) Bool
  | [], s => (s, .ok true)
  | p :: t, s =>
    match s.devAt asid p.1 8 useLoad with
    | (s, .error c) => (s, .error (c, p.1))
    | (s, .ok loc) =>
      let met := p.2 ≤ leNat (s.homeRead loc 8)
      match readPrereqs asid t s with
      | (s, .ok r) => (s, .ok (met && r))
      | (s, .error e) => (s, .error e)

/-- LAUNCH_PREREQ_READ. -/
def execLaunchPrereqRead (n : Nat) (s : State) : Out :=
  match s.launch? n with
  | none => .refused (.notEnabled "no such launch")
  | some l =>
    if l.state != .waiting || l.held.isSome || s.jobOff l.asid then
      .refused (.notEnabled "the launch is ready, held by a record, or its job is stopped")
    else s.unlessFull l.asid <| match readPrereqs l.asid l.prereqs s with
      | (s, .ok true) =>
        if l.niter = 0 then .next (s.retireLaunch n l) else .next (s.setLaunch n { l with state := .ready })
      | (s, .ok false) => .next s
      | (s, .error e) =>
        if causeRecoverable e.1 then
          let q := s.launchMemory n l.asid e.1 e.2
          .next (q.1.setLaunch n { l with held := some q.2 })
        else .next (s.launchFault n l.asid 5)

/-- Read doublewords upward: the bytes, or the first cause and its address. -/
def readArgs (asid va : Nat) : Nat → State → State × Except (Nat × Nat) (List Byte)
  | 0, s => (s, .ok [])
  | k + 1, s =>
    match s.devAt asid va 8 useLoad with
    | (s, .error c) => (s, .error (c, va))
    | (s, .ok loc) =>
      match readArgs asid (va + 8) k s with
      | (s, .ok bs) => (s, .ok (s.homeRead loc 8 ++ bs))
      | (s, .error e) => (s, .error e)

/-! ### CREW_PLACEMENT (R186, R188, R240, R446, R454) -/

def Cluster.qcap (c : Cluster) (q : Nat) : Nat := fld (SMap.get c.qlim 0x08000000 q) 27 16
def Cluster.qmin (c : Cluster) (q : Nat) : Nat := fld (SMap.get c.qlim 0x08000000 q) 11 0

/-- A queue that nothing binds (R240). -/
def Queue.isFree (q : Queue) : Bool := q.declarers == 0 && q.entries.isEmpty && q.trig == 0

/-- R240: the sum of the effective minimums of the bound queues of a cluster. -/
def Cluster.qsum (c : Cluster) : Nat :=
  (c.queues.map (fun q => if q.2.isFree then 0 else max (c.qmin q.1) q.2.depth)).sum

/-- R240: the queues that a kernel declares can bind. -/
def queuesFit (c : Cluster) (asid : Nat) (ds : List (Nat × Nat)) : Bool :=
  let new := ds.filter (fun d => (c.queue d.1).isFree)
  ds.all (fun d => d.2 ≤ c.qcap d.1
    && ((c.queue d.1).isFree || ((c.queue d.1).asid == asid && (c.queue d.1).depth == d.2)))
    && c.qsum + (new.map (fun d => max (c.qmin d.1) d.2)).sum ≤ 2048

/-- A crew that declares a queue on its cluster. -/
def Cluster.declare (c : Cluster) (asid : Nat) (d : Nat × Nat) : Cluster :=
  let q := c.queue d.1
  let q := if q.isFree then { Queue.init with asid := asid, depth := d.2, declarers := 1 }
    else { q with declarers := q.declarers + 1 }
  { c with queues := SMap.set c.queues Queue.init d.1 q }

/-- The lane registers that the resident waves of a cluster hold, in registers per wave, and how many waves (R10, R186). -/
def State.coreUse (s : State) (cl : Nat) : Nat × Nat :=
  let ws := s.waves.filterMap (fun p => match s.crew? p.1.crew with
    | some x => if x.cluster == cl && !x.saved && !p.2.retired then (s.kernel? p.1.crew).map (fun kn => kn.vregs) else none
    | none => none)
  (ws.sum, ws.length)

/-- The crew memory in use on a cluster. -/
def State.crwUse (s : State) (cl : Nat) : Nat :=
  (s.crews.map (fun p => if p.2.cluster == cl && !p.2.saved then ((s.kernel? p.1).map (fun kn => kn.crw)).getD 0 else 0)).sum

/-- Whether a cluster has the core's resources for `g` gangs of a kernel (R186). -/
def State.coreFits (s : State) (cl g : Nat) (kn : Kernel) : Bool :=
  let u := s.coreUse cl
  u.2 + 8 * g ≤ 1024 && u.1 + 8 * g * kn.vregs ≤ 32768 && s.crwUse cl + kn.crw ≤ 2097152

/-- The gangs of crew `k` of a launch (R19). -/
def Launch.crewGangs (l : Launch) (k : Nat) : Nat := min l.crewSize (l.ngangs - k * l.crewSize)

/-- R19: the lanes of a wave that start live. -/
def Launch.liveLanes (l : Launch) (crew gang wave : Nat) : Word :=
  let first := 256 * (crew * l.crewSize + gang) + 32 * wave
  if first + 32 ≤ l.niter then 0xFFFFFFFF
  else if l.niter ≤ first then 0
  else BitVec.ofNat 32 (2 ^ (l.niter - first) - 1)

/-- R454: the gangs and waves of a crew before any wave issues; the records of the gangs lie one behind the other from one
HOBASE (log entry 143). -/
def State.startGang (s : State) (c : CrewId) (l : Launch) (p : Placement) (g : Nat) : State :=
  let id : GangId := ⟨c, g⟩
  let s := s.setGang id { Gang.start l.form (p.hoBase + BitVec.ofNat 64 (65664 * g)) with
    halted := (s.asid l.asid).halt, intLive := 0 }
  id.waves.foldl (fun s w =>
    let m := l.liveLanes c.crew g w.wave
    let x := Wave.start m s.now
    s.setWave w (if l.form == 1 then x.wrM 7 m else x)) s

/-- R446: a gang of spatial form starts as a remount start at the point of the first threaded word. -/
def State.startSpatial (s : State) (i : GangId) : State :=
  match gctx? s i with
  | none => s
  | some k =>
    match k.kn.startPoint? with
    | none => s
    | some n =>
      let m := s.live i
      match hdrEcc k s with
      | some va => k.eccFault s n va
      | none =>
      let s := writeHeader k n 2 m 0 0 s
      let s := s.modGang i (fun g => { g with interval := some n, intForm := 2, intLive := popc m, ev := some n })
      startTokens k n (itersOf m) s

/-- Drop a crew with everything it holds. -/
def State.dropCrew (s : State) (c : CrewId) (x : Crew) (kn : Kernel) : State :=
  let s := { s with
    crews := Tab.drop s.crews c
    gangs := s.gangs.filter (fun g => g.1.crew != c)
    waves := s.waves.filter (fun w => w.1.crew != c) }
  s.modCluster x.cluster (fun q =>
    let q := { q with
      parties := q.parties.filter (fun p => p.wave.crew != c)
      copies := q.copies.filter (fun k => k.wave.crew != c) }
    kn.queues.foldl (fun q d =>
      let y := q.queue d.1
      { q with queues := SMap.set q.queues Queue.init d.1 { y with declarers := y.declarers - 1 } }) q)

/-- What placing the next crew of a launch on a cluster comes to. -/
inductive Placed where
  | no (why : String)
  | failed (s : State)
  | done (s : State)

/-- R260, R446: the paddocks of a placed crew are loaded, and its gangs start. -/
def State.startRegion (s : State) (c : CrewId) (x : Crew) : Given :=
  match s.loadRegion c with
  | .ok t => .ok ((x.gangIds c).foldl (fun s i => s.startSpatial i) t)
  | r => r

/-- The crew is made and its resources are taken. Of two entries of one number in section 0x09 the later one stands (log
entry 124). In spatial form its paddocks are loaded once the argument block has been
read (R199, R320); a chain deeper than every WCAP binds nowhere and its load is refused then (R313). -/
def State.makeCrew (s : State) (l : Launch) (kn : Kernel) (p : Placement) : Placed :=
  let c : CrewId := ⟨p.launch, l.placed⟩
  let ng := l.crewGangs l.placed
  let x := Crew.start p.cluster ng l.eff (s.asid l.asid).debug
    (kn.formats.foldl (fun m f => SMap.set m 0 f.1 (f.2 ||| 0x80000000)) []) p.ctxBase p.undoBase p.bwBase
  let n := l.placed + 1
  let full := l.ncrews ≤ n
  let s := s.setLaunch p.launch { l with
    placed := n, inQueue := l.inQueue && !full, state := if full then .placed else .ready }
  let s := (s.setCrew c x).modCluster p.cluster (fun q =>
    { kn.queues.foldl (fun q d => q.declare l.asid d) q with
      l1 := [], gate := if q.gate == .request then .open_ else q.gate })
  let s := (List.range ng).foldl (fun s g => s.startGang c l p g) s
  if l.form == 2 then
    match s.placeRegion c (kn.firstPads.filter (fun i => !kn.tooDeep (s.cluster p.cluster) i)) with
    | none => .no "no places or weir slots for the paddocks"
    | some t =>
      if !l.argsRead then .done t
      else match t.startRegion c x with
        | .noRoom => .no "no places or weir slots for the paddocks"
        | .refused u => .failed ((u.dropCrew c x kn).setLaunch p.launch { l with state := .stopped })
        | .ok u => .done u
  else .done s

/-- R188, R240, R366, R446: the tests of first placement: the kernel, or the cause of the LAUNCH record. -/
def State.firstTests (s : State) (l : Launch) : State × Except Nat Kernel :=
  match s.readImage l with
  | (s, none) => (s, .error 1)
  | (s, some kn) =>
    (s, if kn.queues.any (fun d => (List.range 104).all (fun cl => (s.cluster cl).qcap d.1 < d.2)) then .error 3 else .ok kn)

/-- Place the next crew of a launch on a cluster. -/
def State.placeAt (s : State) (p : Placement) (l : Launch) : Placed :=
  let cl := s.cluster p.cluster
  if 104 ≤ p.cluster || (match l.only with | some o => o != p.cluster | none => false) then
    .no "the launch is not placed on that cluster"
  else if l.placed = 0 && p.prvBase.toNat % 65536 != 0 then .no "PRVBASE is not 64 KiB aligned"
  else
    let t : State × Except Nat (Launch × Kernel) := match l.kernel with
      | some kn => (s, .ok (l, kn))
      | none => match s.firstTests l with
        | (s, .ok kn) => (s, .ok ({ l with kernel := some kn, prvBase := p.prvBase, gtBase := p.gtBase }, kn))
        | (s, .error a) => (s, .error a)
    match t with
    | (s, .error a) => .failed ((s.launchFault p.launch l.asid a).setLaunch p.launch { l with state := .stopped })
    | (s, .ok q) =>
      if cl.isOff || s.retiring p.cluster then .no "the cluster is gated or retires"
      else if !s.coreFits p.cluster (l.crewGangs l.placed) q.2 then .no "no room for the crew"
      else if !queuesFit cl l.asid q.2.queues then .no "a queue of the crew cannot bind"
      else s.makeCrew q.1 q.2 p

/-- A launch that has crews to place. -/
def State.placing (s : State) (l : Launch) : Bool :=
  l.state == .ready && l.placed < l.ncrews && !s.jobOff l.asid

/-- Whether some cluster takes the next crew of a launch now. -/
def State.canPlace (s : State) (n : Nat) (l : Launch) : Bool :=
  (List.range 104).any (fun cl => match s.placeAt ⟨n, cl, 0, 0, 0, 0, 0, 0⟩ l with
    | .no _ => false
    | _ => true)

/-- R186: an earlier launch of the same priority has a crew to place. -/
def State.barred (s : State) (n : Nat) (l : Launch) : Bool :=
  (s.launches.takeWhile (fun m => m.1 != n)).any (fun m => s.placing m.2 && m.2.eff == l.eff)

/-- R186: a launch that is considered before launch `n` keeps it waiting: an earlier one of its priority that has a crew to
place, or one of higher priority, behind no other of its own, whose crew can be placed. -/
def State.behind (s : State) (n : Nat) (l : Launch) : Bool :=
  s.barred n l
    || s.launches.any (fun m => s.placing m.2 && l.eff < m.2.eff && !s.barred m.1 m.2 && s.canPlace m.1 m.2)

/-- CREW_PLACEMENT. A dispatch that only a gated cluster can take begins its wake and waits (R416). -/
def execCrewPlacement (p : Placement) (s : State) : Out :=
  match s.launch? p.launch with
  | none => .refused (.notEnabled "no such launch")
  | some l =>
    if !s.placing l || s.behind p.launch l then
      .refused (.notEnabled "the launch has no crew to place, or another launch comes first")
    else if p.ctxBase.toNat % 65536 != 0 || p.hoBase.toNat % 128 != 0 then
      .refused (.notEnabled "CTXBASE or HOBASE is not aligned")
    else match s.placeAt p l with
      | .failed t => .next t
      | .done t => .next t
      | .no why =>
        if (s.cluster p.cluster).gate == .gated && !s.canPlace p.launch l
            && (match (s.modCluster p.cluster (fun c => { c with gate := .open_ })).placeAt p l with
              | .no _ => false
              | _ => true) then
          .next (s.modCluster p.cluster (fun c => { c with gate := .waking }))
        else .refused (.notEnabled why)

/-- AGING_PERIOD (R187). -/
def execAgingPeriod (n : Nat) (s : State) : Out :=
  match s.launch? n with
  | none => .refused (.notEnabled "no such launch")
  | some l =>
    if s.ageb == 0 || l.state != .ready then .refused (.notEnabled "the launch does not age")
    else .next (s.setLaunch n { l with eff := min 15 (l.eff + 1) })

/-! ### ARGUMENT_BLOCK_READ (R199) -/

/-- R81: a launch whose paddocks are refused places no crew. -/
def State.dropCrews (s : State) (n : Nat) (l : Launch) (kn : Kernel) : State :=
  ((s.crews.filter (fun q => q.1.launch == n)).foldl (fun s q => s.dropCrew q.1 q.2 kn) s).setLaunch n
    { l with state := .stopped }

/-- The crews that were placed in spatial form start. -/
def startCrews : List (CrewId × Crew) → State → Given
  | [], s => .ok s
  | q :: t, s => match s.startRegion q.1 q.2 with
    | .ok u => startCrews t u
    | r => r

/-- The block is read: the crews of the launch start. -/
def State.argsDone (s : State) (n : Nat) (l : Launch) (bs : List Byte) : State :=
  let l := { l with args := Memory.write [] 0 bs, argsRead := true }
  let s := s.setLaunch n l
  if l.form == 2 then
    match startCrews (s.crews.filter (fun q => q.1.launch == n)) s, l.kernel with
    | .ok t, _ => t
    | .refused t, some kn => t.dropCrews n l kn
    | _, _ => s
  else s

/-- ARGUMENT_BLOCK_READ: once the first crew is placed. -/
def execArgumentBlockRead (n : Nat) (s : State) : Out :=
  match s.launch? n with
  | none => .refused (.notEnabled "no such launch")
  | some l =>
    if l.argsRead || l.held.isSome || s.jobOff l.asid || l.placed = 0 then
      .refused (.notEnabled "the block has been read, is held by a record, or no crew is placed")
    else
      let va := (l.dw 4).toNat
      if va = 0 then s.unlessFull l.asid (.next (s.argsDone n l []))
      else s.unlessFull l.asid <| match readArgs l.asid va 512 s with
        | (s, .ok bs) => .next (s.argsDone n l bs)
        | (s, .error e) =>
          if causeRecoverable e.1 then
            let q := s.launchMemory n l.asid e.1 e.2
            .next (q.1.setLaunch n { l with held := some q.2 })
          else .next (s.launchFault n l.asid 2)

/-! ### TRIGGER_CONSUME (R243) -/

def execTriggerConsume (cl q : Nat) (s : State) : Out :=
  let x := s.queue cl q
  match x.handler with
  | none => .refused (.notEnabled "no handler is bound")
  | some h =>
    if x.trig = 0 then .refused (.notEnabled "no trigger is latched")
    else
      let st := s.enqStatus x.asid h.2 h.1
      let t := s.setQueue cl q { x with trig := x.trig - 1 }
      if st = 1 then .refused (.notEnabled "the launch queue is full")
      else if st = 0 then .next (t.accept h.2 h.1 (some cl))
      else s.unlessFull x.asid (.next (t.raise x.asid { kind := 8, cluster := cl, aux := 4 }).1)

/-! ### CREW_RETIRE (R196) -/

/-- Whether the waves of a crew have all retired. -/
def State.allRetired (s : State) (c : CrewId) : Bool :=
  s.waves.all (fun p => p.1.crew != c || p.2.retired)

/-- Whether the work of a crew has drained: copies, fabric work, the memory cells of its places (R270, R275), matrix work,
and the triggers of the queues that it declares (R196), bound to a handler or not (log entry 151). A round that has not ended holds nothing up (R270), and its held stores are never
performed. -/
def State.drained (s : State) (c : CrewId) (x : Crew) (kn : Kernel) : Bool :=
  let places := match x.region with | some r => r.places | none => []
  (s.cluster x.cluster).copies.all (fun k => k.wave.crew != c)
    && x.fops.isEmpty && x.flight.isEmpty && x.transit.isEmpty && x.heldStarts.isEmpty && x.mx.isEmpty
    && x.chains.all (fun ch => ch.entries.all (fun e => x.rounds.any (fun r => r.id == e.round && r.open_)))
    && x.rounds.all (fun r => r.open_ || r.committed)
    && places.all (fun p => p.next.isEmpty && p.frames.isEmpty && p.ready.isEmpty && p.parked.isEmpty
        && (List.range 8).all p.mcellDone)
    && x.parks.isEmpty && x.copies.isEmpty
    && kn.queues.all (fun d => let q := s.queue x.cluster d.1; q.trig == 0 || q.asid != s.asidOf c)

/-- R264: a parked token's paddock was never loaded, and no load of it is under way; in a given region too, once the waves
have retired. -/
def Crew.lost (x : Crew) (k : Park) : Bool :=
  k.place.isNone && (x.swapped? k.paddock).isNone && (x.home? k.paddock).isNone && (x.loading? k.paddock).isNone

/-- CREW_RETIRE. Once the waves have retired, tokens still parked for paddocks that were never loaded are dropped with
ORPHAN records (R264). -/
def execCrewRetire (c : CrewId) (s : State) : Out :=
  match s.crew? c, s.launch? c.launch with
  | some x, some l =>
    match l.kernel with
    | some kn =>
      if !s.allRetired c || s.jobOff l.asid then
        .refused (.notEnabled "the crew has waves left, or its job is stopped")
      else if x.parks.any x.lost then
        if !s.ringRoom l.asid then .refused (.notEnabled "the fault record queue is full") else
        let s := s.modCrew c (fun x => { x with parks := x.parks.filter (fun k => !x.lost k) })
        .next ((x.parks.filter x.lost).foldl (fun s k => s.orphan c x k.flit) s)
      else if !s.drained c x kn then .refused (.notEnabled "the crew has work left")
      else
        let s := s.dropCrew c x kn
        let l := { l with gone := l.gone + 1 }
        let s := s.setLaunch c.launch l
        .next (if l.gone = l.ncrews && l.placed = l.ncrews && !s.jobOff l.asid then s.retireLaunch c.launch l else s)
    | none => .refused (.notEnabled "no such crew")
  | _, _ => .refused (.notEnabled "no such crew")

end Sys2Proof.Machine
end

