-- ==== Sys2Proof/Machine/Firm.lean ====
section
/-! DEFINITION. Firmware, pre-emption and debug (R406 to R423), gating (R416), power and the curb (R442, R443), live service
(R444, R445), and keys (R436). -/

namespace Sys2Proof.Machine

/-! ### Parties that a record holds (R407, R408, R415) -/

/-- A gang in spatial form whose decision waits takes it, if nothing holds it any more (R370). -/
def State.decideSpatial (s : State) (asid : Nat) : State :=
  (s.gangs.map Prod.fst).foldl (fun s i =>
    if s.asidOf i.crew == asid && (match s.gang? i with | some g => g.form == 2 && g.due.isSome | none => false)
    then s.tryDecide i else s) s

/-- What a record holds in a place: parked firings fire again, generators proceed, and an operation that found a backwater
full is tried again. -/
def Place.release (q : BitVec 32) (p : Place) : Place :=
  { p with
    ready := p.ready ++ (p.parked.filter (fun r => r.1 == q)).map Prod.snd
    parked := p.parked.filter (fun r => r.1 != q)
    bwFull := p.bwFull.filter (fun w => w.seq != q)
    mcells := p.mcells.map (fun m => (m.1, { m.2 with
      gens := m.2.gens.map (fun g => (g.1, if g.2.parked == some q then { g.2 with parked := none } else g.2)) })) }

/-- A copy that a record holds. -/
def Copy.release (q : BitVec 32) (c : Copy) : Copy := if c.parked == some q then { c with parked := none } else c

/-- What a record holds in a crew. -/
def Crew.release (q : BitVec 32) (x : Crew) : Crew :=
  { x with
    region := x.region.map (fun r => { r with places := r.places.map (Place.release q) })
    parkFull := x.parkFull.filter (fun p => p.1 != q)
    chains := x.chains.map (fun ch => { ch with
      entries := ch.entries.map (fun e => if e.parked == some q then { e with parked := none } else e) })
    mx := x.mx.map (fun i => if i.parked == some q then { i with parked := none } else i)
    copies := x.copies.map (Copy.release q) }

/-- Whether a record holds a party of a place or a crew. -/
def Place.heldBy (q : BitVec 32) (p : Place) : Bool :=
  p.parked.any (fun r => r.1 == q) || p.bwFull.any (fun w => w.seq == q)
    || p.mcells.any (fun m => m.2.gens.any (fun g => g.2.parked == some q))

def Crew.heldBy (q : BitVec 32) (x : Crew) : Bool :=
  (match x.region with | some r => r.places.any (Place.heldBy q) | none => false)
    || x.chains.any (fun ch => ch.entries.any (fun e => e.parked == some q)) || x.mx.any (fun i => i.parked == some q)
    || x.copies.any (fun c => c.parked == some q) || x.parkFull.any (fun p => p.1 == q)

/-- R294: firmware has enlarged the backwaters for which operations of a crew wait under a record, by `more` frames. -/
def State.enlarge (s : State) (q : BitVec 32) (more : Nat) (x : Crew) : State :=
  let ps := match x.region with | some r => r.places | none => []
  ((ps.flatMap (fun p => p.bwFull)).filter (fun w => w.seq == q)).foldl (fun s w =>
    s.modPlace w.crew w.place (fun p => { p with bwCap := p.bwCap + more })) s

/-- R264: firmware has extended the park area: a token that waits for it under a record is parked, unless its paddock has
been placed in the meantime. -/
def State.extendPark (s : State) (c : CrewId) (q : BitVec 32) (x : Crew) : State :=
  match s.kernel? c with
  | none => s
  | some kn => (x.parkFull.filter (fun p => p.1 == q)).foldl (fun s p =>
      match p.2.aim with
      | some a =>
        if x.mapped kn a.2 == .unplaced then
          s.modCrew c (fun y => { y with flight := y.flight.erase p.2, parks := y.parks ++ [⟨a.2, none, p.2⟩] })
        else s
      | none => s) s

/-- What firmware has done before it resumes the parties of a record. -/
def State.giveRoom (s : State) (a : Nat) (q : BitVec 32) (more : Nat) : State :=
  (s.crews.filter (fun p => s.asidOf p.1 == a)).foldl (fun s p => (s.enlarge q more p.2).extendPark p.1 q p.2) s

/-- R408: whether a record of a job holds a party. -/
def State.holds (s : State) (a : Nat) (q : BitVec 32) : Bool :=
  let mine (c : CrewId) : Bool := s.asidOf c == a
  s.waves.any (fun w => mine w.1.crew && w.2.pending == some q)
    || s.gangs.any (fun g => mine g.1.crew && g.2.brk == some q)
    || s.crews.any (fun c => mine c.1 && c.2.heldBy q)
    || s.clusters.any (fun c => c.2.copies.any (fun k => mine k.wave.crew && k.parked == some q))
    || s.launches.any (fun l => l.2.asid == a && l.2.held == some q)

/-- A launch that a record held: its DONE increment is tried again, its other reads are made again later. -/
def State.releaseLaunches (s : State) (a : Nat) (q : BitVec 32) : State :=
  (s.launches.filter (fun l => l.2.asid == a && l.2.held == some q)).foldl (fun s l =>
    let x := { l.2 with held := none }
    let s := s.setLaunch l.1 x
    if x.state == .retiring then s.retireLaunch l.1 x else s) s

/-- The copies of a job that a record holds go on. -/
def Cluster.releaseCopies (c : Cluster) (s : State) (a : Nat) (q : BitVec 32) : Cluster :=
  { c with copies := c.copies.map (fun (k : Copy) => if s.asidOf k.wave.crew == a then k.release q else k) }

/-- RETURNING FROM AN EXCEPTION (R407, R408, R415): the party that a record holds goes on. A gang that a BREAK halted goes
on unless its whole job is halted; how far firmware enlarges a backwater is a free value. In a stopped job what is parked
stays parked, and no DONE counter is incremented (R409). -/
def State.resume (s : State) (a : Nat) (q : BitVec 32) : State :=
  if !s.holds a q || (s.asid a).stopped then s
  else
    let more := s.fresh
    let s := (more.2.releaseWaves a q).giveRoom a q (more.1 % 2 ^ 32 + 1)
    let halt := (s.asid a).halt
    let s := { s with
      gangs := Tab.map s.gangs (fun i g =>
        if s.asidOf i.crew == a && g.brk == some q then { g with brk := none, halted := halt } else g)
      crews := Tab.map s.crews (fun c x => if s.asidOf c == a then x.release q else x)
      clusters := s.clusters.map (fun (c : Nat × Cluster) => (c.1, c.2.releaseCopies s a q)) }
    (s.releaseLaunches a q).decideSpatial a

/-- RESUME. -/
def execResume (asid : Nat) (seq : BitVec 32) (s : State) : Out := s.byFirmware (.next (s.resume asid seq))

/-! ### STOP (R318, R408, R409) -/

/-- Whether a round that must commit before the stop holds a parked access, so that it never ends. -/
def Crew.neverEnds (x : Crew) : Bool :=
  x.roundPads.any (fun p => (x.stopAt p).1.any (fun r => x.parkedRound r))

/-- R408: a precise stop of the spatial work; then the job stops, once every older round has committed. -/
def State.stopRecord (s : State) (a : Nat) (q : BitVec 32) : State :=
  if !s.holds a q then s
  else
    let cs := s.crewsOf a
    if cs.any (fun c => match s.crew? c with | some x => x.neverEnds | none => false) then s.stopJob a
    else
      let s := cs.foldl (fun s c => stopCrew c false s) s
      (s.modAsid a (fun x => { x with stopping := true })).endStop a

def execStop (asid : Nat) (seq : BitVec 32) (s : State) : Out := s.byFirmware (.next (s.stopRecord asid seq))

/-! ### The debugger (R418, R447, R453) -/

/-- DBGCTL.HALT := 1. -/
def State.haltJob (s : State) (a : Nat) : State :=
  let s := s.modAsid a (fun x => { x with halt := true })
  { s with gangs := Tab.map s.gangs (fun i g => if s.asidOf i.crew == a then { g with halted := true } else g) }

def execHalt (asid : Nat) (s : State) : Out := s.byFirmware (.next (s.haltJob asid))

/-- DBGCTL.HALT := 0: every gang that no BREAK record holds goes on. -/
def State.resumeJob (s : State) (a : Nat) : State :=
  let s := s.modAsid a (fun x => { x with halt := false })
  let s := { s with gangs := Tab.map s.gangs (fun i g =>
    if s.asidOf i.crew == a && g.brk.isNone then { g with halted := false } else g) }
  s.decideSpatial a

def execResumeGangs (asid : Nat) (s : State) : Out := s.byFirmware (.next (s.resumeJob asid))

/-- GANG_RESUME: the debugger resumes one gang, and may set the form of its next decision, or clear that setting with
form 3 (R375). -/
def execGangResume (c : CrewId) (gang : Nat) (form : Option (BitVec 2)) (s : State) : Out :=
  s.byFirmware <| match s.gang? ⟨c, gang⟩ with
  | none => .refused (.notEnabled "no such gang")
  | some g =>
    let set := match form with
      | none => g.dbgForm
      | some f => if f == 3 then none else some f
    .next ((s.setGang ⟨c, gang⟩ { g with halted := false, brk := none, dbgForm := set }).decideSpatial (s.asidOf c))

/-! ### Pre-emption (R410 to R413) -/

/-- R438: a write of PREEMPT. -/
def State.preemptWrite (s : State) (a : Nat) (v : Dword) : State :=
  { s with crews := Tab.map s.crews (fun c x =>
    if s.asidOf c == a && x.cluster == fld v 6 0 && c.crew == fld v 47 8 && !x.saved then { x with preempt := true } else x) }

def execPreemptRequest (asid : Nat) (value : Dword) (s : State) : Out := s.byFirmware (.next (s.preemptWrite asid value))

/-- R186, R410: a crew holds some of what the core of a cluster lacks for the next crew of a launch: it has waves and their
registers whatever it is, and crew memory if its kernel asks for any. -/
def State.holdsLacking (s : State) (c : CrewId) (cl : Nat) (l : Launch) : Bool :=
  match l.kernel.or (match s.firstTests l with | (_, .ok kn) => some kn | _ => none) with
  | none => false
  | some kn =>
    let u := s.coreUse cl
    let g := l.crewGangs l.placed
    1024 < u.2 + 8 * g || 32768 < u.1 + 8 * g * kn.vregs
      || 2097152 < s.crwUse cl + kn.crw && ((s.kernel? c).map (fun kn => kn.crw != 0)).getD false

/-- R410: a ready launch of at least the crew's priority waits for what the crew holds: crews of the cluster of at most the
launch's priority, this one among them, would make room for it (log entry 75). -/
def State.wanted (s : State) (c : CrewId) (x : Crew) : Bool :=
  s.launches.any (fun l =>
    let t := { s with crews := Tab.map s.crews (fun _ y =>
      if y.cluster == x.cluster && y.prio ≤ l.2.eff then { y with saved := true } else y) }
    s.placing l.2 && x.prio ≤ l.2.eff && !s.canPlace l.1 l.2 && s.holdsLacking c x.cluster l.2
      && (match t.placeAt ⟨l.1, x.cluster, 0, 0, 0, 0, 0, 0⟩ l.2 with | .no _ => false | _ => true))

/-- R415: a halt or a pending fault of the crew. -/
def State.disturbed (s : State) (c : CrewId) : Bool :=
  s.gangs.any (fun g => g.1.crew == c && g.2.halted) || s.waves.any (fun w => w.1.crew == c && w.2.pending.isSome)

/-- SLICE_TIMER_EXPIRY. How many issue cycles have passed is timing; an expiry that meets a halt or a pending fault is
discarded. -/
def execSliceTimerExpiry (c : CrewId) (s : State) : Out :=
  match s.crew? c with
  | none => .refused (.notEnabled "no such crew")
  | some x =>
    if (s.cluster x.cluster).tslice = 0 || x.saved || !s.wanted c x then
      .refused (.notEnabled "the slice timer is off, or nothing waits for the crew's resources")
    else if s.disturbed c then .next s
    else .next (s.setCrew c { x with preempt := true })

/-- Write `n` free bytes: what the spec leaves to the device in the context area. -/
def State.scribble (s : State) (a : Nat) : Nat → State
  | 0 => s
  | n + 1 => State.scribble (s.fresh.2.physWrite a [BitVec.ofNat 8 s.fresh.1]) (a + 1) n

def State.putLe (s : State) (a n v : Nat) : State := s.physWrite a (leBytes n v)

/-- R413: the wave block of a wave. Its stall reason is the one that the wave reports now (R190; log entry 29). -/
def State.saveWave (s : State) (x : Crew) (kn : Kernel) (w : WaveId) : State :=
  match s.wave? w with
  | none => s
  | some y =>
    let n := 8 * w.gang + w.wave
    let b := x.ctxBase.toNat + 0x4A00 + 0x800 * n
    let halted := match s.gang? (gangOf w) with | some g => g.halted | none => false
    let why := if y.retired then Stall.ready else if halted then Stall.halted else y.stall
    let open_ := ((s.cluster x.cluster).copies.filter (fun k => k.wave == w && k.batch == 0 && k.obj.isNone)).length
    let d : Nat := why.code + (if halted then 2 ^ 8 else 0) + (if y.pending.isSome then 2 ^ 9 else 0)
      + y.rstack.length * 2 ^ 10 + y.dstack.length * 2 ^ 21 + (if y.arrived.isSome then 2 ^ 30 else 0)
    let s := s.scribble b 0x800
    let s := (s.putLe b 8 y.pc.toNat).putLe (b + 8) 4 y.mask.toNat
    let s := ((s.putLe (b + 0xC) 4 y.exited.toNat).putLe (b + 0x10) 4 y.rpm.toNat).putLe (b + 0x14) 4 y.fcsr.toNat
    let s := (s.putLe (b + 0x18) 8 d).putLe (b + 0x20) 8 (y.lastBatch % 2 ^ 32 + open_ * 2 ^ 32)
    let s := s.putLe (b + 0x28) 4 (y.pending.getD 0).toNat
    let maps : List Nat := (List.range 8).map (fun i => match y.qmaps[i]? with
      | some m => m.reg % 256 + m.queue * 2 ^ 8 + (if m.out then 2 ^ 14 else 0) + 2 ^ 15
      | none => 0)
    let s := ((List.range 8).zip maps).foldl (fun s p => s.putLe (b + 0x30 + 4 * p.1) 4 p.2) s
    let rs := (y.rstack.take (y.rstack.length - y.rsp)).map REntry.bits
    let s := ((List.range 16).zip rs).foldl (fun s p => s.putLe (b + 0x80 + 8 * p.1) 8 p.2) s
    let s := (List.range 64).foldl (fun s i => s.putLe (b + 0x100 + 8 * i) 8 (y.rdS i).toNat) s
    let s := (List.range 8).foldl (fun s i => s.putLe (b + 0x300 + 4 * i) 4 (y.rdM i).toNat) s
    let ds := (y.dstack.take (y.dstack.length - y.dsp)).map DEntry.bits
    let s := ((List.range 32).zip ds).foldl (fun s p => s.putLe (b + 0x400 + 16 * p.1) 16 p.2) s
    let v := x.ctxBase.toNat + 0xE4A00 + 128 * kn.vregs * n
    (List.range (32 * kn.vregs)).foldl (fun s i => s.putLe (v + 4 * i) 4 (y.rdV (i / 32) (i % 32)).toNat) s

/-- R412: the context area of a crew. The layout of the header, of the gang blocks and of the copy descriptors is the
device's own. -/
def State.saveCrew (s : State) (c : CrewId) (x : Crew) (kn : Kernel) : State :=
  let b := x.ctxBase.toNat
  let s := s.scribble b 0x100
  let s := (List.range 64).foldl (fun s i => s.putLe (b + 0x100 + 4 * i) 4 (x.fmtEntry i).toNat) s
  let s := s.scribble (b + 0x200) (0x100 * x.ngangs)
  let s := s.scribble (b + 0xA00) (64 * ((s.cluster x.cluster).copies.filter (fun k => k.wave.crew == c)).length)
  let s := ((x.gangIds c).flatMap GangId.waves).foldl (fun s w => s.saveWave x kn w) s
  s.physWrite (b + 0xE4A00 + 128 * kn.vregs * 64) (Memory.read x.crw 0 kn.crw)

/-- R411, step 3, and R415: a fault of each wave has been recorded, copies have finished or parked, and MXA passes and weight events are complete. A hand-over runs to its end
first (R370). In a stopped job parked passes stay parked and no hand-over goes on (R409). -/
def State.saveReady (s : State) (c : CrewId) (x : Crew) : Bool :=
  let off := s.jobOff (s.asidOf c)
  (s.cluster x.cluster).copies.all (fun k => k.wave.crew != c || k.parked.isSome)
    && s.waves.all (fun w => w.1.crew != c || !w.2.unrecorded s (s.asidOf c))
    && x.mx.all (fun i => i.isFeed || (off && i.parked.isSome))
    && (off || s.gangs.all (fun g => g.1.crew != c || g.2.moving.isNone))

/-- R234: the parked copies of a crew leave the engine with it. -/
def State.takeCopies (s : State) (c : CrewId) (x : Crew) : State :=
  let mine (k : Copy) : Bool := k.wave.crew == c
  let cs := (s.cluster x.cluster).copies
  (s.modCluster x.cluster (fun y => { y with copies := y.copies.filter (fun k => !mine k) })).modCrew c (fun x => { x with
    copies := x.copies ++ cs.filter mine })

/-- R215: the record of a corrupt value of crew memory, or of the context area, which names the offset in crew memory, or
the physical address (log entry 101). -/
def State.areaRecord (s : State) (c : CrewId) (x : Crew) (va : Nat) : State :=
  (s.raise (s.asidOf c) { kind := 2, cause := 10, launch := c.launch, cluster := x.cluster, va := va % 2 ^ 55 }).1

/-- R215: a corrupt value of crew memory, or of the context area, stops the job before it moves. -/
def State.areaFault (s : State) (c : CrewId) (x : Crew) (va : Nat) : Out :=
  if !s.ringRoom (s.asidOf c) then .refused (.notEnabled "the fault record ring is full")
  else
    .next (s.areaRecord c x va)

/-- CREW_SAVE. What the tables of R412 and R413 do not lay out stays in the device until the restore (log entry 29). A crew
of a stopped job stays where it is, unless live service moves it (R409, R445). -/
def execCrewSave (c : CrewId) (s : State) : Out :=
  match s.crew? c, s.kernel? c with
  | some x, some kn =>
    if !x.preempt || x.saved || (s.jobOff (s.asidOf c) && !s.retiring x.cluster) then
      .refused (.notEnabled "no pre-emption of the crew is requested")
    else if !s.saveReady c x then .refused (.notEnabled "a copy, pass or weight event of the crew has not finished")
    else if s.eccCrw c 0 kn.crw then s.areaFault c x 0
    else .next (((s.saveCrew c x kn).takeCopies c x).modCrew c (fun x => { x with
      saved := true, preempt := false, moving := s.retiring x.cluster }))
  | _, _ => .refused (.notEnabled "no such crew")

/-- R130: an entry of the format table on restore. -/
def restoredFmt (w : Word) : Word := if w.getLsbD 31 && !fmtLegal w then w &&& 0x7FFFFFFF else w

/-- R130: entries 8 to 63 of the format table from the context area. -/
def State.loadFmt (s : State) (base : Nat) : SMap Word :=
  (List.range 56).foldl (fun m i =>
    SMap.set m 0 (i + 8) (restoredFmt (BitVec.ofNat 32 (s.physLe (base + 0x100 + 4 * (i + 8)) 4)))) []

/-- R413: a wave from its wave block and its lane registers; the reserved bits of FCSR read 0 (R4, R109). A record that firmware has resolved since the save holds the
wave no longer (R408). -/
def State.loadWave (s : State) (x : Crew) (kn : Kernel) (w : WaveId) : State :=
  let n := 8 * w.gang + w.wave
  let b := x.ctxBase.toNat + 0x4A00 + 0x800 * n
  let v := x.ctxBase.toNat + 0xE4A00 + 128 * kn.vregs * n
  let w32 (o : Nat) : Word := BitVec.ofNat 32 (s.physLe o 4)
  s.modWave w (fun y =>
    let nr := y.rstack.length - y.rsp
    let nd := y.dstack.length - y.dsp
    let z : Wave := { y with
      pc := w32 b, mask := w32 (b + 8), exited := w32 (b + 0xC), rpm := w32 (b + 0x10), fcsr := w32 (b + 0x14) &&& 0xFF
      lastBatch := y.lastBatch / 2 ^ 32 * 2 ^ 32 + s.physLe (b + 0x20) 4
      pending := if bit (s.physLe (b + 0x18) 8) 9 then y.pending.map (fun _ => w32 (b + 0x28)) else none
      qmaps := (List.range 8).filterMap (fun i =>
        let e := s.physLe (b + 0x30 + 4 * i) 4
        if bit e 15 then some ⟨bits e 7 0, bits e 13 8, bit e 14⟩ else none)
      rstack := (List.range (min nr 16)).map (fun i => REntry.ofBits (s.physLe (b + 0x80 + 8 * i) 8)) ++ y.rstack.drop (min nr 16)
      dstack := (y.dstack.take (min nd 32)).mapIdx (fun i e => e.ofBits (s.physLe (b + 0x400 + 16 * i) 16))
        ++ y.dstack.drop (min nd 32) }
    let z := (List.range 64).foldl (fun z i => z.wrS i (BitVec.ofNat 64 (s.physLe (b + 0x100 + 8 * i) 8))) z
    let z := (List.range 8).foldl (fun z i => z.wrM i (w32 (b + 0x300 + 4 * i))) z
    (List.range (32 * kn.vregs)).foldl (fun z i => z.wrV (i / 32) (i % 32) (w32 (v + 4 * i))) z)

/-- R411, R412: the context area is loaded again, and the crew is on its cluster with the copies it had parked. -/
def State.restore (s : State) (c : CrewId) : State :=
  match s.crew? c, s.kernel? c with
  | some x, some kn =>
    let b := x.ctxBase.toNat
    let crw := Memory.write [] 0 ((List.range kn.crw).map (fun i => s.physByte (b + 0xE4A00 + 128 * kn.vregs * 64 + i)))
    let s := ((x.gangIds c).flatMap GangId.waves).foldl (fun s w => s.loadWave x kn w) s
    let s := s.setCrew c { x with saved := false, preempt := false, moving := false, fmt := s.loadFmt b, crw := crw, copies := [] }
    (s.modCluster x.cluster (fun y => { y with copies := y.copies ++ x.copies })).dropL1 x.cluster
  | _, _ => s

/-- The room that the waves and the memory of a saved crew need on its cluster. -/
def State.restoreFits (s : State) (c : CrewId) (x : Crew) (kn : Kernel) : Bool :=
  let n := (s.waves.filter (fun w => w.1.crew == c && !w.2.retired)).length
  let u := s.coreUse x.cluster
  u.2 + n ≤ 1024 && u.1 + n * kn.vregs ≤ 32768 && s.crwUse x.cluster + kn.crw ≤ 2097152
    && (s.cluster x.cluster).copies.length + x.copies.length ≤ 256

/-- R215: a corrupt value in the context area of a crew. -/
def State.areaBad (s : State) (x : Crew) (kn : Kernel) : Bool :=
  s.eccHbm x.ctxBase.toNat (0xE4A00 + 128 * kn.vregs * 64 + kn.crw)

/-- CREW_RESTORE. -/
def execCrewRestore (c : CrewId) (s : State) : Out :=
  match s.crew? c, s.kernel? c with
  | some x, some kn =>
    if !x.saved || !s.restoreFits c x kn || s.retiring x.cluster then
      .refused (.notEnabled "the crew is not saved, or its cluster has no room for it")
    else if s.areaBad x kn then s.areaFault c x x.ctxBase.toNat
    else .next (s.restore c)
  | _, _ => .refused (.notEnabled "no such crew")

/-! ### Gating (R416) -/

/-- A cluster that holds no crew, no resident place, no queue entry and no bound chain. A place in systolic mode counts as
resident (R334), and one that loads will be. -/
def State.idle (s : State) (cl : Nat) : Bool :=
  s.crews.all (fun q => q.2.cluster != cl)
    && (List.range 16).all (fun b => (s.bayPlaces cl b).all (fun q => q.2.2.state == .free && !q.2.2.sys))
    && (s.cluster cl).queues.all (fun q => q.2.entries.isEmpty) && (s.bound cl).isEmpty

/-- GATE.REQ := 1: the request phase of an idle cluster opens. -/
def State.gateOn (s : State) (cl : Nat) : State :=
  if (s.cluster cl).gate == .open_ && s.idle cl then s.modCluster cl (fun c => { c with gate := .request }) else s

def execGateRequest (cluster : Nat) (s : State) : Out :=
  if 104 ≤ cluster then .refused (.notEnabled "no such cluster") else s.byFirmware (.next (s.gateOn cluster))

/-- GATE_COMMIT: the 64 cycles are over. -/
def execGateCommit (cluster : Nat) (s : State) : Out :=
  if (s.cluster cluster).gate != .request then .refused (.notEnabled "no request phase is open")
  else .next (s.modCluster cluster (fun c => { c with gate := if s.idle cluster then .gated else .open_ }))

/-- GATE.REQ := 0: a gated cluster begins to wake, a request is cancelled. -/
def State.gateOff (s : State) (cl : Nat) : State :=
  s.modCluster cl (fun c => { c with gate := match c.gate with
    | .open_ => .open_
    | .request => .open_
    | .gated => .waking
    | .waking => .waking })

def execGateWake (cluster : Nat) (s : State) : Out :=
  if 104 ≤ cluster then .refused (.notEnabled "no such cluster") else s.byFirmware (.next (s.gateOff cluster))

/-- CLUSTER_WAKE. -/
def execClusterWake (cluster : Nat) (s : State) : Out :=
  if (s.cluster cluster).gate != .waking then .refused (.notEnabled "the cluster is not waking")
  else .next (s.modCluster cluster (fun c => { c with gate := .open_ }))

/-! ### Power and the curb (R442, R443) -/

/-- POWER_WINDOW: the power that the module would draw over 1 ms; above CAPW, issue slots are withheld and the average
stays at CAPW. -/
def execPowerWindow (milliwatts : Nat) (s : State) : Out :=
  let cap := 1000 * s.pcap.toNat
  .next { s with power := BitVec.ofNat 64 (min milliwatts cap), throttle := decide (cap < milliwatts) }

/-- CURB_ENGAGE: alarms become active. -/
def execCurbEngage (alarms : BitVec 3) (s : State) : Out :=
  if alarms == 0 then .refused (.notEnabled "no alarm")
  else .next { s with
    curbAlarms := s.curbAlarms ||| alarms, curbOn := true, curbClear := false
    curbCount := if s.curbOn || s.curbCount == 0xFFFFFFFF then s.curbCount else s.curbCount + 1 }

/-- CURB_ALARM_CLEAR: once none is active, the HOLD count begins. -/
def execCurbAlarmClear (alarms : BitVec 3) (s : State) : Out :=
  let left := s.curbAlarms &&& ~~~alarms
  .next { s with curbAlarms := left, curbClear := s.curbOn && left == 0 }

/-- CURB_LIFT: HOLD µs have passed with every alarm clear. -/
def execCurbLift (s : State) : Out :=
  if s.curbOn && s.curbClear then .next { s with curbOn := false, curbClear := false }
  else .refused (.notEnabled "an alarm is active, or the curb is not engaged")

/-! ### Live service (R444, R445) -/

/-- A service operation runs. -/
def State.serving (s : State) : Bool := s.svcStat == .running || s.svcStat == .waitSys

/-- SVCCMD with an operation and its target. -/
def svcWord (op target low : Nat) : Dword := BitVec.ofNat 64 (op * 2 ^ 56 + target % 256 * 2 ^ 48 + low % 2 ^ 48)

/-- Begin an operation, or refuse it. -/
def State.beginSvc (s : State) (v : Dword) (refused : Bool) : State :=
  { s with svcCmd := v, svcStat := if refused then .refused else .running }

/-- R441: some slot holds a signing key that is not revoked, against which an image can be verified (log entry 137). -/
def State.canVerify (s : State) : Bool := s.signKeys.any (fun k => match k with | .filled _ => true | _ => false)

/-- UPDATE: while it runs, every FRQCTL.OSTLER that names the target reads as the other ostler of its die. -/
def State.svcUpdate (s : State) (v : Dword) (verified : Bool) : State :=
  let t := fld v 55 48
  if s.serving || 16 ≤ t then s
  else
    let no := !verified || !s.canVerify || s.ostlers.getLsbD (if t % 2 = 0 then t + 1 else t - 1)
    let s := s.beginSvc v no
    if no then s else { s with ostlers := setBit s.ostlers t true }

def execUpdate (ostler : Nat) (verified : Bool) (s : State) : Out :=
  s.byFirmware (.next (s.svcUpdate (svcWord 1 ostler 0) verified))

/-- A systolic place of a slice holds a configuration. -/
def State.sysHeld (s : State) (cl : Nat) : Bool :=
  s.crews.any (fun q => match q.2.region with
    | some r => r.places.any (fun p => p.slice == cl && p.sys && p.state != .free && p.state != .swapped)
    | none => false)

/-- RETIRE of a cluster: its crews are to be saved and its places swapped out. -/
def State.svcCluster (s : State) (v : Dword) : State :=
  let t := fld v 55 48
  if s.serving || 104 ≤ t then s
  else
    let no := s.spareUsed.getLsbD (t / 13)
    let s := s.beginSvc v no
    if no then s
    else
      let wait := s.sysHeld t
      { s with
        svcStat := if wait then .waitSys else .running
        crews := Tab.map s.crews (fun _ x => if x.cluster == t && !x.saved then { x with preempt := true } else x) }

def execRetireCluster (cluster : Nat) (s : State) : Out :=
  s.byFirmware (.next (s.svcCluster (svcWord 2 cluster 0)))

/-- The page table entries that map pages for an address space, each with its first virtual page (R207, R208). -/
def State.leaves (s : State) (a : Nat) : List (Nat × Bool × Dword) :=
  let at_ (level base i : Nat) : List Dword := match s.pteAt level (base + 8 * i) with | .ok e => [e] | .error _ => []
  (List.range 8192).flatMap (fun i => (at_ 1 (ptePa (s.asid a).ptroot) i).flatMap (fun e1 =>
    (List.range 8192).flatMap (fun j => (at_ 2 (ptePa e1) j).flatMap (fun e2 =>
      let first := (8192 * i + j) * 8192
      if pteKind e2 = 0 then
        (List.range 8192).flatMap (fun k => (at_ 3 (ptePa e2) k).map (fun e3 => (first + k, false, e3)))
      else [(first, true, e2)]))))

/-- R445: the pages of 64 KiB of this module, homed at a channel, that the address spaces map; which channel a page is homed
at is the part's own (log entry 122). -/
def State.homedPages (s : State) (h : Nat) : List PageMove :=
  s.asids.flatMap (fun a => (s.leaves a.1).flatMap (fun e =>
    if pteRmt e.2.2 then []
    else (List.range (if e.2.1 then 8192 else 1)).filterMap (fun i =>
      let p := fld e.2.2 51 16 + i
      if (Config.pageHome p).toNat == h then some ⟨a.1, e.1 + i, p, none⟩ else none)))

/-- RETIRE of a channel. Its pages move by accesses of firmware and broadcasts (OSTLER_ACCESS, INVALIDATION_BROADCAST). -/
def State.svcChannel (s : State) (v : Dword) (room : Bool) : State :=
  if s.serving then s
  else { s.beginSvc v (!room) with svcPages := if room then s.homedPages (fld v 55 48) else [] }

/-- Two pages of HBM hold the same bytes. -/
def Memory.samePage (m : Memory) (p q : Nat) : Bool :=
  let page (p : Nat) : Memory := (m.filter (fun c => c.1 / 2 ^ 16 == p)).map (fun c => (c.1 % 2 ^ 16, c.2))
  page p == page q

/-- R445: a page that moves now has a mapping at another channel of its stack, with its bytes; a page that several entries
map may be written once one of them maps it again. -/
def State.noteMove (s : State) (h : Nat) (p : PageMove) : PageMove :=
  match p.new, s.walk p.asid (p.vpn * 2 ^ 16) with
  | none, .ok t =>
    let q := fld t.pte 51 16 + if t.big then p.vpn % 8192 else 0
    let home := (Config.pageHome q).toNat
    if !pteRmt t.pte && home != h && home / 32 == h / 32
        && (Memory.samePage s.mem p.old q || s.svcPages.any (fun o => o.old == p.old && o.new == some q)) then { p with new := some q }
    else p
  | _, _ => p

/-- What firmware has stored may have moved pages of a channel that retires. -/
def State.noteMoves (s : State) : State :=
  if s.serving && fld s.svcCmd 63 56 == 3 then { s with svcPages := s.svcPages.map (s.noteMove (fld s.svcCmd 55 48)) } else s

def execRetireChannel (channel : Nat) (room : Bool) (s : State) : Out :=
  s.byFirmware (.next (if 256 ≤ channel then s else s.svcChannel (svcWord 3 channel 0) room))

/-- RETRAIN: the link goes down; what LINKSTAT holds is left open. -/
def State.svcRetrain (s : State) (v : Dword) : State :=
  let t := fld v 55 48
  if s.serving || 8 ≤ t then s
  else
    let f := s.fresh
    { f.2.beginSvc v false with linkStat := SMap.set f.2.linkStat 0 t (BitVec.ofNat 64 f.1) }

def execRetrain (port : Nat) (s : State) : Out :=
  s.byFirmware (.next (if 256 ≤ port then s else s.svcRetrain (svcWord 4 port 0)))

/-- RECAL. -/
def State.svcRecal (s : State) (v : Dword) : State := if s.serving || 2 ≤ fld v 55 48 then s else s.beginSvc v false

def execRecal (target : Nat) (s : State) : Out :=
  s.byFirmware (.next (if 256 ≤ target then s else s.svcRecal (svcWord 5 target 0)))

/-- A write of SVCCMD (R444); verification of an image and free pages of a stack are found by firmware: free values. -/
def State.svcWrite (s : State) (v : Dword) : State :=
  let f := s.stillHeld
  match fld v 63 56 with
  | 1 => f.2.svcUpdate v f.1
  | 2 => s.svcCluster v
  | 3 => f.2.svcChannel v f.1
  | 4 => s.svcRetrain v
  | 5 => s.svcRecal v
  | _ => s

/-- Every crew of a retiring cluster is saved, and its slice holds no resident paddock. -/
def State.movedOut (s : State) (cl : Nat) : Bool :=
  s.crews.all (fun q => (q.2.cluster != cl || q.2.saved) && (match q.2.region with
    | some r => r.places.all (fun p => p.slice != cl || p.state == .swapped || p.state == .free)
    | none => true))

/-- The crews that a RETIRE has saved (R445) (log entry 139). -/
def State.movers (s : State) (cl : Nat) : List (CrewId × Crew) := s.crews.filter (fun q => q.2.cluster == cl && q.2.moving)

/-- The spare takes the logical number, with empty caches, and the crews that the operation saved are restored. One whose
context area is corrupt stays saved, with the record of R215. -/
def State.moveIn (s : State) (cl : Nat) : State :=
  let t := (s.modCluster cl (fun c => { c with site := 1, l1 := [], icache := [], tlb := [] }))
  let t := { t with spareUsed := setBit t.spareUsed (cl / 13) true }
  (s.movers cl).foldl (fun s q =>
    match s.kernel? q.1 with
    | some kn => if s.areaBad q.2 kn then s.areaRecord q.1 q.2 q.2.ctxBase.toNat else s.restore q.1
    | none => s) t

/-- R445: each page homed at a channel has moved, and none is mapped there now. -/
def State.pagesMoved (s : State) (h : Nat) : Bool := s.svcPages.all (fun p => p.new.isSome) && (s.homedPages h).isEmpty

/-- GAITW of a cluster takes a value that the calibration finds. -/
def State.recalGait (s : State) (cl : Nat) : State :=
  let f := s.fresh
  f.2.modCluster cl (fun c => { c with gaitw := BitVec.ofNat 40 f.1 })

/-- SERVICE_COMPLETE. -/
def execServiceComplete (s : State) : Out :=
  let t := fld s.svcCmd 55 48
  let fin (s : State) : Out := .next { s with svcStat := .done }
  if !s.serving then .refused (.notEnabled "no service operation runs")
  else match fld s.svcCmd 63 56 with
    | 1 => fin { s with ostlers := setBit s.ostlers t false }
    | 2 => if s.movedOut t then (s.movers t).foldr (fun q o => s.unlessFull (s.asidOf q.1) o) (fin (s.moveIn t))
      else .refused (.notEnabled "crews or places of the cluster are left")
    | 3 => if s.pagesMoved t then fin { s.fresh.2 with chState := SMap.set s.chState 0 t (BitVec.ofNat 64 s.fresh.1) }
      else .refused (.notEnabled "pages of the channel have still to move")
    | 4 => fin { s.fresh.2 with linkStat := SMap.set s.linkStat 0 t (BitVec.ofNat 64 s.fresh.1) }
    | _ => if t = 1 then fin ((List.range 104).foldl State.recalGait s) else fin s

/-! ### Keys (R436) -/

/-- R436: the ASID of a connection, by the key index that secures it. -/
def State.connAsid (s : State) (key : Nat) : Option Nat :=
  if key = 0 then some 0
  else if 4096 ≤ key then none
  else if s.keyOf key = key then some key
  else (s.asids.find? (fun a => s.keyOf a.1 == key)).map Prod.fst

/-- R436: the ASID of a key index has a crew resident; a crew that is saved is not (R411; log entry 123). -/
def State.keyInUse (s : State) (k : Nat) : Bool :=
  s.crews.any (fun q => s.connAsid k == some (s.asidOf q.1) && !q.2.saved)

/-- The 256 bits of KEYDATA. -/
def State.keyBits (s : State) : BitVec 256 :=
  let d (i : Nat) : Dword := SMap.get s.keyData 0 i
  d 3 ++ d 2 ++ d 1 ++ d 0

/-- KEY_INSTALL: a write of KEYIDX. -/
def State.keyWrite (s : State) (k : BitVec 12) : State :=
  if s.keyInUse k.toNat then { s with keyIdx := k, keyBusy := true }
  else { s with keyIdx := k, keyBusy := false, keys := SMap.set s.keys 0 k.toNat (Config.unwrapKey s.keyBits) }

def execKeyInstall (index : BitVec 12) (s : State) : Out := s.byFirmware (.next (s.keyWrite index))

end Sys2Proof.Machine
end

