-- ==== Sys2Proof/Machine/Host.lean ====
section
/-! DEFINITION. The control space (R437 to R440, R448), boot (R441), command messages and subscriptions (R433 to R436), RMA
(R432), the ports (R431), and accesses of firmware (R386). -/

namespace Sys2Proof.Machine

/-! ### Reading the control space (R437, R438) -/

/-- R9, R438: SITE of a logical cluster: the k-th enabled site of its die, or the spare once it has taken the number. -/
def State.siteOf (s : State) (cl : Nat) : Nat :=
  let sp := (Config.spareSite (cl / 13)).val
  let k := cl % 13
  let p := if (s.cluster cl).site != 0 then sp else if k < sp then k else k + 1
  p * 16 + cl / 13

/-- R439, R440: the entries of the capability list: ID and payload. -/
def State.caps (s : State) : List (Nat × List Nat) :=
  [ (1, [104 + 1024 * 2 ^ 16 + 256 * 2 ^ 32, 2048] ++ (List.range 13).map (fun w =>
      ((List.range 8).map (fun i => s.siteOf (8 * w + i) * 2 ^ (8 * i))).sum)),
    (2, [16 + 16 * 2 ^ 8 + 4 * 2 ^ 16, 1024 + 16 * 2 ^ 16]),
    (3, [64 + 8 * 2 ^ 8 + 8 * 2 ^ 16 + 10 * 2 ^ 24 + 16 * 2 ^ 32]),
    (4, [8 + 256 * 2 ^ 8 + 512 * 2 ^ 32, 16 + 29 * 2 ^ 8, 4096]),
    (5, [8 + 8 * 2 ^ 8 + 200 * 2 ^ 16, 0x177]),
    (6, [16 + 4096 * 2 ^ 16]),
    (7, [1200 + 2200 * 2 ^ 16]),
    (8, [0x1F]) ]

/-- The words of the list from an offset upward; entries follow one another (log entry 30). -/
def capWords (off : Nat) : List (Nat × List Nat) → List Nat
  | [] => []
  | e :: t =>
    let next := off + 8 * (e.2.length + 1)
    let nx := if t.isEmpty then 0 else next
    (nx * 2 ^ 32 + e.2.length * 2 ^ 24 + 2 ^ 16 + e.1) :: (e.2 ++ capWords next t)

def SvcStat.code : SvcStat → Nat
  | .idle => 0
  | .running => 1
  | .done => 2
  | .refused => 3
  | .waitSys => 4

/-- R444, R445: SVCSTAT; RETIRE of a cluster reads WAITSYS while a systolic place of the slice holds a configuration. -/
def State.svcCode (s : State) : Nat :=
  if s.serving && fld s.svcCmd 63 56 == 2 then (if s.sysHeld (fld s.svcCmd 55 48) then 4 else 1) else s.svcStat.code

def State.modRead (s : State) (o : Nat) : Nat :=
  match o with
  | 0x00 => s.ageb.toNat
  | 0x08 => s.rtmo.toNat
  | 0x10 => s.pcap.toNat
  | 0x18 => s.curbHold.toNat * 2 ^ 16 + s.curbT.toNat * 2 ^ 8
  | 0x20 => s.curbCount.toNat * 2 ^ 32 + s.curbAlarms.toNat
  | 0x28 => s.power.toNat
  | 0x30 => s.svcCmd.toNat
  | 0x38 => s.svcCode
  | 0x40 => s.keyIdx.toNat
  | 0x48 => (Config.keyStat s.keyBusy).toNat
  | _ => 0

/-- R402: FRQCTL.LOG2N is a field of 5 bits. -/
def Asid.frqctl (x : Asid) (ostler : Nat) : Nat := ostler * 2 ^ 12 + x.log2n % 32

def State.asidRead (s : State) (a o : Nat) : Nat :=
  let x := s.asid a
  let bp := SMap.get x.bps Bp.none_ ((o - 0x100) / 24)
  if 0x100 ≤ o && o < 0x280 then
    (match (o - 0x100) % 24 with | 0 => bp.ctl | 8 => bp.img | _ => bp.iter).toNat
  else match o with
    | 0x00 => x.ptroot.toNat
    | 0x08 => x.frqBase.toNat
    | 0x10 => x.frqctl (s.ostlerOf a)
    | 0x18 => x.tail.toNat * 2 ^ 16 + x.head.toNat
    | 0x28 => (if x.halt then 4 else 0) + (if x.allstop then 2 else 0) + (if x.debug then 1 else 0)
    | 0x38 => s.keyOf a
    | _ => 0

/-- A remote window pair (R211): the base register, DELIV, STARVE. -/
def Window.rd (w : Window) (o : Nat) : Nat :=
  match o with
  | 0 => w.base.toNat
  | 8 => w.deliv
  | 16 => w.starve
  | _ => 0

def State.clusterRead (s : State) (cl o : Nat) : Nat :=
  let c := s.cluster cl
  if 0x1000 ≤ o && o < 0x1800 then
    (SMap.get s.windows Window.init (64 * cl + (o - 0x1000) / 32)).rd ((o - 0x1000) % 32)
  else if 0x800 ≤ o && o < 0xA00 then SMap.get c.bwframes 16384 ((o - 0x800) / 8)
  else if 0x400 ≤ o && o < 0x800 then
    (if (o - 0x400) % 16 = 0 then SMap.get c.fceil 15 ((o - 0x400) / 16) else SMap.get c.fqmax 42 ((o - 0x400) / 16))
  else if 0x300 ≤ o && o < 0x380 then (c.wlimAt ((o - 0x300) / 8)).toNat
  else if 0x100 ≤ o && o < 0x300 then (SMap.get c.qlim 0x08000000 ((o - 0x100) / 8)).toNat
  else match o with
    | 0x00 => c.tslice
    | 0x08 => c.gaitw.toNat
    | 0x10 => c.brmax
    | 0x18 => (if c.isOff then 2 else 0) + (if c.gate == .request || c.gate == .gated then 1 else 0)
    | 0x20 => s.siteOf cl
    | _ => 0

/-- A read of the control space. -/
def State.ctlRead (s : State) (off : Nat) : Dword :=
  BitVec.ofNat 64 <|
    if off < 0x100 then
      (match off with
        | 0x00 => 0x6416
        | 0x08 => 1
        | 0x10 => Config.serial.toNat
        | 0x18 => s.bootStat.toNat
        | _ => 0)
    else if off < 0x10000 then (if s.booted then (capWords 0x100 s.caps).getD ((off - 0x100) / 8) 0 else 0)
    else if off < 0x20000 then s.modRead (off - 0x10000)
    else if off < 0x20200 then (SMap.get s.lqOwner 0 ((off - 0x20000) / 8)).toNat
    else if 0x100000 ≤ off && off < 0x500000 then s.asidRead ((off - 0x100000) / 0x400) ((off - 0x100000) % 0x400)
    else if 0x500000 ≤ off && off < 0xB80000 then s.clusterRead ((off - 0x500000) / 0x10000) ((off - 0x500000) % 0x10000)
    else if 0xC00000 ≤ off && off < 0xD00000 then
      let h := (off - 0xC00000) / 0x1000
      let o := (off - 0xC00000) % 0x1000
      if o = 0 then (SMap.get s.chState 0 h).toNat
      else if 0x100 ≤ o && o < 0x900 then
        (SMap.get s.windows Window.init (chWindow h ((o - 0x100) / 32))).rd ((o - 0x100) % 32)
      else 0
    else if 0xD00000 ≤ off && off < 0xD80000 then
      let p := (off - 0xD00000) / 0x10000
      match (off - 0xD00000) % 0x10000 with
      | 0 => (SMap.get s.linkStat 0 p).toNat
      | 8 => SMap.get s.portErrs 0 p
      | _ => 0
    else 0

/-! ### Writing the control space -/

def State.modWrite (s : State) (o : Nat) (v : Dword) : State :=
  if 0x100 ≤ o && o < 0x120 then { s with keyData := SMap.set s.keyData 0 ((o - 0x100) / 8) v }
  else match o with
    | 0x00 => { s with ageb := v.extractLsb' 0 32 }
    | 0x08 => if fld v 31 0 < 1000 then s else { s with rtmo := v.extractLsb' 0 32 }
    | 0x10 => if fld v 11 0 < 1200 || 2200 < fld v 11 0 then s else { s with pcap := v.extractLsb' 0 12 }
    | 0x18 => if fld v 23 16 = 0 || fld v 15 8 < 60 || 125 < fld v 15 8 then s
        else { s with curbHold := v.extractLsb' 16 8, curbT := v.extractLsb' 8 8 }
    | 0x30 => s.svcWrite v
    | 0x40 => s.keyWrite (v.extractLsb' 0 12)
    | _ => s

/-- R418: a write of DBGCTL. -/
def State.dbgWrite (s : State) (a : Nat) (v : Dword) : State :=
  let s := s.modAsid a (fun x => { x with allstop := v.getLsbD 1, debug := v.getLsbD 0 })
  if v.getLsbD 2 then s.haltJob a else s.resumeJob a

/-- R402: a write of FRQCTL; R406: records that waited may be written then. -/
def State.frqctlWrite (s : State) (a : Nat) (v : Dword) : State :=
  let n := fld v 4 0
  if (1 ≤ n && n ≤ 5) || 17 ≤ n then s
  else
    let s := s.modAsid a (fun x => { x with frqOstler := v.extractLsb' 12 4, log2n := n })
    s.flush a (s.asid a).waiting.length

/-- R402: a write of FRQPTR sets HEAD and makes room. -/
def State.headWrite (s : State) (a : Nat) (v : Dword) : State :=
  let s := s.modAsid a (fun x => { x with head := v.extractLsb' 0 16 })
  s.flush a (s.asid a).waiting.length

/-- R402: a write of FRQRES. -/
def State.frqresWrite (s : State) (a : Nat) (v : Dword) : State :=
  match fld v 63 62 with
  | 1 => s.resume a (v.extractLsb' 0 32)
  | 2 => s.stopRecord a (v.extractLsb' 0 32)
  | _ => s

/-- R422: a write of a breakpoint register; reserved bits are ignored. -/
def State.bpWrite (s : State) (a o : Nat) (v : Dword) : State :=
  s.modAsid a (fun x =>
    let k := (o - 0x100) / 24
    let b := SMap.get x.bps Bp.none_ k
    let b := match (o - 0x100) % 24 with
      | 0 => { b with ctl := v &&& 0xF0000000FFFFFFFF }
      | 8 => { b with img := v &&& 0x007FFFFFFFFFFFFF }
      | 16 => { b with iter := v &&& 0x000000FFFFFFFFFF }
      | _ => b
    { x with bps := SMap.set x.bps Bp.none_ k b })

def State.asidWrite (s : State) (a o : Nat) (v : Dword) : State :=
  if 0x100 ≤ o && o < 0x280 then s.bpWrite a o v
  else match o with
    | 0x00 => s.modAsid a (fun x => { x with ptroot := v })
    | 0x08 => s.modAsid a (fun x => { x with frqBase := v &&& 0x000FFFFFFFFFF000 })
    | 0x10 => s.frqctlWrite a v
    | 0x18 => s.headWrite a v
    | 0x20 => s.frqresWrite a v
    | 0x28 => s.dbgWrite a v
    | 0x30 => s.preemptWrite a v
    | 0x38 => s.modAsid a (fun x => { x with keybind := if fld v 11 0 = a then none else some (v.extractLsb' 0 12) })
    | _ => s

/-- R211: a base register binds a window of at least 64 KiB, aligned to its size. -/
def State.windowWrite (s : State) (key o : Nat) (v : Dword) : State :=
  let w := SMap.get s.windows Window.init key
  let w := match o with
    | 0 => if fld v 5 0 < 16 || fld v 63 16 * 2 ^ 16 % 2 ^ fld v 5 0 != 0 then w else { w with base := v &&& 0xFFFFFFFFFFFF003F }
    | 8 => { w with deliv := fld v 47 0 }
    | 16 => { w with starve := fld v 47 0 }
    | _ => w
  { s with windows := SMap.set s.windows Window.init key w }

/-- R239, R240: a write of QLIMq. -/
def Cluster.qlimWrite (c : Cluster) (q : Nat) (v : Dword) : Cluster :=
  let n : Cluster := { c with qlim := SMap.set c.qlim 0x08000000 q ((v &&& 0x0FFF0FFF).setWidth 32) }
  if n.qcap q < n.qmin q || 2048 < n.qcap q || 2048 < n.qsum then c else n

/-- R313: a write of WLIMs. -/
def State.wlimWrite (s : State) (cl i : Nat) (v : Dword) : State :=
  let n := s.modCluster cl (fun c => { c with wlim := SMap.set c.wlim 0x04000000 i ((v &&& 0x07FF07FF).setWidth 32) })
  let c := n.cluster cl
  if c.wcap i < c.wmin i || 1024 < c.wcap i || 1024 < ((s.bound cl).map (fun b => max (c.wmin b.1) b.2)).sum then s else n

def State.clusterWrite (s : State) (cl o : Nat) (v : Dword) : State :=
  if 0x1000 ≤ o && o < 0x1800 then s.windowWrite (64 * cl + (o - 0x1000) / 32) ((o - 0x1000) % 32) v
  else if 0x800 ≤ o && o < 0xA00 then
    (if fld v 31 0 = 0 then s
     else s.modCluster cl (fun c => { c with bwframes := SMap.set c.bwframes 16384 ((o - 0x800) / 8) (fld v 31 0) }))
  else if 0x400 ≤ o && o < 0x800 then
    let i := (o - 0x400) / 16
    if (o - 0x400) % 16 = 0 then s.modCluster cl (fun c => { c with fceil := SMap.set c.fceil 15 i (fld v 3 0) })
    else if fld v 5 0 = 0 || 42 < fld v 5 0 then s
    else s.modCluster cl (fun c => { c with fqmax := SMap.set c.fqmax 42 i (fld v 5 0) })
  else if 0x300 ≤ o && o < 0x380 then s.wlimWrite cl ((o - 0x300) / 8) v
  else if 0x100 ≤ o && o < 0x300 then s.modCluster cl (fun c => c.qlimWrite ((o - 0x100) / 8) v)
  else match o with
    | 0x00 => s.modCluster cl (fun c => { c with tslice := fld v 47 0 })
    | 0x08 => s.modCluster cl (fun c => { c with gaitw := v.extractLsb' 0 40 })
    | 0x10 => if fld v 8 0 = 0 || 256 < fld v 8 0 then s else s.modCluster cl (fun c => { c with brmax := fld v 8 0 })
    | 0x18 => if v.getLsbD 0 then s.gateOn cl else s.gateOff cl
    | _ => s

/-- A write of 8 bytes at an 8-byte offset of the control space; any other write has no effect (R437). -/
def State.ctlWrite (s : State) (off : Nat) (v : Dword) : State :=
  if off % 8 != 0 then s
  else if 0x10000 ≤ off && off < 0x20000 then s.modWrite (off - 0x10000) v
  else if 0x20000 ≤ off && off < 0x20200 then
    { s with lqOwner := SMap.set s.lqOwner 0 ((off - 0x20000) / 8) (v.extractLsb' 0 12) }
  else if 0x100000 ≤ off && off < 0x500000 then s.asidWrite ((off - 0x100000) / 0x400) ((off - 0x100000) % 0x400) v
  else if 0x500000 ≤ off && off < 0xB80000 then s.clusterWrite ((off - 0x500000) / 0x10000) ((off - 0x500000) % 0x10000) v
  else if 0xC00000 ≤ off && off < 0xD00000 then
    let h := (off - 0xC00000) / 0x1000
    let o := (off - 0xC00000) % 0x1000
    if 0x100 ≤ o && o < 0x900 then s.windowWrite (chWindow h ((o - 0x100) / 32)) ((o - 0x100) % 32) v else s
  else s

/-- REGISTER_WRITE: by firmware, or over a management connection. -/
def execRegisterWrite (offset : Nat) (value : Dword) (s : State) : Out :=
  s.byFirmware (.next (s.ctlWrite offset value))

/-! ### Boot (R441) -/

/-- POWER_ON_BOOT: the images are verified against the owner's signing keys and run, and the ports are trained; or an image
fails. Where no slot holds a key, none verifies. -/
def execPowerOnBoot (failing : Option (BitVec 8)) (s : State) : Out :=
  if s.bootStat != 0 then .refused (.notEnabled "the module has booted")
  else match failing with
    | some i => .next { s with bootStat := i ++ (2 : BitVec 8) }
    | none =>
      if s.canVerify then .next { s with bootStat := 1 }
      else .refused (.notEnabled "no slot holds a signing key, so that an image fails")

/-! ### Command messages (R433 to R436) -/

def Header.opc (h : Header) : Nat := fld h.d0 63 56
def Header.asid (h : Header) : Nat := fld h.d0 51 40
def Header.queue (h : Header) : Nat := fld h.d0 37 32
def Header.ctag (h : Header) : BitVec 32 := h.d0.extractLsb' 0 32

/-- A message of the module: its OPC, the job, the tag, ADDR, OPERAND and STATUS. -/
def State.sendMsg (s : State) (conn : Conn) (opc asid : Nat) (ctag : BitVec 32) (addr operand : Dword) (status : Nat) : State :=
  { s with outbox := s.outbox ++ [⟨conn,
      [BitVec.ofNat 8 opc ++ (0 : BitVec 4) ++ BitVec.ofNat 12 asid ++ (0 : BitVec 8) ++ ctag, addr, operand,
        BitVec.ofNat 64 (status * 2 ^ 56)], []⟩] }

/-- The COMPLETE of a command. -/
def State.complete (s : State) (conn : Conn) (h : Header) (status : Nat) (operand : Dword) : State :=
  s.sendMsg conn 0x81 (Header.asid h) (Header.ctag h) 0 operand status

/-- R436: whether a connection may command a job. -/
def State.mayCommand (s : State) (key asid : Nat) : Bool := key == 0 || s.connAsid key == some asid

/-- R433: BADCMD for a known command: a nonzero reserved field, STATUS with them since it is 0 in commands (log entry 31),
or a payload of the wrong length. -/
def badCmd (h : Header) (payload n : Nat) : Bool :=
  fld h.d0 55 52 != 0 || fld h.d0 39 38 != 0 || fld h.d3 49 0 != 0 || fld h.d3 63 56 != 0 || payload != n

/-- A command: the checks in the order of log entry 31, then its action, then its reply (R435). A module that has not
booted answers none (R441). -/
def State.command (s : State) (conn : Conn) (h : Header) (opc n payload : Nat) (act : State → State × Nat × Dword) : Out :=
  if Header.opc h != opc then .refused (.notEnabled "the message is another command")
  else if !s.booted then .next s
  else if badCmd h payload n then .next (s.complete conn h 5 0)
  else if !s.mayCommand conn.key (Header.asid h) then .next (s.complete conn h 3 0)
  else
    let r := act s
    .next (r.1.complete conn h r.2.1 r.2.2)

/-- HOST_LAUNCH (R194, R402). -/
def execHostLaunch (conn : Conn) (h : Header) (payload : List Dword) (s : State) : Out :=
  s.command conn h 1 16 payload.length (fun s =>
    let a := Header.asid h
    let st := if (s.asid a).log2n = 0 then 3 else s.enqStatus a (Header.queue h) payload
    (if st = 0 then s.accept (Header.queue h) payload none else s, st, 0))

/-- SUBSCRIBE (R434). -/
def execSubscribe (conn : Conn) (h : Header) (payload : List Dword) (s : State) : Out :=
  s.command conn h 2 0 payload.length (fun s =>
    let a := Header.asid h
    let add (s : State) : State × Nat × Dword :=
      if 1024 ≤ s.subs.length then (s, 1, 0)
      else ({ s with subs := s.subs ++ [⟨conn, a, h.d1, h.d2, Header.ctag h⟩] }, 0, 0)
    if h.d1 == 0 then add s
    else if h.d1.toNat % 8 != 0 then (s, 4, 0)
    else match s.devAt a h.d1.toNat 8 useLoad with
      | (t, .ok _) => add t
      | (t, .error _) => (t, 4, 0))

/-- HOST_STOP (R409). -/
def execHostStop (conn : Conn) (h : Header) (payload : List Dword) (s : State) : Out :=
  s.command conn h 3 0 payload.length (fun s => (s.stopJob (Header.asid h), 0, 0))

/-- The crews, places and queues of a job are freed, and its launches are over. -/
def State.releaseJob (s : State) (a : Nat) : State :=
  let mine (c : CrewId) : Bool := s.asidOf c == a
  let s := { s with
    crews := s.crews.filter (fun c => !mine c.1)
    gangs := s.gangs.filter (fun g => !mine g.1.crew)
    waves := s.waves.filter (fun w => !mine w.1.crew)
    launches := s.launches.filter (fun l => l.2.asid != a)
    clusters := s.clusters.map (fun (c : Nat × Cluster) => (c.1, { c.2 with
      copies := c.2.copies.filter (fun k => !mine k.wave.crew)
      parties := c.2.parties.filter (fun p => !mine p.wave.crew)
      queues := c.2.queues.filter (fun q => q.2.asid != a || q.2.isFree) })) }
  s.modAsid a (fun x => { x with stopped := false })

/-- RELEASE. -/
def execRelease (conn : Conn) (h : Header) (payload : List Dword) (s : State) : Out :=
  s.command conn h 4 0 payload.length (fun s =>
    if (s.asid (Header.asid h)).stopped then (s.releaseJob (Header.asid h), 0, 0) else (s, 6, 0))

/-- ATOMIC (R220). -/
def execAtomic (conn : Conn) (h : Header) (payload : List Dword) (s : State) : Out :=
  s.command conn h 5 0 payload.length (fun s =>
    let aop := fld h.d3 55 52
    let sz := fld h.d3 51 50
    let n := 2 ^ sz
    if 14 ≤ aop || sz < 2 then (s, 5, 0)
    else if h.d1.toNat % n != 0 then (s, 4, 0)
    else match s.devAt (Header.asid h) h.d1.toNat n useStore with
      | (t, .error _) => (t, 4, 0)
      | (t, .ok l) =>
        let o := leNat (t.homeRead l n)
        (t.homeWrite l (leBytes n (atomNew aop (8 * n) o (h.d2.toNat % 2 ^ (8 * n)))), 0, BitVec.ofNat 64 o))

/-- UNKNOWN_COMMAND. -/
def execUnknownCommand (conn : Conn) (h : Header) (s : State) : Out :=
  if 1 ≤ Header.opc h && Header.opc h ≤ 5 then .refused (.notEnabled "the command is known")
  else if !s.booted then .next s
  else .next (s.complete conn h 5 0)

/-- EVENT: the command core reads the counter of the k-th subscription at or above its threshold (R434). -/
def execEvent (k : Nat) (s : State) : Out :=
  match s.subs[k]? with
  | none => .refused (.notEnabled "no such subscription")
  | some u =>
    if u.addr == 0 then .refused (.notEnabled "the subscription is to fault notices")
    else match s.devAt u.asid u.addr.toNat 8 useLoad with
      | (_, .error _) => .refused (.notEnabled "the counter cannot be read")
      | (t, .ok l) =>
        let v := leNat (t.homeRead l 8)
        if v < u.thr.toNat then .refused (.notEnabled "the counter is below the threshold")
        else .next ({ t with subs := t.subs.eraseIdx k }.sendMsg u.conn 0x83 u.asid u.ctag u.addr (BitVec.ofNat 64 v) 0)

/-- CONNECTION_CLOSE: the fault subscriptions of the connection end (R434). -/
def execConnectionClose (conn : Conn) (s : State) : Out :=
  .next { s with subs := s.subs.filter (fun u => !(u.conn == conn && u.addr == 0)) }

/-! ### RMA (R432, R436) -/

/-- The registers that a connection under key index k, of ASID a, may read. -/
def mayRead (a off : Nat) : Bool := off < 0x10000 || (0x100000 + 0x400 * a ≤ off && off < 0x100000 + 0x400 * (a + 1))

/-- The registers that it may write: DBGCTL and the breakpoints of its ASID. -/
def mayWrite (a off : Nat) : Bool :=
  let o := off - (0x100000 + 0x400 * a)
  0x100000 + 0x400 * a ≤ off && (o == 0x28 || (0x100 ≤ o && o < 0x280))

/-- The parts of `n` bytes from an address on the pages that they lie on. -/
def pageParts (va n : Nat) : List (Nat × Nat) :=
  let f := min n (65536 - va % 65536)
  if f = n then [(va, n)] else [(va, f), (va + f, n - f)]

/-- Where the parts lie, up to the first that meets a cause; whether none does. -/
def State.rmaFind (s : State) (asid : Nat) (u : Use) : List (Nat × Nat) → State × List (Loc × Nat) × Bool
  | [] => (s, [], true)
  | p :: t =>
    match s.devAt asid p.1 p.2 u with
    | (s, .error _) => (s, [], false)
    | (s, .ok l) =>
      let r := s.rmaFind asid u t
      (r.1, (l, p.2) :: r.2.1, r.2.2)

/-- Write parts in order. -/
def State.rmaPut (s : State) : List (Loc × Nat) → List Byte → State
  | [], _ => s
  | p :: t, bs => (s.homeWrite p.1 (bs.take p.2)).rmaPut t (bs.drop p.2)

def State.rmaDone (s : State) (conn : Conn) (ok : Bool) (data : List Byte) : State :=
  { s with rmaOut := s.rmaOut ++ [⟨conn, ok, data⟩] }

/-- An access of the control space (R432): its offset, when it is 8 bytes at an 8-byte offset. -/
def ctlOffset (addr : BitVec 64) (n : Nat) : Option Nat :=
  if n = 8 && fld addr 25 0 % 8 = 0 then some (fld addr 25 0) else none

/-- RMA_WRITE: one packet. Bytes before a page that meets a cause may have been written. -/
def execRmaWrite (conn : Conn) (addr : BitVec 64) (data : List Byte) (s : State) : Out :=
  if 4096 < data.length then .refused (.notEnabled "a packet holds at most 4 KiB")
  else if !s.booted then .next s
  else match s.connAsid conn.key with
    | none => .next (s.rmaDone conn false [])
    | some a =>
      if addr.getLsbD 63 then
        match ctlOffset addr data.length with
        | some o =>
          if conn.key = 0 || mayWrite a o then .next ((s.ctlWrite o (BitVec.ofNat 64 (leNat data))).rmaDone conn true [])
          else .next (s.rmaDone conn false [])
        | none => .next (s.rmaDone conn false [])
      else
        let r := s.rmaFind a useStore (pageParts addr.toNat data.length)
        if r.2.2 then .next ((r.1.rmaPut r.2.1 data).rmaDone conn true [])
        else
          let f := r.1.stillHeld
          .next ((if f.1 then f.2.rmaPut r.2.1 data else f.2).rmaDone conn false [])

/-- RMA_READ: one packet. A module that has not booted answers only reads of the identity block. -/
def execRmaRead (conn : Conn) (addr : BitVec 64) (n : Nat) (s : State) : Out :=
  if 4096 < n then .refused (.notEnabled "a packet holds at most 4 KiB")
  else if !s.booted && !(s.bootStat != 0 && addr.getLsbD 63 && fld addr 25 0 < 0x100) then .next s
  else match s.connAsid conn.key with
    | none => .next (s.rmaDone conn false [])
    | some a =>
      if addr.getLsbD 63 then
        match ctlOffset addr n with
        | some o =>
          if conn.key = 0 || mayRead a o then .next (s.rmaDone conn true (leBytes 8 (s.ctlRead o).toNat))
          else .next (s.rmaDone conn false [])
        | none => .next (s.rmaDone conn false [])
      else
        let r := s.rmaFind a useLoad (pageParts addr.toNat n)
        if r.2.2 then .next (r.1.rmaDone conn true (r.2.1.flatMap (fun p => r.1.homeRead p.1 p.2)))
        else .next (r.1.rmaDone conn false [])

/-! ### The ports (R431) and firmware's accesses (R386) -/

/-- PACKET_DROP. -/
def execPacketDrop (port : Nat) (s : State) : Out :=
  if 8 ≤ port then .refused (.notEnabled "no such port")
  else .next { s with portErrs := SMap.set s.portErrs 0 port ((SMap.get s.portErrs 0 port + 1) % 2 ^ 64) }

/-- R437: the `n` bytes that a narrow read of the control space returns, lowest first (log entry 138). -/
def State.ctlBytes (s : State) (off n : Nat) : List Byte :=
  (List.range n).map (fun i => (s.ctlRead ((off + i) / 8 * 8)).extractLsb' (8 * ((off + i) % 8)) 8)

/-- What an access of firmware returns to it. -/
def State.toFirmware (s : State) (v : Nat) : State := { s with fwOut := s.fwOut ++ [BitVec.ofNat 64 v] }

/-- An access of firmware to `size` bytes of HBM: what it writes there, and whether the old value is returned. One
that meets an uncorrectable error returns and writes nothing (R215; log entry 140). -/
def State.fwAccess (s : State) (pa size : Nat) (returns : Bool) (f : Nat → Option Nat) : Out :=
  if hbmBytes < pa + size then .fault (.noSuchAddress pa)
  else if s.eccHbm pa size then s.byFirmware (.next s)
  else
    let o := Memory.le s.mem pa size
    let t := match f o with
      | some v => { s with mem := Memory.setLe s.mem pa size v }
      | none => s
    let t := t.noteMoves
    s.byFirmware (.next (if returns then t.toFirmware o else t))

/-- OSTLER_ACCESS: performed at DEVICE scope when it completes, on plain text (log entry 94). A load, an atomic and a CAS
return the old value. In the control space a read returns the addressed bytes, and a write of fewer than 8 bytes, or at
another offset than a multiple of 8, is ignored (R437). -/
def execOstlerAccess (op : OstlerOp) (s : State) : Out :=
  match op with
  | .load pa size => s.fwAccess pa size true (fun _ => none)
  | .store pa size v => s.fwAccess pa size false (fun _ => some v.toNat)
  | .atomic pa size aop v =>
    s.fwAccess pa size true (fun o => some (atomNew aop.toNat (8 * size) o (v.toNat % 2 ^ (8 * size))))
  | .cas pa size old new =>
    s.fwAccess pa size true (fun o => if o = old.toNat % 2 ^ (8 * size) then some new.toNat else none)
  | .ctlLoad off size => s.byFirmware (.next (s.toFirmware (leNat (s.ctlBytes off size))))
  | .ctlStore off size v => s.byFirmware (.next (if size = 8 then s.ctlWrite off v else s))

end Sys2Proof.Machine
end

