-- ==== Sys2Proof/Machine/Lane.lean ====
section
/-! DEFINITION. Class 3: movement between lanes and elements, masks as bit vectors, reductions and scans, and VL (R148 to
R165). -/

namespace Sys2Proof.Machine

/-! ### Elements and spans (R148, R150) -/

/-- The wave that holds element `e`, as it stands at issue. -/
def Ctx.ofElem (k : Ctx) (s : State) (e : Nat) : Wave := (s.wave? (k.owner e)).getD k.wv

/-- The value of element `e` of a register (R148). -/
def Ctx.rdE (k : Ctx) (s : State) (ty : BitVec 2) (r e : Nat) : Nat := (k.ofElem s e).rdT ty r (e % 32)

/-- Bit `e` of a mask register (R148). -/
def Ctx.rdMe (k : Ctx) (s : State) (r e : Nat) : Bool := ((k.ofElem s e).rdM r).getLsbD (e % 32)

/-- Whether element `e` is active. -/
def Ctx.isAct (k : Ctx) (s : State) (pm : BitVec 3) (pn : Bool) (e : Nat) : Bool :=
  (k.act pm pn (k.owner e) (k.ofElem s e)).getLsbD (e % 32)

/-- GRP of R154. -/
def KF.grp (f : KF) : Bool := KF.xbit f 11

/-- R150: the first element and the size of the span that holds element `e`. -/
def Ctx.span (k : Ctx) (grp : Bool) (e : Nat) : Nat × Nat :=
  if !k.vec then (0, 32)
  else if grp then (e / 32 * 32, min 32 (k.g.vl - e / 32 * 32))
  else (0, k.g.vl)

/-- R150: the spans of an instruction, as first element and size. -/
def Ctx.spans (k : Ctx) (grp : Bool) : List (Nat × Nat) :=
  if !k.vec then [(0, 32)]
  else if grp then ((List.range 8).map (fun g => (32 * g, min 32 (k.g.vl - 32 * g)))).filter (fun p => p.2 != 0)
  else if k.g.vl = 0 then [] else [(0, k.g.vl)]

/-- The element number of a lane. -/
def Ctx.elemOf (k : Ctx) (v : WaveId) (l : Nat) : Nat := if k.vec then 32 * v.wave + l else l

/-- Write a value to the active elements for which there is one (R151). -/
def putElems (f : KF) (k : Ctx) (s : State) (g : Nat → Option Nat) : State :=
  k.each s (fun v x => foldLanes (k.act f.pm f.pn v x) (fun l a =>
    match g (k.elemOf v l) with
    | some y => a.wrT f.ty (KF.D f) l y
    | none => a) x)

/-- Write a mask bit to the active elements for which there is one. -/
def putMask (f : KF) (k : Ctx) (s : State) (g : Nat → Option Bool) : State :=
  k.each s (fun v x => foldLanes (k.act f.pm f.pn v x) (fun l a =>
    match g (k.elemOf v l) with
    | some y => a.wrMbit (KF.D f) l y
    | none => a) x)

/-- R156: the count or index: bits 31 to 0 of operand B of element `e`. -/
def laneCount (f : KF) (k : Ctx) (s : State) (e : Nat) : Nat := opB f k.wv (k.ofElem s e) (e % 32) % 2 ^ 32

/-! ### Shuffles (R156, R157) -/

inductive Shuffle where
  | idx
  | up
  | dn
  | xor
  deriving DecidableEq, Repr

/-- R156: the source position of a shuffle, or what stands in for a source out of span: the element's own value, or 0. -/
def shufflePos (h : Shuffle) (m32 : Bool) (p z n : Nat) : Option Nat × Bool :=
  match h with
  | .idx => let q := if m32 then n % 32 else n % 256
            (if q < z then some q else none, false)
  | .up => (if n ≤ p then some (p - n) else none, true)
  | .dn => (if p + n < z then some (p + n) else none, true)
  | .xor => let q := p ^^^ (n % 256)
            (if q < z then some q else none, true)

def shuffleOp (h : Shuffle) (f : KF) (k : Ctx) (s : State) : State :=
  let m32 := !k.vec || KF.grp f
  putElems f k s (fun e =>
    let sp := k.span (KF.grp f) e
    let r := shufflePos h m32 (e - sp.1) sp.2 (laneCount f k s e)
    some (match r.1 with
      | some q => k.rdE s f.ty (KF.A f) (sp.1 + q)
      | none => if r.2 then k.rdE s f.ty (KF.A f) e else 0))

def execShfl (f : KF) (s : State) : Out := issueCore (.shfl f) s (fun k s => .done (shuffleOp .idx f k s))
def execShflup (f : KF) (s : State) : Out := issueCore (.shflup f) s (fun k s => .done (shuffleOp .up f k s))
def execShfldn (f : KF) (s : State) : Out := issueCore (.shfldn f) s (fun k s => .done (shuffleOp .dn f k s))
def execShflx (f : KF) (s : State) : Out := issueCore (.shflx f) s (fun k s => .done (shuffleOp .xor f k s))

/-- R156: the index is the same for every element, so the element chosen is one per span. -/
def execBcast (f : KF) (s : State) : Out := issueCore (.bcast f) s (fun k s => .done (shuffleOp .idx f k s))

/-- R156: V2S (log entry 128). -/
def v2sOp (f : KF) (k : Ctx) (s : State) : State :=
  let n := laneCount f k s 0
  let e := if k.vec then n % 256 else n % 32
  let y := if k.vec && k.g.vl ≤ e then 0 else k.rdE s f.ty (KF.A f) e
  onWave k s (fun x => x.wrS (KF.D f) (BitVec.ofNat 64 y))

def execV2s (f : KF) (s : State) : Out := issueCore (.v2s f) s (fun k s => .done (v2sOp f k s))

/-- R157. -/
def slideOp (f : KF) (k : Ctx) (s : State) : State :=
  let n := laneCount f k s 0
  putElems f k s (fun e =>
    let sp := k.span (KF.grp f) e
    let j := e - sp.1 + n
    some (if j < sp.2 then k.rdE s f.ty (KF.A f) (sp.1 + j)
      else if j < 2 * sp.2 then k.rdE s f.ty f.c.toNat (sp.1 + (j - sp.2)) else 0))

def execSlide (f : KF) (s : State) : Out := issueCore (.slide f) s (fun k s => .done (slideOp f k s))

/-! ### Packing (R158, R159) -/

/-- The elements of a span, in ascending order. -/
def spanElems (sp : Nat × Nat) : List Nat := (List.range sp.2).map (fun p => sp.1 + p)

def cmprOp (f : KF) (k : Ctx) (s : State) : State :=
  putElems f k s (fun e =>
    let sp := k.span (KF.grp f) e
    (((spanElems sp).filter (k.rdMe s (fld f.c 2 0)))[e - sp.1]?).map (k.rdE s f.ty (KF.A f)))

def execCmpr (f : KF) (s : State) : Out := issueCore (.cmpr f) s (fun k s => .done (cmprOp f k s))

def expdOp (f : KF) (k : Ctx) (s : State) : State :=
  putElems f k s (fun e =>
    let sp := k.span (KF.grp f) e
    let i := ((spanElems sp).filter (fun x => x < e && k.isAct s f.pm f.pn x)).length
    some (k.rdE s f.ty (KF.A f) (sp.1 + i)))

def execExpd (f : KF) (s : State) : Out := issueCore (.expd f) s (fun k s => .done (expdOp f k s))

def iotaOp (f : KF) (k : Ctx) (s : State) : State :=
  putElems f k s (fun e =>
    some (wrap (partW f.ty) (opB f k.wv (k.ofElem s e) (e % 32) + (e - (k.span (KF.grp f) e).1))))

def execIota (f : KF) (s : State) : Out := issueCore (.iota f) s (fun k s => .done (iotaOp f k s))

/-! ### Masks as bit vectors (R160 to R162) -/

/-- R160: BALLOT. -/
def ballotOp (f : KF) (k : Ctx) (s : State) : State :=
  let q := fld f.c 1 0
  let n := if k.vec then 64 else 32
  let y := (List.range n).foldr (fun i (a : Nat) =>
    2 * a + (let e := 64 * q + i
             if k.rdMe s (KF.A f) e && k.isAct s f.pm f.pn e then 1 else 0)) 0
  onWave k s (fun x => x.wrS (KF.D f) (BitVec.ofNat 64 y))

def execBallot (f : KF) (s : State) : Out := issueCore (.ballot f) s (fun k s => .done (ballotOp f k s))

/-- R160: MSET. -/
def msetOp (f : KF) (k : Ctx) (s : State) : State :=
  let q := fld f.c 1 0
  let v := opS f k.wv
  putMask f k s (fun e => if e / 64 = q then some (v.getLsbD (e % 64)) else none)

def execMset (f : KF) (s : State) : Out := issueCore (.mset f) s (fun k s => .done (msetOp f k s))

/-- R161. For a span with one active element ALL is true whatever its bit is, as the rule states (log entry 107). -/
def voteOp (f : KF) (k : Ctx) (s : State) : State :=
  putMask f k s (fun e =>
    let es := (spanElems (k.span (KF.grp f) e)).filter (k.isAct s f.pm f.pn)
    let all := es.all (k.rdMe s (KF.A f))
    let any := es.any (k.rdMe s (KF.A f))
    some (match fld f.c 1 0 with
      | 0 => all || es.length == 1
      | 1 => any
      | _ => all || !any))

def execVote (f : KF) (s : State) : Out := issueCore (.vote f) s (fun k s => .done (voteOp f k s))

/-- R162: MSK. -/
def mskBit (op : Nat) (a b : Bool) : Bool :=
  match op with
  | 0 => a && b
  | 1 => a || b
  | 2 => a != b
  | 3 => a && !b
  | 4 => a || !b
  | 5 => !a
  | _ => a

def mskOp (f : KF) (k : Ctx) (s : State) : State :=
  let b := match f.b with
    | .v r => r.toNat
    | _ => 0
  putMask f k s (fun e => some (mskBit (fld f.c 2 0) (k.rdMe s (KF.A f) e) (k.rdMe s b e)))

def execMsk (f : KF) (s : State) : Out := issueCore (.msk f) s (fun k s => .done (mskOp f k s))

def mpopOp (f : KF) (k : Ctx) (s : State) : State :=
  let n := ((k.active s f.pm f.pn).filter (k.rdMe s (KF.A f))).length
  onWave k s (fun x => x.wrS (KF.D f) (BitVec.ofNat 64 n))

def execMpop (f : KF) (s : State) : Out := issueCore (.mpop f) s (fun k s => .done (mpopOp f k s))

def mffOp (f : KF) (k : Ctx) (s : State) : State :=
  let y := match (k.active s f.pm f.pn).find? (k.rdMe s (KF.A f)) with
    | some e => BitVec.ofNat 64 e
    | none => 0xFFFFFFFFFFFFFFFF
  onWave k s (fun x => x.wrS (KF.D f) y)

def execMff (f : KF) (s : State) : Out := issueCore (.mff f) s (fun k s => .done (mffOp f k s))

/-! ### Reductions and scans (R163) -/

/-- R163: whether ROP is a float operation. -/
def ropFloat (rop : Nat) : Bool := 8 ≤ rop

/-- R163: the identity. -/
def ropId (rop : Nat) (ty : BitVec 2) : Nat :=
  let w := partW ty
  let t := nat? ty
  match rop with
  | 1 => 2 ^ (w - 1) - 1
  | 2 => 2 ^ (w - 1)
  | 3 => 2 ^ w - 1
  | 5 => 2 ^ w - 1
  | 8 => 2 ^ (w - 1)
  | 9 => (roundFmt t .rne (.inf false)).pat
  | 10 => (roundFmt t .rne (.inf true)).pat
  | _ => 0

/-- R163: one step. -/
def ropStep (rop : Nat) (ty : BitVec 2) (mode : Mode) (acc x : Nat) : Nat × Fl :=
  let w := partW ty
  match rop with
  | 0 => (wrap w (acc + x), 0)
  | 1 => (if sgn w x < sgn w acc then x else acc, 0)
  | 2 => (if sgn w acc < sgn w x then x else acc, 0)
  | 3 => (min acc x, 0)
  | 4 => (max acc x, 0)
  | 5 => (acc &&& x, 0)
  | 6 => (acc ||| x, 0)
  | 7 => (acc ^^^ x, 0)
  | 8 => gAdd (nat? ty) mode acc x
  | 9 => gMinMax (nat? ty) false acc x
  | _ => gMinMax (nat? ty) true acc x

/-- R163: Canon. -/
def ropCanon (rop : Nat) (ty : BitVec 2) (mode : Mode) (x : Nat) : Nat × Fl :=
  if ropFloat rop then give (nat? ty) mode (decodeV (nat? ty) x, 0) else (x, 0)

/-- What the walk over a span has gathered: the accumulator, whether an element has been met, the value T of each active
element, and its flags. -/
structure Walk where
  acc : Nat
  met : Bool
  outs : List (Nat × Nat × Fl)
  deriving DecidableEq, Repr

/-- R163: the walk over the active elements of a span. -/
def redWalk (f : KF) (k : Ctx) (s : State) (ex : Bool) (sp : Nat × Nat) : Walk :=
  let rop := fld f.x 3 0
  ((spanElems sp).filter (k.isAct s f.pm f.pn)).foldl (fun a e =>
    let mode := fMode f (k.ofElem s e)
    let x := k.rdE s f.ty (KF.A f) e
    let r := if a.met then ropStep rop f.ty mode a.acc x else ropCanon rop f.ty mode x
    ⟨r.1, true, a.outs ++ [(e, if ex then a.acc else r.1, r.2)]⟩) ⟨ropId rop f.ty, false, []⟩

/-- R163: RED gives the accumulator to every active element of its span, SCAN the element's own T; the flags of a step go
to the owner of the element it adds. -/
def redOp (scan : Bool) (f : KF) (k : Ctx) (s : State) : State :=
  let outs := (k.spans (KF.grp f)).flatMap (fun sp =>
    let w := redWalk f k s (scan && KF.xbit f 8) sp
    w.outs.map (fun o => (o.1, if scan then o.2.1 else w.acc, o.2.2)))
  k.each s (fun v x => foldLanes (k.act f.pm f.pn v x) (fun l a =>
    match outs.find? (fun o => o.1 == k.elemOf v l) with
    | some o => (a.wrT f.ty (KF.D f) l o.2.1).orFlags o.2.2
    | none => a) x)

def execRed (f : KF) (s : State) : Out := issueCore (.red f) s (fun k s => .done (redOp false f k s))
def execScan (f : KF) (s : State) : Out := issueCore (.scan f) s (fun k s => .done (redOp true f k s))

/-! ### VL (R164) -/

def setvlOp (f : KF) (k : Ctx) (s : State) : State :=
  let n := min (opS f k.wv).toNat 256
  (s.modGang k.gid (fun g => { g with vl := n })).modWave k.w (fun x => x.wrS (KF.D f) (BitVec.ofNat 64 n))

def execSetvl (f : KF) (s : State) : Out := issueCore (.setvl f) s (fun k s => .done (setvlOp f k s))

def getvlOp (f : KF) (k : Ctx) (s : State) : State :=
  onWave k s (fun x => x.wrS (KF.D f) (BitVec.ofNat 64 k.g.vl))

def execGetvl (f : KF) (s : State) : Out := issueCore (.getvl f) s (fun k s => .done (getvlOp f k s))

end Sys2Proof.Machine
end

