-- ==== Sys2Proof/Machine/Dispatch.lean ====
section
/-! DEFINITION. One arm for every constructor of `Instr`, in the order of spec/opcode_table.json. -/

namespace Sys2Proof.Machine

def exec (i : Instr) (s : State) : Host.Outcome State Fault Refusal :=
  match i with
  | .add f => Sys2Proof.Machine.execAdd f s
  | .sub f => Sys2Proof.Machine.execSub f s
  | .addc f => Sys2Proof.Machine.execAddc f s
  | .subb f => Sys2Proof.Machine.execSubb f s
  | .mullo f => Sys2Proof.Machine.execMullo f s
  | .mulhi f => Sys2Proof.Machine.execMulhi f s
  | .mulhn f => Sys2Proof.Machine.execMulhn f s
  | .mad f => Sys2Proof.Machine.execMad f s
  | .div f => Sys2Proof.Machine.execDiv f s
  | .divn f => Sys2Proof.Machine.execDivn f s
  | .rem f => Sys2Proof.Machine.execRem f s
  | .remn f => Sys2Proof.Machine.execRemn f s
  | .min f => Sys2Proof.Machine.execMin f s
  | .max f => Sys2Proof.Machine.execMax f s
  | .minn f => Sys2Proof.Machine.execMinn f s
  | .maxn f => Sys2Proof.Machine.execMaxn f s
  | .abs f => Sys2Proof.Machine.execAbs f s
  | .neg f => Sys2Proof.Machine.execNeg f s
  | .and f => Sys2Proof.Machine.execAnd f s
  | .or f => Sys2Proof.Machine.execOr f s
  | .xor f => Sys2Proof.Machine.execXor f s
  | .andn f => Sys2Proof.Machine.execAndn f s
  | .not f => Sys2Proof.Machine.execNot f s
  | .shl f => Sys2Proof.Machine.execShl f s
  | .shr f => Sys2Proof.Machine.execShr f s
  | .sar f => Sys2Proof.Machine.execSar f s
  | .rol f => Sys2Proof.Machine.execRol f s
  | .clz f => Sys2Proof.Machine.execClz f s
  | .popc f => Sys2Proof.Machine.execPopc f s
  | .brev f => Sys2Proof.Machine.execBrev f s
  | .bfx f => Sys2Proof.Machine.execBfx f s
  | .bfi f => Sys2Proof.Machine.execBfi f s
  | .lea f => Sys2Proof.Machine.execLea f s
  | .sel f => Sys2Proof.Machine.execSel f s
  | .cmp f => Sys2Proof.Machine.execCmp f s
  | .mov f => Sys2Proof.Machine.execMov f s
  | .movi f => Sys2Proof.Machine.execMovi f s
  | .moviHi f => Sys2Proof.Machine.execMoviHi f s
  | .moviPair f => Sys2Proof.Machine.execMoviPair f s
  | .movsv f => Sys2Proof.Machine.execMovsv f s
  | .adds f => Sys2Proof.Machine.execAdds f s
  | .subs f => Sys2Proof.Machine.execSubs f s
  | .dot4 f => Sys2Proof.Machine.execDot4 f s
  | .fadd f => Sys2Proof.Machine.execFadd f s
  | .fsub f => Sys2Proof.Machine.execFsub f s
  | .fmul f => Sys2Proof.Machine.execFmul f s
  | .fma f => Sys2Proof.Machine.execFma f s
  | .fmin f => Sys2Proof.Machine.execFmin f s
  | .fmax f => Sys2Proof.Machine.execFmax f s
  | .fcmp f => Sys2Proof.Machine.execFcmp f s
  | .fdiv f => Sys2Proof.Machine.execFdiv f s
  | .fsqrt f => Sys2Proof.Machine.execFsqrt f s
  | .frcp f => Sys2Proof.Machine.execFrcp f s
  | .frsq f => Sys2Proof.Machine.execFrsq f s
  | .fex2 f => Sys2Proof.Machine.execFex2 f s
  | .flg2 f => Sys2Proof.Machine.execFlg2 f s
  | .fclass f => Sys2Proof.Machine.execFclass f s
  | .fcvti f => Sys2Proof.Machine.execFcvti f s
  | .icvtf f => Sys2Proof.Machine.execIcvtf f s
  | .fcvtw f => Sys2Proof.Machine.execFcvtw f s
  | .frnd f => Sys2Proof.Machine.execFrnd f s
  | .fscl f => Sys2Proof.Machine.execFscl f s
  | .fmtw f => Sys2Proof.Machine.execFmtw f s
  | .fmtr f => Sys2Proof.Machine.execFmtr f s
  | .fmtq f => Sys2Proof.Machine.execFmtq f s
  | .cvt f => Sys2Proof.Machine.execCvt f s
  | .sclq f => Sys2Proof.Machine.execSclq f s
  | .scld f => Sys2Proof.Machine.execScld f s
  | .bscl f => Sys2Proof.Machine.execBscl f s
  | .ndot f => Sys2Proof.Machine.execNdot f s
  | .shfl f => Sys2Proof.Machine.execShfl f s
  | .shflup f => Sys2Proof.Machine.execShflup f s
  | .shfldn f => Sys2Proof.Machine.execShfldn f s
  | .shflx f => Sys2Proof.Machine.execShflx f s
  | .bcast f => Sys2Proof.Machine.execBcast f s
  | .ballot f => Sys2Proof.Machine.execBallot f s
  | .vote f => Sys2Proof.Machine.execVote f s
  | .red f => Sys2Proof.Machine.execRed f s
  | .scan f => Sys2Proof.Machine.execScan f s
  | .cmpr f => Sys2Proof.Machine.execCmpr f s
  | .expd f => Sys2Proof.Machine.execExpd f s
  | .iota f => Sys2Proof.Machine.execIota f s
  | .setvl f => Sys2Proof.Machine.execSetvl f s
  | .getvl f => Sys2Proof.Machine.execGetvl f s
  | .msk f => Sys2Proof.Machine.execMsk f s
  | .mpop f => Sys2Proof.Machine.execMpop f s
  | .mff f => Sys2Proof.Machine.execMff f s
  | .v2s f => Sys2Proof.Machine.execV2s f s
  | .slide f => Sys2Proof.Machine.execSlide f s
  | .mset f => Sys2Proof.Machine.execMset f s
  | .br f => Sys2Proof.Machine.execBr f s
  | .brm f => Sys2Proof.Machine.execBrm f s
  | .brs f => Sys2Proof.Machine.execBrs f s
  | .rcv f => Sys2Proof.Machine.execRcv f s
  | .join f => Sys2Proof.Machine.execJoin f s
  | .call f => Sys2Proof.Machine.execCall f s
  | .callxV f => Sys2Proof.Machine.execCallxV f s
  | .callxS f => Sys2Proof.Machine.execCallxS f s
  | .jmpxV f => Sys2Proof.Machine.execJmpxV f s
  | .jmpxS f => Sys2Proof.Machine.execJmpxS f s
  | .ret f => Sys2Proof.Machine.execRet f s
  | .exit f => Sys2Proof.Machine.execExit f s
  | .loop f => Sys2Proof.Machine.execLoop f s
  | .nop f => Sys2Proof.Machine.execNop f s
  | .yield f => Sys2Proof.Machine.execYield f s
  | .prefi f => Sys2Proof.Machine.execPrefi f s
  | .ifence f => Sys2Proof.Machine.execIfence f s
  | .ld f => Sys2Proof.Machine.execLd f s
  | .ldUniform f => Sys2Proof.Machine.execLdUniform f s
  | .st f => Sys2Proof.Machine.execSt f s
  | .lda f => Sys2Proof.Machine.execLda f s
  | .stl f => Sys2Proof.Machine.execStl f s
  | .atom f => Sys2Proof.Machine.execAtom f s
  | .cas f => Sys2Proof.Machine.execCas f s
  | .fence f => Sys2Proof.Machine.execFence f s
  | .pref f => Sys2Proof.Machine.execPref f s
  | .vlds f => Sys2Proof.Machine.execVlds f s
  | .vsts f => Sys2Proof.Machine.execVsts f s
  | .ldf f => Sys2Proof.Machine.execLdf f s
  | .stf f => Sys2Proof.Machine.execStf f s
  | .cmaint f => Sys2Proof.Machine.execCmaint f s
  | .cpy f => Sys2Proof.Machine.execCpy f s
  | .cpyt f => Sys2Proof.Machine.execCpyt f s
  | .cpyb f => Sys2Proof.Machine.execCpyb f s
  | .cpyw f => Sys2Proof.Machine.execCpyw f s
  | .bar f => Sys2Proof.Machine.execBar f s
  | .bara f => Sys2Proof.Machine.execBara f s
  | .barw f => Sys2Proof.Machine.execBarw f s
  | .barx f => Sys2Proof.Machine.execBarx f s
  | .qpush f => Sys2Proof.Machine.execQpush f s
  | .qpop f => Sys2Proof.Machine.execQpop f s
  | .qnotify f => Sys2Proof.Machine.execQnotify f s
  | .qbindTrig f => Sys2Proof.Machine.execQbindTrig f s
  | .qbindIn f => Sys2Proof.Machine.execQbindIn f s
  | .qbindOut f => Sys2Proof.Machine.execQbindOut f s
  | .qbindUnmap f => Sys2Proof.Machine.execQbindUnmap f s
  | .qstat f => Sys2Proof.Machine.execQstat f s
  | .freq f => Sys2Proof.Machine.execFreq f s
  | .frel f => Sys2Proof.Machine.execFrel f s
  | .fcfg f => Sys2Proof.Machine.execFcfg f s
  | .fsend f => Sys2Proof.Machine.execFsend f s
  | .frecv f => Sys2Proof.Machine.execFrecv f s
  | .fdrain f => Sys2Proof.Machine.execFdrain f s
  | .fprio f => Sys2Proof.Machine.execFprio f s
  | .fstat f => Sys2Proof.Machine.execFstat f s
  | .fmodeDf f => Sys2Proof.Machine.execFmodeDf f s
  | .fmodeSys f => Sys2Proof.Machine.execFmodeSys f s
  | .mxw f => Sys2Proof.Machine.execMxw f s
  | .mxa f => Sys2Proof.Machine.execMxa f s
  | .mxc f => Sys2Proof.Machine.execMxc f s
  | .mxz f => Sys2Proof.Machine.execMxz f s
  | .mxsc f => Sys2Proof.Machine.execMxsc f s
  | .mxwait f => Sys2Proof.Machine.execMxwait f s
  | .eqp f => Sys2Proof.Machine.execEqp f s
  | .remount f => Sys2Proof.Machine.execRemount f s
  | .remountClr f => Sys2Proof.Machine.execRemountClr f s
  | .gaitr f => Sys2Proof.Machine.execGaitr f s
  | .pin f => Sys2Proof.Machine.execPin f s
  | .pinOff f => Sys2Proof.Machine.execPinOff f s
  | .trap f => Sys2Proof.Machine.execTrap f s
  | .brk f => Sys2Proof.Machine.execBrk f s
  | .ctlrd f => Sys2Proof.Machine.execCtlrd f s
  | .ctlwr f => Sys2Proof.Machine.execCtlwr f s
  | .cyc f => Sys2Proof.Machine.execCyc f s
  | .cycRow f => Sys2Proof.Machine.execCycRow f s
  | .launch f => Sys2Proof.Machine.execLaunch f s
  | .waitev f => Sys2Proof.Machine.execWaitev f s
  | .sigev f => Sys2Proof.Machine.execSigev f s
  | .arithNodeFire n => Sys2Proof.Machine.execArithNodeFire n s
  | .steer n => Sys2Proof.Machine.execSteer n s
  | .const n => Sys2Proof.Machine.execConst n s
  | .lenter n => Sys2Proof.Machine.execLenter n s
  | .lnext n => Sys2Proof.Machine.execLnext n s
  | .lexit n => Sys2Proof.Machine.execLexit n s
  | .calln n => Sys2Proof.Machine.execCalln n s
  | .retn n => Sys2Proof.Machine.execRetn n s
  | .ixrd n => Sys2Proof.Machine.execIxrd n s
  | .joinc n => Sys2Proof.Machine.execJoinc n s
  | .sink n => Sys2Proof.Machine.execSink n s
  | .sendp n => Sys2Proof.Machine.execSendp n s
  | .eqpn n => Sys2Proof.Machine.execEqpn n s
  | .fend n => Sys2Proof.Machine.execFend n s
  | .errt n => Sys2Proof.Machine.execErrt n s
  | .gate n => Sys2Proof.Machine.execGate n s
  | .cld n => Sys2Proof.Machine.execCld n s
  | .cst n => Sys2Proof.Machine.execCst n s
  | .catom n => Sys2Proof.Machine.execCatom n s
  | .mnop n => Sys2Proof.Machine.execMnop n s
  | .fld n => Sys2Proof.Machine.execFld n s
  | .fst n => Sys2Proof.Machine.execFst n s
  | .cfence n => Sys2Proof.Machine.execCfence n s
  | .mcld n => Sys2Proof.Machine.execMcld n s
  | .mcst n => Sys2Proof.Machine.execMcst n s
  | .mcenq n => Sys2Proof.Machine.execMcenq n s
  | .mcdeq n => Sys2Proof.Machine.execMcdeq n s
  | .agen n => Sys2Proof.Machine.execAgen n s
  | .mxj n => Sys2Proof.Machine.execMxj n s
  | .mxout n => Sys2Proof.Machine.execMxout n s
  | .tokenArrive c k => Sys2Proof.Machine.execTokenArrive c k s
  | .frameEntry c k => Sys2Proof.Machine.execFrameEntry c k s
  | .frameRefill c place cell frame => Sys2Proof.Machine.execFrameRefill c place cell frame s
  | .nodeChoose cluster bay cell => Sys2Proof.Machine.execNodeChoose cluster bay cell s
  | .weirArrive c k => Sys2Proof.Machine.execWeirArrive c k s
  | .weirRelease c paddock => Sys2Proof.Machine.execWeirRelease c paddock s
  | .roundCommit c k => Sys2Proof.Machine.execRoundCommit c k s
  | .paddockQuiescent c paddock => Sys2Proof.Machine.execPaddockQuiescent c paddock s
  | .preciseStop asid => Sys2Proof.Machine.execPreciseStop asid s
  | .resultDeliver c k => Sys2Proof.Machine.execResultDeliver c k s
  | .cellPass c place cell => Sys2Proof.Machine.execCellPass c place cell s
  | .fabricOpComplete w => Sys2Proof.Machine.execFabricOpComplete w s
  | .paddockLoadComplete c place => Sys2Proof.Machine.execPaddockLoadComplete c place s
  | .paddockSwapOut c place => Sys2Proof.Machine.execPaddockSwapOut c place s
  | .paddockResume c paddock slice bay => Sys2Proof.Machine.execPaddockResume c paddock slice bay s
  | .bridleWindowEnd c place => Sys2Proof.Machine.execBridleWindowEnd c place s
  | .generatorStep c place mc gen => Sys2Proof.Machine.execGeneratorStep c place mc gen s
  | .generatorDone c place mc gen => Sys2Proof.Machine.execGeneratorDone c place mc gen s
  | .weightEventApply c k => Sys2Proof.Machine.execWeightEventApply c k s
  | .columnHeadRead c k => Sys2Proof.Machine.execColumnHeadRead c k s
  | .passComplete c k => Sys2Proof.Machine.execPassComplete c k s
  | .copyUnitLand cluster k unit => Sys2Proof.Machine.execCopyUnitLand cluster k unit s
  | .copyPark cluster k => Sys2Proof.Machine.execCopyPark cluster k s
  | .triggerConsume cluster queue => Sys2Proof.Machine.execTriggerConsume cluster queue s
  | .memoryAccessResponse cluster k => Sys2Proof.Machine.execMemoryAccessResponse cluster k s
  | .pageWalk cluster asid vpn store => Sys2Proof.Machine.execPageWalk cluster asid vpn store s
  | .instructionFetch cluster asid line => Sys2Proof.Machine.execInstructionFetch cluster asid line s
  | .remoteTimeout w => Sys2Proof.Machine.execRemoteTimeout w s
  | .invalidationBroadcast asid va => Sys2Proof.Machine.execInvalidationBroadcast asid va s
  | .launchPrereqRead launch => Sys2Proof.Machine.execLaunchPrereqRead launch s
  | .crewPlacement p => Sys2Proof.Machine.execCrewPlacement p s
  | .argumentBlockRead launch => Sys2Proof.Machine.execArgumentBlockRead launch s
  | .agingPeriod launch => Sys2Proof.Machine.execAgingPeriod launch s
  | .crewRetire c => Sys2Proof.Machine.execCrewRetire c s
  | .resume asid seq => Sys2Proof.Machine.execResume asid seq s
  | .stop asid seq => Sys2Proof.Machine.execStop asid seq s
  | .preemptRequest asid value => Sys2Proof.Machine.execPreemptRequest asid value s
  | .sliceTimerExpiry c => Sys2Proof.Machine.execSliceTimerExpiry c s
  | .crewSave c => Sys2Proof.Machine.execCrewSave c s
  | .crewRestore c => Sys2Proof.Machine.execCrewRestore c s
  | .halt asid => Sys2Proof.Machine.execHalt asid s
  | .resumeGangs asid => Sys2Proof.Machine.execResumeGangs asid s
  | .gangResume c gang form => Sys2Proof.Machine.execGangResume c gang form s
  | .gateRequest cluster => Sys2Proof.Machine.execGateRequest cluster s
  | .gateCommit cluster => Sys2Proof.Machine.execGateCommit cluster s
  | .gateWake cluster => Sys2Proof.Machine.execGateWake cluster s
  | .powerWindow milliwatts => Sys2Proof.Machine.execPowerWindow milliwatts s
  | .curbEngage alarms => Sys2Proof.Machine.execCurbEngage alarms s
  | .curbLift => Sys2Proof.Machine.execCurbLift s
  | .update ostler verified => Sys2Proof.Machine.execUpdate ostler verified s
  | .retireCluster cluster => Sys2Proof.Machine.execRetireCluster cluster s
  | .retireChannel channel room => Sys2Proof.Machine.execRetireChannel channel room s
  | .retrain port => Sys2Proof.Machine.execRetrain port s
  | .recal target => Sys2Proof.Machine.execRecal target s
  | .serviceComplete => Sys2Proof.Machine.execServiceComplete s
  | .keyInstall index => Sys2Proof.Machine.execKeyInstall index s
  | .hostLaunch conn h payload => Sys2Proof.Machine.execHostLaunch conn h payload s
  | .subscribe conn h payload => Sys2Proof.Machine.execSubscribe conn h payload s
  | .hostStop conn h payload => Sys2Proof.Machine.execHostStop conn h payload s
  | .release conn h payload => Sys2Proof.Machine.execRelease conn h payload s
  | .atomic conn h payload => Sys2Proof.Machine.execAtomic conn h payload s
  | .event k => Sys2Proof.Machine.execEvent k s
  | .rmaWrite conn addr data => Sys2Proof.Machine.execRmaWrite conn addr data s
  | .rmaRead conn addr n => Sys2Proof.Machine.execRmaRead conn addr n s
  | .powerOnBoot failing => Sys2Proof.Machine.execPowerOnBoot failing s
  | .registerWrite offset value => Sys2Proof.Machine.execRegisterWrite offset value s
  | .packetDrop port => Sys2Proof.Machine.execPacketDrop port s
  | .unknownCommand conn h => Sys2Proof.Machine.execUnknownCommand conn h s
  | .connectionClose conn => Sys2Proof.Machine.execConnectionClose conn s
  | .ostlerAccess op => Sys2Proof.Machine.execOstlerAccess op s
  | .curbAlarmClear alarms => Sys2Proof.Machine.execCurbAlarmClear alarms s
  | .clusterWake cluster => Sys2Proof.Machine.execClusterWake cluster s

end Sys2Proof.Machine
end

