-- ==== Sys2Proof/Machine/Sched.lean ====
section
/-! DEFINITION. The order in which a scheduler considers the waves of its pool (R189), and the state in which a given
word is the next to be fetched. -/

namespace Sys2Proof.Machine

/-! ### Arbitration (R189) -/

/-- The wave may issue, as far as its last attempt and its crew tell. -/
def State.mayIssue (s : State) (w : WaveId) : Bool :=
  match ctx? s w with
  | some k => k.issues && (blocked k s).isNone
  | none => false

/-- R189: whether `a` is considered before `b`: a wave passed over 64 times first, then the higher priority, then the
older next instruction. -/
def before (s : State) (a b : WaveId) : Bool :=
  match s.wave? a, s.wave? b with
  | some x, some y =>
    let px := (s.crew? a.crew).map (fun c => c.prio)
    let py := (s.crew? b.crew).map (fun c => c.prio)
    let ux := 64 ≤ x.passed
    let uy := 64 ≤ y.passed
    if ux != uy then ux
    else if px != py then py.getD 0 < px.getD 0
    else x.since < y.since
  | _, _ => false

/-- Insert in order, after those that are not later. -/
def insertBy (lt : WaveId → WaveId → Bool) (a : WaveId) : List WaveId → List WaveId
  | [] => [a]
  | b :: t => if lt a b then a :: b :: t else b :: insertBy lt a t

/-- The pool in the order of R189. -/
def State.order (s : State) (pool : List WaveId) : List WaveId :=
  (pool.filter s.mayIssue).foldl (fun l a => insertBy (before s) a l) []

/-! ### A word placed where the next step fetches it -/

/-- A launch of one gang in threaded form, under ASID 0, accepted and placed. -/
def probeLaunch (kn : Kernel) : Launch :=
  { record := [0, 256, 0x1, 0x1, 0, 0, 0, 0, 0, 0, 0, 0, 0, 0, 0, 0], queue := 0, inQueue := false, state := .placed
    eff := 0, kernel := some kn, args := [], argsRead := true, placed := 1, gone := 0, only := none, prvBase := 0
    gtBase := 0, held := none }

/-- A kernel whose threaded version is two words from address 0, with the largest allocation, and whose one paddock is
one node word. -/
def probeKernel (w : BitVec 64) : Kernel :=
  { image := 0, vregs := 256, crw := 1048576, forms := 1, tOff := 0, tLen := 16, vOff := 0, vLen := 0
    paddocks := [[[w]]], eqps := [], maps := [], sites := [], queues := [], chains := [], formats := [], consts := []
    eqpT := [], eqpV := [] }

def probeCrew : CrewId := ⟨0, 0⟩

/-- A frame of node 0 of block 0, whose operands have met. -/
def probeFrame : Frame :=
  { cell := 0, no := 0, blk := 0, tag := 0, round := 0, how := (⟨0, none, 0⟩ : Entry), loop0 := 0, loop1 := 0, presence := 0
    slots := [], errs := 0, joinErr := [], resident := true, ending := false, touched := 0, arrived := 0, fired := 0 }

def probePlace : Place :=
  { slice := 0, bay := 0, ctx := 0, sys := false, state := .resident, draining := false, drainHere := 0, passed := 0
    paddock := 0, fprio := 0, edge := 0, frames := [probeFrame], ready := [], fired := 0, mcells := [], admitted := []
    bwCap := 16384, bwFull := [], parked := [], next := [], named := 0 }

def probeRound : Round :=
  { id := 0, paddock := 0, iter := 0, rm := 0, remount := false, open_ := true, eqpn := none, flags := 0, errors := []
    faults := [], results := [], bound := false, committed := false }

/-- Whether the class of a word is one that only node words have (R72, R73). -/
def nodeClass (w : BitVec 64) : Bool := 12 ≤ fld w 63 60 && fld w 63 60 ≤ 14

/-- The next step runs the word `w`: a core word at address 0 of wave 0 of launch 0, which is in focus, its line in the
instruction cache; a node word as the firing in focus, in paddock 0 of that launch's crew. -/
def State.place (s : State) (w : BitVec 64) : State :=
  let crew := Crew.start 0 1 0 false [] 0 0 0
  let crew := { crew with region := some ⟨1, 1, [probePlace], true, true⟩, rounds := [probeRound] }
  let s := s.setLaunch 0 (probeLaunch (probeKernel w))
  let s := s.setCrew probeCrew crew
  let s := s.setGang ⟨probeCrew, 0⟩ (Gang.start 0 0)
  let s := { s with waves := (List.range 8).map (fun v => ((⟨probeCrew, 0, v⟩ : WaveId), Wave.start 0xFFFFFFFF 0)) ++ s.waves }
  if nodeClass w then
    { s with focus := .node ⟨probeCrew, 0, (⟨0, 0, 0, 0, 0, false, 0, false, false, none⟩ : Ready)⟩ }
  else
    { s.setIline 0 0 0 (some (w.setWidth 1024)) with focus := .wave ⟨probeCrew, 0, 0⟩ }

end Sys2Proof.Machine
end

