-- ==== Sys2Proof/Machine/Arb.lean ====
section
/-! DEFINITION. What was fetched is run; a scheduler picks among the waves of its pool (R189); and the reason for which a
wave does not issue (R190). -/

namespace Sys2Proof.Machine

/-- Run what was fetched. -/
def fetched (f : Fetched) : Out :=
  match f with
  | .over o => o
  | .run i s => exec i s

/-- The wave is about to be tried: what it waited for at its last attempt is forgotten. -/
def State.readied (s : State) (w : WaveId) : State := s.modWave w (fun x => { x with stall := .ready })

/-- Whether the attempt of the wave that led from `s` to `u` issued: it waits for nothing now, holds at a record that it
raised, or has executed the BAR or EQP at which it waits (R235, R359). -/
def issued (s u : State) (w : WaveId) : Bool :=
  match s.wave? w, u.wave? w with
  | some y, some x =>
    x.stall == .ready || x.pending.isSome || (x.barIn && !y.barIn) || (x.arrived.isSome && y.arrived.isNone)
  | _, _ => true

/-- R189: whether a wave is ready: it would issue if it were picked. -/
def State.isReady (s : State) (w : WaveId) : Bool :=
  s.mayIssue w && (match fetched (fetchWave (s.readied w) w) with
    | .next u => issued (s.readied w) u w
    | _ => false)

/-- R189: the waves of the pool that were ready at the opportunity, in state `before`, and were not picked have been
passed over once more (log entry 129). -/
def passOver (before : State) (pool : List WaveId) (w : WaveId) (s : State) : State :=
  (pool.filter (fun v => v != w && before.isReady v)).foldl
    (fun s v => s.modWave v (fun x => { x with passed := x.passed + 1 })) s

/-- R189: the first wave in order that does not have to wait issues; one that has to wait notes its reason. -/
def tryPool (before : State) (pool : List WaveId) : List WaveId → State → Out
  | [], s => .next s
  | w :: t, s =>
    match fetched (fetchWave (s.readied w) w) with
    | .next u => if issued (s.readied w) u w then .next (passOver before pool w u) else tryPool before pool t u
    | o => o

/-- R190: the stall reason that a wave reports: nothing where it is retired or would issue, the reason that holds it before
its word is looked at, or the reason for which its word waits. -/
def State.reason (s : State) (w : WaveId) : Stall :=
  match ctx? s w with
  | none => .ready
  | some k =>
    if k.wv.retired then .ready
    else match blocked k s with
    | some r => r
    | none => match fetched (fetchWave (s.readied w) w) with
      | .next u => if issued (s.readied w) u w then .ready else ((u.wave? w).map (fun x => x.stall)).getD .ready
      | _ => .ready

/-- R366, R370: the sequencer of a gang in spatial form, none of whose waves issues, goes on with the decision or the
hand-over that is due; it acts when a wave of the gang is chosen to issue. -/
def State.sequencer (s : State) (w : WaveId) : Option State :=
  match s.gang? (gangOf w) with
  | some g => if g.form == 2 && g.due.isSome then some (s.tryDecide (gangOf w)) else none
  | none => none

/-- A wave is chosen to issue. -/
def issueWave (s : State) (w : WaveId) : Out :=
  match s.sequencer w with
  | some t => .next t
  | none => fetched (fetchWave s w)

/-- R190, R413: before a crew is saved, each of its waves has the stall reason that it reports now. -/
def noteReasons (i : Instr) (s : State) : State :=
  match i with
  | .crewSave c => { s with waves := Tab.map s.waves (fun w x => if w.crew == c then { x with stall := s.reason w } else x) }
  | _ => s

end Sys2Proof.Machine
end

