-- ==== Sys2Proof/Machine/Step.lean ====
section
/-! DEFINITION. One step of the machine: the agent in focus acts, or the agenda says who acts next. -/

namespace Sys2Proof.Machine

/-- The agenda's next entry; with an empty agenda nothing happens in this step. -/
def agendaStep (s : State) : Out :=
  match s.agenda with
  | [] => .next s
  | c :: t =>
    match c with
    | .issue w => issueWave { s with agenda := t } w
    | .schedule pool => tryPool { s with agenda := t } pool (s.order pool) { s with agenda := t }
    | .event i => exec i (noteReasons i { s with agenda := t })

/-- One step: what it changes in a backwater is stored in HBM (R2, R294). -/
def step (s : State) : Host.Outcome State Fault Refusal :=
  let s := { s with now := s.now + 1 }
  stored s (match s.focus with
    | .wave w => fetched (fetchWave { s with focus := .none } w)
    | .node f => fetched (fetchNode s f)
    | .none => agendaStep s)

/-- The very next step runs the instruction whose bits are `w` (log entry 16). -/
def State.withFetchWord (s : State) (nbits w : Nat) : State :=
  if nbits ≤ 64 then s.place (BitVec.ofNat 64 w) else s.place 0

end Sys2Proof.Machine
end

