-- ==== Sys2Proof/Safety.lean ====
section
/-! DEFINITION. The terms in which claims about the machine speak: when a wave may execute a word, how an instruction that
completes leaves the machine, what a change is confined to, and the invariant of every step. -/

namespace Sys2Proof.Machine

/-! ### The state before an instruction takes effect -/

/-- The state in which the instruction in focus takes effect. -/
def State.unfocused (s : State) : State := { s with focus := .none }

/-- The wave of `k` is in focus and may execute `i` now: it issues words (R59, R166, R369), the word is legal for it
(R58, R76), no register of the word waits for a result or a status (R84, R273, R278), no FENCE holds the word (R222), and
no register of the word is mapped to a queue (R244). -/
structure MayRun (i : Instr) (s : State) (k : Ctx) : Prop where
  focus : s.focus = .wave k.w
  ctx : ctx? s k.w = some k
  issues : k.issues = true
  legal : k.legal i = true
  results : recvPending k s (k.awaits i) = false
  statuses : fopPending k (k.awaits i) = false
  unfenced : (storeLike i && s.fenceHolds k.cluster k.w k.wv) = false
  inputs : mappedIn k.wv (dataUse k.wide i).1 false = []
  outputs : mappedIn k.wv (dataUse k.wide i).2 true = []

/-! ### How an instruction of a wave completes -/

/-- The instruction completes with the effect `E`: the wave goes on at the next word (`WordEnd` says what else). -/
def Completes (i : Instr) (s : State) (k : Ctx) (E : State) : Prop :=
  exec i s = .next (finish i k s.unfocused (.done E))

/-- The instruction completes with the effect `E`, which has moved the wave itself. -/
def Moves (i : Instr) (s : State) (k : Ctx) (E : State) : Prop :=
  exec i s = .next (finish i k s.unfocused (.moved E))

/-- Bytes of the undo log of a wave (R419). -/
def inUndo (c : Crew) (v : WaveId) (a : Nat) : Prop :=
  c.undoBase.toNat + 0x20000 * (8 * v.gang + v.wave) ≤ a ∧ a < c.undoBase.toNat + 0x20000 * (8 * v.gang + v.wave) + 0x20000

/-- What the end of an instruction makes of the wave `v` of the form, with `n` entries written to its undo log: the
issuing wave goes on `adv` bytes further, is ready again, and its next word is a new one (R189, R190, R423). -/
def endWave (k : Ctx) (now : Nat) (adv : Word) (v : WaveId) (x : Wave) (n : Nat) : Wave :=
  if v = k.w then
    { x with pc := x.pc + adv, stall := .ready, since := now, passed := 0, bpDone := false, popped := false, undo := n }
  else { x with undo := n }

/-- What the end of an instruction with effect `E` does besides that effect, and nothing else: the issuing wave goes on,
ISSUE and LANEOP count (R371), and in a debug crew the undo logs of the waves of the form are written (R420). -/
def WordLeaves (i : Instr) (k : Ctx) (s E t : State) (adv : Word) : Prop :=
  t = { E with waves := t.waves, gangs := t.gangs, mem := t.mem }
  ∧ (∀ v, v ∉ k.waves → t.wave? v = E.wave? v)
  ∧ (∀ v x, v ∈ k.waves → E.wave? v = some x →
      ∃ n, t.wave? v = some (endWave k E.now adv v x n) ∧ (k.c.debug = false → n = x.undo))
  ∧ (∀ g, t.gang? g = if g = k.gid then (E.gang? g).map (fun x =>
        { x with issue := sat64 (x.issue + k.slots i)
                 laneop := sat64 (x.laneop + (k.active s (predOf i).1 (predOf i).2).length) })
      else E.gang? g)
  ∧ (k.c.debug = false → t.mem = E.mem)
  ∧ ∀ a, (∀ v ∈ k.waves, ¬ inUndo k.c v a) → Memory.byte t.mem a = Memory.byte E.mem a

/-! ### How a node fires -/

/-- The firing of `k` is in focus and its frame goes on firing (R288, R307). -/
structure MayFire (s : State) (k : NCtx) : Prop where
  focus : s.focus = .node ⟨k.c, k.i, k.rd⟩
  ctx : nctx? s ⟨k.c, k.i, k.rd⟩ = some k
  going : k.fr.ending = false

/-- The node fires with the effect `E`: FIRE counts, and the frame and the place note the firing (R286, R292, R371). -/
def Fires (i : Instr) (s : State) (k : NCtx) (E : State) : Prop := exec i s = .next (k.fired E)

/-- The tokens that a firing sends to its targets, T0 before T1 (R288). -/
def NCtx.tokens (k : NCtx) (ts : List (Option Tgt)) (v : Dword) (err : Bool) : List Flit :=
  ts.filterMap (fun t => t.map (fun t =>
    .token { sender := k.sender, place := some k.i, paddock := k.p.paddock, cell := k.fr.cell, frame := k.fr.no
             blk := k.fr.blk, slot := t.slot.toNat, port := t.port, err := err, value := v, round := k.fr.round
             relayed := false }))

/-- The state with these flits under way too, last. -/
def NCtx.after (k : NCtx) (s : State) (fs : List Flit) : State :=
  if fs.isEmpty then s else s.modCrew k.c (fun x => { x with flight := x.flight ++ fs })

/-! ### What a change is confined to -/

/-- Nothing but waves differs, and of the waves only those of the form, each as `R` says. -/
def OnWaves (k : Ctx) (s t : State) (R : WaveId → Wave → Wave → Prop) : Prop :=
  t = { s with waves := t.waves } ∧ (∀ v, v ∉ k.waves → t.wave? v = s.wave? v)
    ∧ ∀ v x, v ∈ k.waves → s.wave? v = some x → ∃ y, t.wave? v = some y ∧ R v x y

/-- Nothing but waves differs, and of the waves only those of a gang, each as `R` says. -/
def OnGang (i : GangId) (s t : State) (R : WaveId → Wave → Wave → Prop) : Prop :=
  t = { s with waves := t.waves } ∧ (∀ v, v ∉ i.waves → t.wave? v = s.wave? v)
    ∧ ∀ v x, v ∈ i.waves → s.wave? v = some x → ∃ y, t.wave? v = some y ∧ R v x y

/-- Nothing but the issuing wave differs, and it becomes `y`. -/
def OnIssuer (k : Ctx) (s t : State) (y : Wave) : Prop := t = s.setWave k.w y

/-- Nothing but V registers differs. A container of type `ty` at D holds `val l` in each lane of `act`; every other
register of every lane is as it was. -/
def LanesAre (act : Word) (ty : BitVec 2) (D : Nat) (val : Nat → Nat) (x y : Wave) : Prop :=
  y = { x with v := y.v } ∧ ∀ r l, l < 32 → y.rdV r l =
    if act.getLsbD l && r == D then BitVec.ofNat 32 (val l)
    else if act.getLsbD l && ty == 1 && r == D + 1 then BitVec.ofNat 32 (val l / 2 ^ 32)
    else x.rdV r l

/-- As `LanesAre`, where a lane for which there is no value keeps what it held. -/
def LanesMayBe (act : Word) (ty : BitVec 2) (D : Nat) (val : Nat → Option Nat) (x y : Wave) : Prop :=
  y = { x with v := y.v } ∧ ∀ r l, l < 32 → y.rdV r l =
    match if act.getLsbD l then val l else none with
    | some a => if r == D then BitVec.ofNat 32 a else if ty == 1 && r == D + 1 then BitVec.ofNat 32 (a / 2 ^ 32)
      else x.rdV r l
    | none => x.rdV r l

/-- Nothing but M registers differs. Bit l of M[D] is `val l` for each lane of `act` that has one; M0 takes no write
(R58), and every other bit of every mask is as it was. -/
def MaskIs (act : Word) (D : Nat) (val : Nat → Option Bool) (x y : Wave) : Prop :=
  y = { x with m := y.m } ∧ ∀ r l, l < 32 → (y.rdM r).getLsbD l =
    if act.getLsbD l && r == D && r != 0 then (val l).getD ((x.rdM r).getLsbD l) else (x.rdM r).getLsbD l

/-- FCSR has gained the flags of the lanes of `act` and is otherwise as it was (R109, R110). -/
def FlagsJoin (act : Word) (fl : Nat → Fl) (x y : Wave) : Prop :=
  ∀ b, y.fcsr.getLsbD b = (x.fcsr.getLsbD b || (List.range 32).any (fun l => act.getLsbD l && (fl l).getLsbD b))

/-- As `LanesAre`, with flags: nothing but V registers and FCSR differs. -/
def LanesAreFl (act : Word) (ty : BitVec 2) (D : Nat) (val : Nat → Nat) (fl : Nat → Fl) (x y : Wave) : Prop :=
  LanesAre act ty D val x { y with fcsr := x.fcsr } ∧ FlagsJoin act fl x y

/-- The lanes that a predicated layout K word is active in. -/
def Ctx.on (k : Ctx) (f : KF) (v : WaveId) (x : Wave) : Word := k.act f.pm f.pn v x

/-! ### The invariant -/

/-- The objects of a kind are listed once each. -/
def namesOnce {κ α : Type} (t : List (κ × α)) : Prop := (t.map Prod.fst).Nodup

/-- Waves, gangs, crews and launches are listed once each. -/
def State.NamesOnce (s : State) : Prop :=
  namesOnce s.waves ∧ namesOnce s.gangs ∧ namesOnce s.crews ∧ namesOnce s.launches

/-- Both memories are in canonical form, with addresses strictly rising and no entry equal to what an unlisted address
reads as, and every object is listed once. -/
def State.Inv (s : State) : Prop := Memory.wf s.mem = true ∧ Memory.wf s.remote = true ∧ s.NamesOnce

end Sys2Proof.Machine
end

