-- ==== Sys2Proof/Certificates/Slice0/Obligations.lean ====
section
/-! DEFINITION. The statements about the model, for the provers. The tables at the head of each group name the
instructions that its statements speak of. -/

open Sys2Proof Sys2Proof.Machine

/-! ### How a word ends -/

/-- R84, R189, R371, R420: how every word that completes ends, whatever its effect. The model's choices here: UNDOBASE is a
physical address (log entry 20), and a uniform word in vector form takes one issue slot (log entry 96). -/
def Obligations.WordEnd : Prop :=
  ∀ (i : Instr) (k : Ctx) (s E : State), k.issues = true →
    WordLeaves i k s E (finish i k s (.done E)) 8 ∧ WordLeaves i k s E (finish i k s (.moved E)) 0

/-! ### Class 0 -/

namespace Sys2Proof.Claims

/-- The class 0 words with one result per part (R92 to R98), each with its function of part width and operands. -/
def intWord : Instr → Option (KF × (Nat → Nat → Nat → Nat → Nat))
  | .add f => some (f, iAdd)
  | .sub f => some (f, iSub)
  | .mullo f => some (f, iMullo)
  | .mulhi f => some (f, iMulhi)
  | .mulhn f => some (f, iMulhn)
  | .mad f => some (f, iMad)
  | .div f => some (f, iDiv)
  | .divn f => some (f, iDivn)
  | .rem f => some (f, iRem)
  | .remn f => some (f, iRemn)
  | .min f => some (f, iMin)
  | .max f => some (f, iMax)
  | .minn f => some (f, iMinn)
  | .maxn f => some (f, iMaxn)
  | .abs f => some (f, iAbs)
  | .neg f => some (f, iNeg)
  | .and f => some (f, iAnd)
  | .or f => some (f, iOr)
  | .xor f => some (f, iXor)
  | .andn f => some (f, iAndn)
  | .not f => some (f, iNot)
  | .shl f => some (f, iShl)
  | .shr f => some (f, iShr)
  | .sar f => some (f, iSar)
  | .rol f => some (f, iRol)
  | .clz f => some (f, iClz)
  | .popc f => some (f, iPopc)
  | .brev f => some (f, iBrev)
  | .bfx f => some (f, iBfx (f.c.getLsbD 0))
  | .mov f => some (f, fun _ _ b _ => b)
  | .adds f => some (f, iAdds (f.c.getLsbD 0))
  | .subs f => some (f, iSubs (f.c.getLsbD 0))
  | _ => none

/-- The operand of a lane in register A of type TY. -/
def aOf (f : KF) (x : Wave) (l : Nat) : Nat := x.rdT f.ty (KF.A f) l

/-- The exact sum or difference of R94 in a lane, with the carry in that its modifiers name. -/
def carrySum (f : KF) (sub : Bool) (k : Ctx) (x : Wave) (l : Nat) : Int :=
  let cin : Int := if f.c.getLsbD 3 && (x.rdM (fld f.c 2 0)).getLsbD l then 1 else 0
  if sub then (aOf f x l : Int) - opB f k.wv x l - cin else (aOf f x l : Int) + opB f k.wv x l + cin

def carryWord : Instr → Option (KF × Bool)
  | .addc f => some (f, false)
  | .subb f => some (f, true)
  | _ => none

end Sys2Proof.Claims

open Sys2Proof.Claims

/-- R92 to R97: the functions of the class 0 words, on the patterns of any part width. -/
def Sys2Proof.Claims.IntFunctions : Prop :=
  ∀ (w : Nat), 0 < w → ∀ (a b c : BitVec w),
    iAdd w a.toNat b.toNat c.toNat = (a + b).toNat
    ∧ iSub w a.toNat b.toNat c.toNat = (a - b).toNat
    ∧ iMullo w a.toNat b.toNat c.toNat = (a * b).toNat
    ∧ iMulhi w a.toNat b.toNat c.toNat = (BitVec.ofInt w (a.toInt * b.toInt / 2 ^ w)).toNat
    ∧ iMulhn w a.toNat b.toNat c.toNat = a.toNat * b.toNat / 2 ^ w
    ∧ iMad w a.toNat b.toNat c.toNat = (a * b + c).toNat
    ∧ iDiv w a.toNat b.toNat c.toNat = (if b = 0 then BitVec.allOnes w else a.sdiv b).toNat
    ∧ iDivn w a.toNat b.toNat c.toNat = (if b = 0 then BitVec.allOnes w else a / b).toNat
    ∧ iRem w a.toNat b.toNat c.toNat = (if b = 0 then a else a.srem b).toNat
    ∧ iRemn w a.toNat b.toNat c.toNat = (if b = 0 then a else a % b).toNat
    ∧ iMin w a.toNat b.toNat c.toNat = (if a.sle b then a else b).toNat
    ∧ iMax w a.toNat b.toNat c.toNat = (if a.sle b then b else a).toNat
    ∧ iMinn w a.toNat b.toNat c.toNat = (if a.ule b then a else b).toNat
    ∧ iMaxn w a.toNat b.toNat c.toNat = (if a.ule b then b else a).toNat
    ∧ iAbs w a.toNat b.toNat c.toNat = (if a.slt 0 then -a else a).toNat
    ∧ iNeg w a.toNat b.toNat c.toNat = (-a).toNat
    ∧ iAnd w a.toNat b.toNat c.toNat = (a &&& b).toNat
    ∧ iOr w a.toNat b.toNat c.toNat = (a ||| b).toNat
    ∧ iXor w a.toNat b.toNat c.toNat = (a ^^^ b).toNat
    ∧ iAndn w a.toNat b.toNat c.toNat = (a &&& ~~~b).toNat
    ∧ iNot w a.toNat b.toNat c.toNat = (~~~a).toNat
    ∧ iShl w a.toNat b.toNat c.toNat = (a <<< b.toNat).toNat
    ∧ iShr w a.toNat b.toNat c.toNat = (a >>> b.toNat).toNat
    ∧ iSar w a.toNat b.toNat c.toNat = (a.sshiftRight b.toNat).toNat
    ∧ iRol w a.toNat b.toNat c.toNat = (a.rotateLeft (b.toNat % w)).toNat
    ∧ iBrev w a.toNat b.toNat c.toNat = a.reverse.toNat

/-- R97, R98: the count and field functions, bit by bit. -/
def Sys2Proof.Claims.FieldBits : Prop :=
  ∀ (w : Nat), 0 < w → ∀ (a b old : Nat), a < 2 ^ w → old < 2 ^ w →
    (a = 0 → iClz w a b old = w)
    ∧ (a ≠ 0 → iClz w a b old < w ∧ 2 ^ (w - 1 - iClz w a b old) ≤ a ∧ a < 2 ^ (w - iClz w a b old))
    ∧ iPopc w a b old = ((List.range w).filter (fun i => a.testBit i)).length
    ∧ (∀ i, (iBfx false w a b old).testBit i
        = (i < fieldLen w (b % 256) (b / 256 % 256) && a.testBit (b % 256 + i)))
    ∧ (∀ i, i < w → (iBfx true w a b old).testBit i
        = if fieldLen w (b % 256) (b / 256 % 256) = 0 then false
          else a.testBit (b % 256 + min i (fieldLen w (b % 256) (b / 256 % 256) - 1)))
    ∧ (∀ i, (iBfi w a b old).testBit i
        = if b % 256 ≤ i ∧ i < b % 256 + fieldLen w (b % 256) (b / 256 % 256) then a.testBit (i - b % 256)
          else old.testBit i)

/-- R93: ADDS and SUBS clamp the exact sum or difference to the range of the part, signed, or unsigned with NAT. -/
def Sys2Proof.Claims.Saturation : Prop :=
  ∀ (w : Nat), 0 < w → ∀ (a b c : BitVec w),
    let clamp (x : Int) : Nat := (BitVec.ofInt w (max (-(2 ^ (w - 1) : Int)) (min (2 ^ (w - 1) - 1) x))).toNat
    iAdds true w a.toNat b.toNat c.toNat = min (a.toNat + b.toNat) (2 ^ w - 1)
    ∧ iSubs true w a.toNat b.toNat c.toNat = a.toNat - b.toNat
    ∧ iAdds false w a.toNat b.toNat c.toNat = clamp (a.toInt + b.toInt)
    ∧ iSubs false w a.toNat b.toNat c.toNat = clamp (a.toInt - b.toInt)

/-- R90: a packed word applies its function to each part alone. -/
def Sys2Proof.Claims.PartsApart : Prop :=
  ∀ (ty : BitVec 2) (F : Nat → Nat → Nat → Nat → Nat) (a b c p : Nat), p < partN ty →
    part (partW ty) p (perPart ty F a b c)
        = F (partW ty) (part (partW ty) p a) (part (partW ty) p b) (part (partW ty) p c) % 2 ^ partW ty
    ∧ perPart ty F a b c < 2 ^ (partW ty * partN ty)

/-- R90, R93, R97, R98: the count and field functions bit by bit, the clamps of ADDS and SUBS, and the parts of a packed
word apart. -/
def Obligations.FieldFunctions : Prop := Claims.FieldBits ∧ Claims.Saturation ∧ Claims.PartsApart


/-- R86 to R88, R90: ADD, SUB, MULLO, MULHI, MULHN, MAD, DIV, DIVN, REM, REMN, MIN, MAX, MINN, MAXN, ABS, NEG, AND, OR,
XOR, ANDN, NOT, SHL, SHR, SAR, ROL, CLZ, POPC, BREV, BFX, MOV, ADDS and SUBS complete: in the lane form each active lane's
container D holds the function of its operands, part by part; in the uniform form S[D] does. Nothing else changes. -/
def Sys2Proof.Claims.IntResults : Prop :=
  ∀ (i : Instr) (f : KF) (F : Nat → Nat → Nat → Nat → Nat), intWord i = some (f, F) →
    ∀ (s : State) (k : Ctx), MayRun i s k → ∃ E, Completes i s k E ∧
      if KF.uni f then
        OnIssuer k s.unfocused E (k.wv.wrS (KF.D f)
          (BitVec.ofNat 64 (F (partW f.ty) (sOperand k.wv f.ty (KF.A f)) (opB f k.wv k.wv 0) 0)))
      else OnWaves k s.unfocused E (fun v x y => LanesAre (k.on f v x) f.ty (KF.D f)
        (fun l => perPart f.ty F (aOf f x l) (opB f k.wv x l) (x.rdT f.ty f.c.toNat l)) x y)

/-- R94: ADDC and SUBB complete: each active lane's D holds the exact sum or difference, wrapped, and bit l of the mask
that the modifiers name tells whether it left the width. -/
def Sys2Proof.Claims.CarryResults : Prop :=
  ∀ (i : Instr) (f : KF) (sub : Bool), carryWord i = some (f, sub) →
    ∀ (s : State) (k : Ctx), MayRun i s k → ∃ E, Completes i s k E ∧
      OnWaves k s.unfocused E (fun v x y =>
        LanesAre (k.on f v x) f.ty (KF.D f) (fun l => wrap (partW f.ty) (carrySum f sub k x l)) x { y with m := x.m }
        ∧ MaskIs (k.on f v x) (fld f.c 6 4) (fun l => some (if sub then decide (carrySum f sub k x l < 0)
            else decide ((2 ^ partW f.ty : Nat) ≤ carrySum f sub k x l))) x { y with v := x.v })

/-- R92, R94, R95, R96: the functions of the integer words, and the words that apply them and the carry words complete
with their results. -/
def Obligations.IntWords : Prop := Claims.IntFunctions ∧ Claims.IntResults ∧ Claims.CarryResults


/-- R98 to R104: BFI, LEA, SEL, CMP, MOVI in its three forms, MOVSV and DOT4 complete, each with the result of its
rule. -/
def Obligations.FieldWords : Prop :=
  (∀ (f : KF) (s : State) (k : Ctx), MayRun (.bfi f) s k → ∃ E, Completes (.bfi f) s k E ∧
    if KF.uni f then
      OnIssuer k s.unfocused E (k.wv.wrS (KF.D f) (BitVec.ofNat 64 (iBfi (partW f.ty) (sOperand k.wv f.ty (KF.A f))
        (opB f k.wv k.wv 0) (sOperand k.wv f.ty (KF.D f)))))
    else OnWaves k s.unfocused E (fun v x y => LanesAre (k.on f v x) f.ty (KF.D f)
      (fun l => iBfi (partW f.ty) (aOf f x l) (opB f k.wv x l) (x.rdT f.ty (KF.D f) l)) x y))
  ∧ (∀ (f : KF) (s : State) (k : Ctx), MayRun (.lea f) s k → ∃ E, Completes (.lea f) s k E ∧
    if KF.uni f then
      OnIssuer k s.unfocused E (k.wv.wrS (KF.D f) (BitVec.ofInt 64 ((k.wv.rdS (KF.A f)).toNat
        + sgn (partW f.ty) (opB f k.wv k.wv 0) * 2 ^ fld f.c 2 0)))
    else OnWaves k s.unfocused E (fun v x y => LanesAre (k.on f v x) 1 (KF.D f)
      (fun l => (BitVec.ofInt 64 ((x.rdD (KF.A f) l).toNat
        + sgn (partW f.ty) (opB f k.wv x l) * 2 ^ fld f.c 2 0)).toNat) x y))
  ∧ (∀ (f : KF) (s : State) (k : Ctx), MayRun (.sel f) s k → ∃ E, Completes (.sel f) s k E ∧
    OnWaves k s.unfocused E (fun v x y => LanesAre (k.on f v x) f.ty (KF.D f)
      (fun l => if (x.rdM (fld f.c 2 0)).getLsbD l then aOf f x l else opB f k.wv x l) x y))
  ∧ (∀ (f : KF) (s : State) (k : Ctx), MayRun (.cmp f) s k → ∃ E, Completes (.cmp f) s k E ∧
    if KF.uni f then
      OnIssuer k s.unfocused E (k.wv.wrS (KF.D f)
        (if iCmp (fld f.c 3 0) (partW f.ty) (sOperand k.wv f.ty (KF.A f)) (opB f k.wv k.wv 0) then 1 else 0))
    else OnWaves k s.unfocused E (fun v x y => MaskIs (k.on f v x) (KF.D f)
      (fun l => some (iCmp (fld f.c 3 0) (partW f.ty) (aOf f x l) (opB f k.wv x l))) x y))
  ∧ (∀ (f : JF) (s : State) (k : Ctx), MayRun (.movi f) s k → ∃ E, Completes (.movi f) s k E ∧
    OnWaves k s.unfocused E (fun v x y => LanesAre (k.act f.pm f.pn v x) 0 f.d.toNat (fun _ => f.imm.toNat) x y))
  ∧ (∀ (f : JF) (s : State) (k : Ctx), MayRun (.moviHi f) s k → ∃ E, Completes (.moviHi f) s k E ∧
    OnWaves k s.unfocused E (fun v x y => LanesAre (k.act f.pm f.pn v x) 0 (f.d.toNat + 1) (fun _ => f.imm.toNat) x y))
  ∧ (∀ (f : JF) (s : State) (k : Ctx), MayRun (.moviPair f) s k → ∃ E, Completes (.moviPair f) s k E ∧
    OnWaves k s.unfocused E (fun v x y => LanesAre (k.act f.pm f.pn v x) 1 f.d.toNat
      (fun _ => (f.imm.signExtend 64).toNat) x y))
  ∧ (∀ (f : KF) (n : BitVec 8) (s : State) (k : Ctx), MayRun (.movsv f) s k → f.b = .v n →
    ∃ E, Completes (.movsv f) s k E ∧
    if KF.uni f then
      OnIssuer k s.unfocused E (k.wv.wrS (KF.D f) (BitVec.ofNat 64 (sysValue k n.toNat 0 % 2 ^ partW f.ty)))
    else OnWaves k s.unfocused E (fun v x y => LanesAre (k.on f v x) f.ty (KF.D f)
      (fun l => sysValue k n.toNat (k.elemOf v l) % 2 ^ partW f.ty) x y))
  ∧ (∀ (f : KF) (s : State) (k : Ctx), MayRun (.dot4 f) s k → ∃ E, Completes (.dot4 f) s k E ∧
    OnWaves k s.unfocused E (fun v x y => LanesAre (k.on f v x) 0 (KF.D f)
      (fun l => iDot4 (KF.xbit f 0) (KF.xbit f 1) (x.rdV (KF.A f) l).toNat (opB f k.wv x l)
        (x.rdV f.c.toNat l).toNat) x y))

/-- R100, R104: the comparison conditions and the four-byte dot product. -/
def Obligations.CompareAndDot : Prop :=
  (∀ (w : Nat) (a b : BitVec w), 0 < w →
    iCmp 0 w a.toNat b.toNat = (a == b) ∧ iCmp 1 w a.toNat b.toNat = (a != b)
    ∧ iCmp 2 w a.toNat b.toNat = a.slt b ∧ iCmp 3 w a.toNat b.toNat = a.sle b
    ∧ iCmp 4 w a.toNat b.toNat = b.slt a ∧ iCmp 5 w a.toNat b.toNat = b.sle a
    ∧ iCmp 6 w a.toNat b.toNat = a.ult b ∧ iCmp 7 w a.toNat b.toNat = a.ule b
    ∧ iCmp 8 w a.toNat b.toNat = b.ult a ∧ iCmp 9 w a.toNat b.toNat = b.ule a)
  ∧ ∀ (an bn : Bool) (a b c : BitVec 32),
    let x (u : Bool) (v : BitVec 8) : Int := if u then (v.toNat : Int) else v.toInt
    iDot4 an bn a.toNat b.toNat c.toNat = (BitVec.ofInt 32 (c.toInt
      + x an (a.extractLsb' 0 8) * x bn (b.extractLsb' 0 8) + x an (a.extractLsb' 8 8) * x bn (b.extractLsb' 8 8)
      + x an (a.extractLsb' 16 8) * x bn (b.extractLsb' 16 8)
      + x an (a.extractLsb' 24 8) * x bn (b.extractLsb' 24 8))).toNat

/-! ### Class 1 -/

namespace Sys2Proof.Claims

/-- A class 1 word on operands with their modifiers (R112), in the native format of its TY. -/
def native (f : KF) (G : Fmt → Mode → Nat → Nat → Nat × Fl) : Mode → Nat → Nat → Nat → Nat × Fl :=
  fun m a b _ => G (nat? f.ty) m (fA f a) (fB f b)

/-- The type that FCVTW reads: the other native type (R121). -/
def otherTy (f : KF) : BitVec 2 := if f.ty == 1 then 0 else 1

/-- The class 1 words with one rounded result per lane (R117 to R121): type of the result, type of A, and the function of
rounding mode and operands. -/
def fltWord : Instr → Option (KF × BitVec 2 × BitVec 2 × (Mode → Nat → Nat → Nat → Nat × Fl))
  | .fadd f => some (f, f.ty, f.ty, native f gAdd)
  | .fsub f => some (f, f.ty, f.ty, native f gSub)
  | .fmul f => some (f, f.ty, f.ty, native f gMul)
  | .fma f => some (f, f.ty, f.ty, fun m a b c =>
      gFma (nat? f.ty) m (fA f a) (fB f b) (applyMods (nat? f.ty) c (KF.xbit f 7) false))
  | .fmin f => some (f, f.ty, f.ty, native f (fun g _ a b => gMinMax g false a b))
  | .fmax f => some (f, f.ty, f.ty, native f (fun g _ a b => gMinMax g true a b))
  | .fdiv f => some (f, f.ty, f.ty, native f gDiv)
  | .fsqrt f => some (f, f.ty, f.ty, native f (fun g m a _ => gSqrt g m a))
  | .frcp f => some (f, f.ty, f.ty, native f (fun g _ a _ => gRcp g a))
  | .frsq f => some (f, f.ty, f.ty, native f (fun g _ a _ => gRsq g a))
  | .fex2 f => some (f, f.ty, f.ty, native f (fun g _ a _ => gEx2 g a))
  | .flg2 f => some (f, f.ty, f.ty, native f (fun g _ a _ => gLg2 g a))
  | .fclass f => some (f, 0, f.ty, fun _ a _ _ => (gClass (nat? f.ty) a, 0))
  | .fcvti f => some (f, itTy f, f.ty, fun m a _ _ => gCvti (nat? f.ty) m (fld f.c 1 0) (fA f a))
  | .icvtf f => some (f, f.ty, itTy f, fun m a _ _ => gIcvt (nat? f.ty) m (fld f.c 1 0) a)
  | .fcvtw f => some (f, f.ty, otherTy f, fun m a _ _ =>
      gCvtw (nat? (otherTy f)) (nat? f.ty) m (applyMods (nat? (otherTy f)) a (KF.xbit f 0) (KF.xbit f 2)))
  | .frnd f => some (f, f.ty, f.ty, native f (fun g m a _ => gRnd g m (f.c.getLsbD 0) a))
  | _ => none

/-- The 32-bit count of FSCL for a lane (R113, R115). -/
def fsclCount (f : KF) (k : Ctx) (x : Wave) (l : Nat) : Int :=
  match f.b with
  | .v r => (x.rdV r.toNat l).toInt
  | .s r => ((k.wv.rdS r.toNat).extractLsb' 0 32).toInt
  | .imm i => i.toInt

end Sys2Proof.Claims

/-- R109 to R121: FADD, FSUB, FMUL, FMA, FMIN, FMAX, FDIV, FSQRT, FRCP, FRSQ, FEX2, FLG2, FCLASS, FCVTI, ICVTF, FCVTW and
FRND complete, each lane under the mode of its own wave; flags join the FCSR of the wave that owns the lane. -/
def Sys2Proof.Claims.FloatResults : Prop :=
  ∀ (i : Instr) (f : KF) (dTy aTy : BitVec 2) (G : Mode → Nat → Nat → Nat → Nat × Fl),
    fltWord i = some (f, dTy, aTy, G) → ∀ (s : State) (k : Ctx), MayRun i s k → ∃ E, Completes i s k E ∧
      if KF.uni f then
        let r := G (fMode f k.wv) (sOperand k.wv aTy (KF.A f)) (opBf f k.wv k.wv 0) 0
        OnIssuer k s.unfocused E ((k.wv.wrS (KF.D f) (BitVec.ofNat 64 r.1)).orFlags r.2)
      else
        let r (x : Wave) (l : Nat) :=
          G (fMode f x) (x.rdT aTy (KF.A f) l) (opBf f k.wv x l) (x.rdT f.ty f.c.toNat l)
        OnWaves k s.unfocused E (fun v x y =>
          LanesAreFl (k.on f v x) dTy (KF.D f) (fun l => (r x l).1) (fun l => (r x l).2) x y)

/-- R119, R121: FCMP and FSCL complete. -/
def Sys2Proof.Claims.FloatCompareAndScale : Prop :=
  (∀ (f : KF) (s : State) (k : Ctx), MayRun (.fcmp f) s k → ∃ E, Completes (.fcmp f) s k E ∧
    if KF.uni f then
      let r := gCmp (nat? f.ty) (fld f.c 2 0) (fA f (sOperand k.wv f.ty (KF.A f))) (fB f (opBf f k.wv k.wv 0))
      OnIssuer k s.unfocused E ((k.wv.wrS (KF.D f) (if r.1 then 1 else 0)).orFlags r.2)
    else
      let r (x : Wave) (l : Nat) :=
        gCmp (nat? f.ty) (fld f.c 2 0) (fA f (x.rdT f.ty (KF.A f) l)) (fB f (opBf f k.wv x l))
      OnWaves k s.unfocused E (fun v x y =>
        MaskIs (k.on f v x) (KF.D f) (fun l => some (r x l).1) x { y with fcsr := x.fcsr }
        ∧ FlagsJoin (k.on f v x) (fun l => (r x l).2) x y))
  ∧ ∀ (f : KF) (s : State) (k : Ctx), MayRun (.fscl f) s k → ∃ E, Completes (.fscl f) s k E ∧
    if KF.uni f then
      let r := gScl (nat? f.ty) (fMode f k.wv) (fA f (sOperand k.wv f.ty (KF.A f))) (fsclCount f k k.wv 0)
      OnIssuer k s.unfocused E ((k.wv.wrS (KF.D f) (BitVec.ofNat 64 r.1)).orFlags r.2)
    else
      let r (x : Wave) (l : Nat) :=
        gScl (nat? f.ty) (fMode f x) (fA f (x.rdT f.ty (KF.A f) l)) (fsclCount f k x l)
      OnWaves k s.unfocused E (fun v x y =>
        LanesAreFl (k.on f v x) f.ty (KF.D f) (fun l => (r x l).1) (fun l => (r x l).2) x y)

/-- R107 to R121: the floating point words, the compares and the scale words complete with their results. -/
def Obligations.FloatWords : Prop := Claims.FloatResults ∧ Claims.FloatCompareAndScale


/-- R117, R119: NaN operands and the comparison of numbers. A signalling NaN raises NV, the result is the canonical NaN;
a quiet NaN makes FCMP unordered, with NV only for the ordering conditions; −0 equals +0. -/
def Obligations.FloatSpecials : Prop :=
  ∀ (ty : BitVec 2) (m : Mode) (a b : Nat),
    let g := nat? ty
    ((decodeV g a).isNan = true ∨ (decodeV g b).isNan = true →
      (gAdd g m a b).1 = g.canonNan.getD 0 ∧ (gMul g m a b).1 = g.canonNan.getD 0 ∧ (gDiv g m a b).1 = g.canonNan.getD 0
      ∧ (gAdd g m a b).2 = (if (decodeV g a).isSig || (decodeV g b).isSig then fNV else 0)
      ∧ (gCmp g 0 a b).1 = false ∧ (gCmp g 1 a b).1 = true ∧ (gCmp g 2 a b).1 = false ∧ (gCmp g 6 a b).1 = true
      ∧ (gCmp g 2 a b).2 = fNV)
    ∧ ((decodeV g a).isNan = false ∧ (decodeV g b).isNan = false →
      (gCmp g 7 a b).1 = true ∧ (gCmp g 0 a b).2 = 0
      ∧ ((gCmp g 2 a b).1 = true ↔ (gCmp g 5 a b).1 = false) ∧ ((gCmp g 4 a b).1 = true ↔ (gCmp g 3 a b).1 = false)
      ∧ ((gCmp g 0 a b).1 = true ↔ (gCmp g 3 a b).1 = true ∧ (gCmp g 5 a b).1 = true))
    ∧ (gCmp g 0 (g.signBit) 0).1 = true

/-! ### Class 2 -/

namespace Sys2Proof.Claims

/-- CVT, SCLQ and SCLD with their conversion (R142, R143). -/
def cvtWord : Instr → Option (KF × Conv)
  | .cvt f => some (f, .cvt)
  | .sclq f => some (f, .sclq)
  | .scld f => some (f, .scld)
  | _ => none

/-- R135: no cause of a format fault holds for the entries, parts and registers of a conversion. -/
def cvtFits (f : KF) (k : Ctx) : Prop :=
  fmtInvalid k.c (KF.fs f) = none ∧ fmtInvalid k.c (KF.fd f) = none
  ∧ partLimit k.c (KF.fs f) (KF.ps f) = none ∧ partLimit k.c (KF.fd f) (KF.pd f) = none
  ∧ pairLimit k (KF.fs f) f.a = none ∧ pairLimit k (KF.fd f) f.d = none

end Sys2Proof.Claims

/-- R131, R135, R142, R143: CVT, SCLQ and SCLD complete when no format cause holds and no active element overflows under
OVF 2. Part PD of D holds the converted part PS of A, and the other parts of D stay. -/
def Obligations.ConvertWords : Prop :=
  ∀ (i : Instr) (f : KF) (c : Conv), cvtWord i = some (f, c) → ∀ (s : State) (k : Ctx), MayRun i s k →
    cvtFits f k →
    (∀ v x l, v ∈ k.waves → s.wave? v = some x → l < 32 → (k.on f v x).getLsbD l = true →
      (convLane c f k x l).fault = false) →
    ∃ E, Completes i s k E ∧
      let wd := k.c.fmtEntry (KF.fd f).toNat
      OnWaves k s.unfocused E (fun v x y => LanesAreFl (k.on f v x) (contTy wd) (KF.D f)
        (fun l => putPart wd (KF.pd f) (convLane c f k x l).pat (x.rdT (contTy wd) (KF.D f) l))
        (fun l => (convLane c f k x l).fl) x y)

/-- R128 to R130, R139 to R141, R144, R145: FMTW writes an entry of the crew's table when no matrix work names it and the
entry is legal or not valid; FMTR reads an entry, FMTQ a property of a valid one; BSCL gives each group its scale and NDOT
each lane its sum. -/
def Obligations.FormatWords : Prop :=
  (∀ (f : KF) (s : State) (k : Ctx), MayRun (.fmtw f) s k → k.c.matrixNames (KF.entry f) = false →
    (((k.wv.rdS (KF.A f)).extractLsb' 0 32).getLsbD 31 = false ∨ fmtLegal ((k.wv.rdS (KF.A f)).extractLsb' 0 32) = true) →
    Completes (.fmtw f) s k (s.unfocused.setCrew k.w.crew { k.c with
      fmt := SMap.set k.c.fmt 0 (KF.entry f) ((k.wv.rdS (KF.A f)).extractLsb' 0 32)
      fmtw := k.c.fmtw.filter (fun x => !(x.gang == k.w.gang && x.wave == k.w.wave)) }))
  ∧ (∀ (f : KF) (s : State) (k : Ctx), MayRun (.fmtr f) s k → ∃ E, Completes (.fmtr f) s k E ∧
    OnIssuer k s.unfocused E (k.wv.wrS (KF.D f) ((k.c.fmtEntry (KF.entry f)).setWidth 64)))
  ∧ (∀ (f : KF) (s : State) (k : Ctx), MayRun (.fmtq f) s k → (k.c.fmtEntry (KF.entry f)).getLsbD 31 = true →
    ∃ E, Completes (.fmtq f) s k E ∧
    OnIssuer k s.unfocused E (k.wv.wrS (KF.D f)
      (BitVec.ofNat 64 (fmtProp (k.c.fmtEntry (KF.entry f)) (fld f.x 2 0)))))
  ∧ (∀ (f : KF) (s : State) (k : Ctx), MayRun (.bscl f) s k → fmtInvalid k.c (KF.fs f) = none →
    fmtInvalid k.c (KF.fd f) = none → partLimit k.c (KF.fs f) (KF.ps f) = none → pairLimit k (KF.fs f) f.a = none →
    ∃ E, Completes (.bscl f) s k E ∧ OnWaves k s.unfocused E (fun v x y =>
      LanesAre (k.on f v x) 0 (KF.D f) (fun _ => bsclWave f k (k.on f v x) x) x y))
  ∧ (∀ (f : KF) (s : State) (k : Ctx), MayRun (.ndot f) s k → fmtInvalid k.c (KF.fs f) = none →
    narrowOk (k.c.fmtEntry (KF.fs f).toNat) = true →
    ∃ E, Completes (.ndot f) s k E ∧
      let r (x : Wave) (l : Nat) := ndotVal (k.c.fmtEntry (KF.fs f).toNat) (fmtMode f x) (x.rdV (KF.A f) l).toNat
        (opB f k.wv x l) (x.rdV f.c.toNat l).toNat
      OnWaves k s.unfocused E (fun v x y =>
        LanesAreFl (k.on f v x) 0 (KF.D f) (fun l => (r x l).1) (fun l => (r x l).2) x y))

/-! ### Class 3 -/

namespace Sys2Proof.Claims

/-- The position of element e in its span, and the span's first element and size (R150, R154). -/
def posIn (f : KF) (k : Ctx) (e : Nat) : Nat := e - (k.span (KF.grp f) e).1
def baseOf (f : KF) (k : Ctx) (e : Nat) : Nat := (k.span (KF.grp f) e).1
def spanSize (f : KF) (k : Ctx) (e : Nat) : Nat := (k.span (KF.grp f) e).2

/-- R156: an index is taken modulo 32 in threaded form and with GRP, else modulo 256. -/
def indexIn (f : KF) (k : Ctx) (n : Nat) : Nat := if k.vec && !KF.grp f then n % 256 else n % 32

/-- The element of the span that holds position q, if q lies in the span; else `d`. -/
def fromPos (f : KF) (k : Ctx) (s : State) (e q d : Nat) : Nat :=
  if q < spanSize f k e then k.rdE s f.ty (KF.A f) (baseOf f k e + q) else d

/-- The elements of the span of e, ascending. -/
def spanOf (f : KF) (k : Ctx) (e : Nat) : List Nat := (List.range (spanSize f k e)).map (fun p => baseOf f k e + p)

/-- The words that move values between the elements of a span (R156 to R159), each with what element e receives, if
anything. -/
def moveWord : Instr → Option (KF × (Ctx → State → Nat → Option Nat))
  | .shfl f => some (f, fun k s e => some (fromPos f k s e (indexIn f k (laneCount f k s e)) 0))
  | .bcast f => some (f, fun k s e => some (fromPos f k s e (indexIn f k (laneCount f k s e)) 0))
  | .shflup f => some (f, fun k s e => some (if laneCount f k s e ≤ posIn f k e
      then k.rdE s f.ty (KF.A f) (baseOf f k e + (posIn f k e - laneCount f k s e)) else k.rdE s f.ty (KF.A f) e))
  | .shfldn f => some (f, fun k s e =>
      some (fromPos f k s e (posIn f k e + laneCount f k s e) (k.rdE s f.ty (KF.A f) e)))
  | .shflx f => some (f, fun k s e =>
      some (fromPos f k s e (posIn f k e ^^^ (laneCount f k s e % 256)) (k.rdE s f.ty (KF.A f) e)))
  | .slide f => some (f, fun k s e =>
      let j := posIn f k e + laneCount f k s 0
      some (if j < spanSize f k e then k.rdE s f.ty (KF.A f) (baseOf f k e + j)
        else if j < 2 * spanSize f k e then k.rdE s f.ty f.c.toNat (baseOf f k e + (j - spanSize f k e)) else 0))
  | .cmpr f => some (f, fun k s e =>
      (((spanOf f k e).filter (k.rdMe s (fld f.c 2 0)))[posIn f k e]?).map (k.rdE s f.ty (KF.A f)))
  | .expd f => some (f, fun k s e => some (k.rdE s f.ty (KF.A f) (baseOf f k e
      + ((spanOf f k e).filter (fun x => x < e && k.isAct s f.pm f.pn x)).length)))
  | .iota f => some (f, fun k s e =>
      some ((opB f k.wv (k.ofElem s e) (e % 32) + posIn f k e) % 2 ^ partW f.ty))
  | _ => none

/-- The words that write one mask bit per element (R160 to R162). -/
def maskWord : Instr → Option (KF × (Ctx → State → Nat → Option Bool))
  | .vote f => some (f, fun k s e =>
      let es := (spanOf f k e).filter (k.isAct s f.pm f.pn)
      some (match fld f.c 1 0 with
        | 0 => es.all (k.rdMe s (KF.A f)) || es.length == 1
        | 1 => es.any (k.rdMe s (KF.A f))
        | _ => es.all (k.rdMe s (KF.A f)) || !es.any (k.rdMe s (KF.A f))))
  | .msk f => some (f, fun k s e =>
      let b := match f.b with | .v r => k.rdMe s r.toNat e | _ => k.rdMe s 0 e
      let a := k.rdMe s (KF.A f) e
      some (match fld f.c 2 0 with
        | 0 => a && b
        | 1 => a || b
        | 2 => xor a b
        | 3 => a && !b
        | 4 => a || !b
        | 5 => !a
        | _ => a))
  | .mset f => some (f, fun k _ e =>
      if e / 64 = fld f.c 1 0 then some ((opS f k.wv).getLsbD (e % 64)) else none)
  | _ => none

/-- The words that write one uniform result of class 3 (R156, R160, R162, R164). -/
def lanesToS : Instr → Option (KF × (Ctx → State → Dword))
  | .v2s f => some (f, fun k s =>
      let e := if k.vec then laneCount f k s 0 % 256 else laneCount f k s 0 % 32
      BitVec.ofNat 64 (if k.vec && k.g.vl ≤ e then 0 else k.rdE s f.ty (KF.A f) e))
  | .mpop f => some (f, fun k s =>
      BitVec.ofNat 64 ((k.active s f.pm f.pn).filter (k.rdMe s (KF.A f))).length)
  | .mff f => some (f, fun k s =>
      match (k.active s f.pm f.pn).find? (k.rdMe s (KF.A f)) with
      | some e => BitVec.ofNat 64 e
      | none => 0xFFFFFFFFFFFFFFFF)
  | .getvl f => some (f, fun k _ => BitVec.ofNat 64 k.g.vl)
  | _ => none

/-- What RED and SCAN give the elements: element, value and flags (R163). -/
def redOuts (scan : Bool) (f : KF) (k : Ctx) (s : State) : List (Nat × Nat × Fl) :=
  (k.spans (KF.grp f)).flatMap (fun sp =>
    let w := redWalk f k s (scan && KF.xbit f 8) sp
    w.outs.map (fun o => (o.1, if scan then o.2.1 else w.acc, o.2.2)))

/-- The integer operations of RED and SCAN on elements of `w` bits: the identity and the step (R163). -/
def intRop (w : Nat) : Nat → Option (Nat × (Nat → Nat → Nat))
  | 0 => some (0, fun a b => (a + b) % 2 ^ w)
  | 1 => some (2 ^ (w - 1) - 1, fun a b => if (BitVec.ofNat w b).slt (BitVec.ofNat w a) then b else a)
  | 2 => some (2 ^ (w - 1), fun a b => if (BitVec.ofNat w a).slt (BitVec.ofNat w b) then b else a)
  | 3 => some (2 ^ w - 1, fun a b => min a b)
  | 4 => some (0, fun a b => max a b)
  | 5 => some (2 ^ w - 1, fun a b => a &&& b)
  | 6 => some (0, fun a b => a ||| b)
  | 7 => some (0, fun a b => a ^^^ b)
  | _ => none

def redWord : Instr → Option (KF × Bool)
  | .red f => some (f, false)
  | .scan f => some (f, true)
  | _ => none

end Sys2Proof.Claims

/-- R148 to R159: SHFL, BCAST, SHFLUP, SHFLDN, SHFLX, SLIDE, CMPR, EXPD and IOTA complete, reading every source before
any result is written. -/
def Obligations.MoveWords : Prop :=
  ∀ (i : Instr) (f : KF) (g : Ctx → State → Nat → Option Nat), moveWord i = some (f, g) →
    ∀ (s : State) (k : Ctx), MayRun i s k → ∃ E, Completes i s k E ∧
      OnWaves k s.unfocused E (fun v x y => LanesMayBe (k.on f v x) f.ty (KF.D f) (fun l => g k s (k.elemOf v l)) x y)

/-- R156, R160 to R162, R164: VOTE, MSK and MSET write mask bits; BALLOT, V2S, MPOP, MFF and GETVL a uniform register; SETVL
the vector length, at most 256, and a uniform register. That V2S with VL 0 gives 0 is the model's reading (log entry 128). -/
def Obligations.MaskWords : Prop :=
  (∀ (i : Instr) (f : KF) (g : Ctx → State → Nat → Option Bool), maskWord i = some (f, g) →
    ∀ (s : State) (k : Ctx), MayRun i s k → ∃ E, Completes i s k E ∧
      OnWaves k s.unfocused E (fun v x y => MaskIs (k.on f v x) (KF.D f) (fun l => g k s (k.elemOf v l)) x y))
  ∧ (∀ (i : Instr) (f : KF) (g : Ctx → State → Dword), lanesToS i = some (f, g) →
    ∀ (s : State) (k : Ctx), MayRun i s k → ∃ E, Completes i s k E ∧
      OnIssuer k s.unfocused E (k.wv.wrS (KF.D f) (g k s)))
  ∧ (∀ (f : KF) (s : State) (k : Ctx), MayRun (.ballot f) s k → ∃ E y, Completes (.ballot f) s k E ∧
      OnIssuer k s.unfocused E (k.wv.wrS (KF.D f) y)
      ∧ ∀ i, y.getLsbD i = (decide (i < if k.vec then 64 else 32)
          && k.rdMe s (KF.A f) (64 * fld f.c 1 0 + i) && k.isAct s f.pm f.pn (64 * fld f.c 1 0 + i)))
  ∧ ∀ (f : KF) (s : State) (k : Ctx), MayRun (.setvl f) s k →
      Completes (.setvl f) s k ((s.unfocused.setGang k.gid { k.g with vl := min (opS f k.wv).toNat 256 }).setWave k.w
        (k.wv.wrS (KF.D f) (BitVec.ofNat 64 (min (opS f k.wv).toNat 256))))

/-- R163: RED and SCAN complete: RED gives every active element the accumulator of its span, SCAN its own partial value;
the flags of a step join the FCSR of the wave that owns the element it adds. -/
def Obligations.ReduceWords : Prop :=
  ∀ (i : Instr) (f : KF) (scan : Bool), redWord i = some (f, scan) →
    ∀ (s : State) (k : Ctx), MayRun i s k → ∃ E, Completes i s k E ∧
      let r (v : WaveId) (l : Nat) := ((redOuts scan f k s).find? (fun o => o.1 == k.elemOf v l)).map Prod.snd
      OnWaves k s.unfocused E (fun v x y =>
        LanesMayBe (k.on f v x) f.ty (KF.D f) (fun l => (r v l).map Prod.fst) x { y with fcsr := x.fcsr }
        ∧ FlagsJoin (k.on f v x) (fun l => ((r v l).map Prod.snd).getD 0) x y)

/-- R163: the integer reductions (ADD, MIN, MAX, MINN, MAXN, AND, OR, XOR) combine the values of the active elements of the
span in order, from the identity of the operation; an inclusive scan gives each element the result up to it, an exclusive
scan the result before it, which at the first is the identity. ADD gives the sum, wrapped. -/
def Obligations.ReduceValues : Prop :=
  ∀ (f : KF) (k : Ctx) (s : State) (sp : Nat × Nat),
    let es := (spanElems sp).filter (k.isAct s f.pm f.pn)
    let vs := es.map (fun e => k.rdE s f.ty (KF.A f) e)
    let w (ex : Bool) := redWalk f k s ex sp
    (w false).outs.map Prod.fst = es ∧ (w true).outs.map Prod.fst = es
    ∧ (fld f.x 3 0 = 0 → (∀ v ∈ vs, v < 2 ^ partW f.ty) → (w false).acc = vs.sum % 2 ^ partW f.ty)
    ∧ ∀ (I : Nat) (op : Nat → Nat → Nat), intRop (partW f.ty) (fld f.x 3 0) = some (I, op) →
      (∀ v ∈ vs, v < 2 ^ partW f.ty) →
      (w false).acc = vs.foldl op I
      ∧ (w false).outs.map (fun o => o.2.1) = (List.range vs.length).map (fun n => (vs.take (n + 1)).foldl op I)
      ∧ (w true).outs.map (fun o => o.2.1) = (List.range vs.length).map (fun n => (vs.take n).foldl op I)

/-! ### Class 4 -/

namespace Sys2Proof.Claims

/-- The wave `y` keeps within the core's stacks: nothing spills (R170, R171). -/
def fitsCore (y : Wave) : Prop :=
  y.dstack.length ≤ 32 ∧ y.rstack.length ≤ 16 ∧ y.dsp = 0 ∧ y.rsp = 0

/-- The lanes of a path that take a branch, for BRM and BRS (R174). -/
def takenLanes : Instr → Option (BF × (Ctx → Word → Prop))
  | .brm f => some (f, fun k t => t = k.act f.pm f.pn k.w k.wv)
  | .brs f => some (f, fun k t => ∀ l, t.getLsbD l =
      (decide (l < 32) && (k.act f.pm f.pn k.w k.wv).getLsbD l && condMet f.cond (k.wv.rdV f.a.toNat l).toInt))
  | _ => none

/-- BR and LOOP: the register value they test, and the wave after their own effect (R174, R179). -/
def wholeBranch : Instr → Option (BF × (Ctx → Bool) × (Ctx → Wave))
  | .br f => some (f, fun k => f.cond == 0 || condMet f.cond (k.wv.rdS f.a.toNat).toInt, fun k => k.wv)
  | .loop f => some (f, fun k => condMet f.cond (k.wv.rdS f.a.toNat - 1).toInt,
      fun k => k.wv.wrS f.a.toNat (k.wv.rdS f.a.toNat - 1))
  | _ => none

/-- The target of a branch lies in the version (R56). -/
def targetIn (f : BF) (k : Ctx) : Prop := BF.reach f k.wv = true ∧ k.inside (BF.target f k.wv).toNat = true

/-- The next word lies in the version (R56). -/
def nextIn (k : Ctx) : Prop := k.inside (k.wv.pc + 8).toNat = true ∧ k.inside (k.wv.pc.toNat + 8) = true

/-- The calls whose target one operand gives for the whole path (R176): CALL and the uniform CALLX. -/
def callWord : Instr → Option (Ctx → Word × Bool)
  | .call f => some (fun k => (BF.target f k.wv, BF.reach f k.wv))
  | .callxS f => some (fun k => ((opS f k.wv).extractLsb' 0 32, true))
  | _ => none

/-- `m` are the lanes of `pend` whose target in V[reg] is the least one, `t` (R177). -/
def leastGroup (x : Wave) (reg : Nat) (pend m t : Word) : Prop :=
  m ≠ 0 ∧ (∀ l, m.getLsbD l = (decide (l < 32) && pend.getLsbD l && x.rdV reg l == t))
  ∧ ∀ l, l < 32 → pend.getLsbD l = true → t.toNat ≤ (x.rdV reg l).toNat

/-- The wave in the call of the group `m` of the CALLX entry `e` that lies on `below` (R177). -/
def inGroup (x : Wave) (e : DEntry) (below : List DEntry) (m t : Word) : Wave :=
  { x with pc := t, mask := m, dstack := { e with pend := e.pend &&& ~~~m } :: below
           rstack := ⟨e.pc, below.length + 1, true⟩ :: x.rstack }

/-- Every active lane of a CALLX or JMPX of V has a word of the version as its target, and so has the path that goes on
(R56, R177). -/
def targetsIn (f : KF) (k : Ctx) : Prop :=
  (∀ l, l < 32 → (k.on f k.w k.wv).getLsbD l = true → k.inside (k.wv.rdV (KF.A f) l).toNat = true)
  ∧ (k.on f k.w k.wv = 0 ∨ k.wv.mask &&& ~~~(k.on f k.w k.wv) ≠ 0 → nextIn k)

/-- The groups of a JMPX of V: the distinct targets of its active lanes, ascending, each with its lanes (R177). -/
def groupsOf (f : KF) (k : Ctx) (gs : List (Word × Word)) : Prop :=
  gs.Pairwise (fun a b => a.1.toNat < b.1.toNat)
  ∧ (∀ g ∈ gs, g.2 ≠ 0 ∧ ∀ l, g.2.getLsbD l
      = (decide (l < 32) && (k.on f k.w k.wv).getLsbD l && k.wv.rdV (KF.A f) l == g.1))
  ∧ ∀ l, l < 32 → (k.on f k.w k.wv).getLsbD l = true → ∃ g ∈ gs, g.1 = k.wv.rdV (KF.A f) l

/-- R167: `y` is the wave `x`, whose path has no lane left, once it has resumed from the stack `st`: the entries without
lanes are dropped, and the return stack is cut to the least depth of those popped. -/
def resumes (x : Wave) (st : List DEntry) (y : Wave) : Prop :=
  ((∀ d ∈ st, d.mask = 0) → y = x.retire)
  ∧ ∀ (dead : List DEntry) (e : DEntry) (below : List DEntry), st = dead ++ e :: below → (∀ d ∈ dead, d.mask = 0) →
    e.mask ≠ 0 →
    let depth := (dead ++ [e]).foldl (fun n d => min n d.rdepth) x.rstack.length
    let z : Wave := { x with mask := e.mask, dstack := below, rstack := x.rstack.drop (x.rstack.length - depth) }
    (e.kind = .path ∨ (e.kind = .callx ∧ e.pend = 0) → y = { z with pc := e.pc })
    ∧ (e.kind = .reconv → y = { z with pc := e.pc + 8 })
    ∧ (e.kind = .callx → ∀ m t, leastGroup x e.reg e.pend m t → y = inGroup z e below m t)

end Sys2Proof.Claims

/-- R61, R167, R174, R179: BR and LOOP in threaded form. Not taken, the path goes on at the next word. Taken, all its lanes
go to the target; a backward transfer rotates the paths of the region. In vector form the stream goes to the target or
on. -/
def Sys2Proof.Claims.WholeBranches : Prop :=
  ∀ (i : Instr) (f : BF) (c : Ctx → Bool) (x : Ctx → Wave), wholeBranch i = some (f, c, x) →
    ∀ (s : State) (k : Ctx), MayRun i s k →
      (c k = true → targetIn f k → ∀ y : Wave, y = (if !k.vec && decide ((BF.target f k.wv).toNat ≤ k.wv.pc.toNat)
          then ({ x k with pc := BF.target f k.wv } : Wave).rotate else { x k with pc := BF.target f k.wv }) →
        k.inside y.pc.toNat = true → Moves i s k (s.unfocused.respill k.c k.w y))
      ∧ (c k = false → nextIn k →
        Moves i s k (s.unfocused.respill k.c k.w { x k with pc := k.wv.pc + 8 }))

/-- R61, R166, R167, R174: BRM and BRS. With no lane taken the path goes on; with all taken it goes to the target; else
the lanes that are not taken go on and a PATH entry of the taken lanes is pushed. -/
def Sys2Proof.Claims.LaneBranches : Prop :=
  ∀ (i : Instr) (f : BF) (p : Ctx → Word → Prop), takenLanes i = some (f, p) →
    ∀ (s : State) (k : Ctx) (t : Word), MayRun i s k → p k t →
      (t = 0 → nextIn k → Moves i s k (s.unfocused.respill k.c k.w { k.wv with pc := k.wv.pc + 8 }))
      ∧ (t ≠ 0 → k.wv.mask &&& ~~~t = 0 → targetIn f k → ∀ y : Wave,
        y = (if (BF.target f k.wv).toNat ≤ k.wv.pc.toNat
          then ({ k.wv with pc := BF.target f k.wv } : Wave).rotate else { k.wv with pc := BF.target f k.wv }) →
        k.inside y.pc.toNat = true → Moves i s k (s.unfocused.respill k.c k.w y))
      ∧ (t ≠ 0 → k.wv.mask &&& ~~~t ≠ 0 → targetIn f k → nextIn k → k.wv.dstack.length < 256 →
        Moves i s k (s.unfocused.respill k.c k.w { k.wv with
          pc := k.wv.pc + 8
          mask := k.wv.mask &&& ~~~t
          dstack := ⟨.path, 0, t, k.wv.rstack.length, BF.target f k.wv, 0⟩ :: k.wv.dstack }))

/-- R167, R174, R179: the branches of a whole wave and those of its lanes. -/
def Obligations.BranchWords : Prop := Claims.WholeBranches ∧ Claims.LaneBranches


/-- R167, R175: RCV opens a region of the current lanes. JOIN at the region's word follows its topmost PATH entry, and
closes the region when there is none. -/
def Obligations.RegionWords : Prop :=
  (∀ (f : BF) (s : State) (k : Ctx), MayRun (.rcv f) s k → nextIn k → k.wv.dstack.length < 256 →
    Moves (.rcv f) s k (s.unfocused.respill k.c k.w { k.wv with
      pc := k.wv.pc + 8
      dstack := ⟨.reconv, 0, k.wv.mask, k.wv.rstack.length, BF.target f k.wv, 0⟩ :: k.wv.dstack }))
  ∧ ∀ (f : KF) (s : State) (k : Ctx) (top : List DEntry) (r : DEntry) (below : List DEntry),
    MayRun (.join f) s k → k.wv.dstack = top ++ r :: below → (∀ e ∈ top, e.kind ≠ .reconv) → r.kind = .reconv →
    r.pc = k.wv.pc → r.rdepth = k.wv.rstack.length →
    ((∀ e ∈ top, e.kind ≠ .path) → nextIn k →
      Moves (.join f) s k (s.unfocused.respill k.c k.w
        { k.wv with pc := k.wv.pc + 8, mask := r.mask, dstack := top ++ below }))
    ∧ (∀ (a : List DEntry) (p : DEntry) (b : List DEntry), top = a ++ p :: b → (∀ e ∈ a, e.kind ≠ .path) →
      p.kind = .path → k.inside p.pc.toNat = true →
      Moves (.join f) s k (s.unfocused.respill k.c k.w
        { k.wv with pc := p.pc, mask := p.mask, dstack := a ++ b ++ r :: below }))

/-- R167, R168, R171, R176, R177, R179: CALL and CALLX of S push the return address and go to their target; RET returns to
it when the divergence stack is as deep as at the call, and from a group of CALLX it goes on with the group of the next
target, or with the lanes that the CALLX entry holds; JMPX of S goes to its target; CALLX of V calls the group of its least
target, and JMPX of V jumps with that of its least one, each target's lanes on a path of their own. A jump backward of the
whole path rotates. -/
def Sys2Proof.Claims.CallsAndReturns : Prop :=
  (∀ (i : Instr) (g : Ctx → Word × Bool), callWord i = some g → ∀ (s : State) (k : Ctx), MayRun i s k →
    (g k).2 = true → k.inside (g k).1.toNat = true → k.wv.rstack.length < 1024 →
    Moves i s k (s.unfocused.respill k.c k.w { k.wv with
      pc := (g k).1, rstack := ⟨k.wv.pc + 8, k.wv.dstack.length, false⟩ :: k.wv.rstack }))
  ∧ (∀ (f : KF) (s : State) (k : Ctx) (r : REntry) (rs : List REntry), MayRun (.ret f) s k →
    k.wv.rstack = r :: rs → r.depth = k.wv.dstack.length → r.group = false → k.inside r.pc.toNat = true →
    Moves (.ret f) s k (s.unfocused.respill k.c k.w { k.wv with pc := r.pc, rstack := rs }))
  ∧ (∀ (f : KF) (s : State) (k : Ctx) (r : REntry) (rs : List REntry) (e : DEntry) (below : List DEntry),
    MayRun (.ret f) s k → k.wv.rstack = r :: rs → r.depth = k.wv.dstack.length → r.group = true →
    k.wv.dstack = e :: below →
    let x : Wave := { k.wv with rstack := rs }
    ∀ y : Wave, (∀ m t, leastGroup x e.reg e.pend m t → y = inGroup x e below m t) →
      (e.pend = 0 → e.mask ≠ 0 → y = { x with pc := e.pc, mask := e.mask, dstack := below }) →
      (e.pend = 0 → e.mask = 0 → resumes { x with dstack := below } below y) →
      y.retired = true ∨ k.inside y.pc.toNat = true → Moves (.ret f) s k (s.unfocused.respill k.c k.w y))
  ∧ (∀ (f : KF) (s : State) (k : Ctx) (t : Word), MayRun (.jmpxS f) s k → t = (opS f k.wv).extractLsb' 0 32 →
    k.inside t.toNat = true → ∀ y : Wave, y = (if !k.vec && decide (t.toNat ≤ k.wv.pc.toNat)
      then ({ k.wv with pc := t } : Wave).rotate else { k.wv with pc := t }) → k.inside y.pc.toNat = true →
    Moves (.jmpxS f) s k (s.unfocused.respill k.c k.w y))
  ∧ (∀ (f : KF) (s : State) (k : Ctx), MayRun (.callxV f) s k → targetsIn f k →
    let g := k.on f k.w k.wv
    (g = 0 → Moves (.callxV f) s k (s.unfocused.respill k.c k.w { k.wv with pc := k.wv.pc + 8 }))
    ∧ ∀ m t, leastGroup k.wv (KF.A f) g m t → k.wv.dstack.length < 256 → k.wv.rstack.length < 1024 →
      Moves (.callxV f) s k (s.unfocused.respill k.c k.w
        (inGroup k.wv ⟨.callx, g, k.wv.mask, k.wv.rstack.length, k.wv.pc + 8, KF.A f⟩ k.wv.dstack m t)))
  ∧ (∀ (f : KF) (s : State) (k : Ctx) (gs : List (Word × Word)), MayRun (.jmpxV f) s k → targetsIn f k → groupsOf f k gs →
    let rest := k.wv.mask &&& ~~~(k.on f k.w k.wv)
    let path (t m : Word) : DEntry := ⟨.path, 0, m, k.wv.rstack.length, t, 0⟩
    (gs = [] → Moves (.jmpxV f) s k (s.unfocused.respill k.c k.w { k.wv with pc := k.wv.pc + 8 }))
    ∧ ∀ t m more, gs = (t, m) :: more →
      let st := more.map (fun g => path g.1 g.2) ++ (if rest = 0 then [] else [path (k.wv.pc + 8) rest]) ++ k.wv.dstack
      let x : Wave := { k.wv with pc := t, mask := m, dstack := st }
      st.length ≤ 256 → ∀ y : Wave, y = (if t.toNat ≤ k.wv.pc.toNat ∧ rest = 0 ∧ more = [] then x.rotate else x) →
        k.inside y.pc.toNat = true → Moves (.jmpxV f) s k (s.unfocused.respill k.c k.w y))

/-- R170, R171: within the core's stacks nothing is spilled, and respilling is only the move of the wave. -/
def Sys2Proof.Claims.StacksInCore : Prop :=
  ∀ (s : State) (c : Crew) (w : WaveId) (y : Wave), fitsCore y → s.respill c w y = s.setWave w y

/-- R170, R171, R176, R177, R179: calls and returns, and the stacks in the core. -/
def Obligations.CallWords : Prop := Claims.CallsAndReturns ∧ Claims.StacksInCore


/-- R180, R181: NOP has no effect; YIELD moves on and rotates the paths of a threaded wave; PREFI at most brings a line of
the version in; IFENCE drops the instruction cache once the stores of the form are performed at DEVICE scope. -/
def Obligations.FlowHints : Prop :=
  (∀ (f : KF) (s : State) (k : Ctx), MayRun (.nop f) s k → Completes (.nop f) s k s.unfocused)
  ∧ (∀ (f : KF) (s : State) (k : Ctx), MayRun (.yield f) s k →
    Moves (.yield f) s k (s.unfocused.respill k.c k.w
      (if k.vec then { k.wv with pc := k.wv.pc + 8 } else ({ k.wv with pc := k.wv.pc + 8 } : Wave).rotate)))
  ∧ (∀ (f : BF) (s : State) (k : Ctx), MayRun (.prefi f) s k →
    Completes (.prefi f) s k (if BF.reach f k.wv = true ∧ k.inside (BF.target f k.wv).toNat = true
      then (s.unfocused.fetchLine k.cluster k.asid (k.codeVa (BF.target f k.wv).toNat / 128)).1 else s.unfocused))
  ∧ (∀ (f : KF) (s : State) (k : Ctx), MayRun (.ifence f) s k →
    (∀ p ∈ (s.cluster k.cluster).stores, p.wave ∈ k.waves → p.loc.rmt = true) →
    Completes (.ifence f) s k
      (s.unfocused.setCluster k.cluster { s.cluster k.cluster with icache := [] }))

/-! ### Class 5 -/

namespace Sys2Proof.Claims

/-- How a class 5 word that accesses memory lane by lane goes about it: what it does first, whether it writes and how it
uses L1, its effective addresses, what it needs beside its addresses, one lane's access, and what it does last. -/
structure Access where
  first : Ctx → State → State := fun _ s => s
  how : MemHow
  ea : Ctx → Wave → Nat → Nat → Nat
  needs : Ctx → State → Prop := fun _ _ => True
  lane : Ctx → State → LaneAcc → At → State
  last : Ctx → State → State := fun _ s => s

/-- The lane-by-lane accesses (R217 to R221, R224, R225). -/
def memWord : Instr → Option (MF × Access)
  | .ld f => some (f, { how := ⟨false, useLoad, ldUse f⟩, ea := fun k x l _ => laneEa f f.off.toInt k.wv x l
                        lane := loadLane f (ldUse f) })
  | .st f => some (f, { how := ⟨true, useStore, .past⟩, ea := fun k x l _ => laneEa f f.off.toInt k.wv x l
                        lane := storeLane f })
  | .lda f =>
    let c : L1Use := if MF.scope f = 0 then .thru else .past
    some (f, { first := fun k s => s.acquire k.cluster (MF.scope f), how := ⟨false, useLoad, c⟩
               ea := fun k x l _ => laneEa f f.off.toInt k.wv x l
               needs := fun _ _ => (!f.ix && f.b.getLsbD 0) = false, lane := loadLane f c })
  | .stl f => some (f, { how := ⟨true, useStore, .past⟩, ea := fun k x l _ => laneEa f f.off.toInt k.wv x l
                         needs := fun k s => s.releaseWaits k.cluster k.w (MF.scope f) = false, lane := storeLane f
                         last := fun k s => (s.stlStores k (MF.scope f)).released k.cluster })
  | .vlds f => some (f, { how := ⟨false, useLoad, .thru⟩, ea := fun k _ _ e => strideEa f k.wv e, lane := loadLane f .thru })
  | .vsts f => some (f, { how := ⟨true, useStore, .past⟩, ea := fun k _ _ e => strideEa f k.wv e, lane := storeLane f })
  | .atom f => some (f, { how := ⟨true, useStore, .past⟩, ea := fun k x l _ => laneEa f (atomOff f) k.wv x l
                          lane := atomLane f })
  | .cas f => some (f, { how := ⟨true, useCas, .past⟩, ea := fun k x l _ => laneEa f f.off.toInt k.wv x l
                         lane := casLane f })
  | .ldf f => some (f, { how := ⟨false, useLoad, .thru⟩, ea := fun k x l _ => laneEa f f.off.toInt k.wv x l
                         needs := fun k _ => memFmtErr f k = none, lane := ldfLane f })
  | .stf f => some (f, { how := ⟨true, useStore, .past⟩, ea := fun k x l _ => laneEa f f.off.toInt k.wv x l
                         needs := fun k s => memFmtErr f k = none ∧
                           ∀ a ∈ liveLanes f k s (fun x l _ => laneEa f f.off.toInt k.wv x l),
                             ∀ x, s.wave? a.v = some x → (stfVal f k x a.l).fault = false
                         lane := stfLane f })
  | _ => none

/-- The lanes of an access, and where each goes, when all go somewhere. -/
def Access.lanes (a : Access) (f : MF) (k : Ctx) (s : State) : List LaneAcc :=
  liveLanes f k (a.first k s) (a.ea k)
def Access.places (a : Access) (f : MF) (k : Ctx) (s : State) : State × List (LaneAcc × Except Nat At) :=
  resolveAll f k a.how.use a.how.l1 (a.lanes f k s) (a.first k s)

/-- The uniform loads: LD and LDA with US (R218, R219). -/
def uniWord : Instr → Option (MF × L1Use × (Ctx → State → State))
  | .ldUniform f => some (f, ldUse f, fun _ s => s)
  | .lda f => if !f.ix && f.b.getLsbD 0 then
      some (f, if MF.scope f = 0 then .thru else .past, fun k s => s.acquire k.cluster (MF.scope f)) else none
  | _ => none

end Sys2Proof.Claims

/-- R213, R214, R217: LD, ST, LDA, STL, VLDS, VSTS, ATOM, CAS, LDF and STF complete when no live lane meets a cause. The
lanes are performed one by one, in ascending order unless lanes of a threaded store overlap, and MEMTX counts. -/
def Sys2Proof.Claims.AccessLanes : Prop :=
  ∀ (i : Instr) (f : MF) (a : Access), memWord i = some (f, a) → ∀ (s : State) (k : Ctx), MayRun i s k →
    a.needs k s.unfocused →
    (∀ x ∈ a.lanes f k s.unfocused, laneCause f k a.how.write x = none) →
    ∀ ok : List (LaneAcc × At), (a.places f k s.unfocused).2 = ok.map (fun p => (p.1, .ok p.2)) →
    ∃ (order : List (LaneAcc × At)) (n : Nat), order.Perm ok
      ∧ ((a.how.write && !k.vec && anyOverlap (MF.sz f) (ok.map Prod.fst)) = false →
          order = ok ∧ n = (a.places f k s.unfocused).1.free)
      ∧ Completes i s k (a.last k (k.each
          ((order.foldl (fun s p => a.lane k s p.1 p.2) { (a.places f k s.unfocused).1 with free := n }).modGang k.gid
            (fun g => { g with memtx := sat64 (g.memtx + sectors ok) }))
          (fun _ x => { x with rpm := 0xFFFFFFFF, timedOut := false, remoteWait := false })))

/-- R204, R206, R209: finding where the lanes of an access go changes no register, no crew and no gang, and of memory
only the entries of the page tables that map the lanes, where A and D are set. -/
def Sys2Proof.Claims.ResolveFrame : Prop :=
  ∀ (f : MF) (k : Ctx) (u : Use) (c : L1Use) (l : List LaneAcc) (s : State) (ok : List (LaneAcc × At)),
    (resolveAll f k u c l s).2 = ok.map (fun p => (p.1, .ok p.2)) →
    let t := (resolveAll f k u c l s).1
    t = { s with mem := t.mem, tiles := t.tiles, clusters := t.clusters, free := t.free }
    ∧ (∀ cl, (t.cluster cl).stores = (s.cluster cl).stores)
    ∧ ∀ b, (∀ p ∈ ok, ∀ l h (e : Tlb), p.2 = .glb l h e → b < e.home ∨ e.home + 8 ≤ b) →
        Memory.byte t.mem b = Memory.byte s.mem b

/-- R204, R206, R209, R213, R214, R217: how the lanes of an access resolve, and what resolving leaves. -/
def Obligations.AccessWords : Prop := Claims.AccessLanes ∧ Claims.ResolveFrame


/-- R198, R203, R218, R224: one lane of a load. The container of the lane holds the bytes at the place, extended as the
word says; memory, crew memory and the pending stores are as they were. -/
def Sys2Proof.Claims.LoadLanes : Prop :=
  ∀ (f : MF) (c : L1Use) (k : Ctx) (s : State) (a : LaneAcc) (x : Crew), s.crew? k.w.crew = some x →
    (∀ o, loadLane f c k s a (.crw o)
      = s.modWave a.v (fun y => y.wrData f.size f.d.toNat a.l (loadVal f (Memory.le x.crw o (MF.sz f)))))
    ∧ (∀ o, o < 0x1000 → loadLane f c k s a (.karg o)
      = s.modWave a.v (fun y => y.wrData f.size f.d.toNat a.l (loadVal f (Memory.le k.l.args o (MF.sz f)))))
    ∧ (∀ (l : Loc) (t : Tlb), let u := loadLane f c k s a (.glb l false t);
      u = { s with waves := u.waves, clusters := u.clusters, windows := u.windows, free := u.free }
      ∧ (∀ v, u.wave? v = if v = a.v then (s.wave? v).map (fun y =>
          y.wrData f.size f.d.toNat a.l (loadVal f (leNat (s.seen k.cluster l (MF.sz f))))) else s.wave? v)
      ∧ ∀ cl, (u.cluster cl).stores = (s.cluster cl).stores)

/-- R198, R205, R218: one lane of a store. In crew memory the bytes are there at once; to GLB and PRV the store is pending
in the cluster until its home channel performs it, and memory is as it was. Outside the stored bytes nothing changes. -/
def Sys2Proof.Claims.StoreLanes : Prop :=
  ∀ (f : MF) (k : Ctx) (s : State) (a : LaneAcc) (x : Wave), s.wave? a.v = some x → k.c.debug = false →
    let v := x.rdData f.size f.d.toNat a.l
    (∀ o, storeLane f k s a (.crw o)
      = s.modCrew k.w.crew (fun y => { y with crw := Memory.setLe y.crw o (MF.sz f) v }))
    ∧ (∀ (l : Loc) (h : Bool) (t : Tlb), let u := storeLane f k s a (.glb l h t);
      u = { s with clusters := u.clusters, windows := u.windows, free := u.free }
      ∧ (∀ cl, cl ≠ k.cluster → u.cluster cl = s.cluster cl)
      ∧ (MF.sz f ≤ 8 → (u.cluster k.cluster).stores = (s.cluster k.cluster).stores
          ++ [⟨a.v, s.now, l, leBytes (MF.sz f) v, BitVec.ofNat 64 a.va, t, false, 0⟩])
      ∧ (MF.sz f = 16 → (u.cluster k.cluster).stores = (s.cluster k.cluster).stores
          ++ [⟨a.v, s.now, l, leBytes 8 v, BitVec.ofNat 64 a.va, t, false, 0⟩,
            ⟨a.v, s.now, { l with pa := l.pa + 8 }, leBytes 8 (v / 2 ^ 64), BitVec.ofNat 64 (a.va + 8), t, false, 0⟩]))
    ∧ ∀ (m : Memory) (o n : Nat), (n < o ∨ o + MF.sz f ≤ n) →
        Memory.byte (Memory.setLe m o (MF.sz f) v) n = Memory.byte m n

/-- R2, R14, R210: a write at a home channel of this module. Reads under the same key see the bytes written and, at every
other address, what they saw; a line that the write does not touch reads as it did under every key. -/
def Sys2Proof.Claims.HomeWrites : Prop :=
  ∀ (s : State) (l : Loc) (bs : List Byte), l.rmt = false → l.pa + bs.length ≤ hbmBytes →
    let t := s.homeWrite l bs
    t = { s with mem := t.mem, lineKey := t.lineKey }
    ∧ (∀ a, t.homeByte { l with pa := a } = if l.pa ≤ a then (bs[a - l.pa]?).getD (s.homeByte { l with pa := a })
        else s.homeByte { l with pa := a })
    ∧ ∀ m : Loc, m.rmt = false → (m.pa / 128 < l.pa / 128 ∨ (l.pa + bs.length + 127) / 128 ≤ m.pa / 128) →
        t.homeByte m = s.homeByte m

/-- R198, R203, R205, R218, R224: what a load writes and what a store keeps, lane by lane; and what a write at a home
channel leaves (R210). -/
def Obligations.LoadsAndStores : Prop := Claims.LoadLanes ∧ Claims.StoreLanes ∧ Claims.HomeWrites


/-- R220, R221: one lane of ATOM or CAS. The lane receives the old value; where there is a new one, crew memory or the home
channel, of this module or another, is written with it. Pending stores of the cluster to the location are performed before,
so that none is left, and the old value is what the home channel holds then (that a store is pending until its home channel
performs it is the model's choice, log entry 14). -/
def Sys2Proof.Claims.AtomicsAnywhere : Prop :=
  ∀ (f : MF) (k : Ctx) (s : State) (a : LaneAcc) (x : Wave), s.wave? a.v = some x → k.c.debug = false →
    let n := MF.sz f
    let w := 8 * n
    let b := x.rdData f.size f.b.toNat a.l % 2 ^ w
    let d := x.rdData f.size f.d.toNat a.l % 2 ^ w
    (∀ (o : Nat) (y : Crew), s.crew? k.w.crew = some y →
      let old := Memory.le y.crw o n
      let put (v : Nat) : State := s.modCrew k.w.crew (fun y => { y with crw := Memory.setLe y.crw o n v })
      let got (t : State) : State := t.modWave a.v (fun z => z.wrData f.size f.d.toNat a.l old)
      atomLane f k s a (.crw o) = got (put (atomNew (fld f.off 11 8) w old b))
      ∧ casLane f k s a (.crw o) = got (if old = b then put d else s))
    ∧ ∀ (l : Loc) (h : Bool) (t : Tlb), pteA t.pte = true → pteD t.pte = true →
      let q := (s.countRemote k.cluster l).performRange k.cluster l n
      let old := leNat (q.homeRead l n)
      let put (v : Nat) : State := q.homeWrite l (leBytes n v)
      let is (u m : State) : Prop := u.wave? a.v = some (x.wrData f.size f.d.toNat a.l old)
        ∧ u = { m with waves := u.waves, clusters := u.clusters }
        ∧ (u.cluster k.cluster).stores = (q.cluster k.cluster).stores
        ∧ (l.rmt = false → (u.cluster k.cluster).line? (l.pa / 128) = none)
      (∀ p ∈ (q.cluster k.cluster).stores, p ∈ (s.cluster k.cluster).stores ∧ p.touches l n = false)
      ∧ is (atomLane f k s a (.glb l h t)) (put (atomNew (fld f.off 11 8) w old b))
      ∧ is (casLane f k s a (.glb l h t)) (if old = b then put d else q)

/-- R220, R221: one lane of ATOM or CAS on a location of this module with no pending store of its cluster: the lane
receives the old value, and the home channel is written with the new one when there is one. Nothing else of memory
changes. -/
def Sys2Proof.Claims.AtomicsAtHome : Prop :=
  ∀ (f : MF) (k : Ctx) (s : State) (a : LaneAcc) (x : Wave) (l : Loc) (h : Bool) (t : Tlb), l.rmt = false →
    s.wave? a.v = some x → k.c.debug = false → (∀ p ∈ (s.cluster k.cluster).stores, p.touches l (MF.sz f) = false) →
    pteA t.pte = true → pteD t.pte = true →
    let w := 8 * MF.sz f
    let old := leNat (s.homeRead l (MF.sz f))
    let b := x.rdData f.size f.b.toNat a.l % 2 ^ w
    let d := x.rdData f.size f.d.toNat a.l % 2 ^ w
    let put (v : Nat) : State := s.homeWrite l (leBytes (MF.sz f) v)
    (let u := atomLane f k s a (.glb l h t);
      let m := put (atomNew (fld f.off 11 8) w old b)
      u.wave? a.v = some (x.wrData f.size f.d.toNat a.l old)
      ∧ u = { m with waves := u.waves, clusters := u.clusters })
    ∧ (let u := casLane f k s a (.glb l h t);
      let m := if old = b then put d else s
      u.wave? a.v = some (x.wrData f.size f.d.toNat a.l old)
      ∧ u = { m with waves := u.waves, clusters := u.clusters })

/-- R220, R221: the lanes of ATOM and CAS, wherever they access. -/
def Obligations.AtomicLanes : Prop := Claims.AtomicsAnywhere ∧ Claims.AtomicsAtHome


/-- R218, R219: a uniform LD or LDA completes: S[D] holds the bytes at the place, extended as the word says. -/
def Obligations.UniformLoads : Prop :=
  ∀ (i : Instr) (f : MF) (c : L1Use) (g : Ctx → State → State), uniWord i = some (f, c, g) →
    ∀ (s : State) (k : Ctx) (p : At), MayRun i s k →
    let ea := wrap 64 ((k.wv.rdS f.a.toNat).toNat + f.off.toInt)
    let e := uniElem k
    let a : LaneAcc := ⟨e, k.w, e % 32, ea, laneVa f k e ea⟩
    let r := resolveLane f k useLoad c (g k s.unfocused) a
    laneCause f k false a = none → r.2 = .ok p →
    let v := r.1.readAt k (MF.sz f) c p
    Completes i s k ((v.1.modGang k.gid (fun y => { y with memtx := sat64 (y.memtx + sectors [(a, p)]) })).modWave k.w
      (fun x => { x.wrS f.d.toNat (BitVec.ofNat 64 (if f.sx then wrap 64 (sgn (8 * MF.sz f) v.2) else v.2)) with
        timedOut := false, remoteWait := false }))

/-- R204, R205, R222: FENCE.ACQ drops L1 at DEVICE or DOMAIN scope, and at CREW scope where a node of the cluster has
acquired or stored past L1. FENCE.SC completes when no store that it waits
for is pending, and is an acquire too. FENCE.REL and FENCE.AR complete at once and hold the wave's later stores, and no
load, until the stores issued before are performed at the scope; AR is an acquire too. A release covers the cluster's
stores for the crew: that every agent of the crew sees them from then on is the model's choice of when (log entry 97). -/
def Sys2Proof.Claims.Fences : Prop :=
  (∀ (f : MF) (s : State) (k : Ctx), MayRun (.fence f) s k →
    let c := k.cluster
    let u := s.unfocused
    let acq (t : State) : State := if MF.scope f = 0 ∧ (s.cluster c).l1Past = false then t
      else t.setCluster c { t.cluster c with l1 := [], l1Past := false }
    let rel : State := u.setCluster c { s.cluster c with stores := (s.cluster c).stores.map (fun p => { p with crew := true }) }
    (fld f.off 1 0 = 0 → Completes (.fence f) s k (acq u))
    ∧ (fld f.off 1 0 = 3 → s.releaseWaits c k.w (MF.scope f) = false → Completes (.fence f) s k (acq rel))
    ∧ (fld f.off 1 0 = 1 ∨ fld f.off 1 0 = 2 → ∃ h : List Hold,
      Completes (.fence f) s k ((fun t => if fld f.off 1 0 = 1 then t else acq t)
        (rel.setWave k.w { k.wv with holds := ⟨MF.scope f, s.now + 1⟩ :: h }))
      ∧ ∀ y ∈ k.wv.holds, y ∈ h ∨ ∀ p ∈ (s.cluster c).stores, p.born < y.before →
          (s.cluster c).owes k.w y.scope p = false))
  ∧ (∀ (s : State) (cl : Nat) (w : WaveId) (x : Wave) (h : Hold) (p : PStore), h ∈ x.holds → p ∈ (s.cluster cl).stores →
    p.born < h.before → (s.cluster cl).owes w h.scope p = true → s.fenceHolds cl w x = true)

/-- R204, R223, R226: PREF and CMAINT always complete and write no register. PREF.L1 brings the line of a lane that reaches
the home channel into L1, with the bytes that the cluster sees there, where the page and the line's sectors allow; another
PREF brings none. CMAINT.INV drops the line of each lane that L1 may hold, and no other; CLEAN and FLUSH drop none. Which
lanes reach a place, and that lines are looked up as a load does, is what `findQuiet` gives. -/
def Sys2Proof.Claims.CacheHints : Prop :=
  (∀ (f : MF) (s : State) (k : Ctx), MayRun (.pref f) s k → ∃ E, Completes (.pref f) s k E ∧ E.waves = s.waves
    ∧ E.crews = s.crews ∧ E.mem = s.mem ∧ E.remote = s.remote ∧
    let r := findQuiet f k usePref .thru (quietLanes f k s.unfocused) s.unfocused
    (f.ord ≠ 0 → E.clusters = r.1.clusters)
    ∧ ∀ pre a l t, f.ord = 0 → r.2 = pre ++ [(a, .glb l false t)] → t.l1able = true →
      r.1.eccHbm (l.pa / 128 * 128) 128 = false →
      (E.cluster k.cluster).line? (l.pa / 128)
        = some (BitVec.ofNat 1024 (leNat (r.1.seen k.cluster { l with pa := l.pa / 128 * 128 } 128))))
  ∧ (∀ (f : MF) (s : State) (k : Ctx), MayRun (.cmaint f) s k → ∃ E, Completes (.cmaint f) s k E ∧ E.waves = s.waves
    ∧ E.crews = s.crews ∧ E.gangs = s.gangs ∧ E.remote = s.remote ∧
    let r := findQuiet f k useLoad .past (quietLanes f k s.unfocused) s.unfocused
    let drops (n : Nat) : Prop := f.ord = 0 ∧ ∃ p ∈ r.2, ∃ l h t, p.2 = .glb l h t ∧ l.rmt = false ∧ l.pa / 128 = n
    E = { r.1 with clusters := E.clusters }
    ∧ (∀ n, drops n → (E.cluster k.cluster).line? n = none)
    ∧ (∀ n, ¬drops n → (E.cluster k.cluster).line? n = (r.1.cluster k.cluster).line? n)
    ∧ ∀ cl, cl ≠ k.cluster → E.cluster cl = r.1.cluster cl)

/-- FENCE, PREF and CMAINT. -/
def Obligations.FenceAndHints : Prop := Claims.Fences ∧ Claims.CacheHints


/-! ### Class 6 -/

namespace Sys2Proof.Claims

/-- CPY and CPYT with what they ask of the copy engine (R249, R250). -/
def copyWord : Instr → Option (Ctx → CopyArgs)
  | .cpy f => some (cpyArgs f)
  | .cpyt f => some (cpytArgs f)
  | _ => none

/-- R232: no test at issue fails. -/
def copyLegal (crw : Nat) (c : CopyArgs) : Prop :=
  c.neg = false ∧ c.dst % 16 = 0 ∧ c.src.toNat % 16 = 0 ∧ c.rowlen % 16 = 0 ∧ (c.two = true → c.pitch.toNat % 16 = 0)
  ∧ (∀ o, c.obj = some o → o + 16 ≤ crw)
  ∧ (c.rowlen * c.rows ≠ 0 → c.dst + c.rowlen * c.rows ≤ crw ∧ ∀ r, r < c.rows →
      rowSrc c.src c.pitch r < 2 ^ 55 ∧ (rowSrc c.src c.pitch r + c.rowlen - 1) % 2 ^ 64 < 2 ^ 55)

/-- BARA and BARX with the bytes they expect (R251). -/
def arriveWord : Instr → Option (KF × (Ctx → Int))
  | .bara f => some (f, fun _ => 0)
  | .barx f => some (f, fun k => ((opS f k.wv).extractLsb' 0 32).toInt)
  | _ => none

/-- QBIND.IN and QBIND.OUT (R244). -/
def mapWord : Instr → Option (KF × Bool)
  | .qbindIn f => some (f, false)
  | .qbindOut f => some (f, true)
  | _ => none

/-- The entries that QPUSH makes of the waves of the form, one per 32 elements (R252). -/
def pushed (f : KF) (k : Ctx) (s : State) : List QEntry :=
  (List.range (qGroups k)).filterMap (fun i => (s.wave? (groupWave k i)).map (fun y =>
    ⟨laneData y (KF.A f) (k.on f (groupWave k i) y), k.on f (groupWave k i) y⟩))

end Sys2Proof.Claims

/-- R229, R230, R249, R250: CPY and CPYT issue a copy into the open batch, or one that counts into a barrier object, when
no test fails and the engine has room; a copy of no bytes has no effect. CPYB closes the open batch under the next number,
and CPYW goes on once the batches up to its operand are complete. -/
def Obligations.CopyWords : Prop :=
  (∀ (i : Instr) (g : Ctx → CopyArgs), copyWord i = some g → ∀ (s : State) (k : Ctx), MayRun i s k →
    copyLegal k.kn.crw (g k) → (s.cluster k.cluster).copies.length < 256 →
    ((g k).rowlen * (g k).rows = 0 → Completes i s k s.unfocused)
    ∧ ((g k).rowlen * (g k).rows ≠ 0 → ∃ x : Copy,
      Completes i s k (s.unfocused.setCluster k.cluster
        { s.cluster k.cluster with copies := (s.cluster k.cluster).copies ++ [x] })
      ∧ x.wave = k.w ∧ x.dst = (g k).dst ∧ x.src = (g k).src ∧ x.rowlen = (g k).rowlen ∧ x.rows = (g k).rows
      ∧ x.pitch = (g k).pitch ∧ x.todo = List.range ((g k).rowlen * (g k).rows / 16) ∧ x.batch = 0
      ∧ x.obj = (g k).obj ∧ x.parked = none))
  ∧ (∀ (f : KF) (s : State) (k : Ctx), MayRun (.cpyb f) s k →
    (k.wv.batchWait = none → (openBatches s k.cluster k.w).length < 16) →
    (∀ b, k.wv.batchWait = some b → b ∉ openBatches s k.cluster k.w) →
    Completes (.cpyb f) s k ((s.unfocused.setCluster k.cluster { s.cluster k.cluster with
      copies := (s.cluster k.cluster).copies.map (fun c =>
        if c.wave == k.w && c.batch == 0 && c.obj.isNone then { c with batch := k.wv.lastBatch + 1 } else c) }).setWave k.w
      { k.wv.wrS (KF.D f) (BitVec.ofNat 64 (k.wv.lastBatch + 1)) with
        lastBatch := k.wv.lastBatch + 1, batchWait := none }))
  ∧ ∀ (f : KF) (s : State) (k : Ctx), MayRun (.cpyw f) s k →
    (∀ c ∈ (s.cluster k.cluster).copies, c.wave = k.w → c.batch ≠ 0 → cpywArg f k < c.batch) →
    Completes (.cpyw f) s k s.unfocused

/-- R235, R238: BAR completes for a wave that the phase has let go, and for the last wave of the crew to arrive, which lets
the others go; an arrival is a release at CREW scope. -/
def Sys2Proof.Claims.CrewBarrier : Prop :=
  ∀ (f : KF) (s : State) (k : Ctx), MayRun (.bar f) s k →
    (k.wv.barOut = true → Completes (.bar f) s k (k.each s.unfocused (fun _ x => { x with barOut := false })))
    ∧ (k.wv.barIn = false → k.wv.barOut = false → k.wv.retired = false → (k.vec = true ∨ k.wv.dstack = []) →
      s.releaseWaits k.cluster k.w 0 = false → s.NamesOnce →
      (∀ v x, (v, x) ∈ s.waves → v.crew = k.w.crew → v ∉ k.waves → x.retired = true ∨ x.barIn = true) →
      ∃ E, Completes (.bar f) s k E ∧ E = { s.unfocused.released k.cluster with waves := E.waves }
        ∧ ∀ v x, s.wave? v = some x →
          let go := if x.stall = .barrier then .ready else x.stall
          E.wave? v = some (if v ∈ k.waves then
              { x with barIn := false, barOut := false, passed := 0, stall := if x.retired then x.stall else go }
            else if v.crew = k.w.crew ∧ x.barIn = true then { x with barIn := false, barOut := true, stall := go } else x))

/-- R236, R237, R251: BARA and BARX arrive at a barrier object: its pending count falls by one, the expected bytes are
added, and at zero of both the phase flips and the count is restored; S[D] holds the phase before. BARW goes on when the
phase differs from its operand. -/
def Sys2Proof.Claims.BarrierObjects : Prop :=
  (∀ (i : Instr) (f : KF) (n : Ctx → Int), arriveWord i = some (f, n) → ∀ (s : State) (k : Ctx), MayRun i s k →
    let o := (k.wv.rdS (KF.A f)).toNat
    let old := Memory.le k.c.crw o 16
    let b := Bar.of old
    o % 16 = 0 → o + 16 ≤ k.kn.crw → s.releaseWaits k.cluster k.w 0 = false → s.eccCrw k.w.crew o 16 = false →
    b.count ≠ 0 → b.pend ≠ 0 → -(2 ^ 31) ≤ b.tx + n k → b.tx + n k < 2 ^ 31 →
    let b2 : Bar := if b.pend = 1 ∧ b.tx + n k = 0 then ⟨b.tx + n k, !b.ph, b.count, b.count⟩
      else ⟨b.tx + n k, b.ph, b.count, b.pend - 1⟩
    Completes i s k (((s.unfocused.setCrew k.w.crew
      { k.c with crw := Memory.setLe k.c.crw o 16 (b2.put old) }).released k.cluster).setWave k.w (k.wv.wrS (KF.D f) (if b.ph then 1 else 0))))
  ∧ ∀ (f : KF) (s : State) (k : Ctx), MayRun (.barw f) s k →
    let o := (k.wv.rdS (KF.A f)).toNat
    o % 16 = 0 → o + 16 ≤ k.kn.crw → s.eccCrw k.w.crew o 16 = false →
    (Bar.of (Memory.le k.c.crw o 16)).ph ≠ (opS f k.wv).getLsbD 0 → Completes (.barw f) s k s.unfocused

/-- The crew barrier and the barrier objects. -/
def Obligations.BarrierWords : Prop := Claims.CrewBarrier ∧ Claims.BarrierObjects


/-- R239 to R241, R252: QPUSH appends its entries to a queue that its job is bound to and that has room, a release at CREW
scope; QPOP takes the
oldest entries, each into its wave: lane l of V[D], and the lane's mask bit. No other queue changes. -/
def Obligations.QueueWords : Prop :=
  (∀ (f : KF) (s : State) (k : Ctx), MayRun (.qpush f) s k → k.qbound s (qNo f) = true →
    (s.queue k.cluster (qNo f)).entries.length + qGroups k ≤ (s.queue k.cluster (qNo f)).depth →
    s.releaseWaits k.cluster k.w 0 = false →
    ∃ E, Completes (.qpush f) s k E ∧ E = { s.unfocused with clusters := E.clusters }
      ∧ (∀ cl q, (cl ≠ k.cluster ∨ q ≠ qNo f) → E.queue cl q = s.queue cl q)
      ∧ E.queue k.cluster (qNo f) = { s.queue k.cluster (qNo f) with
          entries := (s.queue k.cluster (qNo f)).entries ++ pushed f k s }
      ∧ (E.cluster k.cluster).stores = ((s.released k.cluster).cluster k.cluster).stores)
  ∧ ∀ (f : KF) (s : State) (k : Ctx), MayRun (.qpop f) s k → k.qbound s (qNo f) = true →
    qGroups k ≤ (s.queue k.cluster (qNo f)).depth → qGroups k ≤ (s.queue k.cluster (qNo f)).entries.length →
    (∀ i, i < qGroups k → (s.wave? (groupWave k i)).isSome = true) →
    ∃ E, Completes (.qpop f) s k E ∧ E = { s.unfocused with clusters := E.clusters, waves := E.waves }
      ∧ (∀ cl q, (cl ≠ k.cluster ∨ q ≠ qNo f) → E.queue cl q = s.queue cl q)
      ∧ E.queue k.cluster (qNo f) = { s.queue k.cluster (qNo f) with
          entries := (s.queue k.cluster (qNo f)).entries.drop (qGroups k) }
      ∧ (∀ v, (∀ i, i < qGroups k → groupWave k i ≠ v) → E.wave? v = s.wave? v)
      ∧ ∀ i x e, i < qGroups k → s.wave? (groupWave k i) = some x →
        (s.queue k.cluster (qNo f)).entries[i]? = some e → ∃ y, E.wave? (groupWave k i) = some y
          ∧ LanesAre (k.on f (groupWave k i) x) 0 (KF.D f) (fun l => (e.lane l).toNat) x { y with m := x.m }
          ∧ MaskIs (k.on f (groupWave k i) x) (fld f.x 2 0) (fun l => some (e.mask.getLsbD l)) x { y with v := x.v }

/-- R243, R244, R253: QNOTIFY counts one trigger as a release; QBIND binds or removes a handler, maps a queue to a
register of a pinned threaded gang, or removes a mapping; QSTAT reads the status. -/
def Obligations.QueueControl : Prop :=
  (∀ (f : KF) (s : State) (k : Ctx), MayRun (.qnotify f) s k → k.qbound s (qNo f) = true →
    (s.queue k.cluster (qNo f)).trig < 65535 → s.releaseWaits k.cluster k.w 1 = false →
    Completes (.qnotify f) s k ((s.unfocused.released k.cluster).setQueue k.cluster (qNo f)
      { s.queue k.cluster (qNo f) with trig := (s.queue k.cluster (qNo f)).trig + 1 }))
  ∧ (∀ (f : KF) (s : State) (k : Ctx), MayRun (.qbindTrig f) s k → k.qbound s (qNo f) = true →
    let a := (k.wv.rdS (KF.A f)).toNat
    (a = 0 → opS f k.wv = 0 → Completes (.qbindTrig f) s k (s.unfocused.setQueue k.cluster (qNo f)
      { s.queue k.cluster (qNo f) with handler := none }))
    ∧ (a ≠ 0 → a % 128 = 0 → a + 128 ≤ 2 ^ 55 → ∀ p, (s.unfocused.find k.cluster k.asid a 128 useLoad .thru).2 = .ok p →
      let t := ((s.unfocused.find k.cluster k.asid a 128 useLoad .thru).1.modWave k.w
        (fun x => { x with timedOut := false, remoteWait := false })).addMemtx k.gid
          (match p with | .glb _ false _ => 4 | _ => 0)
      let r := t.readAt k 128 .thru p
      Completes (.qbindTrig f) s k (r.1.setQueue k.cluster (qNo f)
        { r.1.queue k.cluster (qNo f) with handler := some (recDwords r.2, (opS f k.wv).toNat) })))
  ∧ (∀ (i : Instr) (f : KF) (out : Bool), mapWord i = some (f, out) → ∀ (s : State) (k : Ctx), MayRun i s k →
    k.qbound s (qNo f) = true → k.vec = false → (k.g.pinned = true ∨ k.l.pin = true) → k.wv.qmaps.length < 8 →
    (∀ m ∈ k.wv.qmaps, m.reg ≠ KF.A f) →
    Completes i s k ((s.unfocused.party k.cluster ⟨k.w, qNo f, out⟩).setWave k.w
      { k.wv with qmaps := k.wv.qmaps ++ [⟨KF.A f, qNo f, out⟩] }))
  ∧ (∀ (f : KF) (s : State) (k : Ctx) (m : QMap), MayRun (.qbindUnmap f) s k → m ∈ k.wv.qmaps → m.reg = KF.A f →
    Completes (.qbindUnmap f) s k (s.unfocused.setWave k.w
      { k.wv with qmaps := k.wv.qmaps.filter (fun m => m.reg != KF.A f) }))
  ∧ ∀ (f : KF) (s : State) (k : Ctx), MayRun (.qstat f) s k → ∃ y : Dword,
    Completes (.qstat f) s k (s.unfocused.setWave k.w (k.wv.wrS (KF.D f) y))
    ∧ (k.qbound s (qNo f) = false → y = 0)
    ∧ (k.qbound s (qNo f) = true → (s.queue k.cluster (qNo f)).entries.length < 2 ^ 16 →
      (s.queue k.cluster (qNo f)).depth < 2 ^ 16 → (s.queue k.cluster (qNo f)).trig < 2 ^ 16 →
      fld y 15 0 = (s.queue k.cluster (qNo f)).entries.length ∧ fld y 31 16 = (s.queue k.cluster (qNo f)).depth
      ∧ fld y 47 32 = (s.queue k.cluster (qNo f)).trig ∧ y.getLsbD 48 = true
      ∧ y.getLsbD 49 = (s.queue k.cluster (qNo f)).handler.isSome
      ∧ y.getLsbD 50 = k.wv.qmaps.any (fun m => m.queue == qNo f) ∧ fld y 63 51 = 0)

/-! ### Class 7 -/

namespace Sys2Proof.Claims

/-- The class 7 words that complete later (R273 to R276, R279, R281, R282), each with what it asks for. -/
def fopWord : Instr → Option (KF × (Ctx → FKind))
  | .freq f => some (f, fun k => .freq (opS f k.wv) (f.c.getLsbD 0))
  | .frel f => some (f, fun k => .frel (k.wv.rdS (KF.A f)))
  | .fcfg f => some (f, fun k => .fcfg (k.wv.rdS (KF.A f)) (opS f k.wv) (k.wv.rdS f.c.toNat))
  | .fdrain f => some (f, fun k => .fdrain (opS f k.wv))
  | .fstat f => some (f, fun k => .fstat (opS f k.wv))
  | .fmodeDf f => some (f, fun k => .fmode (opS f k.wv) false)
  | .fmodeSys f => some (f, fun k => .fmode (opS f k.wv) true)
  | _ => none

/-- The operation of such a word as it waits in its crew. -/
def fopOf (f : KF) (k : Ctx) (q : FKind) : FOp := ⟨k.w.gang, k.w.wave, KF.D f, q, false, false, 0⟩

/-- The state with one more operation of the crew, last. -/
def opAdded (k : Ctx) (t : State) (o : FOp) : State := t.modCrew k.w.crew (fun x => { x with fops := x.fops ++ [o] })

/-- The lanes of `act`, ascending. -/
def lanesIn (act : Word) : List Nat := (List.range 32).filter (fun l => act.getLsbD l)

end Sys2Proof.Claims

/-- R406: a step from `s` to `t` puts no record behind a full ring. -/
def ringFits (a : Nat) (s t : State) : Prop := (t.asid a).waiting.length ≤ (s.asid a).waiting.length

/-- R270, R273: FREQ, FREL, FCFG, FDRAIN, FSTAT, FMODE.DF and FMODE.SYS complete, and their operations wait in the crew. A
load begins at once when every earlier operation of the wave has been accepted, a drain when no earlier load of the wave
into its place has still to be, and when nothing refuses it and the ring has room for the records of accepted overlaps. -/
def Sys2Proof.Claims.FabricReads : Prop :=
  ∀ (i : Instr) (f : KF) (q : Ctx → FKind), fopWord i = some (f, q) → ∀ (s : State) (k : Ctx), MayRun i s k →
    let o := fopOf f k (q k)
    let r := o.attempt k.w.crew k.c (k.spot s.unfocused) s.unfocused
    (o.early k.c = false ∨ (∀ t, r ≠ .begun t) → Completes i s k (opAdded k s.unfocused o))
    ∧ (∀ t, r = .begun t → o.early k.c = true →
      (ringFits k.asid s.unfocused t → Completes i s k (opAdded k t (o.begin k.c)))
      ∧ (¬ringFits k.asid s.unfocused t → Completes i s k (opAdded k s.unfocused o)))
    ∧ (o.early k.c = true ↔
      (o.isLoad = true ∧ ∀ p ∈ k.c.fops, p.gang = k.w.gang → p.wave = k.w.wave → p.accepted = true)
      ∨ (o.isDrain = true ∧ ∀ p ∈ k.c.fops, p.gang = k.w.gang → p.wave = k.w.wave → p.isLoad = true →
          ∀ b, o.kind = .fdrain b → p.onPlace b.toNat = true → p.accepted = true))

/-- R277, R278, R280, R71: FSEND, FRECV and FPRIO complete. FSEND begins a round and sends an entry for each active element
in turn, with the tag of its iteration, routed to the place that the map names. For a paddock that has no place it does so
where the park area takes the tokens in, and else it holds at a BWFULL record; which of the two is a free value (R264, log
entry 132). FRECV makes each active lane wait for a result; FPRIO gives every place of the region its priority, in its turn
behind the operations of its wave, unless it is above 15. -/
def Sys2Proof.Claims.FabricSends : Prop :=
  (∀ (f : KF) (s : State) (k : Ctx), MayRun (.fsend f) s k →
    let n := (opS f k.wv).toNat
    let sent (t : State) : State := (k.active s f.pm f.pn).foldl (fsendOne f k n) t
    (k.c.mapped k.kn n ≠ .unplaced ∨ k.active s f.pm f.pn = [] → Completes (.fsend f) s k (sent s.unfocused))
    ∧ (k.c.mapped k.kn n = .unplaced → k.active s f.pm f.pn ≠ [] → k.c.parkFull = [] →
      if s.fresh.1 % 2 = 0 then Completes (.fsend f) s k (sent s.unfocused.fresh.2)
      else exec (.fsend f) s = .next (faultAt k (fsendFull f k n s.unfocused) s.unfocused.fresh.2)))
  ∧ (∀ (f : KF) (k : Ctx) (n e : Nat) (t : State) (x : Wave) (y : Crew), t.wave? (k.owner e) = some x →
    t.crew? k.w.crew = some y → ∃ z, fsendOne f k n t e = t.setCrew k.w.crew z
      ∧ z = { y with rounds := z.rounds, flight := z.flight, chains := z.chains, ids := z.ids }
      ∧ z.rounds = y.rounds ++ [⟨y.ids + 1, n, 256 * k.w.gang + k.iterJ e, BitVec.ofNat 3 (fld x.fcsr 7 5), false, true,
          none, 0, [], [], [], false, false⟩]
      ∧ ∃ q : Spot, z.flight = y.flight ++ [.entry
          { sender := .wave k.w.gang k.w.wave q, place := (k.c.mapped k.kn n).place, paddock := n, blk := 0
            tag := rootTag (256 * k.w.gang + k.iterJ e), slot := fld f.c 2 0, port := false, err := false
            value := if f.ty = 1 then x.rdD (KF.A f) (e % 32) else (x.rdV (KF.A f) (e % 32)).setWidth 64
            round := y.ids + 1, how := ⟨0, none, 0⟩, start := false, relayed := false }])
  ∧ (∀ (f : KF) (s : State) (k : Ctx), MayRun (.frecv f) s k → ∃ E, Completes (.frecv f) s k E ∧
    OnWaves k s.unfocused E (fun v x y => y = { x with recvs := x.recvs ++ (lanesIn (k.on f v x)).map (fun l =>
      ⟨(opS f k.wv).toNat, fld f.c 2 0, l, KF.D f, f.ty == 1, s.now, k.wv.pc, k.on f k.w k.wv, []⟩) }))
  ∧ ∀ (f : KF) (s : State) (k : Ctx) (r : Region), MayRun (.fprio f) s k →
    ((opS f k.wv).toNat < 16 → k.c.region = some r → k.c.opOf k.w = none →
      Completes (.fprio f) s k (s.unfocused.setCrew k.w.crew { k.c with
        region := some { r with places := r.places.map (fun p => { p with fprio := (opS f k.wv).toNat }) } }))
    ∧ ((opS f k.wv).toNat < 16 → k.c.region = none → k.c.opOf k.w = none → Completes (.fprio f) s k s.unfocused)
    ∧ ((opS f k.wv).toNat < 16 → (k.c.opOf k.w).isSome = true →
      Completes (.fprio f) s k (opAdded k s.unfocused (fopOf f k (.fprio (opS f k.wv).toNat))))
    ∧ (16 ≤ (opS f k.wv).toNat → Completes (.fprio f) s k s.unfocused)

/-- The fabric words that complete at once, and FSEND. -/
def Obligations.FabricWords : Prop := Claims.FabricReads ∧ Claims.FabricSends


/-- R273 to R276, R279 to R282: the oldest operation of a wave completes: it leaves the crew and its status is in its
register; a load or a drain whose turn has come is accepted. The statuses of FREQ, FREL, FMODE, FSTAT and FPRIO, those with
which FCFG and FDRAIN end at once, and that of a load or a drain that is over. A status waits while its crew is saved. That
an FREQ of a bad count gives HOLDING while a region is held (log entry 131), and that a swapped paddock is not BUSY (log
entry 102), are the model's choices. -/
def Obligations.FabricStatuses : Prop :=
  (∀ (s t : State) (w : WaveId) (x : Crew) (n : Nat) (o : FOp), s.crew? w.crew = some x →
    x.opOf w = some (n, o) → o.attempt w.crew x noSpot s = .begun t → ringFits (s.asidOf w.crew) s t →
    exec (.fabricOpComplete w) s = .next (t.modCrew w.crew (fun y => { y with fops := y.fops.modify n (fun o => o.begin x) })))
  ∧ (∀ (s t : State) (w : WaveId) (x : Crew) (n : Nat) (o : FOp) (v : Dword), s.crew? w.crew = some x →
    x.opOf w = some (n, o) → x.saved = false → o.attempt w.crew x noSpot s = .over v t → ringFits (s.asidOf w.crew) s
      ((t.modCrew w.crew (fun x => { x with fops := x.fops.eraseIdx n })).modWave w (fun y => y.wrS o.d v)) →
    exec (.fabricOpComplete w) s = .next ((t.modCrew w.crew (fun x => { x with fops := x.fops.eraseIdx n })).modWave w
      (fun y => y.wrS o.d v)))
  ∧ ∀ (o : FOp) (c : CrewId) (x : Crew) (pc : Spot) (s : State),
    let st (n : Nat) (t : State) : Prop := o.attempt c x pc s = .over (BitVec.ofNat 64 n) t
    (∀ n loc, o.kind = .freq n loc →
      (x.region.isSome = true → st (2 * 2 ^ 62) s)
      ∧ (x.region = none → n = 0 ∨ 64 < n.toNat → st (3 * 2 ^ 62) s)
      ∧ (x.region = none → n ≠ 0 → n.toNat ≤ 64 → s.grant c x n.toNat loc false = .noRoom → st (2 ^ 62) s)
      ∧ (∀ h t, x.region = none → n ≠ 0 → n.toNat ≤ 64 → s.grant c x n.toNat loc false = .ok h t →
          st (n.toNat * 2 ^ 16 + h) t))
    ∧ (∀ h, o.kind = .frel h →
      (x.region = none → st 2 s)
      ∧ ∀ r, x.region = some r →
        (h.toNat ≠ r.handle → st 2 s)
        ∧ (h.toNat = r.handle → (∃ p ∈ r.places, p.live = true) → st 1 s)
        ∧ (h.toNat = r.handle → (∀ p ∈ r.places, p.live = false) →
            st 0 (s.modCrew c (fun x => { x with region := none, geometry := none, cells := [] }))))
    ∧ (∀ b sys, o.kind = .fmode b sys →
      (x.named? b = none → st 2 s)
      ∧ ∀ p, x.named? b = some p →
        (p.live = true ∨ p.draining = true ∨ x.mx ≠ [] → st 1 s)
        ∧ (p.live = false → p.draining = false → x.mx = [] → p.sys = sys → st 0 s)
        ∧ ∀ r, x.region = some r → p.live = false → p.draining = false → x.mx = [] → p.sys ≠ sys →
          let full := (s.bayPlaces p.slice p.bay).any (fun q => q.2.2.sys) = true
            ∨ 8 ≤ (r.places.filter (fun q => q.sys)).length
          (sys = true → full → st 1 s)
          ∧ (sys = false ∨ ¬full →
              let t := s.modPlace c b.toNat (fun p => { p with sys := sys })
              st 0 ((if sys then t.startRows p.slice p.bay else t).modCrew c
                (fun x => { x with geometry := none, cells := [] }))))
    ∧ (∀ b, o.kind = .fstat b →
      (x.named? b = none → st (2 ^ 64 - 1) s)
      ∧ ∀ p, x.named? b = some p → ∃ y : Dword, o.attempt c x pc s = .over y s
        ∧ fld y 63 62 = (match p.state with | .free => 0 | .loading => 1 | .resident => 2 | .swapped => 3)
        ∧ y.getLsbD 61 = (p.drainHere != 0) ∧ y.getLsbD 60 = p.sys ∧ fld y 47 44 = s.placePrio p % 16
        ∧ fld y 43 36 = p.slice % 256 ∧ fld y 35 32 = p.bay % 16 ∧ fld y 31 30 = p.ctx % 4
        ∧ fld y 25 16 = (p.frames.filter (fun f => f.resident)).length % 1024)
    ∧ (∀ n, o.kind = .fprio n → st 0 (s.setPrio c n))
    ∧ (∀ a b e, o.kind = .fcfg a b e → o.accepted = false →
      (x.named? b = none → st 2 s)
      ∧ ∀ p r l kn, x.named? b = some p → x.region = some r → s.launch? c.launch = some l → l.kernel = some kn →
        (kn.paddocks.length ≤ a.toNat ∨ edgeBad e = true → st 4 s)
        ∧ (a.toNat < kn.paddocks.length → edgeBad e = false → loadBusy r a.toNat b.toNat p = true → st 1 s)
        ∧ (∀ n, a.toNat < kn.paddocks.length → edgeBad e = false → loadBusy r a.toNat b.toNat p = false →
            s.slotBusy x kn a.toNat = false → loadRefusal kn l.args (s.cluster x.cluster) a.toNat p.sys = some n →
            st 3 (s.configRecord c.launch x.cluster a.toNat .notice n)))
    ∧ (∀ b, o.kind = .fdrain b → o.accepted = false →
      (x.named? b = none → st 2 s)
      ∧ ∀ p, x.named? b = some p → p.state = .free → p.next = [] → st 1 s)
    ∧ ((o.isLoad = true ∨ o.isDrain = true) → o.accepted = true → o.ended = true → st 0 s)

/-! ### Class 8 -/

namespace Sys2Proof.Claims

/-- R344, R347: no class 7 operation of the wave is under way, and its port queue has room. -/
def portFree (k : Ctx) : Prop :=
  (∀ o ∈ k.c.fops, ¬(o.gang = k.w.gang ∧ o.wave = k.w.wave)) ∧ (k.c.mxOf k.w.gang k.w.wave).length < 16

/-- The state with one more event or pass of the crew, last. -/
def entered (k : Ctx) (t : State) (i : MxItem) : State := t.modCrew k.w.crew (fun x => { x with mx := x.mx ++ [i] })

/-- R348, R358: an address that MXW and MXSC take. -/
def mxAligned (k : Ctx) (f : KF) : Prop := (k.wv.rdS (KF.A f)).toNat % 64 = 0 ∧ (k.wv.rdS (KF.A f)).toNat < 2 ^ 55

end Sys2Proof.Claims

/-- R336, R344, R347 to R353: MXW, MXSC, MXZ and MXA put an event or a pass into the crew's matrix work when the cell or
column exists, the formats hold and the address is aligned; MXC sets the geometry and gives its status; MXWAIT goes on,
with an acquire at DEVICE scope, when none of the wave's matrix work is left. -/
def Obligations.MatrixWords : Prop :=
  (∀ (f : KF) (s : State) (k : Ctx) (g : Geometry), MayRun (.mxw f) s k → portFree k → k.c.geometry = some g →
    argB f k < g.kb * g.nb → arrayFmt k.c g (f.c.extractLsb' 0 6) = none → k.c.fmtWaits (fld f.c 5 0) = false →
    mxAligned k f →
    Completes (.mxw f) s k (entered k s.unfocused
      (mxNew k s (.weights (k.wv.rdS (KF.A f)) (k.c.fmtEntry (fld f.c 5 0)) (fld f.c 5 0)) (argB f k) 0)))
  ∧ (∀ (f : KF) (s : State) (k : Ctx) (g : Geometry), MayRun (.mxsc f) s k → portFree k → k.c.geometry = some g →
    argB f k < g.kb * g.nb → mxAligned k f →
    Completes (.mxsc f) s k (entered k s.unfocused (mxNew k s (.scales (k.wv.rdS (KF.A f))) (argB f k) 0)))
  ∧ (∀ (f : KF) (s : State) (k : Ctx) (g : Geometry), MayRun (.mxz f) s k → portFree k → k.c.geometry = some g →
    argB f k < g.kb * g.nb →
    Completes (.mxz f) s k (entered k s.unfocused (mxNew k s .zero (argB f k) 0)))
  ∧ (∀ (f : KF) (s s1 : State) (k : Ctx) (g : Geometry) (p : At), MayRun (.mxa f) s k → portFree k →
    k.c.geometry = some g → argB f k < g.nb → arrayFmt k.c g (f.c.extractLsb' 0 6) = none →
    k.c.fmtWaits (fld f.c 5 0) = false →
    wordAccess k (k.wv.rdS (KF.A f)).toNat 64 useLoad .thru s.unfocused = (s1, .ok p) →
    let r := s1.readAt k 64 .thru p
    let d := (recDwords r.2).take 8
    mxShape g d = false →
    Completes (.mxa f) s k (entered k r.1 (mxNew k r.1 (.pass d (k.c.fmtEntry (fld f.c 5 0)) (fld f.c 5 0)) (argB f k)
      (fld (d.getD 1 0) 4 0))))
  ∧ (∀ (f : KF) (s : State) (k : Ctx), MayRun (.mxc f) s k → portFree k →
    let w := k.wv.rdS (KF.A f)
    let kb := fld w 13 8 + 1
    let nb := fld w 21 16 + 1
    let bad := fld w 63 22 ≠ 0 ∨ fld w 15 14 ≠ 0 ∨ fld w 7 2 ≠ 0 ∨ fld w 1 0 = 3 ∨ 8 * k.c.sysPlaces.length < kb * nb
    let put (t : State) (n : Nat) := t.setWave k.w (k.wv.wrS (KF.D f) (BitVec.ofNat 64 n))
    (k.c.sysPlaces = [] → Completes (.mxc f) s k (put s.unfocused 2))
    ∧ (k.c.sysPlaces ≠ [] → bad → Completes (.mxc f) s k (put s.unfocused 3))
    ∧ (k.c.sysPlaces ≠ [] → ¬bad → k.c.mx ≠ [] → Completes (.mxc f) s k (put s.unfocused 1))
    ∧ (k.c.sysPlaces ≠ [] → ¬bad → k.c.mx = [] → Completes (.mxc f) s k (put (s.unfocused.setCrew k.w.crew
        { k.c with geometry := some ⟨fld w 1 0, kb, nb⟩, cells := [] }) 0)))
  ∧ ∀ (f : KF) (s : State) (k : Ctx), MayRun (.mxwait f) s k → portFree k → k.c.mxOf k.w.gang k.w.wave = [] →
    Completes (.mxwait f) s k (s.unfocused.setCluster k.cluster { s.cluster k.cluster with l1 := [], l1Past := false })

/-! ### Equivalence points and EXIT -/

/-- How an EXIT ends that leaves its wave no word to issue: it is counted, the waves that retire arrive at the crew barrier,
a release, and the gang may have reached a point (R235, R371, R394, R449). -/
def Sys2Proof.Claims.exited (f : KF) (k : Ctx) (s E : State) (retires : Bool) : State :=
  let t := settle k (countIssue (.exit f) k s E)
  (if retires then t.released k.cluster else t).rendezvous k.gid

/-- R406: the word of `k`, which leads to state `t`, answers it, or waits with MEMORY at a breakpoint of the point that the
gang would reach while the ring has no room. -/
def Sys2Proof.Claims.answers (i : Instr) (k : Ctx) (s t : State) : Prop :=
  (breakWaits k s.unfocused t = false → exec i s = .next t)
  ∧ (breakWaits k s.unfocused t = true → exec i s = .next (waitWith k .memory s.unfocused))

/-- R167, R178, R196, R369, R406: EXIT. The active lanes exit, from the path and from every entry of the stack. With lanes
of the path left, the others go on; with none left, the wave resumes from its stack; where that holds no lanes either, the
wave retires, or stays without a path where a restart holds lanes of it; in vector form every wave of the gang retires. -/
def Obligations.Exits : Prop :=
  (∀ (f : KF) (s : State) (k : Ctx), MayRun (.exit f) s k → k.vec = false → ∀ a, a = k.on f k.w k.wv →
    k.wv.mask &&& ~~~a ≠ 0 → nextIn k →
    Moves (.exit f) s k (s.unfocused.respill k.c k.w { k.wv with
      pc := k.wv.pc + 8
      exited := k.wv.exited ||| a
      mask := k.wv.mask &&& ~~~a
      dstack := k.wv.dstack.map (fun e => { e with mask := e.mask &&& ~~~a, pend := e.pend &&& ~~~a }) }))
  ∧ (∀ (f : KF) (s : State) (k : Ctx), MayRun (.exit f) s k → k.vec = false → k.on f k.w k.wv = k.wv.mask →
    let gone : Word := k.wv.exited ||| k.wv.mask
    let st := k.wv.dstack.map (fun e => { e with mask := e.mask &&& ~~~k.wv.mask, pend := e.pend &&& ~~~k.wv.mask })
    ((∀ e ∈ st, e.mask = 0) →
      (gone = 0xFFFFFFFF → Claims.answers (.exit f) k s
        (Claims.exited f k s.unfocused (s.unfocused.setWave k.w k.wv.retire) true))
      ∧ (gone ≠ 0xFFFFFFFF → Claims.answers (.exit f) k s (Claims.exited f k s.unfocused (s.unfocused.setWave k.w
          { k.wv.retire with retired := false, exited := gone, mask := 0, qmaps := k.wv.qmaps }) false)))
    ∧ ∀ y : Wave, (∃ e ∈ st, e.mask ≠ 0) → resumes { k.wv with exited := gone, mask := 0, dstack := st } st y →
      k.inside y.pc.toNat = true → Moves (.exit f) s k (s.unfocused.respill k.c k.w y))
  ∧ ∀ (f : KF) (s : State) (k : Ctx), MayRun (.exit f) s k → k.vec = true →
    (∀ v x, v ∈ k.waves → s.wave? v = some x → x.exited ||| lanesOf (s.takes k.gid) v.wave = 0xFFFFFFFF) →
    ∃ E, OnWaves k s.unfocused E (fun _ x y => y = x.retire)
      ∧ Claims.answers (.exit f) k s (Claims.exited f k s.unfocused
          (E.setGang k.gid { k.g with serial := none, slots := false }) true)

/-- R56, R359, R365, R375, R381, R406: EQP. In threaded form a wave that is not the last of its gang to arrive waits at the word, with
ISSUE and LANEOP counted; the last one makes the gang reach the point; a wave that waits at a point whose decision is due
takes it. In vector form the gang reaches the point, or ends its run under a SERIAL map. An EQP that would keep the gang in
its form with no word of the version after it is illegal at its issue, with none of its effect (log entry 12). -/
def Sys2Proof.Claims.Arrivals : Prop :=
  ∀ (f : KF) (s : State) (k : Ctx) (gk : GCtx), MayRun (.eqp f) s k → gctx? s k.gid = some gk →
    let n := fld f.x 11 0
    let u := countIssue (.eqp f) k s.unfocused s.unfocused
    let v := (u.modWave k.w (fun x => { x with arrived := some n, stall := .eqp, bpDone := true, passed := 0 })).modGang
      k.gid (fun g => { g with point := some n })
    let ends (t : State) : Prop := (eqpFalls k n t = true → exec (.eqp f) s = .next (illegal k s.unfocused))
      ∧ (eqpFalls k n t = false → Claims.answers (.eqp f) k s t)
    (k.wv.arrived = none → (k.kn.eqp? n).isSome = true → k.vec = false → k.g.serial = none → k.wv.dstack = [] →
      (k.g.point = none ∨ k.g.point = some n) →
      (v.allArrived k.gid = false → ends v) ∧ (v.allArrived k.gid = true → ends (v.reach k.gid n)))
    ∧ (k.wv.arrived = none → (k.kn.eqp? n).isSome = true → k.vec = true → k.g.serial = none →
      (k.g.point = none ∨ k.g.point = some n) → ends (u.reach k.gid n))
    ∧ (∀ r, k.wv.arrived = none → (k.kn.eqp? n).isSome = true → k.vec = true → k.g.serial = some r →
      (k.g.point = none ∨ k.g.point = some n) → fopPending k (runRegs k n) = false → recvPending k s (runRegs k n) = false →
      ends (runEnd gk r n u))
    ∧ (k.wv.arrived.isSome = true → k.g.due.isSome = true → let t := s.unfocused.tryDecide k.gid
      exec (.eqp f) s = .next (if (t.gang? k.gid).any (fun g => g.due.isNone) = true then t else waitWith k .eqp t))

/-- R56, R361, R375, R384: at a point whose decision is due, a gang that is pinned keeps its form with reason 5, and one with
a call under way keeps it with reason 7. Where its version has no word after EQP the gang raises ILLEGAL, and the decision
takes no effect. In threaded form with its values in registers every wave of the gang goes on at the word after EQP, once no
access of the gang's spatial work is open. -/
def Sys2Proof.Claims.PinnedDecisions : Prop :=
  ∀ (s : State) (i : GangId) (k : GCtx) (n : Nat), gctx? s i = some k → k.g.due = some n → s.mayDecide k = true →
    k.g.dbgForm = none →
    let deep := i.waves.any (fun w => match s.wave? w with | some x => !x.rstack.isEmpty | none => false)
    k.g.moving = none → (deep = true ∨ k.l.pin = true ∨ k.g.pinned = true) → ∀ d : Decided, d = ⟨k.g.form, if deep then 7 else 5, 0⟩ →
    (decideForm s k n = (d, s))
    ∧ d.word k.g.form n = BitVec.ofNat 64 ((if deep then 7 else 5) * 2 ^ 16 + k.g.form.toNat * 2 ^ 14
        + k.g.form.toNat * 2 ^ 12 + n % 2 ^ 12)
    ∧ (k.kn.landsIn n k.g.form.toNat = false → s.tryDecide i = k.raise s (k.record s 1 0 n .stops))
    ∧ (k.g.form = 0 → k.g.slots = false → k.kn.landsIn n 0 = true →
      (k.c.openAccess k.kn i.gang = true →
        s.tryDecide i = s.setGang i { k.g with decision := d.word 0 n, moving := some 0 })
      ∧ (k.c.openAccess k.kn i.gang = false →
        s.tryDecide i = startThreaded { k with g := { k.g with decision := d.word 0 n } } n (s.takes i) false
          ((s.acquire k.c.cluster 0).setGang i { k.g with
            decision := d.word 0 n, form := 0, intForm := 0, due := none, moving := none, slots := false, point := none
            atPoint := 0, serial := none, mapVals := (pointVals k n (itersOf (s.takes i)) s).1 })))
    ∧ ∀ (t : State) (m : BitVec 256), OnGang i t (startThreaded k n m false t) (fun w x y =>
        y = { x with pc := BitVec.ofNat 32 (k.kn.eqpOffT n + 8), stall := .ready, since := t.now, passed := 0,
                     bpDone := false, arrived := none, mask := lanesOf m w.wave, retired := x.exited == 0xFFFFFFFF })

/-- Arrivals at a decision point, and the decisions of a pinned gang. -/
def Obligations.PointArrivals : Prop := Claims.Arrivals ∧ Claims.PinnedDecisions


/-- R382 to R385: REMOUNT, REMOUNT.CLR, PIN and PIN.OFF complete, each with its field of the gang; GAITR gives the counters,
the last cost and the last decision, and a table entry as firmware placed the table. -/
def Obligations.GangWords : Prop :=
  (∀ (f : KF) (s : State) (k : Ctx), MayRun (.remount f) s k →
    Completes (.remount f) s k (s.unfocused.setGang k.gid { k.g with req := some (f.c.extractLsb' 0 2) }))
  ∧ (∀ (f : KF) (s : State) (k : Ctx), MayRun (.remountClr f) s k →
    Completes (.remountClr f) s k (s.unfocused.setGang k.gid { k.g with req := none }))
  ∧ (∀ (f : KF) (s : State) (k : Ctx), MayRun (.pin f) s k →
    Completes (.pin f) s k (s.unfocused.setGang k.gid { k.g with pinned := true }))
  ∧ (∀ (f : KF) (s : State) (k : Ctx), MayRun (.pinOff f) s k →
    Completes (.pinOff f) s k (s.unfocused.setGang k.gid { k.g with pinned := false }))
  ∧ ∀ (f : KF) (s : State) (k : Ctx), MayRun (.gaitr f) s k →
    let put (t : State) (n : Nat) := t.setWave k.w (k.wv.wrS (KF.D f) (BitVec.ofNat 64 n))
    let b := (opS f k.wv).toNat
    (∀ v, [k.g.issue, k.g.laneop, k.g.memtx, k.g.fire, k.g.hop, k.g.cost.toNat, k.g.decision.toNat][fld f.c 3 0]? = some v →
      Completes (.gaitr f) s k (put s.unfocused v))
    ∧ (7 ≤ fld f.c 3 0 → 4095 < b → Completes (.gaitr f) s k (put s.unfocused 0))
    ∧ (∀ t l, 7 ≤ fld f.c 3 0 → b ≤ 4095 →
      s.unfocused.devAt k.asid (k.l.gaitVa b (fld f.c 5 4)) 4 useLoad = (t, .ok l) →
      Completes (.gaitr f) s k (put t (leNat (t.homeRead l 4))))

/-! ### Class 10 -/

/-- R426, R427: TRAP raises its record and, as a NOTICE, goes on; as a STOPS record it holds at the word. BRK raises a
BREAK record, halts its gang, and goes on when that is resumed. Both wait while the ring has no room. -/
def Obligations.TrapWords : Prop :=
  (∀ (f : KF) (s : State) (k : Ctx), MayRun (.trap f) s k → k.ringRoom s = true →
    let r (st : RStatus) : RecF := { k.report 15 0 st (k.first s) .terms with aux := (opS f k.wv).toNat % 2 ^ 32 }
    (f.c.getLsbD 0 = false → Completes (.trap f) s k (s.unfocused.raise k.asid (r .notice)).1)
    ∧ (f.c.getLsbD 0 = true → exec (.trap f) s = .next (s.unfocused.raise k.asid (r .stops)).1))
  ∧ (∀ (f : KF) (s : State) (k : Ctx), MayRun (.brk f) s k → k.ringRoom s = true →
    let q := s.unfocused.raise k.asid { k.report 16 0 .resumable (k.first s) .terms with
      aux := 0xFFFFFFFF, aux2 := (opS f k.wv).toNat % 2 ^ 32 }
    Completes (.brk f) s k (q.1.breakGang k.asid k.gid q.2))
  ∧ (∀ (f : KF) (s : State) (k : Ctx), k.ringRoom s = false →
    (MayRun (.trap f) s k → exec (.trap f) s = .next (stallAt k .memory s.unfocused))
    ∧ (MayRun (.brk f) s k → exec (.brk f) s = .next (stallAt k .memory s.unfocused)))

/-- R110, R428: CTLRD gives the control register that its modifier names; CTLWR writes FCSR, its flags or its rounding
mode, in every wave of the form, by value, set or clear, and a rounding mode of 5 to 7 is not written. -/
def Sys2Proof.Claims.ControlAccesses : Prop :=
  (∀ (f : KF) (s : State) (k : Ctx), MayRun (.ctlrd f) s k →
    Completes (.ctlrd f) s k (s.unfocused.setWave k.w (k.wv.wrS (KF.D f)
      (BitVec.ofNat 64 (ctlVal (fld f.c 2 0) k s)))))
  ∧ (∀ (s : State) (k : Ctx),
    (∀ i, (ctlVal 1 k s).testBit i
      = (decide (i < 5) && k.waves.any (fun v => ((s.wave? v).map (fun x => x.fcsr.getLsbD i)).getD false)))
    ∧ ctlVal 2 k s = fld k.wv.fcsr 7 5 ∧ ctlVal 0 k s = 32 * ctlVal 2 k s + ctlVal 1 k s
    ∧ ctlVal 3 k s = k.g.hobase.toNat ∧ ctlVal 4 k s = k.l.prvBase.toNat
    ∧ ctlVal 5 k s = (if (s.asid k.asid).allstop then 2 else 0) + (if (s.asid k.asid).debug then 1 else 0)
    ∧ ctlVal 6 k s = k.w.crew.launch % 2 ^ 32)
  ∧ (∀ (f : KF) (s : State) (k : Ctx), MayRun (.ctlwr f) s k → ∃ E, Completes (.ctlwr f) s k E ∧
    OnWaves k s.unfocused E (fun _ x y => y = { x with
      fcsr := ctlWrite (fld f.c 2 0) (fld f.c 5 4) ((opS f k.wv).extractLsb' 0 32) x.fcsr }))
  ∧ ∀ (op : Nat) (b old : Word),
    let nw (o : Word) : Word := match op with | 0 => b | 1 => o ||| b | _ => o &&& ~~~b
    let rm (r : Nat) : Nat := if r < 5 then r else fld old 7 5
    (fld (ctlWrite 0 op b old) 4 0 = fld (nw old) 4 0 ∧ fld (ctlWrite 0 op b old) 7 5 = rm (fld (nw old) 7 5))
    ∧ (fld (ctlWrite 1 op b old) 4 0 = fld (nw (old &&& 31)) 4 0 ∧ fld (ctlWrite 1 op b old) 7 5 = fld old 7 5)
    ∧ (fld (ctlWrite 2 op b old) 4 0 = fld old 4 0
      ∧ fld (ctlWrite 2 op b old) 7 5 = rm (fld (nw (BitVec.ofNat 32 (fld old 7 5))) 2 0))

/-- R268, R424, R429: CYC gives the cycle count of the cluster, and CYC.ROW that of a row of a place's bay; each has passed
by an amount the spec leaves open (log entry 7), a row whose clock was stopped by none. A place that the region does not
have gives all ones. -/
def Sys2Proof.Claims.CycleWords : Prop :=
  (∀ (f : KF) (s : State) (k : Ctx), MayRun (.cyc f) s k → ∃ d, d < 2 ^ 32 ∧
    let n := (s.cluster k.cluster).cycles + BitVec.ofNat 64 d
    Completes (.cyc f) s k ((({ s.unfocused with free := s.free + 1 } : State).setCluster k.cluster
      { s.cluster k.cluster with cycles := n }).setWave k.w (k.wv.wrS (KF.D f) n)))
  ∧ ∀ (f : KF) (s : State) (k : Ctx), MayRun (.cycRow f) s k →
    (k.c.named? (opS f k.wv) = none →
      Completes (.cycRow f) s k (s.unfocused.setWave k.w (k.wv.wrS (KF.D f) (BitVec.allOnes 64))))
    ∧ ∀ p, k.c.named? (opS f k.wv) = some p →
      let row := 4 * p.bay + fld f.c 1 0
      let on := SMap.get (s.cluster p.slice).rowsOn false row
      ∃ d, d < 2 ^ 32 ∧ (on = false → d = 0) ∧
      let n := SMap.get (s.cluster p.slice).rows 0 row + BitVec.ofNat 64 d
      Completes (.cycRow f) s k ((({ s.unfocused with free := if on then s.free + 1 else s.free } : State).setCluster p.slice
        { s.cluster p.slice with
          rows := SMap.set (s.cluster p.slice).rows 0 row n
          rowsOn := SMap.set (s.cluster p.slice).rowsOn false row (s.bayRuns p.slice p.bay) }).setWave k.w
          (k.wv.wrS (KF.D f) n))

/-- CTLRD, CTLWR, CYC and CYC.ROW. -/
def Obligations.ControlWords : Prop := Claims.ControlAccesses ∧ Claims.CycleWords


/-- R183, R194, R195: LAUNCH, WAITEV and SIGEV complete where their access meets no cause. LAUNCH gives DENIED, BADREC, FULL
or QUEUED, in this order of tests, and QUEUED accepts the record; WAITEV goes on when the counter has reached its operand;
SIGEV adds its operand to the counter and gives what the counter held. That a job under a precise stop is DENIED too is the
model's choice (log entry 130). -/
def Obligations.LaunchAndEvents : Prop :=
  (∀ (f : KF) (s s1 : State) (k : Ctx) (p : At), MayRun (.launch f) s k → s.releaseWaits k.cluster k.w 1 = false →
    wordAccess k (k.wv.rdS (KF.A f)).toNat 128 useLoad .thru s.unfocused = (s1, .ok p) →
    let r := s1.readAt k 128 .thru p
    let d := recDwords r.2
    let q := (opS f k.wv).toNat
    let st := r.1.enqStatus k.asid q d
    let u := r.1.released k.cluster
    Completes (.launch f) s k ((if st = 0 then u.accept q d none else u).modWave k.w
      (fun x => x.wrS (KF.D f) (BitVec.ofNat 64 st))))
  ∧ (∀ (s : State) (a q : Nat) (d : List Dword),
    let mine := q < 64 ∧ (SMap.get s.lqOwner 0 q).toNat = a ∧ s.jobOff a = false
    (¬mine → s.enqStatus a q d = 3) ∧ (mine → badRec a d = true → s.enqStatus a q d = 2)
    ∧ (mine → badRec a d = false → 256 ≤ s.queued q → s.enqStatus a q d = 1)
    ∧ (mine → badRec a d = false → s.queued q < 256 → s.enqStatus a q d = 0))
  ∧ (∀ (f : KF) (s s1 : State) (k : Ctx) (p : At), MayRun (.waitev f) s k →
    wordAccess k (k.wv.rdS (KF.A f)).toNat 8 useLoad .past s.unfocused = (s1, .ok p) →
    let r := s1.readAt k 8 .past p
    (opS f k.wv).toNat ≤ r.2 →
    Completes (.waitev f) s k ((r.1.dropL1 k.cluster).modWave k.w (fun x => x.wrS (KF.D f) (BitVec.ofNat 64 r.2))))
  ∧ ∀ (f : KF) (s s1 : State) (k : Ctx) (p : At), MayRun (.sigev f) s k →
    s.releaseWaits k.cluster k.w (if f.x.getLsbD 0 then 2 else 1) = false →
    let a := (k.wv.rdS (KF.A f)).toNat
    wordAccess k a 8 useStore .past s.unfocused = (s1, .ok p) →
    let r := s1.rmwAt k ⟨k.first s, k.w, 0, a, a⟩ 3 (fun o => some ((o + (opS f k.wv).toNat) % 2 ^ 64)) p
    Completes (.sigev f) s k ((r.1.released k.cluster).modWave k.w (fun x => x.wrS (KF.D f) (BitVec.ofNat 64 r.2)))

/-! ### Nodes -/

namespace Sys2Proof.Claims

/-- The nodes that send one value to both targets (R302 to R304). -/
def plainNode : Instr → Option (NDF × (NCtx → State → Dword))
  | .gate n => some (n, fun k _ => k.rd.l)
  | .joinc n => some (n, fun k _ => k.rd.l)
  | .const n => some (n, fun _ _ =>
      if n.w = 0 then n.imm.signExtend 64 else if n.w = 1 then n.imm.setWidth 64 <<< 8 else n.imm.setWidth 64 <<< 40)
  | .ixrd n => some (n, fun k s => BitVec.ofNat 64 (if n.imm.getLsbD 6 then s.iterOf k.c (tagIter k.fr.tag)
      else tagFields k.fr.tag / 2 ^ fld n.imm 5 0 % 2 ^ n.w.toNat))
  | _ => none

/-- R289: the nodes at which an error operand ends the round. -/
def endsOnError : Instr → Bool
  | .lenter _ | .lnext _ | .lexit _ | .calln _ | .retn _ | .eqpn _ | .fend _ => true
  | _ => false

/-- Class 0 node operations with the function that the core word of the same number has (R308). -/
def nodeOps : List (Nat × (Nat → Nat → Nat → Nat → Nat)) :=
  [(0x00, iAdd), (0x01, iSub), (0x04, iMullo), (0x05, iMulhi), (0x06, iMulhn), (0x08, iDiv), (0x09, iDivn), (0x0A, iRem),
   (0x0B, iRemn), (0x0C, iMin), (0x0D, iMax), (0x0E, iMinn), (0x0F, iMaxn), (0x10, iAbs), (0x11, iNeg), (0x12, iAnd),
   (0x13, iOr), (0x14, iXor), (0x15, iAndn), (0x16, iNot), (0x17, iShl), (0x18, iShr), (0x19, iSar), (0x1A, iRol),
   (0x1B, iClz), (0x1C, iPopc), (0x1D, iBrev)]

/-- The chained accesses (R314). -/
def chainNode : Instr → Option (NMF × AKind)
  | .cld n => some (n, .cld)
  | .cst n => some (n, .cst)
  | .catom n => some (n, .catom)
  | .mnop n => some (n, .mnop)
  | _ => none

/-- The entry that a chained access takes (R314, R315). An error operand makes it only fill its position (R289). -/
def chainEntry (n : NMF) (kind : AKind) (k : NCtx) (s : State) : WEntry :=
  { act := ((s.actOf k.c k.p.paddock k.fr.round k.fr.blk k.fr.tag).map (fun a => a.id)).getD 0
    kind := if k.err.isSome then .mnop else kind, seq := n.seq.toNat, pred := n.pred.toNat, succ := n.succ.toNat
    site := n.site.toNat, addr := k.rd.l, size := n.size.toNat, sx := n.sx, aop := n.aop.toNat, data := k.rd.r
    errCode := none, parked := none, released := false, stopped := false, quiet := k.err.isSome, round := k.fr.round
    tag := k.fr.tag, place := k.i, cell := k.fr.cell, frame := k.fr.no, blk := k.fr.blk, slot := k.rd.slot }

/-- The nodes on a buffer or a ring of a memory cell (R324, R329, R330): whether a pass holds what they may not touch, which
nodes they must not overtake, and what they do. -/
def cellNode : Instr → Option (NCF × (NCtx → Bool) × (Instr → Bool) × (NCtx → MCell → McRes))
  | .mcld n => some (n, heldAcc n (.mcld n), fun _ => false, fun k m => mcld n k.rd.l m)
  | .mcst n => some (n, heldBuf n (.mcst n), fun _ => false, fun k m => mcst n k.rd.l k.rd.r m)
  | .mcenq n => some (n, heldBuf n (.mcenq n), enqSame n, fun k m => mcenq n k.rd.l m)
  | .mcdeq n => some (n, heldBuf n (.mcdeq n), deqSame n, fun _ m => mcdeq n m)
  | _ => none

/-- R406: the effect `E` of a firing puts no record behind a full ring. -/
def fitsRing (s : State) (k : NCtx) (E : State) : Prop := ringFits (s.asidOf k.c) s.unfocused E

/-- The loop record with one more frame in flight. -/
def oneMore (r : BitVec 32) : BitVec 32 := loopSet r (loopXd r) (loopInfl r + 1) (loopHeld r)

end Sys2Proof.Claims

/-- R70, R288, R289, R302 to R304, R308: GATE, JOINC, CONST and IXRD send their value to both targets, STEER to the target
that its right operand picks, ERRT an error's code to T1 and a value to T0; a node of classes 0 to 2 sends its result, with
its flags held by the round, or the code of its format fault. An error operand goes on to both targets. -/
def Obligations.NodeValues : Prop :=
  (∀ (i : Instr) (n : NDF) (g : NCtx → State → Dword), plainNode i = some (n, g) → ∀ (s : State) (k : NCtx), MayFire s k →
    (k.err = none → Fires i s k (k.after s.unfocused (k.tokens [n.t0, n.t1] (g k s) false)))
    ∧ ∀ e, k.err = some e → Fires i s k (k.after s.unfocused (k.tokens [n.t0, n.t1] e true)))
  ∧ (∀ (n : NDF) (s : State) (k : NCtx), MayFire s k →
    (k.err = none →
      Fires (.steer n) s k (k.after s.unfocused (k.tokens [if k.rd.r ≠ 0 then n.t0 else n.t1] k.rd.l false)))
    ∧ (∀ e, k.err = some e → Fires (.steer n) s k (k.after s.unfocused (k.tokens [n.t0, n.t1] e true)))
    ∧ Fires (.errt n) s k (k.after s.unfocused (k.tokens [if k.rd.lerr then n.t1 else n.t0] k.rd.l false)))
  ∧ (∀ (n : NAF) (s : State) (k : NCtx), MayFire s k →
    let node := k.tokens [n.t0, n.t1]
    (∀ r, k.err = none → nafValue n k s.unfocused = .ok r → Fires (.arithNodeFire n) s k
      (k.after (s.unfocused.roundFlags k.c k.x k.fr.round (tagIter k.fr.tag) r.2) (node (BitVec.ofNat 64 r.1) false)))
    ∧ (∀ e, k.err = none → nafValue n k s.unfocused = .error e → Fires (.arithNodeFire n) s k
      (k.after (k.note e s.unfocused) (node (BitVec.ofNat 64 e) true)))
    ∧ ∀ e, k.err = some e → Fires (.arithNodeFire n) s k (k.after s.unfocused (node e true)))
  ∧ ∀ (n : NAF) (a b : Nat) (p : Nat × (Nat → Nat → Nat → Nat → Nat)), p ∈ nodeOps → n.op.toNat = p.1 →
    nafInt n a b = perPart n.ty p.2 a b 0

/-- R71, R289, R291, R295 to R297, R305 to R307: LENTER and CALLN enter a frame under the pushed tag, LEXIT and RETN the
parent's block under the popped tag; a tag that does not fit, or a return slot that the block does not have, is a fault; a
new iteration counts against its loop's rein, and one that the rein holds back waits; SINK and EQPN end the round, FEND
frees an idle frame or marks it ending, SENDP gives its round a result. At the nodes that R289 names an error ends the
round. What raises a record does so while the ring has room (R406). -/
def Obligations.NodeFrames : Prop :=
  (∀ (i : Instr) (s : State) (k : NCtx) (e : Dword), endsOnError i = true → MayFire s k → k.err = some e →
    let E := k.endRound none (k.hand e s.unfocused)
    fitsRing s k E → Fires i s k E)
  ∧ (∀ (n : NDF) (s : State) (k : NCtx), MayFire s k → k.err = none → fitsRing s k (k.fault 1 s.unfocused) →
    ((loopAct (k.fr.loop (ndE n)) = false ∨ loopXd (k.fr.loop (ndE n)) = false) → tagPush k.fr.tag n.w.toNat 0 = none →
      Fires (.lenter n) s k (k.fault 1 s.unfocused))
    ∧ (tagPush k.fr.tag n.w.toNat (fld n.imm 23 19) = none → Fires (.calln n) s k (k.fault 1 s.unfocused)))
  ∧ (∀ (n : NDF) (s : State) (k : NCtx) (t : Dword), MayFire s k → k.err = none →
    let r := k.fr.loop (ndE n)
    (loopAct r = false ∨ loopXd r = false) → tagPush k.fr.tag n.w.toNat 0 = some t →
    let first := if loopAct r then r else loopMk true false n.w.toNat (fld n.imm 7 0) 0 false
    let isNew := s.keyKnown k.c k.i (ndBlk n) t = false
    let u := s.unfocused.modLoop k.c k.i (k.fr.cell, k.fr.no) (ndE n) (fun _ => if isNew then oneMore first else first)
    let v := k.after u [.entry (k.ent n (ndBlk n) t (ndDest n) ⟨if ndE n then 2 else 1, some (k.fr.cell, k.fr.no), 0⟩)]
    let w := if isNew then v.childAct k.c k.p.paddock k.fr.round (ndBlk n) t
      (s.actOf k.c k.p.paddock k.fr.round k.fr.blk k.fr.tag) true else v
    Fires (.lenter n) s k (k.after w (k.tokens [n.t0, n.t1] k.rd.l false)))
  ∧ (∀ (n : NDF) (s : State) (k : NCtx) (up : Nat × Nat) (pf : Frame), MayFire s k → k.err = none →
    k.fr.how.parent = some up → s.frameAt k.c k.i up = some pf →
    let t := nextTag k.fr.tag n.w.toNat
    let f := k.ent n k.fr.blk t (ndDest n) ⟨if ndE n then 2 else 1, some up, 0⟩
    let hold (u : State) := u.modCrew k.c (fun x => { x with heldStarts := x.heldStarts ++ [⟨k.i, up, ndE n, f⟩] })
    let w := s.unfocused.modLoop k.c k.i up (ndE n) (fun r => loopSet r (loopXd r) (loopInfl r) true)
    let full := w.bwRaise k.c k.i (.hold f) k.c k.i k.p k.fr.tag k.p.paddock k.fr.blk k.rd.slot
    (s.keyKnown k.c k.i k.fr.blk t = true → Fires (.lnext n) s k
      (k.after (k.after s.unfocused [.entry f]) (k.tokens [n.t0, n.t1] k.rd.l false)))
    ∧ (s.keyKnown k.c k.i k.fr.blk t = false → loopInfl (pf.loop (ndE n)) < loopRein (pf.loop (ndE n)) →
      Fires (.lnext n) s k (k.after (s.unfocused.startIter k.c k.i up (ndE n) f) (k.tokens [n.t0, n.t1] k.rd.l false)))
    ∧ (s.keyKnown k.c k.i k.fr.blk t = false → loopRein (pf.loop (ndE n)) ≤ loopInfl (pf.loop (ndE n)) →
      (bwRoom k.x k.i k.p 32 = true → Fires (.lnext n) s k (k.after (hold w) (k.tokens [n.t0, n.t1] k.rd.l false)))
      ∧ (bwRoom k.x k.i k.p 32 = false → fitsRing s k full →
        Fires (.lnext n) s k (k.after (hold full) (k.tokens [n.t0, n.t1] k.rd.l false)))))
  ∧ (∀ (n : NDF) (s : State) (k : NCtx) (up : Nat × Nat) (pf : Frame), MayFire s k → k.err = none →
    k.fr.how.parent = some up → s.frameAt k.c k.i up = some pf →
    let u := (s.unfocused.modLoop k.c k.i up (ndE n) (fun r => loopSet r true (loopInfl r) (loopHeld r))).modAct k.c
      k.p.paddock k.fr.round k.fr.blk k.fr.tag (fun a => { a with lexit := true })
    let back (slot : Nat) : Flit := .entry (k.ent n pf.blk (tagPop k.fr.tag n.w.toNat) slot ⟨0, none, 0⟩)
    Fires (.lexit n) s k (k.after (k.after u [back (ndDest n)]) (k.tokens [n.t0, n.t1] k.rd.l false))
    ∧ (k.fr.how.rslot + ndDest n < k.kn.blockSize k.p.paddock pf.blk →
      Fires (.retn n) s k (k.after s.unfocused [back (k.fr.how.rslot + ndDest n)]))
    ∧ (k.kn.blockSize k.p.paddock pf.blk ≤ k.fr.how.rslot + ndDest n → fitsRing s k (k.fault 5 s.unfocused) →
      Fires (.retn n) s k (k.fault 5 s.unfocused)))
  ∧ (∀ (n : NDF) (s : State) (k : NCtx) (t : Dword), MayFire s k → k.err = none →
    tagPush k.fr.tag n.w.toNat (fld n.imm 23 19) = some t →
    let v := k.after s.unfocused [.entry (k.ent n (ndBlk n) t (ndDest n) ⟨3, some (k.fr.cell, k.fr.no), fld n.imm 6 0⟩)]
    let w := if s.keyKnown k.c k.i (ndBlk n) t = false then v.childAct k.c k.p.paddock k.fr.round (ndBlk n) t
      (s.actOf k.c k.p.paddock k.fr.round k.fr.blk k.fr.tag) false else v
    Fires (.calln n) s k (k.after w (k.tokens [n.t0, n.t1] k.rd.l false)))
  ∧ (∀ (n : NDF) (s : State) (k : NCtx), MayFire s k →
    let pass (u : State) := k.after u (k.tokens [n.t0, n.t1] k.rd.l k.rd.lerr)
    (k.err = none →
      Fires (.sink n) s k (pass (k.endRound none s.unfocused))
      ∧ Fires (.sendp n) s k (pass (k.resultHops (k.result (fld n.imm 2 0) s.unfocused)))
      ∧ (k.rd.entry = true → Fires (.eqpn n) s k (pass s.unfocused))
      ∧ (k.rd.entry = false → Fires (.eqpn n) s k (pass (k.endRound (some (fld n.imm 11 0)) s.unfocused)))
      ∧ (k.fr.idle = true → Fires (.fend n) s k (freeFrame k.c k.i 58 (k.fr.cell, k.fr.no) s.unfocused))
      ∧ (k.fr.idle = false → Fires (.fend n) s k (s.unfocused.modPlace k.c k.i
          (fun p => p.modFrame k.fr.cell k.fr.no (fun f => { f with ending := true })))))
    ∧ ∀ e, k.err = some e → fitsRing s k (k.hand e s.unfocused) →
      Fires (.sink n) s k (pass (k.endRound none (k.hand e s.unfocused)))
      ∧ Fires (.sendp n) s k (pass (k.hand e s.unfocused)))
  ∧ (∀ (c : CrewId) (x : Crew) (k : NCtx) (s : State) (r : Round) (port : Nat) (n : Option Nat), k.c = c →
    s.crew? c = some x → x.round? k.fr.round = some r → r.committed = false → r.open_ = true →
    k.endRound n s = s.setCrew c { x with rounds := x.rounds.map (fun y =>
        if y.id = k.fr.round ∧ y.open_ = true then { y with open_ := false, eqpn := n } else y) }
    ∧ k.result port s = s.setCrew c { x with rounds := x.rounds.map (fun y => if y.id = k.fr.round then
        { y with results := y.results ++ [⟨k.p.paddock, port, tagIter k.fr.tag, k.rd.l⟩] } else y) })
  ∧ ∀ (t : Dword) (w m : Nat), tagDb t + w ≤ 56 → tagFields t < 2 ^ tagDb t → ∃ u, tagPush t w m = some u
      ∧ tagDb u = tagDb t + w ∧ tagFields u = tagFields t * 2 ^ w + m % 2 ^ w ∧ tagPop u w = tagMk (tagDb t) (tagFields t)

/-- R289, R310, R314, R315, R320, R321, R387, R391, R392: CLD, CST, CATOM and MNOP send their access to the weir; FLD and FST
perform at once where the access meets no cause, at the home channel: a store that no pending store of the cluster touches
does nothing to memory but write its bytes there, and a load that no released one touches reads them; CFENCE passes its
token when no free access that fired before it has still to perform. The model's choices here: an error operand at a chained
node sends its error at once and its access only fills the position (log entry 56), and a node sees the stores of the cluster
that a release has covered, no others (log entry 97). -/
def Obligations.NodeAccesses : Prop :=
  (∀ (i : Instr) (n : NMF) (a : AKind), chainNode i = some (n, a) → ∀ (s : State) (k : NCtx), MayFire s k →
    let send (u : State) := u.modCrew k.c (fun x => { x with
      transit := x.transit ++ [⟨k.p.paddock, chainEntry n a k s⟩] })
    (k.err = none → Fires i s k (send s.unfocused))
    ∧ ∀ e, k.err = some e → Fires i s k (send (k.after s.unfocused (k.tokens [n.t0] e true))))
  ∧ (∀ (n : NMF) (s s1 : State) (k : NCtx) (l : Loc), MayFire s k → k.err = none →
    (s.unfocused.nodeFind (s.asidOf k.c) k.rd.l.toNat (2 ^ n.size.toNat) useLoad = (s1, .at l) →
      let u := s1.countMem k.c (tagIter k.fr.tag) 1
      let r := u.nodeLoad k.x.cluster k.p.slice l (2 ^ n.size.toNat)
      Fires (.fld n) s k (k.after r.2 (k.tokens [n.t0] (BitVec.ofNat 64 (nodeLoadVal n.size.toNat n.sx (leNat r.1))) false)))
    ∧ (s.unfocused.nodeFind (s.asidOf k.c) k.rd.l.toNat (2 ^ n.size.toNat) useStore = (s1, .at l) →
      Fires (.fst n) s k (k.after ((s1.countMem k.c (tagIter k.fr.tag) 1).nodeStore k.x.cluster k.p.slice l
        (leBytes (2 ^ n.size.toNat) k.rd.r.toNat)) (k.tokens [n.t0] k.rd.r false)))
    ∧ ((∀ r ∈ k.p.parked.map Prod.snd ++ k.p.ready, k.freeBefore (k.rd.since.getD s.now) r = false) → Fires (.cfence n) s k (k.after s.unfocused (k.tokens [n.t0] k.rd.l false))))
  ∧ (∀ (n : NMF) (s : State) (k : NCtx) (e : Dword), MayFire s k → k.err = some e →
    let E := k.after s.unfocused (k.tokens [n.t0] e true)
    Fires (.fld n) s k E ∧ Fires (.fst n) s k E ∧ Fires (.cfence n) s k E)
  ∧ ∀ (s : State) (cl sl : Nat) (l : Loc) (bs : List Byte) (n : Nat),
    ((∀ p ∈ (s.cluster cl).stores, sl = cl ∨ p.crew = true → p.touches l bs.length = false) →
      (s.nodeStore cl sl l bs).mem = (s.homeWrite l bs).mem ∧ (s.nodeStore cl sl l bs).lineKey = (s.homeWrite l bs).lineKey
      ∧ (s.nodeStore cl sl l bs).remote = (s.homeWrite l bs).remote
      ∧ (s.nodeStore cl sl l bs).remoteKey = (s.homeWrite l bs).remoteKey)
    ∧ ((∀ p ∈ (s.cluster cl).stores, p.crew = true → p.touches l n = false) →
      (s.nodeLoad cl sl l n).1 = s.homeRead l n ∧ (s.nodeLoad cl sl l n).2.mem = s.mem)

/-- R322 to R324, R329 to R331, R343, R354, R355: MCLD, MCST, MCENQ and MCDEQ do their work on the memory cell and send its
value, or an error's code; AGEN starts a generator from its descriptor over its ring as that is (log entry 103); MXJ puts a
pass into the crew's matrix work; MXOUT converts an accumulator buffer into another buffer. -/
def Obligations.NodeCells : Prop :=
  (∀ (i : Instr) (n : NCF) (held : NCtx → Bool) (same : Instr → Bool) (act : NCtx → MCell → McRes),
    cellNode i = some (n, held, same, act) →
    ∀ (s : State) (k : NCtx), MayFire s k → k.err = none → held k = false → k.behind same s = false →
    (∀ v m, act k (k.p.mc n.mc.toNat) = .ok v m → Fires i s k
      (k.after (s.unfocused.modMc k.c k.i n.mc.toNat (fun _ => m)) (k.tokens [n.t0, n.t1] v false)))
    ∧ ∀ e, act k (k.p.mc n.mc.toNat) = .err e → Fires i s k
      (k.after (k.note e s.unfocused) (k.tokens [n.t0, n.t1] (BitVec.ofNat 64 e) true)))
  ∧ (∀ (n : NCF) (idx val : Dword) (m : MCell), ncRing n = false → m.bound n.buf.toNat = false →
    let b := n.buf.toNat
    let z := ncEsz n
    let i := fld idx 31 0
    (bufElems z ≤ i → mcld n idx m = .err eINDEX ∧ mcst n idx val m = .err eINDEX)
    ∧ (i < bufElems z → m.full.getLsbD b = false → mcld n idx m = .wait)
    ∧ (i < bufElems z → m.full.getLsbD b = true → mcld n idx m
        = .ok (ncVal n (m.rd b (i * z) z)) (if ncClrf n then m.setF b false else m))
    ∧ (i < bufElems z → mcst n idx val m
        = .ok val (if ncSetf n then (m.wr b (i * z) z val.toNat).setF b true else m.wr b (i * z) z val.toNat))
    ∧ (SMap.get m.count 0 b < bufElems z → ∃ t, mcenq n val m = .ok val t
        ∧ SMap.get t.count 0 b = SMap.get m.count 0 b + 1 ∧ SMap.get t.head 0 b = SMap.get m.head 0 b)
    ∧ (0 < SMap.get m.count 0 b → ∃ t, mcdeq n m = .ok (ncVal n (m.rd b (SMap.get m.head 0 b % bufElems z * z) z)) t
        ∧ SMap.get t.count 0 b = SMap.get m.count 0 b - 1
        ∧ SMap.get t.head 0 b = (SMap.get m.head 0 b + 1) % bufElems z))
  ∧ (∀ (n : NCF) (s s1 : State) (k : NCtx) (l : Loc), MayFire s k → k.err = none →
    s.unfocused.nodeFind (s.asidOf k.c) k.rd.l.toNat 64 useLoad = (s1, .at l) →
    let r := s1.nodeLoad k.x.cluster k.p.slice l 64
    let d := (recDwords (leNat r.1)).take 8
    ((k.p.mc n.mc.toNat).gen n.buf.toNat).running = false → descBad (k.p.mc n.mc.toNat) d = false →
    Fires (.agen n) s k (k.after ((r.2.countMem k.c (tagIter k.fr.tag) 2).modMc k.c k.i n.mc.toNat (fun m =>
      m.startGen n.buf.toNat { genOf d with
        running := true, agen := some ⟨k.fr.cell, k.fr.no, k.fr.blk, k.rd.slot, k.fr.round, k.fr.tag⟩ }))
      (k.tokens [n.t0] 0 false)))
  ∧ (∀ (n : NCF) (s : State) (k : NCtx) (g : Geometry), MayFire s k → k.err = none → k.x.geometry = some g →
    let h := k.rd.l
    let col := fld n.arg 5 0
    let b := n.buf.toNat
    col < g.nb → arrayFmt k.x g (hdrFa h) = none → badHeader g (k.p.mc n.mc.toNat) b h k.rd.r = false →
    k.x.fmtWaits (hdrFa h).toNat = false →
    (∀ a ∈ b :: hdrOperand g h ++ hdrScales g h, k.x.bufHeld k.i n.mc.toNat a = false) →
    ∃ i : MxItem, Fires (.mxj n) s k (s.unfocused.modCrew k.c (fun x => { x with mx := x.mx ++ [i] }))
      ∧ i.kind = .feed ⟨k.i, n.mc.toNat, b, ⟨k.fr.cell, k.fr.no, k.fr.blk, k.rd.slot, k.fr.round, k.fr.tag⟩, h, k.rd.r⟩
          (k.x.fmtEntry (hdrFa h).toNat) (hdrFa h).toNat
      ∧ i.target = col ∧ i.rows = hdrM h ∧ i.headRead = false ∧ i.parked = none)
  ∧ ∀ (n : NCF) (s : State) (k : NCtx), MayFire s k → k.err = none →
    let fd : BitVec 6 := n.arg.extractLsb' 0 6
    let w := k.x.fmtEntry fd.toNat
    let ob := fld n.arg 12 9
    let mode := k.mode s.unfocused (fld n.arg 8 6)
    let rs := (List.range 256).map (fun e =>
      roundFmt (fmtOf w) mode (decodeV f32 ((k.p.mc n.mc.toNat).rd n.buf.toNat (4 * e) 4)))
    fmtInvalid k.x fd = none → fmtW w ≤ 32 → k.x.fmtWaits fd.toNat = false →
    k.x.accHeld k.i n.mc.toNat n.buf.toNat = false → k.x.accHeld k.i n.mc.toNat ob = false → (∀ r ∈ rs, r.fault = false) →
    ∃ u, Fires (.mxout n) s k (k.after u (k.tokens [n.t0, n.t1] k.rd.l false))
      ∧ u = ((s.unfocused.modMc k.c k.i n.mc.toNat (fun m => ((List.range 256).zip rs).foldl (fun m (e : Nat × RRes) =>
          m.wr ob (fmtPartW (fmtW w) / 8 * e.1) (fmtPartW (fmtW w) / 8) e.2.pat) m)).roundFlags k.c k.x k.fr.round
          (tagIter k.fr.tag) (rs.foldl (fun fl r => fl ||| r.fl) 0))

/-! ### The fabric at work -/

/-- R259, R264, R265, R269 to R271, R287, R291 to R293, R297: a flit that may arrive. A token reaches its resident frame, and
one whose frame does not exist is a fault; an entry opens a frame or reaches the one of its key; with the bridle's leave
they are accepted. A drain token marks every cell of its place. A flit for a paddock that is swapped out is parked while the
backwater has room, and one for a paddock that does not exist, or has exited, is dropped with an ORPHAN record. What raises
a record does so while the ring has room (R406). That HOP counts when a flit is accepted (log entry 41), and that an entry
which reaches a frame of another round joins it (log entries 40, 55), are the model's choices. -/
def Sys2Proof.Claims.FlitsArrive : Prop :=
  ∀ (s : State) (c : CrewId) (k : Nat) (x : Crew) (kn : Kernel), s.crew? c = some x → s.kernel? c = some kn →
    mayArrive x kn k = true →
    let fits (E : State) : Prop := ringFits (s.asidOf c) s E
    (∀ q i p, x.flight[k]? = some (.drain q i) → x.spot? i = some p → p.state = .resident → exec (.tokenArrive c k) s
      = .next ((s.dropFlit c k).modPlace c i (fun p => { p with drainHere := BitVec.allOnes 16 })))
    ∧ (∀ (t : Tok) i p, x.flight[k]? = some (.token t) → x.goes kn t.place t.paddock = .at i p → p.shut t.cell = false →
      (∀ fr u, p.frame? t.cell t.frame = some fr → fr.resident = true → s.letIn c x i (.token t) p = some u →
        let E := ((u.dropFlit c k).countHops c x (.token t) p).accept2 c kn i p fr t.slot t.port t.err t.value false
        fits E → exec (.tokenArrive c k) s = .next E)
      ∧ (p.frame? t.cell t.frame = none →
        let E := (s.dropFlit c k).nodeFault c p 3 (rootTag (Flit.kj (.token t) x)) t.blk t.slot none
        fits E → exec (.tokenArrive c k) s = .next E))
    ∧ (∀ (e : Ent) i p u, x.flight[k]? = some (.entry e) → x.goes kn e.place e.paddock = .at i p →
      let cell := cellOf e.tag e.blk
      p.shut cell = false → s.letIn c x i (.entry e) p = some u →
      (∀ fr, p.key? e.blk e.tag = some fr → fr.resident = true →
        let v := ((u.dropFlit c k).countHops c x (.entry e) p).enterFrame c i fr e.round
        let E := v.1.accept2 c kn i p v.2 e.slot e.port e.err e.value e.start
        fits E → exec (.frameEntry c k) s = .next E)
      ∧ (∀ v no w, p.key? e.blk e.tag = none → s.cellHeld p.slice p.bay cell = false → getUnit u c i p cell = .ok v →
        freeFrameNo v p cell = (some no, w) →
        let fr : Frame :=
          { cell := cell, no := no, blk := e.blk, tag := e.tag, round := e.round, how := e.how, loop0 := 0, loop1 := 0
            presence := 0, slots := [], errs := 0, joinErr := [], resident := true, ending := false, touched := s.now
            arrived := 0, fired := 0 }
        let E := (((w.dropFlit c k).countHops c x (.entry e) p).modPlace c i (fun p =>
          { p with frames := p.frames ++ [fr] })).accept2 c kn i p fr e.slot e.port e.err e.value e.start
        fits E → exec (.frameEntry c k) s = .next E))
    ∧ ∀ f q, x.flight[k]? = some f → f.aim = some q →
      let both (E : State) : Prop := fits E → exec (.tokenArrive c k) s = .next E
        ∧ ((∃ e, f = .entry e) → exec (.frameEntry c k) s = .next E)
      (x.goes kn q.1 q.2 = .nowhere → both ((s.dropFlit c k).orphan c x f))
      ∧ ∀ i p, x.goes kn q.1 q.2 = .swapped i p → bwRoom x i p 16 = true → both (s.parkFlit c k f q.2 (some i))

/-- R287, R304: a token at a node of one operand makes it ready; the first token of a two-operand node waits in its slot,
and the second makes the node ready with both, the left operand first; a second token in one slot is a node fault and is
not accepted; JOINC counts what its left port gets. A token for a slot without a node, and one at the right port of a
JOINC, changes nothing (the model's choices, log entries 49 and 100). -/
def Sys2Proof.Claims.TokenAccepted : Prop :=
  ∀ (s : State) (c : CrewId) (kn : Kernel) (i : Nat) (p : Place) (f : Frame) (slot : Nat) (port err : Bool) (v : Dword)
    (entry : Bool),
    let put (g : Place → Place) : State := s.modPlace c i (fun p => g (p.modFrame f.cell f.no (fun f =>
      { f with touched := s.now, arrived := min (f.arrived + 1) 65535 })))
    let here := 2 * slot + (if port then 1 else 0)
    let other := 2 * slot + (if port then 0 else 1)
    (kn.node? p.paddock f.blk slot = none → s.accept2 c kn i p f slot port err v entry = s)
    ∧ (∀ n, kn.node? p.paddock f.blk slot = some (.joinc n) → s.accept2 c kn i p f slot port err v entry
      = if port then s else put (joinTok f slot n.imm.toNat err v))
    ∧ ∀ nd, kn.node? p.paddock f.blk slot = some nd → (∀ n, nd ≠ .joinc n) →
    (twoOperand nd = false →
      s.accept2 c kn i p f slot port err v entry = put (fun p => p.enqueue f slot v err 0 false entry))
    ∧ (twoOperand nd = true → f.presence.getLsbD here = true →
      s.accept2 c kn i p f slot port err v entry = s.nodeFault c p 2 f.tag f.blk slot none)
    ∧ (twoOperand nd = true → f.presence.getLsbD here = false → f.presence.getLsbD other = false →
      s.accept2 c kn i p f slot port err v entry = put (fun p => p.modFrame f.cell f.no (fun f => { f with
        presence := setBit f.presence here true, errs := setBit f.errs here err, slots := SMap.set f.slots 0 here v })))
    ∧ (twoOperand nd = true → f.presence.getLsbD here = false → f.presence.getLsbD other = true →
      let w := SMap.get f.slots 0 other
      let e := f.errs.getLsbD other
      s.accept2 c kn i p f slot port err v entry = put (fun p => (p.modFrame f.cell f.no (fun f => { f with
        presence := setBit f.presence other false, errs := setBit f.errs other false
        slots := SMap.set f.slots 0 other 0 })).enqueue f slot
          (if port then w else v) (if port then e else err) (if port then v else w) (if port then err else e) false))

/-- What arrives at a bay, and what its cells do with a token. -/
def Obligations.FlitArrivals : Prop := Claims.FlitsArrive ∧ Claims.TokenAccepted


/-- R261, R263, R264, R269 to R271, R276, R292, R293: a cell chooses among its ready nodes one of the highest firing
priority; a spilled frame comes back; a window of the bridle ends; a cell passes the drain, and the last one makes the
paddock exit; a load completes; a paddock is swapped out and gets a place again. That of several loads of one place all but
the last drain as soon as they are resident is the model's choice (log entry 102). -/
def Obligations.PlaceEvents : Prop :=
  (∀ (s : State) (cl bay cell : Nat),
    let ready (q : CrewId × Nat × Place) (r : Nat × Ready) : Prop := q ∈ s.bayPlaces cl bay ∧ q.2.2.state = .resident
      ∧ s.crewStopped q.1 = false ∧ readyFor s q.1 q.2.2 cell = some r
    s.cellHeld cl bay cell = false → (∀ q ∈ s.bayPlaces cl bay, q.2.2.ctx < 4) → (∃ q r, ready q r) →
    ∃ q r t, ready q r ∧ exec (.nodeChoose cl bay cell) s = .next t ∧ t.focus = .node ⟨q.1, q.2.1, r.2⟩
      ∧ (∀ q' r', ready q' r' → s.placePrio q'.2.2 ≤ s.placePrio q.2.2)
      ∧ t = { s with clusters := t.clusters, crews := t.crews, focus := t.focus })
  ∧ (∀ (s u : State) (c : CrewId) (i cell no : Nat) (x : Crew) (kn : Kernel) (p : Place) (fr : Frame),
    s.crew? c = some x → s.kernel? c = some kn → x.spot? i = some p → p.frame? cell no = some fr → fr.resident = false →
    p.state = .resident → s.cellHeld p.slice p.bay cell = false →
    ((∃ f ∈ x.flight, f.boundFor x kn i = true ∧ f.frame? p = some fr)
      ∨ (fr.ending = false ∧ ∃ r ∈ p.ready, r.cell = fr.cell ∧ r.frame = fr.no)) →
    s.eccHbm (x.imageAt i p fr) 1152 = false →
    getUnit s c i p cell = .ok u → exec (.frameRefill c i cell no) s
      = .next (u.modPlace c i (fun p => p.modFrame cell no (fun f =>
          { f.ofImage (s.physBytes (x.imageAt i p fr) 1152) with resident := true, touched := s.now }))))
  ∧ (∀ (s : State) (c : CrewId) (i : Nat) (x : Crew) (p : Place), s.crew? c = some x → x.spot? i = some p →
    exec (.bridleWindowEnd c i) s = .next (s.modPlace c i (fun p => { p with admitted := [] })))
  ∧ (∀ (s : State) (c : CrewId) (i cell : Nat) (x : Crew) (kn : Kernel) (p : Place), s.crew? c = some x →
    s.kernel? c = some kn → x.spot? i = some p → p.state = .resident → cell < 16 →
    p.draining = true → p.drainHere.getLsbD cell = true → p.passed.getLsbD cell = false → x.quiet kn i p = true →
    x.fedDone i = true → (∀ m, mcellOf cell = some m → p.mcellDone m = true) →
    (∀ r ∈ x.rounds, r.paddock = p.paddock → r.open_ = true ∨ r.committed = true) →
    let t := s.modPlace c i (fun q => { q with passed := setBit p.passed cell true })
    let last (u : State) := if setBit p.passed cell true = BitVec.allOnes 16 then u.exitPaddock c i p else u
    (computeCells.contains cell = false → exec (.cellPass c i cell) s = .next (last t))
    ∧ ∀ u, computeCells.contains cell = true → secureCell p.slice p.bay cell 0 43 t = .ok u →
      exec (.cellPass c i cell) s = .next (last u))
  ∧ (∀ (s : State) (c : CrewId) (i : Nat) (x : Crew) (p : Place) (n : Load) (rest : List Load), s.crew? c = some x →
    x.spot? i = some p → p.next = n :: rest → p.state = .loading →
    let t := s.modPlace c i (fun q => { q with
      state := .resident, draining := n.drain, drainHere := 0, passed := 0, paddock := n.paddock, edge := n.edge
      frames := [], ready := [], fired := s.now, mcells := [], admitted := [], bwCap := s.bwFrames q, bwFull := []
      parked := [], next := rest, named := s.now })
    let u := (t.startRows p.slice p.bay).deliverParks c i (fun k => k.place.isNone && k.paddock == n.paddock)
    let v := if n.drain then u.sendFlit c (.drain (.wave 0 0 noSpot) i) else u
    exec (.paddockLoadComplete c i) s = .next (v.endLoad c i n.paddock))
  ∧ (∀ (s : State) (c : CrewId) (i : Nat) (x : Crew) (r : Region) (p : Place), s.crew? c = some x → x.region = some r →
    r.places[i]? = some p → s.maySwap x r p = true →
    bwRoom x i p (1152 * (p.frames.filter (fun f => f.resident)).length) = true →
    exec (.paddockSwapOut c i) s = .next (s.modPlace c i (fun p => { p with
      state := .swapped, frames := p.frames.map (fun f => { f with resident := false }) })))
  ∧ ∀ (s t : State) (c : CrewId) (pad slice bay ctx : Nat) (x : Crew) (l : Launch) (r : Region) (kn : Kernel)
    (q : Nat × Place), s.crew? c = some x → s.launch? c.launch = some l → x.region = some r → l.kernel = some kn →
    x.takesFreed r kn pad = none → slice < 104 → bay < 16 → s.ctxFor r slice bay = some ctx → s.sliceOk x r slice = true →
    x.swapped? pad = some q → loadRefusal kn l.args (s.cluster x.cluster) pad q.2.sys = none → q.1 < r.granted →
    secureCells slice bay 8 computeCells s = .ok t →
    let E := t.resumeAt c q.1 (slice, bay, ctx) x.prio
    ringFits (s.asidOf c) s E → exec (.paddockResume c pad slice bay) s = .next E

/-- R278, R298, R314, R315, R318, R390, R406: an access takes its entry in the weir, and a store's or an empty access's
token is answered at once; the cursor passes the access it waits for: a store is held, an empty access only goes; a round
commits with its flags, results and stores, after the older rounds of lower iterations and of its chain; of a lane the n-th
FRECV takes the n-th result, and no line of L1 is older than what its round stored. The value of an output-mapped register
is pushed with the result that completes its lanes, and QUNBOUND is raised then (the model's choice, log entry 118). -/
def Sys2Proof.Claims.WeirAndRounds : Prop :=
  (∀ (s : State) (c : CrewId) (k : Nat) (x : Crew) (t : Transit) (ch : Chain), s.crew? c = some x → x.transit[k]? = some t →
    x.chains.find? (fun ch => ch.paddock == t.paddock) = some ch → ch.entries.length < ch.depth →
    let u := s.modCrew c (fun x => { x with transit := x.transit.eraseIdx k })
    let put (v : State) : State := v.modChain c t.paddock (fun ch => { ch with entries := ch.entries ++ [t.entry] })
    let answer (v : State) (d : Dword) : State := if t.entry.quiet then v else v.reply c t.paddock t.entry d false
    (t.entry.kind = .mnop → exec (.weirArrive c k) s = .next (answer (put u) t.entry.addr))
    ∧ ∀ v l, u.nodeFind (u.asidOf c) t.entry.addr.toNat t.entry.sz { t.entry.use with a := false, d := false }
        = (v, .at l) →
      (t.entry.kind = .cst → exec (.weirArrive c k) s = .next (answer (put v) t.entry.data))
      ∧ (t.entry.kind = .cld ∨ t.entry.kind = .catom → exec (.weirArrive c k) s = .next (put v)))
  ∧ (∀ (s : State) (c : CrewId) (pad : Nat) (x : Crew) (kn : Kernel) (ch : Chain) (e : WEntry), s.crew? c = some x →
    s.kernel? c = some kn → x.chains.find? (fun ch => ch.paddock == pad) = some ch → (ch.settled kn).next? = some e →
    s.nodesHeld c = false → s.crewStopped c = false → weirBreaks s c kn e = [] → e.errCode = none →
    let u := s.modChain c pad (fun _ => ch.settled kn)
    let rest := u.dropEntry c pad e
    let fits (E : State) : Prop := ringFits (s.asidOf c) s E
    (e.kind = .mnop → exec (.weirRelease c pad) s = .next (rest.passed c pad kn e))
    ∧ (e.kind = .cst → exec (.weirRelease c pad) s = .next ((u.modChain c pad (fun y =>
        { y with entries := y.entries.erase e ++ [{ e with released := true }] })).passed c pad kn e))
    ∧ (e.kind = .cld → fits (releaseLoad u c x (ch.settled kn) kn e) →
        exec (.weirRelease c pad) s = .next (releaseLoad u c x (ch.settled kn) kn e))
    ∧ (e.kind = .catom → x.oldestRound pad e.round = true → fits (releaseAtom u c x (ch.settled kn) kn e) →
        exec (.weirRelease c pad) s = .next (releaseAtom u c x (ch.settled kn) kn e)))
  ∧ (∀ (s t : State) (c : CrewId) (k : Nat) (x : Crew) (kn : Kernel) (r : Round), s.crew? c = some x →
    s.kernel? c = some kn → x.rounds[k]? = some r → r.open_ = false → r.committed = false →
    s.roundsHeld c r.iter = false → s.crewStopped c = false →
    (∀ q ∈ x.rounds.take k, q.committed = true ∨ (r.iter ≤ q.iter ∧ ¬(q.paddock = r.paddock ∧ x.chained r.paddock = true))) →
    (r.errors ≠ [] → s.ringRoom (s.asidOf c) = true → exec (.roundCommit c k) s = .next (commitErrors s c r))
    ∧ (r.errors = [] → x.walked kn r = true → (r.remount = true → x.freeOpen kn (fun n => n == r.id) = false) →
        performStores c r.paddock (x.heldStores r.paddock r.id) s = .all t →
        let E := (commitRest t c r).endStop (s.asidOf c)
        ringFits (s.asidOf c) s E → exec (.roundCommit c k) s = .next E))
  ∧ (∀ (s : State) (c : CrewId) (r : Round) (x : Crew) (w : Wave), r.remount = false → s.crew? c = some x →
    x.saved = false → s.wave? (kjWave c r.iter) = some w → commitRest s c r = (s.setWave (kjWave c r.iter) (w.orFlags r.flags)).setCrew c
      { x with
        results := x.results ++ r.results
        rounds := x.rounds.map (fun y => if y.id = r.id then { y with committed := true, flags := 0, results := [] } else y) })
  ∧ (∀ (s : State) (c : CrewId) (k : Nat) (x : Crew) (r : Result) (wv : Wave) (q : Nat × Recv), s.crew? c = some x →
    x.saved = false → x.results[k]? = some r →
    (∀ y ∈ x.results.take k, ¬(y.paddock = r.paddock ∧ y.port = r.port ∧ y.iter = r.iter)) →
    s.wave? (kjWave c r.iter) = some wv →
    findAt wv.recvs (fun q => q.paddock == r.paddock && q.port == r.port && q.lane == r.iter % 32) = some q →
    let w := kjWave c r.iter
    let y := { wv with recvs := wv.recvs.eraseIdx q.1 }
    let outs := lateOuts wv y.recvs q.2
    let t := ((s.setWave w (if q.2.pair then y.wrD q.2.reg q.2.lane r.value
      else y.wrV q.2.reg q.2.lane (r.value.setWidth 32))).setCrew c { x with results := x.results.eraseIdx k }).dropL1 x.cluster
    (lateUnbound s w q.2 outs = none → s.pushWaits x.cluster w outs = false →
      exec (.resultDeliver c k) s = .next (t.pushRegs x.cluster w q.2.act outs))
    ∧ ∀ m : Ctx × QMap, lateUnbound s w q.2 outs = some m → exec (.resultDeliver c k) s
      = .next (faultAt m.1 { m.1.report 5 3 .stops (m.1.first s) .terms with aux := m.2.queue } t))
  ∧ ∀ (s : State) (asid : Nat), (∀ c ∈ s.crewsOf asid, ∀ x, s.crew? c = some x → ∀ p ∈ x.roundPads, (x.stopAt p).1 = []) →
    exec (.preciseStop asid) s = .next ((s.crewsOf asid).foldl (fun s c => stopCrew c true s) s)

/-- R316: a quiescent paddock with a gap in its chain raises GAP, and one whose nodes wait on buffers raises MCWAIT for each
of them, as STOPS records. GAP before MCWAIT, the order of the MCWAIT records, and no MCWAIT while a generator or a feed can
go on are the model's choices (log entry 42). -/
def Sys2Proof.Claims.Quiescence : Prop :=
  ∀ (s : State) (c : CrewId) (pad : Nat) (x : Crew) (kn : Kernel) (h : Nat × Place), s.crew? c = some x →
    s.kernel? c = some kn → x.home? pad = some h → x.quiescent kn pad h.1 h.2 (bufWaits c h.1 x h.2 kn s) = true →
    s.nodesHeld c = false → s.crewStopped c = false →
    s.ringRoom (s.asidOf c) = true →
    let w := if genAlive x h.1 h.2 = true ∨ (∃ y ∈ x.mx, y.isFeed = true) then [] else h.2.ready
    (∀ ch e, x.chains.find? (fun ch => ch.paddock == pad) = some ch → ch.gap kn = true → ch.last = some e →
      exec (.paddockQuiescent c pad) s = .next (mcwaitRecords (s.raise (s.asidOf c)
        { s.spatial c 11 8 .stops (tagIter e.tag) pad e.blk e.slot (some e.site) with tag := s.ctxTag c pad e.tag }).1
        c h.2 w))
    ∧ ((∀ ch, x.chains.find? (fun ch => ch.paddock == pad) = some ch → ch.gap kn = false) → w ≠ [] →
      exec (.paddockQuiescent c pad) s = .next (mcwaitRecords s c h.2 w))

/-- The weir, the rounds, and a paddock that comes to rest. -/
def Obligations.WeirEvents : Prop := Claims.WeirAndRounds ∧ Claims.Quiescence


/-- R323, R324, R331, R338 to R343, R345, R350, R351: a generator does its next element, and reports its count when all are
done; an event applies to its cell in the order of its wave; a pass reads its operands at the column head and leaves the
array with its rows written and its flags in its wave. That an event reads its operands and is applied in one step (log
entry 60), that the count comes in a step of its own (log entry 43), and that MEMTX counts an element's sector where it
differs from the last one's (log entry 63) are the model's choices. -/
def Obligations.CellEvents : Prop :=
  (∀ (s s1 : State) (c : CrewId) (i mc gn : Nat) (x : Crew) (p : Place) (m : MCell) (g : Gen) (ref : FireRef) (l : Loc),
    genAt s c i mc gn = some (x, p, m, g) → g.agen = some ref → p.state = .resident → genReady x i mc gn m g = true →
    (s.nodesHeld c = false ∨ s.crewStopped c = true) →
    s.nodeFind (s.asidOf c) (g.addr g.next) (2 ^ g.esz) (if g.dir then useStore else useLoad) = (s1, .at l) →
    let u := s1.countMem c (tagIter ref.tag) (if g.newSector then 1 else 0)
    exec (.generatorStep c i mc gn) s = .next (if g.dir then
        (u.nodeStore x.cluster p.slice l (leBytes (2 ^ g.esz) (genGive g m))).modMc c i mc (genGiven gn g)
      else let q := u.nodeLoad x.cluster p.slice l (2 ^ g.esz); q.2.modMc c i mc (genTake gn g (leNat q.1))))
  ∧ (∀ (s : State) (c : CrewId) (i mc gn : Nat) (x : Crew) (p : Place) (m : MCell) (g : Gen) (ref : FireRef),
    genAt s c i mc gn = some (x, p, m, g) → g.agen = some ref → p.state = .resident → g.over = true →
    exec (.generatorDone c i mc gn) s = .next ((genToken s c i p ref (BitVec.ofNat 64 g.total) false).modMc c i mc
      (fun m => m.stopGen gn g)))
  ∧ (∀ (s : State) (c : CrewId) (k : Nat) (x : Crew) (i : MxItem) (g : Geometry), s.crew? c = some x →
    x.mx[k]? = some i → x.geometry = some g → i.parked = none → x.mxInOrder g k i = true →
    i.mayRead c (s.cluster x.cluster) = true →
    (i.kind = .zero → exec (.weightEventApply c k) s = .next (s.applyEvent c k i.target (fun _ => MxCell.init)))
    ∧ (∀ a w e t bs, i.kind = .weights a w e →
      s.readMem x.cluster (s.asidOf c) a.toNat (16 * clsK g.cls * clsZ g.cls) = (t, .ok bs) →
      exec (.weightEventApply c k) s = .next (t.applyEvent c k i.target (fun y => { y with w := weightsOf g bs, fmt := w })))
    ∧ (∀ a t bs, i.kind = .scales a → s.readMem x.cluster (s.asidOf c) a.toNat (64 * clsBpc g.cls) = (t, .ok bs) →
      exec (.weightEventApply c k) s = .next (t.applyEvent c k i.target (fun y => { y with sc := scalesOf g bs })))
    ∧ (∀ d fa e t ops, i.kind = .pass d fa e → i.headRead = false → x.mxQueued g k i = true →
      passRead s x.cluster (s.asidOf c) g d = (t, .ok ops) →
      exec (.columnHeadRead c k) s = .next (t.headTaken c k i (passOut g fa ops (x.column g i.target)))))
  ∧ (∀ (s t : State) (c : CrewId) (k : Nat) (x : Crew) (i : MxItem) (d : List Dword) (fa : Word) (e : Nat),
    s.crew? c = some x → x.mx[k]? = some i → i.kind = .pass d fa e → i.headRead = true → i.parked = none →
    (∀ y ∈ x.mx.take k, ¬(y.headRead = true ∧ y.target = i.target)) →
    writeRows s c x.cluster k i (d.getD 4 0).toNat 17 i.written = (t, true) →
    exec (.passComplete c k) s = .next ((t.mxFlags c x i).modCrew c (fun x => { x with mx := x.mx.eraseIdx k })))
  ∧ ∀ (g : Geometry) (fa : Word) (i : PassIn) (cells : Nat → MxCell), (passOut g fa i cells).1.length = 16 * i.m
    ∧ ∀ r n, r < i.m → n < 16 → (passOut g fa i cells).1[16 * r + n]? = some (BitVec.ofNat 32
      ((List.range g.kb).foldl (fun p k => cellSum g fa i cells r n k p) (i.cin.getD (16 * r + n) 0, 0)).1)

/-! ### Memory and the copy engine at work -/

/-- R205, R209, R212, R229, R233, R234, R386: a pending store that no older one touches is performed, and no other byte
changes; a unit of a copy lands, or its copy parks; a walk's translation is held; a line is fetched; an unanswered access
times out; a translation is dropped everywhere once no store that used it is pending; firmware accesses physical memory, and
receives what a load or an atomic returns. A read sees the bytes written where it has the key of the write (log entries 94,
125); that a unit of a copy lands whole (log entry 33), that firmware reads HBM in plain text at physical 0 upward (log
entries 2, 94), that one of its accesses that meets an uncorrectable error has no effect (log entry 140), and what its
stores tell of the pages of a channel that retires (log entry 122) are the model's choices. -/
def Obligations.MemoryEvents : Prop :=
  (∀ (s : State) (cl k : Nat) (p : PStore), (s.cluster cl).stores[k]? = some p →
    (∀ q ∈ (s.cluster cl).stores.take k, q.touches p.loc p.bytes.length = false) → s.answers p.loc = true →
    exec (.memoryAccessResponse cl k) s = .next ((s.homeWrite p.loc p.bytes).setCluster cl
      { s.cluster cl with stores := (s.cluster cl).stores.eraseIdx k })
    ∧ ∀ l : Loc, l.rmt ≠ p.loc.rmt ∨ (l.key = p.loc.key ∧ (p.loc.rmt = true ∨ p.loc.pa + p.bytes.length ≤ hbmBytes)) →
      (s.homeWrite p.loc p.bytes).homeByte l = if l.rmt = p.loc.rmt ∧ p.loc.pa ≤ l.pa
        then (p.bytes[l.pa - p.loc.pa]?).getD (s.homeByte l) else s.homeByte l)
  ∧ (∀ (s t : State) (cl k u : Nat) (c : Copy) (bs : List Byte), (s.cluster cl).copies[k]? = some c → c.parked = none →
    u ∈ c.todo → c.mayRead (s.cluster cl) = true → c.unitSrc u / 2 ^ 16 = c.lowPage → landBlocked c s = false →
    s.copyRead cl (s.asidOf c.wave.crew) (c.unitSrc u) = (t, .ok bs) →
    exec (.copyUnitLand cl k u) s = .next (landObj cl c 16 ((t.modCrew c.wave.crew (fun x =>
      { x with crw := Memory.write x.crw (c.dst + 16 * u) bs })).modCopy cl k (fun c =>
        { c with todo := c.todo.filter (fun v => v != u) }))))
  ∧ (∀ (s t : State) (cl k low cause : Nat) (c : Copy), (s.cluster cl).copies[k]? = some c → c.parked = none →
    c.mayRead (s.cluster cl) = true → low ∈ c.todo.map c.unitSrc → (∀ a ∈ c.todo.map c.unitSrc, low ≤ a) →
    s.ringRoom (s.asidOf c.wave.crew) = true → s.copyRead cl (s.asidOf c.wave.crew) low = (t, .error cause) →
    let q := t.raise (s.asidOf c.wave.crew) { c.report cl 7 cause
      (if causeRecoverable cause then .resumable else .stops) with va := low % 2 ^ 55, aux := 16 * c.before low }
    exec (.copyPark cl k) s = .next (q.1.modCopy cl k (fun c => { c with parked := some q.2 })))
  ∧ (∀ (s : State) (cl asid vpn : Nat) (store : Bool),
    (∀ e, s.walk asid (vpn * 2 ^ 16) = .error e → exec (.pageWalk cl asid vpn store) s = .next s)
    ∧ ∀ t, s.walk asid (vpn * 2 ^ 16) = .ok t → (store = false ∨ pteW t.pte = true) →
      let q := s.touch t (if store then useStore else useLoad)
      exec (.pageWalk cl asid vpn store) s = .next (q.1.hold cl (vpn * 2 ^ 16) q.2))
  ∧ (∀ (s t : State) (cl asid line : Nat), aheadOk s cl asid line = true → s.fetchLine cl asid line = (t, .ok ()) →
    exec (.instructionFetch cl asid line) s = .next t)
  ∧ (∀ (s : State) (w : WaveId) (x : Wave), s.wave? w = some x → x.remoteWait = true →
    exec (.remoteTimeout w) s = .next (s.setWave w { x with timedOut := true }))
  ∧ (∀ (s : State) (asid : Nat) (va : BitVec 64),
    let gone (t : Tlb) : Bool := t.serves asid va.toNat
    s.booted = true → (∀ q ∈ s.clusters, ∀ p ∈ q.2.stores, gone p.tlb = false) →
    exec (.invalidationBroadcast asid va) s = .next { s with
      tiles := s.tiles.filterMap (fun q => match q.2.filter (fun t => !gone t) with
        | [] => none
        | l => some (q.1, l))
      clusters := s.clusters.map (fun q => (q.1, { q.2 with tlb := q.2.tlb.filter (fun t => !gone t) })) })
  ∧ ∀ (s : State) (pa n : Nat), pa + n ≤ hbmBytes → s.booted = true →
    let old := Memory.le s.mem pa n
    let left (m : Memory) (out : List Dword) (e : State) : Prop := ∃ ps, e = { s with
        mem := m, fwOut := s.fwOut ++ out, svcPages := ps }
      ∧ ((s.serving && fld s.svcCmd 63 56 == 3) = false → ps = s.svcPages)
    (s.eccHbm pa n = false →
      (∃ e, exec (.ostlerAccess (.load pa n)) s = .next e ∧ left s.mem [BitVec.ofNat 64 old] e)
      ∧ (∀ v, ∃ e, exec (.ostlerAccess (.store pa n v)) s = .next e ∧ left (Memory.setLe s.mem pa n v.toNat) [] e)
      ∧ (∀ aop v, ∃ e, exec (.ostlerAccess (.atomic pa n aop v)) s = .next e
        ∧ left (Memory.setLe s.mem pa n (atomNew aop.toNat (8 * n) old (v.toNat % 2 ^ (8 * n)))) [BitVec.ofNat 64 old] e)
      ∧ ∀ a b, ∃ e, exec (.ostlerAccess (.cas pa n a b)) s = .next e
        ∧ left (if old = a.toNat % 2 ^ (8 * n) then Memory.setLe s.mem pa n b.toNat else s.mem) [BitVec.ofNat 64 old] e)
    ∧ (s.eccHbm pa n = true → exec (.ostlerAccess (.load pa n)) s = .next s
      ∧ (∀ v, exec (.ostlerAccess (.store pa n v)) s = .next s)
      ∧ (∀ aop v, exec (.ostlerAccess (.atomic pa n aop v)) s = .next s)
      ∧ ∀ a b, exec (.ostlerAccess (.cas pa n a b)) s = .next s)

/-! ### The dispatcher, firmware and the module at work -/

namespace Sys2Proof.Claims

/-- R196: launch `n` is over from state `s`: its pending stores to this module are performed, and DONE, where it has one,
rises by 1 at its home channel, which the access reaches. -/
def launchOver (s : State) (n : Nat) (l : Launch) (e : State) : Prop :=
  let t := s.settleLaunch n
  (l.dw 13 = 0 → e = { t with launches := Tab.drop t.launches n })
  ∧ (l.dw 13 ≠ 0 → ∃ v loc, t.devAt l.asid (l.dw 13).toNat 8 useStore = (v, .ok loc) ∧
      let u := v.homeWrite loc (leBytes 8 ((leNat (v.homeRead loc 8) + 1) % 2 ^ 64))
      e = { u with launches := Tab.drop u.launches n })

/-- R196: DONE of a launch that is over from state `s` is none, or is reached. -/
def doneReached (s : State) (n : Nat) (l : Launch) : Prop :=
  l.dw 13 = 0 ∨ ∃ v loc, (s.settleLaunch n).devAt l.asid (l.dw 13).toNat 8 useStore = (v, .ok loc)

/-- R19, R188, R454: crew `l.placed` of a launch has been made on a cluster: the crew, its gangs, whose records lie 65,664
bytes apart (log entry 143), and the launch, which has one more crew placed; memory is as it was. -/
def crewMade (s : State) (p : Placement) (l : Launch) (kn : Kernel) (t : State) : Prop :=
  t.crew? ⟨p.launch, l.placed⟩ = some (Crew.start p.cluster (l.crewGangs l.placed) l.eff (s.asid l.asid).debug
      (kn.formats.foldl (fun m f => SMap.set m 0 f.1 (f.2 ||| 0x80000000)) []) p.ctxBase p.undoBase p.bwBase)
  ∧ (∃ q st, t.launch? p.launch = some { l with placed := l.placed + 1, inQueue := q, state := st }
      ∧ (st = .placed ↔ l.ncrews ≤ l.placed + 1) ∧ (q = true ↔ l.inQueue = true ∧ l.placed + 1 < l.ncrews))
  ∧ (∀ g, g < l.crewGangs l.placed → t.gang? ⟨⟨p.launch, l.placed⟩, g⟩
      = some { Gang.start l.form (p.hoBase + BitVec.ofNat 64 (65664 * g)) with halted := (s.asid l.asid).halt, intLive := 0 })
  ∧ t.mem = s.mem ∧ t.asids = s.asids

/-- The chains that can bind on a cluster (R313). -/
def chainsThere (s : State) (p : Placement) (kn : Kernel) : List Nat :=
  kn.firstPads.filter (fun i => !kn.tooDeep (s.cluster p.cluster) i)

end Sys2Proof.Claims

/-- R185 to R188, R196, R199, R243, R260, R446: the dispatcher reads the counters of a launch in order, and a launch whose
counters reach their thresholds is ready, or over when it has no iteration; it reads the argument block once a crew is
placed; it places the next crew of the launch whose turn it is, with its gangs, in spatial form with its region, whose
paddocks are loaded once the block has been read; a waiting launch ages, to 15 at most; a latched trigger enqueues the bound
launch or raises LAUNCH; a crew with no work left retires, and the last one adds 1 to DONE. The model's choices here: all
the counters of a launch are read in one step (log entry 69), a gang placed while HALT is 1 starts halted (log entry 70),
and the records of a crew's gangs lie 65,664 bytes apart (log entry 143). -/
def Obligations.DispatcherEvents : Prop :=
  (∀ (s t : State) (n : Nat) (l : Launch), s.launch? n = some l → l.state = .waiting → l.held = none →
    s.jobOff l.asid = false →
    (readPrereqs l.asid l.prereqs s = (t, .ok false) → exec (.launchPrereqRead n) s = .next t)
    ∧ (readPrereqs l.asid l.prereqs s = (t, .ok true) → l.niter ≠ 0 →
      exec (.launchPrereqRead n) s = .next (t.setLaunch n { l with state := .ready }))
    ∧ (readPrereqs l.asid l.prereqs s = (t, .ok true) → l.niter = 0 → doneReached t n l →
      ∃ e, exec (.launchPrereqRead n) s = .next e ∧ launchOver t n l e))
  ∧ (∀ (s t : State) (n : Nat) (l : Launch) (bs : List Byte), s.launch? n = some l → l.argsRead = false → l.held = none →
    s.jobOff l.asid = false → l.placed ≠ 0 →
    let fits (E : State) : Prop := ringFits l.asid s E
    (l.dw 4 = 0 → fits (s.argsDone n l []) → exec (.argumentBlockRead n) s = .next (s.argsDone n l []))
    ∧ (l.dw 4 ≠ 0 → readArgs l.asid (l.dw 4).toNat 512 s = (t, .ok bs) → fits (t.argsDone n l bs) →
        exec (.argumentBlockRead n) s = .next (t.argsDone n l bs))
    ∧ (l.form ≠ 2 → ∀ u : State,
        u.argsDone n l bs = u.setLaunch n { l with args := Memory.write [] 0 bs, argsRead := true }))
  ∧ (∀ (s : State) (p : Placement) (l : Launch) (kn : Kernel), s.launch? p.launch = some l → s.placing l = true →
    s.behind p.launch l = false → p.ctxBase.toNat % 65536 = 0 → p.hoBase.toNat % 128 = 0 → p.prvBase.toNat % 65536 = 0 →
    p.cluster < 104 → (∀ o, l.only = some o → o = p.cluster) → l.kernel = some kn →
    (s.cluster p.cluster).isOff = false → s.retiring p.cluster = false →
    s.coreFits p.cluster (l.crewGangs l.placed) kn = true → queuesFit (s.cluster p.cluster) l.asid kn.queues = true →
    ∃ t x, crewMade s p l kn t ∧ t.crew? ⟨p.launch, l.placed⟩ = some x
      ∧ (l.form ≠ 2 → exec (.crewPlacement p) s = .next t)
      ∧ ∀ u, l.form = 2 → t.placeRegion ⟨p.launch, l.placed⟩ (chainsThere t p kn) = some u →
        (l.argsRead = false → exec (.crewPlacement p) s = .next u)
        ∧ (l.argsRead = true →
          (∀ v, u.startRegion ⟨p.launch, l.placed⟩ x = .ok v → exec (.crewPlacement p) s = .next v)
          ∧ ∀ v, u.startRegion ⟨p.launch, l.placed⟩ x = .refused v → exec (.crewPlacement p) s = .next
              ((v.dropCrew ⟨p.launch, l.placed⟩ x kn).setLaunch p.launch { l with state := .stopped })))
  ∧ (∀ (s : State) (c : CrewId) (x : Crew),
    (∀ t, s.loadRegion c = .ok t → s.startRegion c x = .ok ((x.gangIds c).foldl (fun s i => s.startSpatial i) t))
    ∧ (∀ t, s.loadRegion c = .refused t → s.startRegion c x = .refused t))
  ∧ (∀ (s : State) (i : GangId) (k : GCtx) (n : Nat), gctx? s i = some k → k.kn.startPoint? = some n → hdrEcc k s = none →
    s.startSpatial i = startTokens k n (itersOf (s.live i)) ((writeHeader k n 2 (s.live i) 0 0 s).modGang i (fun g =>
      { g with interval := some n, intForm := 2, intLive := popc (s.live i), ev := some n })))
  ∧ (∀ (s : State) (n : Nat) (l : Launch), s.launch? n = some l → s.ageb ≠ 0 → l.state = .ready →
    exec (.agingPeriod n) s = .next (s.setLaunch n { l with eff := min 15 (l.eff + 1) }))
  ∧ (∀ (s : State) (cl q : Nat) (d : List Dword) (n : Nat), (s.queue cl q).handler = some (d, n) → (s.queue cl q).trig ≠ 0 →
    let t := s.setQueue cl q { s.queue cl q with trig := (s.queue cl q).trig - 1 }
    (s.enqStatus (s.queue cl q).asid n d = 0 → exec (.triggerConsume cl q) s = .next (t.accept n d (some cl)))
    ∧ (s.enqStatus (s.queue cl q).asid n d ≠ 0 → s.enqStatus (s.queue cl q).asid n d ≠ 1 →
      s.ringRoom (s.queue cl q).asid = true →
      exec (.triggerConsume cl q) s = .next (t.raise (s.queue cl q).asid { kind := 8, cluster := cl, aux := 4 }).1))
  ∧ ∀ (s : State) (c : CrewId) (x : Crew) (l : Launch) (kn : Kernel), s.crew? c = some x → s.launch? c.launch = some l →
    l.kernel = some kn → s.allRetired c = true → s.jobOff l.asid = false → (∀ k ∈ x.parks, x.lost k = false) →
    s.drained c x kn = true →
    let t := (s.dropCrew c x kn).setLaunch c.launch { l with gone := l.gone + 1 }
    (l.gone + 1 < l.ncrews ∨ l.placed < l.ncrews → exec (.crewRetire c) s = .next t)
    ∧ (l.gone + 1 = l.ncrews → l.placed = l.ncrews → doneReached t c.launch l →
        ∃ e, exec (.crewRetire c) s = .next e ∧ launchOver t c.launch l e)

/-- R407 to R415, R418, R453: firmware's answer to a record lets the wave that it holds go on, and changes nothing when it
holds no party, or where the job has stopped (the model's choice, log entry 116); what it holds of a launch is tried again,
and the decision of a spatial gang that it held is taken; STOP ends a job that has no spatial work, and of a job with crews
it discards the stopping rounds and the younger ones, stays until the older ones have committed, and ends at once where one
of them never does (`HeldWaves` says that the waves of such a job issue nothing, and `PlaceEvents` that its places fire
nothing once it has stopped); the debugger halts every gang of a job, and all but those of a BREAK go on (the model's choice, log entry 76); a request
marks the crew that it names; a crew is saved to its context area, with its parked copies, and restored from it: the
registers of its waves that R413 lays out, the entries of its format table, and its memory. -/
def Obligations.FirmwareEvents : Prop :=
  (∀ (s : State) (a : Nat) (q : BitVec 32), s.booted = true → s.holds a q = false →
    exec (.resume a q) s = .next s ∧ exec (.stop a q) s = .next s)
  ∧ (∀ (s : State) (a : Nat) (q : BitVec 32), s.booted = true → (s.asid a).stopped = true → exec (.resume a q) s = .next s)
  ∧ (∀ (s : State) (a : Nat) (q : BitVec 32), s.booted = true → s.holds a q = true → (s.asid a).stopped = false →
    (∀ l ∈ s.launches, l.2.held ≠ some q) → (∀ g ∈ s.gangs, g.2.due = none) →
    ∃ t, exec (.resume a q) s = .next t ∧ t = { s with
        waves := t.waves, gangs := t.gangs, crews := t.crews, clusters := t.clusters, free := t.free }
      ∧ (∀ w x, s.wave? w = some x → t.wave? w = some (if x.pending = some q ∧ (∃ l, s.launch? w.crew.launch = some l ∧ l.asid = a)
          then { x with pending := none, stall := .ready } else x))
      ∧ ∀ i g, s.gang? i = some g → t.gang? i = some (if s.asidOf i.crew = a ∧ g.brk = some q
          then { g with brk := none, halted := (s.asid a).halt } else g))
  ∧ (∀ (s : State) (a : Nat) (q : BitVec 32), s.booted = true → s.holds a q = true → (s.asid a).stopped = false →
    ∃ u : State, exec (.resume a q) s = .next ((u.releaseLaunches a q).decideSpatial a) ∧ u = { s with
        waves := u.waves, gangs := u.gangs, crews := u.crews, clusters := u.clusters, free := u.free }
      ∧ ∀ w x, s.wave? w = some x → u.wave? w = some (if x.pending = some q ∧ (∃ l, s.launch? w.crew.launch = some l ∧ l.asid = a)
          then { x with pending := none, stall := .ready } else x))
  ∧ (∀ (u : State) (a : Nat) (q : BitVec 32) (n : Nat) (l : Launch),
    u.launches.filter (fun l => l.2.asid == a && l.2.held == some q) = [(n, l)] →
    let v := u.setLaunch n { l with held := none }
    u.releaseLaunches a q = if l.state = .retiring then v.retireLaunch n { l with held := none } else v)
  ∧ (∀ (u : State) (a : Nat) (i : GangId) (g : Gang) (pre : List (GangId × Gang)), u.gangs = pre ++ [(i, g)] →
    u.gang? i = some g → u.asidOf i.crew = a → g.form = 2 → g.due.isSome = true →
    (∀ h ∈ pre, ∀ x, u.gang? h.1 = some x → u.asidOf h.1.crew ≠ a ∨ x.form ≠ 2 ∨ x.due = none) →
    u.decideSpatial a = u.tryDecide i)
  ∧ (∀ (s : State) (a : Nat) (q : BitVec 32), s.booted = true → s.holds a q = true → s.crewsOf a = [] →
    exec (.stop a q) s = .next ((s.modAsid a (fun x => { x with stopping := true })).endStop a))
  ∧ (∀ (s : State) (a : Nat) (q : BitVec 32), s.booted = true → s.holds a q = true → s.NamesOnce →
    let never : Prop := ∃ c x, s.crew? c = some x ∧ s.asidOf c = a ∧ x.neverEnds = true
    (never → exec (.stop a q) s = .next (s.stopJob a))
    ∧ (¬never → ∃ t, exec (.stop a q) s = .next t ∧ t = { s with asids := t.asids, crews := t.crews }
      ∧ (∀ b, b ≠ a → t.asid b = s.asid b)
      ∧ ((t.asid a = { s.asid a with stopping := false, stopped := true }
          ∧ ∀ c x, t.crew? c = some x → s.asidOf c = a → ∀ r ∈ x.rounds, r.committed = true ∨ x.chained r.paddock = false)
        ∨ (t.asid a = { s.asid a with stopping := true }
          ∧ ∃ c x r, t.crew? c = some x ∧ s.asidOf c = a ∧ r ∈ x.rounds ∧ r.committed = false ∧ x.chained r.paddock = true))
      ∧ ∀ c x, s.crew? c = some x → ∃ y, t.crew? c = some y
        ∧ (s.asidOf c ≠ a → y = x)
        ∧ (s.asidOf c = a → let gone := x.roundPads.flatMap (fun p => (x.stopAt p).2.map (fun r => r.id))
          y = x.discard gone ∧ y.rounds = x.rounds.filter (fun r => !gone.contains r.id)
          ∧ y.fops = x.fops ∧ y.mx = x.mx ∧ y.results = x.results ∧ y.crw = x.crw)))
  ∧ (∀ (s : State) (a : Nat), s.booted = true → ∃ t, exec (.halt a) s = .next t ∧ t = { s with asids := t.asids, gangs := t.gangs }
    ∧ t.asid a = { s.asid a with halt := true } ∧ (∀ b, b ≠ a → t.asid b = s.asid b)
    ∧ ∀ i g, s.gang? i = some g → t.gang? i = some (if s.asidOf i.crew = a then { g with halted := true } else g))
  ∧ (∀ (s : State) (a : Nat), s.booted = true → (∀ g ∈ s.gangs, g.2.due = none) →
    ∃ t, exec (.resumeGangs a) s = .next t ∧ t = { s with asids := t.asids, gangs := t.gangs }
    ∧ t.asid a = { s.asid a with halt := false } ∧ (∀ b, b ≠ a → t.asid b = s.asid b)
    ∧ ∀ i g, s.gang? i = some g → t.gang? i = some (if s.asidOf i.crew = a ∧ g.brk = none
        then { g with halted := false } else g))
  ∧ (∀ (s : State) (c : CrewId) (n : Nat) (g : Gang) (f : Option (BitVec 2)), s.booted = true → s.gang? ⟨c, n⟩ = some g →
    (∀ i x, s.gang? i = some x → x.due = none) →
    exec (.gangResume c n f) s = .next (s.setGang ⟨c, n⟩ { g with
      halted := false, brk := none, dbgForm := match f with | none => g.dbgForm | some f => if f = 3 then none else some f }))
  ∧ (∀ (s : State) (a : Nat) (v : Dword), s.booted = true → ∃ t, exec (.preemptRequest a v) s = .next t ∧ t = { s with crews := t.crews }
    ∧ ∀ c x, s.crew? c = some x → t.crew? c = some
        (if s.asidOf c = a ∧ x.cluster = fld v 6 0 ∧ c.crew = fld v 47 8 ∧ x.saved = false then { x with preempt := true } else x))
  ∧ (∀ (s : State) (c : CrewId) (x : Crew), s.crew? c = some x → (s.cluster x.cluster).tslice ≠ 0 → x.saved = false →
    s.wanted c x = true → exec (.sliceTimerExpiry c) s
      = .next (if s.disturbed c then s else s.setCrew c { x with preempt := true }))
  ∧ (∀ (s : State) (c : CrewId) (x : Crew) (kn : Kernel), s.crew? c = some x → s.kernel? c = some kn → x.preempt = true →
    x.saved = false → s.jobOff (s.asidOf c) = false → s.saveReady c x = true →
    s.eccCrw c 0 kn.crw = false →
    let mine (k : Copy) : Bool := k.wave.crew == c
    let cs := (s.cluster x.cluster).copies
    ∃ t, exec (.crewSave c) s = .next t
      ∧ t = { s with mem := t.mem, free := t.free, crews := t.crews, clusters := t.clusters }
      ∧ t.crew? c = some { x with
          saved := true, preempt := false, moving := s.retiring x.cluster, copies := x.copies ++ cs.filter mine }
      ∧ (∀ d, d ≠ c → t.crew? d = s.crew? d)
      ∧ (t.cluster x.cluster) = { s.cluster x.cluster with copies := cs.filter (fun k => !mine k) }
      ∧ ∀ a, (a < x.ctxBase.toNat ∨ (x.ngangs ≤ 8 ∧ (cs.filter mine).length ≤ 256
            ∧ x.ctxBase.toNat + 0xE4A00 + 128 * kn.vregs * 64 + kn.crw ≤ a)) →
          Memory.byte t.mem a = Memory.byte s.mem a)
  ∧ ∀ (s : State) (c : CrewId) (x : Crew) (kn : Kernel), s.crew? c = some x → s.kernel? c = some kn → x.saved = true →
    s.restoreFits c x kn = true → s.retiring x.cluster = false →
    s.eccHbm x.ctxBase.toNat (0xE4A00 + 128 * kn.vregs * 64 + kn.crw) = false →
    ∃ t y, exec (.crewRestore c) s = .next t
      ∧ t = { s with waves := t.waves, crews := t.crews, clusters := t.clusters } ∧ t.crew? c = some y
      ∧ y = { x with saved := false, preempt := false, moving := false, copies := [], fmt := y.fmt, crw := y.crw }
      ∧ (∀ n, 8 ≤ n → n < 64 → SMap.get y.fmt 0 n
          = restoredFmt (BitVec.ofNat 32 (s.physLe (x.ctxBase.toNat + 0x100 + 4 * n) 4)))
      ∧ (∀ a, a < kn.crw → Memory.byte y.crw a = s.physByte (x.ctxBase.toNat + 0xE4A00 + 128 * kn.vregs * 64 + a))
      ∧ (t.cluster x.cluster) = { s.cluster x.cluster with copies := (s.cluster x.cluster).copies ++ x.copies, l1 := [], l1Past := false }
      ∧ ∀ (g v : Nat) (z : Wave), g < x.ngangs → v < 8 → s.wave? ⟨c, g, v⟩ = some z →
          let b := x.ctxBase.toNat + 0x4A00 + 0x800 * (8 * g + v)
          let w32 (o : Nat) : Word := BitVec.ofNat 32 (s.physLe (b + o) 4)
          ∃ u, t.wave? ⟨c, g, v⟩ = some u ∧ u.pc = w32 0 ∧ u.mask = w32 8 ∧ u.exited = w32 0xC ∧ u.rpm = w32 0x10
            ∧ u.fcsr = w32 0x14 &&& 0xFF
            ∧ (∀ i, 0 < i → i < 64 → u.rdS i = BitVec.ofNat 64 (s.physLe (b + 0x100 + 8 * i) 8))
            ∧ ∀ i, 0 < i → i < 8 → u.rdM i = w32 (0x300 + 4 * i)

/-- R416, R436, R442 to R445: gating, the power cap, the curb, the operations of live service, and the install of a key. A
gate request for a cluster that is not idle changes nothing (the model's choice, log entry 83). -/
def Obligations.ModuleEvents : Prop :=
  (∀ (s : State) (cl : Nat), cl < 104 → s.booted = true →
    exec (.gateRequest cl) s = .next (if (s.cluster cl).gate = .open_ ∧ s.idle cl = true
      then s.modCluster cl (fun c => { c with gate := .request }) else s)
    ∧ ((s.cluster cl).gate = .request → exec (.gateCommit cl) s
      = .next (s.modCluster cl (fun c => { c with gate := if s.idle cl then .gated else .open_ })))
    ∧ (∃ t, exec (.gateWake cl) s = .next t ∧ t = { s with clusters := t.clusters }
      ∧ (t.cluster cl).gate = if (s.cluster cl).gate = .gated ∨ (s.cluster cl).gate = .waking then .waking else .open_)
    ∧ ((s.cluster cl).gate = .waking → exec (.clusterWake cl) s = .next (s.modCluster cl (fun c => { c with gate := .open_ }))))
  ∧ (∀ (s : State) (mw : Nat), let cap := 1000 * s.pcap.toNat
    exec (.powerWindow mw) s = .next { s with power := BitVec.ofNat 64 (min mw cap), throttle := decide (cap < mw) })
  ∧ (∀ (s : State) (al : BitVec 3),
    (al ≠ 0 → exec (.curbEngage al) s = .next { s with
      curbAlarms := s.curbAlarms ||| al, curbOn := true, curbClear := false
      curbCount := if s.curbOn = true ∨ s.curbCount = 0xFFFFFFFF then s.curbCount else s.curbCount + 1 })
    ∧ exec (.curbAlarmClear al) s = .next { s with
        curbAlarms := s.curbAlarms &&& ~~~al, curbClear := s.curbOn && (s.curbAlarms &&& ~~~al == 0) }
    ∧ (s.curbOn = true → s.curbClear = true → exec .curbLift s = .next { s with curbOn := false, curbClear := false }))
  ∧ (∀ (s : State), s.booted = true → s.serving = true → ∀ n ok, exec (.update n ok) s = .next s ∧ exec (.retireCluster n) s = .next s
    ∧ exec (.retireChannel n ok) s = .next s ∧ exec (.retrain n) s = .next s ∧ exec (.recal n) s = .next s)
  ∧ (∀ (s : State) (n : Nat) (ok : Bool), s.booted = true → s.serving = false →
    (n < 16 → let peer := if n % 2 = 0 then n + 1 else n - 1
      exec (.update n ok) s = .next (if ok = true ∧ s.canVerify = true ∧ s.ostlers.getLsbD peer = false
        then { s with svcCmd := svcWord 1 n 0, svcStat := .running, ostlers := setBit s.ostlers n true }
        else { s with svcCmd := svcWord 1 n 0, svcStat := .refused }))
    ∧ (n < 104 → s.spareUsed.getLsbD (n / 13) = true →
      exec (.retireCluster n) s = .next { s with svcCmd := svcWord 2 n 0, svcStat := .refused })
    ∧ (n < 104 → s.spareUsed.getLsbD (n / 13) = false → ∃ t, exec (.retireCluster n) s = .next t
      ∧ t = { s with svcCmd := svcWord 2 n 0, svcStat := if s.sysHeld n then .waitSys else .running, crews := t.crews }
      ∧ ∀ c x, s.crew? c = some x →
          t.crew? c = some (if x.cluster = n ∧ x.saved = false then { x with preempt := true } else x))
    ∧ (n < 256 → exec (.retireChannel n ok) s = .next { s with
        svcCmd := svcWord 3 n 0, svcStat := if ok then .running else .refused
        svcPages := if ok then s.homedPages n else [] })
    ∧ (n < 8 → ∃ v, exec (.retrain n) s = .next { s.fresh.2 with
        svcCmd := svcWord 4 n 0, svcStat := .running, linkStat := SMap.set s.linkStat 0 n v })
    ∧ (n < 2 → exec (.recal n) s = .next { s with svcCmd := svcWord 5 n 0, svcStat := .running }))
  ∧ (∀ (s : State), s.serving = true →
    (fld s.svcCmd 63 56 = 1 → exec .serviceComplete s
      = .next { s with ostlers := setBit s.ostlers (fld s.svcCmd 55 48) false, svcStat := .done })
    ∧ (fld s.svcCmd 63 56 = 2 → s.movedOut (fld s.svcCmd 55 48) = true →
      (∀ q ∈ s.movers (fld s.svcCmd 55 48),
        ringFits (s.asidOf q.1) s { s.moveIn (fld s.svcCmd 55 48) with svcStat := .done }) → exec .serviceComplete s
      = .next { s.moveIn (fld s.svcCmd 55 48) with svcStat := .done })
    ∧ (fld s.svcCmd 63 56 ≠ 2 → (fld s.svcCmd 63 56 = 3 → s.pagesMoved (fld s.svcCmd 55 48) = true) →
      ∃ t, exec .serviceComplete s = .next t ∧ t.svcStat = .done ∧ t.mem = s.mem
      ∧ t.waves = s.waves ∧ t.crews = s.crews))
  ∧ ∀ (s : State) (k : BitVec 12), s.booted = true → exec (.keyInstall k) s = .next (if s.keyInUse k.toNat = true
      then { s with keyIdx := k, keyBusy := true }
      else { s with keyIdx := k, keyBusy := false, keys := SMap.set s.keys 0 k.toNat (Config.unwrapKey s.keyBits) })

namespace Sys2Proof.Claims

/-- The constructor of a known command of a connection, with its OPC and the payload's doublewords (R433). -/
def commandOf (conn : Conn) (h : Header) (p : List Dword) : Instr → Option (Nat × Nat)
  | .hostLaunch k g q => if k = conn ∧ g = h ∧ q = p then some (1, 16) else none
  | .subscribe k g q => if k = conn ∧ g = h ∧ q = p then some (2, 0) else none
  | .hostStop k g q => if k = conn ∧ g = h ∧ q = p then some (3, 0) else none
  | .release k g q => if k = conn ∧ g = h ∧ q = p then some (4, 0) else none
  | .atomic k g q => if k = conn ∧ g = h ∧ q = p then some (5, 0) else none
  | _ => none

end Sys2Proof.Claims

/-- R194, R220, R402, R409, R433 to R436, R441: a known command is answered with BADCMD or DENIED or has its effect and its
reply; a SUBSCRIBE to a counter is kept while fewer than 1,024 are, and MEMFAULT answers one whose address does not
translate; a module that has not booted answers none; an unknown command is answered with BADCMD; a counter that has reached its
threshold sends one EVENT; a closed connection loses its own subscriptions to fault notices. BADCMD goes before DENIED and
the command's own causes (log entry 31), and a closed connection keeps its counter subscriptions (log entry 86). -/
def Obligations.HostCommands : Prop :=
  (∀ (s : State) (conn : Conn) (h : Header) (p : List Dword) (i : Instr) (opc n : Nat),
    commandOf conn h p i = some (opc, n) → Header.opc h = opc →
    (s.booted = false → exec i s = .next s)
    ∧ (s.booted = true → badCmd h p.length n = true → exec i s = .next (s.complete conn h 5 0))
    ∧ (s.booted = true → badCmd h p.length n = false → s.mayCommand conn.key (Header.asid h) = false →
      exec i s = .next (s.complete conn h 3 0)))
  ∧ (∀ (s : State) (conn : Conn) (h : Header) (p : List Dword), s.booted = true → s.mayCommand conn.key (Header.asid h) = true →
    let a := Header.asid h
    (Header.opc h = 1 → badCmd h p.length 16 = false →
      let st := if (s.asid a).log2n = 0 then 3 else s.enqStatus a (Header.queue h) p
      exec (.hostLaunch conn h p) s
        = .next ((if st = 0 then s.accept (Header.queue h) p none else s).complete conn h st 0))
    ∧ (Header.opc h = 2 → badCmd h p.length 0 = false →
      (h.d1 = 0 → exec (.subscribe conn h p) s = .next (if 1024 ≤ s.subs.length then s.complete conn h 1 0 else
        State.complete { s with subs := s.subs ++ [⟨conn, a, h.d1, h.d2, Header.ctag h⟩] } conn h 0 0))
      ∧ (h.d1 ≠ 0 → h.d1.toNat % 8 ≠ 0 → exec (.subscribe conn h p) s = .next (s.complete conn h 4 0))
      ∧ ∀ t (r : Except Nat Loc), h.d1 ≠ 0 → h.d1.toNat % 8 = 0 → s.devAt a h.d1.toNat 8 useLoad = (t, r) →
        exec (.subscribe conn h p) s = .next (match r with
          | .error _ => t.complete conn h 4 0
          | .ok _ => if 1024 ≤ t.subs.length then t.complete conn h 1 0 else
            State.complete { t with subs := t.subs ++ [⟨conn, a, h.d1, h.d2, Header.ctag h⟩] } conn h 0 0))
    ∧ (Header.opc h = 3 → badCmd h p.length 0 = false →
      exec (.hostStop conn h p) s = .next ((s.stopJob a).complete conn h 0 0))
    ∧ (Header.opc h = 4 → badCmd h p.length 0 = false → exec (.release conn h p) s
      = .next (if (s.asid a).stopped then (s.releaseJob a).complete conn h 0 0 else s.complete conn h 6 0))
    ∧ (Header.opc h = 5 → badCmd h p.length 0 = false → fld h.d3 55 52 < 14 → 2 ≤ fld h.d3 51 50 →
      let n := 2 ^ fld h.d3 51 50
      (h.d1.toNat % n ≠ 0 → exec (.atomic conn h p) s = .next (s.complete conn h 4 0))
      ∧ ∀ t l, h.d1.toNat % n = 0 → s.devAt a h.d1.toNat n useStore = (t, .ok l) →
        let o := leNat (t.homeRead l n)
        exec (.atomic conn h p) s = .next ((t.homeWrite l (leBytes n
          (atomNew (fld h.d3 55 52) (8 * n) o (h.d2.toNat % 2 ^ (8 * n))))).complete conn h 0 (BitVec.ofNat 64 o))))
  ∧ (∀ (s : State) (conn : Conn) (h : Header), ¬(1 ≤ Header.opc h ∧ Header.opc h ≤ 5) →
    exec (.unknownCommand conn h) s = .next (if s.booted then s.complete conn h 5 0 else s))
  ∧ (∀ (s t : State) (k : Nat) (u : Sub) (l : Loc), s.subs[k]? = some u → u.addr ≠ 0 →
    s.devAt u.asid u.addr.toNat 8 useLoad = (t, .ok l) → u.thr.toNat ≤ leNat (t.homeRead l 8) →
    let v := BitVec.ofNat 64 (leNat (t.homeRead l 8))
    exec (.event k) s = .next (State.sendMsg { t with subs := t.subs.eraseIdx k } u.conn 0x83 u.asid u.ctag u.addr v 0))
  ∧ ∀ (s : State) (conn : Conn), exec (.connectionClose conn) s
    = .next { s with subs := s.subs.filter (fun u => !decide (u.conn = conn ∧ u.addr = 0)) }

/-- R402, R418, R431, R432, R436 to R438, R441: a remote access of the module performs its bytes, or the register of the
control space that it names, or is answered with an error; an ostler's narrower read of the control space gives the bytes it
addresses and its narrower write has no effect (a read that crosses a doubleword is log entry 138); a write of a register
below its least value has no effect, and what is written is read; boot ends with BOOTSTAT; a port counts the packets that it
drops. -/
def Obligations.RmaAndRegisters : Prop :=
  (∀ (s : State) (conn : Conn) (a : Nat) (addr : BitVec 64) (data : List Byte), data.length ≤ 4096 → s.booted = true →
    s.connAsid conn.key = some a →
    (∀ o, addr.getLsbD 63 = true → ctlOffset addr data.length = some o → exec (.rmaWrite conn addr data) s
      = .next (if conn.key = 0 ∨ mayWrite a o = true then (s.ctlWrite o (BitVec.ofNat 64 (leNat data))).rmaDone conn true []
        else s.rmaDone conn false []))
    ∧ (addr.getLsbD 63 = true → ctlOffset addr data.length = none →
      exec (.rmaWrite conn addr data) s = .next (s.rmaDone conn false []))
    ∧ ∀ t ls, addr.getLsbD 63 = false → s.rmaFind a useStore (pageParts addr.toNat data.length) = (t, ls, true) →
      exec (.rmaWrite conn addr data) s = .next ((t.rmaPut ls data).rmaDone conn true []))
  ∧ (∀ (s : State) (conn : Conn) (a : Nat) (addr : BitVec 64) (n : Nat), n ≤ 4096 → s.booted = true → s.connAsid conn.key = some a →
    (∀ o, addr.getLsbD 63 = true → ctlOffset addr n = some o → exec (.rmaRead conn addr n) s
      = .next (if conn.key = 0 ∨ mayRead a o = true then s.rmaDone conn true (leBytes 8 (s.ctlRead o).toNat)
        else s.rmaDone conn false []))
    ∧ ∀ t ls, addr.getLsbD 63 = false → s.rmaFind a useLoad (pageParts addr.toNat n) = (t, ls, true) →
      exec (.rmaRead conn addr n) s = .next (t.rmaDone conn true (ls.flatMap (fun p => t.homeRead p.1 p.2))))
  ∧ (∀ (s : State) (o n : Nat) (v : Dword), s.booted = true →
    exec (.ostlerAccess (.ctlStore o n v)) s = .next (if n = 8 then s.ctlWrite o v else s)
    ∧ (o % 8 + n ≤ 8 → exec (.ostlerAccess (.ctlLoad o n)) s = .next { s with fwOut := s.fwOut
        ++ [BitVec.ofNat 64 ((s.ctlRead (o / 8 * 8)).toNat / 2 ^ (8 * (o % 8)) % 2 ^ (8 * n))] }))
  ∧ (∀ (s : State) (o : Nat) (v : Dword), (s.booted = true → exec (.registerWrite o v) s = .next (s.ctlWrite o v))
    ∧ (o % 8 ≠ 0 ∨ o < 0x10000 → s.ctlWrite o v = s)
    ∧ (fld v 31 0 < 1000 → s.ctlWrite 0x10008 v = s) ∧ (fld v 11 0 < 1200 ∨ 2200 < fld v 11 0 → s.ctlWrite 0x10010 v = s)
    ∧ ∀ a, a < 4096 → (s.ctlWrite (0x100000 + 0x400 * a) v).ctlRead (0x100000 + 0x400 * a) = v
      ∧ (s.ctlWrite (0x100028 + 0x400 * a) 0).ctlRead (0x100028 + 0x400 * a) = 0)
  ∧ (∀ (s : State), s.bootStat = 0 →
    (s.canVerify = true → exec (.powerOnBoot none) s = .next { s with bootStat := 1 })
    ∧ ∀ i, exec (.powerOnBoot (some i)) s = .next { s with bootStat := i ++ (2 : BitVec 8) })
  ∧ ∀ (s : State) (p : Nat), p < 8 → exec (.packetDrop p) s
    = .next { s with portErrs := SMap.set s.portErrs 0 p ((SMap.get s.portErrs 0 p + 1) % 2 ^ 64) }

/-! ### The machine as a whole -/

/-- R58, R59: S0 reads zero and M0 all ones whatever was written, and every other S and M register reads what was written
last. -/
def Obligations.HardWiredRegisters : Prop :=
  ∀ (x : Wave) (r q : Nat) (a : Dword) (m : Word),
    x.rdS 0 = 0 ∧ x.rdM 0 = 0xFFFFFFFF ∧ x.wrS 0 a = x ∧ x.wrM 0 m = x
    ∧ (r ≠ 0 → (x.wrS r a).rdS q = if q = r then a else x.rdS q)
    ∧ (r ≠ 0 → (x.wrM r m).rdM q = if q = r then m else x.rdM q)

/-- R77: a word that is not an instruction, or not one for its wave, is found illegal when it is issued. No register, mask
or FCSR changes, nothing is accessed, the wave stays at the word, and the job stops once the record is written. -/
def Obligations.IllegalWord : Prop :=
  (∀ (s : State) (w : WaveId) (k : Ctx) (word : BitVec 64) (e : DecodeError),
    let u := { s with now := s.now + 1, focus := .none }
    s.NamesOnce → s.focus = .wave w → ctx? u w = some k → k.issues = true → blocked k u = none → u.throttle = false →
    u.curbOn = false → k.inside k.wv.pc.toNat = true → k.word? u k.wv.pc.toNat = some word →
    Decode.core word = .error e → (k.wv.bpDone = true ∨ k.wordBreaks u (0, false) = []) →
    step s = .next (illegal k u))
  ∧ (∀ (s : State) (k : Ctx) (i : Instr), s.focus = .wave k.w → ctx? s k.w = some k → i.isCore = true →
    k.legal i = false → exec i s = .next (illegal k s.unfocused))
  ∧ ∀ (k : Ctx) (s : State), let t := illegal k s
    t = { s with asids := t.asids, mem := t.mem, outbox := t.outbox, signals := t.signals, waves := t.waves }
    ∧ (∀ v x, s.wave? v = some x → ∃ q, t.wave? v = some { x with pending := q })
    ∧ (s.ringRoom k.asid = true → t.waves = s.waves ∧ (t.asid k.asid).stopped = true
      ∧ ∀ a, (a < fld (s.asid k.asid).frqBase 51 12 * 4096
            + 64 * ((s.asid k.asid).tail.toNat % 2 ^ (s.asid k.asid).log2n)
          ∨ fld (s.asid k.asid).frqBase 51 12 * 4096
            + 64 * ((s.asid k.asid).tail.toNat % 2 ^ (s.asid k.asid).log2n) + 64 ≤ a) →
        Memory.byte t.mem a = Memory.byte s.mem a)
    ∧ (s.ringRoom k.asid = false → t.mem = s.mem ∧ (∀ x, s.wave? k.w = some x → ∃ q, t.wave? k.w
      = some { x with pending := some q }))

/-- R402, R403, R406, R409: raising a record numbers it, writes its 64 bytes at the ring's TAIL and moves TAIL on; the job's
ostler is signalled, and a record that STOPS stops the job; where the ring is full the record waits and memory is as it was.
-/
def Obligations.RaiseRecord : Prop :=
  ∀ (s : State) (a : Nat) (r : RecF),
    let x := s.asid a
    let t := (s.raise a r).1
    let base := fld x.frqBase 51 12 * 4096 + 64 * (x.tail.toNat % 2 ^ x.log2n)
    (s.raise a r).2 = (if x.seq = 0xFFFFFFFF then 1 else x.seq + 1)
    ∧ (t.asid a).seq = (s.raise a r).2
    ∧ t = { s with asids := t.asids, mem := t.mem, outbox := t.outbox, signals := t.signals }
    ∧ (∀ b, b ≠ a → t.asid b = s.asid b)
    ∧ (s.ringRoom a = true →
      t.mem = Memory.put s.mem base ((r.words (s.raise a r).2).flatMap (fun w => leBytes 8 w.toNat))
      ∧ ((r.words (s.raise a r).2).flatMap (fun w => leBytes 8 w.toNat)).length = 64
      ∧ (t.asid a).tail = x.tail + 1 ∧ t.signals = s.signals ++ [(s.ostlerOf a, a)]
      ∧ (t.asid a).stopped = (x.stopped || decide (r.status = .stops))
      ∧ (r.status ≠ .stops → r.kind % 256 ≠ 16 → t.outbox = s.outbox))
    ∧ (s.ringRoom a = false → t.mem = s.mem ∧ t.outbox = s.outbox ∧ t.signals = s.signals ∧ (t.asid a).tail = x.tail
      ∧ (t.asid a).waiting = x.waiting ++ [r.words (s.raise a r).2])

/-- R84, R189, R261, R288: what a step does. The wave in focus runs the instruction that its word decodes to, and the
firing in focus the one of its node; with no agent in focus the agenda's next entry acts, and with an empty agenda nothing
but time goes on: that plain data of the state says who acts next is the model's choice (log entry 1). Before a crew is
saved its waves note why they wait (R190); a wave of a spatial gang whose decision is due carries that on when it is chosen
(R370); of the waves of a pool the first in order that issues does, and those that were ready and not picked are passed over
once more. What a step changes in a backwater is stored in HBM (`stored`: R2, R294, log entry 99), of which
`Claims.BackwatersStored` says what it is. -/
def Obligations.StepRuns : Prop :=
  (∀ (s : State) (w : WaveId) (k : Ctx) (word : BitVec 64) (i : Instr),
    let u := { s with now := s.now + 1, focus := .none }
    s.focus = .wave w → ctx? u w = some k → k.issues = true → blocked k u = none → u.throttle = false →
    u.curbOn = false → k.inside k.wv.pc.toNat = true → k.word? u k.wv.pc.toNat = some word → Decode.core word = .ok i →
    (k.wv.bpDone = true ∨ k.wordBreaks u (predOf i) = []) →
    step s = stored { s with now := s.now + 1 } (exec i { u with focus := .wave w }))
  ∧ (∀ (s : State) (f : Firing) (word : BitVec 64) (i : Instr), s.focus = .node f →
    f.word? { s with now := s.now + 1 } = some word → Decode.node word = .ok i →
    step s = stored { s with now := s.now + 1 } (exec i { s with now := s.now + 1 }))
  ∧ (∀ (s : State), s.NamesOnce → s.focus = .none → s.agenda = [] → step s = .next { s with now := s.now + 1 })
  ∧ (∀ (s : State) (i : Instr) (t : List Choice), s.focus = .none → s.agenda = .event i :: t →
    step s = stored { s with now := s.now + 1 } (exec i (noteReasons i { s with now := s.now + 1, agenda := t })))
  ∧ (∀ (s : State) (w : WaveId) (t : List Choice), s.focus = .none → s.agenda = .issue w :: t →
    (State.sequencer { s with now := s.now + 1, agenda := t } w = none → step s = step { s with focus := .wave w, agenda := t })
    ∧ ∀ v, State.sequencer { s with now := s.now + 1, agenda := t } w = some v →
      step s = stored { s with now := s.now + 1 } (.next v))
  ∧ ∀ (s u : State) (w : WaveId) (pool rest : List WaveId) (t : List Choice), s.focus = .none →
    s.agenda = .schedule pool :: t → State.order { s with now := s.now + 1 } pool = w :: rest →
    let v := { s with now := s.now + 1, agenda := t }
    fetched (fetchWave (State.readied v w) w) = .next u → issued (State.readied v w) u w = true →
    step s = stored { s with now := s.now + 1 } (.next (passOver v pool w u))

/-- R9, R239, R313, R372, R402, R418, R422, R438, R441 to R443: after reset the control space reads the reset values that the
spec states, for the module, every cluster with its queues, weir slots and places, every launch queue, and every address
space with its breakpoints; the boot has not ended, and the invariant holds. BOOTSTAT reads 0 before the boot by the model's
choice (log entry 6). -/
def Obligations.ResetState : Prop :=
  State.reset.Inv
  ∧ (∀ cl, cl < 104 → let at_ (o : Nat) : Dword := State.reset.ctlRead (0x500000 + 0x10000 * cl + o)
    at_ 0 = 0 ∧ at_ 0x08 = 0x1801060A01 ∧ at_ 0x10 = 256 ∧ at_ 0x18 = 0
    ∧ (let spare := (Config.spareSite (cl / 13)).val
       at_ 0x20 = BitVec.ofNat 64 (16 * (if cl % 13 < spare then cl % 13 else cl % 13 + 1) + cl / 13))
    ∧ (∀ q, q < 64 → at_ (0x100 + 8 * q) = 0x08000000) ∧ (∀ i, i < 16 → at_ (0x300 + 8 * i) = 0x04000000)
    ∧ (∀ p, p < 64 → at_ (0x400 + 16 * p) = 15 ∧ at_ (0x408 + 16 * p) = 42 ∧ at_ (0x800 + 8 * p) = 16384))
  ∧ (∀ a, a < 4096 → let at_ (o : Nat) : Dword := State.reset.ctlRead (0x100000 + 0x400 * a + o)
    at_ 0x08 = 0 ∧ at_ 0x10 = 0 ∧ at_ 0x18 = 0 ∧ at_ 0x28 = 0 ∧ at_ 0x30 = 0 ∧ at_ 0x38 = BitVec.ofNat 64 a
    ∧ ∀ k, k < 48 → at_ (0x100 + 8 * k) = 0)
  ∧ (∀ q, q < 64 → State.reset.ctlRead (0x20000 + 8 * q) = 0) ∧ State.reset.ctlRead 0x10000 = 1048576
  ∧ State.reset.ctlRead 0x10008 = 2000000 ∧ State.reset.ctlRead 0x10010 = 2200
  ∧ State.reset.ctlRead 0x10018 = 10 * 2 ^ 16 + 105 * 2 ^ 8 ∧ State.reset.ctlRead 0x10020 = 0
  ∧ State.reset.ctlRead 0x10038 = 0 ∧ State.reset.ctlRead 0x18 = 0 ∧ State.reset.booted = false

/-- Every step keeps the invariant: both memories stay in canonical form, and every wave, gang, crew and launch stays
listed once. The form of State is the model's own (log entries 1 and 2). -/
def Obligations.StepKeepsInv : Prop :=
  ∀ (s t : State), s.Inv → step s = .next t → t.Inv

/-- R57 to R62, R72 to R74, R76: every legal core word is the encoding of one instruction, and decoding it gives that
instruction back; what the decoder accepts encodes to the word it came from. -/
def Obligations.CoreRoundTrip : Prop :=
  (∀ (i : Instr), i.isCore = true → i.wf = true → ∃ w, encode i = some w ∧ Decode.core w = .ok i)
  ∧ ∀ (w : BitVec 64) (i : Instr), Decode.core w = .ok i → encode i = some w ∧ i.wf = true ∧ i.isCore = true

/-- R63 to R68, R75, R80: every node word that the word-local tests accept is the encoding of one node, and decoding it
gives that node back; what the decoder accepts encodes to the word it came from. -/
def Obligations.NodeRoundTrip : Prop :=
  (∀ (i : Instr), i.isNode = true → i.wf = true → ∃ w, encode i = some w ∧ Decode.node w = .ok i)
  ∧ ∀ (w : BitVec 64) (i : Instr), Decode.node w = .ok i → encode i = some w ∧ i.wf = true ∧ i.isNode = true

/-- Words that the spec writes out (R57, R60 to R62, R65 to R68), one of each layout, and the instructions they stand for;
and a word of class 11, which is none (R76). -/
def Obligations.DecodeWords : Prop :=
  Decode.core 0x022100102000200A = .ok (.cmp ⟨0, 0, false, 1, 2, .imm 10, 2, 0⟩)
  ∧ Decode.core 0x0005005050080008 = .ok (.add ⟨1, 0, false, 5, 5, .imm 8, 0x80, 0⟩)
  ∧ Decode.core 0x1030004010203031 = .ok (.fma ⟨0, 0, false, 4, 1, .v 2, 3, 0x031⟩)
  ∧ Decode.core 0x02400062FFFFFFFE = .ok (.moviPair ⟨0, false, 6, 0xFFFFFFFE⟩)
  ∧ Decode.core 0x4020002200000003 = .ok (.brs ⟨0, false, 2, 2, 3⟩)
  ∧ Decode.core 0x5042006080261000 = .ok (.atom ⟨true, false, 0, false, 6, 8, 2, 3, false, 0, 1, 0⟩)
  ∧ Decode.node 0x2020830004008000 = .ok (.arithNodeFire ⟨2, 2, 0, false, false, some ⟨3, false⟩, none, 0x04008000⟩)
  ∧ Decode.node 0xC020000008010002 = .ok (.lenter ⟨none, none, 8, 0x010002⟩)
  ∧ Decode.node 0xD0040850100FF807 = .ok (.cld ⟨2, false, 0, some ⟨5, false⟩, 2, 1, 0xFF, 7⟩)
  ∧ Decode.node 0xE050870002050001 = .ok (.mxj ⟨some ⟨7, false⟩, none, 2, 5, 1⟩)
  ∧ Decode.core 0xB000000000000000 = .error .unassignedClass

/-- R190, R407, R409, R411, R442, R443: a wave of a halted gang, of a stopped job or of a saved crew, and one whose record
is pending, executes nothing: the step only notes why it waits. A halt waits for the record of the wave's own fault to be
written (R415) and for a hand-over under way (R370) (which reason a wave of a stopped job and one held by a record
give is the model's choice, log entry 120). -/
def Obligations.HeldWaves : Prop :=
  ∀ (s : State) (w : WaveId) (k : Ctx) (r : Stall),
    let u := { s with now := s.now + 1, focus := .none }
    s.NamesOnce → s.focus = .wave w → ctx? u w = some k → k.issues = true → (
      ((k.g.halted = true ∧ k.g.moving = none ∧ k.wv.unrecorded u k.asid = false) ∨ (u.asid k.asid).stopped = true ∨ (u.asid k.asid).stopping = true →
        r = .halted) ∧
      ((k.g.halted = false ∨ k.g.moving ≠ none ∨ k.wv.unrecorded u k.asid = true) ∧ (u.asid k.asid).stopped = false ∧ (u.asid k.asid).stopping = false →
        (k.c.saved = true → r = .preempted) ∧ (k.c.saved = false →
          r = (if (k.word? u k.wv.pc.toNat).isSome then .memory else .icache) ∧ (k.wv.pending ≠ none ∨ k.l.argsRead = false)))) →
    step s = .next (u.setWave w { k.wv with stall := r })

/-- R2: memory is little-endian, and a write changes the bytes that it stores and no other: what is read is the low bytes
of what was written; a memory in canonical form stays so. -/
def Sys2Proof.Claims.ValueBytes : Prop :=
  ∀ (m : Memory) (a n v : Nat),
    Memory.le (Memory.setLe m a n v) a n = v % 2 ^ (8 * n)
    ∧ (∀ i, i < n → Memory.byte (Memory.setLe m a n v) (a + i) = BitVec.ofNat 8 (v / 2 ^ (8 * i)))
    ∧ (∀ b, b < a ∨ a + n ≤ b → Memory.byte (Memory.setLe m a n v) b = Memory.byte m b)
    ∧ (Memory.wf m = true → Memory.wf (Memory.setLe m a n v) = true)

/-- R69, R285, R286: a token as its 128 bits, which a backwater stores in 16 bytes, and a frame as its 1,152 bytes: the
header, the presence bits and the slots, little-endian; the rest is the device's own. -/
def Sys2Proof.Claims.BackwaterBytes : Prop :=
  (∀ (t : Tok) (ctx : Nat), ctx < 4 → t.paddock < 4096 → t.cell < 16 → t.frame < 1024 → t.slot < 128 → t.blk < 8 →
    let b := t.bits ctx
    fld b 127 64 = t.value.toNat ∧ fld b 63 62 = ctx ∧ fld b 61 50 = t.paddock ∧ fld b 49 46 = t.cell ∧ fld b 45 36 = t.frame
    ∧ fld b 35 29 = t.slot ∧ b.getLsbD 28 = t.port ∧ fld b 27 25 = t.blk ∧ b.getLsbD 24 = t.err ∧ fld b 23 0 = 0
    ∧ (t.bytes ctx).length = 16 ∧ leNat (t.bytes ctx) = b.toNat ∧ t.ofBits b = t)
  ∧ ∀ (f : Frame) (ctx : Nat) (own : List Byte), own.length = 64 → ctx < 4 → f.tag.toNat < 2 ^ 62 →
    let b := f.image ctx own
    b.length = 1152 ∧ imgNat b 0 8 = f.tag.toNat + ctx * 2 ^ 62
    ∧ (f.blk < 8 → imgNat b 8 8 / 2 ^ 61 = f.blk) ∧ (BitVec.ofNat 64 (imgNat b 8 8)).getLsbD 60 = f.how.parent.isSome
    ∧ (∀ up, f.how.parent = some up → up.1 < 16 → up.2 < 1024 →
        imgNat b 8 8 / 2 ^ 56 % 2 ^ 4 = up.1 ∧ imgNat b 8 8 / 2 ^ 46 % 2 ^ 10 = up.2)
    ∧ (f.how.kind < 4 → imgNat b 8 8 / 2 ^ 44 % 4 = f.how.kind) ∧ (f.how.rslot < 128 → imgNat b 8 8 / 2 ^ 37 % 128 = f.how.rslot)
    ∧ imgNat b 8 8 % 2 ^ 37 = 0 ∧ imgNat b 16 4 = f.loop0.toNat ∧ imgNat b 20 4 = f.loop1.toNat
    ∧ (f.arrived < 65536 → imgNat b 30 2 = f.arrived) ∧ (f.fired < 65536 → imgNat b 28 2 = f.fired) ∧ imgNat b 24 4 = 0
    ∧ imgNat b 0x40 32 = f.presence.toNat ∧ ∀ s, s < 128 → imgNat b (0x60 + 8 * s) 8 = (f.slotWord s).toNat

/-- R2, R264, R294: what a step from `s` to `t` stores of the backwaters. Nothing but HBM changes, and not that where no
crew's backwaters hold another thing than before; where those of a crew do, their bytes lie where firmware has placed them,
if the areas lie apart. Where the areas and their items lie is the model's choice (log entry 99). -/
def Sys2Proof.Claims.BackwatersStored : Prop :=
  ∀ (s t : State), let u := s.storeBackwaters t
    u = { t with mem := u.mem } ∧ (Memory.wf t.mem = true → Memory.wf u.mem = true)
    ∧ ((∀ q ∈ t.crews, (s.crew? q.1).map Crew.bwHolds = some q.2.bwHolds ∨ q.2.region = none) → u = t)
    ∧ ∀ (c : CrewId) (x : Crew), t.crews = [(c, x)] → (s.crew? c).map Crew.bwHolds ≠ some x.bwHolds → x.region ≠ none →
      (x.bwBytes cellOf).Pairwise (fun a b => a.1 + a.2.length ≤ b.1 ∨ b.1 + b.2.length ≤ a.1) →
      (∀ b ∈ x.bwBytes cellOf, b.1 + b.2.length ≤ hbmBytes) →
      (∀ b ∈ x.bwBytes cellOf, Memory.read u.mem b.1 b.2.length = b.2)
      ∧ ∀ a, (∀ b ∈ x.bwBytes cellOf, a < b.1 ∨ b.1 + b.2.length ≤ a) → Memory.byte u.mem a = Memory.byte t.mem a

/-- The bytes of values, tokens and frames. -/
def Obligations.MemoryBytes : Prop := Claims.ValueBytes ∧ Claims.BackwaterBytes ∧ Claims.BackwatersStored
end

