-- ==== Sys2Proof/Laws/Data.lean ====
section
/-! SUPPORT. The laws of the two ways State holds data by name (SMap, Tab), of memory bytes, and of the registers of a
wave: what a write changes, what it leaves, and that it keeps the canonical form. -/

namespace Sys2Proof

/-! ### SMap -/

theorem SMap.get_erase_self {α : Type} (m : SMap α) (d : α) (k : Nat) : (m.erase k).get d k = d := by
  induction m with
  | nil => rfl
  | cons p t ih =>
    obtain ⟨j, a⟩ := p
    unfold SMap.erase
    split
    · exact ih
    · rename_i h
      simpa [SMap.get, h] using ih

theorem SMap.get_erase_ne {α : Type} (m : SMap α) (d : α) {k n : Nat} (h : n ≠ k) : (m.erase k).get d n = m.get d n := by
  induction m with
  | nil => rfl
  | cons p t ih =>
    obtain ⟨j, a⟩ := p
    unfold SMap.erase
    split
    · rename_i e
      simp [SMap.get, ih, e, Ne.symm h]
    · simp [SMap.get, ih]

theorem SMap.get_put_self {α : Type} (m : SMap α) (d : α) (k : Nat) (v : α) : (m.put k v).get d k = v := by
  induction m with
  | nil => simp [SMap.put, SMap.get]
  | cons p t ih =>
    obtain ⟨j, a⟩ := p
    unfold SMap.put
    split
    · simp [SMap.get]
    · split
      · simp [SMap.get]
      · rename_i h
        simpa [SMap.get, h] using ih

theorem SMap.get_put_ne {α : Type} (m : SMap α) (d : α) {k n : Nat} (v : α) (h : n ≠ k) : (m.put k v).get d n = m.get d n := by
  induction m with
  | nil => simp [SMap.put, SMap.get, Ne.symm h]
  | cons p t ih =>
    obtain ⟨j, a⟩ := p
    unfold SMap.put
    split
    · simp [SMap.get, Ne.symm h]
    · split
      · rename_i e
        simp [SMap.get, Ne.symm h, e]
      · simp [SMap.get, ih]

section
variable {α : Type} [DecidableEq α]

/-- A read of what was written. -/
@[simp] theorem SMap.get_set_self (m : SMap α) (d : α) (k : Nat) (v : α) : (m.set d k v).get d k = v := by
  unfold SMap.set
  split
  · rename_i h
    rw [h, SMap.get_erase_self]
  · exact SMap.get_put_self m d k v

/-- A write leaves every other key alone. -/
theorem SMap.get_set_ne (m : SMap α) (d : α) {k n : Nat} (v : α) (h : n ≠ k) : (m.set d k v).get d n = m.get d n := by
  unfold SMap.set
  split
  · exact SMap.get_erase_ne m d h
  · exact SMap.get_put_ne m d v h

theorem SMap.get_set (m : SMap α) (d : α) (k n : Nat) (v : α) :
    (m.set d k v).get d n = if n = k then v else m.get d n := by
  by_cases h : n = k
  · subst h; simp
  · simp [SMap.get_set_ne m d v h, h]

/-! The canonical form. -/

theorem SMap.wfFrom_mono {m : SMap α} {d : α} {lo lo' : Nat} (h : m.wfFrom d lo = true) (le : lo' ≤ lo) :
    m.wfFrom d lo' = true := by
  cases m with
  | nil => rfl
  | cons p t =>
    obtain ⟨j, a⟩ := p
    simp only [SMap.wfFrom, Bool.and_eq_true, decide_eq_true_eq] at h ⊢
    exact ⟨⟨Nat.le_trans le h.1.1, h.1.2⟩, h.2⟩

theorem SMap.wfFrom_erase {m : SMap α} {d : α} {lo : Nat} (k : Nat) (h : m.wfFrom d lo = true) :
    (m.erase k).wfFrom d lo = true := by
  induction m generalizing lo with
  | nil => rfl
  | cons p t ih =>
    obtain ⟨j, a⟩ := p
    simp only [SMap.wfFrom, Bool.and_eq_true, decide_eq_true_eq] at h
    unfold SMap.erase
    split
    · exact SMap.wfFrom_mono (ih h.2) (by omega)
    · simp only [SMap.wfFrom, Bool.and_eq_true, decide_eq_true_eq]
      exact ⟨h.1, ih h.2⟩

theorem SMap.wfFrom_put {m : SMap α} {d : α} {lo k : Nat} {v : α} (h : m.wfFrom d lo = true) (hk : lo ≤ k)
    (hv : v ≠ d) : (m.put k v).wfFrom d lo = true := by
  induction m generalizing lo with
  | nil => simp [SMap.put, SMap.wfFrom, hk, hv]
  | cons p t ih =>
    obtain ⟨j, a⟩ := p
    simp only [SMap.wfFrom, Bool.and_eq_true, decide_eq_true_eq] at h
    unfold SMap.put
    split
    · simp only [SMap.wfFrom, Bool.and_eq_true, decide_eq_true_eq]
      exact ⟨⟨hk, by simpa using hv⟩, ⟨by omega, h.1.2⟩, h.2⟩
    · split
      · rename_i e
        simp only [SMap.wfFrom, Bool.and_eq_true, decide_eq_true_eq]
        exact ⟨⟨hk, by simpa using hv⟩, e ▸ h.2⟩
      · simp only [SMap.wfFrom, Bool.and_eq_true, decide_eq_true_eq]
        exact ⟨h.1, ih h.2 (by omega)⟩

/-- Every write keeps the canonical form. -/
theorem SMap.wf_set {m : SMap α} {d : α} (k : Nat) (v : α) (h : m.wf d = true) : (m.set d k v).wf d = true := by
  unfold SMap.set
  split
  · exact SMap.wfFrom_erase k h
  · rename_i hv
    exact SMap.wfFrom_put h (Nat.zero_le k) hv

end

/-! ### Tab -/

section
variable {κ α : Type} [DecidableEq κ]

theorem Tab.get?_set (t : List (κ × α)) (k n : κ) (v : α) :
    Tab.get? (Tab.set t k v) n = if k = n then some v else Tab.get? t n := by
  induction t with
  | nil => simp [Tab.set, Tab.get?]
  | cons p t ih =>
    obtain ⟨j, a⟩ := p
    unfold Tab.set
    split
    · rename_i e
      simp only [Tab.get?, e]
      split <;> rfl
    · rename_i e
      simp only [Tab.get?, ih]
      split
      · rename_i e'
        split
        · rename_i e''
          exact absurd (e'.trans e''.symm) e
        · rfl
      · rfl

@[simp] theorem Tab.get?_set_self (t : List (κ × α)) (k : κ) (v : α) : Tab.get? (Tab.set t k v) k = some v := by
  simp [Tab.get?_set]

theorem Tab.get?_set_ne (t : List (κ × α)) {k n : κ} (v : α) (h : n ≠ k) : Tab.get? (Tab.set t k v) n = Tab.get? t n := by
  simp [Tab.get?_set, Ne.symm h]

theorem Tab.get?_map (t : List (κ × α)) (f : κ → α → α) (k : κ) :
    Tab.get? (Tab.map t f) k = (Tab.get? t k).map (f k) := by
  induction t with
  | nil => rfl
  | cons p t ih =>
    obtain ⟨j, a⟩ := p
    simp only [Tab.map, List.map_cons, Tab.get?]
    split
    · rename_i e
      simp [e]
    · exact ih

@[simp] theorem Tab.set_set (t : List (κ × α)) (k : κ) (a b : α) : Tab.set (Tab.set t k a) k b = Tab.set t k b := by
  induction t with
  | nil => simp [Tab.set]
  | cons p t ih =>
    obtain ⟨j, c⟩ := p
    by_cases e : j = k
    · simp [Tab.set, e]
    · simp [Tab.set, e, ih]

theorem Tab.set_get (t : List (κ × α)) {k : κ} {a : α} (h : Tab.get? t k = some a) : Tab.set t k a = t := by
  induction t with
  | nil => simp [Tab.get?] at h
  | cons p t ih =>
    obtain ⟨j, c⟩ := p
    by_cases e : j = k
    · simp [Tab.get?, e] at h
      simp [Tab.set, e, h]
    · simp [Tab.get?, e] at h
      simp [Tab.set, e, ih h]

end

namespace Machine

/-! ### Memory -/

theorem Memory.byte_setByte (m : Memory) (a n : Nat) (b : Byte) :
    Memory.byte (Memory.setByte m a b) n = if n = a then b else Memory.byte m n := SMap.get_set m 0 a n b

/-- R2: a write of bytes from `a` upward changes those bytes and no other. -/
theorem Memory.byte_write (m : Memory) (a n : Nat) (bs : List Byte) :
    Memory.byte (Memory.write m a bs) n = if a ≤ n then (bs[n - a]?).getD (Memory.byte m n) else Memory.byte m n := by
  induction bs generalizing m a with
  | nil => simp [Memory.write]
  | cons b t ih =>
    simp only [Memory.write, ih, Memory.byte_setByte]
    by_cases h : a ≤ n
    · by_cases e : n = a
      · subst e
        simp
      · have h1 : a + 1 ≤ n := by omega
        have h2 : n - a = (n - (a + 1)) + 1 := by omega
        simp [h, e, h1, h2]
    · have h1 : ¬ a + 1 ≤ n := by omega
      have e : n ≠ a := by omega
      simp [h, h1, e]

theorem Memory.byte_write_out (m : Memory) (a n : Nat) (bs : List Byte) (h : n < a ∨ a + bs.length ≤ n) :
    Memory.byte (Memory.write m a bs) n = Memory.byte m n := by
  rw [Memory.byte_write]
  split
  · have : bs.length ≤ n - a := by omega
    simp [List.getElem?_eq_none this]
  · rfl

theorem Memory.byte_put_out (m : Memory) (a n : Nat) (bs : List Byte) (h : n < a ∨ a + bs.length ≤ n) :
    Memory.byte (Memory.put m a bs) n = Memory.byte m n := by
  apply Memory.byte_write_out
  have : (bs.take (hbmBytes - a)).length ≤ bs.length := by simp
  omega

theorem Memory.wf_setByte {m : Memory} (a : Nat) (b : Byte) (h : Memory.wf m = true) :
    Memory.wf (Memory.setByte m a b) = true := SMap.wf_set a b h

theorem Memory.wf_write {m : Memory} (a : Nat) (bs : List Byte) (h : Memory.wf m = true) :
    Memory.wf (Memory.write m a bs) = true := by
  induction bs generalizing m a with
  | nil => exact h
  | cons b t ih => exact ih (a + 1) (Memory.wf_setByte a b h)

theorem Memory.wf_put {m : Memory} (a : Nat) (bs : List Byte) (h : Memory.wf m = true) :
    Memory.wf (Memory.put m a bs) = true := Memory.wf_write a _ h

theorem Memory.wf_setLe {m : Memory} (a n v : Nat) (h : Memory.wf m = true) : Memory.wf (Memory.setLe m a n v) = true :=
  Memory.wf_write a _ h

@[simp] theorem leBytes_length (n v : Nat) : (leBytes n v).length = n := by
  induction n generalizing v with
  | zero => rfl
  | succ n ih => simp [leBytes, ih]

theorem leNat_leBytes (n v : Nat) : leNat (leBytes n v) = v % 256 ^ n := by
  induction n generalizing v with
  | zero => simp [leBytes, leNat, Nat.mod_one]
  | succ n ih =>
    have e : 256 ^ (n + 1) = 256 * 256 ^ n := by rw [Nat.pow_succ, Nat.mul_comm]
    rw [e, Nat.mod_mul, leBytes, leNat, ih, BitVec.toNat_ofNat]

/-! ### Registers of a wave -/

theorem Wave.rdV_wrV (x : Wave) (r l r' l' : Nat) (a : Word) (h : l < 32) (h' : l' < 32) :
    (x.wrV r l a).rdV r' l' = if r' = r ∧ l' = l then a else x.rdV r' l' := by
  simp only [Wave.rdV, Wave.wrV, SMap.get_set]
  by_cases e : r' = r ∧ l' = l
  · simp [e]
  · have : ¬ 32 * r' + l' = 32 * r + l := by omega
    simp [e, this]

theorem Wave.rdS_wrS (x : Wave) (r r' : Nat) (a : Dword) (h : r ≠ 0) :
    (x.wrS r a).rdS r' = if r' = r then a else x.rdS r' := by
  simp only [Wave.rdS, Wave.wrS, h, if_false]
  by_cases e : r' = 0
  · have : ¬ (0 = r) := fun z => h z.symm
    simp [e, this]
  · simp [e, SMap.get_set]

@[simp] theorem Wave.wrS_zero (x : Wave) (a : Dword) : x.wrS 0 a = x := rfl

@[simp] theorem Wave.rdS_zero (x : Wave) : x.rdS 0 = 0 := rfl

theorem Wave.rdM_wrM (x : Wave) (r r' : Nat) (a : Word) (h : r ≠ 0) :
    (x.wrM r a).rdM r' = if r' = r then a else x.rdM r' := by
  simp only [Wave.rdM, Wave.wrM, h, if_false]
  by_cases e : r' = 0
  · have : ¬ (0 = r) := fun z => h z.symm
    simp [e, this]
  · simp [e, SMap.get_set]

@[simp] theorem Wave.wrM_zero (x : Wave) (a : Word) : x.wrM 0 a = x := rfl

@[simp] theorem Wave.rdM_zero (x : Wave) : x.rdM 0 = 0xFFFFFFFF := rfl

theorem getLsbD_setBit {w : Nat} (m : BitVec w) (i j : Nat) (b : Bool) (h : i < w) :
    (setBit m i b).getLsbD j = if j = i then b else m.getLsbD j := by
  unfold setBit
  by_cases e : j = i
  · subst e
    cases b <;> simp [h]
  · have e' : ¬ i = j := fun z => e z.symm
    cases b
    · by_cases hj : j < w
      · simp [e, hj]
      · simp [e, BitVec.getLsbD_of_ge m j (by omega)]
    · simp [e, e']

/-! ### Objects by name -/

theorem State.wave?_setWave (s : State) (w v : WaveId) (x : Wave) :
    (s.setWave w x).wave? v = if w = v then some x else s.wave? v := Tab.get?_set s.waves w v x

theorem State.wave?_modWave (s : State) (w v : WaveId) (f : Wave → Wave) :
    (s.modWave w f).wave? v = if w = v then (s.wave? v).map f else s.wave? v := by
  unfold State.modWave
  split
  · rename_i x hx
    rw [State.wave?_setWave]
    split
    · rename_i e
      subst e
      rw [hx]; rfl
    · rfl
  · rename_i hx
    split
    · rename_i e
      subst e
      rw [hx]; rfl
    · rfl

theorem State.modWave_some {s : State} {w : WaveId} {x : Wave} (f : Wave → Wave) (h : s.wave? w = some x) :
    s.modWave w f = s.setWave w (f x) := by simp [State.modWave, h]

theorem State.modGang_some {s : State} {g : GangId} {x : Gang} (f : Gang → Gang) (h : s.gang? g = some x) :
    s.modGang g f = s.setGang g (f x) := by simp [State.modGang, h]

theorem State.modCrew_some {s : State} {c : CrewId} {x : Crew} (f : Crew → Crew) (h : s.crew? c = some x) :
    s.modCrew c f = s.setCrew c (f x) := by simp [State.modCrew, h]

theorem State.setWave_self {s : State} {w : WaveId} {x : Wave} (h : s.wave? w = some x) : s.setWave w x = s := by
  simp only [State.setWave, Tab.set_get s.waves h]

theorem State.setCrew_self {s : State} {c : CrewId} {x : Crew} (h : s.crew? c = some x) : s.setCrew c x = s := by
  simp only [State.setCrew, Tab.set_get s.crews h]

@[simp] theorem State.setWave_setWave (s : State) (w : WaveId) (x y : Wave) : (s.setWave w x).setWave w y = s.setWave w y := by
  simp [State.setWave]

@[simp] theorem State.setGang_setGang (s : State) (g : GangId) (x y : Gang) : (s.setGang g x).setGang g y = s.setGang g y := by
  simp [State.setGang]

@[simp] theorem State.setCrew_setCrew (s : State) (c : CrewId) (x y : Crew) : (s.setCrew c x).setCrew c y = s.setCrew c y := by
  simp [State.setCrew]

theorem State.gang?_modGang (s : State) (g h : GangId) (f : Gang → Gang) :
    (s.modGang g f).gang? h = if g = h then (s.gang? h).map f else s.gang? h := by
  unfold State.modGang
  split
  · rename_i x hx
    rw [State.gang?, State.setGang, Tab.get?_set]
    split
    · rename_i e
      subst e
      rw [hx]; rfl
    · rfl
  · rename_i hx
    split
    · rename_i e
      subst e
      rw [hx]; rfl
    · rfl

theorem State.crew?_modCrew (s : State) (c d : CrewId) (f : Crew → Crew) :
    (s.modCrew c f).crew? d = if c = d then (s.crew? d).map f else s.crew? d := by
  unfold State.modCrew
  split
  · rename_i x hx
    rw [State.crew?, State.setCrew, Tab.get?_set]
    split
    · rename_i e
      subst e
      rw [hx]; rfl
    · rfl
  · rename_i hx
    split
    · rename_i e
      subst e
      rw [hx]; rfl
    · rfl

theorem State.launch?_modLaunch (s : State) (c d : Nat) (f : Launch → Launch) :
    (s.modLaunch c f).launch? d = if c = d then (s.launch? d).map f else s.launch? d := by
  unfold State.modLaunch
  split
  · rename_i x hx
    rw [State.launch?, State.setLaunch, Tab.get?_set]
    split
    · rename_i e
      subst e
      rw [hx]; rfl
    · rfl
  · rename_i hx
    split
    · rename_i e
      subst e
      rw [hx]; rfl
    · rfl

theorem State.cluster_setCluster (s : State) (c d : Nat) (x : Cluster) :
    (s.setCluster c x).cluster d = if d = c then x else s.cluster d := SMap.get_set s.clusters Cluster.init c d x

theorem State.asid_setAsid (s : State) (c d : Nat) (x : Asid) :
    (s.setAsid c x).asid d = if d = c then x else s.asid d := SMap.get_set s.asids Asid.init c d x

end Machine

end Sys2Proof
end

