-- ==== Sys2Proof/Laws/Inv.lean ====
section
/-! SUPPORT. What keeps the invariant of a step (`State.Inv`): the ways State lists objects, and the writes of memory. Every
definition of the machine changes waves, gangs, crews, launches and memory through these. -/

namespace Sys2Proof.Machine

section
variable {κ α : Type} [DecidableEq κ]

omit [DecidableEq κ] in
theorem namesOnce_map {t : List (κ × α)} (f : κ → α → α) (h : namesOnce t) : namesOnce (Tab.map t f) := by
  unfold namesOnce Tab.map at *
  simpa [List.map_map, Function.comp_def] using h

omit [DecidableEq κ] in
theorem namesOnce_filter {t : List (κ × α)} (p : κ × α → Bool) (h : namesOnce t) : namesOnce (t.filter p) :=
  List.Nodup.sublist (List.filter_sublist.map Prod.fst) h

theorem mem_keys_set {t : List (κ × α)} {k : κ} {v : α} {n : κ} (h : n ∈ (Tab.set t k v).map Prod.fst) :
    n = k ∨ n ∈ t.map Prod.fst := by
  induction t with
  | nil => simpa [Tab.set] using h
  | cons p t ih =>
    obtain ⟨j, a⟩ := p
    unfold Tab.set at h
    split at h
    · rename_i e; subst e
      simp at h ⊢; tauto
    · simp at h ⊢
      rcases h with h | h
      · exact .inr (.inl h)
      · rcases ih (by simpa using h) with h | h
        · exact .inl h
        · exact .inr (.inr (by simpa using h))

theorem namesOnce_set {t : List (κ × α)} (k : κ) (v : α) (h : namesOnce t) : namesOnce (Tab.set t k v) := by
  induction t with
  | nil => simp [namesOnce, Tab.set]
  | cons p t ih =>
    obtain ⟨j, a⟩ := p
    have h' : j ∉ t.map Prod.fst ∧ namesOnce t := by simpa [namesOnce] using h
    unfold Tab.set
    split
    · rename_i e; subst e
      simpa [namesOnce] using h
    · rename_i e
      have := ih h'.2
      refine List.nodup_cons.mpr ⟨fun c => ?_, this⟩
      rcases mem_keys_set c with c | c
      · exact e (by simpa using c)
      · exact h'.1 c

end

theorem State.Inv.setWave {s : State} (h : s.Inv) (w : WaveId) (x : Wave) : (s.setWave w x).Inv :=
  ⟨h.1, h.2.1, namesOnce_set w x h.2.2.1, h.2.2.2⟩

theorem State.Inv.setGang {s : State} (h : s.Inv) (g : GangId) (x : Gang) : (s.setGang g x).Inv :=
  ⟨h.1, h.2.1, h.2.2.1, namesOnce_set g x h.2.2.2.1, h.2.2.2.2⟩

theorem State.Inv.setCrew {s : State} (h : s.Inv) (c : CrewId) (x : Crew) : (s.setCrew c x).Inv :=
  ⟨h.1, h.2.1, h.2.2.1, h.2.2.2.1, namesOnce_set c x h.2.2.2.2.1, h.2.2.2.2.2⟩

theorem State.Inv.setLaunch {s : State} (h : s.Inv) (l : Nat) (x : Launch) : (s.setLaunch l x).Inv :=
  ⟨h.1, h.2.1, h.2.2.1, h.2.2.2.1, h.2.2.2.2.1, namesOnce_set l x h.2.2.2.2.2⟩

theorem State.Inv.modWave {s : State} (h : s.Inv) (w : WaveId) (f : Wave → Wave) : (s.modWave w f).Inv := by
  unfold State.modWave
  split
  · exact h.setWave w _
  · exact h

theorem State.Inv.modGang {s : State} (h : s.Inv) (g : GangId) (f : Gang → Gang) : (s.modGang g f).Inv := by
  unfold State.modGang
  split
  · exact h.setGang g _
  · exact h

theorem State.Inv.modCrew {s : State} (h : s.Inv) (c : CrewId) (f : Crew → Crew) : (s.modCrew c f).Inv := by
  unfold State.modCrew
  split
  · exact h.setCrew c _
  · exact h

theorem State.Inv.modLaunch {s : State} (h : s.Inv) (l : Nat) (f : Launch → Launch) : (s.modLaunch l f).Inv := by
  unfold State.modLaunch
  split
  · exact h.setLaunch l _
  · exact h

theorem State.Inv.modCluster {s : State} (h : s.Inv) (c : Nat) (f : Cluster → Cluster) : (s.modCluster c f).Inv := h

theorem State.Inv.modAsid {s : State} (h : s.Inv) (a : Nat) (f : Asid → Asid) : (s.modAsid a f).Inv := h

/-- The invariant speaks of the memories and the lists of objects alone. -/
theorem State.Inv.of_eq {s t : State} (h : s.Inv) (e : t.mem = s.mem ∧ t.remote = s.remote ∧ t.waves = s.waves
    ∧ t.gangs = s.gangs ∧ t.crews = s.crews ∧ t.launches = s.launches) : t.Inv := by
  obtain ⟨a, b, c, d, f, g⟩ := e
  unfold State.Inv State.NamesOnce
  rw [a, b, c, d, f, g]
  exact h

theorem State.Inv.physWrite {s : State} (h : s.Inv) (a : Nat) (bs : List Byte) : (s.physWrite a bs).Inv :=
  ⟨Memory.wf_write a _ h.1, h.2⟩

theorem State.Inv.writeRemote {s : State} (h : s.Inv) (a : Nat) (bs : List Byte) :
    ({ s with remote := Memory.write s.remote a bs } : State).Inv :=
  ⟨h.1, Memory.wf_write a bs h.2.1, h.2.2⟩

theorem State.Inv.foldl {α : Type} {f : State → α → State} (hf : ∀ s a, s.Inv → (f s a).Inv) (l : List α) {s : State}
    (h : s.Inv) : (l.foldl f s).Inv := by
  induction l generalizing s with
  | nil => exact h
  | cons a t ih => exact ih (hf s a h)

theorem State.Inv.putRecord {s : State} (h : s.Inv) (a : Nat) (d : List Dword) : (s.putRecord a d).Inv := by
  have h1 := h.physWrite (fld (s.asid a).frqBase 51 12 * 4096 + 64 * ((s.asid a).tail.toNat % 2 ^ (s.asid a).log2n))
    (d.flatMap (fun (w : Dword) => leBytes 8 w.toNat))
  unfold State.putRecord
  refine h1.of_eq ?_
  simp only [State.setAsid, State.stopJob, State.modAsid]
  split <;> split <;> exact ⟨rfl, rfl, rfl, rfl, rfl, rfl⟩

theorem State.Inv.raise {s : State} (h : s.Inv) (a : Nat) (r : RecF) : (s.raise a r).1.Inv := by
  unfold State.raise
  simp only
  split
  · exact State.Inv.putRecord (s := s.setAsid a _) h a _
  · exact h

theorem State.Inv.raiseStops {s : State} (h : s.Inv) (a : Nat) (w : WaveId) (r : RecF) : (s.raiseStops a w r).Inv := by
  unfold State.raiseStops
  simp only
  split
  · exact h.raise a r
  · exact (h.raise a r).modWave w _

theorem State.Inv.faultAt {s : State} (h : s.Inv) (k : Ctx) (r : RecF) : (faultAt k r s).Inv := by
  unfold Machine.faultAt
  split
  · exact (h.raise _ _).modWave _ _
  · exact h.raiseStops _ _ _

/-- What a step stores in the backwaters keeps the invariant. -/
theorem State.Inv.storeBackwaters {t : State} (s : State) (h : t.Inv) : (s.storeBackwaters t).Inv := by
  have hw (bs : List (Nat × List Byte)) : ∀ m, Memory.wf m = true →
      Memory.wf (bs.foldl (fun m b => Memory.put m b.1 b.2) m) = true := by
    induction bs with
    | nil => exact fun _ h => h
    | cons b bs ih => exact fun m hm => ih _ (Memory.wf_put b.1 b.2 hm)
  refine State.Inv.foldl (fun u q hu => ?_) t.crews h
  split
  · exact hu
  · exact ⟨hw _ _ hu.1, hu.2⟩

/-- The step's own part in its outcome: what is stored in the backwaters, of a next state alone. -/
theorem stored_next {s t : State} {o : Out} (h : stored s o = .next t) : ∃ u, o = .next u ∧ t = s.storeBackwaters u := by
  cases o with
  | next u => exact ⟨u, rfl, by simpa [stored] using h.symm⟩
  | fault f => simp [stored] at h
  | refused r => simp [stored] at h

/-- A step that leaves every crew's backwaters as they were stores nothing. -/
theorem storeBackwaters_same {s t : State} (h : ∀ q ∈ t.crews, (s.crew? q.1).map Crew.bwHolds = some q.2.bwHolds ∨ q.2.region = none) :
    s.storeBackwaters t = t := by
  have (l : List (CrewId × Crew)) (hl : ∀ q ∈ l, (s.crew? q.1).map Crew.bwHolds = some q.2.bwHolds ∨ q.2.region = none) (u : State) :
      l.foldl (fun u q => if (s.crew? q.1).map Crew.bwHolds == some q.2.bwHolds || q.2.region.isNone then u
        else u.setMem ((q.2.bwBytes cellOf).foldl (fun m b => Memory.put m b.1 b.2) u.mem)) u = u := by
    induction l generalizing u with
    | nil => rfl
    | cons q l ih =>
      have hq : ((s.crew? q.1).map Crew.bwHolds == some q.2.bwHolds || q.2.region.isNone) = true := by
        rcases hl q (by simp) with e | e <;> simp [e]
      rw [List.foldl_cons, if_pos hq]
      exact ih (fun q hq => hl q (by simp [hq])) u
  exact this t.crews h t

theorem reset_inv : State.reset.Inv := by
  unfold State.Inv State.NamesOnce namesOnce
  decide

end Sys2Proof.Machine
end

