-- ==== Sys2Proof/Laws/State.lean ====
section
/-! SUPPORT. What each update of State, and of a wave, leaves as it was: one lemma per field. -/

namespace Sys2Proof.Machine

/-! ### setWave -/

@[simp] theorem State.setWave_mem (s : State) (w : WaveId) (x : Wave) : (s.setWave w x).mem = s.mem := rfl
@[simp] theorem State.setWave_remote (s : State) (w : WaveId) (x : Wave) : (s.setWave w x).remote = s.remote := rfl
@[simp] theorem State.setWave_remoteUp (s : State) (w : WaveId) (x : Wave) : (s.setWave w x).remoteUp = s.remoteUp := rfl
@[simp] theorem State.setWave_ecc (s : State) (w : WaveId) (x : Wave) : (s.setWave w x).ecc = s.ecc := rfl
@[simp] theorem State.setWave_lineKey (s : State) (w : WaveId) (x : Wave) : (s.setWave w x).lineKey = s.lineKey := rfl
@[simp] theorem State.setWave_remoteKey (s : State) (w : WaveId) (x : Wave) : (s.setWave w x).remoteKey = s.remoteKey := rfl
@[simp] theorem State.setWave_tiles (s : State) (w : WaveId) (x : Wave) : (s.setWave w x).tiles = s.tiles := rfl
@[simp] theorem State.setWave_ageb (s : State) (w : WaveId) (x : Wave) : (s.setWave w x).ageb = s.ageb := rfl
@[simp] theorem State.setWave_rtmo (s : State) (w : WaveId) (x : Wave) : (s.setWave w x).rtmo = s.rtmo := rfl
@[simp] theorem State.setWave_pcap (s : State) (w : WaveId) (x : Wave) : (s.setWave w x).pcap = s.pcap := rfl
@[simp] theorem State.setWave_throttle (s : State) (w : WaveId) (x : Wave) : (s.setWave w x).throttle = s.throttle := rfl
@[simp] theorem State.setWave_power (s : State) (w : WaveId) (x : Wave) : (s.setWave w x).power = s.power := rfl
@[simp] theorem State.setWave_curbHold (s : State) (w : WaveId) (x : Wave) : (s.setWave w x).curbHold = s.curbHold := rfl
@[simp] theorem State.setWave_curbT (s : State) (w : WaveId) (x : Wave) : (s.setWave w x).curbT = s.curbT := rfl
@[simp] theorem State.setWave_curbCount (s : State) (w : WaveId) (x : Wave) : (s.setWave w x).curbCount = s.curbCount := rfl
@[simp] theorem State.setWave_curbAlarms (s : State) (w : WaveId) (x : Wave) : (s.setWave w x).curbAlarms = s.curbAlarms := rfl
@[simp] theorem State.setWave_curbOn (s : State) (w : WaveId) (x : Wave) : (s.setWave w x).curbOn = s.curbOn := rfl
@[simp] theorem State.setWave_curbClear (s : State) (w : WaveId) (x : Wave) : (s.setWave w x).curbClear = s.curbClear := rfl
@[simp] theorem State.setWave_svcCmd (s : State) (w : WaveId) (x : Wave) : (s.setWave w x).svcCmd = s.svcCmd := rfl
@[simp] theorem State.setWave_svcStat (s : State) (w : WaveId) (x : Wave) : (s.setWave w x).svcStat = s.svcStat := rfl
@[simp] theorem State.setWave_svcPages (s : State) (w : WaveId) (x : Wave) : (s.setWave w x).svcPages = s.svcPages := rfl
@[simp] theorem State.setWave_keyIdx (s : State) (w : WaveId) (x : Wave) : (s.setWave w x).keyIdx = s.keyIdx := rfl
@[simp] theorem State.setWave_keyBusy (s : State) (w : WaveId) (x : Wave) : (s.setWave w x).keyBusy = s.keyBusy := rfl
@[simp] theorem State.setWave_keyData (s : State) (w : WaveId) (x : Wave) : (s.setWave w x).keyData = s.keyData := rfl
@[simp] theorem State.setWave_keys (s : State) (w : WaveId) (x : Wave) : (s.setWave w x).keys = s.keys := rfl
@[simp] theorem State.setWave_bootStat (s : State) (w : WaveId) (x : Wave) : (s.setWave w x).bootStat = s.bootStat := rfl
@[simp] theorem State.setWave_signKeys (s : State) (w : WaveId) (x : Wave) : (s.setWave w x).signKeys = s.signKeys := rfl
@[simp] theorem State.setWave_lqOwner (s : State) (w : WaveId) (x : Wave) : (s.setWave w x).lqOwner = s.lqOwner := rfl
@[simp] theorem State.setWave_chState (s : State) (w : WaveId) (x : Wave) : (s.setWave w x).chState = s.chState := rfl
@[simp] theorem State.setWave_linkStat (s : State) (w : WaveId) (x : Wave) : (s.setWave w x).linkStat = s.linkStat := rfl
@[simp] theorem State.setWave_portErrs (s : State) (w : WaveId) (x : Wave) : (s.setWave w x).portErrs = s.portErrs := rfl
@[simp] theorem State.setWave_windows (s : State) (w : WaveId) (x : Wave) : (s.setWave w x).windows = s.windows := rfl
@[simp] theorem State.setWave_spareUsed (s : State) (w : WaveId) (x : Wave) : (s.setWave w x).spareUsed = s.spareUsed := rfl
@[simp] theorem State.setWave_ostlers (s : State) (w : WaveId) (x : Wave) : (s.setWave w x).ostlers = s.ostlers := rfl
@[simp] theorem State.setWave_asids (s : State) (w : WaveId) (x : Wave) : (s.setWave w x).asids = s.asids := rfl
@[simp] theorem State.setWave_clusters (s : State) (w : WaveId) (x : Wave) : (s.setWave w x).clusters = s.clusters := rfl
@[simp] theorem State.setWave_launches (s : State) (w : WaveId) (x : Wave) : (s.setWave w x).launches = s.launches := rfl
@[simp] theorem State.setWave_crews (s : State) (w : WaveId) (x : Wave) : (s.setWave w x).crews = s.crews := rfl
@[simp] theorem State.setWave_gangs (s : State) (w : WaveId) (x : Wave) : (s.setWave w x).gangs = s.gangs := rfl
@[simp] theorem State.setWave_subs (s : State) (w : WaveId) (x : Wave) : (s.setWave w x).subs = s.subs := rfl
@[simp] theorem State.setWave_outbox (s : State) (w : WaveId) (x : Wave) : (s.setWave w x).outbox = s.outbox := rfl
@[simp] theorem State.setWave_signals (s : State) (w : WaveId) (x : Wave) : (s.setWave w x).signals = s.signals := rfl
@[simp] theorem State.setWave_rmaOut (s : State) (w : WaveId) (x : Wave) : (s.setWave w x).rmaOut = s.rmaOut := rfl
@[simp] theorem State.setWave_fwOut (s : State) (w : WaveId) (x : Wave) : (s.setWave w x).fwOut = s.fwOut := rfl
@[simp] theorem State.setWave_free (s : State) (w : WaveId) (x : Wave) : (s.setWave w x).free = s.free := rfl
@[simp] theorem State.setWave_now (s : State) (w : WaveId) (x : Wave) : (s.setWave w x).now = s.now := rfl
@[simp] theorem State.setWave_focus (s : State) (w : WaveId) (x : Wave) : (s.setWave w x).focus = s.focus := rfl
@[simp] theorem State.setWave_agenda (s : State) (w : WaveId) (x : Wave) : (s.setWave w x).agenda = s.agenda := rfl

/-! ### setGang -/

@[simp] theorem State.setGang_mem (s : State) (g : GangId) (x : Gang) : (s.setGang g x).mem = s.mem := rfl
@[simp] theorem State.setGang_remote (s : State) (g : GangId) (x : Gang) : (s.setGang g x).remote = s.remote := rfl
@[simp] theorem State.setGang_remoteUp (s : State) (g : GangId) (x : Gang) : (s.setGang g x).remoteUp = s.remoteUp := rfl
@[simp] theorem State.setGang_ecc (s : State) (g : GangId) (x : Gang) : (s.setGang g x).ecc = s.ecc := rfl
@[simp] theorem State.setGang_lineKey (s : State) (g : GangId) (x : Gang) : (s.setGang g x).lineKey = s.lineKey := rfl
@[simp] theorem State.setGang_remoteKey (s : State) (g : GangId) (x : Gang) : (s.setGang g x).remoteKey = s.remoteKey := rfl
@[simp] theorem State.setGang_tiles (s : State) (g : GangId) (x : Gang) : (s.setGang g x).tiles = s.tiles := rfl
@[simp] theorem State.setGang_ageb (s : State) (g : GangId) (x : Gang) : (s.setGang g x).ageb = s.ageb := rfl
@[simp] theorem State.setGang_rtmo (s : State) (g : GangId) (x : Gang) : (s.setGang g x).rtmo = s.rtmo := rfl
@[simp] theorem State.setGang_pcap (s : State) (g : GangId) (x : Gang) : (s.setGang g x).pcap = s.pcap := rfl
@[simp] theorem State.setGang_throttle (s : State) (g : GangId) (x : Gang) : (s.setGang g x).throttle = s.throttle := rfl
@[simp] theorem State.setGang_power (s : State) (g : GangId) (x : Gang) : (s.setGang g x).power = s.power := rfl
@[simp] theorem State.setGang_curbHold (s : State) (g : GangId) (x : Gang) : (s.setGang g x).curbHold = s.curbHold := rfl
@[simp] theorem State.setGang_curbT (s : State) (g : GangId) (x : Gang) : (s.setGang g x).curbT = s.curbT := rfl
@[simp] theorem State.setGang_curbCount (s : State) (g : GangId) (x : Gang) : (s.setGang g x).curbCount = s.curbCount := rfl
@[simp] theorem State.setGang_curbAlarms (s : State) (g : GangId) (x : Gang) : (s.setGang g x).curbAlarms = s.curbAlarms := rfl
@[simp] theorem State.setGang_curbOn (s : State) (g : GangId) (x : Gang) : (s.setGang g x).curbOn = s.curbOn := rfl
@[simp] theorem State.setGang_curbClear (s : State) (g : GangId) (x : Gang) : (s.setGang g x).curbClear = s.curbClear := rfl
@[simp] theorem State.setGang_svcCmd (s : State) (g : GangId) (x : Gang) : (s.setGang g x).svcCmd = s.svcCmd := rfl
@[simp] theorem State.setGang_svcStat (s : State) (g : GangId) (x : Gang) : (s.setGang g x).svcStat = s.svcStat := rfl
@[simp] theorem State.setGang_svcPages (s : State) (g : GangId) (x : Gang) : (s.setGang g x).svcPages = s.svcPages := rfl
@[simp] theorem State.setGang_keyIdx (s : State) (g : GangId) (x : Gang) : (s.setGang g x).keyIdx = s.keyIdx := rfl
@[simp] theorem State.setGang_keyBusy (s : State) (g : GangId) (x : Gang) : (s.setGang g x).keyBusy = s.keyBusy := rfl
@[simp] theorem State.setGang_keyData (s : State) (g : GangId) (x : Gang) : (s.setGang g x).keyData = s.keyData := rfl
@[simp] theorem State.setGang_keys (s : State) (g : GangId) (x : Gang) : (s.setGang g x).keys = s.keys := rfl
@[simp] theorem State.setGang_bootStat (s : State) (g : GangId) (x : Gang) : (s.setGang g x).bootStat = s.bootStat := rfl
@[simp] theorem State.setGang_signKeys (s : State) (g : GangId) (x : Gang) : (s.setGang g x).signKeys = s.signKeys := rfl
@[simp] theorem State.setGang_lqOwner (s : State) (g : GangId) (x : Gang) : (s.setGang g x).lqOwner = s.lqOwner := rfl
@[simp] theorem State.setGang_chState (s : State) (g : GangId) (x : Gang) : (s.setGang g x).chState = s.chState := rfl
@[simp] theorem State.setGang_linkStat (s : State) (g : GangId) (x : Gang) : (s.setGang g x).linkStat = s.linkStat := rfl
@[simp] theorem State.setGang_portErrs (s : State) (g : GangId) (x : Gang) : (s.setGang g x).portErrs = s.portErrs := rfl
@[simp] theorem State.setGang_windows (s : State) (g : GangId) (x : Gang) : (s.setGang g x).windows = s.windows := rfl
@[simp] theorem State.setGang_spareUsed (s : State) (g : GangId) (x : Gang) : (s.setGang g x).spareUsed = s.spareUsed := rfl
@[simp] theorem State.setGang_ostlers (s : State) (g : GangId) (x : Gang) : (s.setGang g x).ostlers = s.ostlers := rfl
@[simp] theorem State.setGang_asids (s : State) (g : GangId) (x : Gang) : (s.setGang g x).asids = s.asids := rfl
@[simp] theorem State.setGang_clusters (s : State) (g : GangId) (x : Gang) : (s.setGang g x).clusters = s.clusters := rfl
@[simp] theorem State.setGang_launches (s : State) (g : GangId) (x : Gang) : (s.setGang g x).launches = s.launches := rfl
@[simp] theorem State.setGang_crews (s : State) (g : GangId) (x : Gang) : (s.setGang g x).crews = s.crews := rfl
@[simp] theorem State.setGang_waves (s : State) (g : GangId) (x : Gang) : (s.setGang g x).waves = s.waves := rfl
@[simp] theorem State.setGang_subs (s : State) (g : GangId) (x : Gang) : (s.setGang g x).subs = s.subs := rfl
@[simp] theorem State.setGang_outbox (s : State) (g : GangId) (x : Gang) : (s.setGang g x).outbox = s.outbox := rfl
@[simp] theorem State.setGang_signals (s : State) (g : GangId) (x : Gang) : (s.setGang g x).signals = s.signals := rfl
@[simp] theorem State.setGang_rmaOut (s : State) (g : GangId) (x : Gang) : (s.setGang g x).rmaOut = s.rmaOut := rfl
@[simp] theorem State.setGang_fwOut (s : State) (g : GangId) (x : Gang) : (s.setGang g x).fwOut = s.fwOut := rfl
@[simp] theorem State.setGang_free (s : State) (g : GangId) (x : Gang) : (s.setGang g x).free = s.free := rfl
@[simp] theorem State.setGang_now (s : State) (g : GangId) (x : Gang) : (s.setGang g x).now = s.now := rfl
@[simp] theorem State.setGang_focus (s : State) (g : GangId) (x : Gang) : (s.setGang g x).focus = s.focus := rfl
@[simp] theorem State.setGang_agenda (s : State) (g : GangId) (x : Gang) : (s.setGang g x).agenda = s.agenda := rfl

/-! ### setCrew -/

@[simp] theorem State.setCrew_mem (s : State) (c : CrewId) (x : Crew) : (s.setCrew c x).mem = s.mem := rfl
@[simp] theorem State.setCrew_remote (s : State) (c : CrewId) (x : Crew) : (s.setCrew c x).remote = s.remote := rfl
@[simp] theorem State.setCrew_remoteUp (s : State) (c : CrewId) (x : Crew) : (s.setCrew c x).remoteUp = s.remoteUp := rfl
@[simp] theorem State.setCrew_ecc (s : State) (c : CrewId) (x : Crew) : (s.setCrew c x).ecc = s.ecc := rfl
@[simp] theorem State.setCrew_lineKey (s : State) (c : CrewId) (x : Crew) : (s.setCrew c x).lineKey = s.lineKey := rfl
@[simp] theorem State.setCrew_remoteKey (s : State) (c : CrewId) (x : Crew) : (s.setCrew c x).remoteKey = s.remoteKey := rfl
@[simp] theorem State.setCrew_tiles (s : State) (c : CrewId) (x : Crew) : (s.setCrew c x).tiles = s.tiles := rfl
@[simp] theorem State.setCrew_ageb (s : State) (c : CrewId) (x : Crew) : (s.setCrew c x).ageb = s.ageb := rfl
@[simp] theorem State.setCrew_rtmo (s : State) (c : CrewId) (x : Crew) : (s.setCrew c x).rtmo = s.rtmo := rfl
@[simp] theorem State.setCrew_pcap (s : State) (c : CrewId) (x : Crew) : (s.setCrew c x).pcap = s.pcap := rfl
@[simp] theorem State.setCrew_throttle (s : State) (c : CrewId) (x : Crew) : (s.setCrew c x).throttle = s.throttle := rfl
@[simp] theorem State.setCrew_power (s : State) (c : CrewId) (x : Crew) : (s.setCrew c x).power = s.power := rfl
@[simp] theorem State.setCrew_curbHold (s : State) (c : CrewId) (x : Crew) : (s.setCrew c x).curbHold = s.curbHold := rfl
@[simp] theorem State.setCrew_curbT (s : State) (c : CrewId) (x : Crew) : (s.setCrew c x).curbT = s.curbT := rfl
@[simp] theorem State.setCrew_curbCount (s : State) (c : CrewId) (x : Crew) : (s.setCrew c x).curbCount = s.curbCount := rfl
@[simp] theorem State.setCrew_curbAlarms (s : State) (c : CrewId) (x : Crew) : (s.setCrew c x).curbAlarms = s.curbAlarms := rfl
@[simp] theorem State.setCrew_curbOn (s : State) (c : CrewId) (x : Crew) : (s.setCrew c x).curbOn = s.curbOn := rfl
@[simp] theorem State.setCrew_curbClear (s : State) (c : CrewId) (x : Crew) : (s.setCrew c x).curbClear = s.curbClear := rfl
@[simp] theorem State.setCrew_svcCmd (s : State) (c : CrewId) (x : Crew) : (s.setCrew c x).svcCmd = s.svcCmd := rfl
@[simp] theorem State.setCrew_svcStat (s : State) (c : CrewId) (x : Crew) : (s.setCrew c x).svcStat = s.svcStat := rfl
@[simp] theorem State.setCrew_svcPages (s : State) (c : CrewId) (x : Crew) : (s.setCrew c x).svcPages = s.svcPages := rfl
@[simp] theorem State.setCrew_keyIdx (s : State) (c : CrewId) (x : Crew) : (s.setCrew c x).keyIdx = s.keyIdx := rfl
@[simp] theorem State.setCrew_keyBusy (s : State) (c : CrewId) (x : Crew) : (s.setCrew c x).keyBusy = s.keyBusy := rfl
@[simp] theorem State.setCrew_keyData (s : State) (c : CrewId) (x : Crew) : (s.setCrew c x).keyData = s.keyData := rfl
@[simp] theorem State.setCrew_keys (s : State) (c : CrewId) (x : Crew) : (s.setCrew c x).keys = s.keys := rfl
@[simp] theorem State.setCrew_bootStat (s : State) (c : CrewId) (x : Crew) : (s.setCrew c x).bootStat = s.bootStat := rfl
@[simp] theorem State.setCrew_signKeys (s : State) (c : CrewId) (x : Crew) : (s.setCrew c x).signKeys = s.signKeys := rfl
@[simp] theorem State.setCrew_lqOwner (s : State) (c : CrewId) (x : Crew) : (s.setCrew c x).lqOwner = s.lqOwner := rfl
@[simp] theorem State.setCrew_chState (s : State) (c : CrewId) (x : Crew) : (s.setCrew c x).chState = s.chState := rfl
@[simp] theorem State.setCrew_linkStat (s : State) (c : CrewId) (x : Crew) : (s.setCrew c x).linkStat = s.linkStat := rfl
@[simp] theorem State.setCrew_portErrs (s : State) (c : CrewId) (x : Crew) : (s.setCrew c x).portErrs = s.portErrs := rfl
@[simp] theorem State.setCrew_windows (s : State) (c : CrewId) (x : Crew) : (s.setCrew c x).windows = s.windows := rfl
@[simp] theorem State.setCrew_spareUsed (s : State) (c : CrewId) (x : Crew) : (s.setCrew c x).spareUsed = s.spareUsed := rfl
@[simp] theorem State.setCrew_ostlers (s : State) (c : CrewId) (x : Crew) : (s.setCrew c x).ostlers = s.ostlers := rfl
@[simp] theorem State.setCrew_asids (s : State) (c : CrewId) (x : Crew) : (s.setCrew c x).asids = s.asids := rfl
@[simp] theorem State.setCrew_clusters (s : State) (c : CrewId) (x : Crew) : (s.setCrew c x).clusters = s.clusters := rfl
@[simp] theorem State.setCrew_launches (s : State) (c : CrewId) (x : Crew) : (s.setCrew c x).launches = s.launches := rfl
@[simp] theorem State.setCrew_gangs (s : State) (c : CrewId) (x : Crew) : (s.setCrew c x).gangs = s.gangs := rfl
@[simp] theorem State.setCrew_waves (s : State) (c : CrewId) (x : Crew) : (s.setCrew c x).waves = s.waves := rfl
@[simp] theorem State.setCrew_subs (s : State) (c : CrewId) (x : Crew) : (s.setCrew c x).subs = s.subs := rfl
@[simp] theorem State.setCrew_outbox (s : State) (c : CrewId) (x : Crew) : (s.setCrew c x).outbox = s.outbox := rfl
@[simp] theorem State.setCrew_signals (s : State) (c : CrewId) (x : Crew) : (s.setCrew c x).signals = s.signals := rfl
@[simp] theorem State.setCrew_rmaOut (s : State) (c : CrewId) (x : Crew) : (s.setCrew c x).rmaOut = s.rmaOut := rfl
@[simp] theorem State.setCrew_fwOut (s : State) (c : CrewId) (x : Crew) : (s.setCrew c x).fwOut = s.fwOut := rfl
@[simp] theorem State.setCrew_free (s : State) (c : CrewId) (x : Crew) : (s.setCrew c x).free = s.free := rfl
@[simp] theorem State.setCrew_now (s : State) (c : CrewId) (x : Crew) : (s.setCrew c x).now = s.now := rfl
@[simp] theorem State.setCrew_focus (s : State) (c : CrewId) (x : Crew) : (s.setCrew c x).focus = s.focus := rfl
@[simp] theorem State.setCrew_agenda (s : State) (c : CrewId) (x : Crew) : (s.setCrew c x).agenda = s.agenda := rfl

/-! ### setLaunch -/

@[simp] theorem State.setLaunch_mem (s : State) (l : Nat) (x : Launch) : (s.setLaunch l x).mem = s.mem := rfl
@[simp] theorem State.setLaunch_remote (s : State) (l : Nat) (x : Launch) : (s.setLaunch l x).remote = s.remote := rfl
@[simp] theorem State.setLaunch_remoteUp (s : State) (l : Nat) (x : Launch) : (s.setLaunch l x).remoteUp = s.remoteUp := rfl
@[simp] theorem State.setLaunch_ecc (s : State) (l : Nat) (x : Launch) : (s.setLaunch l x).ecc = s.ecc := rfl
@[simp] theorem State.setLaunch_lineKey (s : State) (l : Nat) (x : Launch) : (s.setLaunch l x).lineKey = s.lineKey := rfl
@[simp] theorem State.setLaunch_remoteKey (s : State) (l : Nat) (x : Launch) : (s.setLaunch l x).remoteKey = s.remoteKey := rfl
@[simp] theorem State.setLaunch_tiles (s : State) (l : Nat) (x : Launch) : (s.setLaunch l x).tiles = s.tiles := rfl
@[simp] theorem State.setLaunch_ageb (s : State) (l : Nat) (x : Launch) : (s.setLaunch l x).ageb = s.ageb := rfl
@[simp] theorem State.setLaunch_rtmo (s : State) (l : Nat) (x : Launch) : (s.setLaunch l x).rtmo = s.rtmo := rfl
@[simp] theorem State.setLaunch_pcap (s : State) (l : Nat) (x : Launch) : (s.setLaunch l x).pcap = s.pcap := rfl
@[simp] theorem State.setLaunch_throttle (s : State) (l : Nat) (x : Launch) : (s.setLaunch l x).throttle = s.throttle := rfl
@[simp] theorem State.setLaunch_power (s : State) (l : Nat) (x : Launch) : (s.setLaunch l x).power = s.power := rfl
@[simp] theorem State.setLaunch_curbHold (s : State) (l : Nat) (x : Launch) : (s.setLaunch l x).curbHold = s.curbHold := rfl
@[simp] theorem State.setLaunch_curbT (s : State) (l : Nat) (x : Launch) : (s.setLaunch l x).curbT = s.curbT := rfl
@[simp] theorem State.setLaunch_curbCount (s : State) (l : Nat) (x : Launch) : (s.setLaunch l x).curbCount = s.curbCount := rfl
@[simp] theorem State.setLaunch_curbAlarms (s : State) (l : Nat) (x : Launch) : (s.setLaunch l x).curbAlarms = s.curbAlarms := rfl
@[simp] theorem State.setLaunch_curbOn (s : State) (l : Nat) (x : Launch) : (s.setLaunch l x).curbOn = s.curbOn := rfl
@[simp] theorem State.setLaunch_curbClear (s : State) (l : Nat) (x : Launch) : (s.setLaunch l x).curbClear = s.curbClear := rfl
@[simp] theorem State.setLaunch_svcCmd (s : State) (l : Nat) (x : Launch) : (s.setLaunch l x).svcCmd = s.svcCmd := rfl
@[simp] theorem State.setLaunch_svcStat (s : State) (l : Nat) (x : Launch) : (s.setLaunch l x).svcStat = s.svcStat := rfl
@[simp] theorem State.setLaunch_svcPages (s : State) (l : Nat) (x : Launch) : (s.setLaunch l x).svcPages = s.svcPages := rfl
@[simp] theorem State.setLaunch_keyIdx (s : State) (l : Nat) (x : Launch) : (s.setLaunch l x).keyIdx = s.keyIdx := rfl
@[simp] theorem State.setLaunch_keyBusy (s : State) (l : Nat) (x : Launch) : (s.setLaunch l x).keyBusy = s.keyBusy := rfl
@[simp] theorem State.setLaunch_keyData (s : State) (l : Nat) (x : Launch) : (s.setLaunch l x).keyData = s.keyData := rfl
@[simp] theorem State.setLaunch_keys (s : State) (l : Nat) (x : Launch) : (s.setLaunch l x).keys = s.keys := rfl
@[simp] theorem State.setLaunch_bootStat (s : State) (l : Nat) (x : Launch) : (s.setLaunch l x).bootStat = s.bootStat := rfl
@[simp] theorem State.setLaunch_signKeys (s : State) (l : Nat) (x : Launch) : (s.setLaunch l x).signKeys = s.signKeys := rfl
@[simp] theorem State.setLaunch_lqOwner (s : State) (l : Nat) (x : Launch) : (s.setLaunch l x).lqOwner = s.lqOwner := rfl
@[simp] theorem State.setLaunch_chState (s : State) (l : Nat) (x : Launch) : (s.setLaunch l x).chState = s.chState := rfl
@[simp] theorem State.setLaunch_linkStat (s : State) (l : Nat) (x : Launch) : (s.setLaunch l x).linkStat = s.linkStat := rfl
@[simp] theorem State.setLaunch_portErrs (s : State) (l : Nat) (x : Launch) : (s.setLaunch l x).portErrs = s.portErrs := rfl
@[simp] theorem State.setLaunch_windows (s : State) (l : Nat) (x : Launch) : (s.setLaunch l x).windows = s.windows := rfl
@[simp] theorem State.setLaunch_spareUsed (s : State) (l : Nat) (x : Launch) : (s.setLaunch l x).spareUsed = s.spareUsed := rfl
@[simp] theorem State.setLaunch_ostlers (s : State) (l : Nat) (x : Launch) : (s.setLaunch l x).ostlers = s.ostlers := rfl
@[simp] theorem State.setLaunch_asids (s : State) (l : Nat) (x : Launch) : (s.setLaunch l x).asids = s.asids := rfl
@[simp] theorem State.setLaunch_clusters (s : State) (l : Nat) (x : Launch) : (s.setLaunch l x).clusters = s.clusters := rfl
@[simp] theorem State.setLaunch_crews (s : State) (l : Nat) (x : Launch) : (s.setLaunch l x).crews = s.crews := rfl
@[simp] theorem State.setLaunch_gangs (s : State) (l : Nat) (x : Launch) : (s.setLaunch l x).gangs = s.gangs := rfl
@[simp] theorem State.setLaunch_waves (s : State) (l : Nat) (x : Launch) : (s.setLaunch l x).waves = s.waves := rfl
@[simp] theorem State.setLaunch_subs (s : State) (l : Nat) (x : Launch) : (s.setLaunch l x).subs = s.subs := rfl
@[simp] theorem State.setLaunch_outbox (s : State) (l : Nat) (x : Launch) : (s.setLaunch l x).outbox = s.outbox := rfl
@[simp] theorem State.setLaunch_signals (s : State) (l : Nat) (x : Launch) : (s.setLaunch l x).signals = s.signals := rfl
@[simp] theorem State.setLaunch_rmaOut (s : State) (l : Nat) (x : Launch) : (s.setLaunch l x).rmaOut = s.rmaOut := rfl
@[simp] theorem State.setLaunch_fwOut (s : State) (l : Nat) (x : Launch) : (s.setLaunch l x).fwOut = s.fwOut := rfl
@[simp] theorem State.setLaunch_free (s : State) (l : Nat) (x : Launch) : (s.setLaunch l x).free = s.free := rfl
@[simp] theorem State.setLaunch_now (s : State) (l : Nat) (x : Launch) : (s.setLaunch l x).now = s.now := rfl
@[simp] theorem State.setLaunch_focus (s : State) (l : Nat) (x : Launch) : (s.setLaunch l x).focus = s.focus := rfl
@[simp] theorem State.setLaunch_agenda (s : State) (l : Nat) (x : Launch) : (s.setLaunch l x).agenda = s.agenda := rfl

/-! ### setCluster -/

@[simp] theorem State.setCluster_mem (s : State) (c : Nat) (x : Cluster) : (s.setCluster c x).mem = s.mem := rfl
@[simp] theorem State.setCluster_remote (s : State) (c : Nat) (x : Cluster) : (s.setCluster c x).remote = s.remote := rfl
@[simp] theorem State.setCluster_remoteUp (s : State) (c : Nat) (x : Cluster) : (s.setCluster c x).remoteUp = s.remoteUp := rfl
@[simp] theorem State.setCluster_ecc (s : State) (c : Nat) (x : Cluster) : (s.setCluster c x).ecc = s.ecc := rfl
@[simp] theorem State.setCluster_lineKey (s : State) (c : Nat) (x : Cluster) : (s.setCluster c x).lineKey = s.lineKey := rfl
@[simp] theorem State.setCluster_remoteKey (s : State) (c : Nat) (x : Cluster) : (s.setCluster c x).remoteKey = s.remoteKey := rfl
@[simp] theorem State.setCluster_tiles (s : State) (c : Nat) (x : Cluster) : (s.setCluster c x).tiles = s.tiles := rfl
@[simp] theorem State.setCluster_ageb (s : State) (c : Nat) (x : Cluster) : (s.setCluster c x).ageb = s.ageb := rfl
@[simp] theorem State.setCluster_rtmo (s : State) (c : Nat) (x : Cluster) : (s.setCluster c x).rtmo = s.rtmo := rfl
@[simp] theorem State.setCluster_pcap (s : State) (c : Nat) (x : Cluster) : (s.setCluster c x).pcap = s.pcap := rfl
@[simp] theorem State.setCluster_throttle (s : State) (c : Nat) (x : Cluster) : (s.setCluster c x).throttle = s.throttle := rfl
@[simp] theorem State.setCluster_power (s : State) (c : Nat) (x : Cluster) : (s.setCluster c x).power = s.power := rfl
@[simp] theorem State.setCluster_curbHold (s : State) (c : Nat) (x : Cluster) : (s.setCluster c x).curbHold = s.curbHold := rfl
@[simp] theorem State.setCluster_curbT (s : State) (c : Nat) (x : Cluster) : (s.setCluster c x).curbT = s.curbT := rfl
@[simp] theorem State.setCluster_curbCount (s : State) (c : Nat) (x : Cluster) : (s.setCluster c x).curbCount = s.curbCount := rfl
@[simp] theorem State.setCluster_curbAlarms (s : State) (c : Nat) (x : Cluster) : (s.setCluster c x).curbAlarms = s.curbAlarms := rfl
@[simp] theorem State.setCluster_curbOn (s : State) (c : Nat) (x : Cluster) : (s.setCluster c x).curbOn = s.curbOn := rfl
@[simp] theorem State.setCluster_curbClear (s : State) (c : Nat) (x : Cluster) : (s.setCluster c x).curbClear = s.curbClear := rfl
@[simp] theorem State.setCluster_svcCmd (s : State) (c : Nat) (x : Cluster) : (s.setCluster c x).svcCmd = s.svcCmd := rfl
@[simp] theorem State.setCluster_svcStat (s : State) (c : Nat) (x : Cluster) : (s.setCluster c x).svcStat = s.svcStat := rfl
@[simp] theorem State.setCluster_svcPages (s : State) (c : Nat) (x : Cluster) : (s.setCluster c x).svcPages = s.svcPages := rfl
@[simp] theorem State.setCluster_keyIdx (s : State) (c : Nat) (x : Cluster) : (s.setCluster c x).keyIdx = s.keyIdx := rfl
@[simp] theorem State.setCluster_keyBusy (s : State) (c : Nat) (x : Cluster) : (s.setCluster c x).keyBusy = s.keyBusy := rfl
@[simp] theorem State.setCluster_keyData (s : State) (c : Nat) (x : Cluster) : (s.setCluster c x).keyData = s.keyData := rfl
@[simp] theorem State.setCluster_keys (s : State) (c : Nat) (x : Cluster) : (s.setCluster c x).keys = s.keys := rfl
@[simp] theorem State.setCluster_bootStat (s : State) (c : Nat) (x : Cluster) : (s.setCluster c x).bootStat = s.bootStat := rfl
@[simp] theorem State.setCluster_signKeys (s : State) (c : Nat) (x : Cluster) : (s.setCluster c x).signKeys = s.signKeys := rfl
@[simp] theorem State.setCluster_lqOwner (s : State) (c : Nat) (x : Cluster) : (s.setCluster c x).lqOwner = s.lqOwner := rfl
@[simp] theorem State.setCluster_chState (s : State) (c : Nat) (x : Cluster) : (s.setCluster c x).chState = s.chState := rfl
@[simp] theorem State.setCluster_linkStat (s : State) (c : Nat) (x : Cluster) : (s.setCluster c x).linkStat = s.linkStat := rfl
@[simp] theorem State.setCluster_portErrs (s : State) (c : Nat) (x : Cluster) : (s.setCluster c x).portErrs = s.portErrs := rfl
@[simp] theorem State.setCluster_windows (s : State) (c : Nat) (x : Cluster) : (s.setCluster c x).windows = s.windows := rfl
@[simp] theorem State.setCluster_spareUsed (s : State) (c : Nat) (x : Cluster) : (s.setCluster c x).spareUsed = s.spareUsed := rfl
@[simp] theorem State.setCluster_ostlers (s : State) (c : Nat) (x : Cluster) : (s.setCluster c x).ostlers = s.ostlers := rfl
@[simp] theorem State.setCluster_asids (s : State) (c : Nat) (x : Cluster) : (s.setCluster c x).asids = s.asids := rfl
@[simp] theorem State.setCluster_launches (s : State) (c : Nat) (x : Cluster) : (s.setCluster c x).launches = s.launches := rfl
@[simp] theorem State.setCluster_crews (s : State) (c : Nat) (x : Cluster) : (s.setCluster c x).crews = s.crews := rfl
@[simp] theorem State.setCluster_gangs (s : State) (c : Nat) (x : Cluster) : (s.setCluster c x).gangs = s.gangs := rfl
@[simp] theorem State.setCluster_waves (s : State) (c : Nat) (x : Cluster) : (s.setCluster c x).waves = s.waves := rfl
@[simp] theorem State.setCluster_subs (s : State) (c : Nat) (x : Cluster) : (s.setCluster c x).subs = s.subs := rfl
@[simp] theorem State.setCluster_outbox (s : State) (c : Nat) (x : Cluster) : (s.setCluster c x).outbox = s.outbox := rfl
@[simp] theorem State.setCluster_signals (s : State) (c : Nat) (x : Cluster) : (s.setCluster c x).signals = s.signals := rfl
@[simp] theorem State.setCluster_rmaOut (s : State) (c : Nat) (x : Cluster) : (s.setCluster c x).rmaOut = s.rmaOut := rfl
@[simp] theorem State.setCluster_fwOut (s : State) (c : Nat) (x : Cluster) : (s.setCluster c x).fwOut = s.fwOut := rfl
@[simp] theorem State.setCluster_free (s : State) (c : Nat) (x : Cluster) : (s.setCluster c x).free = s.free := rfl
@[simp] theorem State.setCluster_now (s : State) (c : Nat) (x : Cluster) : (s.setCluster c x).now = s.now := rfl
@[simp] theorem State.setCluster_focus (s : State) (c : Nat) (x : Cluster) : (s.setCluster c x).focus = s.focus := rfl
@[simp] theorem State.setCluster_agenda (s : State) (c : Nat) (x : Cluster) : (s.setCluster c x).agenda = s.agenda := rfl

/-! ### setAsid -/

@[simp] theorem State.setAsid_mem (s : State) (a : Nat) (x : Asid) : (s.setAsid a x).mem = s.mem := rfl
@[simp] theorem State.setAsid_remote (s : State) (a : Nat) (x : Asid) : (s.setAsid a x).remote = s.remote := rfl
@[simp] theorem State.setAsid_remoteUp (s : State) (a : Nat) (x : Asid) : (s.setAsid a x).remoteUp = s.remoteUp := rfl
@[simp] theorem State.setAsid_ecc (s : State) (a : Nat) (x : Asid) : (s.setAsid a x).ecc = s.ecc := rfl
@[simp] theorem State.setAsid_lineKey (s : State) (a : Nat) (x : Asid) : (s.setAsid a x).lineKey = s.lineKey := rfl
@[simp] theorem State.setAsid_remoteKey (s : State) (a : Nat) (x : Asid) : (s.setAsid a x).remoteKey = s.remoteKey := rfl
@[simp] theorem State.setAsid_tiles (s : State) (a : Nat) (x : Asid) : (s.setAsid a x).tiles = s.tiles := rfl
@[simp] theorem State.setAsid_ageb (s : State) (a : Nat) (x : Asid) : (s.setAsid a x).ageb = s.ageb := rfl
@[simp] theorem State.setAsid_rtmo (s : State) (a : Nat) (x : Asid) : (s.setAsid a x).rtmo = s.rtmo := rfl
@[simp] theorem State.setAsid_pcap (s : State) (a : Nat) (x : Asid) : (s.setAsid a x).pcap = s.pcap := rfl
@[simp] theorem State.setAsid_throttle (s : State) (a : Nat) (x : Asid) : (s.setAsid a x).throttle = s.throttle := rfl
@[simp] theorem State.setAsid_power (s : State) (a : Nat) (x : Asid) : (s.setAsid a x).power = s.power := rfl
@[simp] theorem State.setAsid_curbHold (s : State) (a : Nat) (x : Asid) : (s.setAsid a x).curbHold = s.curbHold := rfl
@[simp] theorem State.setAsid_curbT (s : State) (a : Nat) (x : Asid) : (s.setAsid a x).curbT = s.curbT := rfl
@[simp] theorem State.setAsid_curbCount (s : State) (a : Nat) (x : Asid) : (s.setAsid a x).curbCount = s.curbCount := rfl
@[simp] theorem State.setAsid_curbAlarms (s : State) (a : Nat) (x : Asid) : (s.setAsid a x).curbAlarms = s.curbAlarms := rfl
@[simp] theorem State.setAsid_curbOn (s : State) (a : Nat) (x : Asid) : (s.setAsid a x).curbOn = s.curbOn := rfl
@[simp] theorem State.setAsid_curbClear (s : State) (a : Nat) (x : Asid) : (s.setAsid a x).curbClear = s.curbClear := rfl
@[simp] theorem State.setAsid_svcCmd (s : State) (a : Nat) (x : Asid) : (s.setAsid a x).svcCmd = s.svcCmd := rfl
@[simp] theorem State.setAsid_svcStat (s : State) (a : Nat) (x : Asid) : (s.setAsid a x).svcStat = s.svcStat := rfl
@[simp] theorem State.setAsid_svcPages (s : State) (a : Nat) (x : Asid) : (s.setAsid a x).svcPages = s.svcPages := rfl
@[simp] theorem State.setAsid_keyIdx (s : State) (a : Nat) (x : Asid) : (s.setAsid a x).keyIdx = s.keyIdx := rfl
@[simp] theorem State.setAsid_keyBusy (s : State) (a : Nat) (x : Asid) : (s.setAsid a x).keyBusy = s.keyBusy := rfl
@[simp] theorem State.setAsid_keyData (s : State) (a : Nat) (x : Asid) : (s.setAsid a x).keyData = s.keyData := rfl
@[simp] theorem State.setAsid_keys (s : State) (a : Nat) (x : Asid) : (s.setAsid a x).keys = s.keys := rfl
@[simp] theorem State.setAsid_bootStat (s : State) (a : Nat) (x : Asid) : (s.setAsid a x).bootStat = s.bootStat := rfl
@[simp] theorem State.setAsid_signKeys (s : State) (a : Nat) (x : Asid) : (s.setAsid a x).signKeys = s.signKeys := rfl
@[simp] theorem State.setAsid_lqOwner (s : State) (a : Nat) (x : Asid) : (s.setAsid a x).lqOwner = s.lqOwner := rfl
@[simp] theorem State.setAsid_chState (s : State) (a : Nat) (x : Asid) : (s.setAsid a x).chState = s.chState := rfl
@[simp] theorem State.setAsid_linkStat (s : State) (a : Nat) (x : Asid) : (s.setAsid a x).linkStat = s.linkStat := rfl
@[simp] theorem State.setAsid_portErrs (s : State) (a : Nat) (x : Asid) : (s.setAsid a x).portErrs = s.portErrs := rfl
@[simp] theorem State.setAsid_windows (s : State) (a : Nat) (x : Asid) : (s.setAsid a x).windows = s.windows := rfl
@[simp] theorem State.setAsid_spareUsed (s : State) (a : Nat) (x : Asid) : (s.setAsid a x).spareUsed = s.spareUsed := rfl
@[simp] theorem State.setAsid_ostlers (s : State) (a : Nat) (x : Asid) : (s.setAsid a x).ostlers = s.ostlers := rfl
@[simp] theorem State.setAsid_clusters (s : State) (a : Nat) (x : Asid) : (s.setAsid a x).clusters = s.clusters := rfl
@[simp] theorem State.setAsid_launches (s : State) (a : Nat) (x : Asid) : (s.setAsid a x).launches = s.launches := rfl
@[simp] theorem State.setAsid_crews (s : State) (a : Nat) (x : Asid) : (s.setAsid a x).crews = s.crews := rfl
@[simp] theorem State.setAsid_gangs (s : State) (a : Nat) (x : Asid) : (s.setAsid a x).gangs = s.gangs := rfl
@[simp] theorem State.setAsid_waves (s : State) (a : Nat) (x : Asid) : (s.setAsid a x).waves = s.waves := rfl
@[simp] theorem State.setAsid_subs (s : State) (a : Nat) (x : Asid) : (s.setAsid a x).subs = s.subs := rfl
@[simp] theorem State.setAsid_outbox (s : State) (a : Nat) (x : Asid) : (s.setAsid a x).outbox = s.outbox := rfl
@[simp] theorem State.setAsid_signals (s : State) (a : Nat) (x : Asid) : (s.setAsid a x).signals = s.signals := rfl
@[simp] theorem State.setAsid_rmaOut (s : State) (a : Nat) (x : Asid) : (s.setAsid a x).rmaOut = s.rmaOut := rfl
@[simp] theorem State.setAsid_fwOut (s : State) (a : Nat) (x : Asid) : (s.setAsid a x).fwOut = s.fwOut := rfl
@[simp] theorem State.setAsid_free (s : State) (a : Nat) (x : Asid) : (s.setAsid a x).free = s.free := rfl
@[simp] theorem State.setAsid_now (s : State) (a : Nat) (x : Asid) : (s.setAsid a x).now = s.now := rfl
@[simp] theorem State.setAsid_focus (s : State) (a : Nat) (x : Asid) : (s.setAsid a x).focus = s.focus := rfl
@[simp] theorem State.setAsid_agenda (s : State) (a : Nat) (x : Asid) : (s.setAsid a x).agenda = s.agenda := rfl

/-! ### setMem -/

@[simp] theorem State.setMem_remote (s : State) (m : Memory) : (s.setMem m).remote = s.remote := rfl
@[simp] theorem State.setMem_remoteUp (s : State) (m : Memory) : (s.setMem m).remoteUp = s.remoteUp := rfl
@[simp] theorem State.setMem_ecc (s : State) (m : Memory) : (s.setMem m).ecc = s.ecc := rfl
@[simp] theorem State.setMem_lineKey (s : State) (m : Memory) : (s.setMem m).lineKey = s.lineKey := rfl
@[simp] theorem State.setMem_remoteKey (s : State) (m : Memory) : (s.setMem m).remoteKey = s.remoteKey := rfl
@[simp] theorem State.setMem_tiles (s : State) (m : Memory) : (s.setMem m).tiles = s.tiles := rfl
@[simp] theorem State.setMem_ageb (s : State) (m : Memory) : (s.setMem m).ageb = s.ageb := rfl
@[simp] theorem State.setMem_rtmo (s : State) (m : Memory) : (s.setMem m).rtmo = s.rtmo := rfl
@[simp] theorem State.setMem_pcap (s : State) (m : Memory) : (s.setMem m).pcap = s.pcap := rfl
@[simp] theorem State.setMem_throttle (s : State) (m : Memory) : (s.setMem m).throttle = s.throttle := rfl
@[simp] theorem State.setMem_power (s : State) (m : Memory) : (s.setMem m).power = s.power := rfl
@[simp] theorem State.setMem_curbHold (s : State) (m : Memory) : (s.setMem m).curbHold = s.curbHold := rfl
@[simp] theorem State.setMem_curbT (s : State) (m : Memory) : (s.setMem m).curbT = s.curbT := rfl
@[simp] theorem State.setMem_curbCount (s : State) (m : Memory) : (s.setMem m).curbCount = s.curbCount := rfl
@[simp] theorem State.setMem_curbAlarms (s : State) (m : Memory) : (s.setMem m).curbAlarms = s.curbAlarms := rfl
@[simp] theorem State.setMem_curbOn (s : State) (m : Memory) : (s.setMem m).curbOn = s.curbOn := rfl
@[simp] theorem State.setMem_curbClear (s : State) (m : Memory) : (s.setMem m).curbClear = s.curbClear := rfl
@[simp] theorem State.setMem_svcCmd (s : State) (m : Memory) : (s.setMem m).svcCmd = s.svcCmd := rfl
@[simp] theorem State.setMem_svcStat (s : State) (m : Memory) : (s.setMem m).svcStat = s.svcStat := rfl
@[simp] theorem State.setMem_svcPages (s : State) (m : Memory) : (s.setMem m).svcPages = s.svcPages := rfl
@[simp] theorem State.setMem_keyIdx (s : State) (m : Memory) : (s.setMem m).keyIdx = s.keyIdx := rfl
@[simp] theorem State.setMem_keyBusy (s : State) (m : Memory) : (s.setMem m).keyBusy = s.keyBusy := rfl
@[simp] theorem State.setMem_keyData (s : State) (m : Memory) : (s.setMem m).keyData = s.keyData := rfl
@[simp] theorem State.setMem_keys (s : State) (m : Memory) : (s.setMem m).keys = s.keys := rfl
@[simp] theorem State.setMem_bootStat (s : State) (m : Memory) : (s.setMem m).bootStat = s.bootStat := rfl
@[simp] theorem State.setMem_signKeys (s : State) (m : Memory) : (s.setMem m).signKeys = s.signKeys := rfl
@[simp] theorem State.setMem_lqOwner (s : State) (m : Memory) : (s.setMem m).lqOwner = s.lqOwner := rfl
@[simp] theorem State.setMem_chState (s : State) (m : Memory) : (s.setMem m).chState = s.chState := rfl
@[simp] theorem State.setMem_linkStat (s : State) (m : Memory) : (s.setMem m).linkStat = s.linkStat := rfl
@[simp] theorem State.setMem_portErrs (s : State) (m : Memory) : (s.setMem m).portErrs = s.portErrs := rfl
@[simp] theorem State.setMem_windows (s : State) (m : Memory) : (s.setMem m).windows = s.windows := rfl
@[simp] theorem State.setMem_spareUsed (s : State) (m : Memory) : (s.setMem m).spareUsed = s.spareUsed := rfl
@[simp] theorem State.setMem_ostlers (s : State) (m : Memory) : (s.setMem m).ostlers = s.ostlers := rfl
@[simp] theorem State.setMem_asids (s : State) (m : Memory) : (s.setMem m).asids = s.asids := rfl
@[simp] theorem State.setMem_clusters (s : State) (m : Memory) : (s.setMem m).clusters = s.clusters := rfl
@[simp] theorem State.setMem_launches (s : State) (m : Memory) : (s.setMem m).launches = s.launches := rfl
@[simp] theorem State.setMem_crews (s : State) (m : Memory) : (s.setMem m).crews = s.crews := rfl
@[simp] theorem State.setMem_gangs (s : State) (m : Memory) : (s.setMem m).gangs = s.gangs := rfl
@[simp] theorem State.setMem_waves (s : State) (m : Memory) : (s.setMem m).waves = s.waves := rfl
@[simp] theorem State.setMem_subs (s : State) (m : Memory) : (s.setMem m).subs = s.subs := rfl
@[simp] theorem State.setMem_outbox (s : State) (m : Memory) : (s.setMem m).outbox = s.outbox := rfl
@[simp] theorem State.setMem_signals (s : State) (m : Memory) : (s.setMem m).signals = s.signals := rfl
@[simp] theorem State.setMem_rmaOut (s : State) (m : Memory) : (s.setMem m).rmaOut = s.rmaOut := rfl
@[simp] theorem State.setMem_fwOut (s : State) (m : Memory) : (s.setMem m).fwOut = s.fwOut := rfl
@[simp] theorem State.setMem_free (s : State) (m : Memory) : (s.setMem m).free = s.free := rfl
@[simp] theorem State.setMem_now (s : State) (m : Memory) : (s.setMem m).now = s.now := rfl
@[simp] theorem State.setMem_focus (s : State) (m : Memory) : (s.setMem m).focus = s.focus := rfl
@[simp] theorem State.setMem_agenda (s : State) (m : Memory) : (s.setMem m).agenda = s.agenda := rfl

@[simp] theorem State.setMem_mem (s : State) (m : Memory) : (s.setMem m).mem = m := rfl

/-! ### modWave -/

@[simp] theorem State.modWave_mem (s : State) (w : WaveId) (f : Wave → Wave) : (s.modWave w f).mem = s.mem := by
  unfold State.modWave; split <;> rfl
@[simp] theorem State.modWave_remote (s : State) (w : WaveId) (f : Wave → Wave) : (s.modWave w f).remote = s.remote := by
  unfold State.modWave; split <;> rfl
@[simp] theorem State.modWave_remoteUp (s : State) (w : WaveId) (f : Wave → Wave) : (s.modWave w f).remoteUp = s.remoteUp := by
  unfold State.modWave; split <;> rfl
@[simp] theorem State.modWave_ecc (s : State) (w : WaveId) (f : Wave → Wave) : (s.modWave w f).ecc = s.ecc := by
  unfold State.modWave; split <;> rfl
@[simp] theorem State.modWave_lineKey (s : State) (w : WaveId) (f : Wave → Wave) : (s.modWave w f).lineKey = s.lineKey := by
  unfold State.modWave; split <;> rfl
@[simp] theorem State.modWave_remoteKey (s : State) (w : WaveId) (f : Wave → Wave) : (s.modWave w f).remoteKey = s.remoteKey := by
  unfold State.modWave; split <;> rfl
@[simp] theorem State.modWave_tiles (s : State) (w : WaveId) (f : Wave → Wave) : (s.modWave w f).tiles = s.tiles := by
  unfold State.modWave; split <;> rfl
@[simp] theorem State.modWave_ageb (s : State) (w : WaveId) (f : Wave → Wave) : (s.modWave w f).ageb = s.ageb := by
  unfold State.modWave; split <;> rfl
@[simp] theorem State.modWave_rtmo (s : State) (w : WaveId) (f : Wave → Wave) : (s.modWave w f).rtmo = s.rtmo := by
  unfold State.modWave; split <;> rfl
@[simp] theorem State.modWave_pcap (s : State) (w : WaveId) (f : Wave → Wave) : (s.modWave w f).pcap = s.pcap := by
  unfold State.modWave; split <;> rfl
@[simp] theorem State.modWave_throttle (s : State) (w : WaveId) (f : Wave → Wave) : (s.modWave w f).throttle = s.throttle := by
  unfold State.modWave; split <;> rfl
@[simp] theorem State.modWave_power (s : State) (w : WaveId) (f : Wave → Wave) : (s.modWave w f).power = s.power := by
  unfold State.modWave; split <;> rfl
@[simp] theorem State.modWave_curbHold (s : State) (w : WaveId) (f : Wave → Wave) : (s.modWave w f).curbHold = s.curbHold := by
  unfold State.modWave; split <;> rfl
@[simp] theorem State.modWave_curbT (s : State) (w : WaveId) (f : Wave → Wave) : (s.modWave w f).curbT = s.curbT := by
  unfold State.modWave; split <;> rfl
@[simp] theorem State.modWave_curbCount (s : State) (w : WaveId) (f : Wave → Wave) : (s.modWave w f).curbCount = s.curbCount := by
  unfold State.modWave; split <;> rfl
@[simp] theorem State.modWave_curbAlarms (s : State) (w : WaveId) (f : Wave → Wave) : (s.modWave w f).curbAlarms = s.curbAlarms := by
  unfold State.modWave; split <;> rfl
@[simp] theorem State.modWave_curbOn (s : State) (w : WaveId) (f : Wave → Wave) : (s.modWave w f).curbOn = s.curbOn := by
  unfold State.modWave; split <;> rfl
@[simp] theorem State.modWave_curbClear (s : State) (w : WaveId) (f : Wave → Wave) : (s.modWave w f).curbClear = s.curbClear := by
  unfold State.modWave; split <;> rfl
@[simp] theorem State.modWave_svcCmd (s : State) (w : WaveId) (f : Wave → Wave) : (s.modWave w f).svcCmd = s.svcCmd := by
  unfold State.modWave; split <;> rfl
@[simp] theorem State.modWave_svcStat (s : State) (w : WaveId) (f : Wave → Wave) : (s.modWave w f).svcStat = s.svcStat := by
  unfold State.modWave; split <;> rfl
@[simp] theorem State.modWave_svcPages (s : State) (w : WaveId) (f : Wave → Wave) : (s.modWave w f).svcPages = s.svcPages := by
  unfold State.modWave; split <;> rfl
@[simp] theorem State.modWave_keyIdx (s : State) (w : WaveId) (f : Wave → Wave) : (s.modWave w f).keyIdx = s.keyIdx := by
  unfold State.modWave; split <;> rfl
@[simp] theorem State.modWave_keyBusy (s : State) (w : WaveId) (f : Wave → Wave) : (s.modWave w f).keyBusy = s.keyBusy := by
  unfold State.modWave; split <;> rfl
@[simp] theorem State.modWave_keyData (s : State) (w : WaveId) (f : Wave → Wave) : (s.modWave w f).keyData = s.keyData := by
  unfold State.modWave; split <;> rfl
@[simp] theorem State.modWave_keys (s : State) (w : WaveId) (f : Wave → Wave) : (s.modWave w f).keys = s.keys := by
  unfold State.modWave; split <;> rfl
@[simp] theorem State.modWave_bootStat (s : State) (w : WaveId) (f : Wave → Wave) : (s.modWave w f).bootStat = s.bootStat := by
  unfold State.modWave; split <;> rfl
@[simp] theorem State.modWave_signKeys (s : State) (w : WaveId) (f : Wave → Wave) : (s.modWave w f).signKeys = s.signKeys := by
  unfold State.modWave; split <;> rfl
@[simp] theorem State.modWave_lqOwner (s : State) (w : WaveId) (f : Wave → Wave) : (s.modWave w f).lqOwner = s.lqOwner := by
  unfold State.modWave; split <;> rfl
@[simp] theorem State.modWave_chState (s : State) (w : WaveId) (f : Wave → Wave) : (s.modWave w f).chState = s.chState := by
  unfold State.modWave; split <;> rfl
@[simp] theorem State.modWave_linkStat (s : State) (w : WaveId) (f : Wave → Wave) : (s.modWave w f).linkStat = s.linkStat := by
  unfold State.modWave; split <;> rfl
@[simp] theorem State.modWave_portErrs (s : State) (w : WaveId) (f : Wave → Wave) : (s.modWave w f).portErrs = s.portErrs := by
  unfold State.modWave; split <;> rfl
@[simp] theorem State.modWave_windows (s : State) (w : WaveId) (f : Wave → Wave) : (s.modWave w f).windows = s.windows := by
  unfold State.modWave; split <;> rfl
@[simp] theorem State.modWave_spareUsed (s : State) (w : WaveId) (f : Wave → Wave) : (s.modWave w f).spareUsed = s.spareUsed := by
  unfold State.modWave; split <;> rfl
@[simp] theorem State.modWave_ostlers (s : State) (w : WaveId) (f : Wave → Wave) : (s.modWave w f).ostlers = s.ostlers := by
  unfold State.modWave; split <;> rfl
@[simp] theorem State.modWave_asids (s : State) (w : WaveId) (f : Wave → Wave) : (s.modWave w f).asids = s.asids := by
  unfold State.modWave; split <;> rfl
@[simp] theorem State.modWave_clusters (s : State) (w : WaveId) (f : Wave → Wave) : (s.modWave w f).clusters = s.clusters := by
  unfold State.modWave; split <;> rfl
@[simp] theorem State.modWave_launches (s : State) (w : WaveId) (f : Wave → Wave) : (s.modWave w f).launches = s.launches := by
  unfold State.modWave; split <;> rfl
@[simp] theorem State.modWave_crews (s : State) (w : WaveId) (f : Wave → Wave) : (s.modWave w f).crews = s.crews := by
  unfold State.modWave; split <;> rfl
@[simp] theorem State.modWave_gangs (s : State) (w : WaveId) (f : Wave → Wave) : (s.modWave w f).gangs = s.gangs := by
  unfold State.modWave; split <;> rfl
@[simp] theorem State.modWave_subs (s : State) (w : WaveId) (f : Wave → Wave) : (s.modWave w f).subs = s.subs := by
  unfold State.modWave; split <;> rfl
@[simp] theorem State.modWave_outbox (s : State) (w : WaveId) (f : Wave → Wave) : (s.modWave w f).outbox = s.outbox := by
  unfold State.modWave; split <;> rfl
@[simp] theorem State.modWave_signals (s : State) (w : WaveId) (f : Wave → Wave) : (s.modWave w f).signals = s.signals := by
  unfold State.modWave; split <;> rfl
@[simp] theorem State.modWave_rmaOut (s : State) (w : WaveId) (f : Wave → Wave) : (s.modWave w f).rmaOut = s.rmaOut := by
  unfold State.modWave; split <;> rfl
@[simp] theorem State.modWave_fwOut (s : State) (w : WaveId) (f : Wave → Wave) : (s.modWave w f).fwOut = s.fwOut := by
  unfold State.modWave; split <;> rfl
@[simp] theorem State.modWave_free (s : State) (w : WaveId) (f : Wave → Wave) : (s.modWave w f).free = s.free := by
  unfold State.modWave; split <;> rfl
@[simp] theorem State.modWave_now (s : State) (w : WaveId) (f : Wave → Wave) : (s.modWave w f).now = s.now := by
  unfold State.modWave; split <;> rfl
@[simp] theorem State.modWave_focus (s : State) (w : WaveId) (f : Wave → Wave) : (s.modWave w f).focus = s.focus := by
  unfold State.modWave; split <;> rfl
@[simp] theorem State.modWave_agenda (s : State) (w : WaveId) (f : Wave → Wave) : (s.modWave w f).agenda = s.agenda := by
  unfold State.modWave; split <;> rfl

/-! ### modGang -/

@[simp] theorem State.modGang_mem (s : State) (g : GangId) (f : Gang → Gang) : (s.modGang g f).mem = s.mem := by
  unfold State.modGang; split <;> rfl
@[simp] theorem State.modGang_remote (s : State) (g : GangId) (f : Gang → Gang) : (s.modGang g f).remote = s.remote := by
  unfold State.modGang; split <;> rfl
@[simp] theorem State.modGang_remoteUp (s : State) (g : GangId) (f : Gang → Gang) : (s.modGang g f).remoteUp = s.remoteUp := by
  unfold State.modGang; split <;> rfl
@[simp] theorem State.modGang_ecc (s : State) (g : GangId) (f : Gang → Gang) : (s.modGang g f).ecc = s.ecc := by
  unfold State.modGang; split <;> rfl
@[simp] theorem State.modGang_lineKey (s : State) (g : GangId) (f : Gang → Gang) : (s.modGang g f).lineKey = s.lineKey := by
  unfold State.modGang; split <;> rfl
@[simp] theorem State.modGang_remoteKey (s : State) (g : GangId) (f : Gang → Gang) : (s.modGang g f).remoteKey = s.remoteKey := by
  unfold State.modGang; split <;> rfl
@[simp] theorem State.modGang_tiles (s : State) (g : GangId) (f : Gang → Gang) : (s.modGang g f).tiles = s.tiles := by
  unfold State.modGang; split <;> rfl
@[simp] theorem State.modGang_ageb (s : State) (g : GangId) (f : Gang → Gang) : (s.modGang g f).ageb = s.ageb := by
  unfold State.modGang; split <;> rfl
@[simp] theorem State.modGang_rtmo (s : State) (g : GangId) (f : Gang → Gang) : (s.modGang g f).rtmo = s.rtmo := by
  unfold State.modGang; split <;> rfl
@[simp] theorem State.modGang_pcap (s : State) (g : GangId) (f : Gang → Gang) : (s.modGang g f).pcap = s.pcap := by
  unfold State.modGang; split <;> rfl
@[simp] theorem State.modGang_throttle (s : State) (g : GangId) (f : Gang → Gang) : (s.modGang g f).throttle = s.throttle := by
  unfold State.modGang; split <;> rfl
@[simp] theorem State.modGang_power (s : State) (g : GangId) (f : Gang → Gang) : (s.modGang g f).power = s.power := by
  unfold State.modGang; split <;> rfl
@[simp] theorem State.modGang_curbHold (s : State) (g : GangId) (f : Gang → Gang) : (s.modGang g f).curbHold = s.curbHold := by
  unfold State.modGang; split <;> rfl
@[simp] theorem State.modGang_curbT (s : State) (g : GangId) (f : Gang → Gang) : (s.modGang g f).curbT = s.curbT := by
  unfold State.modGang; split <;> rfl
@[simp] theorem State.modGang_curbCount (s : State) (g : GangId) (f : Gang → Gang) : (s.modGang g f).curbCount = s.curbCount := by
  unfold State.modGang; split <;> rfl
@[simp] theorem State.modGang_curbAlarms (s : State) (g : GangId) (f : Gang → Gang) : (s.modGang g f).curbAlarms = s.curbAlarms := by
  unfold State.modGang; split <;> rfl
@[simp] theorem State.modGang_curbOn (s : State) (g : GangId) (f : Gang → Gang) : (s.modGang g f).curbOn = s.curbOn := by
  unfold State.modGang; split <;> rfl
@[simp] theorem State.modGang_curbClear (s : State) (g : GangId) (f : Gang → Gang) : (s.modGang g f).curbClear = s.curbClear := by
  unfold State.modGang; split <;> rfl
@[simp] theorem State.modGang_svcCmd (s : State) (g : GangId) (f : Gang → Gang) : (s.modGang g f).svcCmd = s.svcCmd := by
  unfold State.modGang; split <;> rfl
@[simp] theorem State.modGang_svcStat (s : State) (g : GangId) (f : Gang → Gang) : (s.modGang g f).svcStat = s.svcStat := by
  unfold State.modGang; split <;> rfl
@[simp] theorem State.modGang_svcPages (s : State) (g : GangId) (f : Gang → Gang) : (s.modGang g f).svcPages = s.svcPages := by
  unfold State.modGang; split <;> rfl
@[simp] theorem State.modGang_keyIdx (s : State) (g : GangId) (f : Gang → Gang) : (s.modGang g f).keyIdx = s.keyIdx := by
  unfold State.modGang; split <;> rfl
@[simp] theorem State.modGang_keyBusy (s : State) (g : GangId) (f : Gang → Gang) : (s.modGang g f).keyBusy = s.keyBusy := by
  unfold State.modGang; split <;> rfl
@[simp] theorem State.modGang_keyData (s : State) (g : GangId) (f : Gang → Gang) : (s.modGang g f).keyData = s.keyData := by
  unfold State.modGang; split <;> rfl
@[simp] theorem State.modGang_keys (s : State) (g : GangId) (f : Gang → Gang) : (s.modGang g f).keys = s.keys := by
  unfold State.modGang; split <;> rfl
@[simp] theorem State.modGang_bootStat (s : State) (g : GangId) (f : Gang → Gang) : (s.modGang g f).bootStat = s.bootStat := by
  unfold State.modGang; split <;> rfl
@[simp] theorem State.modGang_signKeys (s : State) (g : GangId) (f : Gang → Gang) : (s.modGang g f).signKeys = s.signKeys := by
  unfold State.modGang; split <;> rfl
@[simp] theorem State.modGang_lqOwner (s : State) (g : GangId) (f : Gang → Gang) : (s.modGang g f).lqOwner = s.lqOwner := by
  unfold State.modGang; split <;> rfl
@[simp] theorem State.modGang_chState (s : State) (g : GangId) (f : Gang → Gang) : (s.modGang g f).chState = s.chState := by
  unfold State.modGang; split <;> rfl
@[simp] theorem State.modGang_linkStat (s : State) (g : GangId) (f : Gang → Gang) : (s.modGang g f).linkStat = s.linkStat := by
  unfold State.modGang; split <;> rfl
@[simp] theorem State.modGang_portErrs (s : State) (g : GangId) (f : Gang → Gang) : (s.modGang g f).portErrs = s.portErrs := by
  unfold State.modGang; split <;> rfl
@[simp] theorem State.modGang_windows (s : State) (g : GangId) (f : Gang → Gang) : (s.modGang g f).windows = s.windows := by
  unfold State.modGang; split <;> rfl
@[simp] theorem State.modGang_spareUsed (s : State) (g : GangId) (f : Gang → Gang) : (s.modGang g f).spareUsed = s.spareUsed := by
  unfold State.modGang; split <;> rfl
@[simp] theorem State.modGang_ostlers (s : State) (g : GangId) (f : Gang → Gang) : (s.modGang g f).ostlers = s.ostlers := by
  unfold State.modGang; split <;> rfl
@[simp] theorem State.modGang_asids (s : State) (g : GangId) (f : Gang → Gang) : (s.modGang g f).asids = s.asids := by
  unfold State.modGang; split <;> rfl
@[simp] theorem State.modGang_clusters (s : State) (g : GangId) (f : Gang → Gang) : (s.modGang g f).clusters = s.clusters := by
  unfold State.modGang; split <;> rfl
@[simp] theorem State.modGang_launches (s : State) (g : GangId) (f : Gang → Gang) : (s.modGang g f).launches = s.launches := by
  unfold State.modGang; split <;> rfl
@[simp] theorem State.modGang_crews (s : State) (g : GangId) (f : Gang → Gang) : (s.modGang g f).crews = s.crews := by
  unfold State.modGang; split <;> rfl
@[simp] theorem State.modGang_waves (s : State) (g : GangId) (f : Gang → Gang) : (s.modGang g f).waves = s.waves := by
  unfold State.modGang; split <;> rfl
@[simp] theorem State.modGang_subs (s : State) (g : GangId) (f : Gang → Gang) : (s.modGang g f).subs = s.subs := by
  unfold State.modGang; split <;> rfl
@[simp] theorem State.modGang_outbox (s : State) (g : GangId) (f : Gang → Gang) : (s.modGang g f).outbox = s.outbox := by
  unfold State.modGang; split <;> rfl
@[simp] theorem State.modGang_signals (s : State) (g : GangId) (f : Gang → Gang) : (s.modGang g f).signals = s.signals := by
  unfold State.modGang; split <;> rfl
@[simp] theorem State.modGang_rmaOut (s : State) (g : GangId) (f : Gang → Gang) : (s.modGang g f).rmaOut = s.rmaOut := by
  unfold State.modGang; split <;> rfl
@[simp] theorem State.modGang_fwOut (s : State) (g : GangId) (f : Gang → Gang) : (s.modGang g f).fwOut = s.fwOut := by
  unfold State.modGang; split <;> rfl
@[simp] theorem State.modGang_free (s : State) (g : GangId) (f : Gang → Gang) : (s.modGang g f).free = s.free := by
  unfold State.modGang; split <;> rfl
@[simp] theorem State.modGang_now (s : State) (g : GangId) (f : Gang → Gang) : (s.modGang g f).now = s.now := by
  unfold State.modGang; split <;> rfl
@[simp] theorem State.modGang_focus (s : State) (g : GangId) (f : Gang → Gang) : (s.modGang g f).focus = s.focus := by
  unfold State.modGang; split <;> rfl
@[simp] theorem State.modGang_agenda (s : State) (g : GangId) (f : Gang → Gang) : (s.modGang g f).agenda = s.agenda := by
  unfold State.modGang; split <;> rfl

/-! ### modCrew -/

@[simp] theorem State.modCrew_mem (s : State) (c : CrewId) (f : Crew → Crew) : (s.modCrew c f).mem = s.mem := by
  unfold State.modCrew; split <;> rfl
@[simp] theorem State.modCrew_remote (s : State) (c : CrewId) (f : Crew → Crew) : (s.modCrew c f).remote = s.remote := by
  unfold State.modCrew; split <;> rfl
@[simp] theorem State.modCrew_remoteUp (s : State) (c : CrewId) (f : Crew → Crew) : (s.modCrew c f).remoteUp = s.remoteUp := by
  unfold State.modCrew; split <;> rfl
@[simp] theorem State.modCrew_ecc (s : State) (c : CrewId) (f : Crew → Crew) : (s.modCrew c f).ecc = s.ecc := by
  unfold State.modCrew; split <;> rfl
@[simp] theorem State.modCrew_lineKey (s : State) (c : CrewId) (f : Crew → Crew) : (s.modCrew c f).lineKey = s.lineKey := by
  unfold State.modCrew; split <;> rfl
@[simp] theorem State.modCrew_remoteKey (s : State) (c : CrewId) (f : Crew → Crew) : (s.modCrew c f).remoteKey = s.remoteKey := by
  unfold State.modCrew; split <;> rfl
@[simp] theorem State.modCrew_tiles (s : State) (c : CrewId) (f : Crew → Crew) : (s.modCrew c f).tiles = s.tiles := by
  unfold State.modCrew; split <;> rfl
@[simp] theorem State.modCrew_ageb (s : State) (c : CrewId) (f : Crew → Crew) : (s.modCrew c f).ageb = s.ageb := by
  unfold State.modCrew; split <;> rfl
@[simp] theorem State.modCrew_rtmo (s : State) (c : CrewId) (f : Crew → Crew) : (s.modCrew c f).rtmo = s.rtmo := by
  unfold State.modCrew; split <;> rfl
@[simp] theorem State.modCrew_pcap (s : State) (c : CrewId) (f : Crew → Crew) : (s.modCrew c f).pcap = s.pcap := by
  unfold State.modCrew; split <;> rfl
@[simp] theorem State.modCrew_throttle (s : State) (c : CrewId) (f : Crew → Crew) : (s.modCrew c f).throttle = s.throttle := by
  unfold State.modCrew; split <;> rfl
@[simp] theorem State.modCrew_power (s : State) (c : CrewId) (f : Crew → Crew) : (s.modCrew c f).power = s.power := by
  unfold State.modCrew; split <;> rfl
@[simp] theorem State.modCrew_curbHold (s : State) (c : CrewId) (f : Crew → Crew) : (s.modCrew c f).curbHold = s.curbHold := by
  unfold State.modCrew; split <;> rfl
@[simp] theorem State.modCrew_curbT (s : State) (c : CrewId) (f : Crew → Crew) : (s.modCrew c f).curbT = s.curbT := by
  unfold State.modCrew; split <;> rfl
@[simp] theorem State.modCrew_curbCount (s : State) (c : CrewId) (f : Crew → Crew) : (s.modCrew c f).curbCount = s.curbCount := by
  unfold State.modCrew; split <;> rfl
@[simp] theorem State.modCrew_curbAlarms (s : State) (c : CrewId) (f : Crew → Crew) : (s.modCrew c f).curbAlarms = s.curbAlarms := by
  unfold State.modCrew; split <;> rfl
@[simp] theorem State.modCrew_curbOn (s : State) (c : CrewId) (f : Crew → Crew) : (s.modCrew c f).curbOn = s.curbOn := by
  unfold State.modCrew; split <;> rfl
@[simp] theorem State.modCrew_curbClear (s : State) (c : CrewId) (f : Crew → Crew) : (s.modCrew c f).curbClear = s.curbClear := by
  unfold State.modCrew; split <;> rfl
@[simp] theorem State.modCrew_svcCmd (s : State) (c : CrewId) (f : Crew → Crew) : (s.modCrew c f).svcCmd = s.svcCmd := by
  unfold State.modCrew; split <;> rfl
@[simp] theorem State.modCrew_svcStat (s : State) (c : CrewId) (f : Crew → Crew) : (s.modCrew c f).svcStat = s.svcStat := by
  unfold State.modCrew; split <;> rfl
@[simp] theorem State.modCrew_svcPages (s : State) (c : CrewId) (f : Crew → Crew) : (s.modCrew c f).svcPages = s.svcPages := by
  unfold State.modCrew; split <;> rfl
@[simp] theorem State.modCrew_keyIdx (s : State) (c : CrewId) (f : Crew → Crew) : (s.modCrew c f).keyIdx = s.keyIdx := by
  unfold State.modCrew; split <;> rfl
@[simp] theorem State.modCrew_keyBusy (s : State) (c : CrewId) (f : Crew → Crew) : (s.modCrew c f).keyBusy = s.keyBusy := by
  unfold State.modCrew; split <;> rfl
@[simp] theorem State.modCrew_keyData (s : State) (c : CrewId) (f : Crew → Crew) : (s.modCrew c f).keyData = s.keyData := by
  unfold State.modCrew; split <;> rfl
@[simp] theorem State.modCrew_keys (s : State) (c : CrewId) (f : Crew → Crew) : (s.modCrew c f).keys = s.keys := by
  unfold State.modCrew; split <;> rfl
@[simp] theorem State.modCrew_bootStat (s : State) (c : CrewId) (f : Crew → Crew) : (s.modCrew c f).bootStat = s.bootStat := by
  unfold State.modCrew; split <;> rfl
@[simp] theorem State.modCrew_signKeys (s : State) (c : CrewId) (f : Crew → Crew) : (s.modCrew c f).signKeys = s.signKeys := by
  unfold State.modCrew; split <;> rfl
@[simp] theorem State.modCrew_lqOwner (s : State) (c : CrewId) (f : Crew → Crew) : (s.modCrew c f).lqOwner = s.lqOwner := by
  unfold State.modCrew; split <;> rfl
@[simp] theorem State.modCrew_chState (s : State) (c : CrewId) (f : Crew → Crew) : (s.modCrew c f).chState = s.chState := by
  unfold State.modCrew; split <;> rfl
@[simp] theorem State.modCrew_linkStat (s : State) (c : CrewId) (f : Crew → Crew) : (s.modCrew c f).linkStat = s.linkStat := by
  unfold State.modCrew; split <;> rfl
@[simp] theorem State.modCrew_portErrs (s : State) (c : CrewId) (f : Crew → Crew) : (s.modCrew c f).portErrs = s.portErrs := by
  unfold State.modCrew; split <;> rfl
@[simp] theorem State.modCrew_windows (s : State) (c : CrewId) (f : Crew → Crew) : (s.modCrew c f).windows = s.windows := by
  unfold State.modCrew; split <;> rfl
@[simp] theorem State.modCrew_spareUsed (s : State) (c : CrewId) (f : Crew → Crew) : (s.modCrew c f).spareUsed = s.spareUsed := by
  unfold State.modCrew; split <;> rfl
@[simp] theorem State.modCrew_ostlers (s : State) (c : CrewId) (f : Crew → Crew) : (s.modCrew c f).ostlers = s.ostlers := by
  unfold State.modCrew; split <;> rfl
@[simp] theorem State.modCrew_asids (s : State) (c : CrewId) (f : Crew → Crew) : (s.modCrew c f).asids = s.asids := by
  unfold State.modCrew; split <;> rfl
@[simp] theorem State.modCrew_clusters (s : State) (c : CrewId) (f : Crew → Crew) : (s.modCrew c f).clusters = s.clusters := by
  unfold State.modCrew; split <;> rfl
@[simp] theorem State.modCrew_launches (s : State) (c : CrewId) (f : Crew → Crew) : (s.modCrew c f).launches = s.launches := by
  unfold State.modCrew; split <;> rfl
@[simp] theorem State.modCrew_gangs (s : State) (c : CrewId) (f : Crew → Crew) : (s.modCrew c f).gangs = s.gangs := by
  unfold State.modCrew; split <;> rfl
@[simp] theorem State.modCrew_waves (s : State) (c : CrewId) (f : Crew → Crew) : (s.modCrew c f).waves = s.waves := by
  unfold State.modCrew; split <;> rfl
@[simp] theorem State.modCrew_subs (s : State) (c : CrewId) (f : Crew → Crew) : (s.modCrew c f).subs = s.subs := by
  unfold State.modCrew; split <;> rfl
@[simp] theorem State.modCrew_outbox (s : State) (c : CrewId) (f : Crew → Crew) : (s.modCrew c f).outbox = s.outbox := by
  unfold State.modCrew; split <;> rfl
@[simp] theorem State.modCrew_signals (s : State) (c : CrewId) (f : Crew → Crew) : (s.modCrew c f).signals = s.signals := by
  unfold State.modCrew; split <;> rfl
@[simp] theorem State.modCrew_rmaOut (s : State) (c : CrewId) (f : Crew → Crew) : (s.modCrew c f).rmaOut = s.rmaOut := by
  unfold State.modCrew; split <;> rfl
@[simp] theorem State.modCrew_fwOut (s : State) (c : CrewId) (f : Crew → Crew) : (s.modCrew c f).fwOut = s.fwOut := by
  unfold State.modCrew; split <;> rfl
@[simp] theorem State.modCrew_free (s : State) (c : CrewId) (f : Crew → Crew) : (s.modCrew c f).free = s.free := by
  unfold State.modCrew; split <;> rfl
@[simp] theorem State.modCrew_now (s : State) (c : CrewId) (f : Crew → Crew) : (s.modCrew c f).now = s.now := by
  unfold State.modCrew; split <;> rfl
@[simp] theorem State.modCrew_focus (s : State) (c : CrewId) (f : Crew → Crew) : (s.modCrew c f).focus = s.focus := by
  unfold State.modCrew; split <;> rfl
@[simp] theorem State.modCrew_agenda (s : State) (c : CrewId) (f : Crew → Crew) : (s.modCrew c f).agenda = s.agenda := by
  unfold State.modCrew; split <;> rfl

/-! ### modLaunch -/

@[simp] theorem State.modLaunch_mem (s : State) (l : Nat) (f : Launch → Launch) : (s.modLaunch l f).mem = s.mem := by
  unfold State.modLaunch; split <;> rfl
@[simp] theorem State.modLaunch_remote (s : State) (l : Nat) (f : Launch → Launch) : (s.modLaunch l f).remote = s.remote := by
  unfold State.modLaunch; split <;> rfl
@[simp] theorem State.modLaunch_remoteUp (s : State) (l : Nat) (f : Launch → Launch) : (s.modLaunch l f).remoteUp = s.remoteUp := by
  unfold State.modLaunch; split <;> rfl
@[simp] theorem State.modLaunch_ecc (s : State) (l : Nat) (f : Launch → Launch) : (s.modLaunch l f).ecc = s.ecc := by
  unfold State.modLaunch; split <;> rfl
@[simp] theorem State.modLaunch_lineKey (s : State) (l : Nat) (f : Launch → Launch) : (s.modLaunch l f).lineKey = s.lineKey := by
  unfold State.modLaunch; split <;> rfl
@[simp] theorem State.modLaunch_remoteKey (s : State) (l : Nat) (f : Launch → Launch) : (s.modLaunch l f).remoteKey = s.remoteKey := by
  unfold State.modLaunch; split <;> rfl
@[simp] theorem State.modLaunch_tiles (s : State) (l : Nat) (f : Launch → Launch) : (s.modLaunch l f).tiles = s.tiles := by
  unfold State.modLaunch; split <;> rfl
@[simp] theorem State.modLaunch_ageb (s : State) (l : Nat) (f : Launch → Launch) : (s.modLaunch l f).ageb = s.ageb := by
  unfold State.modLaunch; split <;> rfl
@[simp] theorem State.modLaunch_rtmo (s : State) (l : Nat) (f : Launch → Launch) : (s.modLaunch l f).rtmo = s.rtmo := by
  unfold State.modLaunch; split <;> rfl
@[simp] theorem State.modLaunch_pcap (s : State) (l : Nat) (f : Launch → Launch) : (s.modLaunch l f).pcap = s.pcap := by
  unfold State.modLaunch; split <;> rfl
@[simp] theorem State.modLaunch_throttle (s : State) (l : Nat) (f : Launch → Launch) : (s.modLaunch l f).throttle = s.throttle := by
  unfold State.modLaunch; split <;> rfl
@[simp] theorem State.modLaunch_power (s : State) (l : Nat) (f : Launch → Launch) : (s.modLaunch l f).power = s.power := by
  unfold State.modLaunch; split <;> rfl
@[simp] theorem State.modLaunch_curbHold (s : State) (l : Nat) (f : Launch → Launch) : (s.modLaunch l f).curbHold = s.curbHold := by
  unfold State.modLaunch; split <;> rfl
@[simp] theorem State.modLaunch_curbT (s : State) (l : Nat) (f : Launch → Launch) : (s.modLaunch l f).curbT = s.curbT := by
  unfold State.modLaunch; split <;> rfl
@[simp] theorem State.modLaunch_curbCount (s : State) (l : Nat) (f : Launch → Launch) : (s.modLaunch l f).curbCount = s.curbCount := by
  unfold State.modLaunch; split <;> rfl
@[simp] theorem State.modLaunch_curbAlarms (s : State) (l : Nat) (f : Launch → Launch) : (s.modLaunch l f).curbAlarms = s.curbAlarms := by
  unfold State.modLaunch; split <;> rfl
@[simp] theorem State.modLaunch_curbOn (s : State) (l : Nat) (f : Launch → Launch) : (s.modLaunch l f).curbOn = s.curbOn := by
  unfold State.modLaunch; split <;> rfl
@[simp] theorem State.modLaunch_curbClear (s : State) (l : Nat) (f : Launch → Launch) : (s.modLaunch l f).curbClear = s.curbClear := by
  unfold State.modLaunch; split <;> rfl
@[simp] theorem State.modLaunch_svcCmd (s : State) (l : Nat) (f : Launch → Launch) : (s.modLaunch l f).svcCmd = s.svcCmd := by
  unfold State.modLaunch; split <;> rfl
@[simp] theorem State.modLaunch_svcStat (s : State) (l : Nat) (f : Launch → Launch) : (s.modLaunch l f).svcStat = s.svcStat := by
  unfold State.modLaunch; split <;> rfl
@[simp] theorem State.modLaunch_svcPages (s : State) (l : Nat) (f : Launch → Launch) : (s.modLaunch l f).svcPages = s.svcPages := by
  unfold State.modLaunch; split <;> rfl
@[simp] theorem State.modLaunch_keyIdx (s : State) (l : Nat) (f : Launch → Launch) : (s.modLaunch l f).keyIdx = s.keyIdx := by
  unfold State.modLaunch; split <;> rfl
@[simp] theorem State.modLaunch_keyBusy (s : State) (l : Nat) (f : Launch → Launch) : (s.modLaunch l f).keyBusy = s.keyBusy := by
  unfold State.modLaunch; split <;> rfl
@[simp] theorem State.modLaunch_keyData (s : State) (l : Nat) (f : Launch → Launch) : (s.modLaunch l f).keyData = s.keyData := by
  unfold State.modLaunch; split <;> rfl
@[simp] theorem State.modLaunch_keys (s : State) (l : Nat) (f : Launch → Launch) : (s.modLaunch l f).keys = s.keys := by
  unfold State.modLaunch; split <;> rfl
@[simp] theorem State.modLaunch_bootStat (s : State) (l : Nat) (f : Launch → Launch) : (s.modLaunch l f).bootStat = s.bootStat := by
  unfold State.modLaunch; split <;> rfl
@[simp] theorem State.modLaunch_signKeys (s : State) (l : Nat) (f : Launch → Launch) : (s.modLaunch l f).signKeys = s.signKeys := by
  unfold State.modLaunch; split <;> rfl
@[simp] theorem State.modLaunch_lqOwner (s : State) (l : Nat) (f : Launch → Launch) : (s.modLaunch l f).lqOwner = s.lqOwner := by
  unfold State.modLaunch; split <;> rfl
@[simp] theorem State.modLaunch_chState (s : State) (l : Nat) (f : Launch → Launch) : (s.modLaunch l f).chState = s.chState := by
  unfold State.modLaunch; split <;> rfl
@[simp] theorem State.modLaunch_linkStat (s : State) (l : Nat) (f : Launch → Launch) : (s.modLaunch l f).linkStat = s.linkStat := by
  unfold State.modLaunch; split <;> rfl
@[simp] theorem State.modLaunch_portErrs (s : State) (l : Nat) (f : Launch → Launch) : (s.modLaunch l f).portErrs = s.portErrs := by
  unfold State.modLaunch; split <;> rfl
@[simp] theorem State.modLaunch_windows (s : State) (l : Nat) (f : Launch → Launch) : (s.modLaunch l f).windows = s.windows := by
  unfold State.modLaunch; split <;> rfl
@[simp] theorem State.modLaunch_spareUsed (s : State) (l : Nat) (f : Launch → Launch) : (s.modLaunch l f).spareUsed = s.spareUsed := by
  unfold State.modLaunch; split <;> rfl
@[simp] theorem State.modLaunch_ostlers (s : State) (l : Nat) (f : Launch → Launch) : (s.modLaunch l f).ostlers = s.ostlers := by
  unfold State.modLaunch; split <;> rfl
@[simp] theorem State.modLaunch_asids (s : State) (l : Nat) (f : Launch → Launch) : (s.modLaunch l f).asids = s.asids := by
  unfold State.modLaunch; split <;> rfl
@[simp] theorem State.modLaunch_clusters (s : State) (l : Nat) (f : Launch → Launch) : (s.modLaunch l f).clusters = s.clusters := by
  unfold State.modLaunch; split <;> rfl
@[simp] theorem State.modLaunch_crews (s : State) (l : Nat) (f : Launch → Launch) : (s.modLaunch l f).crews = s.crews := by
  unfold State.modLaunch; split <;> rfl
@[simp] theorem State.modLaunch_gangs (s : State) (l : Nat) (f : Launch → Launch) : (s.modLaunch l f).gangs = s.gangs := by
  unfold State.modLaunch; split <;> rfl
@[simp] theorem State.modLaunch_waves (s : State) (l : Nat) (f : Launch → Launch) : (s.modLaunch l f).waves = s.waves := by
  unfold State.modLaunch; split <;> rfl
@[simp] theorem State.modLaunch_subs (s : State) (l : Nat) (f : Launch → Launch) : (s.modLaunch l f).subs = s.subs := by
  unfold State.modLaunch; split <;> rfl
@[simp] theorem State.modLaunch_outbox (s : State) (l : Nat) (f : Launch → Launch) : (s.modLaunch l f).outbox = s.outbox := by
  unfold State.modLaunch; split <;> rfl
@[simp] theorem State.modLaunch_signals (s : State) (l : Nat) (f : Launch → Launch) : (s.modLaunch l f).signals = s.signals := by
  unfold State.modLaunch; split <;> rfl
@[simp] theorem State.modLaunch_rmaOut (s : State) (l : Nat) (f : Launch → Launch) : (s.modLaunch l f).rmaOut = s.rmaOut := by
  unfold State.modLaunch; split <;> rfl
@[simp] theorem State.modLaunch_fwOut (s : State) (l : Nat) (f : Launch → Launch) : (s.modLaunch l f).fwOut = s.fwOut := by
  unfold State.modLaunch; split <;> rfl
@[simp] theorem State.modLaunch_free (s : State) (l : Nat) (f : Launch → Launch) : (s.modLaunch l f).free = s.free := by
  unfold State.modLaunch; split <;> rfl
@[simp] theorem State.modLaunch_now (s : State) (l : Nat) (f : Launch → Launch) : (s.modLaunch l f).now = s.now := by
  unfold State.modLaunch; split <;> rfl
@[simp] theorem State.modLaunch_focus (s : State) (l : Nat) (f : Launch → Launch) : (s.modLaunch l f).focus = s.focus := by
  unfold State.modLaunch; split <;> rfl
@[simp] theorem State.modLaunch_agenda (s : State) (l : Nat) (f : Launch → Launch) : (s.modLaunch l f).agenda = s.agenda := by
  unfold State.modLaunch; split <;> rfl

/-! ### modCluster -/

@[simp] theorem State.modCluster_mem (s : State) (c : Nat) (f : Cluster → Cluster) : (s.modCluster c f).mem = s.mem := rfl
@[simp] theorem State.modCluster_remote (s : State) (c : Nat) (f : Cluster → Cluster) : (s.modCluster c f).remote = s.remote := rfl
@[simp] theorem State.modCluster_remoteUp (s : State) (c : Nat) (f : Cluster → Cluster) : (s.modCluster c f).remoteUp = s.remoteUp := rfl
@[simp] theorem State.modCluster_ecc (s : State) (c : Nat) (f : Cluster → Cluster) : (s.modCluster c f).ecc = s.ecc := rfl
@[simp] theorem State.modCluster_lineKey (s : State) (c : Nat) (f : Cluster → Cluster) : (s.modCluster c f).lineKey = s.lineKey := rfl
@[simp] theorem State.modCluster_remoteKey (s : State) (c : Nat) (f : Cluster → Cluster) : (s.modCluster c f).remoteKey = s.remoteKey := rfl
@[simp] theorem State.modCluster_tiles (s : State) (c : Nat) (f : Cluster → Cluster) : (s.modCluster c f).tiles = s.tiles := rfl
@[simp] theorem State.modCluster_ageb (s : State) (c : Nat) (f : Cluster → Cluster) : (s.modCluster c f).ageb = s.ageb := rfl
@[simp] theorem State.modCluster_rtmo (s : State) (c : Nat) (f : Cluster → Cluster) : (s.modCluster c f).rtmo = s.rtmo := rfl
@[simp] theorem State.modCluster_pcap (s : State) (c : Nat) (f : Cluster → Cluster) : (s.modCluster c f).pcap = s.pcap := rfl
@[simp] theorem State.modCluster_throttle (s : State) (c : Nat) (f : Cluster → Cluster) : (s.modCluster c f).throttle = s.throttle := rfl
@[simp] theorem State.modCluster_power (s : State) (c : Nat) (f : Cluster → Cluster) : (s.modCluster c f).power = s.power := rfl
@[simp] theorem State.modCluster_curbHold (s : State) (c : Nat) (f : Cluster → Cluster) : (s.modCluster c f).curbHold = s.curbHold := rfl
@[simp] theorem State.modCluster_curbT (s : State) (c : Nat) (f : Cluster → Cluster) : (s.modCluster c f).curbT = s.curbT := rfl
@[simp] theorem State.modCluster_curbCount (s : State) (c : Nat) (f : Cluster → Cluster) : (s.modCluster c f).curbCount = s.curbCount := rfl
@[simp] theorem State.modCluster_curbAlarms (s : State) (c : Nat) (f : Cluster → Cluster) : (s.modCluster c f).curbAlarms = s.curbAlarms := rfl
@[simp] theorem State.modCluster_curbOn (s : State) (c : Nat) (f : Cluster → Cluster) : (s.modCluster c f).curbOn = s.curbOn := rfl
@[simp] theorem State.modCluster_curbClear (s : State) (c : Nat) (f : Cluster → Cluster) : (s.modCluster c f).curbClear = s.curbClear := rfl
@[simp] theorem State.modCluster_svcCmd (s : State) (c : Nat) (f : Cluster → Cluster) : (s.modCluster c f).svcCmd = s.svcCmd := rfl
@[simp] theorem State.modCluster_svcStat (s : State) (c : Nat) (f : Cluster → Cluster) : (s.modCluster c f).svcStat = s.svcStat := rfl
@[simp] theorem State.modCluster_svcPages (s : State) (c : Nat) (f : Cluster → Cluster) : (s.modCluster c f).svcPages = s.svcPages := rfl
@[simp] theorem State.modCluster_keyIdx (s : State) (c : Nat) (f : Cluster → Cluster) : (s.modCluster c f).keyIdx = s.keyIdx := rfl
@[simp] theorem State.modCluster_keyBusy (s : State) (c : Nat) (f : Cluster → Cluster) : (s.modCluster c f).keyBusy = s.keyBusy := rfl
@[simp] theorem State.modCluster_keyData (s : State) (c : Nat) (f : Cluster → Cluster) : (s.modCluster c f).keyData = s.keyData := rfl
@[simp] theorem State.modCluster_keys (s : State) (c : Nat) (f : Cluster → Cluster) : (s.modCluster c f).keys = s.keys := rfl
@[simp] theorem State.modCluster_bootStat (s : State) (c : Nat) (f : Cluster → Cluster) : (s.modCluster c f).bootStat = s.bootStat := rfl
@[simp] theorem State.modCluster_signKeys (s : State) (c : Nat) (f : Cluster → Cluster) : (s.modCluster c f).signKeys = s.signKeys := rfl
@[simp] theorem State.modCluster_lqOwner (s : State) (c : Nat) (f : Cluster → Cluster) : (s.modCluster c f).lqOwner = s.lqOwner := rfl
@[simp] theorem State.modCluster_chState (s : State) (c : Nat) (f : Cluster → Cluster) : (s.modCluster c f).chState = s.chState := rfl
@[simp] theorem State.modCluster_linkStat (s : State) (c : Nat) (f : Cluster → Cluster) : (s.modCluster c f).linkStat = s.linkStat := rfl
@[simp] theorem State.modCluster_portErrs (s : State) (c : Nat) (f : Cluster → Cluster) : (s.modCluster c f).portErrs = s.portErrs := rfl
@[simp] theorem State.modCluster_windows (s : State) (c : Nat) (f : Cluster → Cluster) : (s.modCluster c f).windows = s.windows := rfl
@[simp] theorem State.modCluster_spareUsed (s : State) (c : Nat) (f : Cluster → Cluster) : (s.modCluster c f).spareUsed = s.spareUsed := rfl
@[simp] theorem State.modCluster_ostlers (s : State) (c : Nat) (f : Cluster → Cluster) : (s.modCluster c f).ostlers = s.ostlers := rfl
@[simp] theorem State.modCluster_asids (s : State) (c : Nat) (f : Cluster → Cluster) : (s.modCluster c f).asids = s.asids := rfl
@[simp] theorem State.modCluster_launches (s : State) (c : Nat) (f : Cluster → Cluster) : (s.modCluster c f).launches = s.launches := rfl
@[simp] theorem State.modCluster_crews (s : State) (c : Nat) (f : Cluster → Cluster) : (s.modCluster c f).crews = s.crews := rfl
@[simp] theorem State.modCluster_gangs (s : State) (c : Nat) (f : Cluster → Cluster) : (s.modCluster c f).gangs = s.gangs := rfl
@[simp] theorem State.modCluster_waves (s : State) (c : Nat) (f : Cluster → Cluster) : (s.modCluster c f).waves = s.waves := rfl
@[simp] theorem State.modCluster_subs (s : State) (c : Nat) (f : Cluster → Cluster) : (s.modCluster c f).subs = s.subs := rfl
@[simp] theorem State.modCluster_outbox (s : State) (c : Nat) (f : Cluster → Cluster) : (s.modCluster c f).outbox = s.outbox := rfl
@[simp] theorem State.modCluster_signals (s : State) (c : Nat) (f : Cluster → Cluster) : (s.modCluster c f).signals = s.signals := rfl
@[simp] theorem State.modCluster_rmaOut (s : State) (c : Nat) (f : Cluster → Cluster) : (s.modCluster c f).rmaOut = s.rmaOut := rfl
@[simp] theorem State.modCluster_fwOut (s : State) (c : Nat) (f : Cluster → Cluster) : (s.modCluster c f).fwOut = s.fwOut := rfl
@[simp] theorem State.modCluster_free (s : State) (c : Nat) (f : Cluster → Cluster) : (s.modCluster c f).free = s.free := rfl
@[simp] theorem State.modCluster_now (s : State) (c : Nat) (f : Cluster → Cluster) : (s.modCluster c f).now = s.now := rfl
@[simp] theorem State.modCluster_focus (s : State) (c : Nat) (f : Cluster → Cluster) : (s.modCluster c f).focus = s.focus := rfl
@[simp] theorem State.modCluster_agenda (s : State) (c : Nat) (f : Cluster → Cluster) : (s.modCluster c f).agenda = s.agenda := rfl

/-! ### modAsid -/

@[simp] theorem State.modAsid_mem (s : State) (a : Nat) (f : Asid → Asid) : (s.modAsid a f).mem = s.mem := rfl
@[simp] theorem State.modAsid_remote (s : State) (a : Nat) (f : Asid → Asid) : (s.modAsid a f).remote = s.remote := rfl
@[simp] theorem State.modAsid_remoteUp (s : State) (a : Nat) (f : Asid → Asid) : (s.modAsid a f).remoteUp = s.remoteUp := rfl
@[simp] theorem State.modAsid_ecc (s : State) (a : Nat) (f : Asid → Asid) : (s.modAsid a f).ecc = s.ecc := rfl
@[simp] theorem State.modAsid_lineKey (s : State) (a : Nat) (f : Asid → Asid) : (s.modAsid a f).lineKey = s.lineKey := rfl
@[simp] theorem State.modAsid_remoteKey (s : State) (a : Nat) (f : Asid → Asid) : (s.modAsid a f).remoteKey = s.remoteKey := rfl
@[simp] theorem State.modAsid_tiles (s : State) (a : Nat) (f : Asid → Asid) : (s.modAsid a f).tiles = s.tiles := rfl
@[simp] theorem State.modAsid_ageb (s : State) (a : Nat) (f : Asid → Asid) : (s.modAsid a f).ageb = s.ageb := rfl
@[simp] theorem State.modAsid_rtmo (s : State) (a : Nat) (f : Asid → Asid) : (s.modAsid a f).rtmo = s.rtmo := rfl
@[simp] theorem State.modAsid_pcap (s : State) (a : Nat) (f : Asid → Asid) : (s.modAsid a f).pcap = s.pcap := rfl
@[simp] theorem State.modAsid_throttle (s : State) (a : Nat) (f : Asid → Asid) : (s.modAsid a f).throttle = s.throttle := rfl
@[simp] theorem State.modAsid_power (s : State) (a : Nat) (f : Asid → Asid) : (s.modAsid a f).power = s.power := rfl
@[simp] theorem State.modAsid_curbHold (s : State) (a : Nat) (f : Asid → Asid) : (s.modAsid a f).curbHold = s.curbHold := rfl
@[simp] theorem State.modAsid_curbT (s : State) (a : Nat) (f : Asid → Asid) : (s.modAsid a f).curbT = s.curbT := rfl
@[simp] theorem State.modAsid_curbCount (s : State) (a : Nat) (f : Asid → Asid) : (s.modAsid a f).curbCount = s.curbCount := rfl
@[simp] theorem State.modAsid_curbAlarms (s : State) (a : Nat) (f : Asid → Asid) : (s.modAsid a f).curbAlarms = s.curbAlarms := rfl
@[simp] theorem State.modAsid_curbOn (s : State) (a : Nat) (f : Asid → Asid) : (s.modAsid a f).curbOn = s.curbOn := rfl
@[simp] theorem State.modAsid_curbClear (s : State) (a : Nat) (f : Asid → Asid) : (s.modAsid a f).curbClear = s.curbClear := rfl
@[simp] theorem State.modAsid_svcCmd (s : State) (a : Nat) (f : Asid → Asid) : (s.modAsid a f).svcCmd = s.svcCmd := rfl
@[simp] theorem State.modAsid_svcStat (s : State) (a : Nat) (f : Asid → Asid) : (s.modAsid a f).svcStat = s.svcStat := rfl
@[simp] theorem State.modAsid_svcPages (s : State) (a : Nat) (f : Asid → Asid) : (s.modAsid a f).svcPages = s.svcPages := rfl
@[simp] theorem State.modAsid_keyIdx (s : State) (a : Nat) (f : Asid → Asid) : (s.modAsid a f).keyIdx = s.keyIdx := rfl
@[simp] theorem State.modAsid_keyBusy (s : State) (a : Nat) (f : Asid → Asid) : (s.modAsid a f).keyBusy = s.keyBusy := rfl
@[simp] theorem State.modAsid_keyData (s : State) (a : Nat) (f : Asid → Asid) : (s.modAsid a f).keyData = s.keyData := rfl
@[simp] theorem State.modAsid_keys (s : State) (a : Nat) (f : Asid → Asid) : (s.modAsid a f).keys = s.keys := rfl
@[simp] theorem State.modAsid_bootStat (s : State) (a : Nat) (f : Asid → Asid) : (s.modAsid a f).bootStat = s.bootStat := rfl
@[simp] theorem State.modAsid_signKeys (s : State) (a : Nat) (f : Asid → Asid) : (s.modAsid a f).signKeys = s.signKeys := rfl
@[simp] theorem State.modAsid_lqOwner (s : State) (a : Nat) (f : Asid → Asid) : (s.modAsid a f).lqOwner = s.lqOwner := rfl
@[simp] theorem State.modAsid_chState (s : State) (a : Nat) (f : Asid → Asid) : (s.modAsid a f).chState = s.chState := rfl
@[simp] theorem State.modAsid_linkStat (s : State) (a : Nat) (f : Asid → Asid) : (s.modAsid a f).linkStat = s.linkStat := rfl
@[simp] theorem State.modAsid_portErrs (s : State) (a : Nat) (f : Asid → Asid) : (s.modAsid a f).portErrs = s.portErrs := rfl
@[simp] theorem State.modAsid_windows (s : State) (a : Nat) (f : Asid → Asid) : (s.modAsid a f).windows = s.windows := rfl
@[simp] theorem State.modAsid_spareUsed (s : State) (a : Nat) (f : Asid → Asid) : (s.modAsid a f).spareUsed = s.spareUsed := rfl
@[simp] theorem State.modAsid_ostlers (s : State) (a : Nat) (f : Asid → Asid) : (s.modAsid a f).ostlers = s.ostlers := rfl
@[simp] theorem State.modAsid_clusters (s : State) (a : Nat) (f : Asid → Asid) : (s.modAsid a f).clusters = s.clusters := rfl
@[simp] theorem State.modAsid_launches (s : State) (a : Nat) (f : Asid → Asid) : (s.modAsid a f).launches = s.launches := rfl
@[simp] theorem State.modAsid_crews (s : State) (a : Nat) (f : Asid → Asid) : (s.modAsid a f).crews = s.crews := rfl
@[simp] theorem State.modAsid_gangs (s : State) (a : Nat) (f : Asid → Asid) : (s.modAsid a f).gangs = s.gangs := rfl
@[simp] theorem State.modAsid_waves (s : State) (a : Nat) (f : Asid → Asid) : (s.modAsid a f).waves = s.waves := rfl
@[simp] theorem State.modAsid_subs (s : State) (a : Nat) (f : Asid → Asid) : (s.modAsid a f).subs = s.subs := rfl
@[simp] theorem State.modAsid_outbox (s : State) (a : Nat) (f : Asid → Asid) : (s.modAsid a f).outbox = s.outbox := rfl
@[simp] theorem State.modAsid_signals (s : State) (a : Nat) (f : Asid → Asid) : (s.modAsid a f).signals = s.signals := rfl
@[simp] theorem State.modAsid_rmaOut (s : State) (a : Nat) (f : Asid → Asid) : (s.modAsid a f).rmaOut = s.rmaOut := rfl
@[simp] theorem State.modAsid_fwOut (s : State) (a : Nat) (f : Asid → Asid) : (s.modAsid a f).fwOut = s.fwOut := rfl
@[simp] theorem State.modAsid_free (s : State) (a : Nat) (f : Asid → Asid) : (s.modAsid a f).free = s.free := rfl
@[simp] theorem State.modAsid_now (s : State) (a : Nat) (f : Asid → Asid) : (s.modAsid a f).now = s.now := rfl
@[simp] theorem State.modAsid_focus (s : State) (a : Nat) (f : Asid → Asid) : (s.modAsid a f).focus = s.focus := rfl
@[simp] theorem State.modAsid_agenda (s : State) (a : Nat) (f : Asid → Asid) : (s.modAsid a f).agenda = s.agenda := rfl

/-! ### The registers of a wave -/

@[simp] theorem Wave.wrV_s (x : Wave) (r l : Nat) (a : Word) : (x.wrV r l a).s = x.s := rfl
@[simp] theorem Wave.wrV_m (x : Wave) (r l : Nat) (a : Word) : (x.wrV r l a).m = x.m := rfl
@[simp] theorem Wave.wrV_fcsr (x : Wave) (r l : Nat) (a : Word) : (x.wrV r l a).fcsr = x.fcsr := rfl
@[simp] theorem Wave.wrV_pc (x : Wave) (r l : Nat) (a : Word) : (x.wrV r l a).pc = x.pc := rfl
@[simp] theorem Wave.wrV_mask (x : Wave) (r l : Nat) (a : Word) : (x.wrV r l a).mask = x.mask := rfl
@[simp] theorem Wave.wrV_exited (x : Wave) (r l : Nat) (a : Word) : (x.wrV r l a).exited = x.exited := rfl
@[simp] theorem Wave.wrV_dstack (x : Wave) (r l : Nat) (a : Word) : (x.wrV r l a).dstack = x.dstack := rfl
@[simp] theorem Wave.wrV_rstack (x : Wave) (r l : Nat) (a : Word) : (x.wrV r l a).rstack = x.rstack := rfl
@[simp] theorem Wave.wrV_dsp (x : Wave) (r l : Nat) (a : Word) : (x.wrV r l a).dsp = x.dsp := rfl
@[simp] theorem Wave.wrV_rsp (x : Wave) (r l : Nat) (a : Word) : (x.wrV r l a).rsp = x.rsp := rfl
@[simp] theorem Wave.wrV_rpm (x : Wave) (r l : Nat) (a : Word) : (x.wrV r l a).rpm = x.rpm := rfl
@[simp] theorem Wave.wrV_stall (x : Wave) (r l : Nat) (a : Word) : (x.wrV r l a).stall = x.stall := rfl
@[simp] theorem Wave.wrV_pending (x : Wave) (r l : Nat) (a : Word) : (x.wrV r l a).pending = x.pending := rfl
@[simp] theorem Wave.wrV_retired (x : Wave) (r l : Nat) (a : Word) : (x.wrV r l a).retired = x.retired := rfl
@[simp] theorem Wave.wrV_lastBatch (x : Wave) (r l : Nat) (a : Word) : (x.wrV r l a).lastBatch = x.lastBatch := rfl
@[simp] theorem Wave.wrV_qmaps (x : Wave) (r l : Nat) (a : Word) : (x.wrV r l a).qmaps = x.qmaps := rfl
@[simp] theorem Wave.wrV_recvs (x : Wave) (r l : Nat) (a : Word) : (x.wrV r l a).recvs = x.recvs := rfl
@[simp] theorem Wave.wrV_arrived (x : Wave) (r l : Nat) (a : Word) : (x.wrV r l a).arrived = x.arrived := rfl
@[simp] theorem Wave.wrV_barIn (x : Wave) (r l : Nat) (a : Word) : (x.wrV r l a).barIn = x.barIn := rfl
@[simp] theorem Wave.wrV_barOut (x : Wave) (r l : Nat) (a : Word) : (x.wrV r l a).barOut = x.barOut := rfl
@[simp] theorem Wave.wrV_since (x : Wave) (r l : Nat) (a : Word) : (x.wrV r l a).since = x.since := rfl
@[simp] theorem Wave.wrV_passed (x : Wave) (r l : Nat) (a : Word) : (x.wrV r l a).passed = x.passed := rfl
@[simp] theorem Wave.wrV_remoteWait (x : Wave) (r l : Nat) (a : Word) : (x.wrV r l a).remoteWait = x.remoteWait := rfl
@[simp] theorem Wave.wrV_timedOut (x : Wave) (r l : Nat) (a : Word) : (x.wrV r l a).timedOut = x.timedOut := rfl
@[simp] theorem Wave.wrV_bpDone (x : Wave) (r l : Nat) (a : Word) : (x.wrV r l a).bpDone = x.bpDone := rfl
@[simp] theorem Wave.wrV_undo (x : Wave) (r l : Nat) (a : Word) : (x.wrV r l a).undo = x.undo := rfl
@[simp] theorem Wave.wrV_waitq (x : Wave) (r l : Nat) (a : Word) : (x.wrV r l a).waitq = x.waitq := rfl
@[simp] theorem Wave.wrV_waitn (x : Wave) (r l : Nat) (a : Word) : (x.wrV r l a).waitn = x.waitn := rfl
@[simp] theorem Wave.wrV_popped (x : Wave) (r l : Nat) (a : Word) : (x.wrV r l a).popped = x.popped := rfl
@[simp] theorem Wave.wrV_holds (x : Wave) (r l : Nat) (a : Word) : (x.wrV r l a).holds = x.holds := rfl
@[simp] theorem Wave.wrV_batchWait (x : Wave) (r l : Nat) (a : Word) : (x.wrV r l a).batchWait = x.batchWait := rfl

@[simp] theorem Wave.wrD_s (x : Wave) (r l : Nat) (a : Dword) : (x.wrD r l a).s = x.s := rfl
@[simp] theorem Wave.wrD_m (x : Wave) (r l : Nat) (a : Dword) : (x.wrD r l a).m = x.m := rfl
@[simp] theorem Wave.wrD_fcsr (x : Wave) (r l : Nat) (a : Dword) : (x.wrD r l a).fcsr = x.fcsr := rfl
@[simp] theorem Wave.wrD_pc (x : Wave) (r l : Nat) (a : Dword) : (x.wrD r l a).pc = x.pc := rfl
@[simp] theorem Wave.wrD_mask (x : Wave) (r l : Nat) (a : Dword) : (x.wrD r l a).mask = x.mask := rfl
@[simp] theorem Wave.wrD_exited (x : Wave) (r l : Nat) (a : Dword) : (x.wrD r l a).exited = x.exited := rfl
@[simp] theorem Wave.wrD_dstack (x : Wave) (r l : Nat) (a : Dword) : (x.wrD r l a).dstack = x.dstack := rfl
@[simp] theorem Wave.wrD_rstack (x : Wave) (r l : Nat) (a : Dword) : (x.wrD r l a).rstack = x.rstack := rfl
@[simp] theorem Wave.wrD_dsp (x : Wave) (r l : Nat) (a : Dword) : (x.wrD r l a).dsp = x.dsp := rfl
@[simp] theorem Wave.wrD_rsp (x : Wave) (r l : Nat) (a : Dword) : (x.wrD r l a).rsp = x.rsp := rfl
@[simp] theorem Wave.wrD_rpm (x : Wave) (r l : Nat) (a : Dword) : (x.wrD r l a).rpm = x.rpm := rfl
@[simp] theorem Wave.wrD_stall (x : Wave) (r l : Nat) (a : Dword) : (x.wrD r l a).stall = x.stall := rfl
@[simp] theorem Wave.wrD_pending (x : Wave) (r l : Nat) (a : Dword) : (x.wrD r l a).pending = x.pending := rfl
@[simp] theorem Wave.wrD_retired (x : Wave) (r l : Nat) (a : Dword) : (x.wrD r l a).retired = x.retired := rfl
@[simp] theorem Wave.wrD_lastBatch (x : Wave) (r l : Nat) (a : Dword) : (x.wrD r l a).lastBatch = x.lastBatch := rfl
@[simp] theorem Wave.wrD_qmaps (x : Wave) (r l : Nat) (a : Dword) : (x.wrD r l a).qmaps = x.qmaps := rfl
@[simp] theorem Wave.wrD_recvs (x : Wave) (r l : Nat) (a : Dword) : (x.wrD r l a).recvs = x.recvs := rfl
@[simp] theorem Wave.wrD_arrived (x : Wave) (r l : Nat) (a : Dword) : (x.wrD r l a).arrived = x.arrived := rfl
@[simp] theorem Wave.wrD_barIn (x : Wave) (r l : Nat) (a : Dword) : (x.wrD r l a).barIn = x.barIn := rfl
@[simp] theorem Wave.wrD_barOut (x : Wave) (r l : Nat) (a : Dword) : (x.wrD r l a).barOut = x.barOut := rfl
@[simp] theorem Wave.wrD_since (x : Wave) (r l : Nat) (a : Dword) : (x.wrD r l a).since = x.since := rfl
@[simp] theorem Wave.wrD_passed (x : Wave) (r l : Nat) (a : Dword) : (x.wrD r l a).passed = x.passed := rfl
@[simp] theorem Wave.wrD_remoteWait (x : Wave) (r l : Nat) (a : Dword) : (x.wrD r l a).remoteWait = x.remoteWait := rfl
@[simp] theorem Wave.wrD_timedOut (x : Wave) (r l : Nat) (a : Dword) : (x.wrD r l a).timedOut = x.timedOut := rfl
@[simp] theorem Wave.wrD_bpDone (x : Wave) (r l : Nat) (a : Dword) : (x.wrD r l a).bpDone = x.bpDone := rfl
@[simp] theorem Wave.wrD_undo (x : Wave) (r l : Nat) (a : Dword) : (x.wrD r l a).undo = x.undo := rfl
@[simp] theorem Wave.wrD_waitq (x : Wave) (r l : Nat) (a : Dword) : (x.wrD r l a).waitq = x.waitq := rfl
@[simp] theorem Wave.wrD_waitn (x : Wave) (r l : Nat) (a : Dword) : (x.wrD r l a).waitn = x.waitn := rfl
@[simp] theorem Wave.wrD_popped (x : Wave) (r l : Nat) (a : Dword) : (x.wrD r l a).popped = x.popped := rfl
@[simp] theorem Wave.wrD_holds (x : Wave) (r l : Nat) (a : Dword) : (x.wrD r l a).holds = x.holds := rfl
@[simp] theorem Wave.wrD_batchWait (x : Wave) (r l : Nat) (a : Dword) : (x.wrD r l a).batchWait = x.batchWait := rfl

@[simp] theorem Wave.wrS_v (x : Wave) (r : Nat) (a : Dword) : (x.wrS r a).v = x.v := by
  unfold Wave.wrS; split <;> rfl
@[simp] theorem Wave.wrS_m (x : Wave) (r : Nat) (a : Dword) : (x.wrS r a).m = x.m := by
  unfold Wave.wrS; split <;> rfl
@[simp] theorem Wave.wrS_fcsr (x : Wave) (r : Nat) (a : Dword) : (x.wrS r a).fcsr = x.fcsr := by
  unfold Wave.wrS; split <;> rfl
@[simp] theorem Wave.wrS_pc (x : Wave) (r : Nat) (a : Dword) : (x.wrS r a).pc = x.pc := by
  unfold Wave.wrS; split <;> rfl
@[simp] theorem Wave.wrS_mask (x : Wave) (r : Nat) (a : Dword) : (x.wrS r a).mask = x.mask := by
  unfold Wave.wrS; split <;> rfl
@[simp] theorem Wave.wrS_exited (x : Wave) (r : Nat) (a : Dword) : (x.wrS r a).exited = x.exited := by
  unfold Wave.wrS; split <;> rfl
@[simp] theorem Wave.wrS_dstack (x : Wave) (r : Nat) (a : Dword) : (x.wrS r a).dstack = x.dstack := by
  unfold Wave.wrS; split <;> rfl
@[simp] theorem Wave.wrS_rstack (x : Wave) (r : Nat) (a : Dword) : (x.wrS r a).rstack = x.rstack := by
  unfold Wave.wrS; split <;> rfl
@[simp] theorem Wave.wrS_dsp (x : Wave) (r : Nat) (a : Dword) : (x.wrS r a).dsp = x.dsp := by
  unfold Wave.wrS; split <;> rfl
@[simp] theorem Wave.wrS_rsp (x : Wave) (r : Nat) (a : Dword) : (x.wrS r a).rsp = x.rsp := by
  unfold Wave.wrS; split <;> rfl
@[simp] theorem Wave.wrS_rpm (x : Wave) (r : Nat) (a : Dword) : (x.wrS r a).rpm = x.rpm := by
  unfold Wave.wrS; split <;> rfl
@[simp] theorem Wave.wrS_stall (x : Wave) (r : Nat) (a : Dword) : (x.wrS r a).stall = x.stall := by
  unfold Wave.wrS; split <;> rfl
@[simp] theorem Wave.wrS_pending (x : Wave) (r : Nat) (a : Dword) : (x.wrS r a).pending = x.pending := by
  unfold Wave.wrS; split <;> rfl
@[simp] theorem Wave.wrS_retired (x : Wave) (r : Nat) (a : Dword) : (x.wrS r a).retired = x.retired := by
  unfold Wave.wrS; split <;> rfl
@[simp] theorem Wave.wrS_lastBatch (x : Wave) (r : Nat) (a : Dword) : (x.wrS r a).lastBatch = x.lastBatch := by
  unfold Wave.wrS; split <;> rfl
@[simp] theorem Wave.wrS_qmaps (x : Wave) (r : Nat) (a : Dword) : (x.wrS r a).qmaps = x.qmaps := by
  unfold Wave.wrS; split <;> rfl
@[simp] theorem Wave.wrS_recvs (x : Wave) (r : Nat) (a : Dword) : (x.wrS r a).recvs = x.recvs := by
  unfold Wave.wrS; split <;> rfl
@[simp] theorem Wave.wrS_arrived (x : Wave) (r : Nat) (a : Dword) : (x.wrS r a).arrived = x.arrived := by
  unfold Wave.wrS; split <;> rfl
@[simp] theorem Wave.wrS_barIn (x : Wave) (r : Nat) (a : Dword) : (x.wrS r a).barIn = x.barIn := by
  unfold Wave.wrS; split <;> rfl
@[simp] theorem Wave.wrS_barOut (x : Wave) (r : Nat) (a : Dword) : (x.wrS r a).barOut = x.barOut := by
  unfold Wave.wrS; split <;> rfl
@[simp] theorem Wave.wrS_since (x : Wave) (r : Nat) (a : Dword) : (x.wrS r a).since = x.since := by
  unfold Wave.wrS; split <;> rfl
@[simp] theorem Wave.wrS_passed (x : Wave) (r : Nat) (a : Dword) : (x.wrS r a).passed = x.passed := by
  unfold Wave.wrS; split <;> rfl
@[simp] theorem Wave.wrS_remoteWait (x : Wave) (r : Nat) (a : Dword) : (x.wrS r a).remoteWait = x.remoteWait := by
  unfold Wave.wrS; split <;> rfl
@[simp] theorem Wave.wrS_timedOut (x : Wave) (r : Nat) (a : Dword) : (x.wrS r a).timedOut = x.timedOut := by
  unfold Wave.wrS; split <;> rfl
@[simp] theorem Wave.wrS_bpDone (x : Wave) (r : Nat) (a : Dword) : (x.wrS r a).bpDone = x.bpDone := by
  unfold Wave.wrS; split <;> rfl
@[simp] theorem Wave.wrS_undo (x : Wave) (r : Nat) (a : Dword) : (x.wrS r a).undo = x.undo := by
  unfold Wave.wrS; split <;> rfl
@[simp] theorem Wave.wrS_waitq (x : Wave) (r : Nat) (a : Dword) : (x.wrS r a).waitq = x.waitq := by
  unfold Wave.wrS; split <;> rfl
@[simp] theorem Wave.wrS_waitn (x : Wave) (r : Nat) (a : Dword) : (x.wrS r a).waitn = x.waitn := by
  unfold Wave.wrS; split <;> rfl
@[simp] theorem Wave.wrS_popped (x : Wave) (r : Nat) (a : Dword) : (x.wrS r a).popped = x.popped := by
  unfold Wave.wrS; split <;> rfl
@[simp] theorem Wave.wrS_holds (x : Wave) (r : Nat) (a : Dword) : (x.wrS r a).holds = x.holds := by
  unfold Wave.wrS; split <;> rfl
@[simp] theorem Wave.wrS_batchWait (x : Wave) (r : Nat) (a : Dword) : (x.wrS r a).batchWait = x.batchWait := by
  unfold Wave.wrS; split <;> rfl

@[simp] theorem Wave.wrM_v (x : Wave) (r : Nat) (a : Word) : (x.wrM r a).v = x.v := by
  unfold Wave.wrM; split <;> rfl
@[simp] theorem Wave.wrM_s (x : Wave) (r : Nat) (a : Word) : (x.wrM r a).s = x.s := by
  unfold Wave.wrM; split <;> rfl
@[simp] theorem Wave.wrM_fcsr (x : Wave) (r : Nat) (a : Word) : (x.wrM r a).fcsr = x.fcsr := by
  unfold Wave.wrM; split <;> rfl
@[simp] theorem Wave.wrM_pc (x : Wave) (r : Nat) (a : Word) : (x.wrM r a).pc = x.pc := by
  unfold Wave.wrM; split <;> rfl
@[simp] theorem Wave.wrM_mask (x : Wave) (r : Nat) (a : Word) : (x.wrM r a).mask = x.mask := by
  unfold Wave.wrM; split <;> rfl
@[simp] theorem Wave.wrM_exited (x : Wave) (r : Nat) (a : Word) : (x.wrM r a).exited = x.exited := by
  unfold Wave.wrM; split <;> rfl
@[simp] theorem Wave.wrM_dstack (x : Wave) (r : Nat) (a : Word) : (x.wrM r a).dstack = x.dstack := by
  unfold Wave.wrM; split <;> rfl
@[simp] theorem Wave.wrM_rstack (x : Wave) (r : Nat) (a : Word) : (x.wrM r a).rstack = x.rstack := by
  unfold Wave.wrM; split <;> rfl
@[simp] theorem Wave.wrM_dsp (x : Wave) (r : Nat) (a : Word) : (x.wrM r a).dsp = x.dsp := by
  unfold Wave.wrM; split <;> rfl
@[simp] theorem Wave.wrM_rsp (x : Wave) (r : Nat) (a : Word) : (x.wrM r a).rsp = x.rsp := by
  unfold Wave.wrM; split <;> rfl
@[simp] theorem Wave.wrM_rpm (x : Wave) (r : Nat) (a : Word) : (x.wrM r a).rpm = x.rpm := by
  unfold Wave.wrM; split <;> rfl
@[simp] theorem Wave.wrM_stall (x : Wave) (r : Nat) (a : Word) : (x.wrM r a).stall = x.stall := by
  unfold Wave.wrM; split <;> rfl
@[simp] theorem Wave.wrM_pending (x : Wave) (r : Nat) (a : Word) : (x.wrM r a).pending = x.pending := by
  unfold Wave.wrM; split <;> rfl
@[simp] theorem Wave.wrM_retired (x : Wave) (r : Nat) (a : Word) : (x.wrM r a).retired = x.retired := by
  unfold Wave.wrM; split <;> rfl
@[simp] theorem Wave.wrM_lastBatch (x : Wave) (r : Nat) (a : Word) : (x.wrM r a).lastBatch = x.lastBatch := by
  unfold Wave.wrM; split <;> rfl
@[simp] theorem Wave.wrM_qmaps (x : Wave) (r : Nat) (a : Word) : (x.wrM r a).qmaps = x.qmaps := by
  unfold Wave.wrM; split <;> rfl
@[simp] theorem Wave.wrM_recvs (x : Wave) (r : Nat) (a : Word) : (x.wrM r a).recvs = x.recvs := by
  unfold Wave.wrM; split <;> rfl
@[simp] theorem Wave.wrM_arrived (x : Wave) (r : Nat) (a : Word) : (x.wrM r a).arrived = x.arrived := by
  unfold Wave.wrM; split <;> rfl
@[simp] theorem Wave.wrM_barIn (x : Wave) (r : Nat) (a : Word) : (x.wrM r a).barIn = x.barIn := by
  unfold Wave.wrM; split <;> rfl
@[simp] theorem Wave.wrM_barOut (x : Wave) (r : Nat) (a : Word) : (x.wrM r a).barOut = x.barOut := by
  unfold Wave.wrM; split <;> rfl
@[simp] theorem Wave.wrM_since (x : Wave) (r : Nat) (a : Word) : (x.wrM r a).since = x.since := by
  unfold Wave.wrM; split <;> rfl
@[simp] theorem Wave.wrM_passed (x : Wave) (r : Nat) (a : Word) : (x.wrM r a).passed = x.passed := by
  unfold Wave.wrM; split <;> rfl
@[simp] theorem Wave.wrM_remoteWait (x : Wave) (r : Nat) (a : Word) : (x.wrM r a).remoteWait = x.remoteWait := by
  unfold Wave.wrM; split <;> rfl
@[simp] theorem Wave.wrM_timedOut (x : Wave) (r : Nat) (a : Word) : (x.wrM r a).timedOut = x.timedOut := by
  unfold Wave.wrM; split <;> rfl
@[simp] theorem Wave.wrM_bpDone (x : Wave) (r : Nat) (a : Word) : (x.wrM r a).bpDone = x.bpDone := by
  unfold Wave.wrM; split <;> rfl
@[simp] theorem Wave.wrM_undo (x : Wave) (r : Nat) (a : Word) : (x.wrM r a).undo = x.undo := by
  unfold Wave.wrM; split <;> rfl
@[simp] theorem Wave.wrM_waitq (x : Wave) (r : Nat) (a : Word) : (x.wrM r a).waitq = x.waitq := by
  unfold Wave.wrM; split <;> rfl
@[simp] theorem Wave.wrM_waitn (x : Wave) (r : Nat) (a : Word) : (x.wrM r a).waitn = x.waitn := by
  unfold Wave.wrM; split <;> rfl
@[simp] theorem Wave.wrM_popped (x : Wave) (r : Nat) (a : Word) : (x.wrM r a).popped = x.popped := by
  unfold Wave.wrM; split <;> rfl
@[simp] theorem Wave.wrM_holds (x : Wave) (r : Nat) (a : Word) : (x.wrM r a).holds = x.holds := by
  unfold Wave.wrM; split <;> rfl
@[simp] theorem Wave.wrM_batchWait (x : Wave) (r : Nat) (a : Word) : (x.wrM r a).batchWait = x.batchWait := by
  unfold Wave.wrM; split <;> rfl

end Sys2Proof.Machine
end

