-- ==== Sys2Proof/Laws/Issue.lean ====
section
/-! SUPPORT. What the core does around an instruction of a wave, said once: a wave that may run a word runs its body, and
how the instruction ends. -/

namespace Sys2Proof.Machine

/-! ### Running the body -/

theorem ctx_wave {s : State} {w : WaveId} {k : Ctx} (h : ctx? s w = some k) : k.w = w ∧ s.wave? w = some k.wv := by
  unfold ctx? at h
  split at h
  · split at h
    · cases h
      exact ⟨rfl, by assumption⟩
    · cases h
  · cases h

theorem ctx_gang {s : State} {w : WaveId} {k : Ctx} (h : ctx? s w = some k) : s.gang? k.gid = some k.g := by
  unfold ctx? at h
  split at h
  · split at h
    · cases h; assumption
    · cases h
  · cases h

theorem ctx_crew {s : State} {w : WaveId} {k : Ctx} (h : ctx? s w = some k) : s.crew? k.w.crew = some k.c := by
  unfold ctx? at h
  split at h
  · split at h
    · cases h; assumption
    · cases h
  · cases h

theorem modWave_id {s : State} {w : WaveId} {f : Wave → Wave} (h : ∀ x, f x = x) : s.modWave w f = s := by
  unfold State.modWave
  split
  · rename_i x hx
    rw [h]
    exact State.setWave_self hx
  · rfl

/-- Nothing is undone where nothing was popped. -/
theorem unpop_nil (k : Ctx) (s t : State) : unpop k s [] t = t := modWave_id (fun _ => rfl)

theorem heldMaps_nil (i : Instr) (k : Ctx) (s t : State) : heldMaps i k s [] t = t := by
  unfold heldMaps
  split
  · simp [unpop_nil]
  · rfl

theorem logPops_nil (i : Instr) (k : Ctx) (s : State) : logPops i k [] s = s := by
  unfold logPops
  split <;> rfl

theorem pushMapped_nil (i : Instr) (k : Ctx) (s : State) : pushMapped i k s [] = s := by
  cases i <;> simp [pushMapped, State.pushRegs]

/-- A word whose registers are in no mapping takes from no queue and gives to none. -/
theorem Ctx.maps_clear {i : Instr} {k : Ctx} (hi : mappedIn k.wv (dataUse k.wide i).1 false = [])
    (ho : mappedIn k.wv (dataUse k.wide i).2 true = []) : k.maps i = ([], []) := by
  unfold Ctx.maps
  rw [hi, ho]
  split <;> rfl

/-- Where no register of the word is mapped, waits for a result or waits for a status, and no FENCE holds the word, it
has no reason to wait before it is looked at. -/
theorem waitings_clear {i : Instr} {k : Ctx} {s : State} (hr : recvPending k s (k.awaits i) = false)
    (hf : fopPending k (k.awaits i) = false) (hu : (storeLike i && s.fenceHolds k.cluster k.w k.wv) = false)
    (hm : k.maps i = ([], [])) : waitings i k s = [] := by
  have hn : noPlace i k s [] = none := by cases i <;> rfl
  have hb : s.unboundMap k [] = none := rfl
  simp only [waitings, hm, hf, hr, popMapped, hn, hb, List.isEmpty_nil, Bool.not_true, Bool.or_false, hu, Bool.and_false,
    Option.isNone_none, Bool.false_and, Bool.false_eq_true, if_false, List.append_nil]

/-- Where no register of the word is mapped, the mappings of the wave change nothing. -/
theorem withMaps_clear {i : Instr} {k : Ctx} {s : State} {body : Ctx → State → Res} (hw : s.wave? k.w = some k.wv)
    (hi : mappedIn k.wv (dataUse k.wide i).1 false = []) (ho : mappedIn k.wv (dataUse k.wide i).2 true = []) :
    withMaps i k s body = finish i k s (body k s) := by
  have hk : ({ k with wv := (s.wave? k.w).getD k.wv } : Ctx) = k := by rw [hw]; rfl
  simp only [withMaps, Ctx.maps_clear hi ho, popMapped, hk, unpop_nil, heldMaps_nil, logPops_nil, pushMapped_nil]
  cases body k s <;> rfl

/-- A wave that may run a word runs its body, and the instruction ends as the body says. -/
theorem issueCore_run {i : Instr} {s : State} {k : Ctx} (body : Ctx → State → Res) (h : MayRun i s k) :
    issueCore i s body = .next (finish i k s.unfocused (body k s.unfocused)) := by
  have hw := ctx_wave h.ctx
  have hg : waitings i k s.unfocused = [] :=
    waitings_clear (s := s.unfocused) h.results h.statuses h.unfenced (Ctx.maps_clear h.inputs h.outputs)
  unfold issueCore
  simp only [h.focus, h.ctx]
  congr 1
  show issueAt i k s.unfocused body = _
  have hb : s.unfocused.unboundMap k ((k.maps i).1 ++ (k.maps i).2) = none := by
    rw [Ctx.maps_clear h.inputs h.outputs]; rfl
  simp only [issueAt, h.legal, hg, hb, Bool.not_true, Bool.false_eq_true, if_false]
  exact withMaps_clear (s := s.unfocused) hw.2 h.inputs h.outputs

/-- A wave that may run a word whose body is done. -/
theorem issueCore_done {i : Instr} {s : State} {k : Ctx} {body : Ctx → State → Res} {E : State} (h : MayRun i s k)
    (hb : body k s.unfocused = .done E) : issueCore i s body = .next (finish i k s.unfocused (.done E)) := by
  rw [issueCore_run body h, hb]

/-- A wave that may run a word whose body has moved it. -/
theorem issueCore_moved {i : Instr} {s : State} {k : Ctx} {body : Ctx → State → Res} {E : State} (h : MayRun i s k)
    (hb : body k s.unfocused = .moved E) : issueCore i s body = .next (finish i k s.unfocused (.moved E)) := by
  rw [issueCore_run body h, hb]

/-- A wave that may run a word which holds at the word. -/
theorem issueCore_held {i : Instr} {s : State} {k : Ctx} {body : Ctx → State → Res} {E : State} (h : MayRun i s k)
    (hb : body k s.unfocused = .held E) : issueCore i s body = .next E := by
  rw [issueCore_run body h, hb]
  rfl

/-- A wave that may run a word which has to wait. -/
theorem issueCore_wait {i : Instr} {s t : State} {k : Ctx} {body : Ctx → State → Res} {r : Stall} (h : MayRun i s k)
    (hb : body k s.unfocused = .wait r t) : issueCore i s body = .next (waitWith k r t) := by
  rw [issueCore_run body h, hb]
  rfl

/-! ### Lanes -/

/-- What a walk over the active lanes leaves: a projection that a lane's step changes in no other lane. -/
theorem foldLanes_inv {β : Type} (act : Word) (f : Nat → Wave → Wave) (p : Wave → β) (h : ∀ l x, p (f l x) = p x)
    (x : Wave) : p (foldLanes act f x) = p x := by
  unfold foldLanes
  generalize List.range 32 = ls
  induction ls generalizing x with
  | nil => rfl
  | cons l t ih =>
    rw [List.foldl_cons, ih]
    split
    · exact h l x
    · rfl

/-- What a lane holds after the walk: what its own step makes of what it held, when a step touches its own lane only. -/
theorem foldLanes_lane {β : Type} (act : Word) (f : Nat → Wave → Wave) (p : Nat → Wave → β) (q : Nat → β → β)
    (hs : ∀ l x, l < 32 → p l (f l x) = q l (p l x)) (ho : ∀ l m x, l < 32 → m < 32 → m ≠ l → p m (f l x) = p m x)
    (x : Wave) (m : Nat) (hm : m < 32) :
    p m (foldLanes act f x) = if act.getLsbD m then q m (p m x) else p m x := by
  unfold foldLanes
  have key : ∀ (ls : List Nat) (y : Wave), (∀ l ∈ ls, l < 32) → ls.Nodup →
      p m (ls.foldl (fun a l => if act.getLsbD l then f l a else a) y)
        = if m ∈ ls ∧ act.getLsbD m then q m (p m y) else p m y := by
    intro ls
    induction ls with
    | nil => intro y _ _; simp
    | cons l t ih =>
      intro y hl hn
      rw [List.foldl_cons, ih _ (fun a ha => hl a (List.mem_cons_of_mem _ ha)) (List.nodup_cons.mp hn).2]
      have hl32 := hl l (List.mem_cons_self ..)
      by_cases e : m = l
      · subst e
        have hnot := (List.nodup_cons.mp hn).1
        by_cases hact : act.getLsbD m = true
        · simp [hnot, hact, hs m y hm]
        · simp [hact]
      · have h1 : p m (if act.getLsbD l = true then f l y else y) = p m y := by
          split
          · exact ho l m y hl32 hm e
          · rfl
        rw [h1]
        simp [e]
  rw [key _ _ (by simp) List.nodup_range]
  simp [hm]

/-! ### Waves of the form -/

theorem GangId.waves_nodup (g : GangId) : g.waves.Nodup := by
  unfold GangId.waves
  refine (List.nodup_map_iff ?_).mpr List.nodup_range
  intro a b h
  simpa using h

theorem Ctx.waves_nodup (k : Ctx) : k.waves.Nodup := by
  unfold Ctx.waves
  split
  · exact GangId.waves_nodup _
  · simp

/-- The issuing wave is one of the form: it is the leader in vector form. -/
theorem Ctx.mem_waves {k : Ctx} (h : k.issues = true) : k.w ∈ k.waves := by
  unfold Ctx.waves
  split
  · rename_i hv
    have : k.w.wave = 0 := by
      simp [Ctx.issues, hv] at h
      exact h.2
    unfold GangId.waves Ctx.gid gangOf
    rw [List.mem_map]
    refine ⟨0, by simp, ?_⟩
    rw [← this]
  · simp

theorem modWave_eq (s : State) (w : WaveId) (f : Wave → Wave) :
    s.modWave w f = { s with waves := (s.modWave w f).waves } := by
  unfold State.modWave
  split <;> rfl

/-- `Ctx.each` changes the waves of the form, each from its own state, and nothing else. -/
theorem Ctx.each_onWaves (k : Ctx) (s : State) (g : WaveId → Wave → Wave) :
    OnWaves k s (k.each s g) (fun v x y => y = g v x) := by
  unfold Ctx.each OnWaves
  have key : ∀ (vs : List WaveId) (s : State), vs.Nodup →
      (vs.foldl (fun s v => s.modWave v (g v)) s) = { s with waves := (vs.foldl (fun s v => s.modWave v (g v)) s).waves }
      ∧ ∀ v, (vs.foldl (fun s v => s.modWave v (g v)) s).wave? v
          = if v ∈ vs then (s.wave? v).map (g v) else s.wave? v := by
    intro vs
    induction vs with
    | nil => intro s _; exact ⟨rfl, by simp⟩
    | cons w t ih =>
      intro s hn
      have hn' := List.nodup_cons.mp hn
      obtain ⟨h1, h2⟩ := ih (s.modWave w (g w)) hn'.2
      refine ⟨?_, ?_⟩
      · rw [List.foldl_cons]
        refine h1.trans ?_
        have := modWave_eq s w (g w)
        rw [this]
      · intro v
        rw [List.foldl_cons, h2, State.wave?_modWave]
        by_cases e : w = v
        · subst e
          simp [hn'.1]
        · have e' : ¬ v = w := fun z => e z.symm
          simp [e, e']
  obtain ⟨h1, h2⟩ := key k.waves s k.waves_nodup
  refine ⟨h1, ?_, ?_⟩
  · intro v hv
    rw [h2]; simp [hv]
  · intro v x hv hx
    refine ⟨g v x, ?_, rfl⟩
    rw [h2, hx]; simp [hv]

theorem OnWaves.mono {k : Ctx} {s t : State} {R R' : WaveId → Wave → Wave → Prop} (h : OnWaves k s t R)
    (hr : ∀ v x y, R v x y → R' v x y) : OnWaves k s t R' := by
  refine ⟨h.1, h.2.1, ?_⟩
  intro v x hv hx
  obtain ⟨y, hy, r⟩ := h.2.2 v x hv hx
  exact ⟨y, hy, hr v x y r⟩

/-! ### Containers -/

theorem Wave.rdV_wrD (x : Wave) (D l r m : Nat) (a : Dword) (hl : l < 32) (hm : m < 32) :
    (x.wrD D l a).rdV r m =
      if m = l ∧ r = D then a.extractLsb' 0 32 else if m = l ∧ r = D + 1 then a.extractLsb' 32 32 else x.rdV r m := by
  rw [Wave.wrD, Wave.rdV_wrV _ _ _ _ _ _ hl hm, Wave.rdV_wrV _ _ _ _ _ _ hl hm]
  by_cases e : m = l
  · by_cases a : r = D
    · have : ¬ r = D + 1 := by omega
      simp [e, a]
    · simp [e, a]
  · simp [e]

theorem low_half (v : Nat) : (BitVec.ofNat 64 v).extractLsb' 0 32 = BitVec.ofNat 32 v := by
  apply BitVec.eq_of_toNat_eq
  simp only [BitVec.extractLsb'_toNat, BitVec.toNat_ofNat, Nat.shiftRight_zero]
  omega

theorem high_half (v : Nat) : (BitVec.ofNat 64 v).extractLsb' 32 32 = BitVec.ofNat 32 (v / 2 ^ 32) := by
  apply BitVec.eq_of_toNat_eq
  simp only [BitVec.extractLsb'_toNat, BitVec.toNat_ofNat, Nat.shiftRight_eq_div_pow]
  omega

theorem Wave.rdV_wrT (x : Wave) (ty : BitVec 2) (D l v r m : Nat) (hl : l < 32) (hm : m < 32) :
    (x.wrT ty D l v).rdV r m =
      if m = l then
        if r == D then BitVec.ofNat 32 v
        else if ty == 1 && r == D + 1 then BitVec.ofNat 32 (v / 2 ^ 32)
        else x.rdV r m
      else x.rdV r m := by
  unfold Wave.wrT
  cases ht : ty == 1
  · simp only [Bool.false_eq_true, if_false, Bool.false_and]
    rw [Wave.rdV_wrV _ _ _ _ _ _ hl hm]
    by_cases e : m = l <;> by_cases a : r = D <;> simp [e, a]
  · simp only [if_true, Bool.true_and]
    rw [Wave.rdV_wrD _ _ _ _ _ _ hl hm, low_half, high_half]
    by_cases e : m = l <;> by_cases a : r = D <;> simp [e, a]

theorem Wave.wrT_v (x : Wave) (ty : BitVec 2) (D l v : Nat) : x.wrT ty D l v = { x with v := (x.wrT ty D l v).v } := by
  unfold Wave.wrT
  split <;> rfl

theorem foldLanes_v {act : Word} {f : Nat → Wave → Wave} (h : ∀ l x, f l x = { x with v := (f l x).v }) (x : Wave) :
    foldLanes act f x = { x with v := (foldLanes act f x).v } := by
  unfold foldLanes
  generalize List.range 32 = ls
  induction ls generalizing x with
  | nil => rfl
  | cons l t ih =>
    rw [List.foldl_cons, ih]
    split
    · rw [h]
    · rfl

/-- A walk that writes one container per active lane. -/
theorem foldLanes_wrT (act : Word) (ty : BitVec 2) (D : Nat) (val : Nat → Nat) (x : Wave) :
    LanesAre act ty D val x (foldLanes act (fun l a => a.wrT ty D l (val l)) x) := by
  refine ⟨foldLanes_v (fun l y => Wave.wrT_v y ty D l (val l)) x, ?_⟩
  intro r l hl
  rw [foldLanes_lane act (fun l a => a.wrT ty D l (val l)) (fun m (y : Wave) => y.rdV r m)
    (fun m old => if r == D then BitVec.ofNat 32 (val m)
      else if ty == 1 && r == D + 1 then BitVec.ofNat 32 (val m / 2 ^ 32) else old)
    (by intro l y hl; simp only [Wave.rdV_wrT _ _ _ _ _ _ _ hl hl, if_true])
    (by intro l m y hl hm hne; simp only [Wave.rdV_wrT _ _ _ _ _ _ _ hl hm, hne, if_false])
    x l hl]
  cases act.getLsbD l <;> simp

/-- A walk that writes a container in the active lanes that have a value. -/
theorem foldLanes_opt (act : Word) (ty : BitVec 2) (D : Nat) (val : Nat → Option Nat) (x : Wave) :
    LanesMayBe act ty D val x (foldLanes act (fun l a => match val l with
      | some y => a.wrT ty D l y
      | none => a) x) := by
  refine ⟨foldLanes_v (fun l y => by
    split
    · exact Wave.wrT_v y ty D l _
    · rfl) x, ?_⟩
  intro r l hl
  rw [foldLanes_lane act (fun l a => match val l with
      | some y => a.wrT ty D l y
      | none => a) (fun m (y : Wave) => y.rdV r m)
    (fun m old => match val m with
      | some a => if r == D then BitVec.ofNat 32 a
        else if ty == 1 && r == D + 1 then BitVec.ofNat 32 (a / 2 ^ 32) else old
      | none => old)
    (by
      intro l y hl
      cases val l
      · rfl
      · simp only [Wave.rdV_wrT _ _ _ _ _ _ _ hl hl, if_true])
    (by
      intro l m y hl hm hne
      cases val l
      · rfl
      · simp only [Wave.rdV_wrT _ _ _ _ _ _ _ hl hm, hne, if_false])
    x l hl]
  cases act.getLsbD l
  · rfl
  · cases val l <;> rfl

theorem Wave.bit_wrMbit (x : Wave) (D l r m : Nat) (b : Bool) (hl : l < 32) :
    ((x.wrMbit D l b).rdM r).getLsbD m = if m = l ∧ r = D ∧ r ≠ 0 then b else (x.rdM r).getLsbD m := by
  unfold Wave.wrMbit
  by_cases h : D = 0
  · subst h
    simp
  · rw [Wave.rdM_wrM _ _ _ _ h]
    by_cases e : r = D
    · subst e
      simp only [if_true, getLsbD_setBit _ _ _ _ hl, true_and]
      by_cases a : m = l <;> simp [a, h]
    · simp [e]

theorem Wave.wrMbit_m (x : Wave) (D l : Nat) (b : Bool) : x.wrMbit D l b = { x with m := (x.wrMbit D l b).m } := by
  unfold Wave.wrMbit Wave.wrM
  split <;> rfl

theorem foldLanes_m {act : Word} {f : Nat → Wave → Wave} (h : ∀ l x, f l x = { x with m := (f l x).m }) (x : Wave) :
    foldLanes act f x = { x with m := (foldLanes act f x).m } := by
  unfold foldLanes
  generalize List.range 32 = ls
  induction ls generalizing x with
  | nil => rfl
  | cons l t ih =>
    rw [List.foldl_cons, ih]
    split
    · rw [h]
    · rfl

/-- A walk that writes a mask bit in the active lanes that have one. -/
theorem foldLanes_mask (act : Word) (D : Nat) (val : Nat → Option Bool) (x : Wave) :
    MaskIs act D val x (foldLanes act (fun l a => match val l with
      | some y => a.wrMbit D l y
      | none => a) x) := by
  refine ⟨foldLanes_m (fun l y => by
    split
    · exact Wave.wrMbit_m y D l _
    · rfl) x, ?_⟩
  intro r l hl
  rw [foldLanes_lane act (fun l a => match val l with
      | some y => a.wrMbit D l y
      | none => a) (fun m (y : Wave) => (y.rdM r).getLsbD m)
    (fun m old => if r = D ∧ r ≠ 0 then (val m).getD old else old)
    (by
      intro l y hl
      cases val l
      · simp
      · simp only [Wave.bit_wrMbit _ _ _ _ _ _ hl, true_and, Option.getD_some])
    (by
      intro l m y hl hm hne
      cases val l
      · rfl
      · simp only [Wave.bit_wrMbit _ _ _ _ _ _ hl, hne, false_and, if_false])
    x l hl]
  by_cases c : r = D <;> by_cases d : r = 0 <;> cases act.getLsbD l <;> simp [c, d]

/-! ### The undo log -/

/-- `t` is `s` with undo logs of waves of the form written, and nothing else changed. -/
def LogOnly (k : Ctx) (s t : State) : Prop :=
  t = { s with waves := t.waves, mem := t.mem }
  ∧ (∀ v, v ∉ k.waves → t.wave? v = s.wave? v)
  ∧ (∀ v x, s.wave? v = some x → ∃ n, t.wave? v = some { x with undo := n })
  ∧ ∀ a, (∀ v ∈ k.waves, ¬ inUndo k.c v a) → Memory.byte t.mem a = Memory.byte s.mem a

theorem LogOnly.refl (k s) : LogOnly k s s := ⟨rfl, fun _ _ => rfl, fun _ x h => ⟨x.undo, h⟩, fun _ _ => rfl⟩

theorem LogOnly.trans {k s t u} (h : LogOnly k s t) (g : LogOnly k t u) : LogOnly k s u := by
  refine ⟨?_, ?_, ?_, ?_⟩
  · refine g.1.trans ?_
    rw [h.1]
  · intro v hv; rw [g.2.1 v hv, h.2.1 v hv]
  · intro v x hx
    obtain ⟨n, hn⟩ := h.2.2.1 v x hx
    obtain ⟨m, hm⟩ := g.2.2.1 v _ hn
    exact ⟨m, hm⟩
  · intro a ha; rw [g.2.2.2 a ha, h.2.2.2 a ha]

theorem undoPush_log (k : Ctx) (s : State) (v : WaveId) (e : List Byte) (hv : v ∈ k.waves) (he : e.length = 32) :
    LogOnly k s (s.undoPush k.c v e) := by
  unfold State.undoPush
  split
  · rename_i x hx
    refine ⟨rfl, ?_, ?_, ?_⟩
    · intro u hu
      have : v ≠ u := fun e => hu (e ▸ hv)
      show (s.setWave v _).wave? u = _
      rw [State.wave?_setWave]; simp [this]
    · intro u y hy
      show ∃ n, (s.setWave v _).wave? u = _
      rw [State.wave?_setWave]
      by_cases e : v = u
      · subst e
        rw [hx] at hy; cases hy
        exact ⟨x.undo + 1, by simp⟩
      · exact ⟨y.undo, by simp [e, hy]⟩
    · intro a ha
      have := ha v hv
      unfold inUndo at this
      apply Memory.byte_put_out
      rw [he]
      have : x.undo % 4096 < 4096 := Nat.mod_lt _ (by decide)
      omega
  · exact LogOnly.refl k s

theorem undoEntry_length (a b c d : Nat) (e : Bool) (f : Word) (g : Dword) (h : Nat) : (undoEntry a b c d e f g h).length = 32 := by
  simp [undoEntry]

theorem foldl_log {α : Type} (k : Ctx) (l : List α) (f : State → α → State) (h : ∀ s, ∀ a ∈ l, LogOnly k s (f s a)) (s : State) :
    LogOnly k s (l.foldl f s) := by
  induction l generalizing s with
  | nil => exact LogOnly.refl k s
  | cons a t ih =>
    rw [List.foldl_cons]
    exact (h s a (by simp)).trans (ih (fun s b hb => h s b (by simp [hb])) _)

theorem states_mem {k : Ctx} {s : State} {q} (h : q ∈ k.states s) : q.1 ∈ k.waves := by
  unfold Ctx.states at h
  rw [List.mem_filterMap] at h
  obtain ⟨v, hv, e⟩ := h
  cases hw : s.wave? v <;> simp [hw] at e
  rw [← e]; exact hv

theorem undoRegs_log (i : Instr) (k : Ctx) (b a : State) (hi : k.issues = true) : LogOnly k a (undoRegs i k b a) := by
  unfold undoRegs
  split
  · refine LogOnly.trans (t := _) ?_ (foldl_log k _ _ ?_ _)
    · refine foldl_log k _ _ ?_ _
      intro s q hq
      have hq := states_mem hq
      dsimp only
      split
      · refine LogOnly.trans ?_ (undoPush_log k _ _ _ hq (undoEntry_length ..))
        refine foldl_log k _ _ ?_ _
        intro s u _
        split
        · refine foldl_log k _ _ ?_ _
          intro s l _
          exact undoPush_log k s _ _ hq (by split <;> exact undoEntry_length ..)
        · refine foldl_log k _ _ ?_ _
          intro s l _
          exact undoPush_log k s _ _ hq (undoEntry_length ..)
        · exact LogOnly.refl k s
      · refine foldl_log k _ _ ?_ _
        intro s u _
        split
        · refine foldl_log k _ _ ?_ _
          intro s l _
          exact undoPush_log k s _ _ hq (by split <;> exact undoEntry_length ..)
        · refine foldl_log k _ _ ?_ _
          intro s l _
          exact undoPush_log k s _ _ hq (undoEntry_length ..)
        · exact LogOnly.refl k s
    · intro s u _
      split
      · exact undoPush_log k s _ _ (Ctx.mem_waves hi) (undoEntry_length ..)
      · exact LogOnly.refl k s
  · exact LogOnly.refl k a

end Sys2Proof.Machine
end

