-- ==== Sys2Proof/Laws/PerInstr.lean ====
section
/-! SUPPORT. What holds of every instruction as syntax, one lemma for each constructor. -/

/-- R55, R63: exactly the core words and the node words have an encoding, and no instruction is both. -/
def Sys2Proof.Laws.Encodes.Statement (i : Sys2Proof.Instr) : Prop :=
  (Sys2Proof.encode i).isSome = (i.isCore || i.isNode) ∧ (i.isCore && i.isNode) = false

namespace Sys2Proof

theorem Laws.Encodes.add (f : KF) : Laws.Encodes.Statement (.add f) := ⟨rfl, rfl⟩
theorem Laws.Encodes.sub (f : KF) : Laws.Encodes.Statement (.sub f) := ⟨rfl, rfl⟩
theorem Laws.Encodes.addc (f : KF) : Laws.Encodes.Statement (.addc f) := ⟨rfl, rfl⟩
theorem Laws.Encodes.subb (f : KF) : Laws.Encodes.Statement (.subb f) := ⟨rfl, rfl⟩
theorem Laws.Encodes.mullo (f : KF) : Laws.Encodes.Statement (.mullo f) := ⟨rfl, rfl⟩
theorem Laws.Encodes.mulhi (f : KF) : Laws.Encodes.Statement (.mulhi f) := ⟨rfl, rfl⟩
theorem Laws.Encodes.mulhn (f : KF) : Laws.Encodes.Statement (.mulhn f) := ⟨rfl, rfl⟩
theorem Laws.Encodes.mad (f : KF) : Laws.Encodes.Statement (.mad f) := ⟨rfl, rfl⟩
theorem Laws.Encodes.div (f : KF) : Laws.Encodes.Statement (.div f) := ⟨rfl, rfl⟩
theorem Laws.Encodes.divn (f : KF) : Laws.Encodes.Statement (.divn f) := ⟨rfl, rfl⟩
theorem Laws.Encodes.rem (f : KF) : Laws.Encodes.Statement (.rem f) := ⟨rfl, rfl⟩
theorem Laws.Encodes.remn (f : KF) : Laws.Encodes.Statement (.remn f) := ⟨rfl, rfl⟩
theorem Laws.Encodes.min (f : KF) : Laws.Encodes.Statement (.min f) := ⟨rfl, rfl⟩
theorem Laws.Encodes.max (f : KF) : Laws.Encodes.Statement (.max f) := ⟨rfl, rfl⟩
theorem Laws.Encodes.minn (f : KF) : Laws.Encodes.Statement (.minn f) := ⟨rfl, rfl⟩
theorem Laws.Encodes.maxn (f : KF) : Laws.Encodes.Statement (.maxn f) := ⟨rfl, rfl⟩
theorem Laws.Encodes.abs (f : KF) : Laws.Encodes.Statement (.abs f) := ⟨rfl, rfl⟩
theorem Laws.Encodes.neg (f : KF) : Laws.Encodes.Statement (.neg f) := ⟨rfl, rfl⟩
theorem Laws.Encodes.and (f : KF) : Laws.Encodes.Statement (.and f) := ⟨rfl, rfl⟩
theorem Laws.Encodes.or (f : KF) : Laws.Encodes.Statement (.or f) := ⟨rfl, rfl⟩
theorem Laws.Encodes.xor (f : KF) : Laws.Encodes.Statement (.xor f) := ⟨rfl, rfl⟩
theorem Laws.Encodes.andn (f : KF) : Laws.Encodes.Statement (.andn f) := ⟨rfl, rfl⟩
theorem Laws.Encodes.not (f : KF) : Laws.Encodes.Statement (.not f) := ⟨rfl, rfl⟩
theorem Laws.Encodes.shl (f : KF) : Laws.Encodes.Statement (.shl f) := ⟨rfl, rfl⟩
theorem Laws.Encodes.shr (f : KF) : Laws.Encodes.Statement (.shr f) := ⟨rfl, rfl⟩
theorem Laws.Encodes.sar (f : KF) : Laws.Encodes.Statement (.sar f) := ⟨rfl, rfl⟩
theorem Laws.Encodes.rol (f : KF) : Laws.Encodes.Statement (.rol f) := ⟨rfl, rfl⟩
theorem Laws.Encodes.clz (f : KF) : Laws.Encodes.Statement (.clz f) := ⟨rfl, rfl⟩
theorem Laws.Encodes.popc (f : KF) : Laws.Encodes.Statement (.popc f) := ⟨rfl, rfl⟩
theorem Laws.Encodes.brev (f : KF) : Laws.Encodes.Statement (.brev f) := ⟨rfl, rfl⟩
theorem Laws.Encodes.bfx (f : KF) : Laws.Encodes.Statement (.bfx f) := ⟨rfl, rfl⟩
theorem Laws.Encodes.bfi (f : KF) : Laws.Encodes.Statement (.bfi f) := ⟨rfl, rfl⟩
theorem Laws.Encodes.lea (f : KF) : Laws.Encodes.Statement (.lea f) := ⟨rfl, rfl⟩
theorem Laws.Encodes.sel (f : KF) : Laws.Encodes.Statement (.sel f) := ⟨rfl, rfl⟩
theorem Laws.Encodes.cmp (f : KF) : Laws.Encodes.Statement (.cmp f) := ⟨rfl, rfl⟩
theorem Laws.Encodes.mov (f : KF) : Laws.Encodes.Statement (.mov f) := ⟨rfl, rfl⟩
theorem Laws.Encodes.movi (f : JF) : Laws.Encodes.Statement (.movi f) := ⟨rfl, rfl⟩
theorem Laws.Encodes.moviHi (f : JF) : Laws.Encodes.Statement (.moviHi f) := ⟨rfl, rfl⟩
theorem Laws.Encodes.moviPair (f : JF) : Laws.Encodes.Statement (.moviPair f) := ⟨rfl, rfl⟩
theorem Laws.Encodes.movsv (f : KF) : Laws.Encodes.Statement (.movsv f) := ⟨rfl, rfl⟩
theorem Laws.Encodes.adds (f : KF) : Laws.Encodes.Statement (.adds f) := ⟨rfl, rfl⟩
theorem Laws.Encodes.subs (f : KF) : Laws.Encodes.Statement (.subs f) := ⟨rfl, rfl⟩
theorem Laws.Encodes.dot4 (f : KF) : Laws.Encodes.Statement (.dot4 f) := ⟨rfl, rfl⟩
theorem Laws.Encodes.fadd (f : KF) : Laws.Encodes.Statement (.fadd f) := ⟨rfl, rfl⟩
theorem Laws.Encodes.fsub (f : KF) : Laws.Encodes.Statement (.fsub f) := ⟨rfl, rfl⟩
theorem Laws.Encodes.fmul (f : KF) : Laws.Encodes.Statement (.fmul f) := ⟨rfl, rfl⟩
theorem Laws.Encodes.fma (f : KF) : Laws.Encodes.Statement (.fma f) := ⟨rfl, rfl⟩
theorem Laws.Encodes.fmin (f : KF) : Laws.Encodes.Statement (.fmin f) := ⟨rfl, rfl⟩
theorem Laws.Encodes.fmax (f : KF) : Laws.Encodes.Statement (.fmax f) := ⟨rfl, rfl⟩
theorem Laws.Encodes.fcmp (f : KF) : Laws.Encodes.Statement (.fcmp f) := ⟨rfl, rfl⟩
theorem Laws.Encodes.fdiv (f : KF) : Laws.Encodes.Statement (.fdiv f) := ⟨rfl, rfl⟩
theorem Laws.Encodes.fsqrt (f : KF) : Laws.Encodes.Statement (.fsqrt f) := ⟨rfl, rfl⟩
theorem Laws.Encodes.frcp (f : KF) : Laws.Encodes.Statement (.frcp f) := ⟨rfl, rfl⟩
theorem Laws.Encodes.frsq (f : KF) : Laws.Encodes.Statement (.frsq f) := ⟨rfl, rfl⟩
theorem Laws.Encodes.fex2 (f : KF) : Laws.Encodes.Statement (.fex2 f) := ⟨rfl, rfl⟩
theorem Laws.Encodes.flg2 (f : KF) : Laws.Encodes.Statement (.flg2 f) := ⟨rfl, rfl⟩
theorem Laws.Encodes.fclass (f : KF) : Laws.Encodes.Statement (.fclass f) := ⟨rfl, rfl⟩
theorem Laws.Encodes.fcvti (f : KF) : Laws.Encodes.Statement (.fcvti f) := ⟨rfl, rfl⟩
theorem Laws.Encodes.icvtf (f : KF) : Laws.Encodes.Statement (.icvtf f) := ⟨rfl, rfl⟩
theorem Laws.Encodes.fcvtw (f : KF) : Laws.Encodes.Statement (.fcvtw f) := ⟨rfl, rfl⟩
theorem Laws.Encodes.frnd (f : KF) : Laws.Encodes.Statement (.frnd f) := ⟨rfl, rfl⟩
theorem Laws.Encodes.fscl (f : KF) : Laws.Encodes.Statement (.fscl f) := ⟨rfl, rfl⟩
theorem Laws.Encodes.fmtw (f : KF) : Laws.Encodes.Statement (.fmtw f) := ⟨rfl, rfl⟩
theorem Laws.Encodes.fmtr (f : KF) : Laws.Encodes.Statement (.fmtr f) := ⟨rfl, rfl⟩
theorem Laws.Encodes.fmtq (f : KF) : Laws.Encodes.Statement (.fmtq f) := ⟨rfl, rfl⟩
theorem Laws.Encodes.cvt (f : KF) : Laws.Encodes.Statement (.cvt f) := ⟨rfl, rfl⟩
theorem Laws.Encodes.sclq (f : KF) : Laws.Encodes.Statement (.sclq f) := ⟨rfl, rfl⟩
theorem Laws.Encodes.scld (f : KF) : Laws.Encodes.Statement (.scld f) := ⟨rfl, rfl⟩
theorem Laws.Encodes.bscl (f : KF) : Laws.Encodes.Statement (.bscl f) := ⟨rfl, rfl⟩
theorem Laws.Encodes.ndot (f : KF) : Laws.Encodes.Statement (.ndot f) := ⟨rfl, rfl⟩
theorem Laws.Encodes.shfl (f : KF) : Laws.Encodes.Statement (.shfl f) := ⟨rfl, rfl⟩
theorem Laws.Encodes.shflup (f : KF) : Laws.Encodes.Statement (.shflup f) := ⟨rfl, rfl⟩
theorem Laws.Encodes.shfldn (f : KF) : Laws.Encodes.Statement (.shfldn f) := ⟨rfl, rfl⟩
theorem Laws.Encodes.shflx (f : KF) : Laws.Encodes.Statement (.shflx f) := ⟨rfl, rfl⟩
theorem Laws.Encodes.bcast (f : KF) : Laws.Encodes.Statement (.bcast f) := ⟨rfl, rfl⟩
theorem Laws.Encodes.ballot (f : KF) : Laws.Encodes.Statement (.ballot f) := ⟨rfl, rfl⟩
theorem Laws.Encodes.vote (f : KF) : Laws.Encodes.Statement (.vote f) := ⟨rfl, rfl⟩
theorem Laws.Encodes.red (f : KF) : Laws.Encodes.Statement (.red f) := ⟨rfl, rfl⟩
theorem Laws.Encodes.scan (f : KF) : Laws.Encodes.Statement (.scan f) := ⟨rfl, rfl⟩
theorem Laws.Encodes.cmpr (f : KF) : Laws.Encodes.Statement (.cmpr f) := ⟨rfl, rfl⟩
theorem Laws.Encodes.expd (f : KF) : Laws.Encodes.Statement (.expd f) := ⟨rfl, rfl⟩
theorem Laws.Encodes.iota (f : KF) : Laws.Encodes.Statement (.iota f) := ⟨rfl, rfl⟩
theorem Laws.Encodes.setvl (f : KF) : Laws.Encodes.Statement (.setvl f) := ⟨rfl, rfl⟩
theorem Laws.Encodes.getvl (f : KF) : Laws.Encodes.Statement (.getvl f) := ⟨rfl, rfl⟩
theorem Laws.Encodes.msk (f : KF) : Laws.Encodes.Statement (.msk f) := ⟨rfl, rfl⟩
theorem Laws.Encodes.mpop (f : KF) : Laws.Encodes.Statement (.mpop f) := ⟨rfl, rfl⟩
theorem Laws.Encodes.mff (f : KF) : Laws.Encodes.Statement (.mff f) := ⟨rfl, rfl⟩
theorem Laws.Encodes.v2s (f : KF) : Laws.Encodes.Statement (.v2s f) := ⟨rfl, rfl⟩
theorem Laws.Encodes.slide (f : KF) : Laws.Encodes.Statement (.slide f) := ⟨rfl, rfl⟩
theorem Laws.Encodes.mset (f : KF) : Laws.Encodes.Statement (.mset f) := ⟨rfl, rfl⟩
theorem Laws.Encodes.br (f : BF) : Laws.Encodes.Statement (.br f) := ⟨rfl, rfl⟩
theorem Laws.Encodes.brm (f : BF) : Laws.Encodes.Statement (.brm f) := ⟨rfl, rfl⟩
theorem Laws.Encodes.brs (f : BF) : Laws.Encodes.Statement (.brs f) := ⟨rfl, rfl⟩
theorem Laws.Encodes.rcv (f : BF) : Laws.Encodes.Statement (.rcv f) := ⟨rfl, rfl⟩
theorem Laws.Encodes.join (f : KF) : Laws.Encodes.Statement (.join f) := ⟨rfl, rfl⟩
theorem Laws.Encodes.call (f : BF) : Laws.Encodes.Statement (.call f) := ⟨rfl, rfl⟩
theorem Laws.Encodes.callxV (f : KF) : Laws.Encodes.Statement (.callxV f) := ⟨rfl, rfl⟩
theorem Laws.Encodes.callxS (f : KF) : Laws.Encodes.Statement (.callxS f) := ⟨rfl, rfl⟩
theorem Laws.Encodes.jmpxV (f : KF) : Laws.Encodes.Statement (.jmpxV f) := ⟨rfl, rfl⟩
theorem Laws.Encodes.jmpxS (f : KF) : Laws.Encodes.Statement (.jmpxS f) := ⟨rfl, rfl⟩
theorem Laws.Encodes.ret (f : KF) : Laws.Encodes.Statement (.ret f) := ⟨rfl, rfl⟩
theorem Laws.Encodes.exit (f : KF) : Laws.Encodes.Statement (.exit f) := ⟨rfl, rfl⟩
theorem Laws.Encodes.loop (f : BF) : Laws.Encodes.Statement (.loop f) := ⟨rfl, rfl⟩
theorem Laws.Encodes.nop (f : KF) : Laws.Encodes.Statement (.nop f) := ⟨rfl, rfl⟩
theorem Laws.Encodes.yield (f : KF) : Laws.Encodes.Statement (.yield f) := ⟨rfl, rfl⟩
theorem Laws.Encodes.prefi (f : BF) : Laws.Encodes.Statement (.prefi f) := ⟨rfl, rfl⟩
theorem Laws.Encodes.ifence (f : KF) : Laws.Encodes.Statement (.ifence f) := ⟨rfl, rfl⟩
theorem Laws.Encodes.ld (f : MF) : Laws.Encodes.Statement (.ld f) := ⟨rfl, rfl⟩
theorem Laws.Encodes.ldUniform (f : MF) : Laws.Encodes.Statement (.ldUniform f) := ⟨rfl, rfl⟩
theorem Laws.Encodes.st (f : MF) : Laws.Encodes.Statement (.st f) := ⟨rfl, rfl⟩
theorem Laws.Encodes.lda (f : MF) : Laws.Encodes.Statement (.lda f) := ⟨rfl, rfl⟩
theorem Laws.Encodes.stl (f : MF) : Laws.Encodes.Statement (.stl f) := ⟨rfl, rfl⟩
theorem Laws.Encodes.atom (f : MF) : Laws.Encodes.Statement (.atom f) := ⟨rfl, rfl⟩
theorem Laws.Encodes.cas (f : MF) : Laws.Encodes.Statement (.cas f) := ⟨rfl, rfl⟩
theorem Laws.Encodes.fence (f : MF) : Laws.Encodes.Statement (.fence f) := ⟨rfl, rfl⟩
theorem Laws.Encodes.pref (f : MF) : Laws.Encodes.Statement (.pref f) := ⟨rfl, rfl⟩
theorem Laws.Encodes.vlds (f : MF) : Laws.Encodes.Statement (.vlds f) := ⟨rfl, rfl⟩
theorem Laws.Encodes.vsts (f : MF) : Laws.Encodes.Statement (.vsts f) := ⟨rfl, rfl⟩
theorem Laws.Encodes.ldf (f : MF) : Laws.Encodes.Statement (.ldf f) := ⟨rfl, rfl⟩
theorem Laws.Encodes.stf (f : MF) : Laws.Encodes.Statement (.stf f) := ⟨rfl, rfl⟩
theorem Laws.Encodes.cmaint (f : MF) : Laws.Encodes.Statement (.cmaint f) := ⟨rfl, rfl⟩
theorem Laws.Encodes.cpy (f : KF) : Laws.Encodes.Statement (.cpy f) := ⟨rfl, rfl⟩
theorem Laws.Encodes.cpyt (f : KF) : Laws.Encodes.Statement (.cpyt f) := ⟨rfl, rfl⟩
theorem Laws.Encodes.cpyb (f : KF) : Laws.Encodes.Statement (.cpyb f) := ⟨rfl, rfl⟩
theorem Laws.Encodes.cpyw (f : KF) : Laws.Encodes.Statement (.cpyw f) := ⟨rfl, rfl⟩
theorem Laws.Encodes.bar (f : KF) : Laws.Encodes.Statement (.bar f) := ⟨rfl, rfl⟩
theorem Laws.Encodes.bara (f : KF) : Laws.Encodes.Statement (.bara f) := ⟨rfl, rfl⟩
theorem Laws.Encodes.barw (f : KF) : Laws.Encodes.Statement (.barw f) := ⟨rfl, rfl⟩
theorem Laws.Encodes.barx (f : KF) : Laws.Encodes.Statement (.barx f) := ⟨rfl, rfl⟩
theorem Laws.Encodes.qpush (f : KF) : Laws.Encodes.Statement (.qpush f) := ⟨rfl, rfl⟩
theorem Laws.Encodes.qpop (f : KF) : Laws.Encodes.Statement (.qpop f) := ⟨rfl, rfl⟩
theorem Laws.Encodes.qnotify (f : KF) : Laws.Encodes.Statement (.qnotify f) := ⟨rfl, rfl⟩
theorem Laws.Encodes.qbindTrig (f : KF) : Laws.Encodes.Statement (.qbindTrig f) := ⟨rfl, rfl⟩
theorem Laws.Encodes.qbindIn (f : KF) : Laws.Encodes.Statement (.qbindIn f) := ⟨rfl, rfl⟩
theorem Laws.Encodes.qbindOut (f : KF) : Laws.Encodes.Statement (.qbindOut f) := ⟨rfl, rfl⟩
theorem Laws.Encodes.qbindUnmap (f : KF) : Laws.Encodes.Statement (.qbindUnmap f) := ⟨rfl, rfl⟩
theorem Laws.Encodes.qstat (f : KF) : Laws.Encodes.Statement (.qstat f) := ⟨rfl, rfl⟩
theorem Laws.Encodes.freq (f : KF) : Laws.Encodes.Statement (.freq f) := ⟨rfl, rfl⟩
theorem Laws.Encodes.frel (f : KF) : Laws.Encodes.Statement (.frel f) := ⟨rfl, rfl⟩
theorem Laws.Encodes.fcfg (f : KF) : Laws.Encodes.Statement (.fcfg f) := ⟨rfl, rfl⟩
theorem Laws.Encodes.fsend (f : KF) : Laws.Encodes.Statement (.fsend f) := ⟨rfl, rfl⟩
theorem Laws.Encodes.frecv (f : KF) : Laws.Encodes.Statement (.frecv f) := ⟨rfl, rfl⟩
theorem Laws.Encodes.fdrain (f : KF) : Laws.Encodes.Statement (.fdrain f) := ⟨rfl, rfl⟩
theorem Laws.Encodes.fprio (f : KF) : Laws.Encodes.Statement (.fprio f) := ⟨rfl, rfl⟩
theorem Laws.Encodes.fstat (f : KF) : Laws.Encodes.Statement (.fstat f) := ⟨rfl, rfl⟩
theorem Laws.Encodes.fmodeDf (f : KF) : Laws.Encodes.Statement (.fmodeDf f) := ⟨rfl, rfl⟩
theorem Laws.Encodes.fmodeSys (f : KF) : Laws.Encodes.Statement (.fmodeSys f) := ⟨rfl, rfl⟩
theorem Laws.Encodes.mxw (f : KF) : Laws.Encodes.Statement (.mxw f) := ⟨rfl, rfl⟩
theorem Laws.Encodes.mxa (f : KF) : Laws.Encodes.Statement (.mxa f) := ⟨rfl, rfl⟩
theorem Laws.Encodes.mxc (f : KF) : Laws.Encodes.Statement (.mxc f) := ⟨rfl, rfl⟩
theorem Laws.Encodes.mxz (f : KF) : Laws.Encodes.Statement (.mxz f) := ⟨rfl, rfl⟩
theorem Laws.Encodes.mxsc (f : KF) : Laws.Encodes.Statement (.mxsc f) := ⟨rfl, rfl⟩
theorem Laws.Encodes.mxwait (f : KF) : Laws.Encodes.Statement (.mxwait f) := ⟨rfl, rfl⟩
theorem Laws.Encodes.eqp (f : KF) : Laws.Encodes.Statement (.eqp f) := ⟨rfl, rfl⟩
theorem Laws.Encodes.remount (f : KF) : Laws.Encodes.Statement (.remount f) := ⟨rfl, rfl⟩
theorem Laws.Encodes.remountClr (f : KF) : Laws.Encodes.Statement (.remountClr f) := ⟨rfl, rfl⟩
theorem Laws.Encodes.gaitr (f : KF) : Laws.Encodes.Statement (.gaitr f) := ⟨rfl, rfl⟩
theorem Laws.Encodes.pin (f : KF) : Laws.Encodes.Statement (.pin f) := ⟨rfl, rfl⟩
theorem Laws.Encodes.pinOff (f : KF) : Laws.Encodes.Statement (.pinOff f) := ⟨rfl, rfl⟩
theorem Laws.Encodes.trap (f : KF) : Laws.Encodes.Statement (.trap f) := ⟨rfl, rfl⟩
theorem Laws.Encodes.brk (f : KF) : Laws.Encodes.Statement (.brk f) := ⟨rfl, rfl⟩
theorem Laws.Encodes.ctlrd (f : KF) : Laws.Encodes.Statement (.ctlrd f) := ⟨rfl, rfl⟩
theorem Laws.Encodes.ctlwr (f : KF) : Laws.Encodes.Statement (.ctlwr f) := ⟨rfl, rfl⟩
theorem Laws.Encodes.cyc (f : KF) : Laws.Encodes.Statement (.cyc f) := ⟨rfl, rfl⟩
theorem Laws.Encodes.cycRow (f : KF) : Laws.Encodes.Statement (.cycRow f) := ⟨rfl, rfl⟩
theorem Laws.Encodes.launch (f : KF) : Laws.Encodes.Statement (.launch f) := ⟨rfl, rfl⟩
theorem Laws.Encodes.waitev (f : KF) : Laws.Encodes.Statement (.waitev f) := ⟨rfl, rfl⟩
theorem Laws.Encodes.sigev (f : KF) : Laws.Encodes.Statement (.sigev f) := ⟨rfl, rfl⟩
theorem Laws.Encodes.arithNodeFire (n : NAF) : Laws.Encodes.Statement (.arithNodeFire n) := ⟨rfl, rfl⟩
theorem Laws.Encodes.steer (n : NDF) : Laws.Encodes.Statement (.steer n) := ⟨rfl, rfl⟩
theorem Laws.Encodes.const (n : NDF) : Laws.Encodes.Statement (.const n) := ⟨rfl, rfl⟩
theorem Laws.Encodes.lenter (n : NDF) : Laws.Encodes.Statement (.lenter n) := ⟨rfl, rfl⟩
theorem Laws.Encodes.lnext (n : NDF) : Laws.Encodes.Statement (.lnext n) := ⟨rfl, rfl⟩
theorem Laws.Encodes.lexit (n : NDF) : Laws.Encodes.Statement (.lexit n) := ⟨rfl, rfl⟩
theorem Laws.Encodes.calln (n : NDF) : Laws.Encodes.Statement (.calln n) := ⟨rfl, rfl⟩
theorem Laws.Encodes.retn (n : NDF) : Laws.Encodes.Statement (.retn n) := ⟨rfl, rfl⟩
theorem Laws.Encodes.ixrd (n : NDF) : Laws.Encodes.Statement (.ixrd n) := ⟨rfl, rfl⟩
theorem Laws.Encodes.joinc (n : NDF) : Laws.Encodes.Statement (.joinc n) := ⟨rfl, rfl⟩
theorem Laws.Encodes.sink (n : NDF) : Laws.Encodes.Statement (.sink n) := ⟨rfl, rfl⟩
theorem Laws.Encodes.sendp (n : NDF) : Laws.Encodes.Statement (.sendp n) := ⟨rfl, rfl⟩
theorem Laws.Encodes.eqpn (n : NDF) : Laws.Encodes.Statement (.eqpn n) := ⟨rfl, rfl⟩
theorem Laws.Encodes.fend (n : NDF) : Laws.Encodes.Statement (.fend n) := ⟨rfl, rfl⟩
theorem Laws.Encodes.errt (n : NDF) : Laws.Encodes.Statement (.errt n) := ⟨rfl, rfl⟩
theorem Laws.Encodes.gate (n : NDF) : Laws.Encodes.Statement (.gate n) := ⟨rfl, rfl⟩
theorem Laws.Encodes.cld (n : NMF) : Laws.Encodes.Statement (.cld n) := ⟨rfl, rfl⟩
theorem Laws.Encodes.cst (n : NMF) : Laws.Encodes.Statement (.cst n) := ⟨rfl, rfl⟩
theorem Laws.Encodes.catom (n : NMF) : Laws.Encodes.Statement (.catom n) := ⟨rfl, rfl⟩
theorem Laws.Encodes.mnop (n : NMF) : Laws.Encodes.Statement (.mnop n) := ⟨rfl, rfl⟩
theorem Laws.Encodes.fld (n : NMF) : Laws.Encodes.Statement (.fld n) := ⟨rfl, rfl⟩
theorem Laws.Encodes.fst (n : NMF) : Laws.Encodes.Statement (.fst n) := ⟨rfl, rfl⟩
theorem Laws.Encodes.cfence (n : NMF) : Laws.Encodes.Statement (.cfence n) := ⟨rfl, rfl⟩
theorem Laws.Encodes.mcld (n : NCF) : Laws.Encodes.Statement (.mcld n) := ⟨rfl, rfl⟩
theorem Laws.Encodes.mcst (n : NCF) : Laws.Encodes.Statement (.mcst n) := ⟨rfl, rfl⟩
theorem Laws.Encodes.mcenq (n : NCF) : Laws.Encodes.Statement (.mcenq n) := ⟨rfl, rfl⟩
theorem Laws.Encodes.mcdeq (n : NCF) : Laws.Encodes.Statement (.mcdeq n) := ⟨rfl, rfl⟩
theorem Laws.Encodes.agen (n : NCF) : Laws.Encodes.Statement (.agen n) := ⟨rfl, rfl⟩
theorem Laws.Encodes.mxj (n : NCF) : Laws.Encodes.Statement (.mxj n) := ⟨rfl, rfl⟩
theorem Laws.Encodes.mxout (n : NCF) : Laws.Encodes.Statement (.mxout n) := ⟨rfl, rfl⟩
theorem Laws.Encodes.tokenArrive (c : CrewId) (k : Nat) : Laws.Encodes.Statement (.tokenArrive c k) := ⟨rfl, rfl⟩
theorem Laws.Encodes.frameEntry (c : CrewId) (k : Nat) : Laws.Encodes.Statement (.frameEntry c k) := ⟨rfl, rfl⟩
theorem Laws.Encodes.frameRefill (c : CrewId) (place cell frame : Nat) : Laws.Encodes.Statement (.frameRefill c place cell frame) := ⟨rfl, rfl⟩
theorem Laws.Encodes.nodeChoose (cluster bay cell : Nat) : Laws.Encodes.Statement (.nodeChoose cluster bay cell) := ⟨rfl, rfl⟩
theorem Laws.Encodes.weirArrive (c : CrewId) (k : Nat) : Laws.Encodes.Statement (.weirArrive c k) := ⟨rfl, rfl⟩
theorem Laws.Encodes.weirRelease (c : CrewId) (paddock : Nat) : Laws.Encodes.Statement (.weirRelease c paddock) := ⟨rfl, rfl⟩
theorem Laws.Encodes.roundCommit (c : CrewId) (k : Nat) : Laws.Encodes.Statement (.roundCommit c k) := ⟨rfl, rfl⟩
theorem Laws.Encodes.paddockQuiescent (c : CrewId) (paddock : Nat) : Laws.Encodes.Statement (.paddockQuiescent c paddock) := ⟨rfl, rfl⟩
theorem Laws.Encodes.preciseStop (asid : Nat) : Laws.Encodes.Statement (.preciseStop asid) := ⟨rfl, rfl⟩
theorem Laws.Encodes.resultDeliver (c : CrewId) (k : Nat) : Laws.Encodes.Statement (.resultDeliver c k) := ⟨rfl, rfl⟩
theorem Laws.Encodes.cellPass (c : CrewId) (place cell : Nat) : Laws.Encodes.Statement (.cellPass c place cell) := ⟨rfl, rfl⟩
theorem Laws.Encodes.fabricOpComplete (w : WaveId) : Laws.Encodes.Statement (.fabricOpComplete w) := ⟨rfl, rfl⟩
theorem Laws.Encodes.paddockLoadComplete (c : CrewId) (place : Nat) : Laws.Encodes.Statement (.paddockLoadComplete c place) := ⟨rfl, rfl⟩
theorem Laws.Encodes.paddockSwapOut (c : CrewId) (place : Nat) : Laws.Encodes.Statement (.paddockSwapOut c place) := ⟨rfl, rfl⟩
theorem Laws.Encodes.paddockResume (c : CrewId) (paddock slice bay : Nat) : Laws.Encodes.Statement (.paddockResume c paddock slice bay) := ⟨rfl, rfl⟩
theorem Laws.Encodes.bridleWindowEnd (c : CrewId) (place : Nat) : Laws.Encodes.Statement (.bridleWindowEnd c place) := ⟨rfl, rfl⟩
theorem Laws.Encodes.generatorStep (c : CrewId) (place mc gen : Nat) : Laws.Encodes.Statement (.generatorStep c place mc gen) := ⟨rfl, rfl⟩
theorem Laws.Encodes.generatorDone (c : CrewId) (place mc gen : Nat) : Laws.Encodes.Statement (.generatorDone c place mc gen) := ⟨rfl, rfl⟩
theorem Laws.Encodes.weightEventApply (c : CrewId) (k : Nat) : Laws.Encodes.Statement (.weightEventApply c k) := ⟨rfl, rfl⟩
theorem Laws.Encodes.columnHeadRead (c : CrewId) (k : Nat) : Laws.Encodes.Statement (.columnHeadRead c k) := ⟨rfl, rfl⟩
theorem Laws.Encodes.passComplete (c : CrewId) (k : Nat) : Laws.Encodes.Statement (.passComplete c k) := ⟨rfl, rfl⟩
theorem Laws.Encodes.copyUnitLand (cluster k unit : Nat) : Laws.Encodes.Statement (.copyUnitLand cluster k unit) := ⟨rfl, rfl⟩
theorem Laws.Encodes.copyPark (cluster k : Nat) : Laws.Encodes.Statement (.copyPark cluster k) := ⟨rfl, rfl⟩
theorem Laws.Encodes.triggerConsume (cluster queue : Nat) : Laws.Encodes.Statement (.triggerConsume cluster queue) := ⟨rfl, rfl⟩
theorem Laws.Encodes.memoryAccessResponse (cluster k : Nat) : Laws.Encodes.Statement (.memoryAccessResponse cluster k) := ⟨rfl, rfl⟩
theorem Laws.Encodes.pageWalk (cluster asid vpn : Nat) (store : Bool) : Laws.Encodes.Statement (.pageWalk cluster asid vpn store) := ⟨rfl, rfl⟩
theorem Laws.Encodes.instructionFetch (cluster asid line : Nat) : Laws.Encodes.Statement (.instructionFetch cluster asid line) := ⟨rfl, rfl⟩
theorem Laws.Encodes.remoteTimeout (w : WaveId) : Laws.Encodes.Statement (.remoteTimeout w) := ⟨rfl, rfl⟩
theorem Laws.Encodes.invalidationBroadcast (asid : Nat) (va : BitVec 64) : Laws.Encodes.Statement (.invalidationBroadcast asid va) := ⟨rfl, rfl⟩
theorem Laws.Encodes.launchPrereqRead (launch : Nat) : Laws.Encodes.Statement (.launchPrereqRead launch) := ⟨rfl, rfl⟩
theorem Laws.Encodes.crewPlacement (p : Placement) : Laws.Encodes.Statement (.crewPlacement p) := ⟨rfl, rfl⟩
theorem Laws.Encodes.argumentBlockRead (launch : Nat) : Laws.Encodes.Statement (.argumentBlockRead launch) := ⟨rfl, rfl⟩
theorem Laws.Encodes.agingPeriod (launch : Nat) : Laws.Encodes.Statement (.agingPeriod launch) := ⟨rfl, rfl⟩
theorem Laws.Encodes.crewRetire (c : CrewId) : Laws.Encodes.Statement (.crewRetire c) := ⟨rfl, rfl⟩
theorem Laws.Encodes.resume (asid : Nat) (seq : BitVec 32) : Laws.Encodes.Statement (.resume asid seq) := ⟨rfl, rfl⟩
theorem Laws.Encodes.stop (asid : Nat) (seq : BitVec 32) : Laws.Encodes.Statement (.stop asid seq) := ⟨rfl, rfl⟩
theorem Laws.Encodes.preemptRequest (asid : Nat) (value : Dword) : Laws.Encodes.Statement (.preemptRequest asid value) := ⟨rfl, rfl⟩
theorem Laws.Encodes.sliceTimerExpiry (c : CrewId) : Laws.Encodes.Statement (.sliceTimerExpiry c) := ⟨rfl, rfl⟩
theorem Laws.Encodes.crewSave (c : CrewId) : Laws.Encodes.Statement (.crewSave c) := ⟨rfl, rfl⟩
theorem Laws.Encodes.crewRestore (c : CrewId) : Laws.Encodes.Statement (.crewRestore c) := ⟨rfl, rfl⟩
theorem Laws.Encodes.halt (asid : Nat) : Laws.Encodes.Statement (.halt asid) := ⟨rfl, rfl⟩
theorem Laws.Encodes.resumeGangs (asid : Nat) : Laws.Encodes.Statement (.resumeGangs asid) := ⟨rfl, rfl⟩
theorem Laws.Encodes.gangResume (c : CrewId) (gang : Nat) (form : Option (BitVec 2)) : Laws.Encodes.Statement (.gangResume c gang form) := ⟨rfl, rfl⟩
theorem Laws.Encodes.gateRequest (cluster : Nat) : Laws.Encodes.Statement (.gateRequest cluster) := ⟨rfl, rfl⟩
theorem Laws.Encodes.gateCommit (cluster : Nat) : Laws.Encodes.Statement (.gateCommit cluster) := ⟨rfl, rfl⟩
theorem Laws.Encodes.gateWake (cluster : Nat) : Laws.Encodes.Statement (.gateWake cluster) := ⟨rfl, rfl⟩
theorem Laws.Encodes.powerWindow (milliwatts : Nat) : Laws.Encodes.Statement (.powerWindow milliwatts) := ⟨rfl, rfl⟩
theorem Laws.Encodes.curbEngage (alarms : BitVec 3) : Laws.Encodes.Statement (.curbEngage alarms) := ⟨rfl, rfl⟩
theorem Laws.Encodes.curbLift : Laws.Encodes.Statement (.curbLift) := ⟨rfl, rfl⟩
theorem Laws.Encodes.update (ostler : Nat) (verified : Bool) : Laws.Encodes.Statement (.update ostler verified) := ⟨rfl, rfl⟩
theorem Laws.Encodes.retireCluster (cluster : Nat) : Laws.Encodes.Statement (.retireCluster cluster) := ⟨rfl, rfl⟩
theorem Laws.Encodes.retireChannel (channel : Nat) (room : Bool) : Laws.Encodes.Statement (.retireChannel channel room) := ⟨rfl, rfl⟩
theorem Laws.Encodes.retrain (port : Nat) : Laws.Encodes.Statement (.retrain port) := ⟨rfl, rfl⟩
theorem Laws.Encodes.recal (target : Nat) : Laws.Encodes.Statement (.recal target) := ⟨rfl, rfl⟩
theorem Laws.Encodes.serviceComplete : Laws.Encodes.Statement (.serviceComplete) := ⟨rfl, rfl⟩
theorem Laws.Encodes.keyInstall (index : BitVec 12) : Laws.Encodes.Statement (.keyInstall index) := ⟨rfl, rfl⟩
theorem Laws.Encodes.hostLaunch (conn : Conn) (h : Header) (payload : List Dword) : Laws.Encodes.Statement (.hostLaunch conn h payload) := ⟨rfl, rfl⟩
theorem Laws.Encodes.subscribe (conn : Conn) (h : Header) (payload : List Dword) : Laws.Encodes.Statement (.subscribe conn h payload) := ⟨rfl, rfl⟩
theorem Laws.Encodes.hostStop (conn : Conn) (h : Header) (payload : List Dword) : Laws.Encodes.Statement (.hostStop conn h payload) := ⟨rfl, rfl⟩
theorem Laws.Encodes.release (conn : Conn) (h : Header) (payload : List Dword) : Laws.Encodes.Statement (.release conn h payload) := ⟨rfl, rfl⟩
theorem Laws.Encodes.atomic (conn : Conn) (h : Header) (payload : List Dword) : Laws.Encodes.Statement (.atomic conn h payload) := ⟨rfl, rfl⟩
theorem Laws.Encodes.event (k : Nat) : Laws.Encodes.Statement (.event k) := ⟨rfl, rfl⟩
theorem Laws.Encodes.rmaWrite (conn : Conn) (addr : BitVec 64) (data : List Byte) : Laws.Encodes.Statement (.rmaWrite conn addr data) := ⟨rfl, rfl⟩
theorem Laws.Encodes.rmaRead (conn : Conn) (addr : BitVec 64) (n : Nat) : Laws.Encodes.Statement (.rmaRead conn addr n) := ⟨rfl, rfl⟩
theorem Laws.Encodes.powerOnBoot (failing : Option (BitVec 8)) : Laws.Encodes.Statement (.powerOnBoot failing) := ⟨rfl, rfl⟩
theorem Laws.Encodes.registerWrite (offset : Nat) (value : Dword) : Laws.Encodes.Statement (.registerWrite offset value) := ⟨rfl, rfl⟩
theorem Laws.Encodes.packetDrop (port : Nat) : Laws.Encodes.Statement (.packetDrop port) := ⟨rfl, rfl⟩
theorem Laws.Encodes.unknownCommand (conn : Conn) (h : Header) : Laws.Encodes.Statement (.unknownCommand conn h) := ⟨rfl, rfl⟩
theorem Laws.Encodes.connectionClose (conn : Conn) : Laws.Encodes.Statement (.connectionClose conn) := ⟨rfl, rfl⟩
theorem Laws.Encodes.ostlerAccess (op : OstlerOp) : Laws.Encodes.Statement (.ostlerAccess op) := ⟨rfl, rfl⟩
theorem Laws.Encodes.curbAlarmClear (alarms : BitVec 3) : Laws.Encodes.Statement (.curbAlarmClear alarms) := ⟨rfl, rfl⟩
theorem Laws.Encodes.clusterWake (cluster : Nat) : Laws.Encodes.Statement (.clusterWake cluster) := ⟨rfl, rfl⟩

end Sys2Proof
end

