-- ==== Sys2Proof/Tests/Slice0.lean ====
section
/-! SUPPORT. Tests: ill-formed terms that the checks refuse, words whose decoding the spec's encodings give, a few results
on small states, and for every statement with hypotheses a state and operands that meet them. -/

open Sys2Proof Sys2Proof.Machine Sys2Proof.Claims

namespace Sys2Proof.Tests

/-! ### What a witness shows -/

/-- Whether the wave in focus may run `i`, and its context passes a test. -/
def runsWith (i : Instr) (s : State) (p : Ctx → Bool) : Bool :=
  match s.focus with
  | .wave w => match ctx? s w with
    | some k => k.w == w && k.issues && k.legal i && !recvPending k s (k.awaits i)
        && !fopPending k (k.awaits i) && !(storeLike i && s.fenceHolds k.cluster k.w k.wv) && (mappedIn k.wv (dataUse k.wide i).1 false).isEmpty
        && (mappedIn k.wv (dataUse k.wide i).2 true).isEmpty && p k
    | none => false
  | _ => false

theorem runs (i : Instr) (s : State) (P : Ctx → Prop) [DecidablePred P] (h : runsWith i s (fun k => decide (P k)) = true) :
    ∃ k, MayRun i s k ∧ P k := by
  unfold runsWith at h
  split at h
  · rename_i w hf
    split at h
    · rename_i k hk
      simp only [Bool.and_eq_true, beq_iff_eq, Bool.not_eq_true', List.isEmpty_iff, decide_eq_true_eq] at h
      obtain ⟨⟨⟨⟨⟨⟨⟨⟨rfl, h1⟩, h2⟩, h3⟩, h4⟩, h5⟩, h6⟩, h7⟩, h8⟩ := h
      exact ⟨k, ⟨hf, hk, h1, h2, h3, h4, h5, h6, h7⟩, h8⟩
    · cases h
  · cases h

/-- Whether the firing in focus may go on, and its context passes a test. -/
def firesWith (s : State) (p : NCtx → Bool) : Bool :=
  match s.focus with
  | .node f => match nctx? s f with
    | some k => k.c == f.crew && k.i == f.place && k.rd == f.ready && !k.fr.ending && p k
    | none => false
  | _ => false

theorem fires (s : State) (P : NCtx → Prop) [DecidablePred P] (h : firesWith s (fun k => decide (P k)) = true) :
    ∃ k, MayFire s k ∧ P k := by
  unfold firesWith at h
  split at h
  · rename_i f hf
    split at h
    · rename_i k hk
      simp only [Bool.and_eq_true, beq_iff_eq, Bool.not_eq_true', decide_eq_true_eq] at h
      obtain ⟨⟨⟨⟨h1, h2⟩, h3⟩, h4⟩, h5⟩ := h
      obtain ⟨c, i, r⟩ := f
      subst h1 h2 h3
      exact ⟨k, ⟨hf, hk, h4⟩, h5⟩
    · cases h
  · cases h

/-! ### Small states -/

/-- The state after reset in which the next step runs the word `w`, a core word. -/
def threadedAt (w : BitVec 64) : State := State.reset.withFetchWord 64 w.toNat

def withLaunch (s : State) (f : Launch → Launch) : State :=
  match s.launch? 0 with
  | some l => s.setLaunch 0 (f l)
  | none => s
def withKernel (s : State) (f : Kernel → Kernel) : State := withLaunch s (fun l => { l with kernel := l.kernel.map f })
def withCrew (s : State) (f : Crew → Crew) : State := s.modCrew probeCrew f
def withGang (s : State) (f : Gang → Gang) : State := s.modGang ⟨probeCrew, 0⟩ f
def withWave (s : State) (f : Wave → Wave) : State := s.modWave ⟨probeCrew, 0, 0⟩ f

/-- As `threadedAt`, with the gang in vector form. -/
def vectorAt (w : BitVec 64) : State :=
  withKernel (withGang (threadedAt w) (fun g => { g with form := 1, intForm := 1 })) (fun n => { n with forms := 3, vLen := 16 })

/-- The state in which a node word fires. -/
def nodeAt (w : BitVec 64) : State :=
  { threadedAt w with focus := .node ⟨probeCrew, 0, (⟨0, 0, 0, 0, 0, false, 0, false, false, none⟩ : Ready)⟩ }

def wave0 : WaveId := ⟨probeCrew, 0, 0⟩
def gang0 : GangId := ⟨probeCrew, 0⟩

def at_ (i : Instr) : State := threadedAt ((encode i).getD 0)
def vecAt (i : Instr) : State := vectorAt ((encode i).getD 0)
def nodAt (i : Instr) : State := nodeAt ((encode i).getD 0)

/-- Page tables of address space 0 that map page 0 to physical address 0x40000. -/
def paged (s : State) : State :=
  { s.modAsid 0 (fun a => { a with ptroot := 0x10000 }) with
    mem := [(0x10000, 1), (0x10002, 2), (0x20000, 1), (0x20002, 3), (0x30000, 0x6D), (0x30001, 0x10), (0x30002, 4)] }

/-! ### Words -/

/-- Words of class 0, arithmetic (R91), written from their layout, and what they stand for. -/
def intWords : List (BitVec 64 × Instr) :=
  [(0x0001003010000005, .add ⟨0, 0, false, 3, 1, .imm 5, 0, 0⟩),
   (0x001100303FF00FFD, .sub ⟨0, 0, false, 3, 3, .imm 1048573, 0, 0⟩),
   (0x0005005050080008, .add ⟨1, 0, false, 5, 5, .imm 8, 128, 0⟩),
   (0x0020004000210000, .addc ⟨0, 0, false, 4, 0, .v 2, 16, 0⟩),
   (0x0030005010329000, .subb ⟨0, 0, false, 5, 1, .v 3, 41, 0⟩),
   (0x0040003010200000, .mullo ⟨0, 0, false, 3, 1, .v 2, 0, 0⟩),
   (0x0050003010200000, .mulhi ⟨0, 0, false, 3, 1, .v 2, 0, 0⟩),
   (0x0060003010200000, .mulhn ⟨0, 0, false, 3, 1, .v 2, 0, 0⟩),
   (0x0070003010204000, .mad ⟨0, 0, false, 3, 1, .v 2, 4, 0⟩),
   (0x0086004020600000, .div ⟨1, 0, false, 4, 2, .s 6, 0, 0⟩),
   (0x0096004020600000, .divn ⟨1, 0, false, 4, 2, .s 6, 0, 0⟩),
   (0x00A6004020600000, .rem ⟨1, 0, false, 4, 2, .s 6, 0, 0⟩),
   (0x00B6004020600000, .remn ⟨1, 0, false, 4, 2, .s 6, 0, 0⟩),
   (0x00C8003010200000, .min ⟨2, 0, false, 3, 1, .v 2, 0, 0⟩),
   (0x00D8003010200000, .max ⟨2, 0, false, 3, 1, .v 2, 0, 0⟩),
   (0x00E8003010200000, .minn ⟨2, 0, false, 3, 1, .v 2, 0, 0⟩),
   (0x00F8003010200000, .maxn ⟨2, 0, false, 3, 1, .v 2, 0, 0⟩),
   (0x010C003010000000, .abs ⟨3, 0, false, 3, 1, .v 0, 0, 0⟩),
   (0x0110003010000000, .neg ⟨0, 0, false, 3, 1, .v 0, 0, 0⟩),
   (0x026D003030001020, .adds ⟨3, 0, false, 3, 3, .imm 32, 1, 0⟩),
   (0x0270003010200000, .subs ⟨0, 0, false, 3, 1, .v 2, 0, 0⟩),
   (0x0280003010205002, .dot4 ⟨0, 0, false, 3, 1, .v 2, 5, 2⟩)]

theorem test_decode_intWords : ∀ p ∈ intWords, Decode.core p.1 = .ok p.2 := by decide

/-- Words of class 0, bits and moves (R91), written from their layout, and what they stand for. -/
def bitWords : List (BitVec 64 × Instr) :=
  [(0x0120503010200000, .and ⟨0, 2, true, 3, 1, .v 2, 0, 0⟩),
   (0x0130503010200000, .or ⟨0, 2, true, 3, 1, .v 2, 0, 0⟩),
   (0x0140503010200000, .xor ⟨0, 2, true, 3, 1, .v 2, 0, 0⟩),
   (0x0150503010200000, .andn ⟨0, 2, true, 3, 1, .v 2, 0, 0⟩),
   (0x0160003010000000, .not ⟨0, 0, false, 3, 1, .v 0, 0, 0⟩),
   (0x0170003010200000, .shl ⟨0, 0, false, 3, 1, .v 2, 0, 0⟩),
   (0x0180003010200000, .shr ⟨0, 0, false, 3, 1, .v 2, 0, 0⟩),
   (0x0190003010200000, .sar ⟨0, 0, false, 3, 1, .v 2, 0, 0⟩),
   (0x01A0003010200000, .rol ⟨0, 0, false, 3, 1, .v 2, 0, 0⟩),
   (0x01B0003010000000, .clz ⟨0, 0, false, 3, 1, .v 0, 0, 0⟩),
   (0x01C0003010000000, .popc ⟨0, 0, false, 3, 1, .v 0, 0, 0⟩),
   (0x01D0003010000000, .brev ⟨0, 0, false, 3, 1, .v 0, 0, 0⟩),
   (0x01E1003010001408, .bfx ⟨0, 0, false, 3, 1, .imm 1032, 1, 0⟩),
   (0x01F0003010200000, .bfi ⟨0, 0, false, 3, 1, .v 2, 0, 0⟩),
   (0x0200004040102000, .lea ⟨0, 0, false, 4, 4, .v 1, 2, 0⟩),
   (0x0210003010201000, .sel ⟨0, 0, false, 3, 1, .v 2, 1, 0⟩),
   (0x022100102000200A, .cmp ⟨0, 0, false, 1, 2, .imm 10, 2, 0⟩),
   (0x0230003000200000, .mov ⟨0, 0, false, 3, 0, .v 2, 0, 0⟩),
   (0x0240004000002000, .movi ⟨0, false, 4, 8192⟩),
   (0x0240004100000200, .moviHi ⟨0, false, 4, 512⟩),
   (0x02400062FFFFFFFE, .moviPair ⟨0, false, 6, 4294967294⟩),
   (0x0250001000400000, .movsv ⟨0, 0, false, 1, 0, .v 4, 0, 0⟩)]

theorem test_decode_bitWords : ∀ p ∈ bitWords, Decode.core p.1 = .ok p.2 := by decide

/-- Words of class 1 (R113), written from their layout, and what they stand for. -/
def floatWords : List (BitVec 64 × Instr) :=
  [(0x1000003010200020, .fadd ⟨0, 0, false, 3, 1, .v 2, 0, 32⟩),
   (0x1010003010200020, .fsub ⟨0, 0, false, 3, 1, .v 2, 0, 32⟩),
   (0x1020003010200020, .fmul ⟨0, 0, false, 3, 1, .v 2, 0, 32⟩),
   (0x1030004010203031, .fma ⟨0, 0, false, 4, 1, .v 2, 3, 49⟩),
   (0x1040003010200008, .fmin ⟨0, 0, false, 3, 1, .v 2, 0, 8⟩),
   (0x1050003010200008, .fmax ⟨0, 0, false, 3, 1, .v 2, 0, 8⟩),
   (0x1060001010202000, .fcmp ⟨0, 0, false, 1, 1, .v 2, 2, 0⟩),
   (0x1070003010200000, .fdiv ⟨0, 0, false, 3, 1, .v 2, 0, 0⟩),
   (0x1080003010000005, .fsqrt ⟨0, 0, false, 3, 1, .v 0, 0, 5⟩),
   (0x1090003010000005, .frcp ⟨0, 0, false, 3, 1, .v 0, 0, 5⟩),
   (0x10A0003010000005, .frsq ⟨0, 0, false, 3, 1, .v 0, 0, 5⟩),
   (0x10B0003010000005, .fex2 ⟨0, 0, false, 3, 1, .v 0, 0, 5⟩),
   (0x10C0003010000005, .flg2 ⟨0, 0, false, 3, 1, .v 0, 0, 5⟩),
   (0x10D0003010000000, .fclass ⟨0, 0, false, 3, 1, .v 0, 0, 0⟩),
   (0x10E0004010003050, .fcvti ⟨0, 0, false, 4, 1, .v 0, 3, 80⟩),
   (0x10F4004010000000, .icvtf ⟨1, 0, false, 4, 1, .v 0, 0, 0⟩),
   (0x1104004060000000, .fcvtw ⟨1, 0, false, 4, 6, .v 0, 0, 0⟩),
   (0x1110003010001000, .frnd ⟨0, 0, false, 3, 1, .v 0, 1, 0⟩),
   (0x1121003010000003, .fscl ⟨0, 0, false, 3, 1, .imm 3, 0, 0⟩)]

theorem test_decode_floatWords : ∀ p ∈ floatWords, Decode.core p.1 = .ok p.2 := by decide

/-- Words of class 2 (R136), written from their layout, and what they stand for. -/
def formatWords : List (BitVec 64 × Instr) :=
  [(0x2000000030009000, .fmtw ⟨0, 0, false, 0, 3, .v 0, 9, 0⟩),
   (0x2010003000009000, .fmtr ⟨0, 0, false, 3, 0, .v 0, 9, 0⟩),
   (0x2020004020004040, .cvt ⟨0, 0, false, 4, 2, .v 0, 4, 64⟩),
   (0x2030004020308000, .sclq ⟨0, 0, false, 4, 2, .v 3, 8, 0⟩),
   (0x2042004020300008, .scld ⟨0, 0, false, 4, 2, .s 3, 0, 8⟩),
   (0x2050004020008000, .bscl ⟨0, 0, false, 4, 2, .v 0, 8, 0⟩),
   (0x2060004020305008, .ndot ⟨0, 0, false, 4, 2, .v 3, 5, 8⟩),
   (0x2070006000009002, .fmtq ⟨0, 0, false, 6, 0, .v 0, 9, 2⟩)]

theorem test_decode_formatWords : ∀ p ∈ formatWords, Decode.core p.1 = .ok p.2 := by decide

/-- Words of class 3 (R155), written from their layout, and what they stand for. -/
def laneWords : List (BitVec 64 × Instr) :=
  [(0x3000003010200000, .shfl ⟨0, 0, false, 3, 1, .v 2, 0, 0⟩),
   (0x3011003010000001, .shflup ⟨0, 0, false, 3, 1, .imm 1, 0, 0⟩),
   (0x3020003010200000, .shfldn ⟨0, 0, false, 3, 1, .v 2, 0, 0⟩),
   (0x3030003010200800, .shflx ⟨0, 0, false, 3, 1, .v 2, 0, 2048⟩),
   (0x3042003010200000, .bcast ⟨0, 0, false, 3, 1, .s 2, 0, 0⟩),
   (0x3050006010000000, .ballot ⟨0, 0, false, 6, 1, .v 0, 0, 0⟩),
   (0x3060002010001000, .vote ⟨0, 0, false, 2, 1, .v 0, 1, 0⟩),
   (0x3070006020000008, .red ⟨0, 0, false, 6, 2, .v 0, 0, 8⟩),
   (0x3080006020000100, .scan ⟨0, 0, false, 6, 2, .v 0, 0, 256⟩),
   (0x3090002010001000, .cmpr ⟨0, 0, false, 2, 1, .v 0, 1, 0⟩),
   (0x30A0202010000000, .expd ⟨0, 1, false, 2, 1, .v 0, 0, 0⟩),
   (0x30B1002000000007, .iota ⟨0, 0, false, 2, 0, .imm 7, 0, 0⟩),
   (0x30E0003010202000, .msk ⟨0, 0, false, 3, 1, .v 2, 2, 0⟩),
   (0x30F0005010000000, .mpop ⟨0, 0, false, 5, 1, .v 0, 0, 0⟩),
   (0x3100005010000000, .mff ⟨0, 0, false, 5, 1, .v 0, 0, 0⟩),
   (0x3111005010000000, .v2s ⟨0, 0, false, 5, 1, .imm 0, 0, 0⟩),
   (0x3121003010002001, .slide ⟨0, 0, false, 3, 1, .imm 1, 2, 0⟩),
   (0x3132001000600000, .mset ⟨0, 0, false, 1, 0, .s 6, 0, 0⟩)]

theorem test_decode_laneWords : ∀ p ∈ laneWords, Decode.core p.1 = .ok p.2 := by decide

/-- Words of class 4 (R167), written from their layout, and what they stand for. -/
def flowWords : List (BitVec 64 × Instr) :=
  [(0x4000000000000002, .br ⟨0, false, 0, 0, 2⟩),
   (0x4010200000000005, .brm ⟨1, false, 0, 0, 5⟩),
   (0x4020002200000003, .brs ⟨0, false, 2, 2, 3⟩),
   (0x4030000000000005, .rcv ⟨0, false, 0, 0, 5⟩),
   (0x4040000000000000, .join ⟨0, 0, false, 0, 0, .v 0, 0, 0⟩),
   (0x40500000FFFFFFFF, .call ⟨0, false, 0, 0, 4294967295⟩),
   (0x4060000030000000, .callxV ⟨0, 0, false, 0, 3, .v 0, 0, 0⟩),
   (0x4062000000900000, .callxS ⟨0, 0, false, 0, 0, .s 9, 0, 0⟩),
   (0x4070000030000000, .jmpxV ⟨0, 0, false, 0, 3, .v 0, 0, 0⟩),
   (0x4072000000900000, .jmpxS ⟨0, 0, false, 0, 0, .s 9, 0, 0⟩),
   (0x4080000000000000, .ret ⟨0, 0, false, 0, 0, .v 0, 0, 0⟩),
   (0x4090000000000000, .exit ⟨0, 0, false, 0, 0, .v 0, 0, 0⟩),
   (0x40A00052FFFFFFFE, .loop ⟨0, false, 5, 2, 4294967294⟩),
   (0x40B0000000000000, .nop ⟨0, 0, false, 0, 0, .v 0, 0, 0⟩),
   (0x40C0000000000000, .yield ⟨0, 0, false, 0, 0, .v 0, 0, 0⟩),
   (0x40D0000000000008, .prefi ⟨0, false, 0, 0, 8⟩),
   (0x40E0000000000000, .ifence ⟨0, 0, false, 0, 0, .v 0, 0, 0⟩)]

theorem test_decode_flowWords : ∀ p ∈ flowWords, Decode.core p.1 = .ok p.2 := by decide

/-- Words of class 5 (R216), written from their layout, and what they stand for. -/
def memoryWords : List (BitVec 64 × Instr) :=
  [(0x5003505040240010, .ld ⟨true, true, 2, true, 5, 4, 2, 2, false, 0, 0, 16⟩),
   (0x5002005040160000, .ldUniform ⟨true, false, 0, false, 5, 4, 1, 3, false, 0, 0, 0⟩),
   (0x5010002060040000, .st ⟨false, false, 0, false, 2, 6, 0, 2, false, 0, 0, 0⟩),
   (0x5022003040041000, .lda ⟨true, false, 0, false, 3, 4, 0, 2, false, 0, 1, 0⟩),
   (0x5032005050041000, .stl ⟨true, false, 0, false, 5, 5, 0, 2, false, 0, 1, 0⟩),
   (0x5042006080261000, .atom ⟨true, false, 0, false, 6, 8, 2, 3, false, 0, 1, 0⟩),
   (0x5052006080342000, .cas ⟨true, false, 0, false, 6, 8, 3, 2, false, 0, 2, 0⟩),
   (0x5060000000001002, .fence ⟨false, false, 0, false, 0, 0, 0, 0, false, 0, 1, 2⟩),
   (0x5072000040041000, .pref ⟨true, false, 0, false, 0, 4, 0, 2, false, 0, 1, 0⟩),
   (0x5082003040630000, .vlds ⟨true, false, 0, false, 3, 4, 6, 1, true, 0, 0, 0⟩),
   (0x5092003040640000, .vsts ⟨true, false, 0, false, 3, 4, 6, 2, false, 0, 0, 0⟩),
   (0x50A2003040920000, .ldf ⟨true, false, 0, false, 3, 4, 9, 1, false, 0, 0, 0⟩),
   (0x50B2003040900000, .stf ⟨true, false, 0, false, 3, 4, 9, 0, false, 0, 0, 0⟩),
   (0x50C2000040042000, .cmaint ⟨true, false, 0, false, 0, 4, 0, 2, false, 0, 2, 0⟩)]

theorem test_decode_memoryWords : ∀ p ∈ memoryWords, Decode.core p.1 = .ok p.2 := by decide

/-- Words of class 6 (R236, R248), written from their layout, and what they stand for. -/
def syncWords : List (BitVec 64 × Instr) :=
  [(0x6001004050000080, .cpy ⟨0, 0, false, 4, 5, .imm 128, 0, 0⟩),
   (0x6012004050607000, .cpyt ⟨0, 0, false, 4, 5, .s 6, 7, 0⟩),
   (0x6020005000000000, .cpyb ⟨0, 0, false, 5, 0, .v 0, 0, 0⟩),
   (0x6032000000500000, .cpyw ⟨0, 0, false, 0, 0, .s 5, 0, 0⟩),
   (0x6040000000000000, .bar ⟨0, 0, false, 0, 0, .v 0, 0, 0⟩),
   (0x6050004050000000, .bara ⟨0, 0, false, 4, 5, .v 0, 0, 0⟩),
   (0x6061000050000001, .barw ⟨0, 0, false, 0, 5, .imm 1, 0, 0⟩),
   (0x6072004050600000, .barx ⟨0, 0, false, 4, 5, .s 6, 0, 0⟩),
   (0x6080000030007000, .qpush ⟨0, 0, false, 0, 3, .v 0, 7, 0⟩),
   (0x6090004000003002, .qpop ⟨0, 0, false, 4, 0, .v 0, 3, 2⟩),
   (0x60A0000000007000, .qnotify ⟨0, 0, false, 0, 0, .v 0, 7, 0⟩),
   (0x60B1000050007003, .qbindTrig ⟨0, 0, false, 0, 5, .imm 3, 7, 0⟩),
   (0x60B0000030047000, .qbindIn ⟨0, 0, false, 0, 3, .v 0, 71, 0⟩),
   (0x60B0000030087000, .qbindOut ⟨0, 0, false, 0, 3, .v 0, 135, 0⟩),
   (0x60B00000300C0000, .qbindUnmap ⟨0, 0, false, 0, 3, .v 0, 192, 0⟩),
   (0x60C0005000007000, .qstat ⟨0, 0, false, 5, 0, .v 0, 7, 0⟩)]

theorem test_decode_syncWords : ∀ p ∈ syncWords, Decode.core p.1 = .ok p.2 := by decide

/-- Words of class 7 (R283), written from their layout, and what they stand for. -/
def fabricWords : List (BitVec 64 × Instr) :=
  [(0x7001005000001004, .freq ⟨0, 0, false, 5, 0, .imm 4, 1, 0⟩),
   (0x7010005060000000, .frel ⟨0, 0, false, 5, 6, .v 0, 0, 0⟩),
   (0x7021005060007000, .fcfg ⟨0, 0, false, 5, 6, .imm 0, 7, 0⟩),
   (0x7031000030002005, .fsend ⟨0, 0, false, 0, 3, .imm 5, 2, 0⟩),
   (0x7041004000000005, .frecv ⟨0, 0, false, 4, 0, .imm 5, 0, 0⟩),
   (0x7051005000000000, .fdrain ⟨0, 0, false, 5, 0, .imm 0, 0, 0⟩),
   (0x7061000000000003, .fprio ⟨0, 0, false, 0, 0, .imm 3, 0, 0⟩),
   (0x7072005000600000, .fstat ⟨0, 0, false, 5, 0, .s 6, 0, 0⟩),
   (0x7081005000000000, .fmodeDf ⟨0, 0, false, 5, 0, .imm 0, 0, 0⟩),
   (0x7081005000001000, .fmodeSys ⟨0, 0, false, 5, 0, .imm 0, 1, 0⟩)]

theorem test_decode_fabricWords : ∀ p ∈ fabricWords, Decode.core p.1 = .ok p.2 := by decide

/-- Words of classes 8 and 9 (R344, R380), written from their layout, and what they stand for. -/
def matrixWords : List (BitVec 64 × Instr) :=
  [(0x8001000040003000, .mxw ⟨0, 0, false, 0, 4, .imm 0, 3, 0⟩),
   (0x8011000090003000, .mxa ⟨0, 0, false, 0, 9, .imm 0, 3, 0⟩),
   (0x8020008070000000, .mxc ⟨0, 0, false, 8, 7, .v 0, 0, 0⟩),
   (0x8031000000000002, .mxz ⟨0, 0, false, 0, 0, .imm 2, 0, 0⟩),
   (0x8042000040600000, .mxsc ⟨0, 0, false, 0, 4, .s 6, 0, 0⟩),
   (0x8050000000000000, .mxwait ⟨0, 0, false, 0, 0, .v 0, 0, 0⟩),
   (0x9000000000000001, .eqp ⟨0, 0, false, 0, 0, .v 0, 0, 1⟩),
   (0x9010000000001000, .remount ⟨0, 0, false, 0, 0, .v 0, 1, 0⟩),
   (0x9010000000003000, .remountClr ⟨0, 0, false, 0, 0, .v 0, 3, 0⟩),
   (0x9021005000007001, .gaitr ⟨0, 0, false, 5, 0, .imm 1, 7, 0⟩),
   (0x9030000000001000, .pin ⟨0, 0, false, 0, 0, .v 0, 1, 0⟩),
   (0x9030000000000000, .pinOff ⟨0, 0, false, 0, 0, .v 0, 0, 0⟩)]

theorem test_decode_matrixWords : ∀ p ∈ matrixWords, Decode.core p.1 = .ok p.2 := by decide

/-- Words of class 10 (R197, R425), written from their layout, and what they stand for. -/
def controlWords : List (BitVec 64 × Instr) :=
  [(0xA001000000001007, .trap ⟨0, 0, false, 0, 0, .imm 7, 1, 0⟩),
   (0xA011000000000000, .brk ⟨0, 0, false, 0, 0, .imm 0, 0, 0⟩),
   (0xA020005000000000, .ctlrd ⟨0, 0, false, 5, 0, .v 0, 0, 0⟩),
   (0xA03100000002101F, .ctlwr ⟨0, 0, false, 0, 0, .imm 31, 33, 0⟩),
   (0xA040006000000000, .cyc ⟨0, 0, false, 6, 0, .v 0, 0, 0⟩),
   (0xA041006000006000, .cycRow ⟨0, 0, false, 6, 0, .imm 0, 6, 0⟩),
   (0xA0510090A0000003, .launch ⟨0, 0, false, 9, 10, .imm 3, 0, 0⟩),
   (0xA06100D0E0000001, .waitev ⟨0, 0, false, 13, 14, .imm 1, 0, 0⟩),
   (0xA07100D0E0000001, .sigev ⟨0, 0, false, 13, 14, .imm 1, 0, 0⟩)]

theorem test_decode_controlWords : ∀ p ∈ controlWords, Decode.core p.1 = .ok p.2 := by decide

/-- Words of node words, classes 0 to 2 and 12 (R65, R66), written from their layout, and what they stand for. -/
def valueNodes : List (BitVec 64 × Instr) :=
  [(0x0002840000000001, .arithNodeFire ⟨0, 0, 0, true, false, some ⟨4, false⟩, none, 1⟩),
   (0x022682C180400000, .arithNodeFire ⟨0, 34, 1, true, false, some ⟨2, true⟩, some ⟨3, false⟩, 4194304⟩),
   (0x1004818000000000, .arithNodeFire ⟨1, 0, 1, false, false, some ⟨1, true⟩, none, 0⟩),
   (0x2020830004008000, .arithNodeFire ⟨2, 2, 0, false, false, some ⟨3, false⟩, none, 67141632⟩),
   (0xC000854300000000, .steer ⟨some ⟨5, false⟩, some ⟨6, false⟩, 0, 0⟩),
   (0xC010840000000200, .const ⟨some ⟨4, false⟩, none, 0, 512⟩),
   (0xC020000008010002, .lenter ⟨none, none, 8, 65538⟩),
   (0xC030890008000000, .lnext ⟨some ⟨9, false⟩, none, 8, 0⟩),
   (0xC040920010001400, .lexit ⟨some ⟨18, false⟩, none, 16, 5120⟩),
   (0xC050820004080101, .calln ⟨some ⟨2, false⟩, none, 4, 524545⟩),
   (0xC060000004000200, .retn ⟨none, none, 4, 512⟩),
   (0xC070830000000040, .ixrd ⟨some ⟨3, false⟩, none, 0, 64⟩),
   (0xC080960000000003, .joinc ⟨some ⟨22, false⟩, none, 0, 3⟩),
   (0xC0908D0000000000, .sink ⟨some ⟨13, false⟩, none, 0, 0⟩),
   (0xC0A0820000000007, .sendp ⟨some ⟨2, false⟩, none, 0, 7⟩),
   (0xC0B0814100000000, .eqpn ⟨some ⟨1, false⟩, some ⟨2, false⟩, 0, 0⟩),
   (0xC0C0000000000000, .fend ⟨none, none, 0, 0⟩),
   (0xC0D0814100000000, .errt ⟨some ⟨1, false⟩, some ⟨2, false⟩, 0, 0⟩),
   (0xC0E0810000000000, .gate ⟨some ⟨1, false⟩, none, 0, 0⟩)]

theorem test_decode_valueNodes : ∀ p ∈ valueNodes, Decode.node p.1 = .ok p.2 := by decide

/-- Words of node words, classes 13 and 14 (R67, R68), written from their layout, and what they stand for. -/
def accessNodes : List (BitVec 64 × Instr) :=
  [(0xD0040850100FF807, .cld ⟨2, false, 0, some ⟨5, false⟩, 2, 1, 255, 7⟩),
   (0xD01408A008001805, .cst ⟨2, false, 0, some ⟨10, false⟩, 1, 0, 3, 5⟩),
   (0xD026481007F00802, .catom ⟨3, false, 4, some ⟨1, false⟩, 0, 254, 1, 2⟩),
   (0xD03008B010001804, .mnop ⟨0, false, 0, some ⟨11, false⟩, 2, 0, 3, 4⟩),
   (0xD043081000000007, .fld ⟨1, true, 0, some ⟨1, false⟩, 0, 0, 0, 7⟩),
   (0xD054081000000008, .fst ⟨2, false, 0, some ⟨1, false⟩, 0, 0, 0, 8⟩),
   (0xD060081000000000, .cfence ⟨0, false, 0, some ⟨1, false⟩, 0, 0, 0, 0⟩),
   (0xE000810001020000, .mcld ⟨some ⟨1, false⟩, none, 1, 2, 0⟩),
   (0xE010810001020000, .mcst ⟨some ⟨1, false⟩, none, 1, 2, 0⟩),
   (0xE020810001020000, .mcenq ⟨some ⟨1, false⟩, none, 1, 2, 0⟩),
   (0xE030810001020000, .mcdeq ⟨some ⟨1, false⟩, none, 1, 2, 0⟩),
   (0xE040814102030000, .agen ⟨some ⟨1, false⟩, some ⟨2, false⟩, 2, 3, 0⟩),
   (0xE050870002050001, .mxj ⟨some ⟨7, false⟩, none, 2, 5, 1⟩),
   (0xE060810002050081, .mxout ⟨some ⟨1, false⟩, none, 2, 5, 129⟩)]

theorem test_decode_accessNodes : ∀ p ∈ accessNodes, Decode.node p.1 = .ok p.2 := by decide


/-- Words of vector form. -/
def vectorWords : List (BitVec 64 × Instr) := [(0x30C1005000000040, .setvl ⟨0, 0, false, 5, 0, .imm 64, 0, 0⟩),
  (0x30D0005000000000, .getvl ⟨0, 0, false, 5, 0, .v 0, 0, 0⟩), (0x3120003010201000, .slide ⟨0, 0, false, 3, 1, .v 2, 1, 0⟩)]

theorem all_run (f : BitVec 64 → State) (l : List (BitVec 64 × Instr)) (h : l.all (fun p => runsWith p.2 (f p.1) (fun _ => true)) = true) :
    ∀ p ∈ l, ∃ k, MayRun p.2 (f p.1) k := by
  intro p hp
  obtain ⟨k, hk, _⟩ := runs p.2 (f p.1) (fun _ => True) (by simpa using List.all_eq_true.1 h p hp)
  exact ⟨k, hk⟩

theorem all_fire (l : List (BitVec 64 × Instr)) (h : l.all (fun p => firesWith (nodeAt p.1) (fun k => decide (k.err = none))) = true) :
    ∀ p ∈ l, ∃ k, MayFire (nodeAt p.1) k ∧ k.err = none := by
  intro p hp
  exact fires (nodeAt p.1) (fun k => k.err = none) (List.all_eq_true.1 h p hp)

theorem witness_intWords : ∀ p ∈ intWords, ∃ k, MayRun p.2 (threadedAt p.1) k := all_run _ _ (by decide)
theorem witness_bitWords : ∀ p ∈ bitWords, ∃ k, MayRun p.2 (threadedAt p.1) k := all_run _ _ (by decide)
theorem witness_floatWords : ∀ p ∈ floatWords, ∃ k, MayRun p.2 (threadedAt p.1) k := all_run _ _ (by decide)
theorem witness_formatWords : ∀ p ∈ formatWords, ∃ k, MayRun p.2 (threadedAt p.1) k := all_run _ _ (by decide)
theorem witness_laneWords : ∀ p ∈ laneWords, ∃ k, MayRun p.2 (threadedAt p.1) k := all_run _ _ (by decide)
theorem witness_vectorWords : ∀ p ∈ vectorWords, ∃ k, MayRun p.2 (vectorAt p.1) k := all_run _ _ (by decide)
theorem witness_flowWords : ∀ p ∈ flowWords, ∃ k, MayRun p.2 (threadedAt p.1) k := all_run _ _ (by decide)
theorem witness_memoryWords : ∀ p ∈ memoryWords, ∃ k, MayRun p.2 (threadedAt p.1) k := all_run _ _ (by decide)
theorem witness_syncWords : ∀ p ∈ syncWords, ∃ k, MayRun p.2 (threadedAt p.1) k := all_run _ _ (by decide)
theorem witness_fabricWords : ∀ p ∈ fabricWords, ∃ k, MayRun p.2 (threadedAt p.1) k := all_run _ _ (by decide)
theorem witness_matrixWords : ∀ p ∈ matrixWords, ∃ k, MayRun p.2 (threadedAt p.1) k := all_run _ _ (by decide)
theorem witness_controlWords : ∀ p ∈ controlWords, ∃ k, MayRun p.2 (threadedAt p.1) k := all_run _ _ (by decide)
theorem witness_valueNodes : ∀ p ∈ valueNodes, ∃ k, MayFire (nodeAt p.1) k ∧ k.err = none := all_fire _ (by decide)
theorem witness_accessNodes : ∀ p ∈ accessNodes, ∃ k, MayFire (nodeAt p.1) k ∧ k.err = none := all_fire _ (by decide)

/-! ### Statements about core words whose hypotheses ask for more -/

theorem witness_WordEnd : ∃ k, MayRun (.nop ⟨0, 0, false, 0, 0, .v 0, 0, 0⟩) (at_ (.nop ⟨0, 0, false, 0, 0, .v 0, 0, 0⟩)) k ∧ k.issues = true :=
  runs _ _ _ (by decide)

/-- The lane form and the uniform form. -/
theorem witness_forms : KF.uni ⟨0, 2, true, 3, 1, .v 2, 0, 0⟩ = false
    ∧ (∃ k, MayRun (.add ⟨0, 2, true, 3, 1, .v 2, 0, 0⟩) (at_ (.add ⟨0, 2, true, 3, 1, .v 2, 0, 0⟩)) k)
    ∧ KF.uni ⟨1, 0, false, 255, 255, .s 255, 0x80, 0⟩ = true
    ∧ (∃ k, MayRun (.add ⟨1, 0, false, 255, 255, .s 255, 0x80, 0⟩) (at_ (.add ⟨1, 0, false, 255, 255, .s 255, 0x80, 0⟩)) k) :=
  ⟨by decide, (runs _ _ (fun _ => True) (by decide)).imp (fun _ h => h.1), by decide,
    (runs _ _ (fun _ => True) (by decide)).imp (fun _ h => h.1)⟩

/-- FieldBits, PartsApart: numbers and parts at the ends of their ranges. -/
theorem witness_FieldFunctions : (0 < 1 ∧ 0 < 2 ^ 1 ∧ 1 < 2 ^ 1) ∧ (0 < 64 ∧ 2 ^ 64 - 1 < 2 ^ 64 ∧ 0 < 2 ^ 64)
    ∧ 0 < partN 0 ∧ 0 < partN 1 ∧ 1 < partN 2 ∧ 3 < partN 3 := by decide

/-- The ends of the range, by R93: the least signed sum and the greatest unsigned one clamp. -/
theorem test_saturates : iAdds false 8 0x80 0xFF 0 = 0x80 ∧ iSubs true 16 0 1 0 = 0 ∧ iAdds true 8 0xFF 1 0 = 0xFF
    ∧ iSubs false 16 0x7FFF 0xFFFF 0 = 0x7FFF := by decide

/-- A conversion of FP32 values to BF16, in the top part of the container. -/
def cvtWitness : KF := ⟨0, 0, false, 4, 2, .v 0, 0x43, 0⟩

theorem witness_ConvertWords : ∃ k, MayRun (.cvt cvtWitness) (at_ (.cvt cvtWitness)) k ∧ cvtFits cvtWitness k
    ∧ ∀ v x l, v ∈ k.waves → (at_ (.cvt cvtWitness)).wave? v = some x → l < 32 →
      (k.on cvtWitness v x).getLsbD l = true → (convLane .cvt cvtWitness k x l).fault = false := by
  obtain ⟨k, h, p, q⟩ := runs (.cvt cvtWitness) (at_ (.cvt cvtWitness)) (fun k =>
    (fmtInvalid k.c (KF.fs cvtWitness) = none ∧ fmtInvalid k.c (KF.fd cvtWitness) = none
      ∧ partLimit k.c (KF.fs cvtWitness) (KF.ps cvtWitness) = none ∧ partLimit k.c (KF.fd cvtWitness) (KF.pd cvtWitness) = none
      ∧ pairLimit k (KF.fs cvtWitness) cvtWitness.a = none ∧ pairLimit k (KF.fd cvtWitness) cvtWitness.d = none)
    ∧ ∀ v ∈ k.waves, ((at_ (.cvt cvtWitness)).wave? v).all (fun x => (List.range 32).all (fun l =>
      !(k.on cvtWitness v x).getLsbD l || !(convLane .cvt cvtWitness k x l).fault)) = true) (by decide)
  refine ⟨k, h, p, fun v x l hv hx hl ha => ?_⟩
  have t := q v hv
  rw [hx] at t
  simpa [ha] using List.all_eq_true.1 t l (List.mem_range.2 hl)

theorem witness_fmtw : ∃ k, MayRun (.fmtw ⟨0, 0, false, 0, 3, .v 0, 63, 0⟩) (at_ (.fmtw ⟨0, 0, false, 0, 3, .v 0, 63, 0⟩)) k
    ∧ k.c.matrixNames (KF.entry ⟨0, 0, false, 0, 3, .v 0, 63, 0⟩) = false
    ∧ (((k.wv.rdS 3).extractLsb' 0 32).getLsbD 31 = false ∨ fmtLegal ((k.wv.rdS 3).extractLsb' 0 32) = true) :=
  runs _ _ _ (by decide)

theorem witness_fmtq : ∃ k, MayRun (.fmtq ⟨0, 0, false, 6, 0, .v 0, 7, 2⟩) (at_ (.fmtq ⟨0, 0, false, 6, 0, .v 0, 7, 2⟩)) k
    ∧ (k.c.fmtEntry (KF.entry ⟨0, 0, false, 6, 0, .v 0, 7, 2⟩)).getLsbD 31 = true := runs _ _ _ (by decide)

def bsclWitness : KF := ⟨0, 0, false, 4, 2, .v 0, 1, 0⟩
theorem witness_bscl : ∃ k, MayRun (.bscl bsclWitness) (at_ (.bscl bsclWitness)) k ∧ fmtInvalid k.c (KF.fs bsclWitness) = none
    ∧ fmtInvalid k.c (KF.fd bsclWitness) = none ∧ partLimit k.c (KF.fs bsclWitness) (KF.ps bsclWitness) = none
    ∧ pairLimit k (KF.fs bsclWitness) bsclWitness.a = none := runs _ _ _ (by decide)

def ndotWitness : KF := ⟨0, 0, false, 4, 2, .v 3, 5, 2⟩
theorem witness_ndot : ∃ k, MayRun (.ndot ndotWitness) (at_ (.ndot ndotWitness)) k ∧ fmtInvalid k.c (KF.fs ndotWitness) = none
    ∧ narrowOk (k.c.fmtEntry (KF.fs ndotWitness).toNat) = true := runs _ _ _ (by decide)

/-- Registers hold what their part width admits. -/
theorem witness_ReduceValues : ∃ k, MayRun (.red ⟨0, 0, false, 6, 2, .v 0, 0, 0⟩) (at_ (.red ⟨0, 0, false, 6, 2, .v 0, 0, 0⟩)) k
    ∧ ∀ v ∈ ((spanElems (0, 32)).filter (k.isAct (at_ (.red ⟨0, 0, false, 6, 2, .v 0, 0, 0⟩)) 0 false)).map (fun e =>
      k.rdE (at_ (.red ⟨0, 0, false, 6, 2, .v 0, 0, 0⟩)) 0 2 e), v < 2 ^ partW 0 := runs _ _ _ (by decide)

def brWitness (cond : BitVec 4) (off : BitVec 32) : BF := ⟨0, false, 5, cond, off⟩
theorem witness_br_taken : ∃ k, MayRun (.br (brWitness 1 1)) (at_ (.br (brWitness 1 1))) k
    ∧ condMet (brWitness 1 1).cond (k.wv.rdS 5).toInt = true ∧ BF.reach (brWitness 1 1) k.wv = true
    ∧ k.inside (BF.target (brWitness 1 1) k.wv).toNat = true := runs _ _ _ (by decide)

/-- A backward transfer with a path that waits in the region: the rotated wave goes on within the version. -/
def loopState : State := withWave (at_ (.loop (brWitness 2 0))) (fun x => { x with
  s := SMap.set x.s 0 5 2, mask := 0xFF
  dstack := [⟨.path, 0, 0xFFFFFF00, 0, 8, 0⟩, ⟨.reconv, 0, 0xFFFFFFFF, 0, 8, 0⟩] })
theorem witness_loop_taken : ∃ k, MayRun (.loop (brWitness 2 0)) loopState k
    ∧ condMet 2 (k.wv.rdS 5 - 1).toInt = true ∧ targetIn (brWitness 2 0) k
    ∧ k.inside (({ k.wv.wrS 5 (k.wv.rdS 5 - 1) with pc := BF.target (brWitness 2 0) k.wv } : Wave).rotate).pc.toNat = true :=
  runs (.loop (brWitness 2 0)) loopState (fun k => condMet 2 (k.wv.rdS 5 - 1).toInt = true
    ∧ (BF.reach (brWitness 2 0) k.wv = true ∧ k.inside (BF.target (brWitness 2 0) k.wv).toNat = true)
    ∧ k.inside (({ k.wv.wrS 5 (k.wv.rdS 5 - 1) with pc := BF.target (brWitness 2 0) k.wv } : Wave).rotate).pc.toNat = true) (by decide)

theorem witness_br_not_taken : ∃ k, MayRun (.br (brWitness 2 1)) (at_ (.br (brWitness 2 1))) k
    ∧ condMet 2 (k.wv.rdS 5).toInt = false ∧ k.inside (k.wv.pc + 8).toNat = true ∧ k.inside (k.wv.pc.toNat + 8) = true :=
  runs _ _ _ (by decide)

/-- BRM with no lane, all lanes and some lanes of M1 set. -/
def brmWitness : BF := ⟨1, false, 0, 0, 1⟩
def brmState (m : Word) : State := withWave (at_ (.brm brmWitness)) (fun x => { x with m := SMap.set x.m 0 1 m })
theorem witness_brm_none : ∃ k, MayRun (.brm brmWitness) (brmState 0) k ∧ k.act 1 false k.w k.wv = 0
    ∧ k.inside (k.wv.pc + 8).toNat = true ∧ k.inside (k.wv.pc.toNat + 8) = true := runs _ _ _ (by decide)
theorem witness_brm_all : ∃ k, MayRun (.brm brmWitness) (brmState 0xFFFFFFFF) k ∧ k.act 1 false k.w k.wv ≠ 0
    ∧ k.wv.mask &&& ~~~(k.act 1 false k.w k.wv) = 0 ∧ BF.reach brmWitness k.wv = true
    ∧ k.inside (BF.target brmWitness k.wv).toNat = true := runs _ _ _ (by decide)
theorem witness_brm_some : ∃ k, MayRun (.brm brmWitness) (brmState 0x80000001) k ∧ k.act 1 false k.w k.wv ≠ 0
    ∧ k.wv.mask &&& ~~~(k.act 1 false k.w k.wv) ≠ 0 ∧ BF.reach brmWitness k.wv = true
    ∧ k.inside (BF.target brmWitness k.wv).toNat = true ∧ k.inside (k.wv.pc + 8).toNat = true
    ∧ k.wv.dstack.length < 256 := runs _ _ _ (by decide)

theorem witness_rcv : ∃ k, MayRun (.rcv ⟨0, false, 0, 0, 5⟩) (at_ (.rcv ⟨0, false, 0, 0, 5⟩)) k
    ∧ k.inside (k.wv.pc + 8).toNat = true ∧ k.inside (k.wv.pc.toNat + 8) = true ∧ k.wv.dstack.length < 256 :=
  runs _ _ _ (by decide)

/-- JOIN at the word of its region, with and without a waiting path. -/
def joinWitness : KF := ⟨0, 0, false, 0, 0, .v 0, 0, 0⟩
def joinPath : DEntry := ⟨.path, 0, 0xFFFFFF00, 0, 8, 0⟩
def joinRegion : DEntry := ⟨.reconv, 0, 0xFFFFFFFF, 0, 0, 0⟩
def joinState (top : List DEntry) : State := withWave (at_ (.join joinWitness)) (fun x => { x with dstack := top ++ [joinRegion] })
theorem witness_join_closes : ∃ k, MayRun (.join joinWitness) (joinState []) k ∧ k.wv.dstack = [] ++ joinRegion :: []
    ∧ joinRegion.kind = .reconv ∧ joinRegion.pc = k.wv.pc ∧ joinRegion.rdepth = k.wv.rstack.length
    ∧ k.inside (k.wv.pc + 8).toNat = true ∧ k.inside (k.wv.pc.toNat + 8) = true := runs _ _ _ (by decide)
theorem witness_join_path : ∃ k, MayRun (.join joinWitness) (joinState [joinPath]) k
    ∧ k.wv.dstack = [joinPath] ++ joinRegion :: [] ∧ (∀ e ∈ [joinPath], e.kind ≠ .reconv) ∧ joinRegion.pc = k.wv.pc
    ∧ joinRegion.rdepth = k.wv.rstack.length ∧ [joinPath] = [] ++ joinPath :: [] ∧ k.inside joinPath.pc.toNat = true :=
  runs _ _ _ (by decide)

theorem witness_call : ∃ k, MayRun (.call ⟨0, false, 0, 0, 1⟩) (at_ (.call ⟨0, false, 0, 0, 1⟩)) k
    ∧ BF.reach ⟨0, false, 0, 0, 1⟩ k.wv = true ∧ k.inside (BF.target ⟨0, false, 0, 0, 1⟩ k.wv).toNat = true
    ∧ k.wv.rstack.length < 1024 := runs _ _ _ (by decide)
def retState : State := withWave (at_ (.ret joinWitness)) (fun x => { x with rstack := [⟨8, 0, false⟩] })
theorem witness_ret : ∃ k, MayRun (.ret joinWitness) retState k ∧ k.wv.rstack = (⟨8, 0, false⟩ : REntry) :: []
    ∧ (0 : Nat) = k.wv.dstack.length ∧ k.inside 8 = true := runs _ _ _ (by decide)

def toS : KF := ⟨0, 0, false, 0, 0, .s 9, 0, 0⟩
def toSState (i : Instr) : State := withWave (at_ i) (fun x => { x with s := SMap.set x.s 0 9 8 })
theorem witness_callxS : ∃ k, MayRun (.callxS toS) (toSState (.callxS toS)) k
    ∧ k.inside ((opS toS k.wv).extractLsb' 0 32).toNat = true ∧ k.wv.rstack.length < 1024 := runs _ _ _ (by decide)
theorem witness_jmpxS : ∃ k, MayRun (.jmpxS toS) (toSState (.jmpxS toS)) k ∧ (8 : Word) = (opS toS k.wv).extractLsb' 0 32
    ∧ k.inside 8 = true ∧ (k.vec = true ∨ k.wv.pc.toNat < 8) := runs _ _ _ (by decide)

/-- All lanes of the path hold one target. -/
def toV : KF := ⟨0, 0, false, 0, 3, .v 0, 0, 0⟩
def toVState (i : Instr) : State := withWave (at_ i) (fun x => { x with v := (List.range 32).map (fun l => (96 + l, (8 : Word))) })
theorem witness_callxV : ∃ k, MayRun (.callxV toV) (toVState (.callxV toV)) k ∧ k.on toV k.w k.wv = k.wv.mask
    ∧ (∀ l, l < 32 → k.wv.mask.getLsbD l = true → k.wv.rdV 3 l = 8) ∧ k.inside 8 = true ∧ k.wv.dstack.length < 256
    ∧ k.wv.rstack.length < 1024 := runs _ _ _ (by decide)
theorem witness_jmpxV : ∃ k, MayRun (.jmpxV toV) (toVState (.jmpxV toV)) k ∧ k.on toV k.w k.wv = k.wv.mask
    ∧ (∀ l, l < 32 → k.wv.mask.getLsbD l = true → k.wv.rdV 3 l = 8) ∧ k.inside 8 = true ∧ k.wv.dstack.length ≤ 256
    ∧ k.wv.pc.toNat < 8 := runs _ _ _ (by decide)

/-- `leastGroup`, by the lanes below 32. -/
def leastIn (x : Wave) (reg : Nat) (pend m t : Word) : Bool :=
  m != 0 && (List.range 32).all (fun l => (m.getLsbD l == (pend.getLsbD l && x.rdV reg l == t))
    && (!pend.getLsbD l || decide (t.toNat ≤ (x.rdV reg l).toNat)))
theorem leastGroup_of {x : Wave} {reg : Nat} {pend m t : Word} (h : leastIn x reg pend m t = true) : leastGroup x reg pend m t := by
  simp only [leastIn, Bool.and_eq_true, bne_iff_ne, List.all_eq_true, List.mem_range, beq_iff_eq, Bool.or_eq_true,
    Bool.not_eq_true', decide_eq_true_eq] at h
  refine ⟨h.1, fun l => ?_, fun l q e => (h.2 l q).2.resolve_left (by simp [e])⟩
  rcases Nat.lt_or_ge l 32 with q | q
  · simpa [q] using (h.2 l q).1
  · simp [Nat.not_lt.2 q, BitVec.getLsbD_of_ge m l q]

/-- A wave resumes at the topmost entry with lanes, a path. -/
theorem resumes_path (x : Wave) (gone : List DEntry) (e : DEntry) (below : List DEntry) (g : ∀ d ∈ gone, d.mask = 0)
    (h : e.mask ≠ 0) (p : e.kind = .path) :
    resumes x (gone ++ e :: below) { x with
      pc := e.pc, mask := e.mask, dstack := below
      rstack := x.rstack.drop (x.rstack.length - (gone ++ [e]).foldl (fun n d => min n d.rdepth) x.rstack.length) } := by
  refine ⟨fun q => absurd (q e (by simp)) h, fun dead d b s z n => ?_⟩
  obtain ⟨rfl, rfl, rfl⟩ : gone = dead ∧ e = d ∧ below = b := by
    clear p
    induction gone generalizing dead with
    | nil =>
      cases dead with
      | nil => simpa using s
      | cons a t => exact absurd ((List.cons.inj s).1 ▸ z a (by simp)) h
    | cons c t ih =>
      cases dead with
      | nil => exact absurd ((List.cons.inj s).1 ▸ g c (by simp)) n
      | cons a u =>
        obtain ⟨rfl, r⟩ := List.cons.inj s
        simpa using ih (fun d m => g d (by simp [m])) u r (fun d m => z d (by simp [m]))
  exact ⟨fun _ => rfl, fun q => by simp [p] at q, fun q => by simp [p] at q⟩

/-- RET from a group of CALLX: targets are left; none is left, and the entry holds lanes, or it holds none and the path
under it goes on. -/
def groupEntry (pend mask : Word) : DEntry := ⟨.callx, pend, mask, 0, 8, 3⟩
def retGroup (pend mask : Word) : State := withWave (at_ (.ret joinWitness)) (fun x => { x with
  mask := 0xF, rstack := [⟨8, 2, true⟩], dstack := [groupEntry pend mask, joinPath]
  v := (List.range 32).map (fun l => (96 + l, (8 : Word))) })
theorem witness_ret_group : ∃ k y, MayRun (.ret joinWitness) (retGroup 0xF0 0xFF) k
    ∧ k.wv.rstack = (⟨8, 2, true⟩ : REntry) :: [] ∧ (2 : Nat) = k.wv.dstack.length
    ∧ k.wv.dstack = groupEntry 0xF0 0xFF :: [joinPath]
    ∧ leastGroup { k.wv with rstack := [] } 3 0xF0 0xF0 8
    ∧ y = inGroup { k.wv with rstack := [] } (groupEntry 0xF0 0xFF) [joinPath] 0xF0 8 ∧ k.inside y.pc.toNat = true := by
  obtain ⟨k, h, a, b, c, d⟩ := runs (.ret joinWitness) (retGroup 0xF0 0xFF) (fun k =>
    k.wv.rstack = (⟨8, 2, true⟩ : REntry) :: [] ∧ k.wv.dstack = groupEntry 0xF0 0xFF :: [joinPath]
    ∧ leastIn { k.wv with rstack := [] } 3 0xF0 0xF0 8 = true ∧ k.inside 8 = true) (by decide)
  exact ⟨k, _, h, a, by rw [b]; rfl, b, leastGroup_of c, rfl, d⟩
theorem witness_ret_group_over : (∃ k, MayRun (.ret joinWitness) (retGroup 0 0xFF) k
      ∧ k.wv.rstack = (⟨8, 2, true⟩ : REntry) :: [] ∧ k.wv.dstack = groupEntry 0 0xFF :: [joinPath] ∧ k.inside 8 = true)
    ∧ ∃ k y, MayRun (.ret joinWitness) (retGroup 0 0) k
      ∧ k.wv.rstack = (⟨8, 2, true⟩ : REntry) :: [] ∧ k.wv.dstack = groupEntry 0 0 :: [joinPath]
      ∧ resumes { k.wv with rstack := [], dstack := [joinPath] } [joinPath] y ∧ k.inside y.pc.toNat = true := by
  refine ⟨runs _ _ _ (by decide), ?_⟩
  obtain ⟨k, h, a, b, d⟩ := runs (.ret joinWitness) (retGroup 0 0) (fun k =>
    k.wv.rstack = (⟨8, 2, true⟩ : REntry) :: [] ∧ k.wv.dstack = groupEntry 0 0 :: [joinPath] ∧ k.inside 8 = true) (by decide)
  exact ⟨k, _, h, a, b, resumes_path _ [] joinPath [] (by simp) (by decide) rfl, d⟩

theorem witness_jmpxS_back : ∃ k, MayRun (.jmpxS toS) (at_ (.jmpxS toS)) k ∧ (0 : Word) = (opS toS k.wv).extractLsb' 0 32
    ∧ k.inside 0 = true ∧ k.vec = false ∧ (0 : Word).toNat ≤ k.wv.pc.toNat := runs _ _ _ (by decide)

/-- CALLX and JMPX of V: two targets, under a mask register; and no active lane. -/
def someV : KF := ⟨0, 1, false, 0, 3, .v 0, 0, 0⟩
def someAt (i : Instr) (m : Word) : State := withWave (at_ i) (fun x => { x with
  m := SMap.set [] 0 1 m, v := (List.range 31).map (fun l => (97 + l, (8 : Word))) })
/-- The hypotheses of `targetsIn`, by the lanes below 32. -/
def targetsB (f : KF) (k : Ctx) : Bool :=
  (List.range 32).all (fun l => !(k.on f k.w k.wv).getLsbD l || k.inside (k.wv.rdV (KF.A f) l).toNat)
    && k.inside (k.wv.pc + 8).toNat && k.inside (k.wv.pc.toNat + 8)
theorem targetsIn_of {f : KF} {k : Ctx} (h : targetsB f k = true) : targetsIn f k := by
  simp only [targetsB, Bool.and_eq_true, List.all_eq_true, List.mem_range, Bool.or_eq_true, Bool.not_eq_true'] at h
  exact ⟨fun l q e => (h.1.1 l q).resolve_left (by simp [e]), fun _ => ⟨h.1.2, h.2⟩⟩
theorem witness_callxV_some : ∃ k, MayRun (.callxV someV) (someAt (.callxV someV) 0x80000001) k ∧ targetsIn someV k
    ∧ leastGroup k.wv (KF.A someV) (k.on someV k.w k.wv) 1 0 ∧ k.wv.dstack.length < 256 ∧ k.wv.rstack.length < 1024 := by
  obtain ⟨k, h, a, b, c⟩ := runs (.callxV someV) (someAt (.callxV someV) 0x80000001) (fun k => targetsB someV k = true
    ∧ leastIn k.wv (KF.A someV) (k.on someV k.w k.wv) 1 0 = true ∧ k.wv.dstack.length < 256 ∧ k.wv.rstack.length < 1024) (by decide)
  exact ⟨k, h, targetsIn_of a, leastGroup_of b, c⟩
theorem witness_callxV_none : ∃ k, MayRun (.callxV someV) (someAt (.callxV someV) 0) k ∧ targetsIn someV k
    ∧ k.on someV k.w k.wv = 0 := by
  obtain ⟨k, h, a, b⟩ := runs (.callxV someV) (someAt (.callxV someV) 0) (fun k => targetsB someV k = true
    ∧ k.on someV k.w k.wv = 0) (by decide)
  exact ⟨k, h, targetsIn_of a, b⟩
/-- `groupsOf`, by the lanes below 32. -/
def groupsB (f : KF) (k : Ctx) (gs : List (Word × Word)) : Bool :=
  decide (gs.Pairwise (fun a b => a.1.toNat < b.1.toNat))
    && gs.all (fun g => g.2 != 0 && (List.range 32).all (fun l =>
      g.2.getLsbD l == ((k.on f k.w k.wv).getLsbD l && k.wv.rdV (KF.A f) l == g.1)))
    && (List.range 32).all (fun l => !(k.on f k.w k.wv).getLsbD l || gs.any (fun g => g.1 == k.wv.rdV (KF.A f) l))
theorem groupsOf_of {f : KF} {k : Ctx} {gs : List (Word × Word)} (h : groupsB f k gs = true) : groupsOf f k gs := by
  simp only [groupsB, Bool.and_eq_true, decide_eq_true_eq, List.all_eq_true, List.mem_range, bne_iff_ne, beq_iff_eq,
    Bool.or_eq_true, Bool.not_eq_true', List.any_eq_true] at h
  obtain ⟨⟨a, b⟩, c⟩ := h
  refine ⟨a, fun g hg => ⟨(b g hg).1, fun l => ?_⟩, fun l q e => (c l q).resolve_left (by simp [e])⟩
  rcases Nat.lt_or_ge l 32 with q | q
  · simpa [q] using (b g hg).2 l q
  · simp [Nat.not_lt.2 q, BitVec.getLsbD_of_ge g.2 l q]
theorem witness_jmpxV_some : ∃ k, MayRun (.jmpxV someV) (someAt (.jmpxV someV) 0x80000001) k ∧ targetsIn someV k
    ∧ groupsOf someV k [(0, 1), (8, 0x80000000)] ∧ k.wv.mask &&& ~~~(k.on someV k.w k.wv) ≠ 0 ∧ k.wv.dstack.length + 2 ≤ 256
    ∧ k.inside (0 : Word).toNat = true := by
  obtain ⟨k, h, a, b, c⟩ := runs (.jmpxV someV) (someAt (.jmpxV someV) 0x80000001) (fun k => targetsB someV k = true
    ∧ groupsB someV k [(0, 1), (8, 0x80000000)] = true ∧ k.wv.mask &&& ~~~(k.on someV k.w k.wv) ≠ 0 ∧ k.wv.dstack.length + 2 ≤ 256
    ∧ k.inside (0 : Word).toNat = true) (by decide)
  exact ⟨k, h, targetsIn_of a, groupsOf_of b, c⟩
theorem witness_jmpxV_none : ∃ k, MayRun (.jmpxV someV) (someAt (.jmpxV someV) 0) k ∧ targetsIn someV k ∧ groupsOf someV k [] := by
  obtain ⟨k, h, a, b⟩ := runs (.jmpxV someV) (someAt (.jmpxV someV) 0) (fun k => targetsB someV k = true
    ∧ groupsB someV k [] = true) (by decide)
  exact ⟨k, h, targetsIn_of a, groupsOf_of b⟩
/-- All lanes jump back to the word itself. -/
theorem witness_jmpxV_back : ∃ k, MayRun (.jmpxV toV) (at_ (.jmpxV toV)) k ∧ targetsIn toV k ∧ groupsOf toV k [(0, 0xFFFFFFFF)]
    ∧ (0 : Word).toNat ≤ k.wv.pc.toNat ∧ k.wv.mask &&& ~~~(k.on toV k.w k.wv) = 0 ∧ k.inside (0 : Word).toNat = true := by
  obtain ⟨k, h, a, b, c⟩ := runs (.jmpxV toV) (at_ (.jmpxV toV)) (fun k => targetsB toV k = true
    ∧ groupsB toV k [(0, 0xFFFFFFFF)] = true ∧ (0 : Word).toNat ≤ k.wv.pc.toNat ∧ k.wv.mask &&& ~~~(k.on toV k.w k.wv) = 0
    ∧ k.inside (0 : Word).toNat = true) (by decide)
  exact ⟨k, h, targetsIn_of a, groupsOf_of b, c⟩

/-- The stacks of the core, full. -/
theorem witness_StacksInCore : fitsCore { Wave.start 0xFFFFFFFF 0 with
    dstack := List.replicate 32 joinRegion, rstack := List.replicate 16 ⟨8, 0, false⟩ } := by
  refine ⟨?_, ?_, rfl, rfl⟩ <;> simp

theorem witness_ifence : ∃ k, MayRun (.ifence joinWitness) (at_ (.ifence joinWitness)) k
    ∧ (∀ p ∈ ((at_ (.ifence joinWitness)).cluster k.cluster).stores, p.wave ∈ k.waves → p.loc.rmt = true) :=
  runs _ _ _ (by decide)

/-! ### Accesses -/

theorem all_ok (l : List (LaneAcc × Except Nat At))
    (h : l.all (fun p => match p.2 with | .ok _ => true | .error _ => false) = true) :
    ∃ ok : List (LaneAcc × At), l = ok.map (fun p => (p.1, .ok p.2)) := by
  induction l with
  | nil => exact ⟨[], rfl⟩
  | cons p t ih =>
    simp only [List.all_cons, Bool.and_eq_true] at h
    obtain ⟨ok, e⟩ := ih h.2
    obtain ⟨a, r⟩ := p
    cases r with
    | error _ => simp at h
    | ok q => exact ⟨(a, q) :: ok, by simp [e]⟩

/-- Whether no live lane of an access meets a cause, before or at the access. -/
def accessOk (f : MF) (a : Access) (k : Ctx) (s : State) : Bool :=
  (a.lanes f k s).all (fun x => (laneCause f k a.how.write x).isNone)
    && (a.places f k s).2.all (fun p => match p.2 with | .ok _ => true | .error _ => false)

/-- The hypotheses of AccessLanes but for what the word needs beside its addresses. -/
theorem access (i : Instr) (s : State) (f : MF) (a : Access) (N : Ctx → Prop) [DecidablePred N]
    (_ : memWord i = some (f, a)) (h : runsWith i s (fun k => decide (N k ∧ accessOk f a k s.unfocused = true)) = true) :
    ∃ k, ∃ ok : List (LaneAcc × At), MayRun i s k ∧ N k
      ∧ (∀ x ∈ a.lanes f k s.unfocused, laneCause f k a.how.write x = none)
      ∧ (a.places f k s.unfocused).2 = ok.map (fun p => (p.1, .ok p.2)) := by
  obtain ⟨k, hk, n, o⟩ := runs i s (fun k => N k ∧ accessOk f a k s.unfocused = true) h
  simp only [accessOk, Bool.and_eq_true, List.all_eq_true] at o
  obtain ⟨ok, e⟩ := all_ok _ (by simpa [List.all_eq_true] using o.2)
  exact ⟨k, ok, hk, n, fun x hx => by simpa using o.1 x hx, e⟩

/-- An access whose lanes step by 4 or 8 from the base in S6, to crew memory. -/
def lanesMF (size : BitVec 3) (space ord : BitVec 2) : MF := ⟨true, true, 0, false, 4, 6, 3, size, false, space, ord, 0⟩
/-- Lane l holds the index l in V3. -/
def lanesAt (i : Instr) : State := withWave (at_ i) (fun x => { x with v := (List.range 31).map (fun l => (97 + l, BitVec.ofNat 32 (l + 1))) })

/-- The hypotheses of AccessLanes. -/
def AccessWitness (i : Instr) (s : State) : Prop :=
  ∃ f a k, ∃ ok : List (LaneAcc × At), memWord i = some (f, a) ∧ MayRun i s k ∧ a.needs k s.unfocused
    ∧ (∀ x ∈ a.lanes f k s.unfocused, laneCause f k a.how.write x = none)
    ∧ (a.places f k s.unfocused).2 = ok.map (fun p => (p.1, .ok p.2))

theorem witness_ld : AccessWitness (.ld (lanesMF 3 1 0)) (lanesAt (.ld (lanesMF 3 1 0))) := by
  obtain ⟨k, ok, h⟩ := access (.ld (lanesMF 3 1 0)) (lanesAt (.ld (lanesMF 3 1 0))) (lanesMF 3 1 0) _ (fun _ => True) rfl (by decide)
  exact ⟨_, _, k, ok, rfl, h⟩
theorem witness_st : AccessWitness (.st (lanesMF 0 1 0)) (lanesAt (.st (lanesMF 0 1 0))) := by
  obtain ⟨k, ok, h⟩ := access (.st (lanesMF 0 1 0)) (lanesAt (.st (lanesMF 0 1 0))) (lanesMF 0 1 0) _ (fun _ => True) rfl (by decide)
  exact ⟨_, _, k, ok, rfl, h⟩
theorem witness_atom : AccessWitness (.atom (lanesMF 2 1 0)) (lanesAt (.atom (lanesMF 2 1 0))) := by
  obtain ⟨k, ok, h⟩ := access (.atom (lanesMF 2 1 0)) (lanesAt (.atom (lanesMF 2 1 0))) (lanesMF 2 1 0) _ (fun _ => True) rfl (by decide)
  exact ⟨_, _, k, ok, rfl, h⟩

/-- Through the page tables, in one lane, at the last bytes of the page. -/
def oneLane (size : BitVec 3) (ord : BitVec 2) : MF := ⟨true, false, 0, false, 4, 6, 8, size, false, 0, ord, 0⟩
def pageEnd (i : Instr) (a : Dword) : State := paged (withWave (at_ i) (fun x => { x with mask := 1, s := SMap.set x.s 0 6 a }))
theorem witness_ld_global : AccessWitness (.ld (oneLane 4 0)) (pageEnd (.ld (oneLane 4 0)) 0xFFF0) := by
  obtain ⟨k, ok, h⟩ := access (.ld (oneLane 4 0)) (pageEnd (.ld (oneLane 4 0)) 0xFFF0) (oneLane 4 0) _ (fun _ => True) rfl (by decide)
  exact ⟨_, _, k, ok, rfl, h⟩
theorem witness_lda : AccessWitness (.lda { oneLane 3 1 with b := 0 }) (pageEnd (.lda { oneLane 3 1 with b := 0 }) 0xFFF8) := by
  obtain ⟨k, ok, h, n, t⟩ := access (.lda { oneLane 3 1 with b := 0 }) (pageEnd (.lda { oneLane 3 1 with b := 0 }) 0xFFF8)
    { oneLane 3 1 with b := 0 } _ (fun _ => True) rfl (by decide)
  exact ⟨_, _, k, ok, rfl, h, rfl, t⟩
theorem witness_stl : AccessWitness (.stl (oneLane 3 2)) (pageEnd (.stl (oneLane 3 2)) 0xFFF8) := by
  obtain ⟨k, ok, h⟩ := access (.stl (oneLane 3 2)) (pageEnd (.stl (oneLane 3 2)) 0xFFF8) (oneLane 3 2) _
    (fun k => (pageEnd (.stl (oneLane 3 2)) 0xFFF8).unfocused.releaseWaits k.cluster k.w 2 = false) rfl (by decide)
  exact ⟨_, _, k, ok, rfl, h⟩
theorem witness_cas : AccessWitness (.cas (oneLane 2 0)) (pageEnd (.cas (oneLane 2 0)) 0xFFFC) := by
  obtain ⟨k, ok, h⟩ := access (.cas (oneLane 2 0)) (pageEnd (.cas (oneLane 2 0)) 0xFFFC) (oneLane 2 0) _ (fun _ => True) rfl (by decide)
  exact ⟨_, _, k, ok, rfl, h⟩

/-- Elements 4 bytes apart, the last lane's at the end of crew memory. -/
def strideMF : MF := ⟨true, false, 0, false, 3, 6, 7, 2, false, 1, 0, 0⟩
def strideAt (i : Instr) : State := withWave (at_ i) (fun x => { x with s := SMap.set (SMap.set x.s 0 6 0xFFF80) 0 7 4 })
theorem witness_vlds : AccessWitness (.vlds strideMF) (strideAt (.vlds strideMF)) := by
  obtain ⟨k, ok, h⟩ := access (.vlds strideMF) (strideAt (.vlds strideMF)) strideMF _ (fun _ => True) rfl (by decide)
  exact ⟨_, _, k, ok, rfl, h⟩
theorem witness_vsts : AccessWitness (.vsts strideMF) (strideAt (.vsts strideMF)) := by
  obtain ⟨k, ok, h⟩ := access (.vsts strideMF) (strideAt (.vsts strideMF)) strideMF _ (fun _ => True) rfl (by decide)
  exact ⟨_, _, k, ok, rfl, h⟩

/-- FP32 lanes as BF16 in crew memory. -/
def narrowMF : MF := ⟨true, false, 0, false, 4, 6, 3, 1, false, 1, 0, 0⟩
theorem witness_ldf : AccessWitness (.ldf narrowMF) (at_ (.ldf narrowMF)) := by
  obtain ⟨k, ok, h⟩ := access (.ldf narrowMF) (at_ (.ldf narrowMF)) narrowMF _ (fun k => memFmtErr narrowMF k = none) rfl (by decide)
  exact ⟨_, _, k, ok, rfl, h⟩
theorem witness_stf : AccessWitness (.stf narrowMF) (at_ (.stf narrowMF)) := by
  obtain ⟨k, ok, h, ⟨e, n⟩, t⟩ := access (.stf narrowMF) (at_ (.stf narrowMF)) narrowMF _ (fun k => memFmtErr narrowMF k = none
    ∧ ∀ a ∈ liveLanes narrowMF k (at_ (.stf narrowMF)).unfocused (fun x l _ => laneEa narrowMF narrowMF.off.toInt k.wv x l),
      ((at_ (.stf narrowMF)).wave? a.v).all (fun x => !(stfVal narrowMF k x a.l).fault) = true) rfl (by decide)
  refine ⟨_, _, k, ok, rfl, h, ⟨e, fun a ha x hx => ?_⟩, t⟩
  have := n a ha
  rw [show (at_ (.stf narrowMF)).wave? a.v = some x from hx] at this
  simpa using this

/-- LoadLanes, StoreLanes, AtomicLanes: the crew and the wave of a lane exist, its page is accessed and written, and no
store of its cluster is pending. -/
theorem witness_lanes : ∃ s : State, ∃ (x : Crew) (y : Wave) (t : Tlb), s.crew? probeCrew = some x ∧ s.wave? wave0 = some y
    ∧ x.debug = false ∧ (∀ p ∈ (s.cluster 0).stores, p.touches ⟨false, 0xFFFF8, 0⟩ 8 = false) ∧ pteA t.pte = true
    ∧ pteD t.pte = true :=
  ⟨at_ (.nop joinWitness), Option.get _ (by decide), Option.get _ (by decide), ⟨0, 0, false, 0x60, 0⟩, Option.some_get _ |>.symm,
    Option.some_get _ |>.symm, by decide, by decide, by decide, by decide⟩

/-- ResolveFrame: two lanes of crew memory. -/
theorem witness_ResolveFrame : ∃ k, ∃ ok : List (LaneAcc × At), MayRun (.ld (lanesMF 3 1 0)) (lanesAt (.ld (lanesMF 3 1 0))) k
    ∧ (resolveAll (lanesMF 3 1 0) k useLoad .thru [⟨0, wave0, 0, 0, 0⟩, ⟨1, wave0, 1, 0xFFFF8, 0⟩] (lanesAt (.ld (lanesMF 3 1 0)))).2
      = ok.map (fun p => (p.1, .ok p.2)) := by
  obtain ⟨k, hk, _⟩ := runs (.ld (lanesMF 3 1 0)) (lanesAt (.ld (lanesMF 3 1 0))) (fun _ => True) (by decide)
  exact ⟨k, [(⟨0, wave0, 0, 0, 0⟩, .crw 0), (⟨1, wave0, 1, 0xFFFF8, 0⟩, .crw 0xFFFF8)], hk, rfl⟩

/-- A uniform load of the last bytes of crew memory. -/
def uniMF : MF := ⟨true, false, 0, false, 5, 6, 1, 3, false, 1, 0, 0⟩
def uniAt : State := withWave (at_ (.ldUniform uniMF)) (fun x => { x with s := SMap.set x.s 0 6 0xFFFF8 })
theorem witness_UniformLoads : ∃ c g k p, uniWord (.ldUniform uniMF) = some (uniMF, c, g) ∧ MayRun (.ldUniform uniMF) uniAt k
    ∧ (let ea := wrap 64 ((k.wv.rdS uniMF.a.toNat).toNat + uniMF.off.toInt)
      let e := uniElem k
      let a : LaneAcc := ⟨e, k.w, e % 32, ea, laneVa uniMF k e ea⟩
      laneCause uniMF k false a = none ∧ (resolveLane uniMF k useLoad c (g k uniAt.unfocused) a).2 = .ok p) := by
  obtain ⟨k, hk, e, p⟩ := runs (.ldUniform uniMF) uniAt (fun k =>
    laneCause uniMF k false ⟨uniElem k, k.w, uniElem k % 32, wrap 64 ((k.wv.rdS uniMF.a.toNat).toNat + uniMF.off.toInt),
      laneVa uniMF k (uniElem k) (wrap 64 ((k.wv.rdS uniMF.a.toNat).toNat + uniMF.off.toInt))⟩ = none
    ∧ (k.wv.rdS uniMF.a.toNat).toNat = 0xFFFF8) (by decide)
  exact ⟨_, _, k, .crw (wrap 64 ((k.wv.rdS uniMF.a.toNat).toNat + uniMF.off.toInt)), rfl, hk, e, rfl⟩

/-- FENCE of each kind; and a store that a hold still waits for. -/
def fenceMF (kind : BitVec 12) : MF := ⟨false, false, 0, false, 0, 0, 0, 0, false, 0, 2, kind⟩
theorem witness_fence : (∃ k, MayRun (.fence (fenceMF 0)) (at_ (.fence (fenceMF 0))) k ∧ fld (fenceMF 0).off 1 0 = 0)
    ∧ (∃ k, MayRun (.fence (fenceMF 3)) (at_ (.fence (fenceMF 3))) k ∧ fld (fenceMF 3).off 1 0 = 3
      ∧ (at_ (.fence (fenceMF 3))).releaseWaits k.cluster k.w (MF.scope (fenceMF 3)) = false)
    ∧ (∃ k, MayRun (.fence (fenceMF 1)) (at_ (.fence (fenceMF 1))) k ∧ fld (fenceMF 1).off 1 0 = 1)
    ∧ ∃ k, MayRun (.fence (fenceMF 2)) (at_ (.fence (fenceMF 2))) k ∧ fld (fenceMF 2).off 1 0 = 2 :=
  ⟨runs _ _ _ (by decide), runs _ _ _ (by decide), runs _ _ _ (by decide), runs _ _ _ (by decide)⟩
/-- PREF.L1 of the last byte of the page, by one lane; and CMAINT.INV of it, which drops its line and no other. -/
def hintMF : MF := ⟨true, false, 0, false, 0, 6, 8, 2, false, 0, 0, 0⟩
theorem witness_pref : ∃ k a l t, MayRun (.pref hintMF) (pageEnd (.pref hintMF) 0xFFFC) k
    ∧ (findQuiet hintMF k usePref .thru (quietLanes hintMF k (pageEnd (.pref hintMF) 0xFFFC).unfocused)
        (pageEnd (.pref hintMF) 0xFFFC).unfocused).2 = [] ++ [(a, .glb l false t)] ∧ t.l1able = true
    ∧ (findQuiet hintMF k usePref .thru (quietLanes hintMF k (pageEnd (.pref hintMF) 0xFFFC).unfocused)
        (pageEnd (.pref hintMF) 0xFFFC).unfocused).1.eccHbm (l.pa / 128 * 128) 128 = false := by
  obtain ⟨k, h, p⟩ := runs (.pref hintMF) (pageEnd (.pref hintMF) 0xFFFC) (fun k =>
    (match findQuiet hintMF k usePref .thru (quietLanes hintMF k (pageEnd (.pref hintMF) 0xFFFC).unfocused)
        (pageEnd (.pref hintMF) 0xFFFC).unfocused with
      | (s, [(_, .glb l false t)]) => t.l1able && !s.eccHbm (l.pa / 128 * 128) 128
      | _ => false) = true) (by decide)
  split at p
  · rename_i s a l t e
    rw [Bool.and_eq_true, Bool.not_eq_true'] at p
    exact ⟨k, a, l, t, h, by rw [e]; rfl, p.1, by rw [e]; exact p.2⟩
  · cases p
theorem witness_cmaint : ∃ k, MayRun (.cmaint hintMF) (pageEnd (.cmaint hintMF) 0xFFFC) k ∧ hintMF.ord = 0
    ∧ ∃ p ∈ (findQuiet hintMF k useLoad .past (quietLanes hintMF k (pageEnd (.cmaint hintMF) 0xFFFC).unfocused)
        (pageEnd (.cmaint hintMF) 0xFFFC).unfocused).2, ∃ l h t, p.2 = .glb l h t ∧ l.rmt = false ∧ l.pa / 128 = 0x4FFFC / 128 := by
  obtain ⟨k, h, p⟩ := runs (.cmaint hintMF) (pageEnd (.cmaint hintMF) 0xFFFC) (fun k =>
    (match findQuiet hintMF k useLoad .past (quietLanes hintMF k (pageEnd (.cmaint hintMF) 0xFFFC).unfocused)
        (pageEnd (.cmaint hintMF) 0xFFFC).unfocused with
      | (_, [(_, .glb l _ _)]) => !l.rmt && l.pa / 128 == 0x4FFFC / 128
      | _ => false) = true) (by decide)
  split at p
  · rename_i s a l b t e
    rw [Bool.and_eq_true, Bool.not_eq_true', beq_iff_eq] at p
    exact ⟨k, h, rfl, _, by rw [e]; exact List.mem_singleton.2 rfl, l, b, t, rfl, p.1, p.2⟩
  · cases p

def heldStore : State := (at_ (.nop joinWitness)).modCluster 0 (fun c => { c with
  stores := [⟨wave0, 0, ⟨false, 0x40000, 0⟩, [1], 0, ⟨0, 0, false, 0, 0⟩, false, 0⟩] })
theorem witness_fence_holds : ∃ p ∈ (heldStore.cluster 0).stores, p.born < (⟨1, 1⟩ : Hold).before
    ∧ (heldStore.cluster 0).owes wave0 (⟨1, 1⟩ : Hold).scope p = true := by decide
theorem witness_HomeWrites : (⟨false, 0x7FFFFFFFFF, 0⟩ : Loc).rmt = false ∧ 0x7FFFFFFFFF + [(1 : Byte)].length ≤ hbmBytes
    ∧ (0x7FFFFFFF00 / 128 < 0x7FFFFFFFFF / 128) := by decide

/-! ### Copies, barriers and queues -/

def cpyWitness (n : BitVec 20) : KF := ⟨0, 0, false, 4, 5, .imm n, 0, 0⟩
def cpyState (n : BitVec 20) : State := withWave (at_ (.cpy (cpyWitness n))) (fun x => { x with s := SMap.set x.s 0 4 0xFFF80 })
/-- A copy to the last bytes of crew memory, and one of no bytes. -/
theorem witness_cpy : ∃ k, MayRun (.cpy (cpyWitness 128)) (cpyState 128) k ∧ copyLegal k.kn.crw (cpyArgs (cpyWitness 128) k)
    ∧ ((cpyState 128).cluster k.cluster).copies.length < 256
    ∧ (cpyArgs (cpyWitness 128) k).rowlen * (cpyArgs (cpyWitness 128) k).rows ≠ 0 := by
  obtain ⟨k, h, a, b, c, d, e, f, g⟩ := runs (.cpy (cpyWitness 128)) (cpyState 128) (fun k =>
    (cpyArgs (cpyWitness 128) k).neg = false ∧ (cpyArgs (cpyWitness 128) k).dst % 16 = 0
    ∧ (cpyArgs (cpyWitness 128) k).src.toNat % 16 = 0 ∧ (cpyArgs (cpyWitness 128) k).rowlen % 16 = 0
    ∧ (cpyArgs (cpyWitness 128) k).dst + (cpyArgs (cpyWitness 128) k).rowlen * (cpyArgs (cpyWitness 128) k).rows ≤ k.kn.crw
    ∧ (∀ r, r < (cpyArgs (cpyWitness 128) k).rows → rowSrc (cpyArgs (cpyWitness 128) k).src (cpyArgs (cpyWitness 128) k).pitch r < 2 ^ 55
      ∧ (rowSrc (cpyArgs (cpyWitness 128) k).src (cpyArgs (cpyWitness 128) k).pitch r
          + (cpyArgs (cpyWitness 128) k).rowlen - 1) % 2 ^ 64 < 2 ^ 55)
    ∧ ((cpyState 128).cluster k.cluster).copies.length < 256
      ∧ (cpyArgs (cpyWitness 128) k).rowlen * (cpyArgs (cpyWitness 128) k).rows ≠ 0) (by decide)
  refine ⟨k, h, ⟨a, b, c, d, ?_, ?_, fun _ => ⟨e, f⟩⟩, g⟩
  · intro t; cases t
  · intro o t; cases t
theorem witness_cpy_empty : ∃ k, MayRun (.cpy (cpyWitness 0)) (cpyState 0) k ∧ copyLegal k.kn.crw (cpyArgs (cpyWitness 0) k)
    ∧ (cpyArgs (cpyWitness 0) k).rowlen * (cpyArgs (cpyWitness 0) k).rows = 0 := by
  obtain ⟨k, h, a, b, c, d, e⟩ := runs (.cpy (cpyWitness 0)) (cpyState 0) (fun k =>
    (cpyArgs (cpyWitness 0) k).neg = false ∧ (cpyArgs (cpyWitness 0) k).dst % 16 = 0
    ∧ (cpyArgs (cpyWitness 0) k).src.toNat % 16 = 0 ∧ (cpyArgs (cpyWitness 0) k).rowlen % 16 = 0
    ∧ (cpyArgs (cpyWitness 0) k).rowlen * (cpyArgs (cpyWitness 0) k).rows = 0) (by decide)
  refine ⟨k, h, ⟨a, b, c, d, ?_, ?_, fun t => absurd e t⟩, e⟩
  · intro t; cases t
  · intro o t; cases t

/-- A wave that has not waited, and one that waited for batch 3, which is complete. -/
def cpybAt (b : Option Nat) : State := withWave (at_ (.cpyb (cpyWitness 0))) (fun x => { x with batchWait := b })
theorem witness_cpyb : (∃ k, MayRun (.cpyb (cpyWitness 0)) (cpybAt none) k ∧ k.wv.batchWait = none
      ∧ (openBatches (cpybAt none) k.cluster k.w).length < 16)
    ∧ ∃ k, MayRun (.cpyb (cpyWitness 0)) (cpybAt (some 3)) k ∧ k.wv.batchWait = some 3
      ∧ 3 ∉ openBatches (cpybAt (some 3)) k.cluster k.w := ⟨runs _ _ _ (by decide), runs _ _ _ (by decide)⟩

/-- A copy of batch 3 is under way. -/
def copy3 : Copy := ⟨wave0, 0, 0, false, none, 0, none, 0, 0, 16, 1, 0, [0], 3, none, 0, none⟩
def cpywState : State := (at_ (.cpyw ⟨0, 0, false, 0, 0, .imm 2, 0, 0⟩)).modCluster 0 (fun c => { c with copies := [copy3] })
theorem witness_cpyw : ∃ k, MayRun (.cpyw ⟨0, 0, false, 0, 0, .imm 2, 0, 0⟩) cpywState k
    ∧ (∀ c ∈ (cpywState.cluster k.cluster).copies, c.wave = k.w → c.batch ≠ 0 → cpywArg ⟨0, 0, false, 0, 0, .imm 2, 0, 0⟩ k < c.batch) :=
  runs _ _ _ (by decide)

/-- BAR: a wave that has been let go; and the last wave of its crew to arrive. -/
def barState (f : WaveId → Wave → Wave) : State :=
  let s := at_ (.bar joinWitness)
  { s with waves := s.waves.map (fun p => (p.1, f p.1 p.2)) }
theorem witness_bar_out : ∃ k, MayRun (.bar joinWitness) (barState (fun _ x => { x with barOut := true })) k ∧ k.wv.barOut = true :=
  runs _ _ _ (by decide)
def barLast : State := barState (fun v x => if v.wave = 0 then x else if v.wave = 7 then { x with retired := true } else { x with barIn := true })
theorem witness_bar_last : ∃ k, MayRun (.bar joinWitness) barLast k ∧ k.wv.barIn = false ∧ k.wv.barOut = false
    ∧ k.wv.retired = false ∧ (k.vec = true ∨ k.wv.dstack = []) ∧ barLast.releaseWaits k.cluster k.w 0 = false ∧ barLast.NamesOnce
    ∧ (∀ v x, (v, x) ∈ barLast.waves → v.crew = k.w.crew → v ∉ k.waves → x.retired = true ∨ x.barIn = true) := by
  obtain ⟨k, h, a, b, c, d, r, e, f⟩ := runs (.bar joinWitness) barLast (fun k => k.wv.barIn = false ∧ k.wv.barOut = false
    ∧ k.wv.retired = false ∧ (k.vec = true ∨ k.wv.dstack = []) ∧ barLast.releaseWaits k.cluster k.w 0 = false
    ∧ ((barLast.waves.map Prod.fst).Nodup ∧ (barLast.gangs.map Prod.fst).Nodup ∧ (barLast.crews.map Prod.fst).Nodup
      ∧ (barLast.launches.map Prod.fst).Nodup)
    ∧ ∀ p ∈ barLast.waves, p.1.crew = k.w.crew → p.1 ∉ k.waves → p.2.retired = true ∨ p.2.barIn = true) (by decide)
  exact ⟨k, h, a, b, c, d, r, e, fun v x hv => f (v, x) hv⟩

/-- A barrier object with one arrival pending, of two, at the end of crew memory; the bytes are expected or not. -/
def barxWitness : KF := ⟨0, 0, false, 4, 5, .imm 16, 0, 0⟩
def baraWitness : KF := ⟨0, 0, false, 4, 5, .v 0, 0, 0⟩
def barxState (i : Instr) (tx : Int) : State := withCrew (withWave (at_ i) (fun x => { x with s := SMap.set x.s 0 5 0xFFFF0 }))
  (fun c => { c with crw := Memory.setLe [] 0xFFFF0 16 ((⟨tx, false, 2, 1⟩ : Bar).put 0) })
theorem witness_bara : ∃ k, MayRun (.bara baraWitness) (barxState (.bara baraWitness) 0) k
    ∧ (barxState (.bara baraWitness) 0).releaseWaits k.cluster k.w 0 = false
    ∧ (barxState (.bara baraWitness) 0).eccCrw k.w.crew (k.wv.rdS 5).toNat 16 = false
    ∧ (k.wv.rdS 5).toNat % 16 = 0 ∧ (k.wv.rdS 5).toNat + 16 ≤ k.kn.crw
    ∧ (Bar.of (Memory.le k.c.crw (k.wv.rdS 5).toNat 16)).count ≠ 0 ∧ (Bar.of (Memory.le k.c.crw (k.wv.rdS 5).toNat 16)).pend ≠ 0
    ∧ -(2 ^ 31) ≤ (Bar.of (Memory.le k.c.crw (k.wv.rdS 5).toNat 16)).tx + 0
    ∧ (Bar.of (Memory.le k.c.crw (k.wv.rdS 5).toNat 16)).tx + 0 < 2 ^ 31 := runs _ _ _ (by decide)
theorem witness_barx : ∃ k, MayRun (.barx barxWitness) (barxState (.barx barxWitness) (2 ^ 31 - 17)) k
    ∧ (barxState (.barx barxWitness) (2 ^ 31 - 17)).releaseWaits k.cluster k.w 0 = false
    ∧ (barxState (.barx barxWitness) (2 ^ 31 - 17)).eccCrw k.w.crew (k.wv.rdS 5).toNat 16 = false
    ∧ (k.wv.rdS 5).toNat % 16 = 0 ∧ (k.wv.rdS 5).toNat + 16 ≤ k.kn.crw
    ∧ (Bar.of (Memory.le k.c.crw (k.wv.rdS 5).toNat 16)).count ≠ 0 ∧ (Bar.of (Memory.le k.c.crw (k.wv.rdS 5).toNat 16)).pend ≠ 0
    ∧ -(2 ^ 31) ≤ (Bar.of (Memory.le k.c.crw (k.wv.rdS 5).toNat 16)).tx + ((opS barxWitness k.wv).extractLsb' 0 32).toInt
    ∧ (Bar.of (Memory.le k.c.crw (k.wv.rdS 5).toNat 16)).tx + ((opS barxWitness k.wv).extractLsb' 0 32).toInt < 2 ^ 31 :=
  runs _ _ _ (by decide)
def barwWitness : KF := ⟨0, 0, false, 0, 5, .imm 1, 0, 0⟩
theorem witness_barw : ∃ k, MayRun (.barw barwWitness) (barxState (.barw barwWitness) 0) k
    ∧ (barxState (.barw barwWitness) 0).eccCrw k.w.crew (k.wv.rdS 5).toNat 16 = false
    ∧ (k.wv.rdS 5).toNat % 16 = 0 ∧ (k.wv.rdS 5).toNat + 16 ≤ k.kn.crw
    ∧ (Bar.of (Memory.le k.c.crw (k.wv.rdS 5).toNat 16)).ph ≠ (opS barwWitness k.wv).getLsbD 0 := runs _ _ _ (by decide)

/-- Queue 7 of depth 2, with one entry. -/
def queue7 : Queue := ⟨0, 1, 2, [⟨5, 0xFFFFFFFF⟩], 65534, none⟩
def queueAt (i : Instr) : State := (at_ i).setQueue 0 7 queue7
def qpushWitness : KF := ⟨0, 0, false, 0, 3, .v 0, 7, 0⟩
theorem witness_qpush : ∃ k, MayRun (.qpush qpushWitness) (queueAt (.qpush qpushWitness)) k
    ∧ k.qbound (queueAt (.qpush qpushWitness)) 7 = true
    ∧ ((queueAt (.qpush qpushWitness)).queue k.cluster 7).entries.length + qGroups k
      ≤ ((queueAt (.qpush qpushWitness)).queue k.cluster 7).depth
    ∧ (queueAt (.qpush qpushWitness)).releaseWaits k.cluster k.w 0 = false := runs _ _ _ (by decide)
def qpopWitness : KF := ⟨0, 0, false, 4, 0, .v 0, 7, 2⟩
theorem witness_qpop : ∃ k x e, MayRun (.qpop qpopWitness) (queueAt (.qpop qpopWitness)) k
    ∧ k.qbound (queueAt (.qpop qpopWitness)) 7 = true
    ∧ qGroups k ≤ ((queueAt (.qpop qpopWitness)).queue k.cluster 7).depth
    ∧ qGroups k ≤ ((queueAt (.qpop qpopWitness)).queue k.cluster 7).entries.length
    ∧ (∀ i, i < qGroups k → ((queueAt (.qpop qpopWitness)).wave? (groupWave k i)).isSome = true) ∧ 0 < qGroups k
    ∧ (queueAt (.qpop qpopWitness)).wave? (groupWave k 0) = some x
    ∧ ((queueAt (.qpop qpopWitness)).queue k.cluster 7).entries[0]? = some e := by
  obtain ⟨k, h, a, b, c, d, e, f, g⟩ := runs (.qpop qpopWitness) (queueAt (.qpop qpopWitness)) (fun k =>
    k.qbound (queueAt (.qpop qpopWitness)) 7 = true
    ∧ qGroups k ≤ ((queueAt (.qpop qpopWitness)).queue k.cluster 7).depth
    ∧ qGroups k ≤ ((queueAt (.qpop qpopWitness)).queue k.cluster 7).entries.length
    ∧ (∀ i, i < qGroups k → ((queueAt (.qpop qpopWitness)).wave? (groupWave k i)).isSome = true) ∧ 0 < qGroups k
    ∧ ((queueAt (.qpop qpopWitness)).wave? (groupWave k 0)).isSome = true
    ∧ (((queueAt (.qpop qpopWitness)).queue k.cluster 7).entries[0]?).isSome = true) (by decide)
  exact ⟨k, _, _, h, a, b, c, d, e, (Option.some_get f).symm, (Option.some_get g).symm⟩

theorem witness_qnotify : ∃ k, MayRun (.qnotify qpushWitness) (queueAt (.qnotify qpushWitness)) k
    ∧ k.qbound (queueAt (.qnotify qpushWitness)) 7 = true
    ∧ ((queueAt (.qnotify qpushWitness)).queue k.cluster 7).trig < 65535
    ∧ (queueAt (.qnotify qpushWitness)).releaseWaits k.cluster k.w 1 = false := runs _ _ _ (by decide)
def trigWitness : KF := ⟨0, 0, false, 0, 5, .imm 0, 7, 0⟩
theorem witness_qbindTrig_none : ∃ k, MayRun (.qbindTrig trigWitness) (queueAt (.qbindTrig trigWitness)) k
    ∧ k.qbound (queueAt (.qbindTrig trigWitness)) 7 = true ∧ (k.wv.rdS 5).toNat = 0 ∧ opS trigWitness k.wv = 0 :=
  runs _ _ _ (by decide)
def trigState : State := paged (withWave (queueAt (.qbindTrig trigWitness)) (fun x => { x with s := SMap.set x.s 0 5 0xFF80 }))
theorem witness_qbindTrig : ∃ k p, MayRun (.qbindTrig trigWitness) trigState k
    ∧ k.qbound trigState 7 = true ∧ (k.wv.rdS 5).toNat ≠ 0 ∧ (k.wv.rdS 5).toNat % 128 = 0 ∧ (k.wv.rdS 5).toNat + 128 ≤ 2 ^ 55
    ∧ (trigState.unfocused.find k.cluster k.asid (k.wv.rdS 5).toNat 128 useLoad .thru).2 = .ok p := by
  obtain ⟨k, h, a, b, c, d, e⟩ := runs (.qbindTrig trigWitness) trigState (fun k => k.qbound trigState 7 = true
    ∧ (k.wv.rdS 5).toNat ≠ 0 ∧ (k.wv.rdS 5).toNat % 128 = 0 ∧ (k.wv.rdS 5).toNat + 128 ≤ 2 ^ 55
    ∧ (match (trigState.unfocused.find k.cluster k.asid (k.wv.rdS 5).toNat 128 useLoad .thru).2 with
      | .ok _ => true | .error _ => false) = true) (by decide)
  cases g : (trigState.unfocused.find k.cluster k.asid (k.wv.rdS 5).toNat 128 useLoad .thru).2 with
  | ok p => exact ⟨k, p, h, a, b, c, d, g⟩
  | error e' => rw [g] at e; cases e
def mapWitness : KF := ⟨0, 0, false, 0, 3, .v 0, 0x47, 0⟩
def mapAt (i : Instr) (m : List QMap) : State :=
  withGang (withWave ((at_ i).setQueue 0 7 queue7) (fun x => { x with qmaps := m })) (fun g => { g with pinned := true })
def sevenMaps : List QMap := (List.range 7).map (fun i => ⟨10 + i, 7, false⟩)
theorem witness_qbindIn : ∃ k, MayRun (.qbindIn mapWitness) (mapAt (.qbindIn mapWitness) sevenMaps) k
    ∧ k.qbound (mapAt (.qbindIn mapWitness) sevenMaps) 7 = true ∧ k.vec = false ∧ (k.g.pinned = true ∨ k.l.pin = true)
    ∧ k.wv.qmaps.length < 8 ∧ (∀ m ∈ k.wv.qmaps, m.reg ≠ KF.A mapWitness) := runs _ _ _ (by decide)
theorem witness_qbindUnmap : ∃ k m, MayRun (.qbindUnmap { mapWitness with c := 0xC0 })
    (mapAt (.qbindUnmap { mapWitness with c := 0xC0 }) [⟨3, 7, true⟩]) k ∧ m ∈ k.wv.qmaps ∧ m.reg = 3 := by
  obtain ⟨k, h, e⟩ := runs (.qbindUnmap { mapWitness with c := 0xC0 }) (mapAt (.qbindUnmap { mapWitness with c := 0xC0 }) [⟨3, 7, true⟩])
    (fun k => (⟨3, 7, true⟩ : QMap) ∈ k.wv.qmaps) (by decide)
  exact ⟨k, _, h, e, rfl⟩
theorem witness_qstat : (∃ k, MayRun (.qstat ⟨0, 0, false, 5, 0, .v 0, 7, 0⟩) (queueAt (.qstat ⟨0, 0, false, 5, 0, .v 0, 7, 0⟩)) k
      ∧ k.qbound (queueAt (.qstat ⟨0, 0, false, 5, 0, .v 0, 7, 0⟩)) 7 = true
      ∧ ((queueAt (.qstat ⟨0, 0, false, 5, 0, .v 0, 7, 0⟩)).queue k.cluster 7).entries.length < 2 ^ 16
      ∧ ((queueAt (.qstat ⟨0, 0, false, 5, 0, .v 0, 7, 0⟩)).queue k.cluster 7).depth < 2 ^ 16
      ∧ ((queueAt (.qstat ⟨0, 0, false, 5, 0, .v 0, 7, 0⟩)).queue k.cluster 7).trig < 2 ^ 16)
    ∧ ∃ k, MayRun (.qstat ⟨0, 0, false, 5, 0, .v 0, 63, 0⟩) (queueAt (.qstat ⟨0, 0, false, 5, 0, .v 0, 63, 0⟩)) k
      ∧ k.qbound (queueAt (.qstat ⟨0, 0, false, 5, 0, .v 0, 63, 0⟩)) 63 = false :=
  ⟨runs _ _ _ (by decide), runs _ _ _ (by decide)⟩

/-! ### Fabric words -/

/-- An operation that only waits, and a load that starts at once. -/
def fopWitness : KF := ⟨0, 0, false, 5, 6, .imm 0, 7, 0⟩
/-- The operation begins, and leaves room in the ring. -/
def begins (k : Ctx) (o : FOp) (s : State) : Bool :=
  match o.attempt k.w.crew k.c (k.spot s) s with
  | .begun t => decide ((t.asid k.asid).waiting.length ≤ (s.asid k.asid).waiting.length)
  | _ => false
theorem witness_freq : ∃ k, MayRun (.freq ⟨0, 0, false, 5, 0, .imm 64, 1, 0⟩) (at_ (.freq ⟨0, 0, false, 5, 0, .imm 64, 1, 0⟩)) k
    ∧ (fopOf ⟨0, 0, false, 5, 0, .imm 64, 1, 0⟩ k (.freq (opS ⟨0, 0, false, 5, 0, .imm 64, 1, 0⟩ k.wv) true)).isLoad = false
    ∧ (fopOf ⟨0, 0, false, 5, 0, .imm 64, 1, 0⟩ k (.freq (opS ⟨0, 0, false, 5, 0, .imm 64, 1, 0⟩ k.wv) true)).isDrain = false :=
  runs _ _ _ (by decide)
theorem witness_fdrain : ∃ k, MayRun (.fdrain fopWitness) (at_ (.fdrain fopWitness)) k
    ∧ (fopOf fopWitness k (.fdrain (opS fopWitness k.wv))).isDrain = true ∧ k.c.opOf k.w = none
    ∧ (fopOf fopWitness k (.fdrain (opS fopWitness k.wv))).early k.c = true ∧ begins k (fopOf fopWitness k (.fdrain (opS fopWitness k.wv)))
      (at_ (.fdrain fopWitness)).unfocused = true :=
  runs _ _ _ (by decide)
/-- A load of paddock 0 into place 0, which is free. -/
def kernelX : Kernel := probeKernel ((encode (.gate ⟨none, none, 0, 0⟩)).getD 0)
def badPaddock : Kernel := { kernelX with paddocks := [[[0xB000000000000000]]] }
def freePlace : Place := { probePlace with state := .free, frames := [] }
def sinkWord : BitVec 64 := 0xC090000000000000
def fcfgState : State := withCrew (withKernel (at_ (.fcfg fopWitness)) (fun n => { n with paddocks := [[[sinkWord]]] }))
  (fun c => { c with region := some ⟨1, 1, [freePlace], true, true⟩, rounds := [] })
theorem witness_fcfg : ∃ k, MayRun (.fcfg fopWitness) fcfgState k
    ∧ (fopOf fopWitness k (.fcfg (k.wv.rdS 6) (opS fopWitness k.wv) (k.wv.rdS 7))).isLoad = true ∧ k.c.opOf k.w = none
    ∧ (fopOf fopWitness k (.fcfg (k.wv.rdS 6) (opS fopWitness k.wv) (k.wv.rdS 7))).early k.c = true
    ∧ begins k (fopOf fopWitness k (.fcfg (k.wv.rdS 6) (opS fopWitness k.wv) (k.wv.rdS 7))) fcfgState.unfocused = true :=
  runs _ _ _ (by decide)
theorem witness_fsend : ∃ k, MayRun (.fsend ⟨0, 0, false, 0, 3, .imm 0, 2, 0⟩) (at_ (.fsend ⟨0, 0, false, 0, 3, .imm 0, 2, 0⟩)) k
    ∧ k.c.mapped k.kn (opS ⟨0, 0, false, 0, 3, .imm 0, 2, 0⟩ k.wv).toNat ≠ .unplaced := runs _ _ _ (by decide)
/-- The paddock has never been placed; the last free value is even, or odd. -/
def unplacedAt (n : Nat) : State :=
  { withCrew (at_ (.fsend ⟨0, 0, false, 0, 3, .imm 0, 2, 0⟩)) (fun c => { c with region := some ⟨1, 1, [freePlace], true, true⟩, rounds := [] })
    with free := n }
theorem witness_fsend_unplaced (n : Nat) (h : n = 0 ∨ n = 1) :
    ∃ k, MayRun (.fsend ⟨0, 0, false, 0, 3, .imm 0, 2, 0⟩) (unplacedAt n) k
      ∧ k.c.mapped k.kn (opS ⟨0, 0, false, 0, 3, .imm 0, 2, 0⟩ k.wv).toNat = .unplaced
      ∧ k.active (unplacedAt n) 0 false ≠ [] ∧ k.c.parkFull = [] := by
  rcases h with h | h <;> subst h <;> exact runs _ _ _ (by decide)
theorem witness_fsendOne : ∃ k x y, MayRun (.fsend ⟨0, 0, false, 0, 3, .imm 0, 2, 0⟩) (at_ (.fsend ⟨0, 0, false, 0, 3, .imm 0, 2, 0⟩)) k
    ∧ (at_ (.fsend ⟨0, 0, false, 0, 3, .imm 0, 2, 0⟩)).wave? (k.owner 31) = some x
    ∧ (at_ (.fsend ⟨0, 0, false, 0, 3, .imm 0, 2, 0⟩)).crew? k.w.crew = some y := by
  obtain ⟨k, h, a, b⟩ := runs (.fsend ⟨0, 0, false, 0, 3, .imm 0, 2, 0⟩) (at_ (.fsend ⟨0, 0, false, 0, 3, .imm 0, 2, 0⟩)) (fun k =>
    ((at_ (.fsend ⟨0, 0, false, 0, 3, .imm 0, 2, 0⟩)).wave? (k.owner 31)).isSome = true
    ∧ ((at_ (.fsend ⟨0, 0, false, 0, 3, .imm 0, 2, 0⟩)).crew? k.w.crew).isSome = true) (by decide)
  exact ⟨k, _, _, h, (Option.some_get a).symm, (Option.some_get b).symm⟩
theorem witness_fprio : (∃ k r, MayRun (.fprio ⟨0, 0, false, 0, 0, .imm 15, 0, 0⟩) (at_ (.fprio ⟨0, 0, false, 0, 0, .imm 15, 0, 0⟩)) k
      ∧ (opS ⟨0, 0, false, 0, 0, .imm 15, 0, 0⟩ k.wv).toNat < 16 ∧ k.c.region = some r ∧ k.c.opOf k.w = none)
    ∧ ∃ k, MayRun (.fprio ⟨0, 0, false, 0, 0, .imm 16, 0, 0⟩) (at_ (.fprio ⟨0, 0, false, 0, 0, .imm 16, 0, 0⟩)) k
      ∧ 16 ≤ (opS ⟨0, 0, false, 0, 0, .imm 16, 0, 0⟩ k.wv).toNat := by
  refine ⟨?_, runs _ _ _ (by decide)⟩
  obtain ⟨k, h, a, b⟩ := runs (.fprio ⟨0, 0, false, 0, 0, .imm 15, 0, 0⟩) (at_ (.fprio ⟨0, 0, false, 0, 0, .imm 15, 0, 0⟩)) (fun k =>
    (opS ⟨0, 0, false, 0, 0, .imm 15, 0, 0⟩ k.wv).toNat < 16 ∧ k.c.region.isSome = true ∧ k.c.opOf k.w = none) (by decide)
  exact ⟨k, _, h, a, (Option.some_get b.1).symm, b.2⟩
/-- FPRIO without a region, and behind a load of its wave. -/
def fprioAt (f : Crew → Crew) : State := withCrew (at_ (.fprio ⟨0, 0, false, 0, 0, .imm 15, 0, 0⟩)) f
theorem witness_fprio_other : (∃ k, MayRun (.fprio ⟨0, 0, false, 0, 0, .imm 15, 0, 0⟩) (fprioAt (fun c => { c with region := none, rounds := [] })) k
      ∧ (opS ⟨0, 0, false, 0, 0, .imm 15, 0, 0⟩ k.wv).toNat < 16 ∧ k.c.region = none ∧ k.c.opOf k.w = none)
    ∧ ∃ k, MayRun (.fprio ⟨0, 0, false, 0, 0, .imm 15, 0, 0⟩)
        (fprioAt (fun c => { c with fops := [⟨0, 0, 5, .fcfg 0 0 0, true, false, 0⟩] })) k
      ∧ (opS ⟨0, 0, false, 0, 0, .imm 15, 0, 0⟩ k.wv).toNat < 16 ∧ (k.c.opOf k.w).isSome = true :=
  ⟨runs _ _ _ (by decide), runs _ _ _ (by decide)⟩

/-- FabricStatuses: one operation for each kind and each of its statuses. -/
def crewOf (s : State) : Crew := match s.crew? probeCrew with | some x => x | none => Crew.start 0 1 0 false [] 0 0 0
def noRegion : Crew := { crewOf (at_ (.nop joinWitness)) with region := none }
theorem witness_freq_statuses : (crewOf (at_ (.nop joinWitness))).region.isSome = true ∧ noRegion.region = none
    ∧ 64 < (65 : Dword).toNat ∧ (64 : Dword) ≠ 0 ∧ (64 : Dword).toNat ≤ 64 := by decide
/-- Another crew holds every place of the slice but one. -/
def lastPlace : State := (withCrew (at_ (.nop joinWitness)) (fun _ => noRegion)).setCrew ⟨0, 1⟩ { noRegion with
  region := some ⟨1, 63, ((List.range 63).map (fun n => { freePlace with bay := n / 4, ctx := n % 4 })), true, false⟩ }
theorem witness_freq_granted : ∃ h t, lastPlace.grant probeCrew noRegion 1 true false = .ok h t := by
  have h : lastPlace.freePlaces noRegion.cluster = [(0, 15, 3)] := by decide
  simp only [State.grant, State.choosePlaces, h, shuffle, List.length_singleton, Nat.le_refl, if_true, Nat.mod_one]
  exact ⟨_, _, rfl⟩
theorem witness_freq_full : lastPlace.grant probeCrew noRegion 2 true false = .noRoom := rfl

/-- FREL of the region with handle 1, its place loaded or free, and of another handle. -/
def oneRegion (p : Place) : Region := ⟨1, 1, [p], true, true⟩
def withPlace (p : Place) : Crew := { noRegion with region := some (oneRegion p), rounds := [] }
theorem witness_frel : (2 : Dword).toNat ≠ (oneRegion freePlace).handle ∧ (1 : Dword).toNat = (oneRegion freePlace).handle
    ∧ (∃ p ∈ (oneRegion probePlace).places, p.live = true) ∧ (∀ p ∈ (oneRegion freePlace).places, p.live = false) := by decide

/-- FMODE and FSTAT of a place that is loaded, free, of the other mode already, and not in the region. -/
theorem witness_fmode : (withPlace freePlace).named? 1 = none ∧ (withPlace probePlace).named? 0 = some probePlace
    ∧ probePlace.live = true ∧ (withPlace freePlace).named? 0 = some freePlace ∧ freePlace.live = false
    ∧ freePlace.draining = false ∧ (withPlace freePlace).mx = [] ∧ freePlace.sys = false := by decide
theorem witness_fmode_full : ((withCrew (at_ (.nop joinWitness)) (fun _ => withPlace { freePlace with sys := true })).bayPlaces 0 0).any
      (fun q => q.2.2.sys) = true
    ∧ ((withCrew (at_ (.nop joinWitness)) (fun _ => withPlace freePlace)).bayPlaces 0 0).any (fun q => q.2.2.sys) = false := by decide

/-- FABRIC_OP_COMPLETE: the wave's operation is the oldest of its crew and gives a status. -/
def fopState : State := withCrew (at_ (.nop joinWitness)) (fun c => { c with fops := [⟨0, 0, 5, .fstat 0, false, false, 0⟩] })
theorem witness_fabricOpComplete : ∃ x wv v t, fopState.crew? wave0.crew = some x ∧ x.saved = false ∧ fopState.wave? wave0 = some wv
    ∧ x.opOf wave0 = some (0, ⟨0, 0, 5, .fstat 0, false, false, 0⟩)
    ∧ (⟨0, 0, 5, .fstat 0, false, false, 0⟩ : FOp).attempt wave0.crew x noSpot fopState = .over v t
    ∧ ringFits (fopState.asidOf wave0.crew) fopState
      ((t.modCrew wave0.crew (fun x => { x with fops := x.fops.eraseIdx 0 })).modWave wave0 (fun y => y.wrS 5 v)) :=
  ⟨Option.get _ (by decide), Option.get _ (by decide), _, _, (Option.some_get _).symm, by decide, (Option.some_get _).symm, by decide, rfl,
    Nat.le_refl 0⟩
/-- A drain whose turn comes; a load that is over; FCFG and FDRAIN that end at once, with each status. -/
def drainOp : FOp := ⟨0, 0, 5, .fdrain 0, false, false, 0⟩
def drainOpState : State := withCrew (at_ (.nop joinWitness)) (fun c => { c with fops := [drainOp] })
theorem witness_fabricOpBegins : drainOpState.crew? wave0.crew = some (crewOf drainOpState)
    ∧ (crewOf drainOpState).opOf wave0 = some (0, drainOp)
    ∧ ∃ t, drainOp.attempt wave0.crew (crewOf drainOpState) noSpot drainOpState = .begun t
      ∧ ringFits (drainOpState.asidOf wave0.crew) drainOpState t := ⟨by decide, by decide, _, rfl, Nat.le_refl 0⟩
theorem witness_load_statuses : (oneRegion freePlace).granted = 1 ∧ kernelX.paddocks.length ≤ 1 ∧ edgeBad 0x00D01000 = true
    ∧ 0 < kernelX.paddocks.length ∧ edgeBad 0 = false ∧ loadBusy (oneRegion probePlace) 0 0 probePlace = true
    ∧ loadBusy (oneRegion freePlace) 0 0 freePlace = false ∧ (at_ (.nop joinWitness)).slotBusy (withPlace freePlace) badPaddock 0 = false
    ∧ (loadRefusal badPaddock [] ((at_ (.nop joinWitness)).cluster 0) 0 false).isSome = true
    ∧ freePlace.state = .free ∧ freePlace.next = [] := by decide

/-! ### Matrix words -/

def mxGeometry : Geometry := ⟨0, 8, 1⟩
def matrixAt (i : Instr) (a : Dword) (mx : List MxItem) : State :=
  withCrew (withWave (at_ i) (fun x => { x with s := SMap.set x.s 0 4 a })) (fun c => { c with geometry := some mxGeometry, mx := mx })
/-- Cell 7, the last of the array, with BF16 weights at the highest address. -/
def mxwWitness : KF := ⟨0, 0, false, 0, 4, .imm 7, 3, 0⟩
theorem witness_mxw : ∃ k, MayRun (.mxw mxwWitness) (matrixAt (.mxw mxwWitness) 0x7FFFFFFFFFFFC0 []) k
    ∧ ((∀ o ∈ k.c.fops, ¬(o.gang = k.w.gang ∧ o.wave = k.w.wave)) ∧ (k.c.mxOf k.w.gang k.w.wave).length < 16)
    ∧ k.c.geometry = some mxGeometry ∧ argB mxwWitness k < mxGeometry.kb * mxGeometry.nb
    ∧ arrayFmt k.c mxGeometry (mxwWitness.c.extractLsb' 0 6) = none ∧ k.c.fmtWaits (fld mxwWitness.c 5 0) = false
    ∧ ((k.wv.rdS (KF.A mxwWitness)).toNat % 64 = 0 ∧ (k.wv.rdS (KF.A mxwWitness)).toNat < 2 ^ 55) := runs _ _ _ (by decide)
theorem witness_mxsc_mxz : (∃ k, MayRun (.mxsc mxwWitness) (matrixAt (.mxsc mxwWitness) 64 []) k
      ∧ argB mxwWitness k < mxGeometry.kb * mxGeometry.nb ∧ (k.wv.rdS (KF.A mxwWitness)).toNat % 64 = 0)
    ∧ ∃ k, MayRun (.mxz mxwWitness) (matrixAt (.mxz mxwWitness) 64 []) k ∧ argB mxwWitness k < mxGeometry.kb * mxGeometry.nb :=
  ⟨runs _ _ _ (by decide), runs _ _ _ (by decide)⟩

/-- A pass of 16 rows over column 0, its descriptor at the end of the page. -/
def mxaWitness : KF := ⟨0, 0, false, 0, 4, .imm 0, 3, 0⟩
def mxaState : State :=
  let s := paged (matrixAt (.mxa mxaWitness) 0xFFC0 [])
  { s with mem := Memory.setLe s.mem 0x4FFC8 8 16 }
set_option exponentiation.threshold 1024 in
set_option maxRecDepth 8000 in
theorem witness_mxa : ∃ k s1 p, MayRun (.mxa mxaWitness) mxaState k
    ∧ wordAccess k (k.wv.rdS (KF.A mxaWitness)).toNat 64 useLoad .thru mxaState.unfocused = (s1, .ok p)
    ∧ mxShape mxGeometry ((recDwords (s1.readAt k 64 .thru p).2).take 8) = false := by
  obtain ⟨k, h, t⟩ := runs (.mxa mxaWitness) mxaState (fun k =>
    (match wordAccess k (k.wv.rdS (KF.A mxaWitness)).toNat 64 useLoad .thru mxaState.unfocused with
      | (s1, .ok p) => !mxShape mxGeometry ((recDwords (s1.readAt k 64 .thru p).2).take 8)
      | _ => false) = true) (by decide)
  split at t
  · rename_i s1 p e
    exact ⟨k, s1, p, h, e, by simpa using t⟩
  · cases t

/-- MXC: no systolic place; one, with a word that is bad, and one that is right while work is in flight and when none is. -/
def mxcWitness : KF := ⟨0, 0, false, 8, 4, .v 0, 0, 0⟩
def sysAt (a : Dword) (mx : List MxItem) : State :=
  withCrew (matrixAt (.mxc mxcWitness) a mx) (fun c => { c with region := some (oneRegion { freePlace with sys := true }) })
def zeroItem : MxItem := ⟨.zero, 0, 0, 1, false, 0, 0, none, 0, none, 0, false, 0, [], 0, 0, none⟩
theorem witness_mxc : (∃ k, MayRun (.mxc mxcWitness) (matrixAt (.mxc mxcWitness) 0 []) k ∧ k.c.sysPlaces = [])
    ∧ (∃ k, MayRun (.mxc mxcWitness) (sysAt 3 []) k ∧ k.c.sysPlaces ≠ [] ∧ fld (k.wv.rdS (KF.A mxcWitness)) 1 0 = 3)
    ∧ (∃ k, MayRun (.mxc mxcWitness) (sysAt 0x700 [zeroItem]) k ∧ k.c.sysPlaces ≠ [] ∧ k.c.mx ≠ []
      ∧ ¬(8 * k.c.sysPlaces.length < (fld (k.wv.rdS (KF.A mxcWitness)) 13 8 + 1) * (fld (k.wv.rdS (KF.A mxcWitness)) 21 16 + 1)))
    ∧ ∃ k, MayRun (.mxc mxcWitness) (sysAt 0x700 []) k ∧ k.c.sysPlaces ≠ [] ∧ k.c.mx = [] :=
  ⟨runs _ _ _ (by decide), runs _ _ _ (by decide), runs _ _ _ (by decide), runs _ _ _ (by decide)⟩
theorem witness_mxwait : ∃ k, MayRun (.mxwait joinWitness) (matrixAt (.mxwait joinWitness) 0 [zeroItem]) k
    ∧ ((∀ o ∈ k.c.fops, ¬(o.gang = k.w.gang ∧ o.wave = k.w.wave)) ∧ (k.c.mxOf k.w.gang k.w.wave).length < 16)
    ∧ k.c.mxOf k.w.gang k.w.wave = [] := runs _ _ _ (by decide)

/-! ### Equivalence points and EXIT -/

/-- EXIT: some lanes of the path; the last lanes of a wave; a gang in vector form. -/
def exitKF : KF := ⟨0, 1, false, 0, 0, .v 0, 0, 0⟩
def exitState (live mask m : Word) : State := withWave (at_ (.exit exitKF)) (fun x =>
    { x with exited := ~~~live, mask := mask, m := SMap.set x.m 0 1 m })
theorem witness_exit_some : ∃ k, MayRun (.exit exitKF) (exitState 0xFFFFFFFF 0xFFFFFFFF 0x80000001) k ∧ k.vec = false
    ∧ k.wv.mask &&& ~~~(k.on exitKF k.w k.wv) ≠ 0 ∧ k.inside (k.wv.pc + 8).toNat = true
    ∧ k.inside (k.wv.pc.toNat + 8) = true := runs _ _ _ (by decide)
theorem witness_exit_last : ∃ k, MayRun (.exit exitKF) (exitState 1 1 1) k ∧ k.vec = false
    ∧ k.on exitKF k.w k.wv = k.wv.mask ∧ k.wv.dstack = [] ∧ k.wv.exited ||| k.wv.mask = 0xFFFFFFFF := runs _ _ _ (by decide)
theorem witness_exit_restart : ∃ k, MayRun (.exit exitKF) (exitState 3 1 1) k ∧ k.vec = false
    ∧ k.on exitKF k.w k.wv = k.wv.mask ∧ k.wv.dstack = [] ∧ k.wv.exited ||| k.wv.mask ≠ 0xFFFFFFFF := runs _ _ _ (by decide)
theorem witness_exit_vector : ∃ k, MayRun (.exit joinWitness) (vecAt (.exit joinWitness)) k ∧ k.vec = true
    ∧ (∀ v x, v ∈ k.waves → (vecAt (.exit joinWitness)).wave? v = some x →
        x.exited ||| lanesOf ((vecAt (.exit joinWitness)).takes k.gid) v.wave = 0xFFFFFFFF) := by
  obtain ⟨k, h, e, t⟩ := runs (.exit joinWitness) (vecAt (.exit joinWitness)) (fun k => k.vec = true
    ∧ ∀ v ∈ k.waves, ((vecAt (.exit joinWitness)).wave? v).all (fun x =>
        x.exited ||| lanesOf ((vecAt (.exit joinWitness)).takes k.gid) v.wave == 0xFFFFFFFF) = true) (by decide)
  refine ⟨k, h, e, fun v x hv hx => ?_⟩
  have q := t v hv
  rw [hx] at q
  simpa using q

/-- EXIT of the last lanes of the path: a path waits in the stack, or none of its entries keeps a lane. -/
def exitStack (under : Word) : State := withWave (at_ (.exit exitKF)) (fun x => { x with
  mask := 0xF, m := SMap.set x.m 0 1 0xFFFFFFFF, exited := 0xFFFFFF00
  dstack := [⟨.path, 0, 0xF, 0, 8, 0⟩, ⟨.path, 0, under, 0, 8, 0⟩] })
theorem witness_exit_resumes : ∃ k y, MayRun (.exit exitKF) (exitStack 0xF0) k ∧ k.vec = false
    ∧ k.on exitKF k.w k.wv = k.wv.mask
    ∧ k.wv.dstack.map (fun e => { e with mask := e.mask &&& ~~~k.wv.mask, pend := e.pend &&& ~~~k.wv.mask })
      = [⟨.path, 0, 0, 0, 8, 0⟩, ⟨.path, 0, 0xF0, 0, 8, 0⟩]
    ∧ resumes k.wv [⟨.path, 0, 0, 0, 8, 0⟩, ⟨.path, 0, 0xF0, 0, 8, 0⟩] y ∧ k.inside y.pc.toNat = true := by
  obtain ⟨k, h, a, b, c, d⟩ := runs (.exit exitKF) (exitStack 0xF0) (fun k => k.vec = false
    ∧ k.on exitKF k.w k.wv = k.wv.mask
    ∧ k.wv.dstack.map (fun e => { e with mask := e.mask &&& ~~~k.wv.mask, pend := e.pend &&& ~~~k.wv.mask })
      = [⟨.path, 0, 0, 0, 8, 0⟩, ⟨.path, 0, 0xF0, 0, 8, 0⟩] ∧ k.inside 8 = true) (by decide)
  exact ⟨k, _, h, a, b, c, resumes_path k.wv [⟨.path, 0, 0, 0, 8, 0⟩] ⟨.path, 0, 0xF0, 0, 8, 0⟩ [] (by simp) (by decide) rfl, d⟩
theorem witness_exit_empty : ∃ k, MayRun (.exit exitKF) (exitStack 0xF) k ∧ k.vec = false ∧ k.on exitKF k.w k.wv = k.wv.mask
    ∧ (∀ e ∈ k.wv.dstack.map (fun e => { e with mask := e.mask &&& ~~~k.wv.mask, pend := e.pend &&& ~~~k.wv.mask }), e.mask = 0) :=
  runs _ _ _ (by decide)

/-- EQP 1: a wave that others have still to follow, the last wave of its gang, a gang in vector form, and a wave at a
point whose decision is due. -/
def eqpKF : KF := ⟨0, 0, false, 0, 0, .v 0, 0, 1⟩
def eqpKernel (s : State) : State := withKernel s (fun n => { n with eqps := [⟨1, 1, 0, 0, 0⟩], eqpT := [(1, 0)] })
def eqpState (f : WaveId → Wave → Wave) : State :=
  let s := eqpKernel (at_ (.eqp eqpKF))
  { s with waves := s.waves.map (fun p => (p.1, f p.1 p.2)) }
def eqpFirst : State := eqpState (fun _ x => x)
def eqpLast : State := eqpState (fun v x => if v.wave = 0 then x else { x with arrived := some 1 })
def afterArrival (s : State) (k : Ctx) : State :=
  ((countIssue (.eqp eqpKF) k s.unfocused s.unfocused).modWave k.w (fun x => { x with arrived := some 1, stall := .eqp, bpDone := true })).modGang k.gid
    (fun g => { g with point := some 1 })
theorem witness_eqp_waits : ∃ k, MayRun (.eqp eqpKF) eqpFirst k ∧ (gctx? eqpFirst k.gid).isSome = true ∧ k.wv.arrived = none
    ∧ (k.kn.eqp? 1).isSome = true ∧ k.vec = false ∧ k.g.serial = none ∧ k.wv.dstack = [] ∧ (k.g.point = none ∨ k.g.point = some 1)
    ∧ (afterArrival eqpFirst k).allArrived k.gid = false := runs _ _ _ (by decide)
theorem witness_eqp_last : ∃ k, MayRun (.eqp eqpKF) eqpLast k ∧ (gctx? eqpLast k.gid).isSome = true ∧ k.wv.arrived = none
    ∧ (k.kn.eqp? 1).isSome = true ∧ k.vec = false ∧ k.g.serial = none ∧ k.wv.dstack = [] ∧ (k.g.point = none ∨ k.g.point = some 1)
    ∧ (afterArrival eqpLast k).allArrived k.gid = true := runs _ _ _ (by decide)
theorem witness_eqp_vector : ∃ k, MayRun (.eqp eqpKF) (eqpKernel (vecAt (.eqp eqpKF))) k ∧ k.wv.arrived = none
    ∧ (k.kn.eqp? 1).isSome = true ∧ k.vec = true ∧ k.g.serial = none ∧ (k.g.point = none ∨ k.g.point = some 1) :=
  runs _ _ _ (by decide)
/-- The first run of a gang in vector form under a SERIAL map. -/
def serialState : State := withGang (eqpKernel (vecAt (.eqp eqpKF))) (fun g => { g with serial := some ⟨0, 0, 1⟩ })
theorem witness_eqp_serial : ∃ k, MayRun (.eqp eqpKF) serialState k ∧ (gctx? serialState k.gid).isSome = true ∧ k.wv.arrived = none
    ∧ (k.kn.eqp? 1).isSome = true ∧ k.vec = true ∧ k.g.serial = some ⟨0, 0, 1⟩ ∧ (k.g.point = none ∨ k.g.point = some 1)
    ∧ fopPending k (runRegs k 1) = false ∧ recvPending k serialState (runRegs k 1) = false := runs _ _ _ (by decide)
def eqpDue : State := withGang (eqpState (fun _ x => { x with arrived := some 1 })) (fun g => { g with due := some 1, pinned := true })
theorem witness_eqp_due : ∃ k, MayRun (.eqp eqpKF) eqpDue k ∧ k.wv.arrived.isSome = true ∧ k.g.due.isSome = true :=
  runs _ _ _ (by decide)
theorem witness_PinnedDecisions : ∃ k, gctx? eqpDue gang0 = some k ∧ k.g.due = some 1 ∧ eqpDue.mayDecide k = true
    ∧ k.g.dbgForm = none ∧ k.g.moving = none ∧ k.g.pinned = true ∧ k.g.form = 0 ∧ k.g.slots = false ∧ k.kn.landsIn 1 0 = true :=
  ⟨Option.get _ (by decide), (Option.some_get _).symm, by decide, by decide, by decide, by decide, by decide, by decide, by decide,
    by decide⟩
/-- EQP 1 is the last word of the version. -/
def eqpEnds : State := withKernel eqpDue (fun n => { n with tLen := 8 })
theorem witness_PinnedDecisions_ends : ∃ k, gctx? eqpEnds gang0 = some k ∧ k.g.due = some 1 ∧ eqpEnds.mayDecide k = true
    ∧ k.g.dbgForm = none ∧ k.g.moving = none ∧ k.g.pinned = true ∧ k.g.form = 0 ∧ k.g.slots = false ∧ k.kn.landsIn 1 0 = false :=
  ⟨Option.get _ (by decide), (Option.some_get _).symm, by decide, by decide, by decide, by decide, by decide, by decide, by decide,
    by decide⟩

/-- A breakpoint on point 1, and a ring that has no room for its record. -/
def breakAt1 (s : State) : State := s.modAsid 0 (fun a => { a with
  bps := [(0, ⟨0xA000000000000001, 0, 0⟩)], frqBase := 0x100000, log2n := 10, tail := 1023 })
theorem witness_eqp_breaks : ∃ k, MayRun (.eqp eqpKF) (breakAt1 eqpLast) k
    ∧ breakWaits k (breakAt1 eqpLast).unfocused ((afterArrival (breakAt1 eqpLast) k).reach k.gid 1) = true := runs _ _ _ (by decide +kernel)
/-- The last lanes of a wave exit, and all others of the gang wait at point 1. -/
def exitReaches : State := breakAt1 (let s := eqpKernel (exitState 1 1 1)
  { s.modGang gang0 (fun g => { g with point := some 1 }) with
    waves := s.waves.map (fun p => (p.1, if p.1.wave = 0 then p.2 else { p.2 with arrived := some 1 })) })
theorem witness_exit_breaks : ∃ k, MayRun (.exit exitKF) exitReaches k
    ∧ breakWaits k exitReaches.unfocused (exited exitKF k exitReaches.unfocused (exitReaches.unfocused.setWave k.w k.wv.retire) true)
      = true := runs _ _ _ (by decide +kernel)
/-- EQP 1, at the end of the version, of the last wave to arrive. -/
def eqpLastEnds : State := withKernel (withGang eqpLast (fun g => { g with pinned := true })) (fun n => { n with tLen := 8 })
theorem witness_eqp_falls : ∃ k, MayRun (.eqp eqpKF) eqpLastEnds k
    ∧ eqpFalls k 1 ((afterArrival eqpLastEnds k).reach k.gid 1) = true := runs _ _ _ (by decide +kernel)
theorem witness_eqp_ends : ∃ k, MayRun (.eqp eqpKF) eqpLast k
    ∧ eqpFalls k 1 ((afterArrival eqpLast k).reach k.gid 1) = false
    ∧ breakWaits k eqpLast.unfocused ((afterArrival eqpLast k).reach k.gid 1) = false := runs _ _ _ (by decide +kernel)

/-- GAITR of a counter, of a point beyond the table, and of an entry of the table. -/
def gaitrKF (n : BitVec 20) (c : BitVec 8) : KF := ⟨0, 0, false, 5, 0, .imm n, c, 0⟩
theorem witness_gaitr : (∃ k v, MayRun (.gaitr (gaitrKF 0 6)) (at_ (.gaitr (gaitrKF 0 6))) k
      ∧ [k.g.issue, k.g.laneop, k.g.memtx, k.g.fire, k.g.hop, k.g.cost.toNat, k.g.decision.toNat][fld (gaitrKF 0 6).c 3 0]? = some v)
    ∧ (7 ≤ fld (gaitrKF 4096 7).c 3 0 ∧ ∃ k, MayRun (.gaitr (gaitrKF 4096 7)) (at_ (.gaitr (gaitrKF 4096 7))) k
      ∧ 4095 < (opS (gaitrKF 4096 7) k.wv).toNat)
    ∧ ∃ k t, MayRun (.gaitr (gaitrKF 4095 0x37)) (paged (at_ (.gaitr (gaitrKF 4095 0x37)))) k
      ∧ (opS (gaitrKF 4095 0x37) k.wv).toNat ≤ 4095
      ∧ (paged (at_ (.gaitr (gaitrKF 4095 0x37)))).walk k.asid (k.l.gaitVa 4095 (fld (gaitrKF 4095 0x37).c 5 4)) = .ok t := by
  refine ⟨?_, ⟨by decide, runs _ _ _ (by decide)⟩, ?_⟩
  · obtain ⟨k, h, _⟩ := runs (.gaitr (gaitrKF 0 6)) (at_ (.gaitr (gaitrKF 0 6))) (fun _ => True) (by decide)
    exact ⟨k, _, h, rfl⟩
  · obtain ⟨k, h, e, t⟩ := runs (.gaitr (gaitrKF 4095 0x37)) (paged (at_ (.gaitr (gaitrKF 4095 0x37)))) (fun k =>
      (opS (gaitrKF 4095 0x37) k.wv).toNat ≤ 4095
      ∧ (match (paged (at_ (.gaitr (gaitrKF 4095 0x37)))).walk k.asid (k.l.gaitVa 4095 (fld (gaitrKF 4095 0x37).c 5 4)) with
        | .ok _ => true | .error _ => false) = true) (by decide)
    split at t
    · rename_i u g
      exact ⟨k, u, h, e, g⟩
    · cases t

/-! ### Class 10 -/

/-- The ring of address space 0: 2^10 records at physical address 0x100000, with room or full. -/
def ringAt (i : Instr) (tail : BitVec 16) : State := (at_ i).modAsid 0 (fun a => { a with frqBase := 0x100000, log2n := 10, tail := tail })
def trapKF (b : BitVec 8) : KF := ⟨0, 0, false, 0, 0, .imm 7, b, 0⟩
theorem witness_trap : (∃ k, MayRun (.trap (trapKF 0)) (ringAt (.trap (trapKF 0)) 1022) k ∧ k.ringRoom (ringAt (.trap (trapKF 0)) 1022) = true)
    ∧ (∃ k, MayRun (.trap (trapKF 1)) (ringAt (.trap (trapKF 1)) 1022) k ∧ k.ringRoom (ringAt (.trap (trapKF 1)) 1022) = true)
    ∧ ∃ k, MayRun (.trap (trapKF 1)) (ringAt (.trap (trapKF 1)) 1023) k ∧ k.ringRoom (ringAt (.trap (trapKF 1)) 1023) = false :=
  ⟨runs _ _ _ (by decide), runs _ _ _ (by decide), runs _ _ _ (by decide)⟩
theorem witness_brk : (∃ k, MayRun (.brk (trapKF 0)) (ringAt (.brk (trapKF 0)) 0) k ∧ k.ringRoom (ringAt (.brk (trapKF 0)) 0) = true)
    ∧ ∃ k, MayRun (.brk (trapKF 0)) (ringAt (.brk (trapKF 0)) 1023) k ∧ k.ringRoom (ringAt (.brk (trapKF 0)) 1023) = false :=
  ⟨runs _ _ _ (by decide), runs _ _ _ (by decide)⟩

/-- CYC.ROW of a place of the region and of one that it does not have. -/
def cycKF (n : BitVec 20) : KF := ⟨0, 0, false, 6, 0, .imm n, 6, 0⟩
theorem witness_cycRow : (∃ k p, MayRun (.cycRow (cycKF 0)) (at_ (.cycRow (cycKF 0))) k ∧ k.c.place? (opS (cycKF 0) k.wv).toNat = some p)
    ∧ ∃ k, MayRun (.cycRow (cycKF 1)) (at_ (.cycRow (cycKF 1))) k ∧ k.c.place? (opS (cycKF 1) k.wv).toNat = none := by
  refine ⟨?_, runs _ _ _ (by decide)⟩
  obtain ⟨k, h, e⟩ := runs (.cycRow (cycKF 0)) (at_ (.cycRow (cycKF 0))) (fun k => (k.c.place? (opS (cycKF 0) k.wv).toNat).isSome = true) (by decide)
  exact ⟨k, _, h, (Option.some_get e).symm⟩

/-- The words on a doubleword or a record in memory: their access meets no cause. -/
def memKF : KF := ⟨0, 0, false, 13, 4, .imm 0, 0, 0⟩
def wordAt (i : Instr) (a : Dword) : State := paged (withWave (at_ i) (fun x => { x with s := SMap.set x.s 0 4 a }))
theorem access_ok (i : Instr) (s : State) (n : Nat) (u : Use) (c : L1Use) (N : Ctx → State → At → Bool)
    (h : runsWith i s (fun k => match wordAccess k (k.wv.rdS 4).toNat n u c s.unfocused with
      | (t, .ok p) => N k t p
      | _ => false) = true) :
    ∃ k t p, MayRun i s k ∧ wordAccess k (k.wv.rdS 4).toNat n u c s.unfocused = (t, .ok p) ∧ N k t p = true := by
  obtain ⟨k, hk, e⟩ := runs i s (fun k => (match wordAccess k (k.wv.rdS 4).toNat n u c s.unfocused with
      | (t, .ok p) => N k t p
      | _ => false) = true) (by simpa using h)
  split at e
  · rename_i t p g
    exact ⟨k, t, p, hk, g, e⟩
  · cases e
theorem witness_launch : ∃ k t p, MayRun (.launch memKF) (wordAt (.launch memKF) 0xFF80) k
    ∧ wordAccess k (k.wv.rdS 4).toNat 128 useLoad .thru (wordAt (.launch memKF) 0xFF80).unfocused = (t, .ok p)
    ∧ (!(wordAt (.launch memKF) 0xFF80).releaseWaits k.cluster k.w 1) = true :=
  access_ok _ _ _ _ _ (fun k _ _ => !(wordAt (.launch memKF) 0xFF80).releaseWaits k.cluster k.w 1) (by decide)
theorem witness_waitev : ∃ k t p, MayRun (.waitev memKF) (wordAt (.waitev memKF) 0xFFF8) k
    ∧ wordAccess k (k.wv.rdS 4).toNat 8 useLoad .past (wordAt (.waitev memKF) 0xFFF8).unfocused = (t, .ok p)
    ∧ decide ((opS memKF k.wv).toNat ≤ (t.readAt k 8 .past p).2) = true :=
  access_ok _ _ _ _ _ (fun k t p => decide ((opS memKF k.wv).toNat ≤ (t.readAt k 8 .past p).2)) (by decide)
theorem witness_sigev : ∃ k t p, MayRun (.sigev memKF) (wordAt (.sigev memKF) 0xFFF8) k
    ∧ wordAccess k (k.wv.rdS 4).toNat 8 useStore .past (wordAt (.sigev memKF) 0xFFF8).unfocused = (t, .ok p)
    ∧ (!(wordAt (.sigev memKF) 0xFFF8).releaseWaits k.cluster k.w 1) = true :=
  access_ok _ _ _ _ _ (fun k _ _ => !(wordAt (.sigev memKF) 0xFFF8).releaseWaits k.cluster k.w 1) (by decide)

/-- A launch record that its queue takes, and one that is bad; a queue of another address space. -/
def record1 : List Dword := [0, 256, 0x1, 0x1, 0, 0, 0, 0, 0, 0, 0, 0, 0, 0, 0, 0]
theorem witness_enqStatus : (63 < 64 ∧ (SMap.get State.reset.lqOwner 0 63).toNat = 0 ∧ State.reset.jobOff 0 = false)
    ∧ badRec 0 record1 = false ∧ badRec 0 (record1.set 2 0) = true ∧ State.reset.queued 63 < 256 := by decide

/-! ### Nodes -/

/-- As `nodAt`, the left operand being a value or an error. -/
def nodeWith (i : Instr) (l : Dword) (lerr : Bool) (r : Dword) : State :=
  { nodAt i with focus := .node ⟨probeCrew, 0, (⟨0, 0, 0, 0, l, lerr, r, false, false, none⟩ : Ready)⟩ }
def withFrame (s : State) (f : Frame → Frame) : State := s.modPlace probeCrew 0 (fun p => { p with frames := p.frames.map f })
def ndf (w : BitVec 6) (imm : BitVec 24) : NDF := ⟨none, none, w, imm⟩

theorem witness_node_error : ∃ k e, MayFire (nodeWith (.gate (ndf 0 0)) 0x203 true 0) k ∧ k.err = some e := by
  obtain ⟨k, h, t⟩ := fires (nodeWith (.gate (ndf 0 0)) 0x203 true 0) (fun k => k.err = some 0x203) (by decide)
  exact ⟨k, _, h, t⟩
/-- The records of a firing find room in the ring: an error at a node that ends the round; tags that do not fit; a return
slot beyond the block; an error that ends a round at SINK; a start that is held with the backwater full. -/
def ringed (s : State) : State := s.modAsid 0 (fun a => { a with frqBase := 0x100000, log2n := 10 })
theorem fits_fire (s : State) (P : NCtx → Prop) [DecidablePred P] (E : NCtx → State)
    (h : firesWith s (fun k => decide (P k ∧ ((E k).asid (s.asidOf k.c)).waiting.length ≤ (s.unfocused.asid (s.asidOf k.c)).waiting.length)) = true) :
    ∃ k, MayFire s k ∧ P k ∧ fitsRing s k (E k) :=
  fires s (fun k => P k ∧ ((E k).asid (s.asidOf k.c)).waiting.length ≤ (s.unfocused.asid (s.asidOf k.c)).waiting.length) h
theorem witness_error_ends : ∃ k, MayFire (ringed (nodeWith (.fend (ndf 0 0)) 0x203 true 0)) k ∧ k.err = some 0x203
    ∧ fitsRing (ringed (nodeWith (.fend (ndf 0 0)) 0x203 true 0)) k
      (k.endRound none (k.hand 0x203 (ringed (nodeWith (.fend (ndf 0 0)) 0x203 true 0)).unfocused)) := fits_fire _ _ _ (by decide)
theorem witness_tag_faults : (∃ k, MayFire (ringed (withFrame (nodAt (.lenter (ndf 8 0))) (fun f => { f with tag := tagMk 56 0 }))) k
      ∧ (k.err = none ∧ loopAct (k.fr.loop (ndE (ndf 8 0))) = false ∧ tagPush k.fr.tag 8 0 = none)
      ∧ fitsRing (ringed (withFrame (nodAt (.lenter (ndf 8 0))) (fun f => { f with tag := tagMk 56 0 }))) k
        (k.fault 1 (ringed (withFrame (nodAt (.lenter (ndf 8 0))) (fun f => { f with tag := tagMk 56 0 }))).unfocused))
    ∧ ∃ k, MayFire (ringed (withFrame (nodAt (.calln (ndf 8 0))) (fun f => { f with tag := tagMk 56 0 }))) k
      ∧ (k.err = none ∧ tagPush k.fr.tag 8 0 = none)
      ∧ fitsRing (ringed (withFrame (nodAt (.calln (ndf 8 0))) (fun f => { f with tag := tagMk 56 0 }))) k
        (k.fault 1 (ringed (withFrame (nodAt (.calln (ndf 8 0))) (fun f => { f with tag := tagMk 56 0 }))).unfocused) :=
  ⟨fits_fire _ _ _ (by decide), fits_fire _ _ _ (by decide)⟩
theorem witness_sink_error : ∃ k, MayFire (ringed (nodeWith (.sink (ndf 0 0)) 0x203 true 0)) k ∧ k.err = some 0x203
    ∧ fitsRing (ringed (nodeWith (.sink (ndf 0 0)) 0x203 true 0)) k (k.hand 0x203 (ringed (nodeWith (.sink (ndf 0 0)) 0x203 true 0)).unfocused) :=
  fits_fire _ _ _ (by decide)
def nafWitness (cls : BitVec 2) (op : BitVec 8) (m : BitVec 30) : NAF := ⟨cls, op, 0, false, false, none, none, m⟩
theorem witness_naf_value : ∃ k r, MayFire (nodeWith (.arithNodeFire (nafWitness 0 0 0)) 5 false 7) k ∧ k.err = none
    ∧ nafValue (nafWitness 0 0 0) k (nodeWith (.arithNodeFire (nafWitness 0 0 0)) 5 false 7).unfocused = .ok r := by
  obtain ⟨k, h, t⟩ := fires (nodeWith (.arithNodeFire (nafWitness 0 0 0)) 5 false 7) (fun k => k.err = none) (by decide)
  exact ⟨k, _, h, t, rfl⟩
/-- A conversion whose source entry is not valid. -/
def badCvt : NAF := nafWitness 2 2 0x00240000
theorem witness_naf_error : ∃ k e, MayFire (nodeWith (.arithNodeFire badCvt) 5 false 7) k ∧ k.err = none
    ∧ nafValue badCvt k (nodeWith (.arithNodeFire badCvt) 5 false 7).unfocused = .error e := by
  obtain ⟨k, h, t, u⟩ := fires (nodeWith (.arithNodeFire badCvt) 5 false 7) (fun k => k.err = none
    ∧ (match nafValue badCvt k (nodeWith (.arithNodeFire badCvt) 5 false 7).unfocused with
      | .error _ => true | .ok _ => false) = true) (by decide)
  split at u
  · rename_i e g
    exact ⟨k, e, h, t, g⟩
  · cases u
theorem witness_nodeOps : (0x1D, iBrev) ∈ nodeOps ∧ (nafWitness 0 0x1D 0).op.toNat = 0x1D ∧ endsOnError (.fend (ndf 0 0)) = true :=
  ⟨by simp [nodeOps], by decide, rfl⟩

/-- A loop of parameter E 0 with W = 8 starts: its first entry, under a tag of 48 bits, the deepest that has room. -/
def deepTag (db : Nat) : Dword := tagMk db 0x2AA
theorem witness_lenter : ∃ k t, MayFire (withFrame (nodAt (.lenter (ndf 8 0x010002))) (fun f => { f with tag := deepTag 48 })) k
    ∧ k.err = none ∧ loopAct (k.fr.loop (ndE (ndf 8 0x010002))) = false ∧ tagPush k.fr.tag 8 0 = some t := by
  obtain ⟨k, h, a, b, c⟩ := fires (withFrame (nodAt (.lenter (ndf 8 0x010002))) (fun f => { f with tag := deepTag 48 })) (fun k =>
    k.err = none ∧ loopAct (k.fr.loop (ndE (ndf 8 0x010002))) = false ∧ (tagPush k.fr.tag 8 0).isSome = true) (by decide)
  exact ⟨k, _, h, a, b, (Option.some_get c).symm⟩
theorem witness_calln : ∃ k t, MayFire (withFrame (nodAt (.calln (ndf 4 0x080101))) (fun f => { f with tag := deepTag 52 })) k
    ∧ k.err = none ∧ tagPush k.fr.tag 4 (fld (0x080101 : BitVec 24) 23 19) = some t := by
  obtain ⟨k, h, a, c⟩ := fires (withFrame (nodAt (.calln (ndf 4 0x080101))) (fun f => { f with tag := deepTag 52 })) (fun k =>
    k.err = none ∧ (tagPush k.fr.tag 4 (fld (0x080101 : BitVec 24) 23 19)).isSome = true) (by decide)
  exact ⟨k, _, h, a, (Option.some_get c).symm⟩

/-- A frame of an iteration, its parent in unit 1 of the same cell with a rein of 2 and `n` frames in flight. -/
def parentFrame (n : Nat) : Frame := { probeFrame with no := 1, tag := rootTag 0, loop0 := loopMk true false 8 2 n false }
def childAt (i : Instr) (n : Nat) : State :=
  (withFrame (nodAt i) (fun f => { f with how := ⟨1, some (0, 1), 3⟩, tag := tagMk 19 0 })).modPlace probeCrew 0
    (fun p => { p with frames := p.frames ++ [parentFrame n] })
theorem witness_child (i : Instr) (n : Nat) (h : firesWith (childAt i n) (fun k => decide (k.err = none
    ∧ k.fr.how.parent = some (0, 1) ∧ (childAt i n).frameAt k.c k.i (0, 1) = some (parentFrame n))) = true) :
    ∃ k, MayFire (childAt i n) k ∧ k.err = none ∧ k.fr.how.parent = some (0, 1)
      ∧ (childAt i n).frameAt k.c k.i (0, 1) = some (parentFrame n) := fires _ _ h
theorem witness_lnext : loopInfl ((parentFrame 1).loop false) < loopRein ((parentFrame 1).loop false)
    ∧ loopRein ((parentFrame 2).loop false) ≤ loopInfl ((parentFrame 2).loop false)
    ∧ (∃ k, MayFire (childAt (.lnext (ndf 8 0)) 1) k ∧ k.err = none ∧ k.fr.how.parent = some (0, 1)
      ∧ (childAt (.lnext (ndf 8 0)) 1).frameAt k.c k.i (0, 1) = some (parentFrame 1))
    ∧ (∃ k, MayFire (childAt (.lnext (ndf 8 0)) 2) k ∧ k.err = none
      ∧ (childAt (.lnext (ndf 8 0)) 2).keyKnown k.c k.i k.fr.blk (nextTag k.fr.tag 8) = false ∧ bwRoom k.x k.i k.p 32 = true)
    ∧ ∃ k, MayFire ((childAt (.lnext (ndf 8 0)) 2).modPlace probeCrew 0 (fun p =>
        { p with frames := p.frames ++ [{ probeFrame with no := 2, tag := tagMk 19 1 }] })) k ∧ k.err = none
      ∧ ((childAt (.lnext (ndf 8 0)) 2).modPlace probeCrew 0 (fun p =>
        { p with frames := p.frames ++ [{ probeFrame with no := 2, tag := tagMk 19 1 }] })).keyKnown k.c k.i k.fr.blk
          (nextTag k.fr.tag 8) = true :=
  ⟨by decide, by decide, witness_child _ _ (by decide), fires _ _ (by decide), fires _ _ (by decide)⟩
/-- A parent in flight to its rein's end, while the backwater of the place has no room; and a return slot beyond its block. -/
def fullBw (s : State) : State := ringed (s.modPlace probeCrew 0 (fun p => { p with bwCap := 0 }))
def lnextFull : State := fullBw (childAt (.lnext (ndf 8 0)) 2)
theorem witness_lnext_full : ∃ k, MayFire lnextFull k
    ∧ (k.err = none ∧ k.fr.how.parent = some (0, 1) ∧ lnextFull.frameAt k.c k.i (0, 1) = some (parentFrame 2)
      ∧ lnextFull.keyKnown k.c k.i k.fr.blk (nextTag k.fr.tag 8) = false ∧ bwRoom k.x k.i k.p 32 = false)
    ∧ fitsRing lnextFull k ((lnextFull.unfocused.modLoop k.c k.i (0, 1) false (fun r => loopSet r (loopXd r) (loopInfl r) true)).bwRaise k.c k.i
        (.hold (k.ent (ndf 8 0) k.fr.blk (nextTag k.fr.tag 8) (ndDest (ndf 8 0)) ⟨1, some (0, 1), 0⟩)) k.c k.i k.p k.fr.tag k.p.paddock
        k.fr.blk k.rd.slot) :=
  fits_fire _ _ _ (by decide)
theorem witness_retn_fault : ∃ k, MayFire (ringed (childAt (.retn (ndf 8 0)) 1)) k
    ∧ (k.err = none ∧ k.kn.blockSize k.p.paddock 0 ≤ k.fr.how.rslot + ndDest (ndf 8 0))
    ∧ fitsRing (ringed (childAt (.retn (ndf 8 0)) 1)) k (k.fault 5 (ringed (childAt (.retn (ndf 8 0)) 1)).unfocused) :=
  fits_fire _ _ _ (by decide)
theorem witness_lexit_retn : (∃ k, MayFire (childAt (.lexit (ndf 8 0)) 1) k ∧ k.err = none ∧ k.fr.how.parent = some (0, 1)
      ∧ (childAt (.lexit (ndf 8 0)) 1).frameAt k.c k.i (0, 1) = some (parentFrame 1))
    ∧ ∃ k, MayFire (withKernel (childAt (.retn (ndf 8 0)) 1) (fun n => { n with paddocks := [[[0, 0, 0, 0]]] })) k
      ∧ k.fr.how.rslot + ndDest (ndf 8 0) < k.kn.blockSize k.p.paddock 0 :=
  ⟨witness_child _ _ (by decide), fires _ _ (by decide)⟩

/-- EQPN with and without the mark of an entry; FEND of an idle frame and of one whose loop runs; a round that is open. -/
theorem witness_ends : (∃ k, MayFire (nodAt (.eqpn (ndf 0 0))) k ∧ k.err = none ∧ k.rd.entry = false)
    ∧ (∃ k, MayFire { nodAt (.eqpn (ndf 0 0)) with focus := .node ⟨probeCrew, 0, (⟨0, 0, 0, 0, 0, false, 0, false, true, none⟩ : Ready)⟩ } k
      ∧ k.err = none ∧ k.rd.entry = true)
    ∧ (∃ k, MayFire (nodAt (.fend (ndf 0 0))) k ∧ k.err = none ∧ k.fr.idle = true)
    ∧ (∃ k, MayFire (withFrame (nodAt (.fend (ndf 0 0))) (fun f => { f with loop0 := loopMk true false 8 2 1 false })) k
      ∧ k.err = none ∧ k.fr.idle = false)
    ∧ ∃ k, MayFire (nodAt (.sink (ndf 0 0))) k ∧ k.x.round? k.fr.round = some probeRound ∧ probeRound.committed = false
      ∧ probeRound.open_ = true :=
  ⟨fires _ _ (by decide), fires _ _ (by decide), fires _ _ (by decide), fires _ _ (by decide), fires _ _ (by decide)⟩
theorem witness_tagPush : tagDb (deepTag 48) + 8 ≤ 56 ∧ tagFields (deepTag 48) < 2 ^ tagDb (deepTag 48) := by decide

/-- FLD and FST of the last doubleword of the page; CFENCE with nothing parked. -/
def nmf : NMF := ⟨3, false, 0, none, 0, 0, 0, 7⟩
def nodeLoc : Loc := ⟨false, 0x4FFF8, 0⟩
theorem node_at (s : State) (n : Nat) (u : Use) (h : firesWith s (fun k => decide (k.err = none
      ∧ (s.unfocused.nodeFind (s.asidOf k.c) k.rd.l.toNat n u).2 = .at nodeLoc)) = true) :
    ∃ k t, MayFire s k ∧ k.err = none ∧ s.unfocused.nodeFind (s.asidOf k.c) k.rd.l.toNat n u = (t, .at nodeLoc) := by
  obtain ⟨k, hk, e, t⟩ := fires s (fun k => k.err = none
    ∧ (s.unfocused.nodeFind (s.asidOf k.c) k.rd.l.toNat n u).2 = .at nodeLoc) h
  exact ⟨k, _, hk, e, Prod.ext rfl t⟩
theorem witness_fld : ∃ k t, MayFire (paged (nodeWith (.fld nmf) 0xFFF8 false 0)) k ∧ k.err = none
    ∧ (paged (nodeWith (.fld nmf) 0xFFF8 false 0)).unfocused.nodeFind ((paged (nodeWith (.fld nmf) 0xFFF8 false 0)).asidOf k.c)
      k.rd.l.toNat 8 useLoad = (t, .at nodeLoc) := node_at _ _ _ (by decide)
theorem witness_fst : ∃ k t, MayFire (paged (nodeWith (.fst nmf) 0xFFF8 false 0)) k ∧ k.err = none
    ∧ (paged (nodeWith (.fst nmf) 0xFFF8 false 0)).unfocused.nodeFind ((paged (nodeWith (.fst nmf) 0xFFF8 false 0)).asidOf k.c)
      k.rd.l.toNat 8 useStore = (t, .at nodeLoc) := node_at _ _ _ (by decide)
theorem witness_cfence : ∃ k, MayFire (nodAt (.cfence nmf)) k ∧ k.err = none
    ∧ (∀ r ∈ k.p.parked.map Prod.snd ++ k.p.ready, k.freeBefore (k.rd.since.getD (nodAt (.cfence nmf)).now) r = false) :=
  fires _ _ (by decide)
theorem witness_nodeStore : (∀ p ∈ (heldStore.cluster 0).stores, p.touches nodeLoc 8 = false)
    ∧ (∀ p ∈ (heldStore.cluster 0).stores, p.crew = true → p.touches ⟨false, 0x40000, 0⟩ 1 = false) := by decide

/-- Memory cells: an element of a full buffer, one of a buffer that is not full, one beyond it, and a FIFO. -/
def ncf (arg : BitVec 16) : NCF := ⟨none, none, 1, 2, arg⟩
def fullCell : MCell := { MCell.init with full := 4, count := [(2, 1)] }
theorem witness_cells : ncRing (ncf 3) = false ∧ fullCell.bound (ncf 3).buf.toNat = false ∧ fld (383 : Dword) 31 0 < bufElems (ncEsz (ncf 3))
    ∧ bufElems (ncEsz (ncf 3)) ≤ fld (384 : Dword) 31 0 ∧ fullCell.full.getLsbD 2 = true ∧ MCell.init.full.getLsbD 2 = false
    ∧ 0 < SMap.get fullCell.count 0 2 ∧ SMap.get fullCell.count 0 2 < bufElems (ncEsz (ncf 3)) := by decide
theorem witness_mcld : ∃ k, MayFire ((nodAt (.mcld (ncf 3))).modMc probeCrew 0 1 (fun _ => fullCell)) k ∧ k.err = none
    ∧ heldAcc (ncf 3) (.mcld (ncf 3)) k = false
    ∧ k.behind (fun _ => false) ((nodAt (.mcld (ncf 3))).modMc probeCrew 0 1 (fun _ => fullCell)) = false
    ∧ (∃ v m, mcld (ncf 3) k.rd.l (k.p.mc 1) = .ok v m) := by
  obtain ⟨k, h, a, b, q, c⟩ := fires ((nodAt (.mcld (ncf 3))).modMc probeCrew 0 1 (fun _ => fullCell)) (fun k => k.err = none
    ∧ heldAcc (ncf 3) (.mcld (ncf 3)) k = false
    ∧ k.behind (fun _ => false) ((nodAt (.mcld (ncf 3))).modMc probeCrew 0 1 (fun _ => fullCell)) = false ∧ (match mcld (ncf 3) k.rd.l (k.p.mc 1) with | .ok _ _ => true | _ => false) = true) (by decide)
  split at c
  · rename_i v m g
    exact ⟨k, h, a, b, q, v, m, g⟩
  · cases c
theorem witness_mcst_error : ∃ k, MayFire (nodeWith (.mcst (ncf 3)) 384 false 0) k ∧ k.err = none
    ∧ heldBuf (ncf 3) (.mcst (ncf 3)) k = false
    ∧ k.behind (fun _ => false) (nodeWith (.mcst (ncf 3)) 384 false 0) = false
    ∧ (∃ e, mcst (ncf 3) k.rd.l k.rd.r (k.p.mc 1) = .err e) := by
  obtain ⟨k, h, a, b, q, c⟩ := fires (nodeWith (.mcst (ncf 3)) 384 false 0) (fun k => k.err = none
    ∧ heldBuf (ncf 3) (.mcst (ncf 3)) k = false ∧ k.behind (fun _ => false) (nodeWith (.mcst (ncf 3)) 384 false 0) = false ∧ (match mcst (ncf 3) k.rd.l k.rd.r (k.p.mc 1) with | .err _ => true | _ => false) = true) (by decide)
  split at c
  · rename_i e g
    exact ⟨k, h, a, b, q, e, g⟩
  · cases c

/-- AGEN: a descriptor of 16 elements of 8 bytes over buffers 3 and 4. -/
def agenState : State :=
  let s := paged (nodeWith (.agen (ncf 0)) 0xFFC0 false 0)
  { s with mem := Memory.setLe (Memory.setLe s.mem 0x4FFC8 8 0x0331000000000000) 0x4FFD0 8 0x8000010 }
set_option exponentiation.threshold 1024 in
set_option maxRecDepth 8000 in
theorem witness_agen : ∃ k t l, MayFire agenState k ∧ k.err = none
    ∧ agenState.unfocused.nodeFind (agenState.asidOf k.c) k.rd.l.toNat 64 useLoad = (t, .at l) ∧ ((k.p.mc 1).gen 2).running = false
    ∧ descBad (k.p.mc 1) ((recDwords (leNat (t.homeRead l 64))).take 8) = false := by
  obtain ⟨k, h, a, b, c, d⟩ := fires agenState (fun k => k.err = none ∧ ((k.p.mc 1).gen 2).running = false
    ∧ (agenState.unfocused.nodeFind (agenState.asidOf k.c) k.rd.l.toNat 64 useLoad).2 = .at ⟨false, 0x4FFC0, 0⟩
    ∧ descBad (k.p.mc 1) ((recDwords (leNat ((agenState.unfocused.nodeFind (agenState.asidOf k.c) k.rd.l.toNat 64 useLoad).1.homeRead
        ⟨false, 0x4FFC0, 0⟩ 64))).take 8) = false) (by decide)
  exact ⟨k, _, _, h, a, Prod.ext rfl c, b, d⟩

/-- MXJ of 4 rows into column 0, its operand in buffers 4 on, with BF16 weights. -/
def mxjState : State := withCrew (nodeWith (.mxj ⟨none, none, 1, 2, 0⟩) 0x04000403 false 0) (fun c => { c with geometry := some mxGeometry })
theorem witness_mxj : ∃ k, MayFire mxjState k ∧ k.err = none ∧ k.x.geometry = some mxGeometry
    ∧ arrayFmt k.x mxGeometry (hdrFa k.rd.l) = none ∧ badHeader mxGeometry (k.p.mc 1) 2 k.rd.l k.rd.r = false
    ∧ k.x.fmtWaits (hdrFa k.rd.l).toNat = false
    ∧ (∀ a ∈ 2 :: hdrOperand mxGeometry k.rd.l ++ hdrScales mxGeometry k.rd.l, k.x.bufHeld k.i 1 a = false) := fires _ _ (by decide)

/-- MXOUT of zeros to BF16. -/
def mxoutNcf : NCF := ⟨none, none, 1, 2, 0x0803⟩
theorem witness_mxout : ∃ k, MayFire (nodAt (.mxout mxoutNcf)) k ∧ k.err = none ∧ fmtInvalid k.x 3 = none ∧ fmtW (k.x.fmtEntry 3) ≤ 32
    ∧ k.x.fmtWaits 3 = false ∧ k.x.accHeld k.i 1 2 = false ∧ k.x.accHeld k.i 1 4 = false := fires _ _ (by decide)
theorem witness_mxout_values : (roundFmt (fmtOf (fixedFmt 3)) (modeOf 0 0) (decodeV f32 0)).fault = false := by decide

/-! ### The fabric at work -/

def launchX : Launch := probeLaunch kernelX
/-- With verified firmware (R441), which the steps of the dispatcher, of firmware and of the module need. -/
def boot (s : State) : State := { s with bootStat := 1 }
def bootedState : State := paged (boot State.reset)

/-- The crew of the small state, changed. -/
def crewAt (f : Crew → Crew) : State := withCrew (boot (nodAt (.gate (ndf 0 0)))) f
def crewX (f : Crew → Crew) : Crew := crewOf (crewAt f)
theorem crewAt_holds (f : Crew → Crew) (h : (crewAt f).crew? probeCrew = some (crewX f) ∧ (crewAt f).kernel? probeCrew = some kernelX) :
    ∃ x kn, (crewAt f).crew? probeCrew = some x ∧ (crewAt f).kernel? probeCrew = some kn := ⟨_, _, h.1, h.2⟩
def tok0 : Tok := ⟨.port, some 0, 0, 0, 0, 0, 0, false, false, 5, 0, false⟩
def ent0 (blk : Nat) (tag : Dword) : Ent := ⟨.port, some 0, 0, blk, tag, 0, false, false, 5, 0, ⟨0, none, 0⟩, false, false⟩
def aToken : Flit := .token tok0
def anEntry (blk : Nat) (tag : Dword) : Flit := .entry (ent0 blk tag)
def withFlit (f : Flit) (x : Crew) : Crew := { x with flight := [f] }
def home0 : Nat × Place := (0, probePlace)
/-- The crew and the kernel of the small state are what `crewX` and `kernelX` say, and its first flit may arrive. -/
def flitState (f : Crew → Crew) (g : Flit) : Prop := (crewAt f).crew? probeCrew = some (crewX f)
  ∧ (crewAt f).kernel? probeCrew = some kernelX ∧ mayArrive (crewX f) kernelX 0 = true ∧ (crewX f).flight[0]? = some g

theorem witness_drain_token : flitState (withFlit (.drain .port 0)) (.drain .port 0)
    ∧ (crewX (withFlit (.drain .port 0))).spot? 0 = some probePlace ∧ probePlace.state = .resident := by
  refine ⟨⟨?_, ?_, ?_, ?_⟩, ?_, ?_⟩ <;> decide
def tokenArrived (u : State) : State :=
  ((u.dropFlit probeCrew 0).countHops probeCrew (crewX (withFlit aToken)) aToken probePlace).accept2 probeCrew kernelX 0 probePlace
    probeFrame 0 false false 5 false
theorem witness_token : flitState (withFlit aToken) aToken ∧ (crewX (withFlit aToken)).goes kernelX (some 0) 0 = .at 0 probePlace
    ∧ probePlace.shut 0 = false ∧ probePlace.frame? 0 0 = some probeFrame ∧ probeFrame.resident = true
    ∧ ∃ u, (crewAt (withFlit aToken)).letIn probeCrew (crewX (withFlit aToken)) 0 aToken probePlace = some u
      ∧ ((tokenArrived u).asid 0).waiting.length ≤ ((crewAt (withFlit aToken)).asid 0).waiting.length :=
  ⟨⟨by decide, by decide, by decide, by decide⟩, by decide, by decide, by decide, by decide, _, rfl, by decide⟩
def noFrames (f : Flit) (x : Crew) : Crew := { x with flight := [f], region := some (oneRegion { probePlace with frames := [] }) }
theorem witness_token_noframe : flitState (noFrames aToken) aToken
    ∧ (crewX (noFrames aToken)).goes kernelX (some 0) 0 = .at 0 { probePlace with frames := [] }
    ∧ ({ probePlace with frames := [] } : Place).frame? 0 0 = none
    ∧ ringFits 0 ((crewAt (noFrames aToken)).modAsid 0 (fun a => { a with frqBase := 0x100000, log2n := 10 }))
      (((((crewAt (noFrames aToken)).modAsid 0 (fun a => { a with frqBase := 0x100000, log2n := 10 })).dropFlit probeCrew 0).nodeFault
        probeCrew { probePlace with frames := [] } 3 (rootTag 0) 0 0 none)) :=
  ⟨⟨by decide, by decide, by decide, by decide⟩, by decide, by decide, Nat.le_of_ble_eq_true rfl⟩
def entryArrived (u : State) : State :=
  let v := ((u.dropFlit probeCrew 0).countHops probeCrew (crewX (withFlit (anEntry 0 0))) (anEntry 0 0) probePlace).enterFrame probeCrew 0
    probeFrame 0
  v.1.accept2 probeCrew kernelX 0 probePlace v.2 0 false false 5 false
theorem witness_entry : flitState (withFlit (anEntry 0 0)) (anEntry 0 0)
    ∧ (crewX (withFlit (anEntry 0 0))).goes kernelX (some 0) 0 = .at 0 probePlace
    ∧ probePlace.shut (cellOf 0 0) = false ∧ probePlace.key? 0 0 = some probeFrame ∧ probeFrame.resident = true
    ∧ ∃ u, (crewAt (withFlit (anEntry 0 0))).letIn probeCrew (crewX (withFlit (anEntry 0 0))) 0 (anEntry 0 0) probePlace = some u
      ∧ ((entryArrived u).asid 0).waiting.length ≤ ((crewAt (withFlit (anEntry 0 0))).asid 0).waiting.length :=
  ⟨⟨by decide, by decide, by decide, by decide⟩, by decide, by decide, by decide, by decide, _, rfl, by decide⟩

set_option maxRecDepth 8000 in
theorem free_frame (s : State) (p : Place) (cell : Nat) (h : p.frames = []) : ∃ no w, freeFrameNo s p cell = (some no, w) ∧ w = s.fresh.2 := by
  have q : (((List.range 1024).map (fun k => (s.fresh.1 + k) % 1024)).find? (fun k => (p.frame? cell k).isNone)).isSome = true := by
    rw [List.find?_isSome]
    exact ⟨(s.fresh.1 + 0) % 1024, List.mem_map.2 ⟨0, by simp, rfl⟩, by simp [Place.frame?, h]⟩
  exact ⟨_, _, Prod.ext (Option.some_get q).symm rfl, rfl⟩
/-- The frame that an entry opens in the empty place, under any number. -/
def opened (no : Nat) : Frame := { probeFrame with cell := cellOf (rootTag 3) 0, no := no, tag := rootTag 3, touched := (crewAt id).now }
def opensE (no : Nat) (w : State) : State :=
  ((((w.dropFlit probeCrew 0).countHops probeCrew (crewX (noFrames (anEntry 0 (rootTag 3)))) (anEntry 0 (rootTag 3))
      { probePlace with frames := [] }).modPlace probeCrew 0 (fun p => { p with frames := p.frames ++ [opened no] })).accept2 probeCrew kernelX 0
    { probePlace with frames := [] } (opened no) 0 false false 5 false)
theorem witness_entry_opens : flitState (noFrames (anEntry 0 (rootTag 3))) (anEntry 0 (rootTag 3))
    ∧ (crewX (noFrames (anEntry 0 (rootTag 3)))).goes kernelX (some 0) 0 = .at 0 { probePlace with frames := [] }
    ∧ ({ probePlace with frames := [] } : Place).key? 0 (rootTag 3) = none
    ∧ (crewAt (noFrames (anEntry 0 (rootTag 3)))).cellHeld 0 0 (cellOf (rootTag 3) 0) = false
    ∧ ∃ t u no w, (crewAt (noFrames (anEntry 0 (rootTag 3)))).letIn probeCrew (crewX (noFrames (anEntry 0 (rootTag 3)))) 0
        (anEntry 0 (rootTag 3)) { probePlace with frames := [] } = some t
      ∧ getUnit t probeCrew 0 { probePlace with frames := [] } (cellOf (rootTag 3) 0) = .ok u
      ∧ freeFrameNo u { probePlace with frames := [] } (cellOf (rootTag 3) 0) = (some no, w)
      ∧ ((opensE no w).asid 0).waiting.length ≤ ((crewAt (noFrames (anEntry 0 (rootTag 3)))).asid 0).waiting.length := by
  refine ⟨⟨by decide, by decide, by decide, by decide⟩, by decide, by decide, by decide, ?_⟩
  obtain ⟨no, w, h, e⟩ := free_frame (crewAt (noFrames (anEntry 0 (rootTag 3)))) { probePlace with frames := [] } (cellOf (rootTag 3) 0) rfl
  subst e
  have n : kernelX.node? 0 0 0 = some (.gate (ndf 0 0)) := by decide
  have q (w : State) : (opensE no w).asid 0 = w.asid 0 := by
    have z : probeFrame.presence = 0 := rfl
    simp [opensE, opened, State.accept2, show kernelX.node? probePlace.paddock probeFrame.blk 0 = _ from n, twoOperand, z, State.asid,
      State.accepted, State.modPlace, State.modRegion, State.countHops, State.dropFlit]
  exact ⟨_, _, no, _, rfl, rfl, h, by rw [q]; exact Nat.le_refl _⟩
def toNowhere : Flit := .token { tok0 with place := none, paddock := 1 }
theorem witness_orphan : mayArrive (crewX (withFlit toNowhere)) kernelX 0 = true ∧ toNowhere.aim = some (none, 1)
    ∧ (crewX (withFlit toNowhere)).goes kernelX none 1 = .nowhere := by decide
def outPlace : Place := { probePlace with state := .swapped, frames := [] }
def outCrew (x : Crew) : Crew := { x with region := some (oneRegion outPlace), flight := [aToken] }
theorem witness_parked : flitState outCrew aToken ∧ aToken.aim = some (some 0, 0)
    ∧ (crewX outCrew).goes kernelX (some 0) 0 = .swapped 0 outPlace ∧ bwRoom (crewX outCrew) 0 outPlace 16 = true := by
  refine ⟨⟨?_, ?_, ?_, ?_⟩, ?_, ?_, ?_⟩ <;> decide

/-- A node of one operand, and a node of two whose slot is empty, whose other slot holds a value, and whose slot does. -/
def twoOps : Kernel := { kernelX with paddocks := [[[(encode (.steer (ndf 0 0))).getD 0]]] }
theorem witness_TokenAccepted : kernelX.node? 0 0 0 = some (.gate (ndf 0 0)) ∧ twoOps.node? 0 0 0 = some (.steer (ndf 0 0))
    ∧ (∀ n, Instr.steer (ndf 0 0) ≠ .joinc n) ∧ twoOperand (.lexit (ndf 8 0)) = false ∧ twoOperand (.steer (ndf 0 0)) = true
    ∧ probeFrame.presence.getLsbD 0 = false ∧ ({ probeFrame with presence := 2 } : Frame).presence.getLsbD 1 = true
    ∧ ({ probeFrame with presence := 1 } : Frame).presence.getLsbD 0 = true :=
  ⟨by decide, by decide, fun n => by simp, by decide, by decide, by decide, by decide, by decide⟩

def readyNode : Ready := ⟨0, 0, 0, 0, 5, false, 0, false, false, none⟩
def withReady (x : Crew) : Crew := { x with region := some (oneRegion { probePlace with ready := [readyNode] }) }
theorem witness_nodeChoose : (crewAt withReady).cellHeld 0 0 0 = false ∧ (∀ q ∈ (crewAt withReady).bayPlaces 0 0, q.2.2.ctx < 4)
    ∧ ∃ (q : CrewId × Nat × Place) (r : Nat × Ready), q ∈ (crewAt withReady).bayPlaces 0 0 ∧ q.2.2.state = .resident
      ∧ (crewAt withReady).crewStopped q.1 = false ∧ readyFor (crewAt withReady) q.1 q.2.2 0 = some r :=
  ⟨by decide, by decide, (probeCrew, 0, { probePlace with ready := [readyNode] }), (0, readyNode), by decide⟩

def spilled : Frame := { probeFrame with resident := false }
def spilledPlace : Place := { probePlace with frames := [spilled], ready := [readyNode] }
theorem witness_frameRefill : (crewX (fun x => { x with region := some (oneRegion spilledPlace) })).spot? 0 = some spilledPlace
    ∧ (crewAt (fun x => { x with region := some (oneRegion spilledPlace) })).cellHeld 0 0 0 = false
    ∧ spilledPlace.frame? 0 0 = some spilled ∧ spilled.resident = false ∧ spilledPlace.state = .resident
    ∧ (∃ r ∈ spilledPlace.ready, r.cell = 0 ∧ r.frame = 0)
    ∧ ∃ u, getUnit (crewAt (fun x => { x with region := some (oneRegion spilledPlace) })) probeCrew 0 spilledPlace 0 = .ok u :=
  ⟨by decide, by decide, by decide, by decide, by decide, by decide, _, rfl⟩

/-- A spilled frame, its image, and a token that waits for it; a frame that ends has no other. -/
def spilledCrew (e : Bool) (x : Crew) : Crew := { x with
  region := some (oneRegion { spilledPlace with frames := [{ spilled with ending := e }] }), flight := [aToken] }
theorem witness_frameRefill_image : (crewAt (spilledCrew false)).eccHbm ((crewX (spilledCrew false)).imageAt 0
      { spilledPlace with frames := [{ spilled with ending := false }] } { spilled with ending := false }) 1152 = false
    ∧ ({ spilled with ending := false } : Frame).ending = false
    ∧ ∃ f ∈ (crewX (spilledCrew true)).flight, f.boundFor (crewX (spilledCrew true)) kernelX 0 = true
      ∧ f.frame? { spilledPlace with frames := [{ spilled with ending := true }] } = some { spilled with ending := true } := by decide

/-- A drain: a compute cell, a memory cell, and the last cell that the token has not passed. -/
def drainPlace (passed : BitVec 16) : Place := { probePlace with
    frames := [], draining := true, drainHere := 0xFFFF, passed := passed }
def drainCrew (passed : BitVec 16) (x : Crew) : Crew := { x with region := some (oneRegion (drainPlace passed)), rounds := [] }
theorem witness_cellPass : (crewX (drainCrew 0)).quiet kernelX 0 (drainPlace 0) = true ∧ (crewX (drainCrew 0)).fedDone 0 = true
    ∧ (crewX (drainCrew 0)).spot? 0 = some (drainPlace 0) ∧ (drainPlace 0).state = .resident
    ∧ (drainPlace 0).draining = true ∧ (drainPlace 0).drainHere.getLsbD 15 = true ∧ (drainPlace 0).passed.getLsbD 15 = false
    ∧ (∀ m, mcellOf 15 = some m → False) ∧ mcellOf 14 = some 7
    ∧ (drainPlace 0).mcellDone 7 = true ∧ computeCells.contains 14 = false ∧ computeCells.contains 15 = true
    ∧ (∃ u, secureCell 0 0 15 0 43 ((crewAt (drainCrew 0)).modPlace probeCrew 0 (fun q => { q with passed := setBit 0 15 true })) = .ok u)
    ∧ setBit (drainPlace 0x7FFF).passed 15 true = BitVec.allOnes 16 :=
  ⟨by decide, by decide, by decide, by decide, by decide, by decide, by decide, fun m h => by revert h; decide +revert, by decide,
    by decide, by decide, by decide, ⟨_, rfl⟩, by decide⟩
def loadingPlace : Place := { freePlace with state := .loading, next := [⟨0, 0, false⟩] }
theorem witness_paddockLoadComplete : (crewX (fun x => { x with region := some (oneRegion loadingPlace) })).spot? 0 = some loadingPlace
    ∧ loadingPlace.next = [⟨0, 0, false⟩] ∧ loadingPlace.state = .loading := by decide
/-- A token waits for a paddock that has never been placed, and the region has no other place. -/
def waitedFor (x : Crew) : Crew := { x with parks := [⟨1, none, toNowhere⟩] }
theorem witness_paddockSwapOut : (crewAt waitedFor).maySwap (crewX waitedFor) (oneRegion probePlace) probePlace = true
    ∧ (crewX waitedFor).region = some (oneRegion probePlace) ∧ (oneRegion probePlace).places[0]? = some probePlace
    ∧ bwRoom (crewX waitedFor) 0 probePlace (1152 * (probePlace.frames.filter (fun f => f.resident)).length) = true := by decide
theorem witness_resume_room : ∃ t, secureCells 0 15 8 computeCells (crewAt outCrew) = .ok t
    ∧ ringFits 0 (crewAt outCrew) (t.resumeAt probeCrew 0 (0, 15, 0) 0) := ⟨_, rfl, Nat.le_refl 0⟩
theorem witness_paddockResume : (crewAt outCrew).ctxFor (oneRegion outPlace) 0 15 = some 0 ∧ (crewAt outCrew).sliceOk (crewX outCrew) (oneRegion outPlace) 0 = true
    ∧ (crewX outCrew).swapped? 0 = some (0, outPlace)
    ∧ loadRefusal { kernelX with paddocks := [[[sinkWord]]] } [] ((crewAt outCrew).cluster 0) 0 false = none
    ∧ (0 : Nat) < (oneRegion outPlace).granted := by decide

/-! ### The weir and the rounds -/

def wEntry (k : AKind) (site : Nat) : WEntry := ⟨1, k, 0, 0xFE, 0xFF, site, 0xFFF8, 3, false, 0, 5, none, none, false, false, false, 0, 0, 0, 0, 0, 0, 0⟩
def act1 : Act := ⟨1, 0, 0, rootTag 0, none, false, false, false⟩
def chain1 (es : List WEntry) : Chain := ⟨0, 0, 2, .start 1, none, [act1], es⟩
def onTheWay (k : AKind) (x : Crew) : Crew := { x with transit := [⟨0, wEntry k 7⟩], chains := [chain1 []] }
def waiting (k : AKind) (x : Crew) : Crew := { x with chains := [chain1 [wEntry k 7]] }
theorem witness_weirArrive : (crewX (onTheWay .mnop)).transit[0]? = some ⟨0, wEntry .mnop 7⟩
    ∧ (crewX (onTheWay .mnop)).chains.find? (fun ch => ch.paddock == 0) = some (chain1 []) ∧ (chain1 []).entries.length < (chain1 []).depth
    ∧ ∃ v l, (paged (crewAt (onTheWay .cst))).nodeFind ((paged (crewAt (onTheWay .cst))).asidOf probeCrew) (wEntry .cst 7).addr.toNat 8
      { useStore with a := false, d := false } = (v, .at l) :=
  ⟨by decide, by decide, by decide, _, nodeLoc, Prod.ext rfl (by decide)⟩
/-- A chained store of the gang's spatial work is on its way at the point. -/
def openDue : State := withCrew eqpDue (fun x => { x with transit := [⟨0, wEntry .cst 7⟩], rounds := [probeRound] })
theorem witness_PinnedDecisions_open : ∃ k, gctx? openDue gang0 = some k ∧ k.g.due = some 1 ∧ openDue.mayDecide k = true
    ∧ k.g.dbgForm = none ∧ k.g.moving = none ∧ k.g.pinned = true ∧ k.g.form = 0 ∧ k.g.slots = false ∧ k.kn.landsIn 1 0 = true
    ∧ k.c.openAccess k.kn 0 = true ∧ (∀ k, gctx? eqpDue gang0 = some k → k.c.openAccess k.kn 0 = false) :=
  ⟨Option.get _ (by decide), (Option.some_get _).symm, by decide, by decide, by decide, by decide, by decide, by decide, by decide,
    by decide, by decide, fun k h => by
      rw [show k = Option.get (gctx? eqpDue gang0) (by decide) from (Option.get_of_eq_some _ h).symm]; decide⟩

def weirKernel : Kernel := { kernelX with paddocks := [[[(encode (.cld ⟨3, false, 0, none, 0, 0xFE, 0xFF, 7⟩)).getD 0]]] }
theorem witness_weirRelease (k : AKind) (h : k = .cld ∨ k = .cst ∨ k = .catom ∨ k = .mnop) :
    ((chain1 [wEntry k 7]).settled weirKernel).next? = some (wEntry k 7)
    ∧ (crewAt (waiting k)).nodesHeld probeCrew = false ∧ (crewAt (waiting k)).crewStopped probeCrew = false
    ∧ weirBreaks (crewAt (waiting k)) probeCrew weirKernel (wEntry k 7) = [] ∧ (wEntry k 7).errCode = none
    ∧ (crewX (waiting k)).oldestRound 0 0 = true := by
  rcases h with h | h | h | h <;> subst h <;> decide
/-- The release of a load and of an atomic that meets its home channel puts no record behind a full ring. -/
theorem witness_weirRelease_fits (k : AKind) (h : k = .cld ∨ k = .catom) :
    let s := paged (crewAt (waiting k))
    let u := s.modChain probeCrew 0 (fun _ => (chain1 [wEntry k 7]).settled weirKernel)
    ((releaseLoad u probeCrew (crewX (waiting k)) ((chain1 [wEntry k 7]).settled weirKernel) weirKernel (wEntry k 7)).asid 0).waiting.length
      ≤ (s.asid 0).waiting.length
    ∧ ((releaseAtom u probeCrew (crewX (waiting k)) ((chain1 [wEntry k 7]).settled weirKernel) weirKernel (wEntry k 7)).asid 0).waiting.length
      ≤ (s.asid 0).waiting.length := by
  rcases h with h | h <;> subst h <;> decide
/-- A round that has ended, without and with an error. -/
def endedRound (es : List RErr) : Round := { probeRound with open_ := false, errors := es }
def withRound (es : List RErr) (x : Crew) : Crew := { x with rounds := [endedRound es] }
theorem witness_roundCommit : (crewX (withRound [])).rounds[0]? = some (endedRound []) ∧ (endedRound []).open_ = false
    ∧ (endedRound []).committed = false ∧ (crewAt (withRound [])).roundsHeld probeCrew (endedRound []).iter = false
    ∧ (crewAt (withRound [])).crewStopped probeCrew = false ∧ (crewX (withRound [])).walked kernelX (endedRound []) = true
    ∧ (∀ q ∈ (crewX (withRound [])).rounds.take 0, q.committed = true) ∧ (endedRound []).remount = false
    ∧ (∃ t, performStores probeCrew 0 ((crewX (withRound [])).heldStores 0 0) (crewAt (withRound [])) = .all t
      ∧ ringFits 0 (crewAt (withRound [])) ((commitRest t probeCrew (endedRound [])).endStop 0))
    ∧ (endedRound [⟨0x203, 0, none, 0, 0, 0, 0, 0⟩]).errors ≠ [] :=
  ⟨by decide, by decide, by decide, by decide, by decide, by decide, by decide, by decide, ⟨_, rfl, Nat.le_refl 0⟩, by simp [endedRound]⟩
/-- A result and the FRECV of pc 8 that waits for it in lane 0, its destination mapped to queue 7. -/
def recv2 : Recv := ⟨0, 2, 0, 4, false, 0, 8, 1, [⟨4, 7, true⟩]⟩
def resultState : State := (crewAt (fun x => { x with results := [⟨0, 2, 0, 5⟩] })).modWave wave0 (fun w => { w with recvs := [recv2] })
theorem witness_resultDeliver : (crewX (fun x => { x with results := [⟨0, 2, 0, 5⟩] })).saved = false
    ∧ (∃ wv, resultState.wave? (kjWave probeCrew 0) = some wv
      ∧ (∃ b : State, b.pushWaits 0 (kjWave probeCrew 0) (lateOuts wv (wv.recvs.eraseIdx 0) recv2) = false
        ∧ lateUnbound b (kjWave probeCrew 0) recv2 (lateOuts wv (wv.recvs.eraseIdx 0) recv2) = none)
      ∧ (lateUnbound resultState (kjWave probeCrew 0) recv2 (lateOuts wv (wv.recvs.eraseIdx 0) recv2)).isSome = true)
    ∧ (crewX (fun x => { x with results := [⟨0, 2, 0, 5⟩] })).results[0]? = some ⟨0, 2, 0, 5⟩
    ∧ ∃ wv, resultState.wave? (kjWave probeCrew 0) = some wv
      ∧ findAt wv.recvs (fun q => q.paddock == 0 && q.port == 2 && q.lane == 0) = some (0, recv2) :=
  ⟨by decide, ⟨Option.get _ (by decide), (Option.some_get _).symm, ⟨resultState.setQueue 0 7 queue7, by decide, by decide⟩, by decide⟩, by decide,
    Option.get _ (by decide), (Option.some_get _).symm, by decide⟩
theorem witness_preciseStop : ∀ c ∈ (crewAt (fun x => { x with rounds := [] })).crewsOf 0, ∀ x,
    (crewAt (fun x => { x with rounds := [] })).crew? c = some x → ∀ p ∈ x.roundPads, (x.stopAt p).1 = [] := by
  intro c hc x hx
  have h : (crewAt (fun x => { x with rounds := [] })).crewsOf 0 = [probeCrew] := by decide
  rw [h, List.mem_singleton] at hc
  subst hc
  have e : (crewAt (fun x => { x with rounds := [] })).crew? probeCrew = some (crewX (fun x => { x with rounds := [] })) := by decide
  rw [e] at hx
  cases hx
  decide

/-- A quiescent paddock: its chain waits for an access that never comes; or a node waits for a buffer. -/
def gapChain : Chain := { chain1 [] with cursor := .after 1 0 1, last := some (wEntry .cst 7) }
def gapState : State := (crewAt (fun x => { x with chains := [gapChain] })).modAsid 0 (fun a => { a with frqBase := 0x100000, log2n := 10 })
def gapCrew : Crew := crewOf gapState
theorem witness_gap : gapState.crew? probeCrew = some gapCrew ∧ gapCrew.home? 0 = some home0
    ∧ gapCrew.quiescent kernelX 0 0 probePlace (bufWaits probeCrew 0 gapCrew probePlace kernelX gapState) = true
    ∧ gapState.nodesHeld probeCrew = false ∧ gapState.crewStopped probeCrew = false
    ∧ gapState.ringRoom 0 = true ∧ gapChain.gap kernelX = true ∧ gapChain.last = some (wEntry .cst 7) := by decide
def waitPlace : Place := { probePlace with ready := [readyNode] }
def waitKernel : Kernel := { kernelX with paddocks := [[[(encode (.mcld (ncf 3))).getD 0]]] }
def waitState : State := withKernel ((crewAt (fun x => { x with region := some (oneRegion waitPlace) })).modAsid 0
  (fun a => { a with frqBase := 0x100000, log2n := 10 })) (fun _ => waitKernel)
theorem witness_mcwait : (crewOf waitState).home? 0 = some (0, waitPlace)
    ∧ (crewOf waitState).quiescent waitKernel 0 0 waitPlace (bufWaits probeCrew 0 (crewOf waitState) waitPlace waitKernel waitState) = true
    ∧ genAlive (crewOf waitState) 0 waitPlace = false ∧ (∀ y ∈ (crewOf waitState).mx, y.isFeed = false) ∧ waitPlace.ready ≠ [] := by decide

/-! ### Cells at work -/

def genFor (dir : Bool) : Gen := { Gen.init with
  running := true, base := 0xFFF8, dir := dir, esz := 3, buf0 := 3, dims := [(8, 1)], lines := if dir then [3] else []
  agen := some ⟨0, 0, 0, 0, 0, 0⟩ }
def genMc (g : Gen) : MCell := { MCell.init with gens := [(2, g)], full := if g.dir then 8 else 0 }
def genState (g : Gen) : State := (paged (crewAt id)).modMc probeCrew 0 1 (fun _ => genMc g)
theorem witness_generatorStep : (∃ x p m, genAt (genState (genFor false)) probeCrew 0 1 2 = some (x, p, m, genFor false)
      ∧ genReady x 0 1 2 m (genFor false) = true)
    ∧ (∃ x p m, genAt (genState (genFor true)) probeCrew 0 1 2 = some (x, p, m, genFor true)
      ∧ genReady x 0 1 2 m (genFor true) = true)
    ∧ (∃ t l, (genState (genFor false)).nodeFind 0 ((genFor false).addr 0) 8 useLoad = (t, .at l))
    ∧ (∃ t l, (genState (genFor true)).nodeFind 0 ((genFor true).addr 0) 8 useStore = (t, .at l))
    ∧ (genState (genFor true)).nodesHeld probeCrew = false :=
  ⟨⟨_, _, _, rfl, by decide⟩, ⟨_, _, _, rfl, by decide⟩, ⟨_, nodeLoc, Prod.ext rfl (by decide)⟩,
    ⟨_, nodeLoc, Prod.ext rfl (by decide)⟩, by decide⟩
theorem witness_generatorStep_runs : (genState (genFor false)).nodesHeld probeCrew = false
    ∧ ((genState (genFor false)).modAsid 0 (fun a => { a with stopped := true })).crewStopped probeCrew = true := by decide

theorem witness_generatorDone : ∃ x p m, genAt (genState { genFor false with next := 1 }) probeCrew 0 1 2
    = some (x, p, m, { genFor false with next := 1 }) ∧ ({ genFor false with next := 1 } : Gen).over = true :=
  ⟨_, _, _, rfl, by decide⟩
def itemOf (k : MxKind) (hr : Bool) : MxItem := ⟨k, 0, 0, 0, false, 0, 0, none, 0, none, 0, hr, 1, List.replicate 16 0, 0, 0, none⟩
def mxCrew (i : MxItem) (x : Crew) : Crew := { x with geometry := some mxGeometry, mx := [i] }
theorem witness_events : (crewX (mxCrew (itemOf .zero false))).mx[0]? = some (itemOf .zero false)
    ∧ (crewX (mxCrew (itemOf .zero false))).mxInOrder mxGeometry 0 (itemOf .zero false) = true
    ∧ (itemOf .zero false).mayRead probeCrew ((crewAt (mxCrew (itemOf .zero false))).cluster 0) = true
    ∧ (itemOf .zero false).parked = none := by decide

theorem ok_of {ε β : Type} (r : State × Except ε β) (h : (match r.2 with | .ok _ => true | .error _ => false) = true) :
    ∃ t b, r = (t, .ok b) := by
  obtain ⟨t, e⟩ := r
  cases e with
  | ok b => exact ⟨t, b, rfl⟩
  | error _ => cases h
/-- The events and the pass of cell and column 0, from page 0. -/
theorem witness_weights : ∃ t bs, (paged (crewAt (mxCrew (itemOf (.weights 0 0 3) false)))).readMem 0 0 0 (16 * clsK 0 * clsZ 0) = (t, .ok bs) :=
  ok_of _ (by decide)
theorem witness_scales : ∃ t bs, (paged (crewAt (mxCrew (itemOf (.scales 0) false)))).readMem 0 0 0 (64 * clsBpc 0) = (t, .ok bs) :=
  ok_of _ (by decide)
def passWords : List Dword := [0, 1, 0, 0, 0xFFC0, 0, 0, 0]
theorem witness_pass : (itemOf (.pass passWords 0 3) false).headRead = false
    ∧ (crewX (mxCrew (itemOf (.pass passWords 0 3) false))).mxQueued mxGeometry 0 (itemOf (.pass passWords 0 3) false) = true
    ∧ ∃ t ops, passRead (paged (crewAt (mxCrew (itemOf (.pass passWords 0 3) false)))) 0 0 mxGeometry passWords = (t, .ok ops) :=
  ⟨rfl, by decide, ok_of _ (by decide)⟩
theorem witness_passComplete : (crewX (mxCrew (itemOf (.pass passWords 0 3) true))).mx[0]? = some (itemOf (.pass passWords 0 3) true)
    ∧ ∃ t, writeRows (paged (crewAt (mxCrew (itemOf (.pass passWords 0 3) true)))) probeCrew 0 0 (itemOf (.pass passWords 0 3) true)
      0xFFC0 17 0 = (t, true) := ⟨by decide, _, Prod.ext rfl (by decide)⟩

/-! ### Memory and the copy engine at work -/

/-- FIPS 197, appendix C.3: AES-256 of 00112233...ff under the key 000102...1f. -/
theorem test_aes : aesEnc 0x1f1e1d1c1b1a191817161514131211100f0e0d0c0b0a09080706050403020100 0xffeeddccbbaa99887766554433221100 = 0x8960494b9049fceabf456751cab7a28e := by decide +kernel
theorem test_aes_back : aesDec 0x1f1e1d1c1b1a191817161514131211100f0e0d0c0b0a09080706050403020100 0x8960494b9049fceabf456751cab7a28e = 0xffeeddccbbaa99887766554433221100 := by decide +kernel
/-- IEEE 1619, vector 10: the first block of a unit whose tweak key is 3141..., with unit number ff. -/
theorem test_xts :
    let k : BitVec 256 := 0x2776966649575999699370245777496226357174286053234590452818281827
    let t := aesEnc 0x9245947409820551379993169741880295278333646284239397585326594131 0xFF
    (xtsBlocks (aesEnc k) 1 t 0x0f0e0d0c0b0a09080706050403020100).extractLsb' 0 128 = 0x9bcf70e3996c83e48603772f103a3b1c := by decide +kernel

def store1 : PStore := ⟨wave0, 0, ⟨false, 0x40000, 0⟩, [1, 2, 3, 4], 0, ⟨0, 0, false, 0x4106D, 0x30000⟩, false, 0⟩
def withStore : State := (crewAt id).modCluster 0 (fun c => { c with stores := [store1, { store1 with loc := ⟨false, 0x40004, 0⟩ }] })
theorem witness_memoryAccessResponse : (withStore.cluster 0).stores[1]? = some { store1 with loc := ⟨false, 0x40004, 0⟩ }
    ∧ (∀ q ∈ (withStore.cluster 0).stores.take 1, q.touches ⟨false, 0x40004, 0⟩ 4 = false) ∧ withStore.answers ⟨false, 0x40004, 0⟩ = true
    ∧ 0x40004 + 4 ≤ hbmBytes := by decide
def copy0 (src : Dword) : Copy := ⟨wave0, 0, 0, false, none, 0, none, 0xFFFE0, src, 32, 1, 0, [0, 1], 0, none, 0, none⟩
def copyState (src : Dword) : State := (paged (crewAt id)).modCluster 0 (fun c => { c with copies := [copy0 src] })
theorem witness_copyUnitLand : ((copyState 0xFFE0).cluster 0).copies[0]? = some (copy0 0xFFE0) ∧ (1 : Nat) ∈ (copy0 0xFFE0).todo
    ∧ (copy0 0xFFE0).mayRead ((copyState 0xFFE0).cluster 0) = true ∧ (copy0 0xFFE0).unitSrc 1 / 2 ^ 16 = (copy0 0xFFE0).lowPage
    ∧ landBlocked (copy0 0xFFE0) (copyState 0xFFE0) = false
    ∧ ∃ t bs, (copyState 0xFFE0).copyRead 0 0 ((copy0 0xFFE0).unitSrc 1) = (t, .ok bs) :=
  ⟨by decide, by decide, by decide, by decide, by decide, ok_of _ (by decide)⟩
theorem err_of {ε β : Type} (r : State × Except ε β) (h : (match r.2 with | .ok _ => false | .error _ => true) = true) :
    ∃ t e, r = (t, .error e) := by
  obtain ⟨t, e⟩ := r
  cases e with
  | ok b => cases h
  | error e => exact ⟨t, e, rfl⟩
theorem witness_copyPark : (copy0 0x10000).mayRead ((copyState 0x10000).cluster 0) = true ∧ 0x10000 ∈ (copy0 0x10000).todo.map (copy0 0x10000).unitSrc
    ∧ (∀ a ∈ (copy0 0x10000).todo.map (copy0 0x10000).unitSrc, 0x10000 ≤ a)
    ∧ ((copyState 0x10000).modAsid 0 (fun a => { a with frqBase := 0x100000, log2n := 10 })).ringRoom 0 = true
    ∧ ∃ t e, ((copyState 0x10000).modAsid 0 (fun a => { a with frqBase := 0x100000, log2n := 10 })).copyRead 0 0 0x10000
      = (t, .error e) := ⟨by decide, by decide, by decide, by decide, err_of _ (by decide)⟩
theorem witness_pageWalk : (∃ e, (paged (crewAt id)).walk 0 (1 * 2 ^ 16) = .error e)
    ∧ ∃ t, (paged (crewAt id)).walk 0 (0 * 2 ^ 16) = .ok t ∧ pteW t.pte = true := ⟨⟨_, rfl⟩, _, rfl, by decide⟩
def aheadState : State := paged (crewAt id)
set_option exponentiation.threshold 2048 in
set_option maxRecDepth 8000 in
theorem witness_instructionFetch : aheadOk aheadState 0 0 0 = true ∧ ∃ t u, aheadState.fetchLine 0 0 0 = (t, .ok u) :=
  ⟨by decide, ok_of _ (by decide)⟩
theorem witness_remoteTimeout : ∃ x, ((crewAt id).modWave wave0 (fun x => { x with remoteWait := true })).wave? wave0 = some x ∧ x.remoteWait = true :=
  ⟨Option.get _ (by decide), (Option.some_get _).symm, by decide⟩
/-- A store under another page is pending while the translation of page 1 goes. -/
theorem witness_invalidationBroadcast : ∀ q ∈ withStore.clusters, ∀ p ∈ q.2.stores,
    p.tlb.serves 0 0x10000 = false := by decide
theorem witness_ostlerAccess : (2 ^ 39 - 8) + 8 ≤ hbmBytes ∧ bootedState.booted = true := by decide

/-- Firmware's accesses: the last 8 bytes of HBM, sound and with an error. -/
theorem witness_ostlerAccess_ecc : bootedState.eccHbm (2 ^ 39 - 8) 8 = false
    ∧ ({ bootedState with ecc := [.hbm (2 ^ 34 - 1)] } : State).eccHbm (2 ^ 39 - 8) 8 = true := by decide

/-! ### The dispatcher, firmware and the module at work -/

def launchAt (f : Launch → Launch) : State := paged ((boot State.reset).setLaunch 0 (f launchX))
/-- A launch that waits for the counter at 0xFFF8 to reach `t`, with and without iterations. -/
def waitsFor (t n : Dword) (l : Launch) : Launch := { l with state := .waiting, record := ((l.record.set 5 0xFFF8).set 6 t).set 1 n }
theorem witness_launchPrereqRead : ((launchAt (waitsFor 1 256)).launch? 0).isSome = true
    ∧ (waitsFor 1 256 launchX).state = .waiting ∧ (waitsFor 1 256 launchX).held = none ∧ (launchAt (waitsFor 1 256)).jobOff 0 = false
    ∧ (∃ t, readPrereqs 0 (waitsFor 1 256 launchX).prereqs (launchAt (waitsFor 1 256)) = (t, .ok false))
    ∧ (∃ t, readPrereqs 0 (waitsFor 0 256 launchX).prereqs (launchAt (waitsFor 0 256)) = (t, .ok true))
    ∧ (waitsFor 0 256 launchX).niter ≠ 0 ∧ (waitsFor 0 0 launchX).niter = 0 ∧ (waitsFor 0 0 launchX).dw 13 = 0 :=
  ⟨by decide, by decide, by decide, by decide, ⟨_, Prod.ext rfl (by decide)⟩, ⟨_, Prod.ext rfl (by decide)⟩, by decide, by decide, by decide⟩
/-- A launch whose argument block is at 0xFE00, or that has none. -/
def argsAt (a : Dword) (l : Launch) : Launch := { l with argsRead := false, record := l.record.set 4 a }
theorem witness_argumentBlockRead : ((launchAt (argsAt 0xF000)).launch? 0).isSome = true ∧ (argsAt 0xF000 launchX).argsRead = false
    ∧ (argsAt 0xF000 launchX).held = none ∧ (argsAt 0xF000 launchX).placed ≠ 0 ∧ (argsAt 0xF000 launchX).form ≠ 2
    ∧ (argsAt 0 launchX).dw 4 = 0
    ∧ ringFits 0 (launchAt (argsAt 0)) ((launchAt (argsAt 0)).argsDone 0 (argsAt 0 launchX) [])
    ∧ (argsAt 0xF000 launchX).dw 4 ≠ 0 :=
  ⟨by decide, by decide, by decide, by decide, by decide, by decide, Nat.le_refl 0, by decide⟩

/-! The block of a launch lies in one page, and every doubleword after the first finds its translation held or walks
again, as a free value decides: both give it. -/

def argsBase : State := launchAt (argsAt 0xF000)
def page0 : Tlb := ⟨0, 0, false, 0x4106D, 0x30000⟩
def argsHeld (tl : List Tlb) (n : Nat) : State := { argsBase with tiles := SMap.set [] [] 0 tl, free := n }

theorem walk_page0 (tl : List Tlb) (n va : Nat) (h : va < 65536) : (argsHeld tl n).walk 0 va = .ok page0 := by
  have e (hi lo : Nat) (hl : 16 ≤ lo) : bits va hi lo = bits 0 hi lo := by
    unfold bits
    rw [Nat.div_eq_of_lt (Nat.lt_of_lt_of_le h (Nat.pow_le_pow_right (by decide : 0 < 2) hl)), Nat.zero_div]
  have z : argsBase.walk 0 0 = .ok page0 := by decide
  rw [← z, show (argsHeld tl n).walk = argsBase.walk from rfl]
  unfold State.walk
  rw [e 54 42 (by decide), e 41 29 (by decide), e 28 16 (by decide), Nat.div_eq_of_lt (by omega : va < 2 ^ 16), Nat.zero_div]

theorem tile_page0 (va : Nat) (h : va < 65536) : tileOf va = 0 := by
  have e (hi lo : Nat) (hl : 16 ≤ lo) : bits va hi lo = 0 := by
    unfold bits
    rw [Nat.div_eq_of_lt (Nat.lt_of_lt_of_le h (Nat.pow_le_pow_right (by decide : 0 < 2) hl)), Nat.zero_mod]
  simp [tileOf, e]

theorem dev_page0 (tl : List Tlb) (n va : Nat) (h : va + 8 ≤ 65536) (ht : tl = [] ∨ tl = [page0]) :
    ∃ m l, (argsHeld tl n).devAt 0 va 8 useLoad = (argsHeld [page0] m, .ok l) := by
  have look : ∃ ul m, (argsHeld tl n).tileLookup 0 va = (argsHeld ul m, .ok page0) ∧ (ul = [] ∨ ul = [page0]) := by
    have sv : page0.serves 0 va = true := by
      have : va / 65536 = 0 := Nat.div_eq_of_lt (by omega)
      simp [Tlb.serves, page0, this]
    have z : tileOf va = 0 := tile_page0 va (by omega)
    unfold State.tileLookup
    rw [z]
    rcases ht with rfl | rfl
    · exact ⟨[], n, by rw [← walk_page0 [] n va (by omega)]; rfl, .inl rfl⟩
    · have f : ((argsHeld [page0] n).tile 0).find? (fun t => t.serves 0 va) = some page0 := by
        simp [argsHeld, State.tile, sv]
      rw [f]
      dsimp only
      split
      · exact ⟨[page0], n + 1, rfl, .inr rfl⟩
      · refine ⟨[], n + 1, ?_, .inl rfl⟩
        have g : (argsHeld [page0] n).stillHeld.2.setTile 0 (((argsHeld [page0] n).tile 0).filter (fun u => !u.serves 0 va))
            = argsHeld [] (n + 1) := by
          rw [show (argsHeld [page0] n).tile 0 = [page0] from rfl, show [page0].filter (fun u => !u.serves 0 va) = [] by simp [sv]]
          rfl
        rw [g, show (argsHeld [page0] n).stillHeld.2.walk = (argsHeld [page0] (n + 1)).walk from rfl, walk_page0 _ _ _ (by omega)]
  obtain ⟨ul, m, hl, hu⟩ := look
  refine ⟨m, page0.loc va, ?_⟩
  unfold State.devAt State.xlatTile
  rw [if_neg (by omega), hl]
  have c : useCause useLoad page0 = none := by decide
  have t : (argsHeld ul m).touch page0 useLoad = (argsHeld ul m, page0) := rfl
  have k : (argsHeld ul m).holdTile va page0 = argsHeld [page0] m := by
    have z : tileOf va = 0 := tile_page0 va (by omega)
    unfold State.holdTile
    rw [z]
    rcases hu with rfl | rfl <;> rfl
  have a : (argsHeld [page0] m).answers (page0.loc va) = true := rfl
  have b : (argsHeld [page0] m).eccHbm (page0.loc va).pa 8 = false := rfl
  have q : (argsHeld [page0] m).countChannel (page0.loc va) = argsHeld [page0] m := rfl
  simp only [c, t, k, a, b, q]
  simp

theorem witness_readArgs : ∀ (k va : Nat) (tl : List Tlb) (n : Nat), va + 8 * k ≤ 65536 → tl = [] ∨ tl = [page0] →
    ∃ t bs, readArgs 0 va k (argsHeld tl n) = (t, .ok bs)
  | 0, _, tl, n, _, _ => ⟨argsHeld tl n, [], rfl⟩
  | k + 1, va, tl, n, h, ht => by
    obtain ⟨m, l, e⟩ := dev_page0 tl n va (by omega) ht
    obtain ⟨t, bs, g⟩ := witness_readArgs k (va + 8) [page0] m (by omega) (.inr rfl)
    exact ⟨t, t.homeRead l 8 ++ bs, by simp only [readArgs, e, g]⟩

def readyLaunch (l : Launch) : Launch := { l with state := .ready, placed := 0, record := [0, 512, 1, 1, 0, 0, 0, 0, 0, 0, 0, 0, 0, 0, 0, 0] }
def placement : Placement := ⟨0, 103, 0x10000, 0x20000, 0x30080, 0x40000, 0x50000, 0x60000⟩
theorem witness_crewPlacement : (launchAt readyLaunch).launch? 0 = some (readyLaunch launchX) ∧ (launchAt readyLaunch).placing (readyLaunch launchX) = true
    ∧ (launchAt readyLaunch).behind 0 (readyLaunch launchX) = false ∧ placement.ctxBase.toNat % 65536 = 0
    ∧ placement.hoBase.toNat % 128 = 0 ∧ placement.prvBase.toNat % 65536 = 0 ∧ placement.cluster < 104
    ∧ (readyLaunch launchX).only = none ∧ (readyLaunch launchX).kernel = some kernelX ∧ (readyLaunch launchX).form ≠ 2
    ∧ ((launchAt readyLaunch).cluster 103).isOff = false ∧ (launchAt readyLaunch).retiring 103 = false
    ∧ (launchAt readyLaunch).coreFits 103 ((readyLaunch launchX).crewGangs 0) kernelX = true
    ∧ queuesFit ((launchAt readyLaunch).cluster 103) 0 kernelX.queues = true := by decide
/-- A launch of two iterations in spatial form, whose kernel has EQP 1 as its first word and an EQPN for it. -/
def spatialKernel : Kernel := { kernelX with
  paddocks := [[[(encode (.eqpn ⟨none, none, 0, 1⟩)).getD 0]]], eqps := [⟨1, 1, 0, 0, 0⟩], eqpT := [(1, 0)], forms := 5 }
def spatialLaunch (args : Bool) (l : Launch) : Launch := { readyLaunch l with
  kernel := some spatialKernel, argsRead := args, record := [0, 2, 0x201, 0x4, 0, 0, 0, 0, 0, 0, 0, 0, 0, 0, 0, 0] }
theorem witness_spatialPlacement : (spatialLaunch true launchX).form = 2
    ∧ (launchAt (spatialLaunch true)).placing (spatialLaunch true launchX) = true
    ∧ (launchAt (spatialLaunch true)).behind 0 (spatialLaunch true launchX) = false
    ∧ (launchAt (spatialLaunch true)).coreFits 103 ((spatialLaunch true launchX).crewGangs 0) spatialKernel = true := by decide
/-- The crew has been made, and one place of its slice is free. -/
def madeState : State := withKernel lastPlace (fun _ => spatialKernel)
theorem witness_placeRegion : ∃ u, madeState.placeRegion probeCrew (chainsThere madeState { placement with cluster := 0 } spatialKernel)
    = some u := by
  have h : madeState.freePlaces noRegion.cluster = [(0, 15, 3)] := by decide
  have c : madeState.crew? probeCrew = some noRegion := by decide
  have n : madeState.kernel? probeCrew = some spatialKernel := by decide
  have p : spatialKernel.firstPads.length = 1 := by decide
  have q : chainsThere madeState { placement with cluster := 0 } spatialKernel = [0] := by decide
  simp only [State.placeRegion, c, n, p, q, State.grant, State.choosePlaces, h, shuffle, List.length_singleton, Nat.le_refl, if_true, Nat.mod_one]
  exact ⟨_, rfl⟩
/-- Its region holds a free place for the paddock; the image loads, or is refused. -/
def givenAt (n : Kernel) : State := withKernel (crewAt (fun x => { x with
  region := some ⟨1, 1, [freePlace], false, true⟩, rounds := [], flight := [] })) (fun _ => n)
theorem witness_startRegion : (∃ t, (givenAt spatialKernel).loadRegion probeCrew = .ok t)
    ∧ ∃ t, (givenAt badPaddock).loadRegion probeCrew = .refused t := ⟨⟨_, rfl⟩, _, rfl⟩
theorem witness_startSpatial : ∃ k, gctx? (paged (givenAt spatialKernel)) gang0 = some k ∧ k.kn.startPoint? = some 1
    ∧ hdrEcc k (paged (givenAt spatialKernel)) = none :=
  ⟨Option.get _ (by decide), (Option.some_get _).symm, by decide, by decide⟩

theorem witness_agingPeriod : (launchAt readyLaunch).ageb ≠ 0 ∧ (readyLaunch launchX).state = .ready := by decide
def trigAt (r : List Dword) : State := (boot State.reset).setQueue 5 7 { queue7 with handler := some (r, 3), trig := 1 }
theorem witness_triggerConsume : ((trigAt record1).queue 5 7).handler = some (record1, 3) ∧ ((trigAt record1).queue 5 7).trig ≠ 0
    ∧ (trigAt record1).enqStatus 0 3 record1 = 0
    ∧ (trigAt (record1.set 2 0)).enqStatus 0 3 (record1.set 2 0) ≠ 0 ∧ (trigAt (record1.set 2 0)).enqStatus 0 3 (record1.set 2 0) ≠ 1 := by decide
def retiredState : State :=
  let s := crewAt (fun x => { x with region := none, rounds := [] })
  { s with waves := s.waves.map (fun w => (w.1, { w.2 with retired := true })) }
theorem witness_crewRetire : (crewOf retiredState).parks = [] ∧ retiredState.crew? probeCrew = some (crewOf retiredState)
    ∧ retiredState.allRetired probeCrew = true
    ∧ retiredState.jobOff 0 = false ∧ retiredState.drained probeCrew (crewOf retiredState) kernelX = true
    ∧ launchX.gone + 1 = launchX.ncrews ∧ launchX.placed = launchX.ncrews ∧ launchX.dw 13 = 0 := by decide

/-- A launch with DONE at 0xFFF8, which is over: it has no iteration, or its last crew has retired. -/
def doneAt (l : Launch) : Launch := { l with record := l.record.set 13 0xFFF8 }
theorem witness_doneReached : (doneAt (waitsFor 0 0 launchX)).dw 13 ≠ 0
    ∧ doneReached (launchAt (fun l => doneAt (waitsFor 0 0 l))) 0 (doneAt (waitsFor 0 0 launchX))
    ∧ doneReached (paged (withLaunch retiredState doneAt)) 0 (doneAt launchX) :=
  ⟨by decide, .inr ⟨_, nodeLoc, Prod.ext rfl (by decide)⟩, .inr ⟨_, nodeLoc, Prod.ext rfl (by decide)⟩⟩

/-- Records that hold a wave and a gang, and none. -/
def heldState : State := (crewAt id).modWave wave0 (fun x => { x with pending := some 7 })
theorem witness_resume : (crewAt id).holds 0 7 = false ∧ heldState.holds 0 7 = true ∧ (∀ l ∈ heldState.launches, l.2.held ≠ some 7)
    ∧ (∀ g ∈ heldState.gangs, g.2.due = none) ∧ (heldState.asid 0).stopped = false
    ∧ ((heldState.modAsid 0 (fun a => { a with stopped := true })).asid 0).stopped = true := by decide
theorem witness_stop : ((launchAt (fun l => { l with held := some 7 }))).holds 0 7 = true
    ∧ (launchAt (fun l => { l with held := some 7 })).crewsOf 0 = [] := by decide
/-- Record 7 holds a launch, which waits or whose DONE is still to rise. -/
def heldLaunch (st : LState) : State := launchAt (fun l => { l with held := some 7, state := st })
theorem witness_releaseLaunches (st : LState) : (heldLaunch st).holds 0 7 = true ∧ ((heldLaunch st).asid 0).stopped = false
    ∧ (heldLaunch st).launches.filter (fun l => l.2.asid == 0 && l.2.held == some 7)
      = [(0, { launchX with held := some 7, state := st })] := by cases st <;> decide
/-- A gang of spatial form whose decision is due. -/
def spatialDue : State := withGang (boot eqpDue) (fun g => { g with form := 2 })
theorem witness_decideSpatial : ∃ g, spatialDue.gangs = [] ++ [(gang0, g)] ∧ spatialDue.gang? gang0 = some g
    ∧ spatialDue.asidOf gang0.crew = 0 ∧ g.form = 2 ∧ g.due.isSome = true :=
  ⟨Option.get (spatialDue.gang? gang0) (by decide), by decide, (Option.some_get _).symm, by decide, by decide, by decide⟩
/-- STOP of a job whose crew has a chain with a stopping round, which may be bound; and one whose older round is still open. -/
def stopAt (bound : Bool) (parked : Nat) : State := (crewAt (fun x => { x with
    chains := [chain1 [{ wEntry .cst 7 with parked := some 7, round := parked }]]
    rounds := [{ probeRound with bound := bound }, { probeRound with id := 1, iter := 1 }] })).modWave wave0 (fun x => { x with pending := some 7 })
theorem witness_stop_crews : ((stopAt true 0).holds 0 7 = true ∧ (stopAt true 0).NamesOnce ∧ (crewOf (stopAt true 0)).neverEnds = true)
    ∧ ((stopAt false 0).holds 0 7 = true ∧ (stopAt false 0).NamesOnce
      ∧ ¬∃ c x, (stopAt false 0).crew? c = some x ∧ (stopAt false 0).asidOf c = 0 ∧ x.neverEnds = true)
    ∧ (stopAt false 1).holds 0 7 = true ∧ (stopAt false 1).NamesOnce
      ∧ ¬∃ c x, (stopAt false 1).crew? c = some x ∧ (stopAt false 1).asidOf c = 0 ∧ x.neverEnds = true := by
  have none_ (n : Nat) (h : (stopAt false n).crews = [(probeCrew, crewOf (stopAt false n))])
      (e : (crewOf (stopAt false n)).neverEnds = false) :
      ¬∃ c x, (stopAt false n).crew? c = some x ∧ (stopAt false n).asidOf c = 0 ∧ x.neverEnds = true := by
    rintro ⟨c, x, q, -, z⟩
    rw [State.crew?, h] at q
    simp only [Tab.get?] at q
    split at q
    · cases q; rw [e] at z; cases z
    · cases q
  refine ⟨⟨by decide, ?_, by decide⟩, ⟨by decide, ?_, none_ 0 (by decide) (by decide)⟩, by decide, ?_, none_ 1 (by decide) (by decide)⟩ <;>
    (show (List.Nodup _ ∧ List.Nodup _ ∧ List.Nodup _ ∧ List.Nodup _); decide)

theorem witness_gangResume : ∃ g, (crewAt id).gang? gang0 = some g ∧ ∀ i x, (crewAt id).gang? i = some x → x.due = none := by
  refine ⟨Option.get _ (by decide), (Option.some_get _).symm, fun i x h => ?_⟩
  rw [State.gang?, show (crewAt id).gangs = [(gang0, Gang.start 0 0)] from by decide] at h
  simp only [Tab.get?] at h
  split at h
  · cases h; rfl
  · cases h
theorem witness_booted : (∀ s, (boot s).booted = true) ∧ bootedState.booted = true ∧ (crewAt id).booted = true ∧ (launchAt id).booted = true
    ∧ (nodAt (.gate (ndf 0 0))).booted = false := ⟨fun _ => rfl, by decide, by decide, by decide, by decide⟩
theorem witness_preempt : ∃ x, (crewAt id).crew? probeCrew = some x ∧ (crewAt id).asidOf probeCrew = 0
    ∧ x.cluster = fld (0 : Dword) 6 0 ∧ probeCrew.crew = fld (0 : Dword) 47 8 ∧ x.saved = false :=
  ⟨Option.get _ (by decide), (Option.some_get _).symm, by decide, by decide, by decide, by decide⟩
/-- The memory of cluster 0 is full, and the launch that waits may only go there. -/
def sliceState : State :=
  let s := withKernel ((crewAt id).modCluster 0 (fun c => { c with tslice := 1 })) (fun n => { n with crw := 2097152 })
  { s with launches := s.launches ++ [(1, { readyLaunch launchX with only := some 0 })] }
theorem witness_sliceTimerExpiry : sliceState.crew? probeCrew = some (crewOf sliceState) ∧ (sliceState.cluster (crewOf sliceState).cluster).tslice ≠ 0
    ∧ (crewOf sliceState).saved = false ∧ sliceState.wanted probeCrew (crewOf sliceState) = true := by decide
def preemptState : State := crewAt (fun x => { x with preempt := true })
theorem witness_crewSave : preemptState.crew? probeCrew = some (crewOf preemptState) ∧ preemptState.kernel? probeCrew = some kernelX
    ∧ (crewOf preemptState).preempt = true ∧ (crewOf preemptState).saved = false
    ∧ (crewOf preemptState).ngangs ≤ 8 ∧ (preemptState.cluster (crewOf preemptState).cluster).copies.length ≤ 256
    ∧ preemptState.eccCrw probeCrew 0 kernelX.crw = false ∧ preemptState.jobOff (preemptState.asidOf probeCrew) = false ∧ preemptState.saveReady probeCrew (crewOf preemptState) = true := by decide
def savedState : State := crewAt (fun x => { x with saved := true })
theorem witness_crewRestore : savedState.crew? probeCrew = some (crewOf savedState) ∧ (crewOf savedState).saved = true
    ∧ savedState.eccHbm (crewOf savedState).ctxBase.toNat (0xE4A00 + 128 * kernelX.vregs * 64 + kernelX.crw) = false
    ∧ savedState.restoreFits probeCrew (crewOf savedState) kernelX = true ∧ savedState.retiring 0 = false := by decide

theorem witness_gates : ((boot State.reset).cluster 103).gate = .open_ ∧ (boot State.reset).idle 103 = true
    ∧ (((boot State.reset).modCluster 103 (fun c => { c with gate := .request })).cluster 103).gate = .request
    ∧ (((boot State.reset).modCluster 103 (fun c => { c with gate := .waking })).cluster 103).gate = .waking := by decide
theorem witness_curb : (4 : BitVec 3) ≠ 0 ∧ ({ boot State.reset with curbOn := true, curbClear := true } : State).curbOn = true
    ∧ ({ boot State.reset with curbOn := true, curbClear := true } : State).curbClear = true := by decide
def serviceAt (op : Nat) : State := { boot State.reset with svcCmd := svcWord op 3 0, svcStat := .running }
theorem witness_service : State.reset.serving = false ∧ (serviceAt 1).serving = true ∧ fld (serviceAt 1).svcCmd 63 56 = 1
    ∧ fld (serviceAt 2).svcCmd 63 56 = 2 ∧ (serviceAt 2).movedOut (fld (serviceAt 2).svcCmd 55 48) = true
    ∧ fld (serviceAt 4).svcCmd 63 56 ≠ 2 ∧ State.reset.spareUsed.getLsbD (103 / 13) = false
    ∧ ({ boot State.reset with spareUsed := 0x80 } : State).spareUsed.getLsbD (103 / 13) = true
    ∧ State.reset.ostlers.getLsbD 14 = false := by decide
theorem witness_serviceComplete : (∀ q ∈ (serviceAt 2).movers 3,
      ((({ (serviceAt 2).moveIn 3 with svcStat := .done } : State)).asid ((serviceAt 2).asidOf q.1)).waiting.length
        ≤ ((serviceAt 2).asid ((serviceAt 2).asidOf q.1)).waiting.length)
    ∧ fld (serviceAt 3).svcCmd 63 56 = 3 ∧ (serviceAt 3).pagesMoved (fld (serviceAt 3).svcCmd 55 48) = true := by decide

/-! ### The host -/

def header (opc : Nat) (d0 d1 d2 d3 : Dword) : Header := { d0 := BitVec.ofNat 64 (opc * 2 ^ 56) ||| d0, d1 := d1, d2 := d2, d3 := d3 }
theorem witness_commands : State.reset.booted = false ∧ bootedState.booted = true ∧ badCmd (header 4 (1 <<< 52) 0 0 0) 0 0 = true
    ∧ Header.opc (header 4 0 0 0 0) = 4 ∧ badCmd (header 4 0 0 0 0) 0 0 = false ∧ bootedState.mayCommand 1 0 = false
    ∧ bootedState.mayCommand 0 0 = true ∧ Header.opc (header 6 0 0 0 0) = 6 := by decide
theorem witness_hostLaunch : Header.opc (header 1 0 0 0 0) = 1 ∧ badCmd (header 1 0 0 0 0) record1.length 16 = false := by decide
theorem witness_subscribe : Header.opc (header 2 0 0 0 0) = 2 ∧ badCmd (header 2 0 0 0 0) 0 0 = false ∧ (header 2 0 0 0 0).d1 = 0
    ∧ (header 2 0 4 0 0).d1 ≠ 0 ∧ (header 2 0 4 0 0).d1.toNat % 8 ≠ 0 := by decide
/-- A SUBSCRIBE to the counter at 0xFFF8, which translates, and to one at 0x10000, which does not. -/
theorem witness_subscribe_counter : badCmd (header 2 0 0xFFF8 1 0) 0 0 = false ∧ (header 2 0 0xFFF8 1 0).d1 ≠ 0
    ∧ (header 2 0 0xFFF8 1 0).d1.toNat % 8 = 0 ∧ bootedState.subs.length < 1024
    ∧ (∃ t l, bootedState.devAt 0 (header 2 0 0xFFF8 1 0).d1.toNat 8 useLoad = (t, .ok l))
    ∧ (header 2 0 0x10000 1 0).d1 ≠ 0 ∧ (header 2 0 0x10000 1 0).d1.toNat % 8 = 0
    ∧ ∃ t e, bootedState.devAt 0 (header 2 0 0x10000 1 0).d1.toNat 8 useLoad = (t, .error e) :=
  ⟨by decide, by decide, by decide, by decide, ok_of _ (by decide), by decide, by decide, err_of _ (by decide)⟩

def atomicHeader : Header := header 5 0 0xFFF8 1 (0x003C000000000000)
theorem witness_atomic : Header.opc atomicHeader = 5 ∧ badCmd atomicHeader 0 0 = false ∧ fld atomicHeader.d3 55 52 < 14
    ∧ 2 ≤ fld atomicHeader.d3 51 50 ∧ atomicHeader.d1.toNat % 2 ^ fld atomicHeader.d3 51 50 = 0
    ∧ ∃ t l, bootedState.devAt 0 atomicHeader.d1.toNat (2 ^ fld atomicHeader.d3 51 50) useStore = (t, .ok l) :=
  ⟨by decide, by decide, by decide, by decide, by decide, ok_of _ (by decide)⟩
def sub0 : Sub := ⟨⟨1, 0⟩, 0, 0xFFF8, 0, 9⟩
theorem witness_event : ({ bootedState with subs := [sub0] } : State).subs[0]? = some sub0 ∧ sub0.addr ≠ 0
    ∧ ∃ t l, ({ bootedState with subs := [sub0] } : State).devAt 0 sub0.addr.toNat 8 useLoad = (t, .ok l) ∧ sub0.thr.toNat ≤ leNat (t.homeRead l 8) :=
  ⟨by decide, by decide, _, nodeLoc, Prod.ext rfl (by decide), Nat.zero_le _⟩

/-- RMA: the last register of the control space and DBGCTL of the last ASID; the last bytes of a page; a length of 4. -/
theorem witness_rma : bootedState.connAsid 0 = some 0 ∧ (BitVec.ofNat 64 (2 ^ 63 + 0x3FFFFF8)).getLsbD 63 = true
    ∧ ctlOffset (BitVec.ofNat 64 (2 ^ 63 + 0x3FFFFF8)) 8 = some 0x3FFFFF8 ∧ mayWrite 0xFFF (0x100000 + 0x400 * 0xFFF + 0x28) = true
    ∧ ctlOffset (BitVec.ofNat 64 (2 ^ 63)) 4 = none ∧ (0xFFFE : BitVec 64).getLsbD 63 = false := by decide
theorem witness_rmaFind : (∃ t ls, bootedState.rmaFind 0 useStore (pageParts 0xFFFE 2) = (t, ls, true))
    ∧ ∃ t ls, bootedState.rmaFind 0 useLoad (pageParts 0xFFFE 2) = (t, ls, true) :=
  ⟨⟨_, _, Prod.ext rfl (Prod.ext rfl (by decide))⟩, ⟨_, _, Prod.ext rfl (Prod.ext rfl (by decide))⟩⟩
theorem witness_registerWrite : (0x10001 % 8 ≠ 0 ∨ 0x10001 < 0x10000) ∧ fld (999 : Dword) 31 0 < 1000 ∧ fld (1199 : Dword) 11 0 < 1200
    ∧ 2200 < fld (2201 : Dword) 11 0 := by decide
theorem witness_powerOnBoot : State.reset.bootStat = 0 ∧ State.reset.canVerify = true := by decide
/-- A narrow read at the end of a doubleword; by R437 it returns the bytes it addresses: HOLD's high bytes, CAP's low ones. -/
theorem witness_ctlLoad : 0x10016 % 8 + 2 ≤ 8 := by decide
theorem test_ctlLoad : (match exec (.ostlerAccess (.ctlLoad 0x10010 2)) bootedState with | .next t => t.fwOut | _ => []) = [2200] := by decide

/-! ### The machine as a whole -/

/-- A word of class 11, and a core word that its wave may not execute: a register beyond the allocation. -/
def illegalAt : State := threadedAt 0xB000000000000000
theorem witness_IllegalWord : Decode.core 0xB000000000000000 = .error .unassignedClass
    ∧ ∃ k, illegalAt.focus = .wave wave0 ∧ ctx? { illegalAt with now := 1, focus := .none } wave0 = some k ∧ k.issues = true
      ∧ blocked k { illegalAt with now := 1, focus := .none } = none ∧ k.inside k.wv.pc.toNat = true
      ∧ k.word? { illegalAt with now := 1, focus := .none } k.wv.pc.toNat = some 0xB000000000000000
      ∧ k.wordBreaks { illegalAt with now := 1, focus := .none } (0, false) = [] :=
  ⟨by decide, Option.get _ (by decide), rfl, (Option.some_get _).symm, by decide, by decide, by decide, by decide, by decide⟩
/-- The objects of the small states are listed once. -/
theorem witness_NamesOnce : illegalAt.NamesOnce ∧ (at_ (.nop joinWitness)).NamesOnce ∧ State.reset.NamesOnce := by
  refine ⟨?_, ?_, ?_⟩ <;> (show (List.Nodup _ ∧ List.Nodup _ ∧ List.Nodup _ ∧ List.Nodup _); decide)

def beyond : Instr := .add ⟨0, 0, false, 8, 4, .v 6, 0, 0⟩
def fewRegs : State := withKernel (at_ beyond) (fun n => { n with vregs := 8 })
theorem witness_illegal_registers : ∃ k, fewRegs.focus = .wave k.w ∧ ctx? fewRegs k.w = some k ∧ beyond.isCore = true
    ∧ k.legal beyond = false := ⟨Option.get (ctx? fewRegs wave0) (by decide), rfl, (Option.some_get _).symm, by decide, by decide⟩
theorem witness_ring : (ringAt (.nop joinWitness) 1022).ringRoom 0 = true ∧ (ringAt (.nop joinWitness) 1023).ringRoom 0 = false := by decide

theorem witness_StepRuns_wave : ∃ k, (at_ (.nop joinWitness)).focus = .wave wave0
    ∧ ctx? { at_ (.nop joinWitness) with now := 1, focus := .none } wave0 = some k ∧ k.issues = true
    ∧ blocked k { at_ (.nop joinWitness) with now := 1, focus := .none } = none ∧ k.inside k.wv.pc.toNat = true
    ∧ k.word? { at_ (.nop joinWitness) with now := 1, focus := .none } k.wv.pc.toNat = some 0x40B0000000000000
    ∧ Decode.core 0x40B0000000000000 = .ok (.nop joinWitness)
    ∧ k.wordBreaks { at_ (.nop joinWitness) with now := 1, focus := .none } (predOf (.nop joinWitness)) = [] :=
  ⟨Option.get _ (by decide), rfl, (Option.some_get _).symm, by decide, by decide, by decide, by decide, by decide, by decide⟩
theorem witness_StepRuns_node : ∃ f, (nodAt (.gate (ndf 0 0))).focus = .node f
    ∧ f.word? { nodAt (.gate (ndf 0 0)) with now := 1 } = some 0xC0E0000000000000
    ∧ Decode.node 0xC0E0000000000000 = .ok (.gate (ndf 0 0)) := ⟨_, rfl, by decide, by decide⟩
def poolState : State := { at_ (.nop joinWitness) with focus := .none, agenda := [.schedule [wave0]] }
theorem witness_StepRuns_pool : poolState.focus = .none ∧ poolState.agenda = .schedule [wave0] :: []
    ∧ State.order { poolState with now := 1 } [wave0] = wave0 :: []
    ∧ ∃ u, fetched (fetchWave (State.readied { poolState with now := 1, agenda := [] } wave0) wave0) = .next u ∧ issued (State.readied { poolState with now := 1, agenda := [] } wave0) u wave0 = true :=
  ⟨rfl, rfl, by decide, _, rfl, by decide⟩
/-- A wave that issues itself, and one of a spatial gang whose decision is due. -/
theorem witness_StepRuns_issue : (State.sequencer { at_ (.nop joinWitness) with focus := .none, agenda := [], now := 1 } wave0) = none
    ∧ (State.sequencer (withGang (at_ (.nop joinWitness)) (fun g => { g with form := 2, due := some 1 })) wave0).isSome = true := by decide
theorem witness_StepRuns_agenda : ({ State.reset with agenda := [.event .curbLift] } : State).focus = .none
    ∧ ({ State.reset with agenda := [.event .curbLift] } : State).agenda = .event .curbLift :: [] := ⟨rfl, rfl⟩
theorem witness_StepKeepsInv : State.reset.Inv ∧ ∃ t, step State.reset = .next t := ⟨reset_inv, _, rfl⟩
theorem witness_StepKeepsInv_word : ∃ t, step (at_ (.nop joinWitness)) = .next t := ⟨_, rfl⟩
theorem witness_RoundTrips : (Instr.nop joinWitness).isCore = true ∧ (Instr.nop joinWitness).wf = true
    ∧ (Instr.gate (ndf 0 0)).isNode = true ∧ (Instr.gate (ndf 0 0)).wf = true := by decide

/-- A wave of a halted gang, of a saved crew, and one whose record is pending. -/
theorem witness_HeldWaves : (∃ k, ctx? { withGang (at_ (.nop joinWitness)) (fun g => { g with halted := true }) with now := 1, focus := .none } wave0 = some k
      ∧ k.issues = true ∧ k.g.halted = true ∧ k.g.moving = none)
    ∧ (∃ k, ctx? { withCrew (at_ (.nop joinWitness)) (fun x => { x with saved := true }) with now := 1, focus := .none } wave0 = some k
      ∧ k.issues = true ∧ (k.g.halted = false ∨ k.g.moving ≠ none) ∧ k.c.saved = true)
    ∧ ∃ k, ctx? { withWave (at_ (.nop joinWitness)) (fun x => { x with pending := some 7 }) with now := 1, focus := .none } wave0 = some k
      ∧ k.issues = true ∧ (k.g.halted = false ∨ k.g.moving ≠ none) ∧ k.c.saved = false ∧ k.wv.pending ≠ none :=
  ⟨⟨Option.get _ (by decide), (Option.some_get _).symm, by decide, by decide, by decide⟩,
    ⟨Option.get _ (by decide), (Option.some_get _).symm, by decide, by decide, by decide⟩,
    ⟨Option.get _ (by decide), (Option.some_get _).symm, by decide, by decide, by decide, by decide⟩⟩
/-- A wave of a halted gang whose own record finds the ring full: it is not halted yet (R415). -/
def unrecordedState : State := withGang (withWave ((ringAt (.nop joinWitness) 1023).modAsid 0 (fun a => { a with
  waiting := [[7, 0, 0, 0, 0, 0, 0, 0]] })) (fun x => { x with pending := some 7 })) (fun g => { g with halted := true })
theorem witness_HeldWaves_unrecorded : ∃ k, ctx? { unrecordedState with now := 1, focus := .none } wave0 = some k ∧ k.issues = true
    ∧ k.wv.unrecorded { unrecordedState with now := 1, focus := .none } k.asid = true
    ∧ (unrecordedState.asid k.asid).stopped = false ∧ (unrecordedState.asid k.asid).stopping = false ∧ k.c.saved = false
    ∧ k.wv.pending ≠ none ∧ (k.word? { unrecordedState with now := 1, focus := .none } k.wv.pc.toNat).isSome = true
    ∧ unrecordedState.NamesOnce :=
  ⟨Option.get _ (by decide), (Option.some_get _).symm, by decide, by decide, by decide, by decide, by decide, by decide, by decide,
    (show (List.Nodup _ ∧ List.Nodup _ ∧ List.Nodup _ ∧ List.Nodup _) by decide)⟩

/-- A token whose fields are at the ends of their ranges, as its 128 bits (R69). -/
def tokHigh : Tok := { tok0 with
    paddock := 4095, cell := 15, frame := 1023, slot := 127, port := true, blk := 7, err := true, value := 0x8000000000000001 }
theorem test_token_bits : tokHigh.bits 3 = 0x8000000000000001FFFFFFFFFF000000
    ∧ ({ tok0 with cell := 5, slot := 9 } : Tok).bits 1 = 0x00000000000000054001400120000000 := by decide
theorem test_token_bytes : (tok0.bytes 0).map BitVec.toNat = [0, 0, 0, 0, 0, 0, 0, 0, 5, 0, 0, 0, 0, 0, 0, 0] := by decide
/-- A frame of a child loop in block 7: who started it, and its counts (R286). -/
def linked : Frame := { probeFrame with blk := 7, tag := tagMk 19 1, how := ⟨3, some (15, 1023), 127⟩, arrived := 65535, fired := 1 }
theorem test_frame_header : linked.link = 0xFFFFFFE000000000 ∧ linked.counts = 0xFFFF000100000000 := by decide
/-- R71's example: a tag in context 1. -/
theorem test_frame_tag : imgNat (({ linked with tag := tagMk 24 0x30005 } : Frame).header 1 []) 0 8 = 0x5800000000030005 := by decide
theorem witness_BackwaterBytes : (3 < 4 ∧ tokHigh.paddock < 4096 ∧ tokHigh.cell < 16 ∧ tokHigh.frame < 1024 ∧ tokHigh.slot < 128 ∧ tokHigh.blk < 8)
    ∧ (List.replicate 64 (0 : Byte)).length = 64 ∧ linked.tag.toNat < 2 ^ 62 ∧ linked.blk < 8 ∧ linked.how.parent = some (15, 1023)
    ∧ linked.how.kind < 4 ∧ linked.how.rslot < 128 ∧ linked.arrived < 65536 ∧ linked.fired < 65536 := by decide
/-- A crew with a spilled frame, and a token parked for its place. -/
def bwCrew : Crew := crewX (fun x => { spilledCrew false x with parks := [⟨0, some 0, aToken⟩], bwBase := 0x40000000 })
def bwState : State := { State.reset with crews := [(probeCrew, bwCrew)] }
theorem witness_BackwatersStored : bwState.crews = [(probeCrew, bwCrew)]
    ∧ (State.reset.crew? probeCrew).map Crew.bwHolds ≠ some bwCrew.bwHolds ∧ bwCrew.region ≠ none
    ∧ (bwCrew.bwBytes cellOf).Pairwise (fun a b => a.1 + a.2.length ≤ b.1 ∨ b.1 + b.2.length ≤ a.1)
    ∧ (∀ b ∈ bwCrew.bwBytes cellOf, b.1 + b.2.length ≤ hbmBytes)
    ∧ (bwState.crew? probeCrew).map Crew.bwHolds = some bwCrew.bwHolds :=
  ⟨rfl, (fun h => by rw [show State.reset.crew? probeCrew = none from rfl] at h; cases h), by decide, by decide +kernel,
    by decide +kernel, rfl⟩

theorem witness_MemoryBytes : (7 < 8 ∧ (2 ^ 52 - 9 < 2 ^ 52 - 8 ∨ 2 ^ 52 - 8 + 8 ≤ 2 ^ 52 - 9)) ∧ Memory.wf [] = true := by decide

theorem witness_CompareAndDot : (0 < 1) ∧ 0 < 64 := by decide
/-- A quiet NaN, a signalling NaN and two numbers of F32. -/
theorem witness_FloatSpecials : (decodeV f32 0x7FC00000).isNan = true ∧ (decodeV f32 0x7F800001).isSig = true
    ∧ (decodeV f32 0x3F800000).isNan = false ∧ (decodeV f32 0x80000000).isNan = false := by decide
theorem witness_HardWiredRegisters : (1 : Nat) ≠ 0 ∧ (63 : Nat) ≠ 0 := by decide
theorem witness_ResetState : 103 < 104 ∧ 63 < 64 ∧ 15 < 16 ∧ 4095 < 4096 ∧ 47 < 48 := by decide

/-! ### Terms that are not well-formed -/

theorem test_wf_type : (Instr.wf (.dot4 ⟨1, 0, false, 3, 1, .v 2, 5, 0⟩)) = false := by decide
theorem test_wf_pair : (Instr.wf (.add ⟨1, 0, false, 3, 4, .v 6, 0, 0⟩)) = false := by decide
theorem test_wf_uniform_register : (Instr.wf (.add ⟨1, 0, false, 64, 4, .s 6, 0x80, 0⟩)) = false := by decide
theorem test_wf_mask_register : (Instr.wf (.cmp ⟨0, 0, false, 8, 2, .imm 10, 2, 0⟩)) = false := by decide
theorem test_wf_operand_A : (Instr.wf (.mov ⟨0, 0, false, 3, 1, .v 2, 0, 0⟩)) = false := by decide
theorem test_wf_operand_B : (Instr.wf (.not ⟨0, 0, false, 3, 1, .imm 2, 0, 0⟩)) = false := by decide
theorem test_wf_condition : (Instr.wf (.cmp ⟨0, 0, false, 1, 2, .v 3, 10, 0⟩)) = false := by decide
theorem test_wf_reserved_C : (Instr.wf (.sub ⟨0, 0, false, 3, 1, .v 2, 4, 0⟩)) = false := by decide
theorem test_wf_reserved_X : (Instr.wf (.add ⟨0, 0, false, 3, 1, .v 2, 0, 1⟩)) = false := by decide
theorem test_wf_predicate : (Instr.wf (.qpush ⟨0, 0, false, 0, 3, .v 0, 0x40, 0⟩)) = false := by decide
theorem test_wf_rounding : (Instr.wf (.fadd ⟨0, 0, false, 3, 1, .v 2, 0, 0x60⟩)) = false := by decide
theorem test_wf_quad : (Instr.wf (.ld ⟨true, false, 0, false, 6, 4, 0, 4, false, 0, 0, 0⟩)) = false := by decide
theorem test_wf_access_size : (Instr.wf (.atom ⟨true, false, 0, false, 6, 8, 2, 1, false, 0, 1, 0⟩)) = false := by decide
theorem test_wf_branch_condition : (Instr.wf (.br ⟨0, false, 5, 7, 0⟩)) = false := by decide
theorem test_wf_movi_pair : (Instr.wf (.moviPair ⟨0, false, 7, 0⟩)) = false := by decide
/-- The codes of R80: type, reserved bits, entries, targets, field values, cells and buffers. -/
theorem test_wf_nodes : Machine.nodeCode (.arithNodeFire ⟨0, 0x03, 0, false, false, none, none, 0⟩) = some 2
    ∧ Machine.nodeCode (.sendp ⟨none, none, 0, 8⟩) = some 3 ∧ Machine.nodeCode (.mcld ⟨none, none, 8, 0, 0⟩) = some 9
    ∧ Machine.nodeCode (.mxout ⟨none, none, 0, 0, 0x180⟩) = some 8 := by decide

/-! ### Results -/

/-- The state after one step. -/
def next (s : State) : State := match step s with | .next t => t | _ => s
def regV (s : State) (r l : Nat) : Option Word := (s.wave? wave0).map (fun x => x.rdV r l)
def regS (s : State) (r : Nat) : Option Dword := (s.wave? wave0).map (fun x => x.rdS r)
/-- Lane 0 of V1 holds `a`, of V2 `b` and of V3 `c`. -/
def lane0 (i : Instr) (a b c : Word) : State := withWave (at_ i) (fun x => { x with v := [(32, a), (64, b), (96, c)].filter (fun p => p.2 ≠ 0) })
def abc : KF := ⟨0, 0, false, 4, 1, .v 2, 0, 0⟩

/-- R92: the sum wraps, and the pc goes on. -/
theorem test_add_wraps : regV (next (lane0 (.add abc) 0xFFFFFFFF 5 0)) 4 0 = some 4
    ∧ ((next (lane0 (.add abc) 0xFFFFFFFF 5 0)).wave? wave0).map (fun x => x.pc) = some 8 := by decide
/-- R94: −7 over 2 truncates to −3, with remainder −1; over 0 it gives all ones and the dividend. -/
theorem test_div : regV (next (lane0 (.div abc) 0xFFFFFFF9 2 0)) 4 0 = some 0xFFFFFFFD
    ∧ regV (next (lane0 (.div abc) 0xFFFFFFF9 0 0)) 4 0 = some 0xFFFFFFFF := by decide
theorem test_rem : regV (next (lane0 (.rem abc) 0xFFFFFFF9 2 0)) 4 0 = some 0xFFFFFFFF
    ∧ regV (next (lane0 (.rem abc) 0x80000000 0xFFFFFFFF 0)) 4 0 = some 0 := by decide
set_option maxRecDepth 20000 in
/-- R94: the carry out of 2^32 − 1 plus 1 goes to M1. -/
theorem test_addc : ((next (lane0 (.addc { abc with c := 0x10 }) 0xFFFFFFFF 1 0)).wave? wave0).map (fun x => x.rdM 1) = some 1 := by decide
/-- R97: a shift by the width or more. -/
theorem test_sar : regV (next (lane0 (.sar abc) 0x80000000 40 0)) 4 0 = some 0xFFFFFFFF := by decide
set_option maxRecDepth 20000 in
/-- R100: −1 is less than 1 as signed and not as unsigned. -/
theorem test_cmp : ((next (lane0 (.cmp { abc with d := 1, c := 2 }) 0xFFFFFFFF 1 0)).wave? wave0).map (fun x => x.rdM 1) = some 1
    ∧ ((next (lane0 (.cmp { abc with d := 1, c := 6 }) 0xFFFFFFFF 1 0)).wave? wave0).map (fun x => (x.rdM 1).getLsbD 0) = some false := by decide
/-- The single rounding worked out after R121: the fused sum is −2^−46 with no flag, the product alone rounds to 1. -/
theorem test_fma : regV (next (lane0 (.fma { abc with c := 3 }) 0x3F800001 0x3F7FFFFE 0xBF800000)) 4 0 = some 0xA8800000 := by decide
theorem test_fmul : regV (next (lane0 (.fmul abc) 0x3F800001 0x3F7FFFFE 0)) 4 0 = some 0x3F800000
    ∧ ((next (lane0 (.fmul abc) 0x3F800001 0x3F7FFFFE 0)).wave? wave0).map (fun x => x.fcsr) = some 1 := by decide
/-- The conversions worked out at R121. -/
theorem test_fcvti : gCvti f32 .rne 0 0x40200000 = (2, fNX) ∧ gCvti f32 .rna 0 0x40200000 = (3, fNX)
    ∧ gCvti f32 .rne 0 0x4F32D05E = (0x7FFFFFFF, fNV) ∧ gCvti f32 .rtz 0 0xBF333333 = (0, fNX)
    ∧ gCvti f32 .rdn 1 0xBF333333 = (0, fNV) := by decide
set_option maxRecDepth 20000 in
/-- The scale worked out after R144: the least code whose value times 448 reaches 1000. -/
theorem test_bscl : regV (next (lane0 (.bscl ⟨0, 0, false, 2, 1, .v 0, 4, 0⟩) 0x447A0000 0 0)) 2 31 = some 0x00801DB7 := by decide
set_option maxRecDepth 20000 in
/-- R133: a tie between two BF16 values goes to the even one. -/
theorem test_cvt : regV (next (lane0 (.cvt ⟨0, 0, false, 4, 1, .v 0, 3, 0⟩) 0x3F808000 0 0)) 4 0 = some 0x3F80 := by decide
/-- R156: lane 31 receives what lane 0 holds. -/
theorem test_shfl : regV (next (lane0 (.shfl ⟨0, 0, false, 4, 1, .imm 0, 0, 0⟩) 7 0 0)) 4 31 = some 7 := by decide
theorem test_ballot : regS (next (withWave (at_ (.ballot ⟨0, 0, false, 6, 1, .v 0, 0, 0⟩)) (fun x => { x with m := [(1, 0x80000001)] }))) 6
    = some 0x80000001 := by decide
/-- R174: some lanes take the branch; the others go on and the taken ones wait. -/
theorem test_brm : ((next (brmState 0x80000001)).wave? wave0).map (fun x => (x.pc, x.mask, x.dstack))
    = some (8, 0x7FFFFFFE, [⟨.path, 0, 0x80000001, 0, 8, 0⟩]) := by decide
theorem test_exit : ((next (exitState 1 1 1)).wave? wave0).map (fun x => (x.retired, x.exited)) = some (true, 0xFFFFFFFF) := by decide
/-- R218: a byte loads sign-extended. -/
def ldByte : MF := ⟨true, false, 0, false, 4, 6, 0, 0, true, 1, 0, 3⟩
theorem test_ld : regV (next (withCrew (at_ (.ld ldByte)) (fun c => { c with crw := [(3, 0x80)] }))) 4 31 = some 0xFFFFFF80 := by decide
/-- R2, R218: a store is little-endian. -/
def stWord : MF := ⟨true, false, 1, false, 1, 6, 0, 2, false, 1, 0, 0⟩
theorem test_st : (crewOf (next (withWave (lane0 (.st stWord) 0x44332211 0 0) (fun x => { x with m := [(1, 1)] })))).crw
    = [(0, 0x11), (1, 0x22), (2, 0x33), (3, 0x44)] := by decide
/-- R237: the last pending arrival flips the phase and restores the count. -/
theorem test_bara : (crewOf (next (barxState (.bara baraWitness) 0))).crw
    = Memory.setLe [] 0xFFFF0 16 ((⟨0, true, 2, 2⟩ : Bar).put 0) := by decide
theorem test_qpush : ((next (queueAt (.qpush qpushWitness))).queue 0 7).entries.length = 2 := by decide
/-- R426: the record of a TRAP that stops is written, and the job stops. -/
theorem test_trap : ((next (ringAt (.trap (trapKF 1)) 5)).asid 0).tail = 6 ∧ ((next (ringAt (.trap (trapKF 1)) 5)).asid 0).stopped = true := by decide
theorem test_ctlwr : ((next (at_ (.ctlwr ⟨0, 0, false, 0, 0, .imm 0x1F, 1, 0⟩))).wave? wave0).map (fun x => x.fcsr) = some 0x1F := by decide
/-- R77: an illegal word leaves the wave at the word, and the job stops. -/
theorem test_illegal : ((next (illegalAt.modAsid 0 (fun a => { a with frqBase := 0x100000, log2n := 10 }))).asid 0).stopped = true
    ∧ ((next (illegalAt.modAsid 0 (fun a => { a with frqBase := 0x100000, log2n := 10 }))).wave? wave0).map (fun x => x.pc) = some 0 := by decide
/-- R288, R302: a node sends its value to its target. -/
theorem test_gate : (crewOf (next (nodeWith (.gate ⟨some ⟨5, true⟩, none, 0, 0⟩) 9 false 1))).flight
    = [.token ⟨.node 0 0 0 0 0 0, some 0, 0, 0, 0, 0, 5, true, false, 9, 0, false⟩] := by decide
theorem test_steer : (crewOf (next (nodeWith (.steer ⟨some ⟨5, false⟩, some ⟨6, false⟩, 0, 0⟩) 9 false 0))).flight
    = [.token ⟨.node 0 0 0 0 0 0, some 0, 0, 0, 0, 0, 6, false, false, 9, 0, false⟩] := by decide
theorem test_mcst : ((crewOf (next (nodeWith (.mcst (ncf 0x12)) 3 false 0x11223344))).place? 0).map (fun p => ((p.mc 1).bytes, (p.mc 1).full))
    = some ([(6156, 0x44), (6157, 0x33), (6158, 0x22), (6159, 0x11)], 4) := by decide

end Sys2Proof.Tests
end

section
/-! PROOFS. A word that is not an instruction, or not one for its wave, is found illegal when it issues (R77), and what a
record that STOPS its job leaves (R402, R403, R406, R409). -/

namespace Sys2Proof.Machine

/-! ### Core words -/

/-- R84: every core word is executed by the wave in focus, which tests the word before it runs the word's body. -/
theorem exec_of_isCore {i : Instr} (s : State) (h : i.isCore = true) : ∃ body, exec i s = issueCore i s body := by
  cases i with
  | add | sub | addc | subb | mullo | mulhi | mulhn | mad | div | divn | rem | remn | min | max | minn | maxn | abs
  | neg | and | or | xor | andn | not | shl | shr | sar | rol | clz | popc | brev | bfx | bfi | lea | sel | cmp
  | mov | movi | moviHi | moviPair | movsv | adds | subs | dot4 | fadd | fsub | fmul | fma | fmin | fmax | fcmp
  | fdiv | fsqrt | frcp | frsq | fex2 | flg2 | fclass | fcvti | icvtf | fcvtw | frnd | fscl | fmtw | fmtr | fmtq
  | cvt | sclq | scld | bscl | ndot | shfl | shflup | shfldn | shflx | bcast | ballot | vote | red | scan | cmpr
  | expd | iota | setvl | getvl | msk | mpop | mff | v2s | slide | mset | br | brm | brs | rcv | join | call
  | callxV | callxS | jmpxV | jmpxS | ret | exit | loop | nop | yield | prefi | ifence | ld | ldUniform | st | lda
  | stl | atom | cas | fence | pref | vlds | vsts | ldf | stf | cmaint | cpy | cpyt | cpyb | cpyw | bar | bara
  | barw | barx | qpush | qpop | qnotify | qbindTrig | qbindIn | qbindOut | qbindUnmap | qstat | freq | frel | fcfg
  | fsend | frecv | fdrain | fprio | fstat | fmodeDf | fmodeSys | mxw | mxa | mxc | mxz | mxsc | mxwait | eqp
  | remount | remountClr | gaitr | pin | pinOff | trap | brk | ctlrd | ctlwr | cyc | cycRow | launch | waitev
  | sigev =>
    exact ⟨_, rfl⟩
  | _ => cases h

/-- R77: legality is tested first, so that an illegal word has no effect of its own. -/
theorem issueCore_not_legal {i : Instr} {s : State} {k : Ctx} (body : Ctx → State → Res) (hf : s.focus = .wave k.w)
    (hc : ctx? s k.w = some k) (hl : k.legal i = false) : issueCore i s body = .next (illegal k s.unfocused) := by
  simp [issueCore, hf, hc, issueAt, hl, State.unfocused]

/-! ### Fetching -/

/-- R77: a word that does not decode is illegal, unless a breakpoint acts before it. -/
theorem fetchFor_undecodable {k : Ctx} {s : State} {word : BitVec 64} {e : DecodeError} (hi : k.issues = true)
    (hb : blocked k s = none) (ht : s.throttle = false) (hcurb : s.curbOn = false) (hin : k.inside k.wv.pc.toNat = true)
    (hw : k.word? s k.wv.pc.toNat = some word) (hd : Decode.core word = .error e)
    (hbp : k.wv.bpDone = true ∨ k.wordBreaks s (0, false) = []) : fetchFor k s = .over (.next (illegal k s)) := by
  have hslot : withheld s = (false, s) := by simp [withheld, ht, hcurb]
  have hhits : (if k.wv.bpDone then [] else k.wordBreaks s (0, false)) = [] := by
    rcases hbp with h | h
    · rw [h]; rfl
    · rw [h, ite_self]
  simp only [fetchFor, hi, hb, hslot, hin, hw, hd, hhits, Bool.not_true, Bool.false_eq_true, if_false, List.isEmpty_nil,
    if_true]

/-! ### What a step stores -/

/-- An object that is listed once is found by its name. -/
theorem get?_of_mem {κ α : Type} [DecidableEq κ] {t : List (κ × α)} (hn : namesOnce t) {q : κ × α} (hq : q ∈ t) :
    Tab.get? t q.1 = some q.2 := by
  induction t with
  | nil => cases hq
  | cons p t ih =>
    obtain ⟨hp, ht⟩ := List.nodup_cons.mp hn
    rcases List.mem_cons.mp hq with rfl | hq
    · simp [Tab.get?]
    · have hne : p.1 ≠ q.1 := fun e => hp (e ▸ List.mem_map_of_mem hq)
      simpa [Tab.get?, hne] using ih ht hq

/-- A step that leaves the crews alone stores nothing in the backwaters. -/
theorem storeBackwaters_of_crews_eq {s t : State} (hn : s.NamesOnce) (hc : t.crews = s.crews) :
    s.storeBackwaters t = t := by
  obtain ⟨-, -, hcrews, -⟩ := hn
  refine storeBackwaters_same (fun q hq => .inl ?_)
  rw [State.crew?, get?_of_mem hcrews (hc ▸ hq), Option.map_some]

/-! ### A record in the job's ring -/

/-- R402, R406: the address at which the ring's next record is written. -/
def Asid.tailAddr (x : Asid) : Nat := fld x.frqBase 51 12 * 4096 + 64 * (x.tail.toNat % 2 ^ x.log2n)

/-- The bytes of a record, little-endian (R2). -/
def recordBytes (d : List Dword) : List Byte := d.flatMap (fun w => leBytes 8 w.toNat)

/-- R403: a record has 64 bytes. -/
theorem RecF.recordBytes_length (r : RecF) (q : BitVec 32) : (recordBytes (r.words q)).length = 64 := by
  simp [recordBytes, RecF.words]

/-- A field of two bits at [43:42] under fields of 3, 7 and 32 bits. -/
theorem fld_status {n : Nat} (x : BitVec n) (st : BitVec 2) (w : BitVec 3) (z : BitVec 7) (q : BitVec 32) :
    fld (x ++ st ++ w ++ z ++ q) 43 42 = st.toNat := by
  have h : (x ++ st ++ w ++ z ++ q).extractLsb' 42 2 = st := by
    rw [BitVec.extractLsb'_append_eq_of_le (by decide), BitVec.extractLsb'_append_eq_of_le (by decide),
      BitVec.extractLsb'_append_eq_of_le (by decide)]
    exact BitVec.extractLsb'_append_eq_right
  exact congrArg BitVec.toNat h

/-- R403: STATUS of a record. -/
theorem RecF.words_status (r : RecF) (q : BitVec 32) : fld ((r.words q).getD 0 0) 43 42 = r.status.code := by
  have h : fld ((r.words q).getD 0 0) 43 42 = (BitVec.ofNat 2 r.status.code).toNat := fld_status _ _ _ _ _
  rw [h]
  cases r.status <;> rfl

/-- R402, R408: what writing a record leaves as it was. -/
theorem State.putRecord_frame (s : State) (a : Nat) (d : List Dword) :
    let t := s.putRecord a d
    t = { s with asids := t.asids, mem := t.mem, outbox := t.outbox, signals := t.signals } := by
  unfold State.putRecord
  dsimp only
  split <;> split <;> rfl

/-- R406: a record is written at TAIL. -/
theorem State.putRecord_mem (s : State) (a : Nat) (d : List Dword) :
    (s.putRecord a d).mem = Memory.put s.mem (s.asid a).tailAddr (recordBytes d) := by
  unfold State.putRecord
  dsimp only
  split <;> split <;> rfl

theorem State.stopJob_stopped (s : State) (a : Nat) : ((s.stopJob a).asid a).stopped = true := by
  simp [State.stopJob, State.modAsid, State.asid_setAsid]

/-- R409: a record that STOPS stops the job once it is written. -/
theorem State.putRecord_stopped (s : State) (a : Nat) (d : List Dword) (h : fld (d.getD 0 0) 43 42 = 1) :
    ((s.putRecord a d).asid a).stopped = true := by
  unfold State.putRecord
  simp only [h, beq_self_eq_true, Bool.true_or, if_true]
  exact State.stopJob_stopped _ a

/-- R403: the job's next record has been numbered. -/
def State.numbered (s : State) (a : Nat) : State := s.setAsid a { s.asid a with seq := nextSeq (s.asid a).seq }

@[simp] theorem State.numbered_mem (s : State) (a : Nat) : (s.numbered a).mem = s.mem := rfl

theorem State.numbered_tailAddr (s : State) (a : Nat) : ((s.numbered a).asid a).tailAddr = (s.asid a).tailAddr := by
  rw [State.numbered, State.asid_setAsid, if_pos rfl]
  rfl

/-- R406: a record that finds room is written. -/
theorem State.raise_of_room {s : State} {a : Nat} (r : RecF) (h : s.ringRoom a = true) :
    (s.raise a r).1 = (s.numbered a).putRecord a (r.words (nextSeq (s.asid a).seq)) := by
  unfold State.ringRoom at h
  simp only [State.raise, h, if_true]
  rfl

/-- R406: a record that finds the ring full waits in the job's list. -/
theorem State.raise_of_full {s : State} {a : Nat} (r : RecF) (h : s.ringRoom a = false) :
    (s.raise a r).1 = { s with asids := (s.raise a r).1.asids } := by
  unfold State.ringRoom at h
  simp only [State.raise, h, Bool.false_eq_true, if_false]
  rfl

/-- R402, R406: what raising a record leaves as it was. -/
theorem State.raise_frame (s : State) (a : Nat) (r : RecF) :
    let t := (s.raise a r).1
    t = { s with asids := t.asids, mem := t.mem, outbox := t.outbox, signals := t.signals } := by
  dsimp only
  cases h : s.ringRoom a
  · rw [State.raise_of_full r h]
  · rw [State.raise_of_room r h]
    exact State.putRecord_frame (s.numbered a) a _

theorem State.raise_waves (s : State) (a : Nat) (r : RecF) : (s.raise a r).1.waves = s.waves := by
  rw [State.raise_frame]

/-! ### A record that STOPS its job -/

theorem State.raiseStops_of_room {s : State} {a : Nat} (w : WaveId) (r : RecF) (h : s.ringRoom a = true) :
    s.raiseStops a w r = (s.raise a r).1 := by
  simp [State.raiseStops, h]

/-- R406: while its record waits, the wave holds at the word. -/
theorem State.raiseStops_of_full {s : State} {a : Nat} (w : WaveId) (r : RecF) (h : s.ringRoom a = false) :
    s.raiseStops a w r = (s.raise a r).1.modWave w (fun x => { x with pending := some (s.raise a r).2 }) := by
  simp [State.raiseStops, h]

/-- What a record that STOPS its job leaves as it was. -/
theorem State.raiseStops_frame (s : State) (a : Nat) (w : WaveId) (r : RecF) :
    let t := s.raiseStops a w r
    t = { s with asids := t.asids, mem := t.mem, outbox := t.outbox, signals := t.signals, waves := t.waves } := by
  dsimp only
  cases h : s.ringRoom a
  · rw [State.raiseStops_of_full w r h, modWave_eq, State.raise_of_full r h]
  · rw [State.raiseStops_of_room w r h]
    conv_lhs => rw [State.raise_frame]
    rw [State.raise_waves]

/-- R406: where the ring is full, memory is as it was. -/
theorem State.raiseStops_mem_of_full {s : State} {a : Nat} (w : WaveId) (r : RecF) (h : s.ringRoom a = false) :
    (s.raiseStops a w r).mem = s.mem := by
  rw [State.raiseStops_of_full w r h, modWave_eq, State.raise_of_full r h]

/-- R406: where the ring is full, the wave alone holds with the record, and keeps everything else. -/
theorem State.raiseStops_wave?_of_full {s : State} {a : Nat} (w v : WaveId) (r : RecF) (h : s.ringRoom a = false) :
    (s.raiseStops a w r).wave? v
      = if w = v then (s.wave? v).map (fun x => { x with pending := some (s.raise a r).2 }) else s.wave? v := by
  rw [State.raiseStops_of_full w r h, State.wave?_modWave, State.wave?, State.raise_waves]
  rfl

theorem State.raiseStops_issuer_of_full {s : State} {a : Nat} {w : WaveId} {x : Wave} (r : RecF)
    (h : s.ringRoom a = false) (hx : s.wave? w = some x) :
    (s.raiseStops a w r).wave? w = some { x with pending := some (s.raise a r).2 } := by
  rw [State.raiseStops_wave?_of_full w w r h, if_pos rfl, hx, Option.map_some]

/-- Where the ring has room, no wave changes. -/
theorem State.raiseStops_waves_of_room {s : State} {a : Nat} (w : WaveId) (r : RecF) (h : s.ringRoom a = true) :
    (s.raiseStops a w r).waves = s.waves := by
  rw [State.raiseStops_of_room w r h, State.raise_waves]

/-- A wave loses nothing by a record that STOPS its job: at most it holds with the record. -/
theorem State.raiseStops_wave? {s : State} (a : Nat) (w : WaveId) (r : RecF) {v : WaveId} {x : Wave}
    (hx : s.wave? v = some x) : ∃ q, (s.raiseStops a w r).wave? v = some { x with pending := q } := by
  cases h : s.ringRoom a
  · rw [State.raiseStops_wave?_of_full w v r h, hx]
    split
    · exact ⟨_, rfl⟩
    · exact ⟨x.pending, rfl⟩
  · rw [State.wave?, State.raiseStops_waves_of_room w r h]
    exact ⟨x.pending, hx⟩

/-- R409: where the ring has room, the job stops. -/
theorem State.raiseStops_stopped {s : State} {a : Nat} (w : WaveId) {r : RecF} (hr : r.status = .stops)
    (h : s.ringRoom a = true) : ((s.raiseStops a w r).asid a).stopped = true := by
  rw [State.raiseStops_of_room w r h, State.raise_of_room r h]
  refine State.putRecord_stopped _ a _ ?_
  rw [RecF.words_status, hr]
  rfl

/-- R403, R406: where the ring has room, memory changes in the 64 bytes at TAIL alone. -/
theorem State.raiseStops_byte_of_room {s : State} {a : Nat} (w : WaveId) (r : RecF) (h : s.ringRoom a = true) {n : Nat}
    (hn : n < (s.asid a).tailAddr ∨ (s.asid a).tailAddr + 64 ≤ n) :
    Memory.byte (s.raiseStops a w r).mem n = Memory.byte s.mem n := by
  rw [State.raiseStops_of_room w r h, State.raise_of_room r h, State.putRecord_mem, State.numbered_tailAddr,
    State.numbered_mem]
  exact Memory.byte_put_out _ _ _ _ (by rwa [RecF.recordBytes_length])

/-! ### The state after an illegal word -/

theorem Ctx.report_status (k : Ctx) (kind cause : Nat) (status : RStatus) (e : Nat) :
    (k.report kind cause status e .form).status = status := by
  unfold Ctx.report
  dsimp only
  split <;> rfl

theorem faultAt_stops (k : Ctx) {r : RecF} (s : State) (h : r.status = .stops) :
    faultAt k r s = s.raiseStops k.asid k.w r := by
  rw [faultAt, h]

/-- R77, R404: an illegal word raises a record in the name of the form, which STOPS the job. -/
theorem illegal_eq (k : Ctx) (s : State) :
    illegal k s = s.raiseStops k.asid k.w (k.report 1 0 .stops (k.first s) .form) :=
  faultAt_stops k s (k.report_status 1 0 .stops (k.first s))

theorem illegal_crews (k : Ctx) (s : State) : (illegal k s).crews = s.crews := by
  rw [illegal_eq, State.raiseStops_frame]

/-! ### The step -/

/-- A step of the wave in focus that ends in its fetch and leaves the crews alone. -/
theorem step_of_fetchFor_over {s t : State} {w : WaveId} {k : Ctx} (hn : s.NamesOnce) (hf : s.focus = .wave w)
    (hc : ctx? { s with now := s.now + 1, focus := .none } w = some k)
    (hfetch : fetchFor k { s with now := s.now + 1, focus := .none } = .over (.next t)) (hcrews : t.crews = s.crews) :
    step s = .next t := by
  simp only [step, hf, fetchWave, hc, hfetch, fetched, stored]
  exact congrArg _ (storeBackwaters_of_crews_eq hn hcrews)

/-- Settles O51: legality is tested at issue, before any operand is read, and the record that an illegal word raises
changes the job's ring alone or, where that is full, holds the wave. -/
theorem illegalWord : Obligations.IllegalWord := by
  unfold Obligations.IllegalWord
  refine ⟨?_, ?_, ?_⟩
  · intro s w k word e u hn hf hc hi hb ht hcurb hin hw hd hbp
    exact step_of_fetchFor_over hn hf hc (fetchFor_undecodable hi hb ht hcurb hin hw hd hbp) (illegal_crews k u)
  · intro s k i hf hc hcore hl
    obtain ⟨body, hexec⟩ := exec_of_isCore s hcore
    rw [hexec, issueCore_not_legal body hf hc hl]
  · intro k s
    dsimp only
    rw [illegal_eq]
    have hr := k.report_status 1 0 .stops (k.first s)
    refine ⟨State.raiseStops_frame s _ _ _, fun v x hx => State.raiseStops_wave? _ _ _ hx, fun h => ?_, fun h => ?_⟩
    · exact ⟨State.raiseStops_waves_of_room _ _ h, State.raiseStops_stopped _ hr h,
        fun n hn => State.raiseStops_byte_of_room _ _ h hn⟩
    · exact ⟨State.raiseStops_mem_of_full _ _ h, fun x hx => ⟨_, State.raiseStops_issuer_of_full _ h hx⟩⟩

end Sys2Proof.Machine
end

section
/-! PROOFS. The functions of the integer words are the modular, signed and unsigned functions of the patterns at every
width (R92, R95 to R97), and so are the comparisons and the four-byte dot product (R100, R104). -/

namespace Sys2Proof.Machine

/-! ### Numbers and patterns -/

/-- R5: to wrap a number is to take it as a pattern. -/
theorem wrap_eq_toNat_ofInt (w : Nat) (x : Int) : wrap w x = (BitVec.ofInt w x).toNat := (BitVec.toNat_ofInt x).symm

/-- R5: the signed value of a pattern is that of the machine word. -/
theorem sgn_toNat {w : Nat} (hw : 0 < w) (a : BitVec w) : sgn w a.toNat = a.toInt := by
  have h : 2 ^ w = 2 * 2 ^ (w - 1) := by rw [← Nat.pow_succ', Nat.succ_eq_add_one, Nat.sub_add_cancel hw]
  have hlt : a.toNat < 2 ^ (w - 1) ↔ 2 * a.toNat < 2 ^ w := by omega
  simp only [sgn, hlt, BitVec.toInt_eq_toNat_cond]

theorem ofInt_toNat {w : Nat} (a : BitVec w) : BitVec.ofInt w a.toNat = a := by
  rw [BitVec.ofInt_natCast, BitVec.ofNat_toNat, BitVec.setWidth_eq]

theorem bit_eq_testBit (a i : Nat) : bit a i = a.testBit i := by
  rw [bit, Nat.testBit_eq_decide_div_mod_eq, beq_eq_decide]

/-! ### Arithmetic (R92, R95) -/

section
variable {w : Nat} (a b c : BitVec w) (n m : Nat)

theorem iAdd_toNat : iAdd w a.toNat b.toNat n = (a + b).toNat := by
  rw [iAdd, wrap_eq_toNat_ofInt, BitVec.ofInt_add, ofInt_toNat, ofInt_toNat]

theorem iSub_toNat : iSub w a.toNat b.toNat n = (a - b).toNat := by
  rw [iSub, wrap_eq_toNat_ofInt, Int.sub_eq_add_neg, BitVec.ofInt_add, BitVec.ofInt_neg, ofInt_toNat, ofInt_toNat,
    BitVec.sub_eq_add_neg]

theorem iMullo_toNat : iMullo w a.toNat b.toNat n = (a * b).toNat := by
  rw [iMullo, wrap_eq_toNat_ofInt, BitVec.ofInt_mul, ofInt_toNat, ofInt_toNat]

theorem iMad_toNat : iMad w a.toNat b.toNat c.toNat = (a * b + c).toNat := by
  rw [iMad, wrap_eq_toNat_ofInt, BitVec.ofInt_add, BitVec.ofInt_mul, ofInt_toNat, ofInt_toNat, ofInt_toNat]

theorem iMulhi_toNat (hw : 0 < w) :
    iMulhi w a.toNat b.toNat n = (BitVec.ofInt w (a.toInt * b.toInt / 2 ^ w)).toNat := by
  rw [iMulhi, wrap_eq_toNat_ofInt, sgn_toNat hw, sgn_toNat hw, Nat.cast_pow, Nat.cast_ofNat]

/-- The high half of an unsigned product is below the width and needs no wrapping. -/
theorem iMulhn_toNat : iMulhn w a.toNat b.toNat n = a.toNat * b.toNat / 2 ^ w := by
  have h : a.toNat * b.toNat / 2 ^ w < 2 ^ w :=
    Nat.div_lt_of_lt_mul (Nat.mul_lt_mul'' a.isLt b.isLt)
  rw [iMulhn, wrap]
  exact_mod_cast Nat.mod_eq_of_lt h

theorem toNat_eq_zero_iff : a.toNat = 0 ↔ a = 0 := by
  rw [BitVec.ofNat_eq_ofNat, ← BitVec.toNat_inj, BitVec.toNat_zero]

/-- R95: division by 0 gives all ones, and the overflow of the least value over −1 wraps. -/
theorem iDiv_toNat (hw : 0 < w) :
    iDiv w a.toNat b.toNat n = (if b = 0 then BitVec.allOnes w else a.sdiv b).toNat := by
  have hdiv : BitVec.ofInt w (a.toInt.tdiv b.toInt) = a.sdiv b :=
    BitVec.eq_of_toInt_eq (by rw [BitVec.toInt_ofInt, BitVec.toInt_sdiv])
  simp only [iDiv, toNat_eq_zero_iff, apply_ite BitVec.toNat, BitVec.toNat_allOnes, wrap_eq_toNat_ofInt, sgn_toNat hw, hdiv]

theorem iDivn_toNat : iDivn w a.toNat b.toNat n = (if b = 0 then BitVec.allOnes w else a / b).toNat := by
  simp only [iDivn, toNat_eq_zero_iff, apply_ite BitVec.toNat, BitVec.toNat_allOnes, BitVec.toNat_udiv]

theorem iRem_toNat (hw : 0 < w) : iRem w a.toNat b.toNat n = (if b = 0 then a else a.srem b).toNat := by
  have hrem : BitVec.ofInt w (a.toInt.tmod b.toInt) = a.srem b := by rw [← BitVec.toInt_srem, BitVec.ofInt_toInt]
  simp only [iRem, toNat_eq_zero_iff, apply_ite BitVec.toNat, wrap_eq_toNat_ofInt, sgn_toNat hw, hrem]

theorem iRemn_toNat : iRemn w a.toNat b.toNat n = (if b = 0 then a else a % b).toNat := by
  simp only [iRemn, toNat_eq_zero_iff, apply_ite BitVec.toNat, BitVec.toNat_umod]

/-! ### Extremes and signs (R92) -/

theorem iMin_toNat (hw : 0 < w) : iMin w a.toNat b.toNat n = (if a.sle b then a else b).toNat := by
  simp only [iMin, sgn_toNat hw, BitVec.sle_iff_toInt_le, apply_ite BitVec.toNat]

theorem iMax_toNat (hw : 0 < w) : iMax w a.toNat b.toNat n = (if a.sle b then b else a).toNat := by
  simp only [iMax, sgn_toNat hw, BitVec.sle_iff_toInt_le, apply_ite BitVec.toNat]

theorem iMinn_toNat : iMinn w a.toNat b.toNat n = (if a.ule b then a else b).toNat := by
  simp only [iMinn, Nat.min_def, BitVec.ule_iff_toNat_le, apply_ite BitVec.toNat]

theorem iMaxn_toNat : iMaxn w a.toNat b.toNat n = (if a.ule b then b else a).toNat := by
  simp only [iMaxn, Nat.max_def, BitVec.ule_iff_toNat_le, apply_ite BitVec.toNat]

theorem iNeg_toNat (hw : 0 < w) : iNeg w a.toNat n m = (-a).toNat := by
  rw [iNeg, wrap_eq_toNat_ofInt, sgn_toNat hw, BitVec.ofInt_neg, BitVec.ofInt_toInt]

theorem iAbs_toNat (hw : 0 < w) : iAbs w a.toNat n m = (if a.slt 0 then -a else a).toNat := by
  rw [iAbs, wrap_eq_toNat_ofInt, sgn_toNat hw]
  simp only [BitVec.slt_iff_toInt_lt, BitVec.ofNat_eq_ofNat, BitVec.toInt_zero]
  split
  · next h => rw [Int.ofNat_natAbs_of_nonpos h.le, BitVec.ofInt_neg, BitVec.ofInt_toInt]
  · next h => rw [Int.natAbs_of_nonneg (not_lt.mp h), BitVec.ofInt_toInt]

/-! ### Bits and shifts (R96, R97) -/

theorem iNot_toNat : iNot w a.toNat n m = (~~~a).toNat := BitVec.toNat_not.symm

theorem iAndn_toNat : iAndn w a.toNat b.toNat n = (a &&& ~~~b).toNat := by
  rw [iAndn, BitVec.toNat_and, BitVec.toNat_not]

/-- A shift to the left by the width or more leaves nothing. -/
theorem iShl_toNat : iShl w a.toNat n m = (a <<< n).toNat := by
  rw [iShl, BitVec.toNat_shiftLeft, Nat.shiftLeft_eq]
  split
  · next h => rw [Nat.mod_eq_zero_of_dvd (Dvd.dvd.mul_left (pow_dvd_pow 2 h) _)]
  · rw [wrap]
    norm_cast

theorem iShr_toNat : iShr w a.toNat n m = (a >>> n).toNat := by
  rw [iShr, BitVec.toNat_ushiftRight, Nat.shiftRight_eq_div_pow]
  split
  · next h => rw [Nat.div_eq_of_lt (a.isLt.trans_le (Nat.pow_le_pow_right two_pos h))]
  · rfl

/-- An arithmetic shift by more than the width is one by the width: the sign fills every bit. -/
theorem sshiftRight_min : a.sshiftRight (min n w) = a.sshiftRight n := by
  ext i hi
  have h : min n w + i < w ↔ n + i < w := by omega
  simp only [BitVec.getElem_sshiftRight, h]
  split
  · next hn =>
    have : min n w = n := by omega
    simp only [this]
  · rfl

theorem iSar_toNat (hw : 0 < w) : iSar w a.toNat n m = (a.sshiftRight n).toNat := by
  rw [iSar, wrap_eq_toNat_ofInt, sgn_toNat hw, ← sshiftRight_min, BitVec.sshiftRight, Int.shiftRight_eq_div_pow]

/-- A rotation puts the bits that leave at the top, a number below 2^r, where the shift has left zeros. -/
theorem iRol_toNat (hw : 0 < w) : iRol w a.toNat n m = (a.rotateLeft (n % w)).toNat := by
  have hr : n % w < w := Nat.mod_lt n hw
  rw [iRol, BitVec.toNat_rotateLeft, Nat.mod_mod]
  generalize n % w = r at hr
  have hpow : 2 ^ w = 2 ^ (w - r) * 2 ^ r := by rw [← Nat.pow_add, Nat.sub_add_cancel hr.le]
  have hlow : a.toNat * 2 ^ r % 2 ^ w = (a.toNat % 2 ^ (w - r)) <<< r := by
    rw [hpow, Nat.mul_mod_mul_right, Nat.shiftLeft_eq]
  have hhigh : a.toNat * 2 ^ r / 2 ^ w = a.toNat >>> (w - r) := by
    rw [hpow, Nat.mul_div_mul_right _ _ (Nat.two_pow_pos r), Nat.shiftRight_eq_div_pow]
  have hfit : a.toNat >>> (w - r) < 2 ^ r := by
    rw [Nat.shiftRight_eq_div_pow]
    exact Nat.div_lt_of_lt_mul (hpow ▸ a.isLt)
  rw [Nat.shiftLeft_eq, hlow, hhigh, Nat.shiftLeft_add_eq_or_of_lt hfit]

/-- A number below 2^w is the sum of its bits. -/
theorem sum_bits (w v : Nat) (hv : v < 2 ^ w) : ∑ j ∈ Finset.range w, (if v.testBit j then 2 ^ j else 0) = v := by
  have hbits : (Finset.range w).filter (fun j => v.testBit j) = v.bitIndices.toFinset := by
    ext j
    rw [Finset.mem_filter, Finset.mem_range, List.mem_toFinset, Nat.mem_bitIndices, and_iff_right_iff_imp]
    exact fun hj => (Nat.pow_lt_pow_iff_right one_lt_two).mp ((Nat.ge_two_pow_of_testBit hj).trans_lt hv)
  rw [← Finset.sum_filter, hbits, Finset.sum_toFinset_bitIndices_two_pow]

/-- R97: bit w − 1 − i of the result is bit i. -/
theorem iBrev_toNat : iBrev w a.toNat n m = a.reverse.toNat := by
  have hsum : iBrev w a.toNat n m = ∑ i ∈ Finset.range w, if a.toNat.testBit i then 2 ^ (w - 1 - i) else 0 := by
    simp only [iBrev, bit_eq_testBit]
    rfl
  rw [hsum, ← sum_bits w a.reverse.toNat a.reverse.isLt, ← Finset.sum_range_reflect]
  refine Finset.sum_congr rfl fun i hi => ?_
  have hi := Finset.mem_range.mp hi
  have hback : w - 1 - (w - 1 - i) = i := by omega
  have hbit : a.reverse.toNat.testBit i = a.toNat.testBit (w - 1 - i) := by
    rw [BitVec.testBit_toNat, BitVec.testBit_toNat, BitVec.getLsbD_reverse, BitVec.getMsbD, decide_eq_true hi,
      Bool.true_and]
  rw [hbit, hback]

/-- R92, R95 to R97: each function of the integer words, at every width. -/
theorem intFunctions : Claims.IntFunctions := fun _ hw a b c =>
  ⟨iAdd_toNat a b _, iSub_toNat a b _, iMullo_toNat a b _, iMulhi_toNat a b _ hw, iMulhn_toNat a b _, iMad_toNat a b c,
    iDiv_toNat a b _ hw, iDivn_toNat a b _, iRem_toNat a b _ hw, iRemn_toNat a b _, iMin_toNat a b _ hw,
    iMax_toNat a b _ hw, iMinn_toNat a b _, iMaxn_toNat a b _, iAbs_toNat a _ _ hw, iNeg_toNat a _ _ hw,
    (BitVec.toNat_and a b).symm, (BitVec.toNat_or a b).symm, (BitVec.toNat_xor a b).symm, iAndn_toNat a b _,
    iNot_toNat a _ _, iShl_toNat a _ _, iShr_toNat a _ _, iSar_toNat a _ _ hw, iRol_toNat a _ _ hw, iBrev_toNat a _ _⟩

/-! ### Comparisons and the dot product (R100, R104) -/

/-- R100: the conditions are the orders of the patterns. -/
theorem iCmp_toNat (hw : 0 < w) :
    iCmp 0 w a.toNat b.toNat = (a == b) ∧ iCmp 1 w a.toNat b.toNat = (a != b)
    ∧ iCmp 2 w a.toNat b.toNat = a.slt b ∧ iCmp 3 w a.toNat b.toNat = a.sle b
    ∧ iCmp 4 w a.toNat b.toNat = b.slt a ∧ iCmp 5 w a.toNat b.toNat = b.sle a
    ∧ iCmp 6 w a.toNat b.toNat = a.ult b ∧ iCmp 7 w a.toNat b.toNat = a.ule b
    ∧ iCmp 8 w a.toNat b.toNat = b.ult a ∧ iCmp 9 w a.toNat b.toNat = b.ule a := by
  have heq : (a.toNat == b.toNat) = (a == b) := by simp only [beq_eq_decide, BitVec.toNat_inj]
  simp only [iCmp, bne, heq, sgn_toNat hw, BitVec.slt_eq_decide, BitVec.sle_eq_decide, BitVec.ult_eq_decide,
    BitVec.ule_eq_decide, and_self]

end

/-- R104: byte k of a word. -/
theorem part_eq_extract {n : Nat} (a : BitVec n) (k : Nat) : part 8 k a.toNat = (a.extractLsb' (8 * k) 8).toNat := by
  rw [part, BitVec.extractLsb'_toNat, Nat.shiftRight_eq_div_pow]

/-- R104: byte k as an unsigned or a signed value. -/
theorem dotByte_toNat {n : Nat} (u : Bool) (a : BitVec n) (k : Nat) :
    dotByte u a.toNat k
      = if u then ((a.extractLsb' (8 * k) 8).toNat : Int) else (a.extractLsb' (8 * k) 8).toInt := by
  rw [dotByte, part_eq_extract, sgn_toNat (by decide)]

/-- Settles O5: the conditions are the orders of the patterns, and the sum of the accumulator and the four products is
exact until it is wrapped. -/
theorem compareAndDot : Obligations.CompareAndDot := by
  unfold Obligations.CompareAndDot
  refine ⟨fun w a b hw => iCmp_toNat a b hw, fun an bn a b c => ?_⟩
  rw [iDot4, wrap_eq_toNat_ofInt, sgn_toNat (by decide)]
  simp only [List.range_succ, List.range_zero, List.nil_append, List.cons_append, List.map_cons, List.map_nil,
    List.sum_cons, List.sum_nil, dotByte_toNat, add_zero, ← add_assoc]

end Sys2Proof.Machine
end

section
/-! PROOFS. The integer words of one result, and ADDC and SUBB with their carries, complete with the results of their
functions, lane by lane or in S[D] (R86 to R90, R94). -/

namespace Sys2Proof.Machine

/-! ### A word whose body is done -/

/-- A wave that may run a word whose body is done completes it with the body's effect. -/
theorem completes_of_done {i : Instr} {s E : State} {k : Ctx} {body : Ctx → State → Res} (he : exec i s = issueCore i s body)
    (h : MayRun i s k) (hb : body k s.unfocused = .done E) : Completes i s k E :=
  he.trans (issueCore_done h hb)

theorem MayRun.wave?_unfocused {i : Instr} {s : State} {k : Ctx} (h : MayRun i s k) :
    s.unfocused.wave? k.w = some k.wv :=
  (ctx_wave h.ctx).2

/-! ### Words of one result (R86 to R90) -/

/-- R88: a uniform word executes once, on the S registers of the issuing wave. -/
theorem intOp_uni {f : KF} (F : Nat → Nat → Nat → Nat → Nat) {k : Ctx} {s : State} (hu : KF.uni f = true)
    (hw : s.wave? k.w = some k.wv) :
    OnIssuer k s (intOp f F k s) (k.wv.wrS (KF.D f)
      (BitVec.ofNat 64 (F (partW f.ty) (sOperand k.wv f.ty (KF.A f)) (opB f k.wv k.wv 0) 0))) := by
  rw [intOp, if_pos hu, onWave, State.modWave_some _ hw]
  rfl

/-- R90: the lane form writes the container D of each active lane, part by part. -/
theorem intOp_lanes {f : KF} (F : Nat → Nat → Nat → Nat → Nat) (k : Ctx) (s : State) (hu : ¬ KF.uni f = true) :
    OnWaves k s (intOp f F k s) (fun v x y => LanesAre (k.on f v x) f.ty (KF.D f)
      (fun l => perPart f.ty F (Claims.aOf f x l) (opB f k.wv x l) (x.rdT f.ty f.c.toNat l)) x y) := by
  rw [intOp, if_neg hu]
  refine (k.each_onWaves s _).mono fun v x y hy => ?_
  subst hy
  exact foldLanes_wrT _ _ _ _ x

/-- R92 to R98: the body of a word of one result applies its function. -/
theorem exec_intWord {i : Instr} {f : KF} {F : Nat → Nat → Nat → Nat → Nat} (h : Claims.intWord i = some (f, F))
    (s : State) : exec i s = issueCore i s (fun k s => .done (intOp f F k s)) := by
  cases i with
  | add | sub | mullo | mulhi | mulhn | mad | div | divn | rem | remn | min | max | minn | maxn | abs | neg | and | or
  | xor | andn | not | shl | shr | sar | rol | clz | popc | brev | bfx | mov | adds | subs =>
    cases h
    rfl
  | _ => cases h

/-- R86 to R88, R90: the words of one result complete, lane by lane or in S[D]. -/
theorem intResults : Claims.IntResults := fun i f F hi s k h => by
  refine ⟨_, completes_of_done (exec_intWord hi s) h rfl, ?_⟩
  split
  · next hu => exact intOp_uni F hu h.wave?_unfocused
  · next hu => exact intOp_lanes F k s.unfocused hu

/-! ### Words with carries (R94) -/

/-- A walk over the lanes as a part of the wave sees it. -/
theorem foldLanes_hom {p : Wave → Wave} {f g : Nat → Wave → Wave} (h : ∀ l x, p (f l x) = g l (p x)) (act : Word)
    (x : Wave) : p (foldLanes act f x) = foldLanes act g (p x) := by
  unfold foldLanes
  generalize List.range 32 = ls
  induction ls generalizing x with
  | nil => rfl
  | cons l t ih =>
    rw [List.foldl_cons, List.foldl_cons, ih]
    split
    · rw [h]
    · rfl

section
variable (x : Wave) (ty : BitVec 2) (D M l n : Nat) (b : Bool)

/-- Apart from the masks, a lane that writes a container and a mask bit writes its container. -/
theorem Wave.wrT_under_masks (m : SMap Word) :
    { (x.wrT ty D l n).wrMbit M l b with m := m } = ({ x with m := m } : Wave).wrT ty D l n := by
  rw [Wave.wrMbit_m]
  unfold Wave.wrT
  split <;> rfl

/-- Apart from the V registers, a lane that writes a container and a mask bit writes its mask bit. -/
theorem Wave.wrMbit_under_v (v : SMap Word) :
    { (x.wrT ty D l n).wrMbit M l b with v := v } = ({ x with v := v } : Wave).wrMbit M l b := by
  rw [Wave.wrT_v]
  unfold Wave.wrMbit Wave.wrM
  split <;> rfl

end

/-- A walk that writes one container and one mask bit per active lane. -/
theorem foldLanes_wrT_wrMbit (act : Word) (ty : BitVec 2) (D M : Nat) (val : Nat → Nat) (co : Nat → Bool) (x : Wave) :
    let y := foldLanes act (fun l a => (a.wrT ty D l (val l)).wrMbit M l (co l)) x
    LanesAre act ty D val x { y with m := x.m } ∧ MaskIs act M (fun l => some (co l)) x { y with v := x.v } := by
  intro y
  have hv : { y with m := x.m } = foldLanes act (fun l a => a.wrT ty D l (val l)) x :=
    foldLanes_hom (p := fun a => { a with m := x.m }) (fun l a => a.wrT_under_masks ty D M l _ _ x.m) act x
  have hm : { y with v := x.v } = foldLanes act (fun l a => a.wrMbit M l (co l)) x :=
    foldLanes_hom (p := fun a => { a with v := x.v }) (fun l a => a.wrMbit_under_v ty D M l _ _ x.v) act x
  rw [hv, hm]
  exact ⟨foldLanes_wrT act ty D val x, foldLanes_mask act M (fun l => some (co l)) x⟩

/-- R94: each active lane gets the exact result, wrapped, and its carry or borrow. -/
theorem carryOp_lanes (f : KF) (sub : Bool) (k : Ctx) (s : State) :
    OnWaves k s (carryOp f sub k s) (fun v x y =>
      LanesAre (k.on f v x) f.ty (KF.D f) (fun l => wrap (partW f.ty) (Claims.carrySum f sub k x l)) x { y with m := x.m }
      ∧ MaskIs (k.on f v x) (fld f.c 6 4) (fun l => some (if sub then decide (Claims.carrySum f sub k x l < 0)
          else decide ((2 ^ partW f.ty : Nat) ≤ Claims.carrySum f sub k x l))) x { y with v := x.v }) := by
  refine (k.each_onWaves s _).mono fun v x y hy => ?_
  subst hy
  exact foldLanes_wrT_wrMbit _ _ _ _ _ _ x

/-- R94: the body of ADDC and of SUBB. -/
theorem exec_carryWord {i : Instr} {f : KF} {sub : Bool} (h : Claims.carryWord i = some (f, sub)) (s : State) :
    exec i s = issueCore i s (fun k s => .done (carryOp f sub k s)) := by
  cases i with
  | addc | subb =>
    cases h
    rfl
  | _ => cases h

/-- R94: ADDC and SUBB complete. -/
theorem carryResults : Claims.CarryResults := fun _ f sub hi s k h =>
  ⟨_, completes_of_done (exec_carryWord hi s) h rfl, carryOp_lanes f sub k s.unfocused⟩

/-- Settles O3: the functions are those of the patterns, and each word's body is a walk over the active lanes, or one
write of S[D], that applies them. -/
theorem intWords : Obligations.IntWords := ⟨intFunctions, intResults, carryResults⟩

end Sys2Proof.Machine
end

section
/-! PROOFS. The branches of class 4 go where R174 and R179 say: one rule for each way in which a path divides (R167), and
one for each way in which a branch ends. -/

namespace Sys2Proof.Machine

/-! ### How a path divides (R167) -/

section
variable (x : Wave) (target : Word)

/-- With no lane taken the path goes on at the next word. -/
theorem Wave.split_zero : x.split 0 target = { x with pc := x.pc + 8 } := rfl

variable {x} {t : Word} (ht : t ≠ 0)
include ht

/-- With every lane taken the path goes to the target, and a backward transfer rotates (R168). -/
theorem Wave.split_whole (hf : x.mask &&& ~~~t = 0) :
    x.split t target = if target.toNat ≤ x.pc.toNat then ({ x with pc := target } : Wave).rotate
      else { x with pc := target } := by
  simp only [Wave.split, hf, beq_iff_eq, ht, if_true, if_false]

/-- With some lanes taken a PATH entry of those lanes is pushed, and the others go on. -/
theorem Wave.split_part (hf : x.mask &&& ~~~t ≠ 0) :
    x.split t target = { x with
      pc := x.pc + 8
      mask := x.mask &&& ~~~t
      dstack := ⟨.path, 0, t, x.rstack.length, target, 0⟩ :: x.dstack } := by
  simp only [Wave.split, beq_iff_eq, ht, hf, if_false, Wave.follow]

end

/-! ### How a transfer ends (R56, R172) -/

/-- A wave whose new path lies in the version goes there. -/
theorem go_inside {k : Ctx} {y : Wave} (s : State) (h : k.inside y.pc.toNat = true) :
    go k s y = .moved (s.respill k.c k.w y) := by
  rw [go, h, Bool.or_true, if_pos rfl]

section
variable {k : Ctx} (s : State) {x : Wave} {t target : Word} {ok : Bool}

theorem branchLanes_zero (hnext : k.inside (x.pc.toNat + 8) = true) :
    branchLanes k s x 0 target ok = go k s { x with pc := x.pc + 8 } := by
  simp only [branchLanes, hnext, bne_self_eq_false, Bool.false_and, Bool.not_true, Bool.and_false, Bool.false_eq_true,
    if_false, Wave.split_zero]

/-- No lane goes on at the next word, so it need not lie in the version. -/
theorem branchLanes_whole (ht : t ≠ 0) (hf : x.mask &&& ~~~t = 0) (hok : ok = true)
    (hin : k.inside target.toNat = true) :
    branchLanes k s x t target ok = go k s (if target.toNat ≤ x.pc.toNat then ({ x with pc := target } : Wave).rotate
      else { x with pc := target }) := by
  have ht' : (t == 0) = false := beq_false_of_ne ht
  simp only [branchLanes, hf, hok, hin, ht', bne_self_eq_false, Bool.and_self, Bool.not_true, Bool.and_false,
    Bool.false_and, Bool.or_self, Bool.false_eq_true, if_false, Wave.split_whole target ht hf]

/-- Both the target and the next word lie in the version, and the divergence stack has room (R172). -/
theorem branchLanes_part (ht : t ≠ 0) (hf : x.mask &&& ~~~t ≠ 0) (hok : ok = true)
    (hin : k.inside target.toNat = true) (hnext : k.inside (x.pc.toNat + 8) = true) (hroom : x.dstack.length < 256) :
    branchLanes k s x t target ok = go k s { x with
      pc := x.pc + 8
      mask := x.mask &&& ~~~t
      dstack := ⟨.path, 0, t, x.rstack.length, target, 0⟩ :: x.dstack } := by
  have hroom' : decide (256 ≤ x.dstack.length) = false := decide_eq_false (by omega)
  simp only [branchLanes, hok, hin, hnext, hroom', Bool.and_self, Bool.not_true, Bool.and_false, Bool.false_eq_true,
    if_false, Wave.split_part target ht hf]

/-- A branch of a whole path that is taken takes all its lanes, and a threaded wave that goes backward rotates. -/
theorem branchAll_taken (hmask : k.vec = false → x.mask ≠ 0) (hok : ok = true) (hin : k.inside target.toNat = true) :
    branchAll k s x true target ok = go k s (if !k.vec && decide (target.toNat ≤ x.pc.toNat)
      then ({ x with pc := target } : Wave).rotate else { x with pc := target }) := by
  cases hv : k.vec with
  | true => simp only [branchAll, hv, hok, hin, Bool.and_self, Bool.not_true, Bool.false_and, Bool.false_eq_true,
      if_true, if_false]
  | false =>
    have hall : x.mask &&& ~~~x.mask = 0 := BitVec.and_not_self x.mask
    simp only [branchAll, hv, branchLanes_whole s (hmask hv) hall hok hin, Bool.not_false, Bool.true_and,
      decide_eq_true_eq, Bool.false_eq_true, if_true, if_false]

/-- A branch of a whole path that is not taken goes on at the next word, in either form. -/
theorem branchAll_not_taken (hnext : k.inside (x.pc.toNat + 8) = true) :
    branchAll k s x false target ok = go k s { x with pc := x.pc + 8 } := by
  cases hv : k.vec with
  | true => simp only [branchAll, hv, Bool.false_eq_true, if_true, if_false]
  | false => simp only [branchAll, hv, Bool.false_eq_true, if_false, branchLanes_zero s hnext]

end

/-! ### A word whose body moves the wave -/

/-- A threaded wave that issues has lanes on its path (R166). -/
theorem Ctx.mask_ne_zero {k : Ctx} (h : k.issues = true) (hv : k.vec = false) : k.wv.mask ≠ 0 := by
  simp only [Ctx.issues, hv, Bool.false_eq_true, if_false, Bool.and_eq_true, bne_iff_ne] at h
  exact h.2

/-- A wave that may run a word whose body goes to a path within the version moves there. -/
theorem moves_of_go {i : Instr} {s : State} {k : Ctx} {y : Wave} {body : Ctx → State → Res}
    (he : exec i s = issueCore i s body) (h : MayRun i s k) (hb : body k s.unfocused = go k s.unfocused y)
    (hy : k.inside y.pc.toNat = true) : Moves i s k (s.unfocused.respill k.c k.w y) :=
  he.trans (issueCore_moved h (hb.trans (go_inside _ hy)))

/-! ### BR and LOOP (R174, R179) -/

section
variable {i : Instr} {f : BF} {c : Ctx → Bool} {x : Ctx → Wave}

/-- BR and LOOP branch the wave that their own effect leaves, under the condition on the value they test. -/
theorem exec_wholeBranch (h : Claims.wholeBranch i = some (f, c, x)) (s : State) :
    exec i s = issueCore i s (fun k s => branchAll k s (x k) (c k) (BF.target f k.wv) (BF.reach f k.wv)) := by
  cases i with
  | br | loop =>
    cases h
    rfl
  | _ => cases h

/-- The effect of BR and LOOP of their own changes neither the place nor the lanes of the path. -/
theorem wholeBranch_path (h : Claims.wholeBranch i = some (f, c, x)) (k : Ctx) :
    (x k).pc = k.wv.pc ∧ (x k).mask = k.wv.mask := by
  cases i with
  | br =>
    cases h
    exact ⟨rfl, rfl⟩
  | loop =>
    cases h
    exact ⟨Wave.wrS_pc .., Wave.wrS_mask ..⟩
  | _ => cases h

end

/-- R61, R167, R174, R179: BR and LOOP. -/
theorem wholeBranches : Claims.WholeBranches := by
  intro i f c x hi s k h
  obtain ⟨hpc, hmask⟩ := wholeBranch_path hi k
  refine ⟨fun hc ⟨hreach, hin⟩ y hy hyin => ?_, fun hc ⟨hin, hnext⟩ => ?_⟩
  · refine moves_of_go (exec_wholeBranch hi s) h ?_ hyin
    rw [hc, branchAll_taken _ (fun hv => hmask ▸ Ctx.mask_ne_zero h.issues hv) hreach hin, hpc, hy]
  · refine moves_of_go (exec_wholeBranch hi s) h ?_ hin
    rw [hc, branchAll_not_taken _ (hpc ▸ hnext), hpc]

/-! ### BRM and BRS (R174) -/

/-- A walk that sets the bit of each lane for which `p` holds. -/
theorem getLsbD_foldl_setBit {w : Nat} (p : Nat → Bool) (ls : List Nat) (hls : ∀ l ∈ ls, l < w) (m : BitVec w) (j : Nat) :
    (ls.foldl (fun m l => if p l then setBit m l true else m) m).getLsbD j
      = (decide (j ∈ ls) && p j || m.getLsbD j) := by
  induction ls generalizing m with
  | nil => rfl
  | cons l ls ih =>
    have hl : l < w := hls l List.mem_cons_self
    rw [List.foldl_cons, ih fun a ha => hls a (List.mem_cons_of_mem l ha)]
    by_cases hj : j = l
    · subst hj
      cases hp : p j <;> simp [getLsbD_setBit _ _ _ _ hl]
    · cases hp : p l <;> simp [getLsbD_setBit _ _ _ _ hl, hj]

/-- The lanes that BRS walks over are those of `t`. -/
theorem brs_lanes {p : Nat → Bool} {a t : Word} (h : ∀ l, t.getLsbD l = (decide (l < 32) && a.getLsbD l && p l)) :
    (List.range 32).foldl (fun m l => if a.getLsbD l && p l then setBit m l true else m) 0 = t := by
  refine BitVec.eq_of_getLsbD_eq fun l _ => ?_
  rw [getLsbD_foldl_setBit (fun l => a.getLsbD l && p l) _ (fun l hl => List.mem_range.mp hl), h]
  simp only [List.mem_range, Bool.and_assoc, BitVec.ofNat_eq_ofNat, BitVec.getLsbD_zero, Bool.or_false]

/-- BRM and BRS branch the lanes that they take. -/
theorem exec_takenLanes {i : Instr} {f : BF} {p : Ctx → Word → Prop} (h : Claims.takenLanes i = some (f, p)) (s : State) :
    ∃ body, exec i s = issueCore i s body ∧
      ∀ k t s, p k t → body k s = branchLanes k s k.wv t (BF.target f k.wv) (BF.reach f k.wv) := by
  cases i with
  | brm =>
    cases h
    refine ⟨_, rfl, fun k t s hp => ?_⟩
    rw [hp, brmOp]
  | brs =>
    cases h
    refine ⟨_, rfl, fun k t s hp => ?_⟩
    rw [brsOp, brs_lanes hp]
  | _ => cases h

/-- R61, R166, R167, R174: BRM and BRS. -/
theorem laneBranches : Claims.LaneBranches := by
  intro i f p hi s k t h hp
  obtain ⟨body, he, hbody⟩ := exec_takenLanes hi s
  have hb := hbody k t s.unfocused hp
  refine ⟨fun ht ⟨hin, hnext⟩ => ?_, fun ht hf ⟨hreach, hin⟩ y hy hyin => ?_,
    fun ht hf ⟨hreach, htin⟩ ⟨hin, hnext⟩ hroom => ?_⟩
  · subst ht
    exact moves_of_go he h (hb.trans (branchLanes_zero _ hnext)) hin
  · subst hy
    exact moves_of_go he h (hb.trans (branchLanes_whole _ ht hf hreach hin)) hyin
  · exact moves_of_go he h (hb.trans (branchLanes_part _ ht hf hreach htin hnext hroom)) hin

/-- Settles O14: each branch ends by the rule for the lanes that it takes, none, all or some, and the wave goes on within
the version. -/
theorem branchWords : Obligations.BranchWords := ⟨wholeBranches, laneBranches⟩

end Sys2Proof.Machine
end

section
/-! PROOFS. Decoding and encoding core words agree: each layout is undone field by field, and each row of the opcode map by
the key of its instruction (R57 to R62, R72 to R74, R76). -/

namespace Sys2Proof

open Decode Machine

/-! ### Fields of a word -/

theorem ofBool_getLsbD {n : Nat} (w : BitVec n) (i : Nat) : BitVec.ofBool (w.getLsbD i) = w.extractLsb' i 1 := by
  refine BitVec.eq_of_getLsbD_eq fun j hj => ?_
  obtain rfl : j = 0 := by omega
  simp

/-- A number that a pattern has determines the pattern. -/
theorem eq_ofNat_of_toNat {w n : Nat} {x : BitVec w} (h : x.toNat = n) : x = BitVec.ofNat w n := by
  rw [← h, BitVec.ofNat_toNat, BitVec.setWidth_eq]

section
variable {n : Nat} (cls : BitVec n) (op : BitVec 8)

/-- The fields of a layout K word. (The width of CLS is a variable in these lemmas, so that the sum of the widths is no
numeral.) -/
theorem fieldsK (f : KF) :
    let w := cls ++ op ++ f.ty ++ BitVec.ofBool f.b.isS ++ BitVec.ofBool f.b.isImm ++ f.pm ++ BitVec.ofBool f.pn
      ++ f.d ++ f.a ++ bRaw f.b ++ f.c ++ xRaw f
    w.extractLsb' 60 n = cls ∧ w.extractLsb' 52 8 = op ∧ w.extractLsb' 50 2 = f.ty ∧ w.getLsbD 49 = f.b.isS
    ∧ w.getLsbD 48 = f.b.isImm ∧ w.extractLsb' 45 3 = f.pm ∧ w.getLsbD 44 = f.pn ∧ w.extractLsb' 36 8 = f.d
    ∧ w.extractLsb' 28 8 = f.a ∧ w.extractLsb' 20 8 = bRaw f.b ∧ w.extractLsb' 12 8 = f.c
    ∧ w.extractLsb' 0 12 = xRaw f := by
  simp [BitVec.getLsbD_append, BitVec.extractLsb'_append_eq_of_le, BitVec.extractLsb'_append_eq_of_add_le,
    -BitVec.getLsbD_eq_getElem]

theorem fieldsJ (z : BitVec 4) (hx : BitVec 4) (f : JF) :
    let w := cls ++ op ++ z ++ f.pm ++ BitVec.ofBool f.pn ++ f.d ++ hx ++ f.imm
    w.extractLsb' 60 n = cls ∧ w.extractLsb' 52 8 = op ∧ w.extractLsb' 48 4 = z ∧ w.extractLsb' 32 4 = hx
    ∧ w.extractLsb' 45 3 = f.pm ∧ w.getLsbD 44 = f.pn ∧ w.extractLsb' 36 8 = f.d ∧ w.extractLsb' 0 32 = f.imm := by
  simp [BitVec.getLsbD_append, BitVec.extractLsb'_append_eq_of_le, BitVec.extractLsb'_append_eq_of_add_le,
    -BitVec.getLsbD_eq_getElem]

theorem fieldsB (z : BitVec 4) (f : BF) :
    let w := cls ++ op ++ z ++ f.pm ++ BitVec.ofBool f.pn ++ f.a ++ f.cond ++ f.off
    w.extractLsb' 60 n = cls ∧ w.extractLsb' 52 8 = op ∧ w.extractLsb' 48 4 = z ∧ w.extractLsb' 45 3 = f.pm
    ∧ w.getLsbD 44 = f.pn ∧ w.extractLsb' 36 8 = f.a ∧ w.extractLsb' 32 4 = f.cond ∧ w.extractLsb' 0 32 = f.off := by
  simp [BitVec.getLsbD_append, BitVec.extractLsb'_append_eq_of_le, BitVec.extractLsb'_append_eq_of_add_le,
    -BitVec.getLsbD_eq_getElem]

theorem fieldsM (z : BitVec 2) (f : MF) :
    let w := cls ++ op ++ z ++ BitVec.ofBool f.sa ++ BitVec.ofBool f.ix ++ f.pm ++ BitVec.ofBool f.pn
      ++ f.d ++ f.a ++ f.b ++ f.size ++ BitVec.ofBool f.sx ++ f.space ++ f.ord ++ f.off
    w.extractLsb' 60 n = cls ∧ w.extractLsb' 52 8 = op ∧ w.extractLsb' 50 2 = z ∧ w.getLsbD 49 = f.sa
    ∧ w.getLsbD 48 = f.ix ∧ w.extractLsb' 45 3 = f.pm ∧ w.getLsbD 44 = f.pn ∧ w.extractLsb' 36 8 = f.d
    ∧ w.extractLsb' 28 8 = f.a ∧ w.extractLsb' 20 8 = f.b ∧ w.extractLsb' 17 3 = f.size ∧ w.getLsbD 16 = f.sx
    ∧ w.extractLsb' 14 2 = f.space ∧ w.extractLsb' 12 2 = f.ord ∧ w.extractLsb' 0 12 = f.off := by
  simp [BitVec.getLsbD_append, BitVec.extractLsb'_append_eq_of_le, BitVec.extractLsb'_append_eq_of_add_le,
    -BitVec.getLsbD_eq_getElem]

end

/-! Adjacent fields make up the word. -/

section
variable {m : Nat} (w : BitVec m) (n : Nat)

theorem joinK :
    w.extractLsb' 60 n ++ w.extractLsb' 52 8 ++ w.extractLsb' 50 2 ++ BitVec.ofBool (w.getLsbD 49)
      ++ BitVec.ofBool (w.getLsbD 48) ++ w.extractLsb' 45 3 ++ BitVec.ofBool (w.getLsbD 44) ++ w.extractLsb' 36 8
      ++ w.extractLsb' 28 8 ++ w.extractLsb' 20 8 ++ w.extractLsb' 12 8 ++ w.extractLsb' 0 12 = w.extractLsb' 0 _ := by
  simp only [ofBool_getLsbD, BitVec.extractLsb'_append_extractLsb'_eq_extractLsb', Nat.reduceAdd]

theorem joinJ :
    w.extractLsb' 60 n ++ w.extractLsb' 52 8 ++ w.extractLsb' 48 4 ++ w.extractLsb' 45 3 ++ BitVec.ofBool (w.getLsbD 44)
      ++ w.extractLsb' 36 8 ++ w.extractLsb' 32 4 ++ w.extractLsb' 0 32 = w.extractLsb' 0 _ := by
  simp only [ofBool_getLsbD, BitVec.extractLsb'_append_extractLsb'_eq_extractLsb', Nat.reduceAdd]

theorem joinM :
    w.extractLsb' 60 n ++ w.extractLsb' 52 8 ++ w.extractLsb' 50 2 ++ BitVec.ofBool (w.getLsbD 49)
      ++ BitVec.ofBool (w.getLsbD 48) ++ w.extractLsb' 45 3 ++ BitVec.ofBool (w.getLsbD 44) ++ w.extractLsb' 36 8
      ++ w.extractLsb' 28 8 ++ w.extractLsb' 20 8 ++ w.extractLsb' 17 3 ++ BitVec.ofBool (w.getLsbD 16)
      ++ w.extractLsb' 14 2 ++ w.extractLsb' 12 2 ++ w.extractLsb' 0 12 = w.extractLsb' 0 _ := by
  simp only [ofBool_getLsbD, BitVec.extractLsb'_append_extractLsb'_eq_extractLsb', Nat.reduceAdd]

end

/-! ### Layouts of core words, there and back -/

/-- R57: X is part of an immediate. -/
theorem bOp_raw {f : KF} (h : f.b.isImm = true → f.x = 0) :
    bOp f.b.isS f.b.isImm (bRaw f.b) (xRaw f) = f.b ∧ (if f.b.isImm then 0 else xRaw f) = f.x := by
  unfold xRaw
  revert h
  cases f.b with
  | v r => exact fun _ => ⟨rfl, rfl⟩
  | s r => exact fun _ => ⟨rfl, rfl⟩
  | imm i =>
    refine fun h => ⟨congrArg BOp.imm ?_, (h rfl).symm⟩
    exact (BitVec.extractLsb'_append_extractLsb'_eq_extractLsb' rfl).trans BitVec.extractLsb'_eq_self

theorem packK_fields (cls : BitVec 4) (op : BitVec 8) (f : KF) :
    (packK cls op f).extractLsb' 60 4 = cls ∧ (packK cls op f).extractLsb' 52 8 = op
    ∧ (packK cls op f).getLsbD 49 = f.b.isS ∧ (packK cls op f).getLsbD 48 = f.b.isImm := by
  obtain ⟨hcls, hop, -, hs, him, -⟩ := fieldsK cls op f
  exact ⟨hcls, hop, hs, him⟩

theorem unpackK_packK (cls : BitVec 4) (op : BitVec 8) {f : KF} (h : f.b.isImm = true → f.x = 0) :
    unpackK (packK cls op f) = f := by
  obtain ⟨-, -, hty, hs, him, hpm, hpn, hd, ha, hb, hc, hx⟩ := fieldsK cls op f
  obtain ⟨hB, hX⟩ := bOp_raw h
  have e : unpackK (packK cls op f) = ⟨f.ty, f.pm, f.pn, f.d, f.a, bOp f.b.isS f.b.isImm (bRaw f.b) (xRaw f), f.c,
      if f.b.isImm then 0 else xRaw f⟩ := by
    unfold unpackK packK
    simp only [hty, hs, him, hpm, hpn, hd, ha, hb, hc, hx]
  rw [e, hB, hX]

/-- R57: B and X of what SB, IM, B and X give. -/
theorem raw_bOp {sb im : Bool} (h : (sb && im) = false) (b : BitVec 8) (x : BitVec 12) (ty pm pn d a c) :
    let f : KF := ⟨ty, pm, pn, d, a, bOp sb im b x, c, if im then 0 else x⟩
    f.b.isS = sb ∧ f.b.isImm = im ∧ bRaw f.b = b ∧ xRaw f = x := by
  cases im with
  | true =>
    obtain rfl : sb = false := by simpa using h
    exact ⟨rfl, rfl, (BitVec.extractLsb'_append_eq_of_le (by decide)).trans BitVec.extractLsb'_eq_self,
      BitVec.extractLsb'_append_eq_right⟩
  | false => cases sb <;> exact ⟨rfl, rfl, rfl, rfl⟩

theorem packK_unpackK {w : BitVec 64} (h : (w.getLsbD 49 && w.getLsbD 48) = false) :
    packK (w.extractLsb' 60 4) (w.extractLsb' 52 8) (unpackK w) = w := by
  obtain ⟨hs, him, hb, hx⟩ := raw_bOp h (w.extractLsb' 20 8) (w.extractLsb' 0 12) (w.extractLsb' 50 2)
    (w.extractLsb' 45 3) (w.getLsbD 44) (w.extractLsb' 36 8) (w.extractLsb' 28 8) (w.extractLsb' 12 8)
  have e := (joinK w 4).trans BitVec.extractLsb'_eq_self
  unfold packK unpackK
  rw [hs, him, hb, hx]
  exact e

theorem packJ_fields (hx : BitVec 4) (f : JF) :
    (packJ hx f).extractLsb' 60 4 = 0 ∧ (packJ hx f).extractLsb' 52 8 = 0x24 ∧ (packJ hx f).extractLsb' 48 4 = 0
    ∧ (packJ hx f).extractLsb' 32 4 = hx ∧ unpackJ (packJ hx f) = f := by
  obtain ⟨hcls, hop, hz, h, hpm, hpn, hd, himm⟩ := fieldsJ (0 : BitVec 4) 0x24 0 hx f
  refine ⟨hcls, hop, hz, h, ?_⟩
  unfold unpackJ packJ
  rw [hpm, hpn, hd, himm]

theorem packJ_unpackJ {w : BitVec 64} (hcls : w.extractLsb' 60 4 = 0) (hop : w.extractLsb' 52 8 = 0x24)
    (hz : w.extractLsb' 48 4 = 0) : packJ (w.extractLsb' 32 4) (unpackJ w) = w := by
  have e := (joinJ w 4).trans BitVec.extractLsb'_eq_self
  rw [hcls, hop, hz] at e
  exact e

theorem packB_fields (op : BitVec 8) (f : BF) :
    (packB op f).extractLsb' 60 4 = 4 ∧ (packB op f).extractLsb' 52 8 = op ∧ (packB op f).extractLsb' 48 4 = 0
    ∧ unpackB (packB op f) = f := by
  obtain ⟨hcls, hop, hz, hpm, hpn, ha, hc, ho⟩ := fieldsB (4 : BitVec 4) op 0 f
  refine ⟨hcls, hop, hz, ?_⟩
  unfold unpackB packB
  rw [hpm, hpn, ha, hc, ho]

theorem packB_unpackB {w : BitVec 64} (hcls : w.extractLsb' 60 4 = 4) (hz : w.extractLsb' 48 4 = 0) :
    packB (w.extractLsb' 52 8) (unpackB w) = w := by
  have e := (joinJ w 4).trans BitVec.extractLsb'_eq_self
  rw [hcls, hz] at e
  exact e

theorem packM_fields (op : BitVec 8) (f : MF) :
    (packM op f).extractLsb' 60 4 = 5 ∧ (packM op f).extractLsb' 52 8 = op ∧ (packM op f).extractLsb' 50 2 = 0
    ∧ unpackM (packM op f) = f := by
  obtain ⟨hcls, hop, hz, hsa, hix, hpm, hpn, hd, ha, hb, hsize, hsx, hspace, hord, hoff⟩ := fieldsM (5 : BitVec 4) op 0 f
  refine ⟨hcls, hop, hz, ?_⟩
  unfold unpackM packM
  rw [hsa, hix, hpm, hpn, hd, ha, hb, hsize, hsx, hspace, hord, hoff]

theorem packM_unpackM {w : BitVec 64} (hcls : w.extractLsb' 60 4 = 5) (hz : w.extractLsb' 50 2 = 0) :
    packM (w.extractLsb' 52 8) (unpackM w) = w := by
  have e := (joinM w 4).trans BitVec.extractLsb'_eq_self
  rw [hcls, hz] at e
  exact e

/-! ### The opcode map read backward: the key of the instruction that a row gives -/

section
variable {op : BitVec 8} {i : Instr}

section
variable {f : KF}

theorem kRow0_key (h : kRow0 op f = some i) : kKey i = some (f, 0, op) := by
  unfold kRow0 at h
  split at h
  case h_41 => cases h
  all_goals
    next ho =>
      rw [eq_ofNat_of_toNat ho]
      obtain rfl := Option.some.inj h
      rfl

theorem kRow1_key (h : kRow1 op f = some i) : kKey i = some (f, 1, op) := by
  unfold kRow1 at h
  split at h
  case h_20 => cases h
  all_goals
    next ho =>
      rw [eq_ofNat_of_toNat ho]
      obtain rfl := Option.some.inj h
      rfl

theorem kRow2_key (h : kRow2 op f = some i) : kKey i = some (f, 2, op) := by
  unfold kRow2 at h
  split at h
  case h_9 => cases h
  all_goals
    next ho =>
      rw [eq_ofNat_of_toNat ho]
      obtain rfl := Option.some.inj h
      rfl

theorem kRow3_key (h : kRow3 op f = some i) : kKey i = some (f, 3, op) := by
  unfold kRow3 at h
  split at h
  case h_21 => cases h
  all_goals
    next ho =>
      rw [eq_ofNat_of_toNat ho]
      obtain rfl := Option.some.inj h
      rfl

theorem kRow4_key (h : kRow4 op f = some i) : kKey i = some (f, 4, op) := by
  unfold kRow4 at h
  split at h
  case h_2 | h_3 =>
    next ho =>
      rw [eq_ofNat_of_toNat ho]
      obtain rfl := Option.some.inj h
      split <;> rfl
  case h_9 => cases h
  all_goals
    next ho =>
      rw [eq_ofNat_of_toNat ho]
      obtain rfl := Option.some.inj h
      rfl

theorem kRow6_key (h : kRow6 op f = some i) : kKey i = some (f, 6, op) := by
  unfold kRow6 at h
  split at h
  case h_12 =>
    next ho =>
      rw [eq_ofNat_of_toNat ho]
      obtain rfl := Option.some.inj h
      unfold qbindRow
      split <;> rfl
  case h_14 => cases h
  all_goals
    next ho =>
      rw [eq_ofNat_of_toNat ho]
      obtain rfl := Option.some.inj h
      rfl

theorem kRow7_key (h : kRow7 op f = some i) : kKey i = some (f, 7, op) := by
  unfold kRow7 at h
  split at h
  case h_9 =>
    next ho =>
      rw [eq_ofNat_of_toNat ho]
      obtain rfl := Option.some.inj h
      split <;> rfl
  case h_10 => cases h
  all_goals
    next ho =>
      rw [eq_ofNat_of_toNat ho]
      obtain rfl := Option.some.inj h
      rfl

theorem kRow8_key (h : kRow8 op f = some i) : kKey i = some (f, 8, op) := by
  unfold kRow8 at h
  split at h
  case h_7 => cases h
  all_goals
    next ho =>
      rw [eq_ofNat_of_toNat ho]
      obtain rfl := Option.some.inj h
      rfl

theorem kRow9_key (h : kRow9 op f = some i) : kKey i = some (f, 9, op) := by
  unfold kRow9 at h
  split at h
  case h_2 | h_4 =>
    next ho =>
      rw [eq_ofNat_of_toNat ho]
      obtain rfl := Option.some.inj h
      split <;> rfl
  case h_5 => cases h
  all_goals
    next ho =>
      rw [eq_ofNat_of_toNat ho]
      obtain rfl := Option.some.inj h
      rfl

theorem kRow10_key (h : kRow10 op f = some i) : kKey i = some (f, 10, op) := by
  unfold kRow10 at h
  split at h
  case h_5 =>
    next ho =>
      rw [eq_ofNat_of_toNat ho]
      obtain rfl := Option.some.inj h
      split <;> rfl
  case h_9 => cases h
  all_goals
    next ho =>
      rw [eq_ofNat_of_toNat ho]
      obtain rfl := Option.some.inj h
      rfl

theorem kRow_key {cls : BitVec 4} (h : kRow cls op f = some i) : kKey i = some (f, cls, op) := by
  unfold kRow at h
  split at h
  case h_11 => cases h
  · next hc =>
    obtain rfl := eq_ofNat_of_toNat hc
    exact kRow0_key h
  · next hc =>
    obtain rfl := eq_ofNat_of_toNat hc
    exact kRow1_key h
  · next hc =>
    obtain rfl := eq_ofNat_of_toNat hc
    exact kRow2_key h
  · next hc =>
    obtain rfl := eq_ofNat_of_toNat hc
    exact kRow3_key h
  · next hc =>
    obtain rfl := eq_ofNat_of_toNat hc
    exact kRow4_key h
  · next hc =>
    obtain rfl := eq_ofNat_of_toNat hc
    exact kRow6_key h
  · next hc =>
    obtain rfl := eq_ofNat_of_toNat hc
    exact kRow7_key h
  · next hc =>
    obtain rfl := eq_ofNat_of_toNat hc
    exact kRow8_key h
  · next hc =>
    obtain rfl := eq_ofNat_of_toNat hc
    exact kRow9_key h
  · next hc =>
    obtain rfl := eq_ofNat_of_toNat hc
    exact kRow10_key h

end

section
variable {f : BF}

theorem bRow_key (h : bRow op f = some i) : bKey i = some (f, op) := by
  unfold bRow at h
  split at h
  case h_8 => cases h
  all_goals
    next ho =>
      rw [eq_ofNat_of_toNat ho]
      obtain rfl := Option.some.inj h
      rfl

end

section
variable {f : MF}

theorem mRow_key (h : mRow op f = some i) : mKey i = some (f, op) := by
  unfold mRow at h
  split at h
  case h_1 =>
    next ho =>
      rw [eq_ofNat_of_toNat ho]
      obtain rfl := Option.some.inj h
      split <;> rfl
  case h_14 => cases h
  all_goals
    next ho =>
      rw [eq_ofNat_of_toNat ho]
      obtain rfl := Option.some.inj h
      rfl

end

section
variable {f : JF}

theorem jRow_key {hx : BitVec 4} (h : jRow hx f = some i) : jKey i = some (f, hx) := by
  unfold jRow at h
  split at h
  case h_4 => cases h
  all_goals
    next ho =>
      rw [eq_ofNat_of_toNat ho]
      obtain rfl := Option.some.inj h
      rfl

end

end

/-! ### What a key tells of its instruction -/

section
variable {i : Instr}

theorem encode_of_kKey {f : KF} {c : BitVec 4} {o : BitVec 8} (h : kKey i = some (f, c, o)) :
    encode i = some (packK c o f) := by
  simp only [encode, h]

theorem encode_of_mKey {f : MF} {o : BitVec 8} (h : mKey i = some (f, o)) : encode i = some (packM o f) := by
  cases i with
  | ld | ldUniform | st | lda | stl | atom | cas | fence | pref | vlds | vsts | ldf | stf | cmaint =>
    cases h
    rfl
  | _ => cases h

theorem encode_of_bKey {f : BF} {o : BitVec 8} (h : bKey i = some (f, o)) : encode i = some (packB o f) := by
  cases i with
  | br | brm | brs | rcv | call | loop | prefi =>
    cases h
    rfl
  | _ => cases h

theorem encode_of_jKey {f : JF} {hx : BitVec 4} (h : jKey i = some (f, hx)) : encode i = some (packJ hx f) := by
  cases i with
  | movi | moviHi | moviPair =>
    cases h
    rfl
  | _ => cases h

/-- An instruction with the key of a core word is a core word. -/
theorem isCore_of_key (h : (kKey i).isSome ∨ (mKey i).isSome ∨ (bKey i).isSome ∨ (jKey i).isSome) :
    i.isCore = true := by
  cases i with
  | add | sub | addc | subb | mullo | mulhi | mulhn | mad | div | divn | rem | remn | min | max | minn | maxn | abs
  | neg | and | or | xor | andn | not | shl | shr | sar | rol | clz | popc | brev | bfx | bfi | lea | sel | cmp | mov
  | movsv | adds | subs | dot4 | fadd | fsub | fmul | fma | fmin | fmax | fcmp | fdiv | fsqrt | frcp | frsq | fex2
  | flg2 | fclass | fcvti | icvtf | fcvtw | frnd | fscl | fmtw | fmtr | fmtq | cvt | sclq | scld | bscl | ndot | shfl
  | shflup | shfldn | shflx | bcast | ballot | vote | red | scan | cmpr | expd | iota | setvl | getvl | msk | mpop | mff
  | v2s | slide | mset | join | ret | exit | nop | yield | ifence | cpy | cpyt | cpyb | cpyw | bar | bara | barw | barx
  | qpush | qpop | qnotify | qstat | freq | frel | fcfg | fsend | frecv | fdrain | fprio | fstat | mxw | mxa | mxc | mxz
  | mxsc | mxwait | eqp | gaitr | trap | brk | ctlrd | ctlwr | launch | waitev | sigev
  | callxV | callxS | jmpxV | jmpxS | qbindTrig | qbindIn | qbindOut | qbindUnmap | fmodeDf | fmodeSys | remount
  | remountClr | pin | pinOff | cyc | cycRow => rfl
  | ld | ldUniform | st | lda | stl | atom | cas | fence | pref | vlds | vsts | ldf | stf | cmaint => rfl
  | br | brm | brs | rcv | call | loop | prefi => rfl
  | movi | moviHi | moviPair => rfl
  | _ => rcases h with h | h | h | h <;> cases h

/-- A core word has one of the four keys. -/
theorem key_of_isCore (h : i.isCore = true) : (∃ f c o, kKey i = some (f, c, o)) ∨ (∃ f o, mKey i = some (f, o))
    ∨ (∃ f o, bKey i = some (f, o)) ∨ ∃ f hx, jKey i = some (f, hx) := by
  cases i with
  | add | sub | addc | subb | mullo | mulhi | mulhn | mad | div | divn | rem | remn | min | max | minn | maxn | abs
  | neg | and | or | xor | andn | not | shl | shr | sar | rol | clz | popc | brev | bfx | bfi | lea | sel | cmp | mov
  | movsv | adds | subs | dot4 | fadd | fsub | fmul | fma | fmin | fmax | fcmp | fdiv | fsqrt | frcp | frsq | fex2
  | flg2 | fclass | fcvti | icvtf | fcvtw | frnd | fscl | fmtw | fmtr | fmtq | cvt | sclq | scld | bscl | ndot | shfl
  | shflup | shfldn | shflx | bcast | ballot | vote | red | scan | cmpr | expd | iota | setvl | getvl | msk | mpop | mff
  | v2s | slide | mset | join | ret | exit | nop | yield | ifence | cpy | cpyt | cpyb | cpyw | bar | bara | barw | barx
  | qpush | qpop | qnotify | qstat | freq | frel | fcfg | fsend | frecv | fdrain | fprio | fstat | mxw | mxa | mxc | mxz
  | mxsc | mxwait | eqp | gaitr | trap | brk | ctlrd | ctlwr | launch | waitev | sigev
  | callxV | callxS | jmpxV | jmpxS | qbindTrig | qbindIn | qbindOut | qbindUnmap | fmodeDf | fmodeSys | remount
  | remountClr | pin | pinOff | cyc | cycRow =>
    exact .inl ⟨_, _, _, rfl⟩
  | ld | ldUniform | st | lda | stl | atom | cas | fence | pref | vlds | vsts | ldf | stf | cmaint => exact .inr (.inl ⟨_, _, rfl⟩)
  | br | brm | brs | rcv | call | loop | prefi => exact .inr (.inr (.inl ⟨_, _, rfl⟩))
  | movi | moviHi | moviPair => exact .inr (.inr (.inr ⟨_, _, rfl⟩))
  | _ => cases h

end

/-! ### The opcode map read forward: a well-formed instruction is the one that its row gives -/

/-- C holds no modifier bit where the row has none. -/
theorem eq_zero_of_noBits {c : BitVec 8} (h : (CForm.bits 0).ok c = true) : c = 0 := by
  revert c
  decide

/-- R248: C[7:6] of the four forms of QBIND. -/
theorem qbind_forms :
    (∀ c, (CForm.bits 0x3F).ok c = true → (c.extractLsb' 6 2).toNat = 0)
    ∧ (∀ c, (CForm.bits 0x7F).ok c = true → c.getLsbD 6 = true → (c.extractLsb' 6 2).toNat = 1)
    ∧ ∀ c, (CForm.bits 0xBF).ok c = true → c.getLsbD 7 = true → (c.extractLsb' 6 2).toNat = 2 := by
  decide

theorem qbindRow_form (f : KF) {n : Nat} : (f.c.extractLsb' 6 2).toNat = n →
    qbindRow f = match n with | 0 => .qbindTrig f | 1 => .qbindIn f | 2 => .qbindOut f | _ => .qbindUnmap f := by
  rintro rfl
  rfl

/-- R76: the conditions of a layout K word that the decoder's choice of a row rests on. -/
theorem KForm.ok_iff {k : KForm} {f : KF} (h : k.ok f = true) :
    k.b.ok f.b = true ∧ k.c.ok f.c = true ∧ k.extra = true ∧ (f.b.isImm = true → f.x = 0) := by
  simp only [KForm.ok, Bool.and_eq_true] at h
  obtain ⟨⟨⟨⟨⟨⟨⟨⟨-, -⟩, -⟩, hb⟩, hc⟩, -⟩, hx⟩, -⟩, he⟩ := h
  refine ⟨hb, hc, he, ?_⟩
  cases hf : f.b with
  | imm i => exact fun _ => by simpa [hf] using hx
  | _ => exact fun e => by cases e

section
variable {i : Instr}

/-- R76: a well-formed layout K word meets the conditions of its row. -/
theorem KForm.ok_of_wf {f : KF} {k : KForm} (hk : kform i = some (f, k)) (hw : i.wf = true) :
    k.ok f = true := by
  simpa only [Instr.wf, Instr.isCore, Instr.coreWf, hk, Option.isSome_some, Bool.true_or, if_true] using hw

theorem MForm.ok_of_wf {f : MF} {k : MForm} (h0 : kform i = none)
    (hk : mform i = some (f, k)) (hw : i.wf = true) : k.ok i f = true := by
  simpa only [Instr.wf, Instr.isCore, Instr.coreWf, h0, hk, Option.isSome_some, Option.isSome_none, Bool.true_or,
    Bool.or_true, if_true] using hw

variable {f : KF} {c : BitVec 4} {o : BitVec 8}

theorem kform_of_kKey (h : kKey i = some (f, c, o)) : ∃ k, kform i = some (f, k) := by
  cases i with
  | add | sub | addc | subb | mullo | mulhi | mulhn | mad | div | divn | rem | remn | min | max | minn | maxn | abs
  | neg | and | or | xor | andn | not | shl | shr | sar | rol | clz | popc | brev | bfx | bfi | lea | sel | cmp | mov
  | movsv | adds | subs | dot4 | fadd | fsub | fmul | fma | fmin | fmax | fcmp | fdiv | fsqrt | frcp | frsq | fex2
  | flg2 | fclass | fcvti | icvtf | fcvtw | frnd | fscl | fmtw | fmtr | fmtq | cvt | sclq | scld | bscl | ndot | shfl
  | shflup | shfldn | shflx | bcast | ballot | vote | red | scan | cmpr | expd | iota | setvl | getvl | msk | mpop | mff
  | v2s | slide | mset | join | ret | exit | nop | yield | ifence | cpy | cpyt | cpyb | cpyw | bar | bara | barw | barx
  | qpush | qpop | qnotify | qstat | freq | frel | fcfg | fsend | frecv | fdrain | fprio | fstat | mxw | mxa | mxc | mxz
  | mxsc | mxwait | eqp | gaitr | trap | brk | ctlrd | ctlwr | launch | waitev | sigev
  | callxV | callxS | jmpxV | jmpxS | qbindTrig | qbindIn | qbindOut | qbindUnmap | fmodeDf | fmodeSys | remount
  | remountClr | pin | pinOff | cyc | cycRow =>
    cases h
    exact ⟨_, rfl⟩
  | _ => cases h

/-- R72 to R74: no row of layout K has the class or operation of another layout. -/
theorem layoutK_of_kKey (h : kKey i = some (f, c, o)) :
    c.toNat < 11 ∧ (c == 5) = false ∧ (c == 4 && isLayoutB o) = false ∧ (c == 0 && o == 0x24) = false := by
  cases i with
  | add | sub | addc | subb | mullo | mulhi | mulhn | mad | div | divn | rem | remn | min | max | minn | maxn | abs
  | neg | and | or | xor | andn | not | shl | shr | sar | rol | clz | popc | brev | bfx | bfi | lea | sel | cmp | mov
  | movsv | adds | subs | dot4 | fadd | fsub | fmul | fma | fmin | fmax | fcmp | fdiv | fsqrt | frcp | frsq | fex2
  | flg2 | fclass | fcvti | icvtf | fcvtw | frnd | fscl | fmtw | fmtr | fmtq | cvt | sclq | scld | bscl | ndot | shfl
  | shflup | shfldn | shflx | bcast | ballot | vote | red | scan | cmpr | expd | iota | setvl | getvl | msk | mpop | mff
  | v2s | slide | mset | join | ret | exit | nop | yield | ifence | cpy | cpyt | cpyb | cpyw | bar | bara | barw | barx
  | qpush | qpop | qnotify | qstat | freq | frel | fcfg | fsend | frecv | fdrain | fprio | fstat | mxw | mxa | mxc | mxz
  | mxsc | mxwait | eqp | gaitr | trap | brk | ctlrd | ctlwr | launch | waitev | sigev
  | callxV | callxS | jmpxV | jmpxS | qbindTrig | qbindIn | qbindOut | qbindUnmap | fmodeDf | fmodeSys | remount
  | remountClr | pin | pinOff | cyc | cycRow =>
    cases h
    exact ⟨by decide, rfl, rfl, rfl⟩
  | _ => cases h

theorem kRow_of_kKey (h : kKey i = some (f, c, o)) (hw : i.wf = true) : kRow c o f = some i := by
  cases i with
  | add | sub | addc | subb | mullo | mulhi | mulhn | mad | div | divn | rem | remn | min | max | minn | maxn | abs
  | neg | and | or | xor | andn | not | shl | shr | sar | rol | clz | popc | brev | bfx | bfi | lea | sel | cmp | mov
  | movsv | adds | subs | dot4 | fadd | fsub | fmul | fma | fmin | fmax | fcmp | fdiv | fsqrt | frcp | frsq | fex2
  | flg2 | fclass | fcvti | icvtf | fcvtw | frnd | fscl | fmtw | fmtr | fmtq | cvt | sclq | scld | bscl | ndot | shfl
  | shflup | shfldn | shflx | bcast | ballot | vote | red | scan | cmpr | expd | iota | setvl | getvl | msk | mpop | mff
  | v2s | slide | mset | join | ret | exit | nop | yield | ifence | cpy | cpyt | cpyb | cpyw | bar | bara | barw | barx
  | qpush | qpop | qnotify | qstat | freq | frel | fcfg | fsend | frecv | fdrain | fprio | fstat | mxw | mxa | mxc | mxz
  | mxsc | mxwait | eqp | gaitr | trap | brk | ctlrd | ctlwr | launch | waitev | sigev =>
    cases h
    rfl
  | callxV | jmpxV =>
    cases h
    obtain ⟨hb, -⟩ := KForm.ok_iff (KForm.ok_of_wf rfl hw)
    have hs : f.b.isS = false := by
      revert hb
      cases f.b <;> simp [BForm.ok, bNone, BOp.isS]
    exact congrArg some (if_neg (by simp [hs]))
  | callxS | jmpxS =>
    cases h
    obtain ⟨hb, -⟩ := KForm.ok_iff (KForm.ok_of_wf rfl hw)
    have hs : f.b.isS = true := by
      revert hb
      cases f.b <;> simp [BForm.ok, bS, BOp.isS]
    exact congrArg some (if_pos hs)
  | qbindTrig =>
    cases h
    obtain ⟨-, hc, -⟩ := KForm.ok_iff (KForm.ok_of_wf rfl hw)
    exact congrArg some (qbindRow_form f (qbind_forms.1 f.c hc))
  | qbindIn =>
    cases h
    obtain ⟨-, hc, he, -⟩ := KForm.ok_iff (KForm.ok_of_wf rfl hw)
    exact congrArg some (qbindRow_form f (qbind_forms.2.1 f.c hc he))
  | qbindOut =>
    cases h
    obtain ⟨-, hc, he, -⟩ := KForm.ok_iff (KForm.ok_of_wf rfl hw)
    exact congrArg some (qbindRow_form f (qbind_forms.2.2 f.c hc he))
  | qbindUnmap =>
    cases h
    obtain ⟨-, -, he, -⟩ := KForm.ok_iff (KForm.ok_of_wf rfl hw)
    exact congrArg some (qbindRow_form f (n := 3) (by rw [eq_of_beq he]; rfl))
  | fmodeDf =>
    cases h
    obtain ⟨-, hc, -⟩ := KForm.ok_iff (KForm.ok_of_wf rfl hw)
    exact congrArg some (if_neg (by rw [eq_zero_of_noBits hc]; decide))
  | pinOff =>
    cases h
    obtain ⟨-, hc, -⟩ := KForm.ok_iff (KForm.ok_of_wf rfl hw)
    exact congrArg some (if_pos (by rw [eq_zero_of_noBits hc]; decide))
  | cyc =>
    cases h
    obtain ⟨-, hc, -⟩ := KForm.ok_iff (KForm.ok_of_wf rfl hw)
    exact congrArg some (if_neg (by rw [eq_zero_of_noBits hc]; decide))
  | fmodeSys | remountClr | cycRow =>
    cases h
    obtain ⟨-, -, he, -⟩ := KForm.ok_iff (KForm.ok_of_wf rfl hw)
    exact congrArg some (if_pos he)
  | pin =>
    cases h
    obtain ⟨-, -, he, -⟩ := KForm.ok_iff (KForm.ok_of_wf rfl hw)
    exact congrArg some (if_neg (by rw [eq_of_beq he]; decide))
  | remount =>
    cases h
    obtain ⟨-, -, he, -⟩ := KForm.ok_iff (KForm.ok_of_wf rfl hw)
    refine congrArg some (if_neg fun hc => ?_)
    rw [eq_of_beq hc] at he
    revert he
    decide
  | _ => cases h

theorem mRow_of_mKey {f : MF} (h : mKey i = some (f, o)) (hw : i.wf = true) : mRow o f = some i := by
  cases i with
  | ld =>
    cases h
    refine congrArg some (if_neg ?_)
    have hb := MForm.ok_of_wf rfl rfl hw
    simp only [MForm.ok, MForm.bSlot, Bool.and_eq_true] at hb
    obtain ⟨⟨⟨⟨-, hb⟩, -⟩, -⟩, -⟩ := hb
    cases hix : f.ix
    · rw [hix] at hb
      rw [eq_of_beq hb]
      decide
    · exact fun e => by cases e
  | ldUniform =>
    cases h
    refine congrArg some (if_pos ?_)
    have hb := MForm.ok_of_wf rfl rfl hw
    simp only [MForm.ok, Bool.and_eq_true] at hb
    obtain ⟨⟨⟨⟨⟨-, hix⟩, -⟩, -⟩, hb⟩, -⟩ := hb
    rw [Bool.false_or] at hix
    rw [eq_of_beq hb, hix]
    decide
  | st | lda | stl | atom | cas | fence | pref | vlds | vsts | ldf | stf | cmaint =>
    cases h
    rfl
  | _ => cases h

theorem bRow_of_bKey {f : BF} (h : bKey i = some (f, o)) : bRow o f = some i ∧ isLayoutB o = true := by
  cases i with
  | br | brm | brs | rcv | call | loop | prefi =>
    cases h
    exact ⟨rfl, rfl⟩
  | _ => cases h

theorem jRow_of_jKey {f : JF} (h : jKey i = some (f, c)) : jRow c f = some i := by
  cases i with
  | movi | moviHi | moviPair =>
    cases h
    rfl
  | _ => cases h

end

/-! ### Round trips of core words -/

theorem checked_ok {e : DecodeError} {r : Option Instr} {i : Instr} :
    checked e r = .ok i ↔ r = some i ∧ i.wf = true := by
  cases r with
  | none => simp [checked]
  | some j =>
    unfold checked
    dsimp only
    split
    · next h =>
      simp only [Except.ok.injEq, Option.some.injEq]
      exact ⟨fun e => ⟨e, e ▸ h⟩, fun e => e.1⟩
    · next h =>
      simp only [reduceCtorEq, Option.some.injEq, false_iff, not_and]
      exact fun e => e ▸ h

/-- R57, R72, R76: a layout K word is decoded by its row. -/
theorem core_layoutK {w : BitVec 64} {c : BitVec 4} {o : BitVec 8} (hc : w.extractLsb' 60 4 = c)
    (ho : w.extractLsb' 52 8 = o) (h : c.toNat < 11) (hM : (c == 5) = false) (hB : (c == 4 && isLayoutB o) = false)
    (hJ : (c == 0 && o == 0x24) = false) (hs : (w.getLsbD 49 && w.getLsbD 48) = false) :
    Decode.core w = checked .unassignedOp (kRow c o (unpackK w)) := by
  simp only [Decode.core, hc, ho, h, hM, hB, hJ, hs, if_true, if_false, Bool.false_eq_true]

theorem core_encode_of_kKey {i : Instr} {f : KF} {c : BitVec 4} {o : BitVec 8} (hk : kKey i = some (f, c, o))
    (hw : i.wf = true) : Decode.core (packK c o f) = .ok i := by
  obtain ⟨k, hf⟩ := kform_of_kKey hk
  obtain ⟨-, -, -, hx⟩ := KForm.ok_iff (KForm.ok_of_wf hf hw)
  obtain ⟨hc, ho, hs, him⟩ := packK_fields c o f
  obtain ⟨hlt, hM, hB, hJ⟩ := layoutK_of_kKey hk
  have hsi : ((packK c o f).getLsbD 49 && (packK c o f).getLsbD 48) = false := by
    rw [hs, him]
    cases f.b <;> rfl
  rw [core_layoutK hc ho hlt hM hB hJ hsi, unpackK_packK c o hx, checked_ok]
  exact ⟨kRow_of_kKey hk hw, hw⟩

theorem core_encode_of_mKey {i : Instr} {f : MF} {o : BitVec 8} (hk : mKey i = some (f, o)) (hw : i.wf = true) :
    Decode.core (packM o f) = .ok i := by
  obtain ⟨hc, ho, hz, hf⟩ := packM_fields o f
  have e : Decode.core (packM o f) = checked .unassignedOp (mRow o f) := by
    simp only [Decode.core, hc, ho, hz, hf, beq_self_eq_true, if_true]
    rfl
  rw [e, checked_ok]
  exact ⟨mRow_of_mKey hk hw, hw⟩

theorem core_encode_of_bKey {i : Instr} {f : BF} {o : BitVec 8} (hk : bKey i = some (f, o)) (hw : i.wf = true) :
    Decode.core (packB o f) = .ok i := by
  obtain ⟨hc, ho, hz, hf⟩ := packB_fields o f
  obtain ⟨hrow, hB⟩ := bRow_of_bKey hk
  have e : Decode.core (packB o f) = checked .unassignedOp (bRow o f) := by
    simp only [Decode.core, hc, ho, hz, hf, hB, beq_self_eq_true, Bool.and_self, if_true]
    rfl
  rw [e, checked_ok]
  exact ⟨hrow, hw⟩

theorem core_encode_of_jKey {i : Instr} {f : JF} {hx : BitVec 4} (hk : jKey i = some (f, hx)) (hw : i.wf = true) :
    Decode.core (packJ hx f) = .ok i := by
  obtain ⟨hc, ho, hz, hh, hf⟩ := packJ_fields hx f
  have e : Decode.core (packJ hx f) = checked .badFields (jRow hx f) := by
    simp only [Decode.core, hc, ho, hz, hh, hf, beq_self_eq_true, if_true]
    rfl
  rw [e, checked_ok]
  exact ⟨jRow_of_jKey hk, hw⟩

/-- R72 to R74, R76: what the core decoder accepts has one of the four keys and is encoded by the word it came from. -/
theorem encode_of_core_ok {w : BitVec 64} {i : Instr} (h : Decode.core w = .ok i) :
    encode i = some w ∧ i.wf = true ∧ i.isCore = true := by
  unfold Decode.core at h
  dsimp only at h
  split at h
  case isFalse => cases h
  split at h
  · next h5 =>
    split at h
    case isFalse => cases h
    next hz =>
      obtain ⟨hr, hw⟩ := checked_ok.mp h
      have hk := mRow_key hr
      exact ⟨by rw [encode_of_mKey hk, packM_unpackM (eq_of_beq h5) (eq_of_beq hz)], hw,
        isCore_of_key (.inr (.inl (by rw [hk]; rfl)))⟩
  split at h
  · next h4 =>
    obtain ⟨h4, -⟩ := Bool.and_eq_true_iff.mp h4
    split at h
    case isFalse => cases h
    next hz =>
      obtain ⟨hr, hw⟩ := checked_ok.mp h
      have hk := bRow_key hr
      exact ⟨by rw [encode_of_bKey hk, packB_unpackB (eq_of_beq h4) (eq_of_beq hz)], hw,
        isCore_of_key (.inr (.inr (.inl (by rw [hk]; rfl))))⟩
  split at h
  · next h0 =>
    obtain ⟨h0, ho⟩ := Bool.and_eq_true_iff.mp h0
    split at h
    case isFalse => cases h
    next hz =>
      obtain ⟨hr, hw⟩ := checked_ok.mp h
      have hk := jRow_key hr
      exact ⟨by rw [encode_of_jKey hk, packJ_unpackJ (eq_of_beq h0) (eq_of_beq ho) (eq_of_beq hz)], hw,
        isCore_of_key (.inr (.inr (.inr (by rw [hk]; rfl))))⟩
  split at h
  · cases h
  · next hs =>
    obtain ⟨hr, hw⟩ := checked_ok.mp h
    have hk := kRow_key hr
    exact ⟨by rw [encode_of_kKey hk, packK_unpackK (by simpa using hs)], hw, isCore_of_key (.inl (by rw [hk]; rfl))⟩

/-- Settles O56: each of the four layouts is undone field by field, and each row of the opcode map by its key. -/
theorem coreRoundTrip : Obligations.CoreRoundTrip := by
  refine ⟨fun i hi hw => ?_, fun w i h => encode_of_core_ok h⟩
  rcases key_of_isCore hi with ⟨f, c, o, hk⟩ | ⟨f, o, hk⟩ | ⟨f, o, hk⟩ | ⟨f, hx, hk⟩
  · exact ⟨_, encode_of_kKey hk, core_encode_of_kKey hk hw⟩
  · exact ⟨_, encode_of_mKey hk, core_encode_of_mKey hk hw⟩
  · exact ⟨_, encode_of_bKey hk, core_encode_of_bKey hk hw⟩
  · exact ⟨_, encode_of_jKey hk, core_encode_of_jKey hk hw⟩



end Sys2Proof
end

section
/-! PROOFS. Decoding and encoding node words agree (R63 to R68, R75, R80). -/

namespace Sys2Proof

open Decode Machine

/-! ### Targets (R64) -/

theorem fieldsT {n : Nat} (v : BitVec n) (s : BitVec 7) (p : Bool) :
    let w := v ++ s ++ BitVec.ofBool p
    w.getLsbD 8 = v.getLsbD 0 ∧ w.extractLsb' 1 7 = s ∧ w.getLsbD 0 = p := by
  simp [BitVec.getLsbD_append, BitVec.extractLsb'_append_eq_of_le, BitVec.extractLsb'_append_eq_of_add_le,
    -BitVec.getLsbD_eq_getElem]

theorem target_tgtBits (t : Option Tgt) : target (tgtBits t) = some t := by
  cases t with
  | none => rfl
  | some t =>
    obtain ⟨hv, hs, hp⟩ := fieldsT 1#1 t.slot t.port
    show target (1#1 ++ t.slot ++ BitVec.ofBool t.port) = _
    rw [target, hs, hp, hv]
    rfl

theorem tgtBits_of_target {x : BitVec 9} {t : Option Tgt} (h : target x = some t) : tgtBits t = x := by
  unfold target at h
  split at h
  · next hv =>
    obtain rfl := Option.some.inj h
    have e : BitVec.ofBool (x.getLsbD 8) ++ x.extractLsb' 1 7 ++ BitVec.ofBool (x.getLsbD 0) = x := by
      refine (?_ : _ = x.extractLsb' 0 9).trans BitVec.extractLsb'_eq_self
      rw [ofBool_getLsbD, ofBool_getLsbD]
      exact (congrArg (· ++ _) (BitVec.extractLsb'_append_extractLsb'_eq_extractLsb' rfl)).trans
        (BitVec.extractLsb'_append_extractLsb'_eq_extractLsb' rfl)
    rw [hv] at e
    exact e
  · split at h
    · next hz =>
      obtain rfl := Option.some.inj h
      exact (eq_of_beq hz).symm
    · cases h

/-! ### Layouts of node words, there and back -/

section
variable {n : Nat} (cls : BitVec n) (op : BitVec 8)

theorem fieldsNA (z : BitVec n) (f : NAF) :
    let w := z ++ f.cls ++ f.op ++ f.ty ++ BitVec.ofBool f.im ++ BitVec.ofBool f.sw ++ tgtBits f.t0 ++ tgtBits f.t1
      ++ f.mod
    w.extractLsb' 62 n = z ∧ w.extractLsb' 60 2 = f.cls ∧ w.extractLsb' 52 8 = f.op ∧ w.extractLsb' 50 2 = f.ty
    ∧ w.getLsbD 49 = f.im ∧ w.getLsbD 48 = f.sw ∧ w.extractLsb' 39 9 = tgtBits f.t0
    ∧ w.extractLsb' 30 9 = tgtBits f.t1 ∧ w.extractLsb' 0 30 = f.mod := by
  simp [BitVec.getLsbD_append, BitVec.extractLsb'_append_eq_of_le, BitVec.extractLsb'_append_eq_of_add_le,
    -BitVec.getLsbD_eq_getElem]

theorem fieldsND (z : BitVec 4) (f : NDF) :
    let w := cls ++ op ++ z ++ tgtBits f.t0 ++ tgtBits f.t1 ++ f.w ++ f.imm
    w.extractLsb' 60 n = cls ∧ w.extractLsb' 52 8 = op ∧ w.extractLsb' 48 4 = z ∧ w.extractLsb' 39 9 = tgtBits f.t0
    ∧ w.extractLsb' 30 9 = tgtBits f.t1 ∧ w.extractLsb' 24 6 = f.w ∧ w.extractLsb' 0 24 = f.imm := by
  simp [BitVec.extractLsb'_append_eq_of_le, BitVec.extractLsb'_append_eq_of_add_le]

theorem fieldsNM (f : NMF) :
    let w := cls ++ op ++ f.size ++ BitVec.ofBool f.sx ++ f.aop ++ tgtBits f.t0 ++ f.seq ++ f.pred ++ f.succ ++ f.site
    w.extractLsb' 60 n = cls ∧ w.extractLsb' 52 8 = op ∧ w.extractLsb' 49 3 = f.size ∧ w.getLsbD 48 = f.sx
    ∧ w.extractLsb' 44 4 = f.aop ∧ w.extractLsb' 35 9 = tgtBits f.t0 ∧ w.extractLsb' 27 8 = f.seq
    ∧ w.extractLsb' 19 8 = f.pred ∧ w.extractLsb' 11 8 = f.succ ∧ w.extractLsb' 0 11 = f.site := by
  simp [BitVec.getLsbD_append, BitVec.extractLsb'_append_eq_of_le, BitVec.extractLsb'_append_eq_of_add_le,
    -BitVec.getLsbD_eq_getElem]

theorem fieldsNC (z : BitVec 4) (f : NCF) :
    let w := cls ++ op ++ z ++ tgtBits f.t0 ++ tgtBits f.t1 ++ f.mc ++ f.buf ++ f.arg
    w.extractLsb' 60 n = cls ∧ w.extractLsb' 52 8 = op ∧ w.extractLsb' 48 4 = z ∧ w.extractLsb' 39 9 = tgtBits f.t0
    ∧ w.extractLsb' 30 9 = tgtBits f.t1 ∧ w.extractLsb' 24 6 = f.mc ∧ w.extractLsb' 16 8 = f.buf
    ∧ w.extractLsb' 0 16 = f.arg := by
  simp [BitVec.extractLsb'_append_eq_of_le, BitVec.extractLsb'_append_eq_of_add_le]

end

section
variable {m : Nat} (w : BitVec m) (n : Nat)

theorem joinNA :
    w.extractLsb' 62 n ++ w.extractLsb' 60 2 ++ w.extractLsb' 52 8 ++ w.extractLsb' 50 2 ++ BitVec.ofBool (w.getLsbD 49)
      ++ BitVec.ofBool (w.getLsbD 48) ++ w.extractLsb' 39 9 ++ w.extractLsb' 30 9 ++ w.extractLsb' 0 30
      = w.extractLsb' 0 _ := by
  simp only [ofBool_getLsbD, BitVec.extractLsb'_append_extractLsb'_eq_extractLsb', Nat.reduceAdd]

theorem joinND :
    w.extractLsb' 60 n ++ w.extractLsb' 52 8 ++ w.extractLsb' 48 4 ++ w.extractLsb' 39 9 ++ w.extractLsb' 30 9
      ++ w.extractLsb' 24 6 ++ w.extractLsb' 0 24 = w.extractLsb' 0 _ := by
  simp only [BitVec.extractLsb'_append_extractLsb'_eq_extractLsb', Nat.reduceAdd]

theorem joinNM :
    w.extractLsb' 60 n ++ w.extractLsb' 52 8 ++ w.extractLsb' 49 3 ++ BitVec.ofBool (w.getLsbD 48)
      ++ w.extractLsb' 44 4 ++ w.extractLsb' 35 9 ++ w.extractLsb' 27 8 ++ w.extractLsb' 19 8 ++ w.extractLsb' 11 8
      ++ w.extractLsb' 0 11 = w.extractLsb' 0 _ := by
  simp only [ofBool_getLsbD, BitVec.extractLsb'_append_extractLsb'_eq_extractLsb', Nat.reduceAdd]

theorem joinNC :
    w.extractLsb' 60 n ++ w.extractLsb' 52 8 ++ w.extractLsb' 48 4 ++ w.extractLsb' 39 9 ++ w.extractLsb' 30 9
      ++ w.extractLsb' 24 6 ++ w.extractLsb' 16 8 ++ w.extractLsb' 0 16 = w.extractLsb' 0 _ := by
  simp only [BitVec.extractLsb'_append_extractLsb'_eq_extractLsb', Nat.reduceAdd]

end

/-! ### The opcode map of nodes -/

section
variable {op : BitVec 8} {i : Instr}

section
variable {f : NDF}

theorem ndRow_key (h : ndRow op f = some i) : ndKey i = some (f, op) := by
  unfold ndRow at h
  split at h
  case h_16 => cases h
  all_goals
    next ho =>
      rw [eq_ofNat_of_toNat ho]
      obtain rfl := Option.some.inj h
      rfl

end

section
variable {f : NMF}

theorem nmRow_key (h : nmRow op f = some i) : nmKey i = some (f, op) := by
  unfold nmRow at h
  split at h
  case h_8 => cases h
  all_goals
    next ho =>
      rw [eq_ofNat_of_toNat ho]
      obtain rfl := Option.some.inj h
      rfl

end

section
variable {f : NCF}

theorem ncRow_key (h : ncRow op f = some i) : ncKey i = some (f, op) := by
  unfold ncRow at h
  split at h
  case h_8 => cases h
  all_goals
    next ho =>
      rw [eq_ofNat_of_toNat ho]
      obtain rfl := Option.some.inj h
      rfl

end

/-! What a key tells of its node. -/

theorem of_ndKey {f : NDF} (h : ndKey i = some (f, op)) :
    encode i = some (packND op f) ∧ ndRow op f = some i ∧ i.isNode = true := by
  cases i with
  | steer | const | lenter | lnext | lexit | calln | retn | ixrd | joinc | sink | sendp | eqpn | fend | errt | gate =>
    cases h
    exact ⟨rfl, rfl, rfl⟩
  | _ => cases h

theorem of_nmKey {f : NMF} (h : nmKey i = some (f, op)) :
    encode i = some (packNM op f) ∧ nmRow op f = some i ∧ i.isNode = true := by
  cases i with
  | cld | cst | catom | mnop | fld | fst | cfence =>
    cases h
    exact ⟨rfl, rfl, rfl⟩
  | _ => cases h

theorem of_ncKey {f : NCF} (h : ncKey i = some (f, op)) :
    encode i = some (packNC op f) ∧ ncRow op f = some i ∧ i.isNode = true := by
  cases i with
  | mcld | mcst | mcenq | mcdeq | agen | mxj | mxout =>
    cases h
    exact ⟨rfl, rfl, rfl⟩
  | _ => cases h

theorem key_of_isNode (h : i.isNode = true) : (∃ f, i = .arithNodeFire f) ∨ (∃ f o, ndKey i = some (f, o))
    ∨ (∃ f o, nmKey i = some (f, o)) ∨ ∃ f o, ncKey i = some (f, o) := by
  cases i with
  | arithNodeFire n => exact .inl ⟨n, rfl⟩
  | steer | const | lenter | lnext | lexit | calln | retn | ixrd | joinc | sink | sendp | eqpn | fend | errt | gate => exact .inr (.inl ⟨_, _, rfl⟩)
  | cld | cst | catom | mnop | fld | fst | cfence => exact .inr (.inr (.inl ⟨_, _, rfl⟩))
  | mcld | mcst | mcenq | mcdeq | agen | mxj | mxout => exact .inr (.inr (.inr ⟨_, _, rfl⟩))
  | _ => cases h

end

/-! ### Round trips of node words -/

/-- R65, R80: the class of a well-formed arithmetic node is 0, 1 or 2. -/
theorem naf_cls_ult {f : NAF} (h : (Instr.arithNodeFire f).wf = true) : (0#2 ++ f.cls).ult 3 = true := by
  have hc : nafCode f = none := by simpa [Instr.wf, Instr.isCore, kform, mform, bform, jform, Instr.isNode, nodeCode] using h
  have h3 : f.cls ≠ 3 := fun e => by simp [nafCode, e] at hc
  revert h3
  generalize f.cls = c
  revert c
  decide

theorem node_packNA {f : NAF} (h : (Instr.arithNodeFire f).wf = true) :
    Decode.node (packNA f) = .ok (.arithNodeFire f) := by
  obtain ⟨hz, hcls, hop, hty, him, hsw, ht0, ht1, hmod⟩ := fieldsNA (0 : BitVec 2) f
  have hc : (packNA f).extractLsb' 60 4 = 0#2 ++ f.cls := by
    refine (BitVec.extractLsb'_append_extractLsb'_eq_extractLsb' (len₂ := 2) (len₁ := 2) rfl).symm.trans ?_
    exact congrArg₂ _ hz hcls
  have e : Decode.node (packNA f) = checked .unassignedOp (some (.arithNodeFire f)) := by
    unfold Decode.node
    simp only [hc, naf_cls_ult h, if_true]
    unfold packNA
    rw [hcls, hop, hty, him, hsw, ht0, ht1, hmod, target_tgtBits, target_tgtBits]
  rw [e, checked_ok]
  exact ⟨rfl, h⟩

theorem node_packND {i : Instr} {f : NDF} {o : BitVec 8} (hr : ndRow o f = some i) (hw : i.wf = true) :
    Decode.node (packND o f) = .ok i := by
  obtain ⟨hc, ho, hz, ht0, ht1, hwd, himm⟩ := fieldsND (12 : BitVec 4) o 0 f
  have e : Decode.node (packND o f) = checked .unassignedOp (ndRow o f) := by
    unfold Decode.node packND
    rw [hc, ho, hz, ht0, ht1, hwd, himm, target_tgtBits, target_tgtBits]
    rfl
  rw [e, checked_ok]
  exact ⟨hr, hw⟩

theorem node_packNM {i : Instr} {f : NMF} {o : BitVec 8} (hr : nmRow o f = some i) (hw : i.wf = true) :
    Decode.node (packNM o f) = .ok i := by
  obtain ⟨hc, ho, hsize, hsx, haop, ht0, hseq, hpred, hsucc, hsite⟩ := fieldsNM (13 : BitVec 4) o f
  have e : Decode.node (packNM o f) = checked .unassignedOp (nmRow o f) := by
    unfold Decode.node packNM
    rw [hc, ho, hsize, hsx, haop, ht0, hseq, hpred, hsucc, hsite, target_tgtBits]
    rfl
  rw [e, checked_ok]
  exact ⟨hr, hw⟩

theorem node_packNC {i : Instr} {f : NCF} {o : BitVec 8} (hr : ncRow o f = some i) (hw : i.wf = true) :
    Decode.node (packNC o f) = .ok i := by
  obtain ⟨hc, ho, hz, ht0, ht1, hmc, hbuf, harg⟩ := fieldsNC (14 : BitVec 4) o 0 f
  have e : Decode.node (packNC o f) = checked .unassignedOp (ncRow o f) := by
    unfold Decode.node packNC
    rw [hc, ho, hz, ht0, ht1, hmc, hbuf, harg, target_tgtBits, target_tgtBits]
    rfl
  rw [e, checked_ok]
  exact ⟨hr, hw⟩

/-- Classes 0 to 2 have 0 in their upper two bits. -/
theorem upper_zero_of_ult_three {w : BitVec 64} (h : (w.extractLsb' 60 4).ult 3 = true) : w.extractLsb' 62 2 = 0 := by
  have hx : ∀ a b : BitVec 2, (a ++ b).ult 3 = true → a = 0 := by decide
  refine hx _ (w.extractLsb' 60 2) ?_
  have e : w.extractLsb' 62 2 ++ w.extractLsb' 60 2 = w.extractLsb' 60 4 :=
    BitVec.extractLsb'_append_extractLsb'_eq_extractLsb' rfl
  rwa [e]

theorem encode_of_node_ok {w : BitVec 64} {i : Instr} (h : Decode.node w = .ok i) :
    encode i = some w ∧ i.wf = true ∧ i.isNode = true := by
  unfold Decode.node at h
  dsimp only at h
  split at h
  · next hc =>
    split at h
    case h_2 => cases h
    next t0 t1 ht0 ht1 =>
      obtain ⟨hr, hw⟩ := checked_ok.mp h
      obtain rfl := Option.some.inj hr
      have e := (joinNA w 2).trans BitVec.extractLsb'_eq_self
      rw [upper_zero_of_ult_three hc, ← tgtBits_of_target ht0, ← tgtBits_of_target ht1] at e
      exact ⟨congrArg some e, hw, rfl⟩
  split at h
  · next hc =>
    split at h
    case h_2 => cases h
    next t0 ht0 =>
      obtain ⟨hr, hw⟩ := checked_ok.mp h
      obtain ⟨henc, -, hn⟩ := of_nmKey (nmRow_key hr)
      have e := (joinNM w 4).trans BitVec.extractLsb'_eq_self
      rw [eq_of_beq hc, ← tgtBits_of_target ht0] at e
      exact ⟨henc.trans (congrArg some e), hw, hn⟩
  split at h
  case isFalse => cases h
  split at h
  case isFalse => cases h
  next hcls hz =>
    split at h
    case h_2 => cases h
    next t0 t1 ht0 ht1 =>
      split at h
      · next hc =>
        obtain ⟨hr, hw⟩ := checked_ok.mp h
        obtain ⟨henc, -, hn⟩ := of_ndKey (ndRow_key hr)
        have e := (joinND w 4).trans BitVec.extractLsb'_eq_self
        rw [eq_of_beq hc, eq_of_beq hz, ← tgtBits_of_target ht0, ← tgtBits_of_target ht1] at e
        exact ⟨henc.trans (congrArg some e), hw, hn⟩
      · next hc =>
        obtain ⟨hr, hw⟩ := checked_ok.mp h
        obtain ⟨henc, -, hn⟩ := of_ncKey (ncRow_key hr)
        have h14 : w.extractLsb' 60 4 = 14 :=
          eq_of_beq ((Bool.or_eq_true_iff.mp hcls).resolve_left hc)
        have e := (joinNC w 4).trans BitVec.extractLsb'_eq_self
        rw [h14, eq_of_beq hz, ← tgtBits_of_target ht0, ← tgtBits_of_target ht1] at e
        exact ⟨henc.trans (congrArg some e), hw, hn⟩

/-- Settles O57: as O56, with the targets of R64 undone too. -/
theorem nodeRoundTrip : Obligations.NodeRoundTrip := by
  refine ⟨fun i hi hw => ?_, fun w i h => encode_of_node_ok h⟩
  rcases key_of_isNode hi with ⟨f, rfl⟩ | ⟨f, o, hk⟩ | ⟨f, o, hk⟩ | ⟨f, o, hk⟩
  · exact ⟨_, rfl, node_packNA hw⟩
  · obtain ⟨he, hr, -⟩ := of_ndKey hk
    exact ⟨_, he, node_packND hr hw⟩
  · obtain ⟨he, hr, -⟩ := of_nmKey hk
    exact ⟨_, he, node_packNM hr hw⟩
  · obtain ⟨he, hr, -⟩ := of_ncKey hk
    exact ⟨_, he, node_packNC hr hw⟩

end Sys2Proof
end

section
/-! PROOFS. How every core word that completes leaves the machine (R84, R189, R371, R420): the undo log, the counters of
the gang, and the issuing wave, one after the other. -/

namespace Sys2Proof.Machine

theorem modGang_eq (s : State) (g : GangId) (f : Gang → Gang) :
    s.modGang g f = { s with gangs := (s.modGang g f).gangs } := by
  unfold State.modGang
  split <;> rfl

/-- R420: only the waves of a debug crew keep a log. -/
theorem undoRegs_of_not_debug (i : Instr) {k : Ctx} (b a : State) (h : k.c.debug = false) : undoRegs i k b a = a := by
  rw [undoRegs, h]
  rfl

/-! ### Counting (R371) -/

/-- The active elements are those of the waves of the form. -/
theorem Ctx.active_length (k : Ctx) (s : State) (pm : BitVec 3) (pn : Bool) :
    (k.active s pm pn).length = ((k.states s).map (fun q => popc (k.act pm pn q.1 q.2))).sum := by
  simp only [Ctx.active, List.length_flatMap, List.length_map, popc]

theorem countIssue_eq (i : Instr) (k : Ctx) (b s : State) :
    countIssue i k b s = { s with gangs := (countIssue i k b s).gangs } := modGang_eq s _ _

theorem countIssue_gang? (i : Instr) (k : Ctx) (b s : State) (g : GangId) :
    (countIssue i k b s).gang? g = if g = k.gid then (s.gang? g).map (fun x =>
        { x with issue := sat64 (x.issue + k.slots i)
                 laneop := sat64 (x.laneop + (k.active b (predOf i).1 (predOf i).2).length) })
      else s.gang? g := by
  rw [countIssue, State.gang?_modGang, Ctx.active_length]
  simp only [eq_comm]

/-! ### The issuing wave (R189) -/

theorem settle_eq (k : Ctx) (s : State) : settle k s = { s with waves := (settle k s).waves } := modWave_eq s _ _

theorem bumpPc_eq (k : Ctx) (s : State) : bumpPc k s = { s with waves := (bumpPc k s).waves } := modWave_eq s _ _

/-- A wave that has moved itself goes on from where it is. -/
theorem advance_zero (k : Ctx) (s : State) : s.modWave k.w (fun x => { x with pc := x.pc + 0 }) = s :=
  modWave_id fun x => by simp

/-- The waves after the end of a word, whatever it has logged and counted. -/
theorem settle_advance_wave? (k : Ctx) (s : State) (adv : Word) (v : WaveId) :
    (settle k (s.modWave k.w (fun x => { x with pc := x.pc + adv }))).wave? v
      = (s.wave? v).map (fun x => endWave k s.now adv v x x.undo) := by
  rw [settle, State.wave?_modWave, State.wave?_modWave, modWave_eq]
  by_cases h : k.w = v
  · subst h
    cases s.wave? k.w <;> simp [endWave]
  · cases s.wave? v <;> simp [endWave, h, Ne.symm h]

/-- The undo log, the counters and the issuing wave, in this order. -/
theorem wordLeaves_of_end (i : Instr) {k : Ctx} (s E : State) (adv : Word) (h : k.issues = true) :
    WordLeaves i k s E
      (settle k ((countIssue i k s (undoRegs i k s E)).modWave k.w (fun x => { x with pc := x.pc + adv }))) adv := by
  have hlog := undoRegs_log i k s E h
  have hnd := undoRegs_of_not_debug i (k := k) s E
  generalize undoRegs i k s E = u at hlog hnd ⊢
  obtain ⟨hframe, hout, hin, hmem⟩ := hlog
  have hnow : u.now = E.now := by rw [hframe]
  have hgangs : ∀ g, u.gang? g = E.gang? g := fun g => by rw [hframe]; rfl
  have hwave (v : WaveId) := settle_advance_wave? k (countIssue i k s u) adv v
  have hcount : ∀ v, (countIssue i k s u).wave? v = u.wave? v := fun v => by rw [countIssue_eq]; rfl
  have hcnow : (countIssue i k s u).now = E.now := by rw [countIssue_eq]; exact hnow
  have hend : settle k ((countIssue i k s u).modWave k.w (fun x => { x with pc := x.pc + adv }))
      = { u with waves := (settle k ((countIssue i k s u).modWave k.w (fun x => { x with pc := x.pc + adv }))).waves
                 gangs := (countIssue i k s u).gangs } := by
    have hc := countIssue_eq i k s u
    generalize countIssue i k s u = c at hc ⊢
    have hm := modWave_eq c k.w (fun x => { x with pc := x.pc + adv })
    generalize c.modWave k.w (fun x => { x with pc := x.pc + adv }) = m at hm ⊢
    have ht := settle_eq k m
    generalize settle k m = t at ht ⊢
    rw [ht, hm, hc]
  generalize settle k ((countIssue i k s u).modWave k.w (fun x => { x with pc := x.pc + adv })) = t at hwave hend ⊢
  refine ⟨?_, fun v hv => ?_, fun v x hv hx => ?_, fun g => ?_, fun hd => ?_, fun a ha => ?_⟩
  · rw [hend, hframe]
  · have hne : v ≠ k.w := fun e => hv (e ▸ Ctx.mem_waves h)
    rw [hwave, hcount, hout v hv]
    cases E.wave? v <;> simp [endWave, hne]
  · obtain ⟨n, hn⟩ := hin v x hx
    refine ⟨n, ?_, fun hd => ?_⟩
    · rw [hwave, hcount, hn, hcnow]
      rfl
    · rw [hnd hd, hx] at hn
      exact (congrArg Wave.undo (Option.some.inj hn)).symm
  · have hg : t.gang? g = (countIssue i k s u).gang? g := by rw [hend]; rfl
    rw [hg, countIssue_gang?, hgangs]
  · rw [hend, hnd hd]
  · rw [hend]
    exact hmem a ha

/-- Settles O1: a word that completes by moving on and one that has moved itself end alike. -/
theorem wordEnd : Obligations.WordEnd := by
  intro i k s E h
  refine ⟨wordLeaves_of_end i s E 8 h, ?_⟩
  have e := wordLeaves_of_end i s E 0 h
  rwa [advance_zero] at e

end Sys2Proof.Machine
end

section
/-! PROOFS. The count and field functions bit by bit, the clamps of ADDS and SUBS, and the parts of a packed word
(R90, R93, R97, R98). -/

namespace Sys2Proof.Machine

/-! ### Counts (R97) -/

theorem iClz_of_ne_zero {w a : Nat} (ha : a < 2 ^ w) (h : a ≠ 0) (b c : Nat) :
    iClz w a b c < w ∧ 2 ^ (w - 1 - iClz w a b c) ≤ a ∧ a < 2 ^ (w - iClz w a b c) := by
  have hlog : a.log2 < w := (Nat.log2_lt h).mpr ha
  have hclz : iClz w a b c = w - 1 - a.log2 := if_neg h
  have hlo : w - 1 - (w - 1 - a.log2) = a.log2 := by omega
  have hhi : w - (w - 1 - a.log2) = a.log2 + 1 := by omega
  rw [hclz, hlo, hhi]
  exact ⟨by omega, Nat.log2_self_le h, Nat.lt_log2_self⟩

theorem iPopc_eq (w a b c : Nat) : iPopc w a b c = ((List.range w).filter (fun i => a.testBit i)).length := by
  simp only [iPopc, bit_eq_testBit]

/-! ### Fields (R98) -/

theorem bits_pos (b : Nat) : bits b 7 0 = b % 256 := by simp [bits]

theorem bits_len (b : Nat) : bits b 15 8 = b / 256 % 256 := by simp [bits]

theorem testBit_field (a pos n i : Nat) :
    (a / 2 ^ pos % 2 ^ n).testBit i = (decide (i < n) && a.testBit (pos + i)) := by
  rw [Nat.testBit_mod_two_pow, Nat.testBit_div_two_pow, Nat.add_comm]

theorem iBfx_testBit (w a b c i : Nat) :
    (iBfx false w a b c).testBit i
      = (decide (i < fieldLen w (b % 256) (b / 256 % 256)) && a.testBit (b % 256 + i)) := by
  simp only [iBfx, bits_pos, bits_len]
  split
  · next h => simp [h]
  · exact testBit_field ..

/-- The sign bit of a field of n bits is repeated above it. -/
theorem testBit_wrap_sgn {w n v i : Nat} (hn : n ≠ 0) (hv : v < 2 ^ n) (hi : i < w) :
    (wrap w (sgn n v)).testBit i = v.testBit (min i (n - 1)) := by
  have hs : sgn n v = (BitVec.ofNat n v).toInt := by
    conv_lhs => rw [← Nat.mod_eq_of_lt hv, ← BitVec.toNat_ofNat, sgn_toNat (by omega)]
  have hbit (j : Nat) (hj : j < n) : (BitVec.ofNat n v).getLsbD j = v.testBit j := by
    rw [BitVec.getLsbD_ofNat, decide_eq_true hj, Bool.true_and]
  have e : (wrap w (sgn n v)).testBit i = ((BitVec.ofNat n v).signExtend w).getLsbD i := by
    rw [hs, wrap_eq_toNat_ofInt, BitVec.testBit_toNat, BitVec.signExtend]
  rw [e, BitVec.getLsbD_signExtend, decide_eq_true hi, Bool.true_and]
  split
  · next h => rw [hbit i h, Nat.min_eq_left (by omega)]
  · next h => rw [BitVec.msb_eq_getLsbD_last, hbit _ (by omega), Nat.min_eq_right (by omega)]

theorem iBfx_signed_testBit {w i : Nat} (a b c : Nat) (hi : i < w) :
    (iBfx true w a b c).testBit i
      = if fieldLen w (b % 256) (b / 256 % 256) = 0 then false
        else a.testBit (b % 256 + min i (fieldLen w (b % 256) (b / 256 % 256) - 1)) := by
  simp only [iBfx, bits_pos, bits_len, if_true]
  split
  · exact Nat.zero_testBit i
  · next h =>
    rw [testBit_wrap_sgn h (Nat.mod_lt _ (Nat.two_pow_pos _)) hi, testBit_field, decide_eq_true (by omega), Bool.true_and]

theorem iBfi_testBit (w a b old i : Nat) :
    (iBfi w a b old).testBit i
      = if b % 256 ≤ i ∧ i < b % 256 + fieldLen w (b % 256) (b / 256 % 256) then a.testBit (i - b % 256)
        else old.testBit i := by
  simp only [iBfi, bits_pos, bits_len]
  generalize b % 256 = pos
  generalize fieldLen w pos (b / 256 % 256) = n
  split
  · next h => rw [if_neg (by omega)]
  · have hlow : a % 2 ^ n * 2 ^ pos + old % 2 ^ pos < 2 ^ (pos + n) := by
      have := Nat.mul_le_mul_right (2 ^ pos) (Nat.succ_le_of_lt (Nat.mod_lt a (Nat.two_pow_pos n)))
      have := Nat.mod_lt old (Nat.two_pow_pos pos)
      rw [Nat.pow_add, Nat.mul_comm (2 ^ pos)]
      rw [Nat.succ_mul] at *
      omega
    rw [Nat.add_assoc, Nat.mul_comm (old / _), Nat.testBit_two_pow_mul_add _ hlow, Nat.mul_comm (a % _),
      Nat.testBit_two_pow_mul_add _ (Nat.mod_lt _ (Nat.two_pow_pos _)), Nat.testBit_mod_two_pow, Nat.testBit_mod_two_pow,
      Nat.testBit_div_two_pow]
    by_cases h1 : i < pos + n
    · by_cases h2 : i < pos
      · simp [h1, h2, Nat.not_le.mpr h2]
      · have h3 : i - pos < n := by omega
        simp [h1, h2, h3, Nat.not_lt.mp h2]
    · have h2 : i - (pos + n) + (pos + n) = i := by omega
      simp [h1, h2]

/-- R97, R98: the count and field functions, bit by bit. -/
theorem fieldBits : Claims.FieldBits := fun w _ a b old ha _ =>
  ⟨fun h => if_pos h, fun h => iClz_of_ne_zero ha h b old, iPopc_eq w a b old, fun i => iBfx_testBit w a b old i,
    fun _ hi => iBfx_signed_testBit a b old hi, fun i => iBfi_testBit w a b old i⟩

/-! ### Clamps (R93) -/

theorem iClamp_unsigned {w : Nat} (x : Int) : (iClamp true w x : Int) = max 0 (min (2 ^ w - 1) x) := by
  have hp : (0 : Int) < 2 ^ w := by positivity
  have hc : ((2 ^ w : Nat) : Int) = 2 ^ w := by push_cast; rfl
  simp only [iClamp, wrap, if_true, hc]
  rw [Int.emod_eq_of_lt (by omega) (by omega), Int.toNat_of_nonneg (by omega)]

theorem iClamp_signed {w : Nat} (x : Int) :
    iClamp false w x = (BitVec.ofInt w (max (-(2 ^ (w - 1) : Int)) (min (2 ^ (w - 1) - 1) x))).toNat := by
  simp only [iClamp, wrap_eq_toNat_ofInt, Bool.false_eq_true, if_false, Nat.cast_pow, Nat.cast_ofNat]

/-- R93: ADDS and SUBS clamp. -/
theorem saturation : Claims.Saturation := by
  intro w hw a b c
  have ha : (a.toNat : Int) < 2 ^ w := by exact_mod_cast a.isLt
  have hp : 0 < 2 ^ w := Nat.two_pow_pos w
  have hc : ((2 ^ w : Nat) : Int) = 2 ^ w := by push_cast; rfl
  refine ⟨?_, ?_, ?_, ?_⟩
  · have h := iClamp_unsigned (w := w) ((a.toNat : Int) + b.toNat)
    show iClamp true w ((a.toNat : Int) + b.toNat) = _
    omega
  · have h := iClamp_unsigned (w := w) ((a.toNat : Int) - b.toNat)
    show iClamp true w ((a.toNat : Int) - b.toNat) = _
    omega
  · rw [iAdds, iClamp_signed, sgn_toNat hw, sgn_toNat hw]
    rfl
  · rw [iSubs, iClamp_signed, sgn_toNat hw, sgn_toNat hw]
    rfl

/-! ### Parts (R90) -/

/-- Fields that lie one above the other: two halves of 16 bits, or four bytes. -/
theorem part_halves (x y : Nat) :
    let v := x % 2 ^ 16 * 2 ^ (16 * 0) + y % 2 ^ 16 * 2 ^ (16 * 1)
    part 16 0 v = x % 2 ^ 16 ∧ part 16 1 v = y % 2 ^ 16 ∧ v < 2 ^ (16 * 2) := by
  simp only [part]
  omega

theorem part_bytes (x y z u : Nat) :
    let v := x % 2 ^ 8 * 2 ^ (8 * 0) + y % 2 ^ 8 * 2 ^ (8 * 1) + z % 2 ^ 8 * 2 ^ (8 * 2) + u % 2 ^ 8 * 2 ^ (8 * 3)
    part 8 0 v = x % 2 ^ 8 ∧ part 8 1 v = y % 2 ^ 8 ∧ part 8 2 v = z % 2 ^ 8 ∧ part 8 3 v = u % 2 ^ 8
    ∧ v < 2 ^ (8 * 4) := by
  simp only [part]
  omega

theorem part_whole (w x : Nat) :
    let v := x % 2 ^ w * 2 ^ (w * 0)
    part w 0 v = x % 2 ^ w ∧ v < 2 ^ (w * 1) := by
  simp [part, Nat.mod_lt]

/-- R90: a packed word applies its function to each part alone. -/
theorem partsApart : Claims.PartsApart := by
  intro ty F a b c p hp
  have hty : ty = 0 ∨ ty = 1 ∨ ty = 2 ∨ ty = 3 := by
    clear hp
    revert ty
    decide
  rcases hty with rfl | rfl | rfl | rfl
  · obtain rfl : p = 0 := Nat.lt_one_iff.mp hp
    exact part_whole 32 _
  · obtain rfl : p = 0 := Nat.lt_one_iff.mp hp
    exact part_whole 64 _
  · obtain ⟨h0, h1, hlt⟩ := part_halves (F 16 (part 16 0 a) (part 16 0 b) (part 16 0 c))
      (F 16 (part 16 1 a) (part 16 1 b) (part 16 1 c))
    match p, hp with
    | 0, _ => exact ⟨h0, hlt⟩
    | 1, _ => exact ⟨h1, hlt⟩
  · obtain ⟨h0, h1, h2, h3, hlt⟩ := part_bytes (F 8 (part 8 0 a) (part 8 0 b) (part 8 0 c))
      (F 8 (part 8 1 a) (part 8 1 b) (part 8 1 c)) (F 8 (part 8 2 a) (part 8 2 b) (part 8 2 c))
      (F 8 (part 8 3 a) (part 8 3 b) (part 8 3 c))
    match p, hp with
    | 0, _ => exact ⟨h0, hlt⟩
    | 1, _ => exact ⟨h1, hlt⟩
    | 2, _ => exact ⟨h2, hlt⟩
    | 3, _ => exact ⟨h3, hlt⟩

/-- Settles O2: each function is read bit by bit from the division that takes or puts its field. -/
theorem fieldFunctions : Obligations.FieldFunctions := ⟨fieldBits, saturation, partsApart⟩

end Sys2Proof.Machine
end

section
/-! PROOFS. BFI, LEA, SEL, CMP, MOVI, MOVSV and DOT4 complete with their results (R98 to R104): one rule for a word that
writes containers lane by lane, one for a word that writes a mask, and one for the uniform form. -/

namespace Sys2Proof.Machine

/-! ### Bodies that change the issuing wave, or every active lane -/

/-- R88: the uniform form changes the issuing wave as it stands. -/
theorem onWave_onIssuer {k : Ctx} {s : State} (g : Wave → Wave) (hw : s.wave? k.w = some k.wv) :
    OnIssuer k s (onWave k s g) (g k.wv) := State.modWave_some g hw

theorem each_foldLanes (k : Ctx) (s : State) (act : WaveId → Wave → Word) (g : WaveId → Wave → Nat → Wave → Wave)
    {R : WaveId → Wave → Wave → Prop} (h : ∀ v x, R v x (foldLanes (act v x) (g v x) x)) :
    OnWaves k s (k.each s (fun v x => foldLanes (act v x) (g v x) x)) R :=
  (k.each_onWaves s _).mono fun v x _ hy => hy ▸ h v x

/-- R90: a word writes one container per active lane. -/
theorem onLanes_wrT (f : KF) (k : Ctx) (s : State) (ty : BitVec 2) (D : Nat) (val : Wave → Nat → Nat) :
    OnWaves k s (onLanes f k s (fun x l a => a.wrT ty D l (val x l)))
      (fun v x y => LanesAre (k.on f v x) ty D (val x) x y) :=
  each_foldLanes k s _ (fun _ x l a => a.wrT ty D l (val x l)) fun _ x => foldLanes_wrT _ ty D (val x) x

/-- A register is a container of 32 bits. -/
theorem Wave.wrV_eq_wrT (x : Wave) (r l : Nat) (a : Word) : x.wrV r l a = x.wrT 0 r l a.toNat := by
  rw [Wave.wrT, if_neg (by decide), BitVec.ofNat_toNat, BitVec.setWidth_eq]

/-- A pair is a container of 64 bits. -/
theorem Wave.wrD_eq_wrT (x : Wave) (r l : Nat) (a : Dword) : x.wrD r l a = x.wrT 1 r l a.toNat := by
  rw [Wave.wrT, if_pos (by decide), BitVec.ofNat_toNat, BitVec.setWidth_eq]

/-- R109: no flags leave FCSR alone. -/
@[simp] theorem Wave.orFlags_zero (x : Wave) : x.orFlags 0 = x := by simp [Wave.orFlags]

/-- R102: the rows of MOVI write the active lanes under HX. -/
theorem onLanesJ_wrT (f : JF) (k : Ctx) (s : State) (ty : BitVec 2) (D n : Nat) :
    OnWaves k s (onLanesJ f k s (fun l a => a.wrT ty D l n))
      (fun v x y => LanesAre (k.act f.pm f.pn v x) ty D (fun _ => n) x y) :=
  each_foldLanes k s _ (fun _ _ l a => a.wrT ty D l n) fun _ x => foldLanes_wrT _ ty D (fun _ => n) x

theorem ofNat_wrap (w : Nat) (x : Int) : BitVec.ofNat w (wrap w x) = BitVec.ofInt w x := by
  rw [wrap_eq_toNat_ofInt, BitVec.ofNat_toNat, BitVec.setWidth_eq]

/-! ### The words -/

section
variable (f : KF) {k : Ctx} {s : State}

theorem bfiOp_uni (hu : KF.uni f = true) (hw : s.wave? k.w = some k.wv) :
    OnIssuer k s (bfiOp f k s) (k.wv.wrS (KF.D f) (BitVec.ofNat 64 (iBfi (partW f.ty) (sOperand k.wv f.ty (KF.A f))
      (opB f k.wv k.wv 0) (sOperand k.wv f.ty (KF.D f))))) := by
  rw [bfiOp, if_pos hu]
  exact onWave_onIssuer _ hw

theorem leaOp_uni (hu : KF.uni f = true) (hw : s.wave? k.w = some k.wv) :
    OnIssuer k s (leaOp f k s) (k.wv.wrS (KF.D f) (BitVec.ofInt 64 ((k.wv.rdS (KF.A f)).toNat
      + sgn (partW f.ty) (opB f k.wv k.wv 0) * 2 ^ fld f.c 2 0))) := by
  rw [leaOp, if_pos hu]
  refine (onWave_onIssuer _ hw).trans ?_
  rw [iLea, ofNat_wrap, Nat.cast_pow, Nat.cast_ofNat]

theorem leaOp_lanes (hu : ¬ KF.uni f = true) :
    OnWaves k s (leaOp f k s) (fun v x y => LanesAre (k.on f v x) 1 (KF.D f)
      (fun l => (BitVec.ofInt 64 ((x.rdD (KF.A f) l).toNat
        + sgn (partW f.ty) (opB f k.wv x l) * 2 ^ fld f.c 2 0)).toNat) x y) := by
  simp only [leaOp, if_neg hu, iLea, ofNat_wrap, Nat.cast_pow, Nat.cast_ofNat, Wave.wrD_eq_wrT]
  exact onLanes_wrT f k s 1 (KF.D f) _

theorem cmpIntOp_uni (hu : KF.uni f = true) (hw : s.wave? k.w = some k.wv) :
    OnIssuer k s (cmpIntOp f k s) (k.wv.wrS (KF.D f)
      (if iCmp (fld f.c 3 0) (partW f.ty) (sOperand k.wv f.ty (KF.A f)) (opB f k.wv k.wv 0) then 1 else 0)) := by
  simp only [cmpIntOp, cmpOp, if_pos hu, Wave.orFlags_zero]
  exact onWave_onIssuer _ hw

theorem cmpIntOp_lanes (hu : ¬ KF.uni f = true) :
    OnWaves k s (cmpIntOp f k s) (fun v x y => MaskIs (k.on f v x) (KF.D f)
      (fun l => some (iCmp (fld f.c 3 0) (partW f.ty) (Claims.aOf f x l) (opB f k.wv x l))) x y) := by
  simp only [cmpIntOp, cmpOp, if_neg hu, onLanesFl, Wave.orFlags_zero]
  exact each_foldLanes k s _ _ fun v x => foldLanes_mask (k.on f v x) (KF.D f) (fun l => some _) x

theorem movsvOp_uni {n : BitVec 8} (hb : f.b = .v n) (hu : KF.uni f = true) (hw : s.wave? k.w = some k.wv) :
    OnIssuer k s (movsvOp f k s)
      (k.wv.wrS (KF.D f) (BitVec.ofNat 64 (sysValue k n.toNat 0 % 2 ^ partW f.ty))) := by
  simp only [movsvOp, hb, if_pos hu]
  exact onWave_onIssuer _ hw

theorem movsvOp_lanes {n : BitVec 8} (hb : f.b = .v n) (hu : ¬ KF.uni f = true) :
    OnWaves k s (movsvOp f k s) (fun v x y => LanesAre (k.on f v x) f.ty (KF.D f)
      (fun l => sysValue k n.toNat (k.elemOf v l) % 2 ^ partW f.ty) x y) := by
  simp only [movsvOp, hb, if_neg hu]
  exact each_foldLanes k s _ _ fun v x => foldLanes_wrT (k.on f v x) f.ty (KF.D f) _ x

theorem dot4Op_lanes :
    OnWaves k s (dot4Op f k s) (fun v x y => LanesAre (k.on f v x) 0 (KF.D f)
      (fun l => iDot4 (KF.xbit f 0) (KF.xbit f 1) (x.rdV (KF.A f) l).toNat (opB f k.wv x l)
        (x.rdV f.c.toNat l).toNat) x y) :=
  onLanes_wrT f k s 0 (KF.D f) _

end

/-- Settles O4: the body of each word is a walk over the active lanes, or one write of the issuing wave. -/
theorem fieldWords : Obligations.FieldWords := by
  refine ⟨fun f s k h => ⟨_, completes_of_done rfl h rfl, ?_⟩, fun f s k h => ⟨_, completes_of_done rfl h rfl, ?_⟩,
    fun f s k h => ⟨_, completes_of_done rfl h rfl, onLanes_wrT f k _ f.ty (KF.D f) _⟩,
    fun f s k h => ⟨_, completes_of_done rfl h rfl, ?_⟩, fun f s k h => ⟨_, completes_of_done rfl h rfl, ?_⟩,
    fun f s k h => ⟨_, completes_of_done rfl h rfl, ?_⟩, fun f s k h => ⟨_, completes_of_done rfl h rfl, ?_⟩,
    fun f n s k h hb => ⟨_, completes_of_done rfl h rfl, ?_⟩,
    fun f s k h => ⟨_, completes_of_done rfl h rfl, dot4Op_lanes f⟩⟩
  · split
    · next hu => exact bfiOp_uni f hu h.wave?_unfocused
    · next hu =>
      rw [bfiOp, if_neg hu]
      exact onLanes_wrT f k _ f.ty (KF.D f) _
  · split
    · next hu => exact leaOp_uni f hu h.wave?_unfocused
    · next hu => exact leaOp_lanes f hu
  · split
    · next hu => exact cmpIntOp_uni f hu h.wave?_unfocused
    · next hu => exact cmpIntOp_lanes f hu
  · simp only [Wave.wrV_eq_wrT]
    exact onLanesJ_wrT f k _ 0 f.d.toNat f.imm.toNat
  · simp only [Wave.wrV_eq_wrT]
    exact onLanesJ_wrT f k _ 0 (f.d.toNat + 1) f.imm.toNat
  · simp only [Wave.wrD_eq_wrT]
    exact onLanesJ_wrT f k _ 1 f.d.toNat _
  · split
    · next hu => exact movsvOp_uni f hb hu h.wave?_unfocused
    · next hu => exact movsvOp_lanes f hb hu

end Sys2Proof.Machine
end

section
/-! PROOFS. The native floating-point words complete with their results and flags (R109 to R121): a walk that writes a
result and joins flags is one that writes the result, and one that joins the flags. -/

namespace Sys2Proof.Machine

/-! ### Flags (R109, R110) -/

theorem Wave.orFlags_getLsbD (x : Wave) (fl : Fl) (b : Nat) :
    (x.orFlags fl).fcsr.getLsbD b = (x.fcsr.getLsbD b || fl.getLsbD b) := by
  by_cases hb : b < 32
  · simp [Wave.orFlags, hb]
  · simp [Wave.orFlags, BitVec.getLsbD_of_ge _ b (Nat.le_of_not_lt hb), BitVec.getLsbD_of_ge fl b (by omega)]

/-- A walk whose steps join flags, and leave FCSR alone otherwise. -/
theorem foldLanes_flags (act : Word) {g : Nat → Wave → Wave} (hg : ∀ l a, (g l a).fcsr = a.fcsr) (fl : Nat → Fl)
    (x : Wave) : FlagsJoin act fl x (foldLanes act (fun l a => (g l a).orFlags (fl l)) x) := by
  intro b
  unfold foldLanes
  generalize List.range 32 = ls
  induction ls generalizing x with
  | nil => simp
  | cons l t ih =>
    rw [List.foldl_cons, ih, List.any_cons]
    cases act.getLsbD l
    · simp
    · simp only [if_true, Bool.true_and, Wave.orFlags_getLsbD, hg, Bool.or_assoc]

/-- Apart from FCSR, the walk is that of the results. -/
theorem foldLanes_under_flags (act : Word) {g : Nat → Wave → Wave}
    (hg : ∀ (l : Nat) (a : Wave) (c : Word), { g l a with fcsr := c } = g l { a with fcsr := c }) (fl : Nat → Fl)
    (x : Wave) :
    ({ foldLanes act (fun l a => (g l a).orFlags (fl l)) x with fcsr := x.fcsr } : Wave) = foldLanes act g x :=
  foldLanes_hom (p := fun a => { a with fcsr := x.fcsr }) (f := fun l a => (g l a).orFlags (fl l))
    (fun l a => hg l a x.fcsr) act x

@[simp] theorem Wave.wrT_fcsr (x : Wave) (ty : BitVec 2) (r l n : Nat) : (x.wrT ty r l n).fcsr = x.fcsr := by
  rw [Wave.wrT_v]

@[simp] theorem Wave.wrMbit_fcsr (x : Wave) (r l : Nat) (b : Bool) : (x.wrMbit r l b).fcsr = x.fcsr := by
  rw [Wave.wrMbit_m]

theorem Wave.wrT_under_fcsr (x : Wave) (ty : BitVec 2) (r l n : Nat) (c : Word) :
    ({ x.wrT ty r l n with fcsr := c } : Wave) = ({ x with fcsr := c } : Wave).wrT ty r l n := by
  unfold Wave.wrT
  split <;> rfl

theorem Wave.wrMbit_under_fcsr (x : Wave) (r l : Nat) (b : Bool) (c : Word) :
    ({ x.wrMbit r l b with fcsr := c } : Wave) = ({ x with fcsr := c } : Wave).wrMbit r l b := by
  unfold Wave.wrMbit Wave.wrM
  split <;> rfl

/-- A walk that writes a container and joins flags in each active lane. -/
theorem foldLanes_wrT_flags (act : Word) (ty : BitVec 2) (D : Nat) (val : Nat → Nat) (fl : Nat → Fl) (x : Wave) :
    LanesAreFl act ty D val fl x (foldLanes act (fun l a => (a.wrT ty D l (val l)).orFlags (fl l)) x) := by
  refine ⟨?_, foldLanes_flags act (fun l a => a.wrT_fcsr ty D l (val l)) fl x⟩
  rw [foldLanes_under_flags act (fun l a c => a.wrT_under_fcsr ty D l (val l) c)]
  exact foldLanes_wrT act ty D val x

/-- A walk that writes a mask bit and joins flags in each active lane. -/
theorem foldLanes_wrMbit_flags (act : Word) (D : Nat) (val : Nat → Bool) (fl : Nat → Fl) (x : Wave) :
    let y := foldLanes act (fun l a => (a.wrMbit D l (val l)).orFlags (fl l)) x
    MaskIs act D (fun l => some (val l)) x { y with fcsr := x.fcsr } ∧ FlagsJoin act fl x y := by
  refine ⟨?_, foldLanes_flags act (fun l a => a.wrMbit_fcsr D l (val l)) fl x⟩
  rw [foldLanes_under_flags act (fun l a c => a.wrMbit_under_fcsr D l (val l) c)]
  exact foldLanes_mask act D (fun l => some (val l)) x

/-- R117: a word writes one result, and joins its flags, per active lane. -/
theorem onLanesFl_wrT (f : KF) (k : Ctx) (s : State) (ty : BitVec 2) (D : Nat) (r : Wave → Nat → Nat × Fl) :
    OnWaves k s (onLanesFl f k s (fun x l => (fun a => a.wrT ty D l (r x l).1, (r x l).2)))
      (fun v x y => LanesAreFl (k.on f v x) ty D (fun l => (r x l).1) (fun l => (r x l).2) x y) :=
  each_foldLanes k s _ (fun _ x l a => (a.wrT ty D l (r x l).1).orFlags (r x l).2) fun _ x =>
    foldLanes_wrT_flags _ ty D (fun l => (r x l).1) (fun l => (r x l).2) x

/-! ### The words -/

/-- R117 to R121: the body of a class 1 word with one rounded result applies its function. -/
theorem exec_fltWord {i : Instr} {f : KF} {dTy aTy : BitVec 2} {G : Mode → Nat → Nat → Nat → Nat × Fl}
    (h : Claims.fltWord i = some (f, dTy, aTy, G)) (s : State) :
    exec i s = issueCore i s (fun k s => .done (fltOp f dTy aTy G k s)) := by
  cases i with
  | fadd | fsub | fmul | fma | fmin | fmax | fdiv | fsqrt | frcp | frsq | fex2 | flg2 | fclass | fcvti | icvtf | fcvtw
  | frnd =>
    cases h
    rfl
  | _ => cases h

/-- R109 to R121: the words with one rounded result complete. -/
theorem floatResults : Claims.FloatResults := fun i f dTy aTy G hi s k h => by
  refine ⟨_, completes_of_done (exec_fltWord hi s) h rfl, ?_⟩
  split
  · next hu =>
    rw [fltOp, if_pos hu]
    exact onWave_onIssuer _ h.wave?_unfocused
  · next hu =>
    rw [fltOp, if_neg hu]
    exact onLanesFl_wrT f k s.unfocused dTy (KF.D f) _

/-- R119, R121: FCMP and FSCL complete. -/
theorem floatCompareAndScale : Claims.FloatCompareAndScale := by
  refine ⟨fun f s k h => ⟨_, completes_of_done rfl h rfl, ?_⟩, fun f s k h => ⟨_, completes_of_done rfl h rfl, ?_⟩⟩
  · split
    · next hu =>
      simp only [fcmpOp, cmpOp, if_pos hu]
      exact onWave_onIssuer _ h.wave?_unfocused
    · next hu =>
      simp only [fcmpOp, cmpOp, if_neg hu]
      exact each_foldLanes k _ _ _ fun v x => foldLanes_wrMbit_flags (k.on f v x) (KF.D f) _ _ x
  · split
    · next hu =>
      simp only [fsclOp, if_pos hu]
      exact onWave_onIssuer _ h.wave?_unfocused
    · next hu =>
      simp only [fsclOp, if_neg hu]
      exact onLanesFl_wrT f k s.unfocused f.ty (KF.D f) _

/-- Settles O6: each body is a walk over the active lanes that writes results and joins flags, or one write of the issuing
wave. -/
theorem floatWords : Obligations.FloatWords := ⟨floatResults, floatCompareAndScale⟩

end Sys2Proof.Machine
end

section
/-! PROOFS. NaN operands and the comparison of numbers (R117, R119). -/

namespace Sys2Proof.Machine

/-- R133: both native formats have a NaN code, so a NaN is given as the canonical one. -/
theorem nat?_canonNan (ty : BitVec 2) : ∃ p, (nat? ty).canonNan = some p := by
  unfold nat?
  split <;> exact ⟨_, rfl⟩

/-- R117: a NaN is given as the canonical NaN, and a signalling one raises NV. -/
theorem give_nan (ty : BitVec 2) (m : Mode) (sig : Bool) (fl : Fl) :
    give (nat? ty) m (.nan sig, fl) = ((nat? ty).canonNan.getD 0, (if sig then fNV else 0) ||| fl) := by
  obtain ⟨p, hp⟩ := nat?_canonNan ty
  simp only [give, roundFmt, hp, Option.getD_some]

/-- Of a NaN and another value, the infinities are not both there. -/
theorem sumV_nan (m : Mode) {x y : Val} (h : x.isNan = true ∨ y.isNan = true) :
    sumV m [x, y] = (.nan (x.isSig || y.isSig), 0) := by
  rcases h with h | h
  · cases x with
    | nan s => cases y <;> simp [sumV, Val.isNan, Val.isSig]
    | inf | num => cases h
  · cases y with
    | nan s => cases x <;> simp [sumV, Val.isNan, Val.isSig]
    | inf | num => cases h

theorem mulV_nan {x y : Val} (h : x.isNan = true ∨ y.isNan = true) : ∃ s, mulV x y = (.nan s, 0) := by
  rcases h with h | h
  · cases x with
    | nan s => cases y <;> exact ⟨_, rfl⟩
    | inf | num => cases h
  · cases y with
    | nan s => cases x <;> exact ⟨_, rfl⟩
    | inf | num => cases h

theorem divV_nan {x y : Val} (h : x.isNan = true ∨ y.isNan = true) : ∃ s, divV x y = (.nan s, 0) := by
  rcases h with h | h
  · cases x with
    | nan s => cases y <;> exact ⟨_, rfl⟩
    | inf | num => cases h
  · cases y with
    | nan s => cases x <;> exact ⟨_, rfl⟩
    | inf | num => cases h

/-- Only a NaN signals. -/
theorem Val.isSig_of_not_nan {x : Val} (h : x.isNan = false) : x.isSig = false := by
  cases x with
  | nan => cases h
  | inf | num => rfl

section
variable {f : Fmt} {a b : Nat}

/-- R119: FCMP of a NaN is unordered. -/
theorem gCmp_unordered (h : ((decodeV f a).isNan || (decodeV f b).isNan) = true) :
    (gCmp f 0 a b).1 = false ∧ (gCmp f 1 a b).1 = true ∧ (gCmp f 2 a b).1 = false ∧ (gCmp f 6 a b).1 = true
    ∧ (gCmp f 2 a b).2 = fNV := by
  simp [gCmp, h]

/-- R119: FCMP of two numbers is ordered, and raises nothing. -/
theorem gCmp_ordered (ha : (decodeV f a).isNan = false) (hb : (decodeV f b).isNan = false) :
    (gCmp f 7 a b).1 = true ∧ (gCmp f 0 a b).2 = 0
    ∧ ((gCmp f 2 a b).1 = true ↔ (gCmp f 5 a b).1 = false) ∧ ((gCmp f 4 a b).1 = true ↔ (gCmp f 3 a b).1 = false)
    ∧ ((gCmp f 0 a b).1 = true ↔ (gCmp f 3 a b).1 = true ∧ (gCmp f 5 a b).1 = true) := by
  simp only [gCmp, ha, hb, Val.isSig_of_not_nan ha, Val.isSig_of_not_nan hb, Bool.or_false, Bool.not_false, Bool.true_and,
    Bool.false_and, Bool.false_eq_true, if_false, true_and]
  cases cmpV (decodeV f a) (decodeV f b) <;> decide

end

/-- R119: −0 equals +0. -/
theorem gCmp_minus_zero (ty : BitVec 2) : (gCmp (nat? ty) 0 (nat? ty).signBit 0).1 = true := by
  unfold nat?
  split <;> decide

/-- Settles O7: a NaN operand makes the exact result a NaN, and of two numbers the conditions are those of their order. -/
theorem floatSpecials : Obligations.FloatSpecials := by
  intro ty m a b
  refine ⟨fun h => ?_, fun ⟨ha, hb⟩ => gCmp_ordered ha hb, gCmp_minus_zero ty⟩
  obtain ⟨s, hs⟩ := mulV_nan h
  obtain ⟨t, ht⟩ := divV_nan h
  have hadd : gAdd (nat? ty) m a b = _ := (congrArg (give (nat? ty) m) (sumV_nan m h)).trans (give_nan ty m _ 0)
  have hmul : gMul (nat? ty) m a b = _ := (congrArg (give (nat? ty) m) hs).trans (give_nan ty m s 0)
  have hdiv : gDiv (nat? ty) m a b = _ := (congrArg (give (nat? ty) m) ht).trans (give_nan ty m t 0)
  refine ⟨by rw [hadd], by rw [hmul], by rw [hdiv], ?_, gCmp_unordered (Bool.or_eq_true_iff.mpr h)⟩
  rw [hadd]
  exact BitVec.or_zero

end Sys2Proof.Machine
end


section
/-! PROOFS. The registers with fixed values (R58, R59), words the spec writes out, and what raising a record does (R402,
R403, R406, R409). -/

namespace Sys2Proof.Machine

/-- Settles O50, by the rules for a read after a write of the register files. -/
theorem hardWiredRegisters : Obligations.HardWiredRegisters := by
  intro x r q a m
  exact ⟨Wave.rdS_zero x, Wave.rdM_zero x, Wave.wrS_zero x a, Wave.wrM_zero x m, x.rdS_wrS r q a, x.rdM_wrM r q m⟩

/-- Settles O58: the decoder evaluates to the instruction of each word. -/
theorem decodeWords : Obligations.DecodeWords := by
  refine ⟨?_, ?_, ?_, ?_, ?_, ?_, ?_, ?_, ?_, ?_, ?_⟩ <;> rfl

/-! ### Raising a record -/

/-- A field of eight bits at [63:56] over fields of 8, 2, 1, 1, 2, 3, 7 and 32 bits. -/
theorem fld_kind {n : Nat} (kd cs : BitVec 8) (f : BitVec 2) (i p : BitVec 1) (st : BitVec 2) (w : BitVec 3) (z : BitVec 7)
    (q : BitVec n) : fld (kd ++ cs ++ f ++ i ++ p ++ st ++ w ++ z ++ q) (n + 31) (n + 24) = kd.toNat := by
  have h : (kd ++ cs ++ f ++ i ++ p ++ st ++ w ++ z ++ q).extractLsb' (n + 24) 8 = kd := by
    refine BitVec.eq_of_getLsbD_eq fun j hj => ?_
    simp only [BitVec.getLsbD_extractLsb', BitVec.getLsbD_append, hj, decide_true, Bool.true_and]
    simp only [show ¬ n + 24 + j < n by omega, show n + 24 + j - n = 24 + j by omega, if_false,
      show ¬ 24 + j < 7 by omega, show ¬ 24 + j - 7 < 3 by omega, show ¬ 24 + j - 7 - 3 < 2 by omega,
      show ¬ 24 + j - 7 - 3 - 2 < 1 by omega, show ¬ 24 + j - 7 - 3 - 2 - 1 < 1 by omega,
      show ¬ 24 + j - 7 - 3 - 2 - 1 - 1 < 2 by omega, show ¬ 24 + j - 7 - 3 - 2 - 1 - 1 - 2 < 8 by omega,
      show 24 + j - 7 - 3 - 2 - 1 - 1 - 2 - 8 = j by omega]
  have hw : n + 31 - (n + 24) + 1 = 8 := by omega
  rw [fld, BitVec.extractLsb, hw]
  exact congrArg BitVec.toNat h

/-- R403: KIND of a record. -/
theorem RecF.words_kind (r : RecF) (q : BitVec 32) : fld ((r.words q).getD 0 0) 63 56 = r.kind % 256 :=
  (fld_kind (n := 32) _ _ _ _ _ _ _ _ _).trans (BitVec.toNat_ofNat ..)

/-- The registers of an address space are read from their own table. -/
theorem State.asid_congr {s t : State} (h : s.asids = t.asids) (a : Nat) : s.asid a = t.asid a := by
  rw [State.asid, h, State.asid]

theorem State.asid_stopJob (s : State) (a b : Nat) : (s.stopJob a).asid b
    = if b = a then { s.asid a with stopping := false, stopped := true } else s.asid b :=
  State.asid_setAsid s a b _

section
variable (s : State) (a : Nat) (d : List Dword)

/-- R406: TAIL moves on. -/
def State.tailed : State := s.setAsid a { s.asid a with tail := (s.asid a).tail + 1 }

/-- R406, R409: writing a record moves TAIL on, and a STOPS record stops the job. -/
theorem State.putRecord_asids : (s.putRecord a d).asids
    = (if fld (d.getD 0 0) 43 42 = 1 then (s.tailed a).stopJob a else s.tailed a).asids := by
  unfold State.putRecord
  dsimp only
  split <;> split <;> simp_all <;> rfl

theorem State.putRecord_asid_other {b : Nat} (hb : b ≠ a) : (s.putRecord a d).asid b = s.asid b := by
  rw [State.asid_congr (State.putRecord_asids s a d)]
  split <;> simp [State.asid_stopJob, State.tailed, State.asid_setAsid, hb]

theorem State.putRecord_tail : ((s.putRecord a d).asid a).tail = (s.asid a).tail + 1 := by
  rw [State.asid_congr (State.putRecord_asids s a d)]
  split <;> simp [State.asid_stopJob, State.tailed, State.asid_setAsid]

theorem State.putRecord_seq : ((s.putRecord a d).asid a).seq = (s.asid a).seq := by
  rw [State.asid_congr (State.putRecord_asids s a d)]
  split <;> simp [State.asid_stopJob, State.tailed, State.asid_setAsid]

theorem State.putRecord_stopped_iff : ((s.putRecord a d).asid a).stopped
    = ((s.asid a).stopped || decide (fld (d.getD 0 0) 43 42 = 1)) := by
  rw [State.asid_congr (State.putRecord_asids s a d)]
  split <;> simp_all [State.asid_stopJob, State.tailed, State.asid_setAsid]

/-- R402: the job's ostler is signalled. -/
theorem State.putRecord_signals : (s.putRecord a d).signals = s.signals ++ [(s.ostlerOf a, a)] := by
  unfold State.putRecord
  dsimp only
  split <;> split <;> rfl

/-- R408: a record that neither stops its job nor is a BREAK goes to no subscriber. -/
theorem State.putRecord_outbox (hs : fld (d.getD 0 0) 43 42 ≠ 1) (hk : fld (d.getD 0 0) 63 56 ≠ 16) :
    (s.putRecord a d).outbox = s.outbox := by
  simp only [State.putRecord, beq_false_of_ne hs, beq_false_of_ne hk, Bool.or_self, Bool.false_eq_true, if_false]
  rfl

end

theorem RStatus.code_eq_one (r : RStatus) : r.code = 1 ↔ r = .stops := by
  cases r <;> decide

section
variable (s : State) (a : Nat) (r : RecF)

theorem State.numbered_asid (b : Nat) : (s.numbered a).asid b
    = if b = a then { s.asid a with seq := nextSeq (s.asid a).seq } else s.asid b :=
  State.asid_setAsid s a b _

theorem State.numbered_ostlerOf : (s.numbered a).ostlerOf a = s.ostlerOf a := by
  simp only [State.ostlerOf, State.numbered_asid, if_true]
  rfl

/-- R403, R406: a record that finds the ring full is numbered and waits. -/
theorem State.raise_asid_of_full {s : State} {a : Nat} (r : RecF) (h : s.ringRoom a = false) (b : Nat) :
    (s.raise a r).1.asid b = if b = a then { s.asid a with
        seq := nextSeq (s.asid a).seq
        waiting := (s.asid a).waiting ++ [r.words (nextSeq (s.asid a).seq)] } else s.asid b := by
  unfold State.ringRoom at h
  simp only [State.raise, h, Bool.false_eq_true, if_false, State.asid_setAsid, if_true]
  split <;> rfl

theorem State.raise_asid_other {b : Nat} (hb : b ≠ a) : (s.raise a r).1.asid b = s.asid b := by
  cases h : s.ringRoom a
  · rw [State.raise_asid_of_full r h, if_neg hb]
  · rw [State.raise_of_room r h, State.putRecord_asid_other _ _ _ hb, State.numbered_asid, if_neg hb]

/-- R403: the record takes the job's next number. -/
theorem State.raise_number : (s.raise a r).2 = nextSeq (s.asid a).seq := by
  unfold State.raise
  dsimp only
  split <;> rfl

theorem State.raise_seq : ((s.raise a r).1.asid a).seq = nextSeq (s.asid a).seq := by
  cases h : s.ringRoom a
  · rw [State.raise_asid_of_full r h, if_pos rfl]
  · rw [State.raise_of_room r h, State.putRecord_seq, State.numbered_asid, if_pos rfl]

end

/-- Settles O52: the record is numbered, and then written at TAIL or, where the ring is full, left waiting. -/
theorem raiseRecord : Obligations.RaiseRecord := by
  intro s a r
  dsimp only
  refine ⟨(s.raise_number a r).trans ?_, (s.raise_seq a r).trans (s.raise_number a r).symm, s.raise_frame a r,
    fun b hb => s.raise_asid_other a r hb, fun h => ?_, fun h => ?_⟩
  · simp only [nextSeq, beq_iff_eq]
  · have hstat := r.words_status (nextSeq (s.asid a).seq)
    have hkind := r.words_kind (nextSeq (s.asid a).seq)
    rw [State.raise_number, State.raise_of_room r h]
    refine ⟨?_, r.recordBytes_length _, ?_, ?_, ?_, fun hs hk => ?_⟩
    · rw [State.putRecord_mem, State.numbered_tailAddr, State.numbered_mem]
      rfl
    · rw [State.putRecord_tail, State.numbered_asid, if_pos rfl]
    · rw [State.putRecord_signals, State.numbered_ostlerOf]
      rfl
    · simp only [State.putRecord_stopped_iff, State.numbered_asid, if_true, hstat, RStatus.code_eq_one]
    · rw [State.putRecord_outbox _ _ _ (by rwa [hstat, ne_eq, RStatus.code_eq_one]) (by rwa [hkind])]
      rfl
  · rw [State.raise_number, State.raise_of_full r h]
    refine ⟨rfl, rfl, rfl, ?_, ?_⟩
    · exact (congrArg Asid.tail (State.raise_asid_of_full r h a)).trans (by rw [if_pos rfl])
    · exact (congrArg Asid.waiting (State.raise_asid_of_full r h a)).trans (by rw [if_pos rfl])

end Sys2Proof.Machine
end


section
/-! PROOFS. What a step does (R84, R189, R261, R288), and the waves that execute nothing (R190, R407, R409, R411). -/

namespace Sys2Proof.Machine

/-! ### Fetching -/

/-- No slot is withheld while neither the power cap nor the curb acts. -/
theorem withheld_of_free {s : State} (ht : s.throttle = false) (hcurb : s.curbOn = false) : withheld s = (false, s) := by
  simp [withheld, ht, hcurb]

/-- R84: a word that decodes runs, where no breakpoint acts before it. -/
theorem fetchFor_run {k : Ctx} {s : State} {word : BitVec 64} {i : Instr} (hi : k.issues = true)
    (hb : blocked k s = none) (ht : s.throttle = false) (hcurb : s.curbOn = false) (hin : k.inside k.wv.pc.toNat = true)
    (hw : k.word? s k.wv.pc.toNat = some word) (hd : Decode.core word = .ok i)
    (hbp : k.wv.bpDone = true ∨ k.wordBreaks s (predOf i) = []) :
    fetchFor k s = .run i { s with focus := .wave k.w } := by
  have hhits : (if k.wv.bpDone then [] else k.wordBreaks s (predOf i)) = [] := by
    rcases hbp with h | h
    · rw [h]; rfl
    · rw [h, ite_self]
  simp only [fetchFor, hi, hb, withheld_of_free ht hcurb, hin, hw, hd, hhits, Bool.not_true, Bool.false_eq_true, if_false,
    List.isEmpty_nil, if_true]

/-- R190: a wave that is held notes why. -/
theorem fetchFor_blocked {k : Ctx} {s : State} {r : Stall} (hi : k.issues = true) (hb : blocked k s = some r) :
    fetchFor k s = .over (.next (stallAt k r s)) := by
  simp only [fetchFor, hi, hb, Bool.not_true, Bool.false_eq_true, if_false]

/-- R288: a node word that decodes fires. -/
theorem fetchNode_run {s : State} {f : Firing} {word : BitVec 64} {i : Instr} (hw : f.word? s = some word)
    (hd : Decode.node word = .ok i) : fetchNode s f = .run i s := by
  simp only [fetchNode, hw, hd]

/-- A step that leaves the crews alone is stored as it is. -/
theorem stored_of_crews_eq {s t : State} (hn : s.NamesOnce) (hc : t.crews = s.crews) : stored s (.next t) = .next t :=
  congrArg _ (storeBackwaters_of_crews_eq hn hc)

section
variable {s : State}

theorem step_of_wave {w : WaveId} (hf : s.focus = .wave w) : step s
    = stored { s with now := s.now + 1 } (fetched (fetchWave { s with now := s.now + 1, focus := .none } w)) := by
  rw [step, hf]

theorem step_of_node {f : Firing} (hf : s.focus = .node f) : step s
    = stored { s with now := s.now + 1 } (fetched (fetchNode { s with now := s.now + 1 } f)) := by
  rw [step, hf]

theorem step_of_none (hf : s.focus = .none) :
    step s = stored { s with now := s.now + 1 } (agendaStep { s with now := s.now + 1 }) := by
  rw [step, hf]

end

/-! ### The agenda's next entry -/

section
variable {s : State} {t : List Choice}

theorem agendaStep_issue {w : WaveId} (ha : s.agenda = .issue w :: t) :
    agendaStep s = issueWave { s with agenda := t } w := by
  rw [agendaStep, ha]

theorem agendaStep_schedule {pool : List WaveId} (ha : s.agenda = .schedule pool :: t) :
    agendaStep s = tryPool { s with agenda := t } pool (s.order pool) { s with agenda := t } := by
  rw [agendaStep, ha]

theorem agendaStep_event {i : Instr} (ha : s.agenda = .event i :: t) :
    agendaStep s = exec i (noteReasons i { s with agenda := t }) := by
  rw [agendaStep, ha]

end

/-- Settles O53: a step is what its focus or the next entry of its agenda says, one case after the other. -/
theorem stepRuns : Obligations.StepRuns := by
  refine ⟨?_, ?_, ?_, ?_, ?_, ?_⟩
  · intro s w k word i u hf hc hi hb ht hcurb hin hw hd hbp
    have hfetch := fetchFor_run hi hb ht hcurb hin hw hd hbp
    rw [(ctx_wave hc).1] at hfetch
    rw [step_of_wave hf, fetchWave, hc]
    dsimp only
    rw [hfetch]
    rfl
  · intro s f word i hf hw hd
    rw [step_of_node hf, fetchNode_run hw hd, fetched]
  · intro s hn hf ha
    rw [step_of_none hf, agendaStep, ha]
    exact stored_of_crews_eq hn rfl
  · intro s i t hf ha
    rw [step_of_none hf]
    exact congrArg _ (agendaStep_event ha)
  · intro s w t hf ha
    rw [step_of_none hf, agendaStep_issue (s := { s with now := s.now + 1 }) ha, issueWave]
    refine ⟨fun hnone => ?_, fun v hv => ?_⟩
    · rw [hnone, step_of_wave rfl]
      rw [hf]
      rfl
    · rw [hv]
  · intro s u w pool rest t hf ha ho v hu hi
    rw [step_of_none hf, agendaStep_schedule (s := { s with now := s.now + 1 }) ha, ho, tryPool, hu]
    exact congrArg _ (if_pos hi)

/-! ### Held waves -/

/-- R190: the reason is noted in the wave. -/
theorem stallAt_eq {k : Ctx} {s : State} {w : WaveId} (hc : ctx? s w = some k) (r : Stall) :
    stallAt k r s = s.setWave w { k.wv with stall := r } := by
  obtain ⟨rfl, hw⟩ := ctx_wave hc
  exact State.modWave_some _ hw

section
variable (k : Ctx) (s : State)

/-- R190, R415: whether a wave is held with HALTED. -/
def Ctx.halts : Bool := (k.g.halted && k.g.moving.isNone && !k.wv.unrecorded s k.asid) || k.stopped s

theorem Ctx.halts_iff : k.halts s = true ↔ (k.g.halted = true ∧ k.g.moving = none ∧ k.wv.unrecorded s k.asid = false)
    ∨ (s.asid k.asid).stopped = true ∨ (s.asid k.asid).stopping = true := by
  simp [Ctx.halts, Ctx.stopped, State.jobOff, and_assoc]

theorem Ctx.not_halts_iff : ¬ k.halts s = true ↔
    (k.g.halted = false ∨ k.g.moving ≠ none ∨ k.wv.unrecorded s k.asid = true)
    ∧ (s.asid k.asid).stopped = false ∧ (s.asid k.asid).stopping = false := by
  rw [Ctx.halts_iff]
  simp only [not_or, not_and_or, Bool.not_eq_true, Bool.not_eq_false, ne_eq]

variable {k s}

theorem blocked_of_halts (h : k.halts s = true) : blocked k s = some .halted := if_pos h

theorem blocked_of_saved (h : ¬ k.halts s = true) (hc : k.c.saved = true) : blocked k s = some .preempted :=
  (if_neg h).trans (if_pos hc)

theorem blocked_of_waits (h : ¬ k.halts s = true) (hc : k.c.saved = false)
    (hw : k.wv.pending ≠ none ∨ k.l.argsRead = false) :
    blocked k s = some (if (k.word? s k.wv.pc.toNat).isSome then .memory else .icache) := by
  refine (if_neg h).trans ((if_neg (by simp [hc])).trans (if_pos ?_))
  simpa [Option.isSome_iff_ne_none] using hw

end

/-- Settles O59: each of the conditions makes `blocked` give the reason, and the wave notes it. -/
theorem heldWaves : Obligations.HeldWaves := by
  intro s w k r u hn hf hc hi h
  have hb : blocked k u = some r := by
    obtain ⟨hhalt, hheld⟩ := h
    by_cases hoff : k.halts u = true
    · rw [blocked_of_halts hoff, hhalt ((k.halts_iff u).mp hoff)]
    · obtain ⟨hsaved, hwait⟩ := hheld (k.not_halts_iff u |>.mp hoff)
      cases hc : k.c.saved with
      | true => rw [blocked_of_saved hoff hc, hsaved hc]
      | false =>
        obtain ⟨hr, hcause⟩ := hwait hc
        rw [blocked_of_waits hoff hc hcause, hr]
  rw [step_of_fetchFor_over hn hf hc (fetchFor_blocked hi hb) (by rw [stallAt_eq hc]; rfl), stallAt_eq hc]

end Sys2Proof.Machine
end


section
/-! PROOFS. Memory is little-endian (R2), tokens and frames lie in it as R69, R285 and R286 say, and what a step changes of
a crew's backwaters is stored where they lie (R264, R294). -/

namespace Sys2Proof.Machine

/-! ### Reads and writes of memory -/

theorem Memory.length_read (m : Memory) (a n : Nat) : (Memory.read m a n).length = n := by
  induction n generalizing a with
  | zero => rfl
  | succ n ih => rw [Memory.read, List.length_cons, ih]

/-- A read depends on the bytes that it reads. -/
theorem Memory.read_congr {m m' : Memory} {a n : Nat}
    (h : ∀ b, a ≤ b → b < a + n → Memory.byte m b = Memory.byte m' b) : Memory.read m a n = Memory.read m' a n := by
  induction n generalizing a with
  | zero => rfl
  | succ n ih =>
    rw [Memory.read, Memory.read, h a (by omega) (by omega), ih fun b hb hlt => h b (by omega) (by omega)]

/-- R2: what is read back is what was written. -/
theorem Memory.read_write (m : Memory) (a : Nat) (bs : List Byte) :
    Memory.read (Memory.write m a bs) a bs.length = bs := by
  induction bs generalizing m a with
  | nil => rfl
  | cons b t ih =>
    rw [Memory.write, List.length_cons, Memory.read, ih, Memory.byte_write_out _ _ _ _ (.inl (by omega)),
      Memory.byte_setByte, if_pos rfl]

theorem leBytes_getElem? (n v i : Nat) (h : i < n) : (leBytes n v)[i]? = some (BitVec.ofNat 8 (v / 2 ^ (8 * i))) := by
  induction n generalizing v i with
  | zero => omega
  | succ n ih =>
    cases i with
    | zero => simp [leBytes]
    | succ i =>
      have hdiv : v / 256 / 2 ^ (8 * i) = v / 2 ^ (8 * (i + 1)) := by
        rw [Nat.div_div_eq_div_mul, show (256 : Nat) = 2 ^ 8 from rfl, ← Nat.pow_add, show 8 * (i + 1) = 8 + 8 * i by omega]
      rw [leBytes, List.getElem?_cons_succ, ih _ _ (by omega), hdiv]

theorem two_pow_eight_mul (n : Nat) : 2 ^ (8 * n) = 256 ^ n := Nat.pow_mul 2 8 n

/-- R2: the bytes of a value. -/
theorem valueBytes : Claims.ValueBytes := by
  intro m a n v
  refine ⟨?_, fun i hi => ?_, fun b hb => ?_, fun h => Memory.wf_setLe a n v h⟩
  · have hread := Memory.read_write m a (leBytes n v)
    rw [leBytes_length] at hread
    rw [Memory.le, Memory.setLe, hread, leNat_leBytes, two_pow_eight_mul]
  · rw [Memory.setLe, Memory.byte_write, if_pos (by omega), show a + i - a = i by omega, leBytes_getElem? n v i hi]
    rfl
  · exact Memory.byte_write_out m a b _ (by rwa [leBytes_length])

/-! ### Fields as numbers -/

theorem toNat_append_add {n w : Nat} (x : BitVec n) (y : BitVec w) : (x ++ y).toNat = x.toNat * 2 ^ w + y.toNat := by
  rw [BitVec.toNat_append, ← Nat.shiftLeft_add_eq_or_of_lt y.isLt, Nat.shiftLeft_eq]

theorem fld_eq_div_mod {n : Nat} (x : BitVec n) (hi lo : Nat) : fld x hi lo = x.toNat / 2 ^ lo % 2 ^ (hi - lo + 1) := by
  rw [fld, BitVec.extractLsb_toNat, Nat.shiftRight_eq_div_pow]

/-- A bit taken back from the number it was put into. -/
theorem getLsbD_of_div_mod {n : Nat} {x : BitVec n} {i : Nat} {b : Bool} (h : x.toNat / 2 ^ i % 2 = b.toNat) :
    x.getLsbD i = b := by
  rw [BitVec.getLsbD, Nat.testBit_eq_decide_div_mod_eq, h]
  cases b <;> rfl

/-! ### Tokens (R69) -/

section
variable (t : Tok) {ctx : Nat} (hctx : ctx < 4) (hp : t.paddock < 4096) (hc : t.cell < 16) (hf : t.frame < 1024)
  (hs : t.slot < 128) (hb : t.blk < 8)
include hctx hp hc hf hs hb

/-- R69: a token as a number. -/
theorem Tok.bits_toNat : (t.bits ctx).toNat = ((((((((t.value.toNat * 4 + ctx) * 4096 + t.paddock) * 16 + t.cell) * 1024
    + t.frame) * 128 + t.slot) * 2 + t.port.toNat) * 8 + t.blk) * 2 + t.err.toNat) * 16777216 := by
  simp only [Tok.bits, tokenBits, toNat_append_add, BitVec.toNat_ofNat, BitVec.toNat_ofBool, BitVec.ofNat_eq_ofNat]
  omega

/-- R69: each field of a token. -/
theorem Tok.bits_fields : let b := t.bits ctx
    fld b 127 64 = t.value.toNat ∧ fld b 63 62 = ctx ∧ fld b 61 50 = t.paddock ∧ fld b 49 46 = t.cell ∧ fld b 45 36 = t.frame
    ∧ fld b 35 29 = t.slot ∧ b.getLsbD 28 = t.port ∧ fld b 27 25 = t.blk ∧ b.getLsbD 24 = t.err ∧ fld b 23 0 = 0 := by
  have h := t.bits_toNat hctx hp hc hf hs hb
  have hv := t.value.isLt
  have hport : t.port.toNat < 2 := t.port.toNat_lt
  have herr : t.err.toNat < 2 := t.err.toNat_lt
  simp only [fld_eq_div_mod, h]
  refine ⟨?_, ?_, ?_, ?_, ?_, ?_, getLsbD_of_div_mod (h ▸ ?_), ?_, getLsbD_of_div_mod (h ▸ ?_), ?_⟩ <;> omega

/-- R69: the bits of a token give it back. -/
theorem Tok.ofBits_bits : t.ofBits (t.bits ctx) = t := by
  obtain ⟨hv, -, hpad, hcell, hframe, hslot, hport, hblk, herr, -⟩ := t.bits_fields hctx hp hc hf hs hb
  have hval : (t.bits ctx).extractLsb' 64 64 = t.value := BitVec.eq_of_toNat_eq hv
  rw [Tok.ofBits, hval, hpad, hcell, hframe, hslot, hport, hblk, herr]

end

/-- R69: a token as bytes is its 128 bits. -/
theorem Tok.leNat_bytes (t : Tok) (ctx : Nat) : leNat (t.bytes ctx) = (t.bits ctx).toNat := by
  rw [Tok.bytes, leNat_leBytes]
  exact Nat.mod_eq_of_lt (t.bits ctx).isLt

/-! ### Images (R285, R286) -/

section
variable (xs ys : List Byte) {o n : Nat}

theorem imgNat_append_left (h : o + n ≤ xs.length) : imgNat (xs ++ ys) o n = imgNat xs o n := by
  rw [imgNat, imgNat, List.drop_append_of_le_length (by omega),
    List.take_append_of_le_length (by rw [List.length_drop]; omega)]

theorem imgNat_append_right (h : xs.length ≤ o) : imgNat (xs ++ ys) o n = imgNat ys (o - xs.length) n := by
  rw [imgNat, imgNat, List.drop_append, List.drop_eq_nil_of_le h, List.nil_append]

end

theorem leBytes_drop (n v o : Nat) : (leBytes n v).drop o = leBytes (n - o) (v / 256 ^ o) := by
  induction o generalizing n v with
  | zero => simp
  | succ o ih =>
    cases n with
    | zero => simp [leBytes]
    | succ n => rw [leBytes, List.drop_succ_cons, ih, Nat.add_sub_add_right, Nat.div_div_eq_div_mul, Nat.pow_succ, Nat.mul_comm]

theorem leBytes_take (n v k : Nat) (h : k ≤ n) : (leBytes n v).take k = leBytes k v := by
  induction k generalizing n v with
  | zero => simp [leBytes]
  | succ k ih =>
    cases n with
    | zero => omega
    | succ n => rw [leBytes, leBytes, List.take_succ_cons, ih _ _ (by omega)]

/-- Bytes of a number stored as bytes. -/
theorem imgNat_leBytes {k v o n : Nat} (h : o + n ≤ k) : imgNat (leBytes k v) o n = v / 256 ^ o % 256 ^ n := by
  rw [imgNat, leBytes_drop, leBytes_take _ _ _ (by omega), leNat_leBytes]

/-- One of several items of eight bytes. -/
theorem imgNat_flatMap_range (f : Nat → Nat) {n i : Nat} (h : i < n) :
    imgNat ((List.range n).flatMap (fun s => leBytes 8 (f s))) (8 * i) 8 = f i % 256 ^ 8 := by
  have hlen (n : Nat) : ((List.range n).flatMap (fun s => leBytes 8 (f s))).length = 8 * n := by
    simp [List.length_flatMap, Nat.mul_comm]
  induction n with
  | zero => omega
  | succ n ih =>
    rw [List.range_succ, List.flatMap_append]
    rcases Nat.lt_succ_iff_lt_or_eq.mp h with hlt | rfl
    · rw [imgNat_append_left _ _ (by rw [hlen]; omega), ih hlt]
    · rw [imgNat_append_right _ _ (by rw [hlen]), hlen, Nat.sub_self, List.flatMap_singleton,
        imgNat_leBytes (by omega), Nat.pow_zero, Nat.div_one]

/-! ### The image of a frame -/

/-- R285: the numbers of an image, each with its first byte and its size. -/
def Frame.HoldsAt (f : Frame) (ctx o v k : Nat) : Prop :=
  ∀ (own : List Byte) (p n : Nat), own.length = 64 → p + n ≤ k → imgNat (f.image ctx own) (o + p) n = v / 256 ^ p % 256 ^ n

section
variable (f : Frame) (ctx : Nat)

theorem Frame.header_length {own : List Byte} (h : own.length = 64) : (f.header ctx own).length = 64 := by
  simp [Frame.header, h]

theorem slots_length (g : Nat → Nat) : ((List.range 128).flatMap (fun s => leBytes 8 (g s))).length = 1024 := by
  simp [List.length_flatMap]

/-- R285: a frame takes 1,152 bytes. -/
theorem Frame.image_length {own : List Byte} (h : own.length = 64) : (f.image ctx own).length = 1152 := by
  simp only [Frame.image, List.length_append, f.header_length ctx h, leBytes_length, slots_length, List.length_take,
    List.length_drop, h]
  rfl

/-- The header comes first. -/
theorem Frame.imgNat_header {own : List Byte} (h : own.length = 64) {o n : Nat} (hn : o + n ≤ 64) :
    imgNat (f.image ctx own) o n = imgNat (f.header ctx own) o n := by
  have hlen := f.header_length ctx h
  rw [Frame.image, imgNat_append_left _ _ (by simp only [List.length_append]; omega),
    imgNat_append_left _ _ (by simp only [List.length_append]; omega), imgNat_append_left _ _ (by omega)]

theorem Frame.holdsAt_tag : f.HoldsAt ctx 0 (f.tag ||| BitVec.ofNat 64 (ctx * 2 ^ 62)).toNat 8 := by
  intro own p n h hn
  rw [f.imgNat_header ctx h (by omega), Frame.header]
  simp only [List.append_assoc]
  rw [imgNat_append_left _ _ (by rw [leBytes_length]; omega), imgNat_leBytes (by omega), Nat.zero_add]

theorem Frame.holdsAt_link : f.HoldsAt ctx 8 f.link.toNat 8 := by
  intro own p n h hn
  rw [f.imgNat_header ctx h (by omega), Frame.header]
  simp only [List.append_assoc]
  rw [imgNat_append_right _ _ (by rw [leBytes_length]; omega), leBytes_length, Nat.add_sub_cancel_left,
    imgNat_append_left _ _ (by rw [leBytes_length]; omega), imgNat_leBytes (by omega)]

theorem Frame.holdsAt_loops : f.HoldsAt ctx 16 (f.loop1 ++ f.loop0 : Dword).toNat 8 := by
  intro own p n h hn
  rw [f.imgNat_header ctx h (by omega), Frame.header]
  simp only [List.append_assoc]
  rw [imgNat_append_right _ _ (by rw [leBytes_length]; omega), imgNat_append_right _ _ (by simp only [leBytes_length]; omega),
    leBytes_length, leBytes_length, show 16 + p - 8 - 8 = p by omega,
    imgNat_append_left _ _ (by rw [leBytes_length]; omega), imgNat_leBytes (by omega)]

theorem Frame.holdsAt_counts : f.HoldsAt ctx 24 f.counts.toNat 8 := by
  intro own p n h hn
  rw [f.imgNat_header ctx h (by omega), Frame.header]
  simp only [List.append_assoc]
  rw [imgNat_append_right _ _ (by rw [leBytes_length]; omega), imgNat_append_right _ _ (by simp only [leBytes_length]; omega),
    imgNat_append_right _ _ (by simp only [leBytes_length]; omega),
    leBytes_length, leBytes_length, leBytes_length, show 24 + p - 8 - 8 - 8 = p by omega,
    imgNat_append_left _ _ (by rw [leBytes_length]; omega), imgNat_leBytes (by omega)]

theorem Frame.holdsAt_presence : f.HoldsAt ctx 0x40 f.presence.toNat 32 := by
  intro own p n h hn
  have hlen := f.header_length ctx h
  rw [Frame.image, imgNat_append_left _ _ (by simp only [List.length_append, leBytes_length]; omega),
    imgNat_append_left _ _ (by simp only [List.length_append, leBytes_length]; omega),
    imgNat_append_right _ _ (by omega), hlen, Nat.add_sub_cancel_left, imgNat_leBytes (by omega)]

theorem Frame.imgNat_slot {own : List Byte} (h : own.length = 64) {s : Nat} (hs : s < 128) :
    imgNat (f.image ctx own) (0x60 + 8 * s) 8 = (f.slotWord s).toNat := by
  have hlen := f.header_length ctx h
  have hlt := (f.slotWord s).isLt
  rw [Frame.image, imgNat_append_left _ _ (by simp only [List.length_append, slots_length, leBytes_length]; omega),
    imgNat_append_right _ _ (by simp only [List.length_append, leBytes_length]; omega), List.length_append, hlen,
    leBytes_length, Nat.add_sub_cancel_left, imgNat_flatMap_range (fun s => (f.slotWord s).toNat) hs]
  omega

/-- R285: dword 0 holds the tag under the context. -/
theorem Frame.tag_toNat (hctx : ctx < 4) (ht : f.tag.toNat < 2 ^ 62) :
    (f.tag ||| BitVec.ofNat 64 (ctx * 2 ^ 62)).toNat = f.tag.toNat + ctx * 2 ^ 62 := by
  rw [BitVec.toNat_or, BitVec.toNat_ofNat, Nat.mod_eq_of_lt (by omega), Nat.or_comm, ← Nat.shiftLeft_eq,
    ← Nat.shiftLeft_add_eq_or_of_lt ht, Nat.add_comm]

/-- R285: dword 1 as a number. -/
theorem Frame.link_toNat : f.link.toNat = ((((((f.blk % 8) * 2 + f.how.parent.isSome.toNat) * 16
    + (f.how.parent.getD (0, 0)).1 % 16) * 1024 + (f.how.parent.getD (0, 0)).2 % 1024) * 4 + f.how.kind % 4) * 128
    + f.how.rslot % 128) * 2 ^ 37 := by
  simp only [Frame.link, toNat_append_add, BitVec.toNat_ofNat, BitVec.toNat_ofBool, BitVec.ofNat_eq_ofNat]
  omega

theorem Frame.counts_toNat : f.counts.toNat = (f.arrived % 65536 * 65536 + f.fired % 65536) * 2 ^ 32 := by
  simp only [Frame.counts, toNat_append_add, BitVec.toNat_ofNat, BitVec.ofNat_eq_ofNat]
  omega

end

/-- R285, R286: the header, the presence bits and the slots of an image. -/
theorem Frame.image_fields (f : Frame) (ctx : Nat) (own : List Byte) (hown : own.length = 64) (hctx : ctx < 4)
    (ht : f.tag.toNat < 2 ^ 62) : let b := f.image ctx own
    b.length = 1152 ∧ imgNat b 0 8 = f.tag.toNat + ctx * 2 ^ 62
    ∧ (f.blk < 8 → imgNat b 8 8 / 2 ^ 61 = f.blk) ∧ (BitVec.ofNat 64 (imgNat b 8 8)).getLsbD 60 = f.how.parent.isSome
    ∧ (∀ up, f.how.parent = some up → up.1 < 16 → up.2 < 1024 →
        imgNat b 8 8 / 2 ^ 56 % 2 ^ 4 = up.1 ∧ imgNat b 8 8 / 2 ^ 46 % 2 ^ 10 = up.2)
    ∧ (f.how.kind < 4 → imgNat b 8 8 / 2 ^ 44 % 4 = f.how.kind) ∧ (f.how.rslot < 128 → imgNat b 8 8 / 2 ^ 37 % 128 = f.how.rslot)
    ∧ imgNat b 8 8 % 2 ^ 37 = 0 ∧ imgNat b 16 4 = f.loop0.toNat ∧ imgNat b 20 4 = f.loop1.toNat
    ∧ (f.arrived < 65536 → imgNat b 30 2 = f.arrived) ∧ (f.fired < 65536 → imgNat b 28 2 = f.fired) ∧ imgNat b 24 4 = 0
    ∧ imgNat b 0x40 32 = f.presence.toNat ∧ ∀ s, s < 128 → imgNat b (0x60 + 8 * s) 8 = (f.slotWord s).toNat := by
  intro b
  have htag : imgNat b 0 8 = _ := f.holdsAt_tag ctx own 0 8 hown (by omega)
  have hlink : imgNat b 8 8 = _ := f.holdsAt_link ctx own 0 8 hown (by omega)
  have hloop0 : imgNat b 16 4 = _ := f.holdsAt_loops ctx own 0 4 hown (by omega)
  have hloop1 : imgNat b 20 4 = _ := f.holdsAt_loops ctx own 4 4 hown (by omega)
  have harr : imgNat b 30 2 = _ := f.holdsAt_counts ctx own 6 2 hown (by omega)
  have hfired : imgNat b 28 2 = _ := f.holdsAt_counts ctx own 4 2 hown (by omega)
  have hzero : imgNat b 24 4 = _ := f.holdsAt_counts ctx own 0 4 hown (by omega)
  have hpres : imgNat b 0x40 32 = _ := f.holdsAt_presence ctx own 0 32 hown (by omega)
  have hp1 : f.how.parent.isSome.toNat < 2 := Bool.toNat_lt _
  have hl0 := f.loop0.isLt
  have hl1 := f.loop1.isLt
  have hps := f.presence.isLt
  rw [f.tag_toNat ctx hctx ht] at htag
  rw [f.link_toNat] at hlink
  rw [toNat_append_add] at hloop0 hloop1
  rw [f.counts_toNat] at harr hfired hzero
  refine ⟨f.image_length ctx hown, by omega, fun h => by omega, getLsbD_of_div_mod ?_, fun up hup h1 h2 => ?_,
    fun h => by omega, fun h => by omega, by omega, by omega, by omega, fun h => by omega, fun h => by omega, by omega,
    by omega, fun s hs => f.imgNat_slot ctx hown hs⟩
  · rw [BitVec.toNat_ofNat]
    omega
  · rw [hup, Option.getD_some] at hlink
    omega

/-- R69, R285, R286: tokens and frames as bytes. -/
theorem backwaterBytes : Claims.BackwaterBytes := by
  refine ⟨fun t ctx hctx hp hc hf hs hb => ?_, Frame.image_fields⟩
  obtain ⟨hval, hctx', hpad, hcell, hframe, hslot, hport, hblk, herr, hrest⟩ := t.bits_fields hctx hp hc hf hs hb
  exact ⟨hval, hctx', hpad, hcell, hframe, hslot, hport, hblk, herr, hrest, leBytes_length _ _, t.leNat_bytes ctx,
    t.ofBits_bits hctx hp hc hf hs hb⟩

/-! ### What a step stores of the backwaters -/

/-- Areas written one after the other. -/
def Memory.putAll (m : Memory) (bs : List (Nat × List Byte)) : Memory := bs.foldl (fun m b => Memory.put m b.1 b.2) m

theorem Memory.wf_putAll {m : Memory} (bs : List (Nat × List Byte)) (h : Memory.wf m = true) :
    Memory.wf (Memory.putAll m bs) = true := by
  induction bs generalizing m with
  | nil => exact h
  | cons b t ih => exact ih (Memory.wf_put b.1 b.2 h)

theorem Memory.byte_putAll_out {a : Nat} {bs : List (Nat × List Byte)} (h : ∀ b ∈ bs, a < b.1 ∨ b.1 + b.2.length ≤ a)
    (m : Memory) : Memory.byte (Memory.putAll m bs) a = Memory.byte m a := by
  induction bs generalizing m with
  | nil => rfl
  | cons b t ih =>
    refine (ih (fun c hc => h c (List.mem_cons_of_mem b hc)) _).trans ?_
    exact Memory.byte_put_out m b.1 a b.2 (h b List.mem_cons_self)

/-- What lies within HBM is read back. -/
theorem Memory.read_put (m : Memory) {a : Nat} {bs : List Byte} (h : a + bs.length ≤ hbmBytes) :
    Memory.read (Memory.put m a bs) a bs.length = bs := by
  rw [Memory.put, List.take_of_length_le (by omega), Memory.read_write]

/-- Each of several areas that lie apart is read back. -/
theorem Memory.read_putAll {bs : List (Nat × List Byte)}
    (hp : bs.Pairwise (fun a b => a.1 + a.2.length ≤ b.1 ∨ b.1 + b.2.length ≤ a.1))
    (hin : ∀ b ∈ bs, b.1 + b.2.length ≤ hbmBytes) (m : Memory) {b : Nat × List Byte} (hb : b ∈ bs) :
    Memory.read (Memory.putAll m bs) b.1 b.2.length = b.2 := by
  induction bs generalizing m with
  | nil => cases hb
  | cons c t ih =>
    obtain ⟨hc, ht⟩ := List.pairwise_cons.mp hp
    rcases List.mem_cons.mp hb with rfl | hb
    · have hsame := Memory.read_put m (hin b List.mem_cons_self)
      refine (Memory.read_congr fun a ha halt => ?_).trans hsame
      have hout : ∀ d ∈ t, a < d.1 ∨ d.1 + d.2.length ≤ a := fun d hd => by have := hc d hd; omega
      exact Memory.byte_putAll_out hout _
    · exact ih ht (fun d hd => hin d (List.mem_cons_of_mem c hd)) _ hb

/-- R294: one crew's backwaters are stored if what they hold has changed. -/
def State.storeCrew (s u : State) (q : CrewId × Crew) : State :=
  if (s.crew? q.1).map Crew.bwHolds == some q.2.bwHolds || q.2.region.isNone then u
  else u.setMem (Memory.putAll u.mem (q.2.bwBytes cellOf))

theorem storeBackwaters_eq_foldl (s t : State) : s.storeBackwaters t = t.crews.foldl s.storeCrew t := rfl

theorem State.storeCrew_frame (s u : State) (q : CrewId × Crew) :
    s.storeCrew u q = { u with mem := (s.storeCrew u q).mem } := by
  unfold State.storeCrew
  split <;> rfl

theorem State.storeCrew_wf (s : State) {u : State} (q : CrewId × Crew) (h : Memory.wf u.mem = true) :
    Memory.wf (s.storeCrew u q).mem = true := by
  unfold State.storeCrew
  split
  · exact h
  · exact Memory.wf_putAll _ h

theorem State.foldl_storeCrew (s : State) (l : List (CrewId × Crew)) (u : State) :
    l.foldl s.storeCrew u = { u with mem := (l.foldl s.storeCrew u).mem }
    ∧ (Memory.wf u.mem = true → Memory.wf (l.foldl s.storeCrew u).mem = true) := by
  induction l generalizing u with
  | nil => exact ⟨rfl, id⟩
  | cons q l ih =>
    obtain ⟨hframe, hwf⟩ := ih (s.storeCrew u q)
    refine ⟨?_, fun h => hwf (s.storeCrew_wf q h)⟩
    exact hframe.trans (congrArg (a₂ := u.setMem (s.storeCrew u q).mem)
      (fun v : State => v.setMem (l.foldl s.storeCrew (s.storeCrew u q)).mem) (s.storeCrew_frame u q))

/-- R2, R264, R294: what a step stores of the backwaters. -/
theorem backwatersStored : Claims.BackwatersStored := by
  intro s t
  obtain ⟨hframe, hwf⟩ := s.foldl_storeCrew t.crews t
  refine ⟨hframe, hwf, storeBackwaters_same, fun c x hc hnew hreg hpair hin => ?_⟩
  have hmem : (s.storeBackwaters t).mem = Memory.putAll t.mem (x.bwBytes cellOf) := by
    have hcond : ((s.crew? c).map Crew.bwHolds == some x.bwHolds || x.region.isNone) = false := by
      rw [beq_false_of_ne hnew, Bool.false_or, Option.isNone_eq_false_iff, Option.isSome_iff_ne_none]
      exact hreg
    rw [storeBackwaters_eq_foldl, hc, List.foldl_cons, List.foldl_nil, State.storeCrew, hcond]
    rfl
  rw [hmem]
  exact ⟨fun b hb => Memory.read_putAll hpair hin t.mem hb, fun a ha => Memory.byte_putAll_out ha t.mem⟩

/-- Settles O60: memory, tokens and frames are little-endian, and the backwaters are written area by area. -/
theorem memoryBytes : Obligations.MemoryBytes := ⟨valueBytes, backwaterBytes, backwatersStored⟩

end Sys2Proof.Machine
end


section
/-! PROOFS. What a read of the control space gives (R437, R438, R402, R418, R422), and the values that reset leaves there. -/

namespace Sys2Proof.Machine

/-! ### The parts of the control space -/

/-- R438: the registers of the module. -/
theorem State.ctlRead_module (s : State) {o : Nat} (ho : o < 0x10000) :
    s.ctlRead (0x10000 + o) = BitVec.ofNat 64 (s.modRead o) := by
  unfold State.ctlRead
  rw [if_neg (by omega), if_neg (by omega), if_pos (by omega), Nat.add_sub_cancel_left]

/-- R438: the owners of the launch queues. -/
theorem State.ctlRead_queue (s : State) {q : Nat} (hq : q < 64) :
    s.ctlRead (0x20000 + 8 * q) = BitVec.ofNat 64 (SMap.get s.lqOwner 0 q).toNat := by
  unfold State.ctlRead
  rw [if_neg (by omega), if_neg (by omega), if_neg (by omega), if_pos (by omega),
    show (0x20000 + 8 * q - 0x20000) / 8 = q by omega]

/-- R438: the block of an address space. -/
theorem State.ctlRead_asid (s : State) {a o : Nat} (ha : a < 4096) (ho : o < 0x400) :
    s.ctlRead (0x100000 + 0x400 * a + o) = BitVec.ofNat 64 (s.asidRead a o) := by
  have hin : (0x100000 ≤ 0x100000 + 0x400 * a + o && 0x100000 + 0x400 * a + o < 0x500000) = true := by
    rw [Bool.and_eq_true, decide_eq_true_eq, decide_eq_true_eq]
    omega
  unfold State.ctlRead
  rw [if_neg (by omega), if_neg (by omega), if_neg (by omega), if_neg (by omega), if_pos hin,
    show (0x100000 + 0x400 * a + o - 0x100000) / 0x400 = a by omega,
    show (0x100000 + 0x400 * a + o - 0x100000) % 0x400 = o by omega]

/-- R438: the block of a cluster. -/
theorem State.ctlRead_cluster (s : State) {cl o : Nat} (hcl : cl < 104) (ho : o < 0x10000) :
    s.ctlRead (0x500000 + 0x10000 * cl + o) = BitVec.ofNat 64 (s.clusterRead cl o) := by
  have hout : ¬ (0x100000 ≤ 0x500000 + 0x10000 * cl + o && 0x500000 + 0x10000 * cl + o < 0x500000) = true := by
    rw [Bool.and_eq_true, decide_eq_true_eq, decide_eq_true_eq]
    omega
  have hin : (0x500000 ≤ 0x500000 + 0x10000 * cl + o && 0x500000 + 0x10000 * cl + o < 0xB80000) = true := by
    rw [Bool.and_eq_true, decide_eq_true_eq, decide_eq_true_eq]
    omega
  unfold State.ctlRead
  rw [if_neg (by omega), if_neg (by omega), if_neg (by omega), if_neg (by omega), if_neg hout, if_pos hin,
    show (0x500000 + 0x10000 * cl + o - 0x500000) / 0x10000 = cl by omega,
    show (0x500000 + 0x10000 * cl + o - 0x500000) % 0x10000 = o by omega]

/-! ### The registers of an address space and of a cluster by their places -/

/-- R422: the three registers of a breakpoint, in order. -/
def Bp.word (b : Bp) (j : Nat) : Dword := if j = 0 then b.ctl else if j = 1 then b.img else b.iter

/-- R422: the breakpoint registers. -/
theorem State.asidRead_bp (s : State) (a : Nat) {k : Nat} (hk : k < 48) : s.asidRead a (0x100 + 8 * k)
    = ((SMap.get (s.asid a).bps Bp.none_ (k / 3)).word (k % 3)).toNat := by
  have hin : (0x100 ≤ 0x100 + 8 * k && 0x100 + 8 * k < 0x280) = true := by
    rw [Bool.and_eq_true, decide_eq_true_eq, decide_eq_true_eq]
    omega
  have hk24 : (0x100 + 8 * k - 0x100) / 24 = k / 3 := by omega
  have hmod : (0x100 + 8 * k - 0x100) % 24 = 8 * (k % 3) := by omega
  dsimp only [State.asidRead]
  rw [if_pos hin, hk24, hmod]
  obtain h | h | h : k % 3 = 0 ∨ k % 3 = 1 ∨ k % 3 = 2 := by omega
  all_goals rw [h]; rfl

section
variable (s : State) (cl : Nat)

/-- R239: the limit of a named queue. -/
theorem State.clusterRead_queue {q : Nat} (hq : q < 64) :
    s.clusterRead cl (0x100 + 8 * q) = (SMap.get (s.cluster cl).qlim 0x08000000 q).toNat := by
  simp only [State.clusterRead, Bool.and_eq_true, decide_eq_true_eq]
  rw [if_neg (by omega), if_neg (by omega), if_neg (by omega), if_neg (by omega), if_pos (by omega),
    show (0x100 + 8 * q - 0x100) / 8 = q by omega]

/-- R313: the limit of a weir. -/
theorem State.clusterRead_weir {i : Nat} (hi : i < 16) :
    s.clusterRead cl (0x300 + 8 * i) = ((s.cluster cl).wlimAt i).toNat := by
  simp only [State.clusterRead, Bool.and_eq_true, decide_eq_true_eq]
  rw [if_neg (by omega), if_neg (by omega), if_neg (by omega), if_pos (by omega),
    show (0x300 + 8 * i - 0x300) / 8 = i by omega]

/-- R438: the ceiling of a place. -/
theorem State.clusterRead_ceiling {p : Nat} (hp : p < 64) :
    s.clusterRead cl (0x400 + 16 * p) = SMap.get (s.cluster cl).fceil 15 p := by
  simp only [State.clusterRead, Bool.and_eq_true, decide_eq_true_eq]
  rw [if_neg (by omega), if_neg (by omega), if_pos (by omega), if_pos (by omega),
    show (0x400 + 16 * p - 0x400) / 16 = p by omega]

/-- R438: the largest firing quantum of a place. -/
theorem State.clusterRead_quantum {p : Nat} (hp : p < 64) :
    s.clusterRead cl (0x408 + 16 * p) = SMap.get (s.cluster cl).fqmax 42 p := by
  simp only [State.clusterRead, Bool.and_eq_true, decide_eq_true_eq]
  rw [if_neg (by omega), if_neg (by omega), if_pos (by omega), if_neg (by omega),
    show (0x408 + 16 * p - 0x400) / 16 = p by omega]

/-- R294: the frames that the backwater of a place holds. -/
theorem State.clusterRead_backwater {p : Nat} (hp : p < 64) :
    s.clusterRead cl (0x800 + 8 * p) = SMap.get (s.cluster cl).bwframes 16384 p := by
  simp only [State.clusterRead, Bool.and_eq_true, decide_eq_true_eq]
  rw [if_neg (by omega), if_pos (by omega), show (0x800 + 8 * p - 0x800) / 8 = p by omega]

end

/-! ### After reset -/

theorem reset_cluster (cl : Nat) : State.reset.cluster cl = Cluster.init := rfl

theorem reset_asid (a : Nat) : State.reset.asid a = Asid.init := rfl

/-- R9: the site of a logical cluster, which no spare has taken. -/
theorem reset_siteOf (cl : Nat) : State.reset.siteOf cl = 16 * (if cl % 13 < (Config.spareSite (cl / 13)).val then cl % 13
    else cl % 13 + 1) + cl / 13 := by
  rw [Nat.mul_comm]
  rfl

/-- R422: no breakpoint is set. -/
theorem reset_bp (a k : Nat) (hk : k < 48) : State.reset.asidRead a (0x100 + 8 * k) = 0 := by
  rw [State.asidRead_bp _ _ hk, reset_asid, Bp.word]
  change BitVec.toNat (if k % 3 = 0 then (0 : Dword) else if k % 3 = 1 then 0 else 0) = 0
  rw [ite_self, ite_self]
  rfl

/-- R402: no ostler has been moved, and the ring has no size. -/
theorem reset_frqctl (a : Nat) : State.reset.asidRead a 0x10 = 0 := by
  have hos : State.reset.ostlerOf a = 0 := by simp [State.ostlerOf, State.reset, State.asid, SMap.get, Asid.init]
  change Asid.frqctl (State.reset.asid a) (State.reset.ostlerOf a) = 0
  rw [hos, reset_asid]
  rfl

/-- R402: the ring holds nothing. -/
theorem reset_frqptr (a : Nat) : State.reset.asidRead a 0x18 = 0 := by
  change (State.reset.asid a).tail.toNat * 2 ^ 16 + (State.reset.asid a).head.toNat = 0
  simp [reset_asid, Asid.init]

/-- Settles O54: each register is found by its place in the control space, and holds what reset leaves there. -/
theorem resetState : Obligations.ResetState := by
  refine ⟨reset_inv, fun cl hcl => ?_, fun a ha => ?_, fun q hq => ?_, rfl, rfl, rfl, rfl, rfl, rfl, rfl, rfl⟩
  · have hat {o : Nat} (ho : o < 0x10000) := State.reset.ctlRead_cluster hcl ho
    dsimp only
    refine ⟨?_, ?_, ?_, ?_, ?_, fun q hq => ?_, fun i hi => ?_, fun p hp => ⟨?_, ?_, ?_⟩⟩
    · rw [hat (by omega)]; rfl
    · rw [hat (by omega)]; rfl
    · rw [hat (by omega)]; rfl
    · rw [hat (by omega)]; rfl
    · rw [hat (by omega), ← reset_siteOf]; rfl
    · rw [hat (by omega), State.clusterRead_queue _ _ hq]; rfl
    · rw [hat (by omega), State.clusterRead_weir _ _ hi]; rfl
    · rw [hat (by omega), State.clusterRead_ceiling _ _ hp]; rfl
    · rw [hat (by omega), State.clusterRead_quantum _ _ hp]; rfl
    · rw [hat (by omega), State.clusterRead_backwater _ _ hp]; rfl
  · have hat {o : Nat} (ho : o < 0x400) := State.reset.ctlRead_asid ha ho
    dsimp only
    refine ⟨?_, ?_, ?_, ?_, ?_, ?_, fun k hk => ?_⟩
    · rw [hat (by omega)]; rfl
    · rw [hat (by omega), reset_frqctl]; rfl
    · rw [hat (by omega), reset_frqptr]; rfl
    · rw [hat (by omega)]; rfl
    · rw [hat (by omega)]; rfl
    · rw [hat (by omega)]; rfl
    · rw [hat (by omega), reset_bp _ _ hk]; rfl
  · rw [State.ctlRead_queue _ hq]; rfl

end Sys2Proof.Machine
end


section
/-! PROOFS. The conversions and the other words of class 2 complete (R128 to R146): a conversion changes one part of each
container, and every test comes before any effect (R135, R142). -/

namespace Sys2Proof.Machine

/-! ### A walk that changes each lane's own container -/

/-- R86: the container of type `ty` at D, from the registers of one lane. -/
def contOf (ty : BitVec 2) (D : Nat) (g : Nat → Word) : Nat := if ty == 1 then (g (D + 1) ++ g D).toNat else (g D).toNat

theorem Wave.rdT_eq_contOf (x : Wave) (ty : BitVec 2) (D l : Nat) : x.rdT ty D l = contOf ty D (fun r => x.rdV r l) := rfl

/-- A walk that gives each active lane a container computed from what the lane held. -/
theorem foldLanes_wrT_change (act : Word) (ty : BitVec 2) (D : Nat) (val : Nat → Nat → Nat) (x : Wave) :
    LanesAre act ty D (fun l => val l (x.rdT ty D l)) x
      (foldLanes act (fun l a => a.wrT ty D l (val l (a.rdT ty D l))) x) := by
  refine ⟨foldLanes_v (fun l y => Wave.wrT_v y ty D l _) x, fun r l hl => ?_⟩
  have h := foldLanes_lane act (fun l a => a.wrT ty D l (val l (a.rdT ty D l))) (fun m (y : Wave) r => y.rdV r m)
    (fun m old r => if r == D then BitVec.ofNat 32 (val m (contOf ty D old))
      else if ty == 1 && r == D + 1 then BitVec.ofNat 32 (val m (contOf ty D old) / 2 ^ 32) else old r)
    (fun l y hl => funext fun r => by rw [Wave.rdV_wrT _ _ _ _ _ _ _ hl hl, if_pos rfl, Wave.rdT_eq_contOf])
    (fun l m y hl hm hne => funext fun r => by rw [Wave.rdV_wrT _ _ _ _ _ _ _ hl hm, if_neg hne])
    x l hl
  refine (congrFun h r).trans ?_
  cases act.getLsbD l <;> simp [Wave.rdT_eq_contOf]

/-- The same walk, which joins flags as well. -/
theorem foldLanes_wrT_change_flags (act : Word) (ty : BitVec 2) (D : Nat) (val : Nat → Nat → Nat) (fl : Nat → Fl)
    (x : Wave) : LanesAreFl act ty D (fun l => val l (x.rdT ty D l)) fl x
      (foldLanes act (fun l a => (a.wrT ty D l (val l (a.rdT ty D l))).orFlags (fl l)) x) := by
  refine ⟨?_, foldLanes_flags act (fun l a => a.wrT_fcsr ty D l _) fl x⟩
  rw [foldLanes_under_flags act (g := fun l a => a.wrT ty D l (val l (a.rdT ty D l)))
    (fun l a c => a.wrT_under_fcsr ty D l _ c)]
  exact foldLanes_wrT_change act ty D val x

/-! ### Conversions -/

/-- The elements that an instruction is active in, each with its wave and its lane. -/
theorem Ctx.mem_elems {k : Ctx} {s : State} {pm : BitVec 3} {pn : Bool} {q : Nat × Wave × Nat} (h : q ∈ k.elems s pm pn) :
    ∃ v ∈ k.waves, s.wave? v = some q.2.1 ∧ q.2.2 < 32 ∧ (k.act pm pn v q.2.1).getLsbD q.2.2 = true := by
  obtain ⟨⟨v, x⟩, hvx, hq⟩ := List.mem_flatMap.mp h
  obtain ⟨u, hu, hx⟩ := List.mem_filterMap.mp hvx
  obtain ⟨y, hy, heq⟩ := Option.map_eq_some_iff.mp hx
  obtain ⟨rfl, rfl⟩ := Prod.mk.inj heq
  obtain ⟨l, hl, rfl⟩ := List.mem_map.mp hq
  obtain ⟨hrange, hact⟩ := List.mem_filter.mp hl
  exact ⟨u, hu, hy, List.mem_range.mp hrange, hact⟩

/-- R135: with no cause of a format fault the tests find nothing. -/
theorem cvt_firstErr {f : KF} {k : Ctx} (h : Claims.cvtFits f k) :
    firstErr [fmtInvalid k.c (KF.fs f), fmtInvalid k.c (KF.fd f), partLimit k.c (KF.fs f) (KF.ps f),
      pairLimit k (KF.fs f) f.a, partLimit k.c (KF.fd f) (KF.pd f), pairLimit k (KF.fd f) f.d] = none := by
  obtain ⟨hfs, hfd, hps, hpd, ha, hd⟩ := h
  rw [hfs, hfd, hps, hpd, ha, hd]
  rfl

/-- R142, R143: a conversion of which no element faults writes its results. -/
theorem convOp_done {c : Conv} {f : KF} {k : Ctx} {s : State} (hfit : Claims.cvtFits f k)
    (hno : (k.elems s f.pm f.pn).find? (fun q => (convLane c f k q.2.1 q.2.2).fault) = none) :
    convOp c f k s = .done (onLanesFl f k s (fun x l =>
      (fun a => a.wrT (contTy (k.c.fmtEntry (KF.fd f).toNat)) (KF.D f) l (putPart (k.c.fmtEntry (KF.fd f).toNat) (KF.pd f)
        (convLane c f k x l).pat (a.rdT (contTy (k.c.fmtEntry (KF.fd f).toNat)) (KF.D f) l)), (convLane c f k x l).fl))) := by
  simp only [convOp, cvt_firstErr hfit, hno]

/-- R142: the body of a conversion. -/
theorem exec_cvtWord {i : Instr} {f : KF} {c : Conv} (h : Claims.cvtWord i = some (f, c)) (s : State) :
    exec i s = issueCore i s (convOp c f) := by
  cases i with
  | cvt | sclq | scld =>
    cases h
    rfl
  | _ => cases h

/-- Settles O8: the tests find nothing, and the walk changes part PD of each active lane's container. -/
theorem convertWords : Obligations.ConvertWords := by
  intro i f c hi s k h hfit hflt
  have hno : (k.elems s.unfocused f.pm f.pn).find? (fun q => (convLane c f k q.2.1 q.2.2).fault) = none := by
    refine List.find?_eq_none.mpr fun q hq => ?_
    obtain ⟨v, hv, hx, hl, hact⟩ := Ctx.mem_elems hq
    rw [hflt v q.2.1 q.2.2 hv hx hl hact]
    exact Bool.false_ne_true
  refine ⟨_, completes_of_done (exec_cvtWord hi s) h (convOp_done hfit hno), ?_⟩
  exact each_foldLanes k _ _ _ fun v x => foldLanes_wrT_change_flags (k.on f v x) _ _ _ _ x

/-! ### FMTW, FMTR, FMTQ, BSCL and NDOT -/

/-- One change of a crew after another. -/
theorem State.modCrew_modCrew {s : State} {c : CrewId} {x : Crew} (f g : Crew → Crew) (h : s.crew? c = some x) :
    (s.modCrew c f).modCrew c g = s.setCrew c (g (f x)) := by
  have hset : (s.setCrew c (f x)).crew? c = some (f x) := Tab.get?_set_self s.crews c (f x)
  rw [State.modCrew_some f h, State.modCrew_some g hset, State.setCrew_setCrew]

theorem MayRun.crew?_unfocused {i : Instr} {s : State} {k : Ctx} (h : MayRun i s k) :
    s.unfocused.crew? k.w.crew = some k.c := ctx_crew h.ctx

/-- R129: FMTW writes the entry, and none of the wave waits any more. -/
theorem fmtwOp_done {f : KF} {k : Ctx} {s : State} (hc : s.crew? k.w.crew = some k.c)
    (hn : k.c.matrixNames (KF.entry f) = false) (hl : ((k.wv.rdS (KF.A f)).extractLsb' 0 32).getLsbD 31 = false
      ∨ fmtLegal ((k.wv.rdS (KF.A f)).extractLsb' 0 32) = true) :
    fmtwOp f k s = .done (s.setCrew k.w.crew { k.c with
      fmt := SMap.set k.c.fmt 0 (KF.entry f) ((k.wv.rdS (KF.A f)).extractLsb' 0 32)
      fmtw := k.c.fmtw.filter (fun x => !(x.gang == k.w.gang && x.wave == k.w.wave)) }) := by
  have hill : (((k.wv.rdS (KF.A f)).extractLsb' 0 32).getLsbD 31 && !fmtLegal ((k.wv.rdS (KF.A f)).extractLsb' 0 32))
      = false := by
    rcases hl with h | h <;> rw [h]
    · rfl
    · exact Bool.and_false _
  simp only [fmtwOp, hn, hill, Bool.false_eq_true, if_false, State.fmtWait]
  rw [State.modCrew_modCrew _ _ hc]

theorem fmtInvalid_of_valid {c : Crew} {n : BitVec 6} (h : (c.fmtEntry n.toNat).getLsbD 31 = true) :
    fmtInvalid c n = none := if_pos h

section
variable {f : KF} {k : Ctx} {s : State}

/-- R141: FMTQ of a valid entry. -/
theorem fmtqOp_done (h : (k.c.fmtEntry (KF.entry f)).getLsbD 31 = true) : fmtqOp f k s
    = .done (onWave k s (fun x => x.wrS (KF.D f) (BitVec.ofNat 64 (fmtProp (k.c.fmtEntry (KF.entry f)) (fld f.x 2 0))))) := by
  have hnone : fmtInvalid k.c (f.c.extractLsb' 0 6) = none := fmtInvalid_of_valid h
  rw [fmtqOp, hnone]

/-- R144: BSCL where no cause of a format fault holds. -/
theorem bsclOp_done (hfs : fmtInvalid k.c (KF.fs f) = none) (hfd : fmtInvalid k.c (KF.fd f) = none)
    (hps : partLimit k.c (KF.fs f) (KF.ps f) = none) (ha : pairLimit k (KF.fs f) f.a = none) : bsclOp f k s
    = .done (k.each s (fun v x => foldLanes (k.on f v x)
        (fun l a => a.wrT 0 (KF.D f) l (bsclWave f k (k.on f v x) x)) x)) := by
  rw [bsclOp, hfs, hfd, hps, ha]
  rfl

/-- R145: NDOT where no cause of a format fault holds. -/
theorem ndotOp_done (hfs : fmtInvalid k.c (KF.fs f) = none) (hok : narrowOk (k.c.fmtEntry (KF.fs f).toNat) = true) :
    ndotOp f k s = .done (onLanesFl f k s (fun x l =>
      (fun a => a.wrV (KF.D f) l (BitVec.ofNat 32 (ndotVal (k.c.fmtEntry (KF.fs f).toNat) (fmtMode f x)
        (x.rdV (KF.A f) l).toNat (opB f k.wv x l) (x.rdV f.c.toNat l).toNat).1),
       (ndotVal (k.c.fmtEntry (KF.fs f).toNat) (fmtMode f x) (x.rdV (KF.A f) l).toNat (opB f k.wv x l)
        (x.rdV f.c.toNat l).toNat).2))) := by
  rw [ndotOp, hfs, hok]
  rfl

end

/-- R145: a register written lane by lane, with flags. -/
theorem onLanesFl_wrV (f : KF) (k : Ctx) (s : State) (D : Nat) (r : Wave → Nat → Nat × Fl) :
    OnWaves k s (onLanesFl f k s (fun x l => (fun a => a.wrV D l (BitVec.ofNat 32 (r x l).1), (r x l).2)))
      (fun v x y => LanesAreFl (k.on f v x) 0 D (fun l => (r x l).1) (fun l => (r x l).2) x y) :=
  onLanesFl_wrT f k s 0 D r

/-- Settles O9: each word passes its tests, and writes its entry, its register of the issuing wave, or its lanes. -/
theorem formatWords : Obligations.FormatWords := by
  refine ⟨fun f s k h hn hl => ?_, fun f s k h => ⟨_, completes_of_done rfl h rfl, ?_⟩,
    fun f s k h hv => ?_, fun f s k h hfs hfd hps ha => ?_, fun f s k h hfs hok => ?_⟩
  · exact completes_of_done rfl h (fmtwOp_done h.crew?_unfocused hn hl)
  · exact onWave_onIssuer _ h.wave?_unfocused
  · have hbody := fmtqOp_done (s := s.unfocused) hv
    exact ⟨_, completes_of_done rfl h hbody, onWave_onIssuer _ h.wave?_unfocused⟩
  · refine ⟨_, completes_of_done rfl h (bsclOp_done hfs hfd hps ha), ?_⟩
    exact each_foldLanes k _ _ _ fun v x => foldLanes_wrT (k.on f v x) 0 (KF.D f) _ x
  · exact ⟨_, completes_of_done rfl h (ndotOp_done hfs hok), onLanesFl_wrV f k _ _ _⟩

end Sys2Proof.Machine
end


section
/-! PROOFS. The words of class 3 that move values between elements and that work on masks and VL complete (R148 to R162,
R164): every source is read before any result is written (R151). -/

namespace Sys2Proof.Machine

/-! ### Elements -/

/-- R151: each active element for which there is a value receives it. -/
theorem putElems_lanes (f : KF) (k : Ctx) (s : State) (g : Nat → Option Nat) :
    OnWaves k s (putElems f k s g)
      (fun v x y => LanesMayBe (k.on f v x) f.ty (KF.D f) (fun l => g (k.elemOf v l)) x y) :=
  (k.each_onWaves s _).mono fun v x _ hy =>
    hy ▸ foldLanes_opt (k.on f v x) f.ty (KF.D f) (fun l => g (k.elemOf v l)) x

/-- Each active element for which there is a bit receives it in the mask. -/
theorem putMask_lanes (f : KF) (k : Ctx) (s : State) (g : Nat → Option Bool) :
    OnWaves k s (putMask f k s g) (fun v x y => MaskIs (k.on f v x) (KF.D f) (fun l => g (k.elemOf v l)) x y) :=
  (k.each_onWaves s _).mono fun v x _ hy => hy ▸ foldLanes_mask (k.on f v x) (KF.D f) (fun l => g (k.elemOf v l)) x

/-- R150: a span starts at or before each of its elements. -/
theorem Ctx.span_le (k : Ctx) (grp : Bool) (e : Nat) : (k.span grp e).1 ≤ e := by
  unfold Ctx.span
  split
  · exact Nat.zero_le e
  · split
    · exact Nat.div_mul_le_self e 32
    · exact Nat.zero_le e

section
variable (f : KF) (k : Ctx) (s : State)

/-- R156: the index of SHFL and BCAST. -/
theorem shuffleOp_idx : shuffleOp .idx f k s = putElems f k s (fun e =>
    some (Claims.fromPos f k s e (Claims.indexIn f k (laneCount f k s e)) 0)) := by
  unfold shuffleOp
  refine congrArg (putElems f k s) (funext fun e => congrArg some ?_)
  have hidx : (if (!k.vec || KF.grp f) = true then laneCount f k s e % 32 else laneCount f k s e % 256)
      = Claims.indexIn f k (laneCount f k s e) := by
    unfold Claims.indexIn
    cases k.vec <;> cases KF.grp f <;> rfl
  simp only [shufflePos, hidx, Claims.fromPos, Claims.spanSize, Claims.baseOf]
  by_cases hq : Claims.indexIn f k (laneCount f k s e) < (k.span (KF.grp f) e).2 <;>
    simp only [hq, if_true, if_false, Bool.false_eq_true]

/-- R156: the source of SHFLUP. -/
theorem shuffleOp_up : shuffleOp .up f k s = putElems f k s (fun e =>
    some (if laneCount f k s e ≤ Claims.posIn f k e
      then k.rdE s f.ty (KF.A f) (Claims.baseOf f k e + (Claims.posIn f k e - laneCount f k s e))
      else k.rdE s f.ty (KF.A f) e)) := by
  unfold shuffleOp
  refine congrArg (putElems f k s) (funext fun e => congrArg some ?_)
  simp only [shufflePos, Claims.posIn, Claims.baseOf]
  by_cases hq : laneCount f k s e ≤ e - (k.span (KF.grp f) e).1 <;> simp only [hq, if_true, if_false]

/-- R156: the source of SHFLDN. -/
theorem shuffleOp_dn : shuffleOp .dn f k s = putElems f k s (fun e =>
    some (Claims.fromPos f k s e (Claims.posIn f k e + laneCount f k s e) (k.rdE s f.ty (KF.A f) e))) := by
  unfold shuffleOp
  refine congrArg (putElems f k s) (funext fun e => congrArg some ?_)
  simp only [shufflePos, Claims.fromPos, Claims.posIn, Claims.spanSize, Claims.baseOf]
  by_cases hq : e - (k.span (KF.grp f) e).1 + laneCount f k s e < (k.span (KF.grp f) e).2 <;>
    simp only [hq, if_true, if_false]

/-- R156: the source of SHFLX. -/
theorem shuffleOp_xor : shuffleOp .xor f k s = putElems f k s (fun e =>
    some (Claims.fromPos f k s e (Claims.posIn f k e ^^^ (laneCount f k s e % 256)) (k.rdE s f.ty (KF.A f) e))) := by
  unfold shuffleOp
  refine congrArg (putElems f k s) (funext fun e => congrArg some ?_)
  simp only [shufflePos, Claims.fromPos, Claims.posIn, Claims.spanSize, Claims.baseOf]
  by_cases hq : (e - (k.span (KF.grp f) e).1) ^^^ (laneCount f k s e % 256) < (k.span (KF.grp f) e).2 <;>
    simp only [hq, if_true, if_false]

/-- R159: IOTA counts from operand B. -/
theorem iotaOp_eq : iotaOp f k s = putElems f k s (fun e =>
    some ((opB f k.wv (k.ofElem s e) (e % 32) + Claims.posIn f k e) % 2 ^ partW f.ty)) := by
  refine congrArg (putElems f k s) (funext fun e => congrArg some ?_)
  have hle := k.span_le (KF.grp f) e
  rw [← Nat.cast_sub hle, ← Nat.cast_add, wrap, ← Int.natCast_mod, Int.toNat_natCast]
  rfl

end

/-- R156 to R159: the body of a word that moves values gives each element what its rule picks. -/
theorem exec_moveWord {i : Instr} {f : KF} {g : Ctx → State → Nat → Option Nat} (h : Claims.moveWord i = some (f, g))
    (s : State) : ∃ body, exec i s = issueCore i s body ∧ ∀ k s, body k s = .done (putElems f k s (g k s)) := by
  cases i with
  | shfl | bcast =>
    cases h
    exact ⟨_, rfl, fun k s => congrArg Res.done (shuffleOp_idx _ k s)⟩
  | shflup =>
    cases h
    exact ⟨_, rfl, fun k s => congrArg Res.done (shuffleOp_up _ k s)⟩
  | shfldn =>
    cases h
    exact ⟨_, rfl, fun k s => congrArg Res.done (shuffleOp_dn _ k s)⟩
  | shflx =>
    cases h
    exact ⟨_, rfl, fun k s => congrArg Res.done (shuffleOp_xor _ k s)⟩
  | iota =>
    cases h
    exact ⟨_, rfl, fun k s => congrArg Res.done (iotaOp_eq _ k s)⟩
  | slide | cmpr | expd =>
    cases h
    exact ⟨_, rfl, fun k s => rfl⟩
  | _ => cases h

/-- What an element receives depends on the waves alone. -/
theorem moveWord_unfocused {i : Instr} {f : KF} {g : Ctx → State → Nat → Option Nat}
    (h : Claims.moveWord i = some (f, g)) (k : Ctx) (s : State) : g k s.unfocused = g k s := by
  cases i with
  | shfl | bcast | shflup | shfldn | shflx | slide | cmpr | expd | iota =>
    cases h
    rfl
  | _ => cases h

/-- Settles O10: the body of each word is one write of the active elements, from the waves as they stood at issue. -/
theorem moveWords : Obligations.MoveWords := by
  intro i f g hi s k h
  obtain ⟨body, he, hbody⟩ := exec_moveWord hi s
  rw [← moveWord_unfocused hi k s]
  exact ⟨_, completes_of_done he h (hbody k s.unfocused), putElems_lanes f k s.unfocused (g k s.unfocused)⟩

/-! ### Masks -/

/-- R162: the bits that MSK combines. -/
theorem mskOp_eq (f : KF) (k : Ctx) (s : State) : mskOp f k s = putMask f k s (fun e =>
    some (mskBit (fld f.c 2 0) (k.rdMe s (KF.A f) e)
      (match f.b with | .v r => k.rdMe s r.toNat e | _ => k.rdMe s 0 e))) := by
  unfold mskOp
  cases f.b <;> rfl

section
variable {i : Instr} {f : KF} {g : Ctx → State → Nat → Option Bool} (h : Claims.maskWord i = some (f, g))
include h

/-- R160 to R162: the body of a word on masks gives each element the bit of its rule. -/
theorem exec_maskWord (s : State) :
    ∃ body, exec i s = issueCore i s body ∧ ∀ k s, body k s = .done (putMask f k s (g k s)) := by
  cases i with
  | vote | mset =>
    cases h
    exact ⟨_, rfl, fun k s => rfl⟩
  | msk f =>
    cases h
    exact ⟨_, rfl, fun k s => congrArg Res.done (mskOp_eq f k s)⟩
  | _ => cases h

theorem maskWord_unfocused (k : Ctx) (s : State) : g k s.unfocused = g k s := by
  cases i with
  | vote | mset | msk =>
    cases h
    rfl
  | _ => cases h

end

/-! ### Uniform results -/

section
variable {i : Instr} {f : KF} {g : Ctx → State → Dword} (h : Claims.lanesToS i = some (f, g))
include h

/-- R156, R160, R162, R164: the body of a word with one uniform result writes S[D]. -/
theorem exec_lanesToS (s : State) : ∃ body, exec i s = issueCore i s body
    ∧ ∀ k s, body k s = .done (onWave k s (fun x => x.wrS (KF.D f) (g k s))) := by
  cases i with
  | v2s | mpop | mff | getvl =>
    cases h
    exact ⟨_, rfl, fun k s => rfl⟩
  | _ => cases h

theorem lanesToS_unfocused (k : Ctx) (s : State) : g k s.unfocused = g k s := by
  cases i with
  | v2s | mpop | mff | getvl =>
    cases h
    rfl
  | _ => cases h

end

/-- A number gathered bit by bit, the lowest first. -/
def gather (p : Nat → Bool) (ls : List Nat) : Nat := ls.foldr (fun i a => 2 * a + if p i then 1 else 0) 0

theorem testBit_gather (p : Nat → Bool) (n a j : Nat) :
    (gather p (List.range' a n)).testBit j = (decide (j < n) && p (a + j)) := by
  induction n generalizing a j with
  | zero => simp [gather]
  | succ n ih =>
    have hcons : gather p (List.range' a (n + 1)) = 2 * gather p (List.range' (a + 1) n) + (p a).toNat := by
      cases h : p a <;> simp [gather, List.range'_succ, h]
    rw [hcons]
    cases j with
    | zero => cases p a <;> simp [Nat.testBit_zero]
    | succ j =>
      rw [Nat.testBit_succ, show (2 * gather p (List.range' (a + 1) n) + (p a).toNat) / 2
        = gather p (List.range' (a + 1) n) by have := (p a).toNat_lt; omega, ih, show a + 1 + j = a + (j + 1) by omega]
      simp

/-- R160: what BALLOT gathers. -/
def ballotBits (f : KF) (k : Ctx) (s : State) : Dword :=
  BitVec.ofNat 64 (gather (fun i => k.rdMe s (KF.A f) (64 * fld f.c 1 0 + i) && k.isAct s f.pm f.pn (64 * fld f.c 1 0 + i))
    (List.range (if k.vec then 64 else 32)))

theorem ballotOp_eq (f : KF) (k : Ctx) (s : State) :
    ballotOp f k s = onWave k s (fun x => x.wrS (KF.D f) (ballotBits f k s)) := rfl

theorem getLsbD_ballotBits (f : KF) (k : Ctx) (s : State) (i : Nat) : (ballotBits f k s).getLsbD i
    = (decide (i < if k.vec then 64 else 32) && k.rdMe s (KF.A f) (64 * fld f.c 1 0 + i)
      && k.isAct s f.pm f.pn (64 * fld f.c 1 0 + i)) := by
  have hlt : (if k.vec then 64 else 32) ≤ 64 := by split <;> omega
  rw [ballotBits, BitVec.getLsbD_ofNat, List.range_eq_range', testBit_gather, Nat.zero_add, ← Bool.and_assoc,
    ← Bool.and_assoc]
  congr 2
  rw [← Bool.decide_and, decide_eq_decide]
  exact ⟨fun h => h.2, fun h => ⟨by omega, h⟩⟩

/-- R164: SETVL writes the vector length and S[D]. -/
theorem setvlOp_eq {f : KF} {k : Ctx} {s : State} (hg : s.gang? k.gid = some k.g) (hw : s.wave? k.w = some k.wv) :
    setvlOp f k s = (s.setGang k.gid { k.g with vl := min (opS f k.wv).toNat 256 }).setWave k.w
      (k.wv.wrS (KF.D f) (BitVec.ofNat 64 (min (opS f k.wv).toNat 256))) := by
  dsimp only [setvlOp]
  rw [State.modGang_some _ hg]
  exact State.modWave_some _ hw

/-- Settles O11: each body is one write of a mask in the active elements, or of a register of the issuing wave. -/
theorem maskWords : Obligations.MaskWords := by
  refine ⟨fun i f g hi s k h => ?_, fun i f g hi s k h => ?_, fun f s k h => ?_, fun f s k h => ?_⟩
  · obtain ⟨body, he, hbody⟩ := exec_maskWord hi s
    rw [← maskWord_unfocused hi k s]
    exact ⟨_, completes_of_done he h (hbody k s.unfocused), putMask_lanes f k s.unfocused (g k s.unfocused)⟩
  · obtain ⟨body, he, hbody⟩ := exec_lanesToS hi s
    rw [← lanesToS_unfocused hi k s]
    exact ⟨_, completes_of_done he h (hbody k s.unfocused), onWave_onIssuer _ h.wave?_unfocused⟩
  · exact ⟨_, ballotBits f k s.unfocused, completes_of_done rfl h rfl,
      onWave_onIssuer (fun x => x.wrS (KF.D f) (ballotBits f k s.unfocused)) h.wave?_unfocused,
      getLsbD_ballotBits f k s.unfocused⟩
  · exact completes_of_done rfl h (congrArg Res.done (setvlOp_eq (ctx_gang h.ctx) h.wave?_unfocused))

end Sys2Proof.Machine
end


section
/-! PROOFS. RED and SCAN complete, and what the integer operations give (R163): the walk over a span keeps, of the elements
it has met, the result so far. -/

namespace Sys2Proof.Machine

/-! ### A walk that gives some lanes a value and flags -/

section
variable (act : Word) (ty : BitVec 2) (D : Nat) (o : Nat → Option (Nat × Fl)) (x : Wave)

/-- Write the value that there is for a lane. -/
def Wave.wrOpt (a : Wave) (l : Nat) (v : Option Nat) : Wave :=
  match v with
  | some y => a.wrT ty D l y
  | none => a

theorem Wave.wrOpt_fcsr (a : Wave) (l : Nat) (v : Option Nat) : (Wave.wrOpt ty D a l v).fcsr = a.fcsr := by
  cases v with
  | none => rfl
  | some y => exact a.wrT_fcsr ty D l y

theorem Wave.wrOpt_under_fcsr (a : Wave) (l : Nat) (v : Option Nat) (c : Word) :
    ({ Wave.wrOpt ty D a l v with fcsr := c } : Wave) = Wave.wrOpt ty D { a with fcsr := c } l v := by
  cases v with
  | none => rfl
  | some y => exact a.wrT_under_fcsr ty D l y c

/-- A lane without a value joins no flags. -/
theorem wrOpt_orFlags (a : Wave) (l : Nat) (q : Option (Nat × Nat × Fl)) :
    (match q with | some p => (a.wrT ty D l p.2.1).orFlags p.2.2 | none => a)
      = (Wave.wrOpt ty D a l ((q.map Prod.snd).map Prod.fst)).orFlags (((q.map Prod.snd).map Prod.snd).getD 0) := by
  cases q with
  | none => exact (Wave.orFlags_zero a).symm
  | some p => rfl

theorem foldLanes_wrOpt_flags :
    let y := foldLanes act (fun l a => (Wave.wrOpt ty D a l ((o l).map Prod.fst)).orFlags (((o l).map Prod.snd).getD 0)) x
    LanesMayBe act ty D (fun l => (o l).map Prod.fst) x { y with fcsr := x.fcsr }
    ∧ FlagsJoin act (fun l => ((o l).map Prod.snd).getD 0) x y := by
  refine ⟨?_, foldLanes_flags act (fun l a => Wave.wrOpt_fcsr ty D a l _) _ x⟩
  rw [foldLanes_under_flags act (g := fun l a => Wave.wrOpt ty D a l ((o l).map Prod.fst))
    (fun l a c => Wave.wrOpt_under_fcsr ty D a l _ c)]
  exact foldLanes_opt act ty D (fun l => (o l).map Prod.fst) x

end

/-- R163: the lanes of each wave receive what the walks have gathered. -/
theorem redOp_lanes (scan : Bool) (f : KF) (k : Ctx) (s : State) :
    let r (v : WaveId) (l : Nat) := ((Claims.redOuts scan f k s).find? (fun o => o.1 == k.elemOf v l)).map Prod.snd
    OnWaves k s (redOp scan f k s) (fun v x y =>
      LanesMayBe (k.on f v x) f.ty (KF.D f) (fun l => (r v l).map Prod.fst) x { y with fcsr := x.fcsr }
      ∧ FlagsJoin (k.on f v x) (fun l => ((r v l).map Prod.snd).getD 0) x y) := by
  intro r
  refine (k.each_onWaves s _).mono fun v x y hy => ?_
  have hwalk : y = foldLanes (k.on f v x) (fun l a =>
      (Wave.wrOpt f.ty (KF.D f) a l ((r v l).map Prod.fst)).orFlags (((r v l).map Prod.snd).getD 0)) x := by
    rw [hy]
    exact congrArg (fun g => foldLanes (k.on f v x) g x) (funext fun l => funext fun a => wrOpt_orFlags f.ty (KF.D f) a l _)
  rw [hwalk]
  exact foldLanes_wrOpt_flags (k.on f v x) f.ty (KF.D f) (r v) x

theorem exec_redWord {i : Instr} {f : KF} {scan : Bool} (h : Claims.redWord i = some (f, scan)) (s : State) :
    exec i s = issueCore i s (fun k s => .done (redOp scan f k s)) := by
  cases i with
  | red | scan =>
    cases h
    rfl
  | _ => cases h

/-- Settles O12: the walks over the spans gather what each element receives, and one walk over the lanes writes it. -/
theorem reduceWords : Obligations.ReduceWords := fun _ f scan hi s k h =>
  ⟨_, completes_of_done (exec_redWord hi s) h rfl, redOp_lanes scan f k s.unfocused⟩

/-! ### The integer operations -/

/-- R163: what makes an operation one of the integer reductions over numbers of `w` bits. -/
structure IntRop (rop : Nat) (ty : BitVec 2) (I : Nat) (op : Nat → Nat → Nat) : Prop where
  step : ∀ mode a x, a < 2 ^ partW ty → x < 2 ^ partW ty → ropStep rop ty mode a x = (op a x, 0)
  canon : ∀ mode x, ropCanon rop ty mode x = (x, 0)
  start : ropId rop ty = I
  bound : ∀ a x, a < 2 ^ partW ty → x < 2 ^ partW ty → op a x < 2 ^ partW ty
  unit : ∀ x, x < 2 ^ partW ty → op I x = x

theorem partW_pos (ty : BitVec 2) : 0 < partW ty := by
  unfold partW
  split <;> decide

/-- R5: the signed order of numbers is that of the patterns. -/
theorem sgn_lt_iff {w a b : Nat} (hw : 0 < w) (ha : a < 2 ^ w) (hb : b < 2 ^ w) :
    sgn w a < sgn w b ↔ (BitVec.ofNat w a).slt (BitVec.ofNat w b) = true := by
  rw [BitVec.slt, decide_eq_true_eq, ← sgn_toNat hw, ← sgn_toNat hw, BitVec.toNat_ofNat, BitVec.toNat_ofNat,
    Nat.mod_eq_of_lt ha, Nat.mod_eq_of_lt hb]

theorem sgn_max {w x : Nat} (hw : 0 < w) (hlt : x < 2 ^ w) (h : ¬ sgn w x < sgn w (2 ^ (w - 1) - 1)) :
    x = 2 ^ (w - 1) - 1 := by
  have h2 : 2 ^ w = 2 * 2 ^ (w - 1) := by rw [← Nat.pow_succ', Nat.succ_eq_add_one, Nat.sub_add_cancel hw]
  have hp : 0 < 2 ^ (w - 1) := Nat.two_pow_pos _
  simp only [sgn, h2] at h hlt
  generalize 2 ^ (w - 1) = p at *
  split at h <;> split at h <;> omega

theorem sgn_min {w x : Nat} (hw : 0 < w) (h : ¬ sgn w (2 ^ (w - 1)) < sgn w x) :
    x = 2 ^ (w - 1) := by
  have h2 : 2 ^ w = 2 * 2 ^ (w - 1) := by rw [← Nat.pow_succ', Nat.succ_eq_add_one, Nat.sub_add_cancel hw]
  have hp : 0 < 2 ^ (w - 1) := Nat.two_pow_pos _
  simp only [sgn, h2] at h
  generalize 2 ^ (w - 1) = p at *
  split at h <;> split at h <;> omega

theorem intRop_spec {rop I : Nat} {ty : BitVec 2} {op : Nat → Nat → Nat}
    (h : Claims.intRop (partW ty) rop = some (I, op)) : IntRop rop ty I op := by
  have hw := partW_pos ty
  have hp : 0 < 2 ^ partW ty := Nat.two_pow_pos _
  have hp1 : 2 ^ (partW ty - 1) < 2 ^ partW ty := Nat.pow_lt_pow_right (by omega) (by omega)
  unfold Claims.intRop at h
  split at h
  case h_1 =>
    cases h
    refine ⟨fun m a x ha hx => ?_, fun m x => rfl, rfl, fun a x ha hx => Nat.mod_lt _ hp, fun x hx => ?_⟩
    · have hwrap : wrap (partW ty) (a + x) = (a + x) % 2 ^ partW ty := by
        rw [wrap, ← Nat.cast_add, ← Int.natCast_mod, Int.toNat_natCast]
      exact congrArg (·, 0) hwrap
    · rw [Nat.zero_add, Nat.mod_eq_of_lt hx]
  case h_2 =>
    cases h
    refine ⟨fun m a x ha hx => ?_, fun m x => rfl, rfl, fun a x ha hx => ?_, fun x hx => ?_⟩
    · exact congrArg (·, 0) (ite_congr (propext (sgn_lt_iff hw hx ha)) (fun _ => rfl) fun _ => rfl)
    · split <;> assumption
    · split
      · rfl
      · next hno => exact (sgn_max hw hx (by rwa [sgn_lt_iff hw hx (by omega)])).symm
  case h_3 =>
    cases h
    refine ⟨fun m a x ha hx => ?_, fun m x => rfl, rfl, fun a x ha hx => ?_, fun x hx => ?_⟩
    · exact congrArg (·, 0) (ite_congr (propext (sgn_lt_iff hw ha hx)) (fun _ => rfl) fun _ => rfl)
    · split <;> assumption
    · split
      · rfl
      · next hno => exact (sgn_min hw (by rwa [sgn_lt_iff hw hp1 hx])).symm
  case h_4 =>
    cases h
    exact ⟨fun m a x ha hx => rfl, fun m x => rfl, rfl, fun a x ha hx => by omega, fun x hx => by omega⟩
  case h_5 =>
    cases h
    exact ⟨fun m a x ha hx => rfl, fun m x => rfl, rfl, fun a x ha hx => by omega, fun x hx => by omega⟩
  case h_6 =>
    cases h
    refine ⟨fun m a x ha hx => rfl, fun m x => rfl, rfl, fun a x ha hx => Nat.and_lt_two_pow _ hx, fun x hx => ?_⟩
    rw [Nat.and_comm, Nat.and_two_pow_sub_one_of_lt_two_pow hx]
  case h_7 =>
    cases h
    exact ⟨fun m a x ha hx => rfl, fun m x => rfl, rfl, fun a x ha hx => Nat.or_lt_two_pow ha hx,
      fun x hx => Nat.zero_or x⟩
  case h_8 =>
    cases h
    exact ⟨fun m a x ha hx => rfl, fun m x => rfl, rfl, fun a x ha hx => Nat.xor_lt_two_pow ha hx,
      fun x hx => Nat.zero_xor x⟩
  case h_9 => cases h

theorem intRop_start_lt {w rop I : Nat} {op : Nat → Nat → Nat} (h : Claims.intRop w rop = some (I, op)) (hw : 0 < w) :
    I < 2 ^ w := by
  have hp : 0 < 2 ^ w := Nat.two_pow_pos _
  have hp1 : 2 ^ (w - 1) < 2 ^ w := Nat.pow_lt_pow_right (by omega) (by omega)
  unfold Claims.intRop at h
  split at h <;> cases h <;> omega

/-! ### The walk over a span -/

section
variable (f : KF) (k : Ctx) (s : State) (ex : Bool)

/-- R163: one element of the walk. -/
def redStep (a : Walk) (e : Nat) : Walk :=
  let r := if a.met then ropStep (fld f.x 3 0) f.ty (fMode f (k.ofElem s e)) a.acc (k.rdE s f.ty (KF.A f) e)
    else ropCanon (fld f.x 3 0) f.ty (fMode f (k.ofElem s e)) (k.rdE s f.ty (KF.A f) e)
  ⟨r.1, true, a.outs ++ [(e, if ex then a.acc else r.1, r.2)]⟩

theorem redWalk_eq (sp : Nat × Nat) : redWalk f k s ex sp = ((spanElems sp).filter (k.isAct s f.pm f.pn)).foldl
    (redStep f k s ex) ⟨ropId (fld f.x 3 0) f.ty, false, []⟩ := rfl

/-- Each element of the walk receives a value. -/
theorem foldl_redStep_elems (es : List Nat) (w : Walk) :
    (es.foldl (redStep f k s ex) w).outs.map Prod.fst = w.outs.map Prod.fst ++ es := by
  induction es generalizing w with
  | nil => simp
  | cons e es ih => rw [List.foldl_cons, ih]; simp [redStep]

variable {f k s} {I : Nat} {op : Nat → Nat → Nat} (hop : IntRop (fld f.x 3 0) f.ty I op)
include hop

/-- R163: a step adds the element's value to the result so far, which at the first element is the identity. -/
theorem redStep_int {w : Walk} {e : Nat} (hw : w.acc < 2 ^ partW f.ty) (hm : w.met = false → w.acc = I)
    (he : k.rdE s f.ty (KF.A f) e < 2 ^ partW f.ty) : redStep f k s ex w e
      = ⟨op w.acc (k.rdE s f.ty (KF.A f) e), true,
          w.outs ++ [(e, if ex then w.acc else op w.acc (k.rdE s f.ty (KF.A f) e), 0)]⟩ := by
  unfold redStep
  cases h : w.met with
  | true => simp only [if_true, hop.step _ _ _ hw he]
  | false => simp only [Bool.false_eq_true, if_false, hop.canon, hm h, hop.unit _ he]

/-- The results along the walk are those of the values met, in order. -/
theorem foldl_redStep_int {es : List Nat} (hv : ∀ e ∈ es, k.rdE s f.ty (KF.A f) e < 2 ^ partW f.ty) {w : Walk}
    (hw : w.acc < 2 ^ partW f.ty) (hm : w.met = false → w.acc = I) :
    let vs := es.map (fun e => k.rdE s f.ty (KF.A f) e)
    let r := es.foldl (redStep f k s ex) w
    r.acc = vs.foldl op w.acc ∧ r.outs.map (fun o => o.2.1) = w.outs.map (fun o => o.2.1)
      ++ (List.range vs.length).map (fun n => (vs.take (if ex then n else n + 1)).foldl op w.acc) := by
  induction es generalizing w with
  | nil => simp
  | cons e es ih =>
    have he := hv e List.mem_cons_self
    have hstep := redStep_int ex hop hw hm he
    obtain ⟨hacc, houts⟩ := ih (fun a ha => hv a (List.mem_cons_of_mem e ha)) (w := redStep f k s ex w e)
      (by rw [hstep]; exact hop.bound _ _ hw he) (by rw [hstep]; exact fun h => nomatch h)
    dsimp only
    rw [List.foldl_cons, hacc, houts, hstep]
    refine ⟨rfl, ?_⟩
    rw [List.map_cons, List.length_cons, List.range_succ_eq_map, List.map_cons, List.map_map, List.map_append,
      List.append_assoc]
    cases ex <;> rfl

end

/-- A sum that is wrapped at every step is the sum, wrapped. -/
theorem foldl_add_mod {m : Nat} (vs : List Nat) {a : Nat} (ha : a < m) :
    vs.foldl (fun a b => (a + b) % m) a = (a + vs.sum) % m := by
  induction vs generalizing a with
  | nil => rw [List.foldl_nil, List.sum_nil, Nat.add_zero, Nat.mod_eq_of_lt ha]
  | cons v vs ih =>
    rw [List.foldl_cons, ih (Nat.mod_lt _ (by omega)), List.sum_cons, Nat.mod_add_mod, Nat.add_assoc]

/-- Settles O13: the walk starts from the identity, and each step is one of the operation. -/
theorem reduceValues : Obligations.ReduceValues := by
  intro f k s sp es vs w
  have hints {I : Nat} {op : Nat → Nat → Nat} (hop : Claims.intRop (partW f.ty) (fld f.x 3 0) = some (I, op))
      (hv : ∀ v ∈ vs, v < 2 ^ partW f.ty) (ex : Bool) :
      (w ex).acc = vs.foldl op I ∧ (w ex).outs.map (fun o => o.2.1)
        = (List.range vs.length).map (fun n => (vs.take (if ex then n else n + 1)).foldl op I) := by
    have hspec := intRop_spec hop
    have hI := hspec.start
    have hlt : I < 2 ^ partW f.ty := intRop_start_lt hop (partW_pos f.ty)
    obtain ⟨hacc, houts⟩ := foldl_redStep_int ex hspec (es := es) (fun e he => hv _ (List.mem_map_of_mem he))
      (w := ⟨ropId (fld f.x 3 0) f.ty, false, []⟩) (by rw [hI]; exact hlt) (fun _ => hI)
    exact ⟨hacc.trans (congrArg (vs.foldl op) hI), houts.trans (by rw [hI]; rfl)⟩
  refine ⟨foldl_redStep_elems f k s false es _, foldl_redStep_elems f k s true es _, fun h0 hv => ?_,
    fun I op hop hv => ⟨(hints hop hv false).1, (hints hop hv false).2, (hints hop hv true).2⟩⟩
  have hop : Claims.intRop (partW f.ty) (fld f.x 3 0) = some (0, fun a b => (a + b) % 2 ^ partW f.ty) := by rw [h0]; rfl
  rw [(hints hop hv false).1, foldl_add_mod vs (Nat.two_pow_pos _), Nat.zero_add]

end Sys2Proof.Machine
end


section
/-! PROOFS. Regions, calls and the words without a path of their own (R167, R170 to R181): a rule for each way in which a
wave takes an entry of its stacks, and the words of class 4 that use it. -/

namespace Sys2Proof.Machine

/-! ### Entries of the divergence stack -/

/-- R167: the innermost region ends at the first RECONV entry. -/
theorem innermost_append {top : List DEntry} {r : DEntry} (below : List DEntry) (htop : ∀ e ∈ top, e.kind ≠ .reconv)
    (hr : r.kind = .reconv) : innermost (top ++ r :: below) = (top, r :: below) := by
  have hpos : ∀ e ∈ top, (fun e : DEntry => e.kind != .reconv) e = true := fun e he => bne_iff_ne.mpr (htop e he)
  have hneg : (r.kind != .reconv) = false := by rw [hr]; rfl
  rw [innermost, List.span_eq_takeWhile_dropWhile, List.takeWhile_append_of_pos hpos, List.dropWhile_append_of_pos hpos,
    List.takeWhile_cons, List.dropWhile_cons, hneg]
  simp

theorem popPath_none {st : List DEntry} (h : ∀ e ∈ st, e.kind ≠ .path) : popPath st = none := by
  induction st with
  | nil => rfl
  | cons e st ih =>
    rw [popPath, if_neg (by simpa using h e List.mem_cons_self), ih fun a ha => h a (List.mem_cons_of_mem e ha)]
    rfl

/-- R175: the topmost PATH entry is taken out of its place. -/
theorem popPath_append {a : List DEntry} {p : DEntry} (b : List DEntry) (ha : ∀ e ∈ a, e.kind ≠ .path)
    (hp : p.kind = .path) : popPath (a ++ p :: b) = some (p, a ++ b) := by
  induction a with
  | nil => rw [List.nil_append, popPath, if_pos (by simpa using hp), List.nil_append]
  | cons e a ih =>
    rw [List.cons_append, popPath, if_neg (by simpa using ha e List.mem_cons_self),
      ih fun c hc => ha c (List.mem_cons_of_mem e hc)]
    rfl

/-- Settles O15: RCV pushes its entry, and JOIN finds its region, of which it takes a path or the RECONV entry. -/
theorem regionWords : Obligations.RegionWords := by
  refine ⟨fun f s k h ⟨hin, _⟩ hroom => ?_, fun f s k top r below h hst htop hr hpc hdepth => ?_⟩
  · refine moves_of_go rfl h ?_ hin
    exact if_neg (by omega)
  · have hinner : innermost k.wv.dstack = (top, r :: below) := hst ▸ innermost_append below htop hr
    have hok : (r.pc != k.wv.pc || r.rdepth != k.wv.rstack.length) = false := by simp [hpc, hdepth]
    refine ⟨fun hno ⟨hin, _⟩ => moves_of_go rfl h ?_ hin, fun a p b htop' ha hp hin => moves_of_go rfl h ?_ hin⟩
    · simp only [joinOp, hinner, hok, popPath_none hno, Bool.false_eq_true, if_false]
      rfl
    · subst htop'
      simp only [joinOp, hinner, hok, popPath_append b ha hp, Bool.false_eq_true, if_false]
      rfl

/-! ### NOP, YIELD, PREFI and IFENCE -/

/-- R181: no store of the form's waves is owed to a home channel of this module. -/
theorem ifence_ready {k : Ctx} {s : State} (h : ∀ p ∈ (s.cluster k.cluster).stores, p.wave ∈ k.waves → p.loc.rmt = true) :
    (s.cluster k.cluster).stores.any (fun p => k.waves.contains p.wave && !p.loc.rmt) = false := by
  refine List.any_eq_false.mpr fun p hp => ?_
  by_cases hw : p.wave ∈ k.waves
  · simp [h p hp hw]
  · simp [hw]

/-- Settles O17: each body is one line of its own. -/
theorem flowHints : Obligations.FlowHints := by
  refine ⟨fun f s k h => completes_of_done rfl h rfl, fun f s k h => ?_, fun f s k h => ?_, fun f s k h hst => ?_⟩
  · exact issueCore_moved h rfl
  · refine completes_of_done rfl h (congrArg Res.done ?_)
    simp only [prefiOp, Bool.and_eq_true]
  · refine completes_of_done rfl h ?_
    have hready := ifence_ready (s := s.unfocused) hst
    rw [ifenceOp, hready]
    rfl

end Sys2Proof.Machine
end


section
/-! PROOFS. Calls, returns and jumps (R167, R171, R176, R177, R179): which group of a CALLX goes next, how a wave resumes
from its stack, the targets of a JMPX in ascending order, and the stacks in the core (R170). -/

namespace Sys2Proof.Machine

/-! ### The group of the least target (R177) -/

/-- The least value of a walk is the one that is met and that none lies below. -/
theorem foldl_min_eq {ls : List Nat} {f : Nat → Nat} {a v : Nat} (hle : ∀ l ∈ ls, v ≤ f l) (ha : v ≤ a)
    (hmet : a = v ∨ ∃ l ∈ ls, f l = v) : ls.foldl (fun a l => min a (f l)) a = v := by
  induction ls generalizing a with
  | nil => simpa using hmet
  | cons l ls ih =>
    refine ih (fun b hb => hle b (List.mem_cons_of_mem l hb)) (Nat.le_min.mpr ⟨ha, hle l List.mem_cons_self⟩) ?_
    rcases hmet with rfl | ⟨b, hb, rfl⟩
    · exact .inl (Nat.min_eq_left (hle l List.mem_cons_self))
    · rcases List.mem_cons.mp hb with rfl | hb
      · exact .inl (Nat.min_eq_right ha)
      · exact .inr ⟨b, hb, rfl⟩

/-- A word that is not zero has a set bit. -/
theorem exists_getLsbD_of_ne_zero {w : Nat} {m : BitVec w} (h : m ≠ 0) : ∃ l, l < w ∧ m.getLsbD l = true := by
  by_contra hno
  refine h (BitVec.eq_of_getLsbD_eq fun l hl => ?_)
  rw [Bool.eq_false_iff.mpr fun ht => hno ⟨l, hl, ht⟩]
  exact (BitVec.getLsbD_zero).symm

section
variable {x : Wave} {e : DEntry} {m t : Word}

/-- R177: NextGroup calls the group of the least target. -/
theorem Wave.nextGroup_of_leastGroup (below : List DEntry) (h : Claims.leastGroup x e.reg e.pend m t) :
    x.nextGroup e below = Claims.inGroup x e below m t := by
  obtain ⟨hm, hbits, hleast⟩ := h
  obtain ⟨b, hb32, hb⟩ := exists_getLsbD_of_ne_zero hm
  simp only [hbits, hb32, decide_true, Bool.true_and, Bool.and_eq_true, beq_iff_eq] at hb
  have hmem (l : Nat) : l ∈ (List.range 32).filter (fun l => e.pend.getLsbD l) ↔ l < 32 ∧ e.pend.getLsbD l = true := by
    rw [List.mem_filter, List.mem_range]
  unfold Wave.nextGroup
  generalize hls : (List.range 32).filter (fun l => e.pend.getLsbD l) = ls at hmem
  cases ls with
  | nil => exact absurd ((hmem b).mpr ⟨hb32, hb.1⟩) List.not_mem_nil
  | cons l0 more =>
    have hall : ∀ l ∈ l0 :: more, t.toNat ≤ (x.rdV e.reg l).toNat := fun l hl =>
      hleast l ((hmem l).mp hl).1 ((hmem l).mp hl).2
    have hmin : (l0 :: more).foldl (fun a l => min a (x.rdV e.reg l).toNat) (x.rdV e.reg l0).toNat = t.toNat :=
      foldl_min_eq hall (hall l0 List.mem_cons_self) (.inr ⟨b, (hmem b).mpr ⟨hb32, hb.1⟩, congrArg BitVec.toNat hb.2⟩)
    have hgroup : (l0 :: more).foldl (fun m l => if (x.rdV e.reg l).toNat = t.toNat then setBit m l true else m) (0 : Word)
        = m := by
      refine BitVec.eq_of_getLsbD_eq fun l hl => ?_
      have hwalk := getLsbD_foldl_setBit (w := 32) (fun l => x.rdV e.reg l == t) (l0 :: more)
        (fun l hl => ((hmem l).mp hl).1) 0 l
      simp only [beq_iff_eq, ← BitVec.toNat_inj] at hwalk
      rw [hwalk, hbits]
      simp [hmem, hl]
    dsimp only
    rw [hmin, hgroup, BitVec.ofNat_toNat, BitVec.setWidth_eq]
    rfl

/-- With lanes pending there is a group to call. -/
theorem exists_leastGroup (x : Wave) (reg : Nat) {pend : Word} (h : pend ≠ 0) :
    ∃ m t, Claims.leastGroup x reg pend m t := by
  obtain ⟨b, hb32, hb⟩ := exists_getLsbD_of_ne_zero h
  have hmem (l : Nat) : l ∈ (List.range 32).filter (fun l => pend.getLsbD l) ↔ l < 32 ∧ pend.getLsbD l = true := by
    rw [List.mem_filter, List.mem_range]
  obtain ⟨c, hc, hmin⟩ := ((List.range 32).filter (fun l => pend.getLsbD l)).toFinset.exists_min_image
    (fun l => (x.rdV reg l).toNat) ⟨b, List.mem_toFinset.mpr ((hmem b).mpr ⟨hb32, hb⟩)⟩
  obtain ⟨hc32, hcp⟩ := (hmem c).mp (List.mem_toFinset.mp hc)
  have hbits (l : Nat) : ((List.range 32).foldl (fun m l => if pend.getLsbD l && x.rdV reg l == x.rdV reg c
      then setBit m l true else m) (0 : Word)).getLsbD l = (decide (l < 32) && pend.getLsbD l && x.rdV reg l == x.rdV reg c) := by
    rw [getLsbD_foldl_setBit (fun l => pend.getLsbD l && x.rdV reg l == x.rdV reg c) _ (fun l hl => List.mem_range.mp hl)]
    simp only [List.mem_range, Bool.and_assoc, BitVec.ofNat_eq_ofNat, BitVec.getLsbD_zero, Bool.or_false]
  refine ⟨_, x.rdV reg c, fun hzero => ?_, hbits, fun l hl hp => ?_⟩
  · have hbit := hbits c
    rw [hzero, hcp] at hbit
    simp [hc32] at hbit
  · exact hmin l (List.mem_toFinset.mpr ((hmem l).mpr ⟨hl, hp⟩))

end

/-! ### Resuming from the stack (R167) -/

/-- The wave with its return stack cut to the depth of an entry. -/
def Wave.cutTo (x : Wave) (n : Nat) : Wave := { x with rstack := x.rstack.drop (x.rstack.length - n) }

theorem Wave.cutTo_length (x : Wave) (n : Nat) : (x.cutTo n).rstack.length = min x.rstack.length n := by
  rw [Wave.cutTo, List.length_drop]
  omega

theorem Wave.cutTo_cutTo (x : Wave) {m n : Nat} (h : n ≤ m) : (x.cutTo m).cutTo n = x.cutTo n := by
  have hdrop : ((x.cutTo m).rstack).drop ((x.cutTo m).rstack.length - n) = x.rstack.drop (x.rstack.length - n) := by
    rw [Wave.cutTo_length, Wave.cutTo, List.drop_drop]
    congr 1
    omega
  rw [Wave.cutTo, hdrop]
  rfl

theorem Wave.cutTo_min (x : Wave) (n : Nat) : x.cutTo (min x.rstack.length n) = x.cutTo n := by
  have hlen : x.rstack.length - min x.rstack.length n = x.rstack.length - n := by omega
  rw [Wave.cutTo, hlen]
  rfl

/-- R167: the wave goes on with an entry that has lanes. -/
def Wave.enter (x : Wave) (e : DEntry) (below : List DEntry) : Wave :=
  match e.kind with
  | .path => { x.follow e.pc e.mask with dstack := below }
  | .reconv => { x.follow (e.pc + 8) e.mask with dstack := below }
  | .callx => if e.pend == 0 then { x.follow e.pc e.mask with dstack := below } else x.nextGroup e below

section
variable (x : Wave) (e : DEntry) (below : List DEntry)

theorem Wave.resumeGo_of_mask (h : e.mask ≠ 0) : x.resumeGo (e :: below) = (x.cutTo e.rdepth).enter e below := by
  simp only [Wave.resumeGo, beq_false_of_ne h, Bool.false_eq_true, if_false]
  rfl

theorem Wave.resumeGo_of_dead (h : e.mask = 0) : x.resumeGo (e :: below) = (x.cutTo e.rdepth).resumeGo below := by
  simp only [Wave.resumeGo, h, beq_self_eq_true, if_true]
  rfl

theorem foldl_min_le (ls : List DEntry) (n : Nat) : ls.foldl (fun n d => min n d.rdepth) n ≤ n := by
  induction ls generalizing n with
  | nil => exact Nat.le_refl n
  | cons d ls ih => exact Nat.le_trans (ih _) (Nat.min_le_left n d.rdepth)

variable {e}

/-- R167: entries without lanes are dropped, and the return stack is cut to the least depth of those popped. -/
theorem Wave.resumeGo_append {dead : List DEntry} (hdead : ∀ d ∈ dead, d.mask = 0) (he : e.mask ≠ 0) :
    x.resumeGo (dead ++ e :: below)
      = (x.cutTo ((dead ++ [e]).foldl (fun n d => min n d.rdepth) x.rstack.length)).enter e below := by
  induction dead generalizing x with
  | nil =>
    rw [List.nil_append, List.nil_append, List.foldl_cons, List.foldl_nil, Wave.cutTo_min, Wave.resumeGo_of_mask _ _ _ he]
  | cons d dead ih =>
    have hle := foldl_min_le (dead ++ [e]) (min x.rstack.length d.rdepth)
    rw [List.cons_append, List.cons_append, List.foldl_cons,
      Wave.resumeGo_of_dead _ _ _ (hdead d List.mem_cons_self),
      ih (x.cutTo d.rdepth) fun a ha => hdead a (List.mem_cons_of_mem d ha), Wave.cutTo_length,
      Wave.cutTo_cutTo _ (Nat.le_trans hle (Nat.min_le_right _ _))]

end

theorem Wave.resumeGo_all_dead (x : Wave) {st : List DEntry} (h : ∀ d ∈ st, d.mask = 0) : x.resumeGo st = x.retire := by
  induction st generalizing x with
  | nil => rfl
  | cons d st ih =>
    rw [Wave.resumeGo_of_dead _ _ _ (h d List.mem_cons_self), ih _ fun a ha => h a (List.mem_cons_of_mem d ha)]
    rfl

/-- A stack has an entry with lanes, under entries without, or none. -/
theorem dead_or_split (st : List DEntry) : (∀ d ∈ st, d.mask = 0) ∨ ∃ dead e below, st = dead ++ e :: below
    ∧ (∀ d ∈ dead, d.mask = 0) ∧ e.mask ≠ 0 := by
  induction st with
  | nil => exact .inl fun d hd => absurd hd List.not_mem_nil
  | cons d st ih =>
    by_cases hd : d.mask = 0
    · rcases ih with h | ⟨dead, e, below, rfl, hdead, he⟩
      · exact .inl (List.forall_mem_cons.mpr ⟨hd, h⟩)
      · exact .inr ⟨d :: dead, e, below, rfl, List.forall_mem_cons.mpr ⟨hd, hdead⟩, he⟩
    · exact .inr ⟨[], d, st, rfl, fun a ha => absurd ha List.not_mem_nil, hd⟩

/-- R167: what a wave is that resumes from a stack. -/
theorem resumeGo_of_resumes {x y : Wave} {st : List DEntry} (h : Claims.resumes x st y) : x.resumeGo st = y := by
  obtain ⟨hretire, hgo⟩ := h
  rcases dead_or_split st with hall | ⟨dead, e, below, hst, hdead, he⟩
  · rw [x.resumeGo_all_dead hall, hretire hall]
  · obtain ⟨hpath, hreconv, hcallx⟩ := hgo dead e below hst hdead he
    rw [hst, x.resumeGo_append below hdead he]
    cases hk : e.kind with
    | path =>
      rw [hpath (.inl hk), Wave.enter, hk]
      rfl
    | reconv =>
      rw [hreconv hk, Wave.enter, hk]
      rfl
    | callx =>
      by_cases hp : e.pend = 0
      · rw [hpath (.inr ⟨hk, hp⟩), Wave.enter, hk, hp]
        rfl
      · obtain ⟨m, t, hg⟩ := exists_leastGroup x e.reg hp
        rw [hcallx hk m t hg, Wave.enter, hk]
        simp only [beq_false_of_ne hp, Bool.false_eq_true, if_false]
        exact Wave.nextGroup_of_leastGroup below hg

/-! ### Targets of a JMPX, ascending -/

section
variable {α : Type} [DecidableEq α] {d : α}

theorem SMap.get_of_lt {m : SMap α} {lo k : Nat} (h : m.wfFrom d lo = true) (hk : k < lo) : m.get d k = d := by
  induction m generalizing lo with
  | nil => rfl
  | cons p t ih =>
    obtain ⟨j, a⟩ := p
    simp only [SMap.wfFrom, Bool.and_eq_true, decide_eq_true_eq] at h
    obtain ⟨⟨hj, -⟩, ht⟩ := h
    rw [SMap.get, if_neg (by omega), ih ht (by omega)]

/-- What a map in canonical form reads as determines it. -/
theorem SMap.eq_of_get {m m' : SMap α} {lo : Nat} (h : m.wfFrom d lo = true) (h' : m'.wfFrom d lo = true)
    (hget : ∀ k, m.get d k = m'.get d k) : m = m' := by
  induction m generalizing lo m' with
  | nil =>
    cases m' with
    | nil => rfl
    | cons q u =>
      obtain ⟨j, a⟩ := q
      have hj := hget j
      simp only [SMap.wfFrom, Bool.and_eq_true, Bool.not_eq_true', decide_eq_false_iff_not] at h'
      rw [SMap.get, SMap.get, if_pos rfl] at hj
      exact absurd hj.symm h'.1.2
  | cons p t ih =>
    obtain ⟨j, a⟩ := p
    have hwf := h
    simp only [SMap.wfFrom, Bool.and_eq_true, Bool.not_eq_true', decide_eq_false_iff_not, decide_eq_true_eq] at h
    obtain ⟨⟨hlo, hne⟩, ht⟩ := h
    have hj := hget j
    rw [SMap.get, if_pos rfl] at hj
    cases m' with
    | nil => exact absurd hj hne
    | cons q u =>
      obtain ⟨j', a'⟩ := q
      have hwf' := h'
      simp only [SMap.wfFrom, Bool.and_eq_true, Bool.not_eq_true', decide_eq_false_iff_not, decide_eq_true_eq] at h'
      obtain ⟨⟨hlo', hne'⟩, hu⟩ := h'
      have hj' := hget j'
      rw [SMap.get, SMap.get, if_pos rfl] at hj'
      have hjj : j = j' := by
        rcases Nat.lt_trichotomy j j' with hlt | heq | hgt
        · rw [SMap.get, if_neg (by omega), SMap.get_of_lt hu (by omega)] at hj
          exact absurd hj hne
        · exact heq
        · rw [if_neg (by omega), SMap.get_of_lt ht (by omega)] at hj'
          exact absurd hj'.symm hne'
      subst hjj
      rw [SMap.get, if_pos rfl] at hj
      subst hj
      refine congrArg _ (ih ht hu fun k => ?_)
      by_cases hk : k = j
      · rw [hk, SMap.get_of_lt ht (by omega), SMap.get_of_lt hu (by omega)]
      · have hkget := hget k
        rwa [SMap.get, SMap.get, if_neg (Ne.symm hk), if_neg (Ne.symm hk)] at hkget

end

section
variable (f : KF) (k : Ctx)

/-- The targets met in a walk over lanes, each with its lanes. -/
theorem get_groupWalk (tgt : Nat → Nat) (ls : List Nat) (hls : ∀ l ∈ ls, l < 32) (m : SMap Word) (n j : Nat) :
    (SMap.get (ls.foldl (fun m l => SMap.set m 0 (tgt l) (setBit (SMap.get m 0 (tgt l)) l true)) m) 0 n).getLsbD j
      = (decide (j ∈ ls ∧ tgt j = n) || (SMap.get m 0 n).getLsbD j) := by
  induction ls generalizing m with
  | nil => simp
  | cons l ls ih =>
    have hl : l < 32 := hls l List.mem_cons_self
    rw [List.foldl_cons, ih fun a ha => hls a (List.mem_cons_of_mem l ha), SMap.get_set]
    by_cases hn : n = tgt l
    · rw [if_pos hn, hn, getLsbD_setBit _ _ _ _ hl]
      by_cases hj : j = l
      · subst hj
        simp
      · simp [hj]
    · rw [if_neg hn]
      by_cases hj : j = l
      · subst hj
        simp [Ne.symm hn]
      · simp [hj]

theorem wf_groupWalk (tgt : Nat → Nat) (ls : List Nat) {m : SMap Word} (h : m.wf 0 = true) :
    (ls.foldl (fun m l => SMap.set m 0 (tgt l) (setBit (SMap.get m 0 (tgt l)) l true)) m).wf 0 = true := by
  induction ls generalizing m with
  | nil => exact h
  | cons l ls ih => exact ih (SMap.wf_set _ _ h)

/-- Groups with rising targets and with lanes are in canonical form. -/
theorem wfFrom_groups {gs : List (Word × Word)} {lo : Nat} (hp : gs.Pairwise (fun a b => a.1.toNat < b.1.toNat))
    (hne : ∀ g ∈ gs, g.2 ≠ 0) (hlo : ∀ g ∈ gs, lo ≤ g.1.toNat) :
    SMap.wfFrom (gs.map (fun g => (g.1.toNat, g.2))) 0 lo = true := by
  induction gs generalizing lo with
  | nil => rfl
  | cons g gs ih =>
    obtain ⟨hg, hgs⟩ := List.pairwise_cons.mp hp
    have htail := ih hgs (fun a ha => hne a (List.mem_cons_of_mem g ha)) (lo := g.1.toNat + 1) (fun a ha => hg a ha)
    simp only [List.map_cons, SMap.wfFrom, htail, hlo g List.mem_cons_self, hne g List.mem_cons_self, decide_true,
      decide_false, Bool.not_false, Bool.and_self]

theorem get_groups {gs : List (Word × Word)} (hp : gs.Pairwise (fun a b => a.1.toNat < b.1.toNat)) (n : Nat) :
    (∀ g ∈ gs, g.1.toNat = n → SMap.get (gs.map (fun g => (g.1.toNat, g.2))) 0 n = g.2)
    ∧ ((∀ g ∈ gs, g.1.toNat ≠ n) → SMap.get (gs.map (fun g => (g.1.toNat, g.2))) (0 : Word) n = 0) := by
  induction gs with
  | nil => exact ⟨fun g hg => absurd hg List.not_mem_nil, fun _ => rfl⟩
  | cons h gs ih =>
    obtain ⟨hh, hgs⟩ := List.pairwise_cons.mp hp
    obtain ⟨hin, hout⟩ := ih hgs
    refine ⟨fun g hg hn => ?_, fun hno => ?_⟩
    · rcases List.mem_cons.mp hg with rfl | hg
      · rw [List.map_cons, SMap.get, if_pos hn]
      · have hlt := hh g hg
        rw [List.map_cons, SMap.get, if_neg (by omega), hin g hg hn]
    · rw [List.map_cons, SMap.get, if_neg (hno h List.mem_cons_self), hout fun g hg => hno g (List.mem_cons_of_mem h hg)]

/-- R177: the groups of a JMPX, as the walk over the lanes finds them. -/
theorem groupTargets_eq {gs : List (Word × Word)} (h : Claims.groupsOf f k gs) :
    groupTargets f k = gs.map (fun g => (g.1.toNat, g.2)) := by
  obtain ⟨hp, hgs, hall⟩ := h
  have hne : ∀ g ∈ gs, g.2 ≠ 0 := fun g hg => (hgs g hg).1
  refine SMap.eq_of_get (d := 0) (lo := 0) (wf_groupWalk (fun l => (k.wv.rdV (KF.A f) l).toNat) _ rfl)
    (wfFrom_groups hp hne fun g _ => Nat.zero_le _) fun n => BitVec.eq_of_getLsbD_eq fun j hj => ?_
  refine (get_groupWalk (fun l => (k.wv.rdV (KF.A f) l).toNat) _
    (fun l hl => List.mem_range.mp (List.mem_filter.mp hl).1) [] n j).trans ?_
  obtain ⟨hin, hout⟩ := get_groups hp n
  have hmem : j ∈ (List.range 32).filter (fun l => (actLanes f k).getLsbD l) ↔ (k.on f k.w k.wv).getLsbD j = true := by
    rw [List.mem_filter, List.mem_range]
    exact and_iff_right hj
  by_cases hex : ∃ g ∈ gs, g.1.toNat = n
  · obtain ⟨g, hg, rfl⟩ := hex
    rw [hin g hg rfl, (hgs g hg).2 j]
    simp only [hmem, hj, BitVec.toNat_inj, SMap.get, decide_true, Bool.true_and, BitVec.ofNat_eq_ofNat,
      BitVec.getLsbD_zero, Bool.or_false, Bool.decide_and, Bool.decide_eq_true]
    rfl
  · have hno : ∀ g ∈ gs, g.1.toNat ≠ n := fun g hg heq => hex ⟨g, hg, heq⟩
    rw [hout hno]
    have hfalse : ¬ (j ∈ (List.range 32).filter (fun l => (actLanes f k).getLsbD l) ∧ (k.wv.rdV (KF.A f) j).toNat = n) := by
      rintro ⟨hj', rfl⟩
      obtain ⟨g, hg, heq⟩ := hall j hj (hmem.mp hj')
      exact hno g hg (congrArg BitVec.toNat heq)
    rw [decide_eq_false hfalse]
    rfl

end

/-! ### Calls, returns and jumps -/

/-- A wave that may run a word whose body goes to a path, or retires, moves there. -/
theorem moves_of_go_or_retire {i : Instr} {s : State} {k : Ctx} {y : Wave} {body : Ctx → State → Res}
    (he : exec i s = issueCore i s body) (h : MayRun i s k) (hb : body k s.unfocused = go k s.unfocused y)
    (hy : y.retired = true ∨ k.inside y.pc.toNat = true) : Moves i s k (s.unfocused.respill k.c k.w y) := by
  have hin : (y.retired || k.inside y.pc.toNat) = true := by simpa using hy
  exact he.trans (issueCore_moved h (hb.trans (by rw [go, hin]; rfl)))

/-- R176: the body of a call goes to its target. -/
theorem exec_callWord {i : Instr} {g : Ctx → Word × Bool} (h : Claims.callWord i = some g) (s : State) :
    exec i s = issueCore i s (fun k s => callTo k s (g k).1 (g k).2) := by
  cases i with
  | call | callxS =>
    cases h
    rfl
  | _ => cases h

section
variable {k : Ctx} {s : State}

theorem callTo_go {t : Word} {ok : Bool} (hok : ok = true) (hin : k.inside t.toNat = true)
    (hroom : k.wv.rstack.length < 1024) : callTo k s t ok
      = go k s { k.wv with pc := t, rstack := ⟨k.wv.pc + 8, k.wv.dstack.length, false⟩ :: k.wv.rstack } := by
  have hroom' : ¬ 1024 ≤ k.wv.rstack.length := by omega
  simp only [callTo, hok, hin, hroom', Bool.and_self, Bool.not_true, Bool.false_eq_true, if_false]

section
variable {r : REntry} {rs : List REntry} (hr : k.wv.rstack = r :: rs) (hd : r.depth = k.wv.dstack.length)
include hr hd

/-- R176: a return from a call. -/
theorem retOp_call (hg : r.group = false) : retOp k s = go k s { k.wv with pc := r.pc, rstack := rs } := by
  simp only [retOp, hr, hd, hg, bne_self_eq_false, Bool.false_eq_true, if_false]

/-- R177: a return from a group of a CALLX: the next group, the lanes of the CALLX, or what lies below. -/
theorem retOp_group (hg : r.group = true) {e : DEntry} {below : List DEntry} (hst : k.wv.dstack = e :: below) {y : Wave}
    (hnext : ∀ m t, Claims.leastGroup { k.wv with rstack := rs } e.reg e.pend m t →
      y = Claims.inGroup { k.wv with rstack := rs } e below m t)
    (hlast : e.pend = 0 → e.mask ≠ 0 → y = { k.wv with rstack := rs, pc := e.pc, mask := e.mask, dstack := below })
    (hnone : e.pend = 0 → e.mask = 0 →
      Claims.resumes { k.wv with rstack := rs, dstack := below } below y) : retOp k s = go k s y := by
  have hd' : r.depth = (e :: below).length := hd.trans (congrArg _ hst)
  simp only [retOp, hr, hst, hd', hg, bne_self_eq_false, Bool.false_eq_true, if_false, if_true]
  by_cases hp : e.pend = 0
  · by_cases hm : e.mask = 0
    · simp only [hp, hm, bne_self_eq_false, beq_self_eq_true, Bool.false_eq_true, if_false, if_true]
      exact congrArg (go k s) (resumeGo_of_resumes (hnone hp hm))
    · simp only [hp, beq_false_of_ne hm, bne_self_eq_false, Bool.false_eq_true, if_false]
      exact congrArg (go k s) (hlast hp hm).symm
  · obtain ⟨m, t, hleast⟩ := exists_leastGroup { k.wv with rstack := rs } e.reg hp
    rw [if_pos (bne_iff_ne.mpr hp)]
    exact congrArg (go k s) ((Wave.nextGroup_of_leastGroup below hleast).trans (hnext m t hleast).symm)

end

section
variable {f : KF} (ht : Claims.targetsIn f k)
include ht

/-- R177: every target of an active lane is a word of the version. -/
theorem targetsOk_of_targetsIn : targetsOk f k = true := by
  refine List.all_eq_true.mpr fun l hl => ?_
  cases hact : (actLanes f k).getLsbD l with
  | false => rfl
  | true => exact ht.1 l (List.mem_range.mp hl) hact

/-- R56: where the path goes on, its next word lies in the version. -/
theorem goesOn_inside : ((actLanes f k == 0 || (k.wv.mask &&& ~~~actLanes f k) != 0) && !k.inside (k.wv.pc.toNat + 8))
    = false := by
  by_cases hon : k.on f k.w k.wv = 0 ∨ k.wv.mask &&& ~~~(k.on f k.w k.wv) ≠ 0
  · obtain ⟨-, hin⟩ := ht.2 hon
    rw [hin, Bool.not_true, Bool.and_false]
  · obtain ⟨hne, heq⟩ := not_or.mp hon
    have hz : (actLanes f k == 0 || (k.wv.mask &&& ~~~actLanes f k) != 0) = false := by
      rw [Bool.or_eq_false_iff]
      exact ⟨beq_false_of_ne hne, bne_eq_false_iff_eq.mpr (not_not.mp heq)⟩
    rw [hz, Bool.false_and]

theorem callxOp_none (h0 : k.on f k.w k.wv = 0) : callxOp f k s = go k s { k.wv with pc := k.wv.pc + 8 } := by
  have hz : (actLanes f k == 0) = true := beq_iff_eq.mpr h0
  have hin := goesOn_inside ht
  rw [hz] at hin
  simp only [callxOp, hin, hz, Bool.false_eq_true, if_false, if_true]

theorem callxOp_group {m t : Word} (hleast : Claims.leastGroup k.wv (KF.A f) (k.on f k.w k.wv) m t)
    (hd : k.wv.dstack.length < 256) (hr : k.wv.rstack.length < 1024) : callxOp f k s = go k s (Claims.inGroup k.wv
      ⟨.callx, k.on f k.w k.wv, k.wv.mask, k.wv.rstack.length, k.wv.pc + 8, KF.A f⟩ k.wv.dstack m t) := by
  have hz : (actLanes f k == 0) = false := by
    refine beq_false_of_ne fun h0 => ?_
    obtain ⟨hm, hbits, -⟩ := hleast
    obtain ⟨l, hl, hlm⟩ := exists_getLsbD_of_ne_zero hm
    rw [hbits, show k.on f k.w k.wv = 0 from h0] at hlm
    simp at hlm
  have hd' : ¬ 256 ≤ k.wv.dstack.length := by omega
  have hr' : ¬ 1024 ≤ k.wv.rstack.length := by omega
  have hin := goesOn_inside ht
  rw [hz] at hin
  simp only [callxOp, hin, hz, targetsOk_of_targetsIn ht, hd', hr', Bool.not_true, Bool.false_eq_true, if_false]
  exact congrArg (go k s) (Wave.nextGroup_of_leastGroup
    (e := ⟨.callx, k.on f k.w k.wv, k.wv.mask, k.wv.rstack.length, k.wv.pc + 8, KF.A f⟩) k.wv.dstack hleast)

omit ht in
/-- With no group there is no active lane. -/
theorem on_eq_zero_of_no_groups (hg : Claims.groupsOf f k []) : k.on f k.w k.wv = 0 := by
  obtain ⟨-, -, hall⟩ := hg
  by_contra h
  obtain ⟨l, hl, hact⟩ := exists_getLsbD_of_ne_zero h
  obtain ⟨g, hmem, -⟩ := hall l hl hact
  exact List.not_mem_nil hmem

theorem jmpxOp_none (hg : Claims.groupsOf f k []) : jmpxOp f k s = go k s { k.wv with pc := k.wv.pc + 8 } := by
  have hgs : groupTargets f k = [] := groupTargets_eq f k hg
  simp only [jmpxOp, goesOn_inside ht, targetsOk_of_targetsIn ht, hgs, Bool.not_true, Bool.false_eq_true, if_false]

omit ht in
theorem foldr_cons_eq_map_append {α β : Type} (g : α → β) (ls : List α) (b : List β) :
    ls.foldr (fun a st => g a :: st) b = ls.map g ++ b := by
  induction ls with
  | nil => rfl
  | cons a ls ih => rw [List.foldr_cons, ih, List.map_cons, List.cons_append]

/-- R177: the jump of the group of the least target, with the other groups and the lanes that go on on paths of their
own. -/
theorem jmpxOp_groups {t m : Word} {more : List (Word × Word)} (hg : Claims.groupsOf f k ((t, m) :: more)) :
    let rest := k.wv.mask &&& ~~~(k.on f k.w k.wv)
    let path (t m : Word) : DEntry := ⟨.path, 0, m, k.wv.rstack.length, t, 0⟩
    let st := more.map (fun g => path g.1 g.2) ++ (if rest = 0 then [] else [path (k.wv.pc + 8) rest]) ++ k.wv.dstack
    let x : Wave := { k.wv with pc := t, mask := m, dstack := st }
    st.length ≤ 256 → jmpxOp f k s
      = go k s (if t.toNat ≤ k.wv.pc.toNat ∧ rest = 0 ∧ more = [] then x.rotate else x) := by
  intro rest path st x hroom
  have hgs := groupTargets_eq f k hg
  have hst : (more.map (fun g => (g.1.toNat, g.2))).reverse.foldl
      (fun st p => ⟨.path, 0, p.2, k.wv.rstack.length, BitVec.ofNat 32 p.1, 0⟩ :: st)
      (if rest == 0 then k.wv.dstack else ⟨.path, 0, rest, k.wv.rstack.length, k.wv.pc + 8, 0⟩ :: k.wv.dstack) = st := by
    rw [List.foldl_reverse, List.foldr_map, foldr_cons_eq_map_append]
    simp only [BitVec.ofNat_toNat, BitVec.setWidth_eq, beq_iff_eq, st, path, List.append_assoc]
    split <;> rfl
  simp only [jmpxOp, goesOn_inside ht, targetsOk_of_targetsIn ht, hgs, Bool.not_true, Bool.false_eq_true, if_false,
    List.map_cons]
  rw [show k.wv.mask &&& ~~~actLanes f k = rest from rfl, hst, if_neg (by omega)]
  simp only [BitVec.ofNat_toNat, BitVec.setWidth_eq, Bool.and_eq_true, decide_eq_true_eq, beq_iff_eq, List.isEmpty_iff,
    List.map_eq_nil_iff, and_assoc]
  rfl

end

end

/-! ### The stacks in the core (R170) -/

theorem filled_none {α : Type} (st : List α) (get : α → Nat → α) : filled st 0 0 get = st := by
  refine List.ext_getElem (List.length_mapIdx) fun i _ _ => ?_
  simp [filled]

theorem spillGo_in_core {core n size base depth fuel : Nat} (at_ : Nat → Nat) (m : Memory) (h : depth ≤ core) :
    spillGo core n size base at_ depth fuel 0 m = (0, m) := by
  cases fuel with
  | zero => rfl
  | succ fuel => rw [spillGo, if_neg (by omega), if_neg (by simp)]

/-- R170, R171: within the core's stacks nothing is spilled. -/
theorem stacksInCore : Claims.StacksInCore := by
  intro s c w y ⟨hd, hr, hdsp, hrsp⟩
  have hkeep (size base : Nat) (old new : Nat → Nat) (m : Memory) : spillKeep size base 0 old new m = m := rfl
  simp only [State.respill, hdsp, hrsp, Nat.zero_min, hkeep, spillGo_in_core _ _ hd, spillGo_in_core _ _ hr, filled_none]
  refine congrArg (State.setWave _ w) ?_
  cases y
  cases hdsp
  cases hrsp
  rfl

/-- R177: the least target lies in the version. -/
theorem leastGroup_inside {f : KF} {k : Ctx} (ht : Claims.targetsIn f k) {m t : Word}
    (h : Claims.leastGroup k.wv (KF.A f) (k.on f k.w k.wv) m t) : k.inside t.toNat = true := by
  obtain ⟨hm, hbits, -⟩ := h
  obtain ⟨l, hl, hlm⟩ := exists_getLsbD_of_ne_zero hm
  rw [hbits] at hlm
  simp only [Bool.and_eq_true, beq_iff_eq] at hlm
  obtain ⟨⟨-, hact⟩, rfl⟩ := hlm
  exact ht.1 l hl hact

/-- R176, R177, R179: calls, returns and jumps. -/
theorem callsAndReturns : Claims.CallsAndReturns := by
  refine ⟨fun i g hi s k h hok hin hroom => ?_, fun f s k r rs h hr hd hg hin => ?_, ?_,
    fun f s k t h ht hin y hy hyin => ?_, ?_, ?_⟩
  · exact moves_of_go (exec_callWord hi s) h (callTo_go hok hin hroom) hin
  · exact moves_of_go rfl h (retOp_call hr hd hg) hin
  · intro f s k r rs e below h hr hd hg hst x y hnext hlast hnone hy
    exact moves_of_go_or_retire rfl h (retOp_group hr hd hg hst hnext hlast hnone) hy
  · subst ht
    refine moves_of_go rfl h ?_ hyin
    rw [hy]
    exact branchAll_taken _ (fun hv => Ctx.mask_ne_zero h.issues hv) rfl hin
  · intro f s k h ht g
    refine ⟨fun h0 => moves_of_go rfl h (callxOp_none ht h0) (ht.2 (.inl h0)).1, fun m t hleast hd hr => ?_⟩
    exact moves_of_go rfl h (callxOp_group ht hleast hd hr) (leastGroup_inside ht hleast)
  · intro f s k gs h ht hg rest path
    refine ⟨fun h0 => ?_, ?_⟩
    · subst h0
      exact moves_of_go rfl h (jmpxOp_none ht hg) (ht.2 (.inl (on_eq_zero_of_no_groups hg))).1
    · intro t m more hgs st x hroom y hy hyin
      subst hgs
      exact moves_of_go rfl h ((jmpxOp_groups ht hg hroom).trans (congrArg (go k _) hy.symm)) hyin

/-- Settles O16: each word ends by the rule for the entry or the group that it takes, and the wave goes on within the
version; within the core's stacks the move is all that there is. -/
theorem callWords : Obligations.CallWords := ⟨callsAndReturns, stacksInCore⟩

end Sys2Proof.Machine
end


section
/-! PROOFS. Finding where an access goes (R204, R206, R209): what a translation, a look at L1 and the setting of A and D leave
as they were; and the common course of a class 5 access whose lanes meet no cause (R213, R214, R217). -/

namespace Sys2Proof.Machine

/-! ### What finding a place may change -/

/-- Only memory, the translations that are held, the caches and the free values may differ, and no pending store. -/
structure FindFrame (s t : State) : Prop where
  eq : t = { s with mem := t.mem, tiles := t.tiles, clusters := t.clusters, free := t.free }
  stores : ∀ cl, (t.cluster cl).stores = (s.cluster cl).stores

theorem FindFrame.refl (s : State) : FindFrame s s := ⟨rfl, fun _ => rfl⟩

theorem FindFrame.trans {s t u : State} (h : FindFrame s t) (g : FindFrame t u) : FindFrame s u :=
  ⟨g.eq.trans (by rw [h.eq]), fun cl => (g.stores cl).trans (h.stores cl)⟩

/-- A change of a cluster that leaves its pending stores. -/
theorem FindFrame.modCluster (s : State) (cl : Nat) {f : Cluster → Cluster} (h : ∀ c, (f c).stores = c.stores) :
    FindFrame s (s.modCluster cl f) := by
  refine ⟨rfl, fun c => ?_⟩
  rw [State.modCluster, State.cluster_setCluster]
  split
  · next hc => rw [h, hc]
  · rfl

section
variable (s : State)

theorem State.stillHeld_frame : FindFrame s s.stillHeld.2 := ⟨rfl, fun _ => rfl⟩

theorem State.tileLookup_frame (asid va : Nat) :
    FindFrame s (s.tileLookup asid va).1 ∧ (s.tileLookup asid va).1.mem = s.mem := by
  unfold State.tileLookup
  split
  · dsimp only
    split
    · exact ⟨s.stillHeld_frame, rfl⟩
    · exact ⟨⟨rfl, fun _ => rfl⟩, rfl⟩
  · exact ⟨FindFrame.refl s, rfl⟩

/-- R206: a translation that is looked up changes no memory. -/
theorem State.lookup_frame (cl asid va : Nat) :
    FindFrame s (s.lookup cl asid va).1 ∧ (s.lookup cl asid va).1.mem = s.mem := by
  unfold State.lookup
  split
  · dsimp only
    split
    · exact ⟨s.stillHeld_frame, rfl⟩
    · obtain ⟨hframe, hmem⟩ := State.tileLookup_frame (s.stillHeld.2.modCluster cl (fun c =>
        { c with tlb := c.tlb.filter (fun u => !u.serves asid va) })) asid va
      refine ⟨(s.stillHeld_frame.trans ?_).trans hframe, hmem⟩
      exact FindFrame.modCluster _ cl fun _ => rfl
  · exact s.tileLookup_frame asid va

/-- R209: the bits that an access sets in an entry. -/
def touchBits (t : Tlb) (u : Use) : Dword :=
  (if u.a && !pteA t.pte then 32 else 0) ||| (if u.d && !pteD t.pte then 64 else 0)

theorem State.touch_eq (t : Tlb) (u : Use) : s.touch t u = if touchBits t u == 0 then (s, t) else
    (s.physWrite t.home (leBytes 8 (BitVec.ofNat 64 (s.physLe t.home 8) ||| touchBits t u : Dword).toNat),
      { t with pte := t.pte ||| touchBits t u }) := rfl

/-- R209: setting A and D changes the eight bytes of the entry alone. -/
theorem State.touch_frame (t : Tlb) (u : Use) : FindFrame s (s.touch t u).1 ∧ (s.touch t u).2.home = t.home
    ∧ ∀ b, (b < t.home ∨ t.home + 8 ≤ b) → Memory.byte (s.touch t u).1.mem b = Memory.byte s.mem b := by
  rw [State.touch_eq]
  split
  · exact ⟨FindFrame.refl s, rfl, fun _ _ => rfl⟩
  · exact ⟨⟨rfl, fun _ => rfl⟩, rfl, fun b hb => Memory.byte_put_out _ _ _ _ (by rwa [leBytes_length])⟩

theorem State.hold_frame (cl va : Nat) (t : Tlb) : FindFrame s (s.hold cl va t) ∧ (s.hold cl va t).mem = s.mem :=
  ⟨FindFrame.trans (t := s.modCluster cl (fun c => { c with tlb := holdIn t c.tlb 512 }))
    (FindFrame.modCluster s cl fun _ => rfl) ⟨rfl, fun _ => rfl⟩, rfl⟩

/-- R209, R213: a translation changes memory in the entry that it gives alone. -/
theorem State.xlat_frame (cl asid va : Nat) (u : Use) : FindFrame s (s.xlat cl asid va u).1
    ∧ ∀ t, (s.xlat cl asid va u).2 = .ok t → ∀ b, (b < t.home ∨ t.home + 8 ≤ b) →
      Memory.byte (s.xlat cl asid va u).1.mem b = Memory.byte s.mem b := by
  obtain ⟨hframe, hmem⟩ := s.lookup_frame cl asid va
  unfold State.xlat
  split
  next q c hq =>
    rw [hq] at hframe
    exact ⟨hframe, fun t ht => nomatch ht⟩
  next q t hq =>
    rw [hq] at hframe hmem
    dsimp only at hframe hmem ⊢
    split
    · exact ⟨hframe, fun t ht => nomatch ht⟩
    · obtain ⟨htouch, hhome, hbyte⟩ := q.touch_frame t u
      obtain ⟨hhold, hheld⟩ := (q.touch t u).1.hold_frame cl va (q.touch t u).2
      refine ⟨(hframe.trans htouch).trans hhold, fun t' ht' b hb => ?_⟩
      cases ht'
      rw [hheld, hbyte b (by rwa [← hhome]), hmem]

theorem State.setLine_frame (cl k : Nat) (v : Option (BitVec 1024)) : FindFrame s (s.setLine cl k v) :=
  FindFrame.modCluster s cl fun _ => rfl

theorem State.l1Hit_frame (cl : Nat) (c : L1Use) (t : Tlb) (l : Loc) :
    FindFrame s (s.l1Hit cl c t l).2 ∧ (s.l1Hit cl c t l).2.mem = s.mem := by
  unfold State.l1Hit
  split
  · exact ⟨FindFrame.refl s, rfl⟩
  · dsimp only
    split
    · exact ⟨s.stillHeld_frame, rfl⟩
    · exact ⟨s.stillHeld_frame.trans (State.setLine_frame _ cl _ _), rfl⟩

/-- R204, R206: where a GLB or PRV access goes. -/
theorem State.find_frame (cl asid va n : Nat) (u : Use) (c : L1Use) : FindFrame s (s.find cl asid va n u c).1
    ∧ ∀ p, (s.find cl asid va n u c).2 = .ok p → ∃ l h e, p = .glb l h e ∧
      ∀ b, (b < e.home ∨ e.home + 8 ≤ b) → Memory.byte (s.find cl asid va n u c).1.mem b = Memory.byte s.mem b := by
  obtain ⟨hframe, hbyte⟩ := s.xlat_frame cl asid va u
  unfold State.find
  split
  next q e hq =>
    rw [hq] at hframe
    exact ⟨hframe, fun p hp => nomatch hp⟩
  next q t hq =>
    rw [hq] at hframe hbyte
    obtain ⟨hhit, hmem⟩ := q.l1Hit_frame cl c t (t.loc va)
    have hb := hbyte t rfl
    dsimp only at hframe hb ⊢
    rw [← hmem] at hb
    have hall := hframe.trans hhit
    split
    · refine ⟨hall, fun p hp => ?_⟩
      dsimp only at hp
      split at hp <;> cases hp
      exact ⟨_, _, t, rfl, hb⟩
    · split
      · exact ⟨hall, fun p hp => nomatch hp⟩
      · split
        · exact ⟨hall, fun p hp => nomatch hp⟩
        · refine ⟨hall, fun p hp => ?_⟩
          cases hp
          exact ⟨_, _, t, rfl, hb⟩

theorem resolveLane_frame (f : MF) (k : Ctx) (u : Use) (c : L1Use) (a : LaneAcc) :
    FindFrame s (resolveLane f k u c s a).1
    ∧ ∀ p, (resolveLane f k u c s a).2 = .ok p → ∀ b, (∀ l h (e : Tlb), p = .glb l h e → b < e.home ∨ e.home + 8 ≤ b) →
      Memory.byte (resolveLane f k u c s a).1.mem b = Memory.byte s.mem b := by
  unfold resolveLane
  split
  · exact ⟨FindFrame.refl s, fun _ _ _ _ => rfl⟩
  · split
    · exact ⟨FindFrame.refl s, fun _ _ _ _ => rfl⟩
    · obtain ⟨hframe, hplace⟩ := s.find_frame k.cluster k.asid a.va (MF.sz f) u c
      refine ⟨hframe, fun p hp b hb => ?_⟩
      obtain ⟨l, h, e, rfl, hbyte⟩ := hplace p hp
      exact hbyte b (hb l h e rfl)

end

/-- R204, R206, R209: what finding the places of an access leaves. -/
theorem resolveFrame : Claims.ResolveFrame := by
  intro f k u c lanes
  induction lanes with
  | nil => exact fun s ok _ => ⟨rfl, fun _ => rfl, fun _ _ => rfl⟩
  | cons a lanes ih =>
    intro s ok hok
    cases ok with
    | nil => cases hok
    | cons p ok =>
      obtain ⟨hp, hrest⟩ := List.cons.inj hok
      obtain ⟨ha, hplace⟩ := Prod.mk.inj hp
      obtain ⟨hframe, hbyte⟩ := resolveLane_frame s f k u c a
      obtain ⟨heq, hstores, hbytes⟩ := ih (resolveLane f k u c s a).1 ok hrest
      have hall := hframe.trans ⟨heq, hstores⟩
      refine ⟨hall.eq, hall.stores, fun b hb => ?_⟩
      exact (hbytes b fun q hq => hb q (List.mem_cons_of_mem p hq)).trans
        (hbyte p.2 hplace b fun l h e => hb p List.mem_cons_self l h e)

/-! ### An access whose lanes all go somewhere -/

/-- R217: the order that free values choose is one of the elements' orders, and takes free values alone. -/
theorem shuffle_perm {α : Type} (l : List α) (s : State) :
    ∃ order n, shuffle l.length l s = (order, { s with free := n }) ∧ order.Perm l := by
  generalize hn : l.length = n
  induction n generalizing l s with
  | zero =>
    rw [List.length_eq_zero_iff.mp hn]
    exact ⟨[], s.free, rfl, List.Perm.refl []⟩
  | succ n ih =>
    have hpos : 0 < l.length := by omega
    have hi : s.fresh.1 % l.length < l.length := Nat.mod_lt _ hpos
    obtain ⟨order, m, hshuffle, hperm⟩ := ih (l.eraseIdx (s.fresh.1 % l.length)) s.fresh.2
      (by rw [List.length_eraseIdx_of_lt hi, hn, Nat.add_sub_cancel])
    refine ⟨l[s.fresh.1 % l.length] :: order, m, ?_, ?_⟩
    · cases l with
      | nil => cases hn
      | cons b t =>
        unfold shuffle
        dsimp only
        rw [hshuffle, List.getElem?_eq_getElem hi]
        rfl
    · exact (hperm.cons _).trans (List.getElem_cons_eraseIdx_perm hi)

section
variable {f : MF} {h : MemHow} {ea : Wave → Nat → Nat → Nat} {body : State → LaneAcc → At → State} {k : Ctx} {s : State}
  {ok : List (LaneAcc × At)}

/-- R213, R214, R217: an access none of whose lanes meets a cause performs them one by one. -/
theorem memOp_done (i : Instr) (hc : ∀ x ∈ liveLanes f k s ea, laneCause f k h.write x = none)
    (hok : (resolveAll f k h.use h.l1 (liveLanes f k s ea) s).2 = ok.map (fun p => (p.1, .ok p.2))) :
    let r := resolveAll f k h.use h.l1 (liveLanes f k s ea) s
    ∃ (order : List (LaneAcc × At)) (n : Nat), order.Perm ok
      ∧ ((h.write && !k.vec && anyOverlap (MF.sz f) (ok.map Prod.fst)) = false → order = ok ∧ n = r.1.free)
      ∧ memOp i f h ea body k s = .done (k.each
          ((order.foldl (fun s p => body s p.1 p.2) { r.1 with free := n }).modGang k.gid
            (fun g => { g with memtx := sat64 (g.memtx + sectors ok) }))
          (fun _ x => { x with rpm := 0xFFFFFFFF, timedOut := false, remoteWait := false })) := by
  intro r
  have hnone : (liveLanes f k s ea).find? (fun a => (laneCause f k h.write a).isSome) = none :=
    List.find?_eq_none.mpr fun a ha => by rw [hc a ha]; exact Bool.false_ne_true
  unfold memOp
  simp only [hnone, hok, List.filterMap_map, Function.comp_def, Prod.mk.eta, List.filterMap_some, List.filterMap_none, List.any_nil, Bool.false_and, Bool.false_eq_true, if_false,
    List.isEmpty_nil, if_true]
  cases hov : h.write && !k.vec && anyOverlap (MF.sz f) (ok.map Prod.fst) with
  | false =>
    refine ⟨ok, r.1.free, List.Perm.refl ok, fun _ => ⟨rfl, rfl⟩, ?_⟩
    simp only [Bool.false_eq_true, if_false]
    rfl
  | true =>
    obtain ⟨order, n, hshuffle, hperm⟩ := shuffle_perm ok r.1
    refine ⟨order, n, hperm, fun hf => absurd hf (Bool.true_eq_false_eq_False), ?_⟩
    simp only [if_true, r] at hshuffle ⊢
    rw [hshuffle]
    rfl

end

/-! ### The words (R217 to R221, R224, R225) -/

theorem Res.andThen_self (r : Res) : r.andThen (fun s => s) = r := by cases r <;> rfl

/-- R225: no element of an STF takes an OVF 2 path. -/
theorem stfOp_access {f : MF} {k : Ctx} {s : State} (hfmt : memFmtErr f k = none)
    (hno : ∀ a ∈ liveLanes f k s (fun x l _ => laneEa f f.off.toInt k.wv x l),
      ∀ x, s.wave? a.v = some x → (stfVal f k x a.l).fault = false) :
    stfOp f k s = memOp (.stf f) f ⟨true, useStore, .past⟩ (fun x l _ => laneEa f f.off.toInt k.wv x l) (stfLane f k) k s := by
  simp only [stfOp, hfmt]
  split
  next a ha =>
    have hfault := List.find?_some ha
    have hmem := List.mem_of_find?_eq_some ha
    cases hx : s.wave? a.v with
    | none => simp [hx] at hfault
    | some x => simp [hx, hno a hmem x hx] at hfault
  · rfl

/-- R213, R217: the body of an access is the common course, between what the word does first and last. -/
theorem exec_memWord {i : Instr} {f : MF} {a : Claims.Access} (h : Claims.memWord i = some (f, a)) (s : State) :
    ∃ body, exec i s = issueCore i s body ∧ ∀ k s, a.needs k s →
      body k s = (memOp i f a.how (a.ea k) (a.lane k) k (a.first k s)).andThen (a.last k) := by
  cases i with
  | ld | st | vlds | vsts | atom | cas =>
    cases h
    exact ⟨_, rfl, fun k s _ => (Res.andThen_self _).symm⟩
  | lda f =>
    cases h
    refine ⟨_, rfl, fun k s hn => (Eq.trans ?_ (Res.andThen_self _).symm)⟩
    have hn' : (!f.ix && f.b.getLsbD 0) = false := hn
    rw [ldaOp, hn']
    rfl
  | stl f =>
    cases h
    refine ⟨_, rfl, fun k s hn => ?_⟩
    have hn' : s.releaseWaits k.cluster k.w (MF.scope f) = false := hn
    rw [stlOp, hn']
    rfl
  | ldf f =>
    cases h
    refine ⟨_, rfl, fun k s hn => (Eq.trans ?_ (Res.andThen_self _).symm)⟩
    have hn' : memFmtErr f k = none := hn
    rw [ldfOp, hn']
  | stf f =>
    cases h
    refine ⟨_, rfl, fun k s hn => (Eq.trans ?_ (Res.andThen_self _).symm)⟩
    obtain ⟨hfmt, hno⟩ := hn
    exact stfOp_access hfmt hno
  | _ => cases h

/-- R213, R214, R217: the lane-by-lane accesses complete. -/
theorem accessLanes : Claims.AccessLanes := by
  intro i f a hi s k h hn hc ok hok
  obtain ⟨body, he, hbody⟩ := exec_memWord hi s
  obtain ⟨order, n, hperm, hord, hdone⟩ := memOp_done (body := a.lane k) i hc hok
  exact ⟨order, n, hperm, hord, completes_of_done he h (by rw [hbody k _ hn, hdone]; rfl)⟩

/-- Settles O18: the common course finds no cause and performs each lane at its place; each step of finding a place leaves
memory outside the entry that it gives. -/
theorem accessWords : Obligations.AccessWords := ⟨accessLanes, resolveFrame⟩

end Sys2Proof.Machine
end


section
/-! PROOFS. One lane of a load and one of a store (R198, R203, R205, R218, R224), and a write at a home channel (R2, R14,
R210). -/

namespace Sys2Proof.Machine

/-! ### What a read at a home channel leaves -/

/-- Only the caches, the windows and the free values may differ, and no pending store. -/
structure ReadFrame (s t : State) : Prop where
  eq : t = { s with clusters := t.clusters, windows := t.windows, free := t.free }
  stores : ∀ cl, (t.cluster cl).stores = (s.cluster cl).stores

theorem ReadFrame.refl (s : State) : ReadFrame s s := ⟨rfl, fun _ => rfl⟩

theorem ReadFrame.trans {s t u : State} (h : ReadFrame s t) (g : ReadFrame t u) : ReadFrame s u :=
  ⟨g.eq.trans (by rw [h.eq]), fun cl => (g.stores cl).trans (h.stores cl)⟩

theorem ReadFrame.modCluster (s : State) (cl : Nat) {f : Cluster → Cluster} (h : ∀ c, (f c).stores = c.stores) :
    ReadFrame s (s.modCluster cl f) := ⟨rfl, (FindFrame.modCluster s cl h).stores⟩

section
variable (s : State)

/-- R211: counting a remote access changes the windows alone. -/
theorem State.countWindows_eq (base : Nat) (l : Loc) : s.countWindows base l
    = { s with windows := (s.countWindows base l).windows, free := (s.countWindows base l).free } := by
  unfold State.countWindows
  split
  · rfl
  · generalize List.range 64 = ks
    induction ks generalizing s with
    | nil => rfl
    | cons a ks ih =>
      rw [List.foldl_cons, ih]
      dsimp only
      split <;> rfl

theorem State.countRemote_eq (cl : Nat) (l : Loc) : s.countRemote cl l
    = { s with windows := (s.countRemote cl l).windows, free := (s.countRemote cl l).free } := s.countWindows_eq _ l

theorem State.countRemote_cluster (cl c : Nat) (l : Loc) : (s.countRemote cl l).cluster c = s.cluster c := by
  rw [State.countRemote_eq]
  rfl

/-- R211: only an access of another module is counted. -/
theorem State.countRemote_local (cl : Nat) {l : Loc} (h : l.rmt = false) : s.countRemote cl l = s := by
  simp only [State.countRemote, State.countWindows, h, Bool.not_false, if_true]

theorem State.countRemote_frame (cl : Nat) (l : Loc) : ReadFrame s (s.countRemote cl l) :=
  ⟨by rw [State.countRemote_eq], fun c => congrArg Cluster.stores (s.countRemote_cluster cl c l)⟩

theorem roomFor_state {α : Type} (n k : Nat) (m : SMap α) : (roomFor n k m s).2 = { s with free := (roomFor n k m s).2.free } := by
  unfold roomFor
  split <;> rfl

theorem State.putLine_frame (cl k : Nat) (v : BitVec 1024) : ReadFrame s (s.putLine cl k v) := by
  have hroom : ReadFrame s (roomFor 4096 k (s.cluster cl).l1 s).2 := by
    rw [roomFor_state]
    exact ⟨rfl, fun _ => rfl⟩
  exact hroom.trans (ReadFrame.modCluster
    (f := fun c => { c with l1 := SMap.set (roomFor 4096 k (s.cluster cl).l1 s).1 none k (some v) }) _ cl fun _ => rfl)

theorem State.fill_frame (cl : Nat) (t : Tlb) (l : Loc) : ReadFrame s (s.fill cl t l) := by
  unfold State.fill
  dsimp only
  split
  · exact s.putLine_frame cl _ _
  · exact ReadFrame.refl s

/-- R203, R204: a read at a home channel gives what the cluster sees there. -/
theorem State.readAt_home (k : Ctx) (n : Nat) (c : L1Use) (l : Loc) (t : Tlb) :
    ReadFrame s (s.readAt k n c (.glb l false t)).1
    ∧ (s.readAt k n c (.glb l false t)).2 = leNat (s.seen k.cluster l n) := by
  have hcount := s.countRemote_frame k.cluster l
  refine ⟨?_, rfl⟩
  dsimp only [State.readAt]
  simp only [Bool.false_eq_true, if_false]
  split
  · split
    · exact hcount
    · exact hcount.trans (ReadFrame.modCluster _ k.cluster fun _ => rfl)
  · split
    · exact hcount.trans (State.fill_frame _ k.cluster t l)
    · exact hcount

end

theorem ReadFrame.wave? {s t : State} (h : ReadFrame s t) (v : WaveId) : t.wave? v = s.wave? v := by
  rw [h.eq]
  rfl

/-- A change of waves after a read. -/
theorem ReadFrame.with_waves {s t u : State} (h : ReadFrame s t) (hu : u = { t with waves := u.waves }) :
    u = { s with waves := u.waves, clusters := u.clusters, windows := u.windows, free := u.free } := by
  generalize u.waves = w at hu
  subst hu
  conv_lhs => rw [h.eq]

/-- R203, R218: one lane of a load. -/
theorem loadLanes : Claims.LoadLanes := by
  intro f c k s a x hx
  refine ⟨fun o => ?_, fun o ho => ?_, ?_⟩
  · simp only [loadLane, State.readAt, hx]
  · simp only [loadLane, State.readAt, ho, if_true]
  · intro l t u
    obtain ⟨hframe, hval⟩ := s.readAt_home k (MF.sz f) c l t
    have hu : u = (s.readAt k (MF.sz f) c (.glb l false t)).1.modWave a.v
        (fun y => y.wrData f.size f.d.toNat a.l (loadVal f (leNat (s.seen k.cluster l (MF.sz f))))) := by
      rw [← hval]
      rfl
    refine ⟨?_, fun v => ?_, fun cl => ?_⟩
    · exact hframe.with_waves (by rw [hu]; exact modWave_eq _ _ _)
    · rw [hu, State.wave?_modWave, hframe.wave?]
      simp only [eq_comm]
    · rw [hu, modWave_eq]
      exact hframe.stores cl

/-! ### Stores -/

/-- Two changes of clusters alone are one. -/
theorem with_clusters_trans {s t u : State} (h : t = { s with clusters := t.clusters })
    (hu : u = { t with clusters := u.clusters }) : u = { s with clusters := u.clusters } := by
  generalize u.clusters = c at hu
  subst hu
  rw [h]

theorem with_clusters_after_windows {s t u : State} (h : t = { s with windows := t.windows, free := t.free })
    (hu : u = { t with clusters := u.clusters }) :
    u = { s with clusters := u.clusters, windows := u.windows, free := u.free } := by
  generalize u.clusters = c at hu
  subst hu
  conv_lhs => rw [h]

section
variable (s : State)

theorem State.l1Store_frame (cl : Nat) (l : Loc) (bs : List Byte) :
    s.l1Store cl l bs = { s with clusters := (s.l1Store cl l bs).clusters }
    ∧ (∀ c, ((s.l1Store cl l bs).cluster c).stores = (s.cluster c).stores)
    ∧ ∀ c, c ≠ cl → (s.l1Store cl l bs).cluster c = s.cluster c := by
  unfold State.l1Store
  split
  · exact ⟨rfl, fun _ => rfl, fun _ _ => rfl⟩
  · split
    · refine ⟨rfl, (s.setLine_frame cl _ _).stores, fun c hc => ?_⟩
      exact (State.cluster_setCluster s cl c _).trans (if_neg hc)
    · exact ⟨rfl, fun _ => rfl, fun _ _ => rfl⟩

/-- R205: the pending stores that a store issues; one of 16 bytes is two of 8 (R218). -/
def storesOf (now : Nat) (w : WaveId) (va : Nat) (l : Loc) (t : Tlb) (bs : List Byte) : List PStore :=
  if bs.length = 16 then
    [⟨w, now, l, bs.take 8, BitVec.ofNat 64 va, t, false, 0⟩,
      ⟨w, now, { l with pa := l.pa + 8 }, bs.drop 8, BitVec.ofNat 64 (va + 8), t, false, 0⟩]
  else [⟨w, now, l, bs, BitVec.ofNat 64 va, t, false, 0⟩]

/-- R205: a store is pending in its cluster, and memory is as it was. -/
theorem State.putStore_eq (cl : Nat) (w : WaveId) (va : Nat) (l : Loc) (t : Tlb) (bs : List Byte) :
    let u := s.putStore cl w va l t bs
    u = { s with clusters := u.clusters } ∧ (∀ c, c ≠ cl → u.cluster c = s.cluster c)
    ∧ (u.cluster cl).stores = (s.cluster cl).stores ++ storesOf s.now w va l t bs := by
  intro u
  obtain ⟨heq, hstores, hother⟩ := s.l1Store_frame cl l bs
  have hu : u = (s.l1Store cl l bs).modCluster cl (fun c => { c with stores := c.stores ++ storesOf s.now w va l t bs }) := rfl
  refine ⟨?_, fun c hc => ?_, ?_⟩
  · exact with_clusters_trans heq rfl
  · rw [hu, State.modCluster, State.cluster_setCluster, if_neg hc, hother c hc]
  · rw [hu, State.modCluster, State.cluster_setCluster, if_pos rfl]
    exact congrArg (· ++ _) (hstores cl)

end

theorem storesOf_leBytes (now : Nat) (w : WaveId) (va : Nat) (l : Loc) (t : Tlb) (v : Nat) :
    storesOf now w va l t (leBytes 16 v) = [⟨w, now, l, leBytes 8 v, BitVec.ofNat 64 va, t, false, 0⟩,
      ⟨w, now, { l with pa := l.pa + 8 }, leBytes 8 (v / 2 ^ 64), BitVec.ofNat 64 (va + 8), t, false, 0⟩] := by
  rw [storesOf, leBytes_length, if_pos rfl, leBytes_take _ _ _ (by decide), leBytes_drop]
  rfl

/-- R205, R218: one lane of a store. -/
theorem storeLanes : Claims.StoreLanes := by
  intro f k s a x hx hd v
  have hundo (old : Nat) : s.undoMem k a f.size.toNat old = s := by rw [State.undoMem, hd]; rfl
  refine ⟨fun o => ?_, fun l h t => ?_, fun m o n hn => (valueBytes m o (MF.sz f) v).2.2.1 n hn⟩
  · simp only [storeLane, hx, State.writeAt, hundo]
    rfl
  · intro u
    have hu : u = (s.countRemote k.cluster l).putStore k.cluster a.v a.va l t (leBytes (MF.sz f) v) := by
      simp only [u, storeLane, hx, State.writeAt, hd, Bool.false_eq_true, if_false]
      rfl
    obtain ⟨heq, hother, hstores⟩ := (s.countRemote k.cluster l).putStore_eq k.cluster a.v a.va l t (leBytes (MF.sz f) v)
    rw [← hu] at heq hother hstores
    rw [s.countRemote_cluster, show (s.countRemote k.cluster l).now = s.now by rw [State.countRemote_eq]] at hstores
    refine ⟨?_, fun cl hcl => (hother cl hcl).trans (s.countRemote_cluster k.cluster cl l), fun hsz => ?_, fun hsz => ?_⟩
    · exact with_clusters_after_windows (s.countRemote_eq k.cluster l) heq
    · rw [hstores, storesOf, leBytes_length, if_neg (by omega)]
    · rw [hstores, hsz, storesOf_leBytes]

/-! ### A write at a home channel (R2, R14, R210) -/

/-- A line of this module reads as before: its bytes, its key, the key store and the time are the same. -/
structure SameLine (s t : State) (n : Nat) : Prop where
  now : t.now = s.now
  keys : t.keys = s.keys
  key : SMap.get t.lineKey 0 n = SMap.get s.lineKey 0 n
  bytes : ∀ b, b / 128 = n → Memory.byte t.mem b = Memory.byte s.mem b

theorem with_mem_trans {s t u : State} (h : t = { s with mem := t.mem, lineKey := t.lineKey })
    (h' : u = { t with mem := u.mem, lineKey := u.lineKey }) : u = { s with mem := u.mem, lineKey := u.lineKey } := by
  generalize u.mem = m at h' ⊢
  generalize u.lineKey = ks at h' ⊢
  rw [h', h]

theorem SameLine.trans {s t u : State} {n : Nat} (h : SameLine s t n) (h' : SameLine t u n) : SameLine s u n :=
  ⟨h'.now.trans h.now, h'.keys.trans h.keys, h'.key.trans h.key, fun b hb => (h'.bytes b hb).trans (h.bytes b hb)⟩

section
variable {s t : State} {l : Loc} (hl : l.rmt = false)
include hl

theorem State.keyAt_local : s.keyAt l = s.keyVal l.key := if_neg (by rw [hl]; exact Bool.false_ne_true)

theorem State.wroteKey_local : s.wroteKey l = SMap.get s.lineKey 0 (l.pa / 128) := if_neg (by rw [hl]; exact Bool.false_ne_true)

theorem State.store_local : s.store l = s.mem := if_neg (by rw [hl]; exact Bool.false_ne_true)

theorem SameLine.lineAs (h : SameLine s t (l.pa / 128)) : t.lineAs l = s.lineAs l := by
  have hread : Memory.read t.mem (128 * (l.pa / 128)) 128 = Memory.read s.mem (128 * (l.pa / 128)) 128 :=
    Memory.read_congr fun b hb hlt => h.bytes b (by omega)
  simp only [State.lineAs, State.wroteKey_local hl, State.keyAt_local hl, State.store_local hl, State.keyVal, h.key, h.keys,
    h.now, Memory.le, hread]

theorem SameLine.homeByte (h : SameLine s t (l.pa / 128)) : t.homeByte l = s.homeByte l := by
  simp only [State.homeByte, h.lineAs hl, State.wroteKey_local hl, State.keyAt_local hl, State.store_local hl, State.keyVal,
    h.key, h.keys, h.now, h.bytes l.pa rfl]

/-- R210: what taking a line under a key changes. -/
theorem State.rekey_local (n : Nat) : s.rekey l n = if SMap.get s.lineKey 0 n = s.keyVal l.key then s else
    { s with mem := Memory.setLe s.mem (128 * n) 128 (s.lineAs { l with pa := 128 * n }).toNat
             lineKey := SMap.set s.lineKey 0 n (s.keyVal l.key) } := by
  have hdiv : 128 * n / 128 = n := by omega
  obtain ⟨rmt, pa, key⟩ := l
  cases hl
  simp only [State.rekey, State.wroteKey, State.keyAt, State.store, Bool.false_eq_true, if_false, hdiv, beq_iff_eq]

theorem State.rekey_frame (n : Nat) :
    s.rekey l n = { s with mem := (s.rekey l n).mem, lineKey := (s.rekey l n).lineKey } := by
  rw [State.rekey_local hl]
  split <;> rfl

/-- R210: a line is under the key once it has been taken so, and stays so. -/
theorem State.rekey_key (n m : Nat) : SMap.get (s.rekey l n).lineKey 0 m
    = if m = n then s.keyVal l.key else SMap.get s.lineKey 0 m := by
  rw [State.rekey_local hl]
  split
  · next h =>
    split
    · next hm => rw [hm, h]
    · rfl
  · exact SMap.get_set _ _ _ _ _

/-- R210: other lines read as before. -/
theorem State.rekey_sameLine {n m : Nat} (h : m ≠ n) : SameLine s (s.rekey l n) m := by
  refine ⟨by rw [State.rekey_frame hl], by rw [State.rekey_frame hl], by rw [State.rekey_key hl, if_neg h], fun b hb => ?_⟩
  rw [State.rekey_local hl]
  split
  · rfl
  · exact (valueBytes s.mem (128 * n) 128 _).2.2.1 b (by omega)

/-- R210: what an access sees of a line is the same for all its bytes. -/
theorem State.lineAs_of_line {a b : Nat} (h : a / 128 = b / 128) :
    s.lineAs { l with pa := a } = s.lineAs { l with pa := b } := by
  obtain ⟨rmt, pa, key⟩ := l
  cases hl
  simp only [State.lineAs, State.wroteKey, State.keyAt, State.store, Bool.false_eq_true, if_false, h]

/-- R2, R14, R210: a byte of a line that is under the key of the access is the byte of memory. -/
theorem State.homeByte_of_key (hkey : SMap.get s.lineKey 0 (l.pa / 128) = s.keyVal l.key) :
    s.homeByte l = if hbmBytes ≤ l.pa then Config.noMemory l.pa s.now else Memory.byte s.mem l.pa := by
  simp only [State.homeByte, State.wroteKey_local hl, State.keyAt_local hl, State.store_local hl, hkey, hl, Bool.not_false,
    Bool.true_and, decide_eq_true_eq, beq_self_eq_true, if_true]

/-- R210: a byte of a line that is under another key is decrypted under that of the access. -/
theorem State.homeByte_of_other_key (hkey : SMap.get s.lineKey 0 (l.pa / 128) ≠ s.keyVal l.key) :
    s.homeByte l = if hbmBytes ≤ l.pa then Config.noMemory l.pa s.now
      else (s.lineAs l).extractLsb' (8 * (l.pa % 128)) 8 := by
  simp only [State.homeByte, State.wroteKey_local hl, State.keyAt_local hl, State.store_local hl, beq_false_of_ne hkey, hl,
    Bool.not_false, Bool.true_and, decide_eq_true_eq, Bool.false_eq_true, if_false]

omit hl in
/-- R2: a byte of a line as a number. -/
theorem ofNat_div_eq_extractLsb' (v : BitVec 1024) (i : Nat) :
    BitVec.ofNat 8 (v.toNat / 2 ^ (8 * i)) = v.extractLsb' (8 * i) 8 := by
  apply BitVec.eq_of_toNat_eq
  rw [BitVec.toNat_ofNat, BitVec.extractLsb'_toNat, Nat.shiftRight_eq_div_pow]

/-- R210: under the key of the access a line reads as before. -/
theorem State.rekey_homeByte (n a : Nat) : (s.rekey l n).homeByte { l with pa := a } = s.homeByte { l with pa := a } := by
  by_cases hn : a / 128 = n
  · by_cases hsame : SMap.get s.lineKey 0 n = s.keyVal l.key
    · rw [State.rekey_local hl, if_pos hsame]
    · have hkeys : (s.rekey l n).keyVal l.key = s.keyVal l.key := by rw [State.rekey_frame hl]; rfl
      have hbyte : Memory.byte (s.rekey l n).mem a = (s.lineAs { l with pa := a }).extractLsb' (8 * (a % 128)) 8 := by
        have h := (valueBytes s.mem (128 * n) 128 (s.lineAs { l with pa := 128 * n }).toNat).2.1 (a % 128) (by omega)
        rw [show 128 * n + a % 128 = a by omega] at h
        rw [State.rekey_local hl, if_neg hsame, State.lineAs_of_line hl (a := a) (b := 128 * n) (by omega)]
        dsimp only
        rw [h]
        exact ofNat_div_eq_extractLsb' _ _
      rw [State.homeByte_of_key (l := { l with pa := a }) hl (by rw [State.rekey_key hl, if_pos hn, hkeys]),
        State.homeByte_of_other_key (l := { l with pa := a }) hl (by rwa [hn]), hbyte,
        show (s.rekey l n).now = s.now by rw [State.rekey_frame hl]]
  · exact (State.rekey_sameLine hl hn).homeByte hl

/-! ### All the lines of a write -/

/-- The lines of a write, taken under its key one after the other. -/
def State.rekeyAll (s : State) (l : Loc) (ls : List Nat) : State := ls.foldl (fun s n => s.rekey l n) s

theorem State.rekeyAll_spec (ls : List Nat) (s : State) : let t := s.rekeyAll l ls
    t = { s with mem := t.mem, lineKey := t.lineKey }
    ∧ (∀ m, SMap.get t.lineKey 0 m = if m ∈ ls then s.keyVal l.key else SMap.get s.lineKey 0 m)
    ∧ (∀ a, t.homeByte { l with pa := a } = s.homeByte { l with pa := a })
    ∧ ∀ m, m ∉ ls → SameLine s t m := by
  induction ls generalizing s with
  | nil => exact ⟨rfl, fun m => rfl, fun a => rfl, fun m _ => ⟨rfl, rfl, rfl, fun b _ => rfl⟩⟩
  | cons n ls ih =>
    obtain ⟨hframe, hkey, hbyte, hline⟩ := ih (s.rekey l n)
    have hfirst := s.rekey_frame hl n
    have hkeys : (s.rekey l n).keyVal l.key = s.keyVal l.key := by rw [hfirst]; rfl
    change (s.rekeyAll l (n :: ls)) = _ at hframe
    refine ⟨?_, fun m => ?_, fun a => (hbyte a).trans (s.rekey_homeByte hl n a), fun m hm => ?_⟩
    · exact with_mem_trans hfirst hframe
    · refine (hkey m).trans ?_
      rw [hkeys, s.rekey_key hl n m]
      by_cases hm : m ∈ ls <;> by_cases hn : m = n <;> simp [hm, hn]
    · obtain ⟨hn, hls⟩ := not_or.mp (mt List.mem_cons.mpr hm)
      exact (s.rekey_sameLine hl hn).trans (hline m hls)

end

theorem mem_linesOf (a len n : Nat) : n ∈ linesOf a len ↔ 0 < len ∧ a / 128 ≤ n ∧ n ≤ (a + len - 1) / 128 := by
  rw [linesOf]
  split
  · next h => simp [h]
  · simp only [List.mem_map, List.mem_range]
    constructor
    · rintro ⟨i, hi, rfl⟩
      omega
    · intro h
      exact ⟨n - a / 128, by omega, by omega⟩

/-- R2, R14, R210: a write at a home channel of this module. -/
theorem homeWrites : Claims.HomeWrites := by
  intro s l bs hl hlen t
  let ls := (linesOf l.pa bs.length).filter (fun n => l.rmt || 128 * n < hbmBytes)
  have ht : t = (s.rekeyAll l ls).physWrite l.pa bs := by
    simp only [t, State.homeWrite, State.rekeyAll, ls]
    rw [if_neg (by rw [hl]; exact Bool.false_ne_true)]
  obtain ⟨hframe, hkey, hbyte, hline⟩ := s.rekeyAll_spec hl ls
  have htframe : t = { s with mem := t.mem, lineKey := t.lineKey } := by
    rw [ht, State.physWrite]
    conv_lhs => rw [hframe]
  have hmem (b : Nat) : Memory.byte t.mem b = if l.pa ≤ b then (bs[b - l.pa]?).getD (Memory.byte (s.rekeyAll l ls).mem b)
      else Memory.byte (s.rekeyAll l ls).mem b := by
    rw [ht, State.physWrite, Memory.put, List.take_of_length_le (by omega), Memory.byte_write]
  have hin (b : Nat) (hb : l.pa ≤ b) (hlt : b < l.pa + bs.length) : b / 128 ∈ ls := by
    refine List.mem_filter.mpr ⟨(mem_linesOf _ _ _).mpr ⟨by omega, by omega, by omega⟩, ?_⟩
    rw [hl, Bool.false_or, decide_eq_true_eq]
    omega
  have hkeys : t.keyVal l.key = s.keyVal l.key := by rw [htframe]; rfl
  have htkey (m : Nat) : SMap.get t.lineKey 0 m = if m ∈ ls then s.keyVal l.key else SMap.get s.lineKey 0 m := by
    rw [ht]
    exact hkey m
  have hout (m : Nat) (hm : m ∉ ls) : SameLine s t m := by
    refine (hline m hm).trans ⟨by rw [ht]; rfl, by rw [ht]; rfl, by rw [ht]; rfl, fun b hb => ?_⟩
    have hdis : ¬(l.pa ≤ b ∧ b < l.pa + bs.length) := fun h => hm (hb ▸ hin b h.1 h.2)
    rw [hmem]
    split
    · rw [List.getElem?_eq_none (by omega)]
      rfl
    · rfl
  refine ⟨htframe, fun a => ?_, fun m hm hdis => (hout _ ?_).homeByte hm⟩
  · by_cases hb : a / 128 ∈ ls
    · rw [← hbyte a, State.homeByte_of_key (l := { l with pa := a }) hl (by rw [htkey, if_pos hb, hkeys]),
        State.homeByte_of_key (s := s.rekeyAll l ls) (l := { l with pa := a }) hl
          (by rw [hkey, if_pos hb, hframe]; rfl), hmem, show t.now = (s.rekeyAll l ls).now by rw [ht]; rfl]
      dsimp only
      by_cases hbm : hbmBytes ≤ a
      · rw [if_pos hbm, if_pos hbm, List.getElem?_eq_none (by omega), Option.getD_none, ite_self]
      · rw [if_neg hbm, if_neg hbm]
    · rw [(hout _ hb).homeByte (l := { l with pa := a }) hl]
      split
      · rw [List.getElem?_eq_none (not_lt.mp fun h => hb (hin a (by omega) (by omega)))]
        rfl
      · rfl
  · intro hls
    have hbounds := (mem_linesOf _ _ _).mp (List.mem_filter.mp hls).1
    omega

/-- Settles O19: what a lane of a load and a lane of a store leave, and a write at a home channel of this module byte by
byte: the lines that it touches are taken under its key first, which changes no byte that an access under the key sees. -/
theorem loadsAndStores : Obligations.LoadsAndStores := ⟨loadLanes, storeLanes, homeWrites⟩

end Sys2Proof.Machine
end

section
/-! PROOFS. One lane of an atomic (R220, R221). -/

namespace Sys2Proof.Machine

/-! ### What performing a store changes -/

/-- Only memory, in this module and behind the links, and the keys that lines are under may differ. -/
structure MemFrame (s t : State) : Prop where
  eq : t = { s with mem := t.mem, lineKey := t.lineKey, remote := t.remote, remoteKey := t.remoteKey }

theorem MemFrame.refl (s : State) : MemFrame s s := ⟨rfl⟩

theorem MemFrame.trans {s t u : State} (h : MemFrame s t) (g : MemFrame t u) : MemFrame s u :=
  ⟨g.eq.trans (by rw [h.eq])⟩

section
variable (s : State)

/-- R210: taking a line under a key changes memory and the keys that lines are under. -/
theorem State.rekey_mem (l : Loc) (n : Nat) : MemFrame s (s.rekey l n) := by
  unfold State.rekey
  dsimp only
  split
  · exact ⟨rfl⟩
  · split <;> exact ⟨rfl⟩

theorem State.rekeyAll_mem (l : Loc) (ls : List Nat) : MemFrame s (s.rekeyAll l ls) := by
  induction ls generalizing s with
  | nil => exact MemFrame.refl s
  | cons n ls ih => exact (s.rekey_mem l n).trans (ih (s.rekey l n))

/-- The lines that a write takes under its key. -/
def Loc.lines (l : Loc) (n : Nat) : List Nat := (linesOf l.pa n).filter (fun n => l.rmt || 128 * n < hbmBytes)

theorem State.homeWrite_eq_rekeyAll (l : Loc) (bs : List Byte) : s.homeWrite l bs =
    if l.rmt then { s.rekeyAll l (l.lines bs.length) with
      remote := Memory.write (s.rekeyAll l (l.lines bs.length)).remote l.pa bs }
    else (s.rekeyAll l (l.lines bs.length)).physWrite l.pa bs := rfl

/-- R205: a write at a home channel changes memory and the keys that lines are under. -/
theorem State.homeWrite_mem (l : Loc) (bs : List Byte) : MemFrame s (s.homeWrite l bs) := by
  rw [State.homeWrite_eq_rekeyAll]
  refine (s.rekeyAll_mem l (l.lines bs.length)).trans ?_
  split <;> exact ⟨rfl⟩

/-! ### Clusters play no part in it -/

theorem State.rekey_with_clusters (c : SMap Cluster) (l : Loc) (n : Nat) :
    ({ s with clusters := c } : State).rekey l n = { s.rekey l n with clusters := c } := by
  have hwrote (m : Loc) : ({ s with clusters := c } : State).wroteKey m = s.wroteKey m := rfl
  have hat (m : Loc) : ({ s with clusters := c } : State).keyAt m = s.keyAt m := rfl
  have hline (m : Loc) : ({ s with clusters := c } : State).lineAs m = s.lineAs m := rfl
  have hstore (m : Loc) : ({ s with clusters := c } : State).store m = s.store m := rfl
  unfold State.rekey
  simp only [hwrote, hat, hline, hstore]
  split
  · rfl
  · split <;> rfl

theorem State.rekeyAll_with_clusters (c : SMap Cluster) (l : Loc) (ls : List Nat) :
    ({ s with clusters := c } : State).rekeyAll l ls = { s.rekeyAll l ls with clusters := c } := by
  induction ls generalizing s with
  | nil => rfl
  | cons n ls ih =>
    rw [State.rekeyAll, List.foldl_cons, State.rekey_with_clusters]
    exact ih (s.rekey l n)

theorem State.homeWrite_with_clusters (c : SMap Cluster) (l : Loc) (bs : List Byte) :
    ({ s with clusters := c } : State).homeWrite l bs = { s.homeWrite l bs with clusters := c } := by
  rw [State.homeWrite_eq_rekeyAll, State.homeWrite_eq_rekeyAll, State.rekeyAll_with_clusters]
  split <;> rfl

theorem State.homeRead_with_clusters (c : SMap Cluster) (l : Loc) (n : Nat) :
    ({ s with clusters := c } : State).homeRead l n = s.homeRead l n := by
  induction n generalizing l with
  | zero => rfl
  | succ n ih => exact congrArg (s.homeByte l :: ·) (ih { l with pa := l.pa + 1 })

end

/-! ### The pending stores that are performed (R205) -/

theorem pickStores_left {pick : PStore → Bool} {ps : List PStore} {p : PStore} (h : p ∈ (pickStores pick ps).2) :
    p ∈ ps ∧ pick p = false := by
  induction ps with
  | nil => exact absurd h List.not_mem_nil
  | cons q ps ih =>
    rw [pickStores, List.foldr_cons] at h
    split at h
    · exact ⟨List.mem_cons_of_mem _ (ih h).1, (ih h).2⟩
    · next hq =>
      rcases List.mem_cons.mp h with rfl | h
      · exact ⟨List.mem_cons_self, by simp_all⟩
      · exact ⟨List.mem_cons_of_mem _ (ih h).1, (ih h).2⟩

/-- Where no store is named, all stay pending. -/
theorem pickStores_none {pick : PStore → Bool} {ps : List PStore} (h : ∀ p ∈ ps, pick p = false) :
    pickStores pick ps = ([], ps) := by
  induction ps with
  | nil => rfl
  | cons q ps ih =>
    have htail : pickStores pick ps = ([], ps) := ih fun p hp => h p (List.mem_cons_of_mem _ hp)
    rw [pickStores] at htail ⊢
    rw [List.foldr_cons, htail, h q List.mem_cons_self]
    rfl

theorem State.performAll_mem (s : State) (ps : List PStore) : MemFrame s (ps.foldl State.perform s) := by
  induction ps generalizing s with
  | nil => exact MemFrame.refl s
  | cons p ps ih => exact (s.homeWrite_mem p.loc p.bytes).trans (ih (s.perform p))

theorem State.performPicked_wave? (s : State) (cl : Nat) (pick : PStore → Bool) (v : WaveId) :
    (s.performPicked cl pick).wave? v = s.wave? v := by
  rw [State.performPicked, (State.performAll_mem _ _).eq]
  rfl

theorem State.performPicked_stores (s : State) (cl : Nat) (pick : PStore → Bool) :
    ((s.performPicked cl pick).cluster cl).stores = (pickStores pick (s.cluster cl).stores).2 :=
  congrArg Cluster.stores ((State.cluster_setCluster _ cl cl _).trans (if_pos rfl))

theorem State.performPicked_none (s : State) (cl : Nat) {pick : PStore → Bool}
    (h : ∀ p ∈ (s.cluster cl).stores, pick p = false) :
    s.performPicked cl pick = { s with clusters := (s.performPicked cl pick).clusters } := by
  rw [State.performPicked, pickStores_none h]
  rfl

/-! ### Read-modify-write (R220, R392) -/

/-- Memory after a read-modify-write with the new value that there may be. -/
def State.written (q : State) (l : Loc) (n : Nat) (new : Option Nat) : State :=
  new.elim q (fun v => q.homeWrite l (leBytes n v))

theorem State.written_keeps (q : State) (l : Loc) (n : Nat) (new : Option Nat) : MemFrame q (q.written l n new) := by
  cases new with
  | none => exact MemFrame.refl q
  | some v => exact q.homeWrite_mem l (leBytes n v)

theorem State.written_with_clusters (q : State) (c : SMap Cluster) (l : Loc) (n : Nat) (new : Option Nat) :
    ({ q with clusters := c } : State).written l n new = { q.written l n new with clusters := c } := by
  cases new with
  | none => rfl
  | some v => exact q.homeWrite_with_clusters c l (leBytes n v)

theorem MemFrame.clusters {s t : State} (h : MemFrame s t) : t.clusters = s.clusters := by rw [h.eq]

theorem MemFrame.wave? {s t : State} (h : MemFrame s t) (v : WaveId) : t.wave? v = s.wave? v := by
  rw [h.eq]
  rfl

theorem State.rmw_spec (s : State) (cl : Nat) (l : Loc) (n : Nat) (g : Nat → Option Nat) :
    let q := s.performRange cl l n
    let old := leNat (q.homeRead l n)
    let r := s.rmw cl l n g
    r.2 = old ∧ r.1 = { q.written l n (g old) with clusters := r.1.clusters }
    ∧ (r.1.cluster cl).stores = (q.cluster cl).stores
    ∧ (l.rmt = false → (r.1.cluster cl).line? (l.pa / 128) = none) := by
  intro q old r
  let d : State := if l.rmt then q else q.setLine cl (l.pa / 128) none
  have hr : r = (d.written l n (g old), old) := by
    simp only [r, State.rmw, State.written]
    change (match g old with | some v => _ | none => _) = _
    cases g old <;> rfl
  have hd : d = { q with clusters := d.clusters } := by
    simp only [d]
    split <;> rfl
  have hclusters : (d.written l n (g old)).clusters = d.clusters := (d.written_keeps l n (g old)).clusters
  have hcl : r.1.cluster cl = d.cluster cl := by
    rw [hr, State.cluster, State.cluster, hclusters]
  refine ⟨by rw [hr], ?_, ?_, fun hl => ?_⟩
  · rw [hr]
    dsimp only
    rw [hclusters]
    conv_lhs => rw [hd, State.written_with_clusters]
  · rw [hcl]
    simp only [d]
    split
    · rfl
    · exact (q.setLine_frame cl _ _).stores cl
  · rw [hcl]
    simp only [d, hl, Bool.false_eq_true, if_false, State.setLine, State.modCluster, State.cluster_setCluster, if_true,
      Cluster.line?, SMap.get_set]

/-- R209: an entry whose A and D are set stays as it is. -/
theorem State.touch_of_set (s : State) {t : Tlb} (ha : pteA t.pte = true) (hd : pteD t.pte = true) (u : Use) :
    s.touch t u = (s, t) := by
  rw [State.touch_eq, touchBits, ha, hd, Bool.not_true, Bool.and_false, Bool.and_false]
  rfl

theorem State.rmwAt_crw (s : State) (k : Ctx) (a : LaneAcc) (size : Nat) (g : Nat → Option Nat) (o : Nat) (y : Crew)
    (hdebug : k.c.debug = false) (hy : s.crew? k.w.crew = some y) :
    let old := Memory.le y.crw o (2 ^ size)
    s.rmwAt k a size g (.crw o) = ((g old).elim s (fun v => s.setCrw k o (2 ^ size) v), old) := by
  intro old
  have hundo (s : State) (old : Nat) : s.undoMem k a size old = s := by rw [State.undoMem, hdebug]; rfl
  simp only [State.rmwAt, State.readAt, hy, hundo]
  change (match g old with | some v => _ | none => _) = _
  cases g old <;> rfl

theorem State.rmwAt_glb (s : State) (k : Ctx) (a : LaneAcc) (size : Nat) (g : Nat → Option Nat) (l : Loc) (h : Bool) (t : Tlb)
    (hdebug : k.c.debug = false) (ha : pteA t.pte = true) (hd : pteD t.pte = true) :
    s.rmwAt k a size g (.glb l h t) = (s.countRemote k.cluster l).rmw k.cluster l (2 ^ size) g := by
  have hundo (s : State) (old : Nat) : s.undoMem k a size old = s := by rw [State.undoMem, hdebug]; rfl
  simp only [State.rmwAt, State.touch_of_set _ ha hd, hundo]
  split <;> rfl

/-! ### The lanes -/

/-- R220: the state after a lane of an atomic: its wave, memory as `m` has it, the pending stores, and L1. -/
def AtomicLeaves (q m : State) (cl : Nat) (l : Loc) (v : WaveId) (y : Wave) (u : State) : Prop :=
  u.wave? v = some y ∧ u = { m with waves := u.waves, clusters := u.clusters }
  ∧ (u.cluster cl).stores = (q.cluster cl).stores ∧ (l.rmt = false → (u.cluster cl).line? (l.pa / 128) = none)

theorem with_waves_and_clusters {m r u : State} {c : SMap Cluster} (h : r = { m with clusters := c })
    (hu : u = { r with waves := u.waves }) : u = { m with waves := u.waves, clusters := c } := by
  generalize u.waves = w at hu ⊢
  rw [hu, h]

theorem atomicLeaves_rmw (s : State) (k : Ctx) (n : Nat) (g : Nat → Option Nat) (l : Loc) {v : WaveId} {x : Wave}
    (hx : s.wave? v = some x) (f : Nat → Wave → Wave) :
    let q := (s.countRemote k.cluster l).performRange k.cluster l n
    let old := leNat (q.homeRead l n)
    let r := (s.countRemote k.cluster l).rmw k.cluster l n g
    AtomicLeaves q (q.written l n (g old)) k.cluster l v (f old x) (r.1.modWave v (f r.2)) := by
  intro q old r
  obtain ⟨hold, hstate, hstores, hline⟩ := (s.countRemote k.cluster l).rmw_spec k.cluster l n g
  change r.2 = old at hold
  change r.1 = { q.written l n (g old) with clusters := r.1.clusters } at hstate
  rw [hold]
  have hu := modWave_eq r.1 v (f old)
  have hclusters : (r.1.modWave v (f old)).clusters = r.1.clusters := by rw [hu]
  have hcl : (r.1.modWave v (f old)).cluster k.cluster = r.1.cluster k.cluster := by
    rw [State.cluster, hclusters]
    rfl
  have hwave : r.1.wave? v = some x := by
    rw [hstate]
    exact ((q.written_keeps l n (g old)).wave? v).trans
      ((State.performPicked_wave? _ _ _ v).trans (((s.countRemote_frame k.cluster l).wave? v).trans hx))
  refine ⟨?_, ?_, by rw [hcl]; exact hstores, fun hl => by rw [hcl]; exact hline hl⟩
  · rw [State.wave?_modWave, if_pos rfl, hwave]
    rfl
  · rw [hclusters]
    exact with_waves_and_clusters hstate hu

section
variable (f : MF) (k : Ctx) (s : State) (a : LaneAcc) (x : Wave) (hx : s.wave? a.v = some x) (hdebug : k.c.debug = false)
include hx hdebug

/-- R220: ATOM in crew memory. -/
theorem atomLane_crw (o : Nat) (y : Crew) (hy : s.crew? k.w.crew = some y) :
    let old := Memory.le y.crw o (MF.sz f)
    let new := atomNew (fld f.off 11 8) (8 * MF.sz f) old (x.rdData f.size f.b.toNat a.l % 2 ^ (8 * MF.sz f))
    atomLane f k s a (.crw o) = (s.setCrw k o (MF.sz f) new).modWave a.v (fun z => z.wrData f.size f.d.toNat a.l old) := by
  simp only [atomLane, hx, s.rmwAt_crw k a _ _ o y hdebug hy]
  rfl

/-- R221: CAS in crew memory. -/
theorem casLane_crw (o : Nat) (y : Crew) (hy : s.crew? k.w.crew = some y) :
    let old := Memory.le y.crw o (MF.sz f)
    let w := 8 * MF.sz f
    casLane f k s a (.crw o) = (if old = x.rdData f.size f.b.toNat a.l % 2 ^ w then
        s.setCrw k o (MF.sz f) (x.rdData f.size f.d.toNat a.l % 2 ^ w)
      else s).modWave a.v (fun z => z.wrData f.size f.d.toNat a.l old) := by
  intro old w
  simp only [casLane, hx, s.rmwAt_crw k a _ _ o y hdebug hy]
  rw [apply_ite (fun new : Option Nat => new.elim s (fun v => s.setCrw k o (2 ^ f.size.toNat) v))]
  rfl

/-- R220: ATOM at a home channel. -/
theorem atomLane_glb (l : Loc) (h : Bool) (t : Tlb) (ha : pteA t.pte = true) (hd : pteD t.pte = true) :
    let w := 8 * MF.sz f
    let r := (s.countRemote k.cluster l).rmw k.cluster l (MF.sz f)
      (fun o => some (atomNew (fld f.off 11 8) w o (x.rdData f.size f.b.toNat a.l % 2 ^ w)))
    atomLane f k s a (.glb l h t) = r.1.modWave a.v (fun y => y.wrData f.size f.d.toNat a.l r.2) := by
  simp only [atomLane, hx, State.rmwAt_glb s k a _ _ l h t hdebug ha hd]
  rfl

/-- R221: CAS at a home channel. -/
theorem casLane_glb (l : Loc) (h : Bool) (t : Tlb) (ha : pteA t.pte = true) (hd : pteD t.pte = true) :
    let w := 8 * MF.sz f
    let r := (s.countRemote k.cluster l).rmw k.cluster l (MF.sz f)
      (fun o => if o = x.rdData f.size f.b.toNat a.l % 2 ^ w then some (x.rdData f.size f.d.toNat a.l % 2 ^ w) else none)
    casLane f k s a (.glb l h t) = r.1.modWave a.v (fun y => y.wrData f.size f.d.toNat a.l r.2) := by
  simp only [casLane, hx, State.rmwAt_glb s k a _ _ l h t hdebug ha hd]
  rfl

end

theorem atomicsAnywhere : Claims.AtomicsAnywhere := by
  intro f k s a x hx hdebug n w b d
  refine ⟨fun o y hy => ⟨atomLane_crw f k s a x hx hdebug o y hy, casLane_crw f k s a x hx hdebug o y hy⟩, fun l h t ha hd => ?_⟩
  intro q old put is
  refine ⟨fun p hp => ?_, ?_, ?_⟩
  · have hstores : (q.cluster k.cluster).stores = (pickStores (fun p => p.touches l n) (s.cluster k.cluster).stores).2 := by
      rw [← s.countRemote_cluster k.cluster k.cluster l]
      exact State.performPicked_stores _ _ _
    rw [hstores] at hp
    exact pickStores_left hp
  · rw [atomLane_glb f k s a x hx hdebug l h t ha hd]
    exact atomicLeaves_rmw s k n (fun o => some (atomNew (fld f.off 11 8) w o b)) l hx (fun old y => y.wrData f.size f.d.toNat a.l old)
  · have hput : (if old = b then put d else q) = q.written l n (if old = b then some d else none) := by split <;> rfl
    rw [casLane_glb f k s a x hx hdebug l h t ha hd, hput]
    exact atomicLeaves_rmw s k n (fun o => if o = b then some d else none) l hx (fun old y => y.wrData f.size f.d.toNat a.l old)

/-- R220, R221: with no pending store to the location, memory is written as it is. -/
theorem atomicLeaves_of_untouched (s : State) (k : Ctx) (n : Nat) (g : Nat → Option Nat) (l : Loc) {v : WaveId} {x : Wave}
    (hx : s.wave? v = some x) (f : Nat → Wave → Wave) (hl : l.rmt = false)
    (hstores : ∀ p ∈ (s.cluster k.cluster).stores, p.touches l n = false) :
    let old := leNat (s.homeRead l n)
    let r := (s.countRemote k.cluster l).rmw k.cluster l n g
    let u := r.1.modWave v (f r.2)
    u.wave? v = some (f old x) ∧ u = { s.written l n (g old) with waves := u.waves, clusters := u.clusters } := by
  intro old r u
  let q := (s.countRemote k.cluster l).performRange k.cluster l n
  have hq : q = { s with clusters := q.clusters } := by
    simp only [q, s.countRemote_local k.cluster hl]
    exact s.performPicked_none k.cluster hstores
  have hold : leNat (q.homeRead l n) = old := by
    rw [hq]
    exact congrArg leNat (s.homeRead_with_clusters _ l n)
  have hwritten : q.written l n (g old) = { s.written l n (g old) with clusters := q.clusters } := by
    conv_lhs => rw [hq, State.written_with_clusters]
  obtain ⟨hwave, hstate, -, -⟩ := atomicLeaves_rmw s k n g l hx f
  change _ = some (f (leNat (q.homeRead l n)) x) at hwave
  change u = { q.written l n (g (leNat (q.homeRead l n))) with waves := u.waves, clusters := u.clusters } at hstate
  rw [hold] at hwave hstate
  rw [hwritten] at hstate
  exact ⟨hwave, hstate⟩

theorem atomicsAtHome : Claims.AtomicsAtHome := by
  intro f k s a x l h t hl hx hdebug hstores ha hd w old b d put
  have hput : (if old = b then put d else s) = s.written l (MF.sz f) (if old = b then some d else none) := by split <;> rfl
  refine ⟨?_, ?_⟩
  · rw [atomLane_glb f k s a x hx hdebug l h t ha hd]
    exact atomicLeaves_of_untouched s k (MF.sz f) (fun o => some (atomNew (fld f.off 11 8) w o b)) l hx
      (fun old y => y.wrData f.size f.d.toNat a.l old) hl hstores
  · rw [casLane_glb f k s a x hx hdebug l h t ha hd, hput]
    exact atomicLeaves_of_untouched s k (MF.sz f) (fun o => if o = b then some d else none) l hx
      (fun old y => y.wrData f.size f.d.toNat a.l old) hl hstores

/-- Settles O20: what a lane of ATOM and of CAS leaves in crew memory, at the home channel of this module, and at that of
another. -/
theorem atomicLanes : Obligations.AtomicLanes := ⟨atomicsAnywhere, atomicsAtHome⟩

end Sys2Proof.Machine
end

section
/-! PROOFS. The uniform loads (R218, R219). -/

namespace Sys2Proof.Machine

/-- R218: a uniform load whose element meets no cause gives S[D] the bytes at its place. -/
theorem uniLoad_done (f : MF) (c : L1Use) (k : Ctx) (s : State) (p : At) :
    let ea := wrap 64 ((k.wv.rdS f.a.toNat).toNat + f.off.toInt)
    let a : LaneAcc := ⟨uniElem k, k.w, uniElem k % 32, ea, laneVa f k (uniElem k) ea⟩
    let r := resolveLane f k useLoad c s a
    let v := r.1.readAt k (MF.sz f) c p
    laneCause f k false a = none → r.2 = .ok p →
    uniLoad f c k s = .done ((v.1.addMemtx k.gid (sectors [(a, p)])).modWave k.w (fun x =>
      { x.wrS f.d.toNat (BitVec.ofNat 64 (if f.sx then wrap 64 (sgn (8 * MF.sz f) v.2) else v.2)) with
        timedOut := false, remoteWait := false })) := by
  intro ea a r v hcause hok
  have hr : resolveLane f k useLoad c s a = (r.1, .ok p) := Prod.ext rfl hok
  unfold uniLoad
  simp only [a, ea] at hcause hr
  simp only [hcause, hr]
  rfl

/-- R218, R219: a uniform load runs the common course, after the acquire of an LDA. -/
theorem exec_uniWord {i : Instr} {f : MF} {c : L1Use} {g : Ctx → State → State} (h : Claims.uniWord i = some (f, c, g))
    (s : State) : exec i s = issueCore i s (fun k s => uniLoad f c k (g k s)) := by
  cases i with
  | ldUniform f =>
    cases h
    rfl
  | lda f =>
    rw [Claims.uniWord] at h
    split at h
    · next hu =>
      cases h
      refine congrArg (issueCore (.lda f) s) (funext fun k => funext fun s => ?_)
      rw [ldaOp, hu]
      rfl
    · cases h
  | _ => cases h

/-- Settles O21: the uniform loads run one course, whose element meets no cause. -/
theorem uniformLoads : Obligations.UniformLoads := by
  intro i f c g hi s k p h ea e a r hcause hok v
  exact completes_of_done (exec_uniWord hi s) h (uniLoad_done f c k (g k s.unfocused) p hcause hok)

end Sys2Proof.Machine
end

section
/-! PROOFS. FENCE, PREF and CMAINT (R204, R205, R222, R223, R226). -/

namespace Sys2Proof.Machine

/-! ### Fences -/

/-- R205: that a release has covered a store changes nothing of what is owed. -/
theorem owes_released (s : State) (cl : Nat) (w : WaveId) (scope : Nat) (p : PStore) (b : Bool) :
    ((s.released cl).cluster cl).owes w scope { p with crew := b } = (s.cluster cl).owes w scope p := by
  have hcl : (s.released cl).cluster cl
      = { s.cluster cl with stores := (s.cluster cl).stores.map (fun p => { p with crew := true }) } :=
    (State.cluster_setCluster _ cl cl _).trans (if_pos rfl)
  rw [hcl]
  simp only [Cluster.owes, Cluster.owesAt, Cluster.atCrew, Cluster.line?]

theorem State.released_eq (s : State) (cl : Nat) : s.released cl = s.setCluster cl
    { s.cluster cl with stores := (s.cluster cl).stores.map (fun p => { p with crew := true }) } := rfl

/-- R204, R395: an acquire, by the state of the cluster. -/
theorem State.acquire_eq (s : State) (cl scope : Nat) {b : Bool} (hb : (s.cluster cl).l1Past = b) :
    s.acquire cl scope = if scope = 0 ∧ b = false then s
      else s.setCluster cl { s.cluster cl with l1 := [], l1Past := false } := by
  subst hb
  rw [State.acquire]
  by_cases h : scope = 0 ∧ (s.cluster cl).l1Past = false
  · rw [if_pos h, if_pos (by simp [h])]
  · rw [if_neg h, if_neg (by simpa using h)]
    rfl

/-- R222: the holds of a wave that a FENCE leaves: those with a store still owed. -/
def heldBack (s : State) (k : Ctx) (x : Wave) : List Hold :=
  x.holds.filter (fun h => ((s.released k.cluster).cluster k.cluster).stores.any (fun p =>
    p.born < h.before && ((s.released k.cluster).cluster k.cluster).owes k.w h.scope p))

/-- R222: a hold that is given up owes no store. -/
theorem owes_of_not_heldBack (s : State) (k : Ctx) (x : Wave) {y : Hold} (hy : y ∈ x.holds) (hn : y ∉ heldBack s k x) :
    ∀ p ∈ (s.cluster k.cluster).stores, p.born < y.before → (s.cluster k.cluster).owes k.w y.scope p = false := by
  intro p hp hborn
  by_contra howes
  refine hn (List.mem_filter.mpr ⟨hy, List.any_eq_true.mpr ⟨{ p with crew := true }, ?_, ?_⟩⟩)
  · rw [State.released, State.modCluster, State.cluster_setCluster, if_pos rfl]
    exact List.mem_map_of_mem hp
  · rw [owes_released, Bool.eq_true_of_not_eq_false howes, Bool.and_true]
    exact decide_eq_true hborn

theorem fences : Claims.Fences := by
  refine ⟨?_, fun s cl w x h p hh hp hborn howes => ?_⟩
  · intro f s k h c u acq rel
    have he : exec (.fence f) s = issueCore (.fence f) s (fenceOp f) := rfl
    have hacq (t : State) (ht : (t.cluster c).l1Past = (s.cluster c).l1Past) : t.acquire c (MF.scope f) = acq t :=
      t.acquire_eq c (MF.scope f) ht
    have hrel : (rel.cluster c).l1Past = (s.cluster c).l1Past := by
      rw [State.cluster_setCluster, if_pos rfl]
    refine ⟨fun hk => ?_, fun hk hw => ?_, fun hk => ⟨heldBack s k k.wv, ?_, fun y hy => ?_⟩⟩
    · refine completes_of_done he h ?_
      simp only [fenceOp, hk, beq_self_eq_true, if_true]
      exact congrArg Res.done (hacq u rfl)
    · refine completes_of_done he h ?_
      have hwait : u.releaseWaits k.cluster k.w (MF.scope f) = false := hw
      simp only [fenceOp, hk, Nat.reduceBEq, beq_self_eq_true, if_true, Bool.false_eq_true, if_false]
      simp only [u] at hwait
      rw [hwait]
      exact congrArg Res.done (hacq rel hrel)
    · have hwave : (s.unfocused.released k.cluster).wave? k.w = some k.wv := h.wave?_unfocused
      have hadd : (s.unfocused.released k.cluster).addHold k (MF.scope f)
          = rel.setWave k.w { k.wv with holds := ⟨MF.scope f, s.now + 1⟩ :: heldBack s k k.wv } :=
        State.modWave_some _ hwave
      refine completes_of_done he h ?_
      have h0 : (fld f.off 1 0 == 0) = false := by rcases hk with hk | hk <;> rw [hk] <;> rfl
      have h3 : (fld f.off 1 0 == 3) = false := by rcases hk with hk | hk <;> rw [hk] <;> rfl
      simp only [fenceOp, h0, h3, Bool.false_eq_true, if_false, hadd, beq_iff_eq]
      rw [hacq _ (by exact hrel)]
    · by_cases hin : y ∈ heldBack s k k.wv
      · exact .inl hin
      · exact .inr (owes_of_not_heldBack s k k.wv hy hin)
  · exact List.any_eq_true.mpr ⟨h, hh, List.any_eq_true.mpr ⟨p, hp, by rw [howes, Bool.and_true]; exact decide_eq_true hborn⟩⟩

/-! ### The places of the hints -/

theorem findQuiet_frame (f : MF) (k : Ctx) (u : Use) (c : L1Use) (lanes : List LaneAcc) (s : State) :
    FindFrame s (findQuiet f k u c lanes s).1 := by
  induction lanes generalizing s with
  | nil => exact FindFrame.refl s
  | cons a lanes ih =>
    have hrest := (s.find_frame k.cluster k.asid a.va (MF.sz f) u c).1.trans (ih _)
    rw [findQuiet]
    split <;> exact hrest

/-- R209: a prefetch sets neither A nor D. -/
theorem State.touch_usePref (s : State) (t : Tlb) : s.touch t usePref = (s, t) := by
  rw [State.touch_eq, touchBits]
  exact if_pos (by simp [usePref])

theorem State.find_usePref_mem (s : State) (cl asid va n : Nat) (c : L1Use) : (s.find cl asid va n usePref c).1.mem = s.mem := by
  have hlookup := (s.lookup_frame cl asid va).2
  have hxlat : (s.xlat cl asid va usePref).1.mem = s.mem := by
    unfold State.xlat
    split
    next q e hq =>
      rw [hq] at hlookup
      exact hlookup
    next q t hq =>
      rw [hq] at hlookup
      split
      · exact hlookup
      · rw [State.touch_usePref]
        exact hlookup
  unfold State.find
  split
  next q e hq =>
    rw [hq] at hxlat
    exact hxlat
  next q t hq =>
    rw [hq] at hxlat
    have hhit := (q.l1Hit_frame cl c t (t.loc va)).2.trans hxlat
    dsimp only
    split
    · exact hhit
    · split
      · exact hhit
      · split <;> exact hhit

theorem findQuiet_usePref_mem (f : MF) (k : Ctx) (c : L1Use) (lanes : List LaneAcc) (s : State) :
    (findQuiet f k usePref c lanes s).1.mem = s.mem := by
  induction lanes generalizing s with
  | nil => rfl
  | cons a lanes ih =>
    have hrest := (ih _).trans (s.find_usePref_mem k.cluster k.asid a.va (MF.sz f) c)
    rw [findQuiet]
    split <;> exact hrest

/-! ### PREF (R223) -/

theorem State.seen_congr {s t : State} {cl : Nat} (h : ∀ l, t.seenByte cl l = s.seenByte cl l) (l : Loc) (n : Nat) :
    t.seen cl l n = s.seen cl l n := by
  induction n generalizing l with
  | zero => rfl
  | succ n ih => rw [State.seen, State.seen, h, ih]

theorem State.seen_with_gangs (s : State) (g : List (GangId × Gang)) (cl : Nat) (l : Loc) (n : Nat) :
    ({ s with gangs := g } : State).seen cl l n = s.seen cl l n := by
  refine State.seen_congr (fun l => ?_) l n
  rfl

/-- What an access sees does not depend on the caches. -/
theorem ReadFrame.seen {s t : State} (h : ReadFrame s t) (cl : Nat) (l : Loc) (n : Nat) : t.seen cl l n = s.seen cl l n := by
  refine State.seen_congr (fun l => ?_) l n
  have hhome : t.homeByte l = s.homeByte l := by
    rw [h.eq]
    rfl
  rw [State.seenByte, State.seenByte, h.stores cl, hhome]

/-- R223: what PREF does for a place that it has found. -/
def prefLine (f : MF) (k : Ctx) (s : State) (p : At) : State :=
  match p with
  | .glb l false t => if f.ord == 0 then s.fill k.cluster t l else s
  | _ => s

theorem prefLine_frame (f : MF) (k : Ctx) (s : State) (p : At) : ReadFrame s (prefLine f k s p) := by
  unfold prefLine
  split
  · split
    · exact s.fill_frame _ _ _
    · exact ReadFrame.refl s
  · exact ReadFrame.refl s

/-- PREF at the places that it has found, one after the other. -/
def prefLines (f : MF) (k : Ctx) (ps : List (LaneAcc × At)) (s : State) : State := ps.foldl (fun s p => prefLine f k s p.2) s

theorem prefLines_concat (f : MF) (k : Ctx) (ps : List (LaneAcc × At)) (p : LaneAcc × At) (s : State) :
    prefLines f k (ps ++ [p]) s = prefLine f k (prefLines f k ps s) p.2 := List.foldl_append

theorem prefLines_frame (f : MF) (k : Ctx) (ps : List (LaneAcc × At)) (s : State) : ReadFrame s (prefLines f k ps s) := by
  induction ps generalizing s with
  | nil => exact ReadFrame.refl s
  | cons p ps ih => exact (prefLine_frame f k s p.2).trans (ih _)

theorem prefLines_of_ord_ne_zero {f : MF} (hf : f.ord ≠ 0) (k : Ctx) (ps : List (LaneAcc × At)) (s : State) :
    prefLines f k ps s = s := by
  have hline (s : State) (p : At) : prefLine f k s p = s := by
    unfold prefLine
    split
    · rw [if_neg (by simpa using hf)]
    · rfl
  induction ps with
  | nil => rfl
  | cons p ps ih =>
    rw [prefLines, List.foldl_cons, hline]
    exact ih

theorem prefOp_eq (f : MF) (k : Ctx) (s : State) :
    let r := findQuiet f k usePref .thru (quietLanes f k s) s
    prefOp f k s = prefLines f k r.2 (r.1.addMemtx k.gid (sectors r.2)) := by
  intro r
  rw [prefOp, prefLines]
  refine congrArg (fun g => List.foldl g _ _) (funext fun s => funext fun p => ?_)
  obtain ⟨a, p⟩ := p
  match p with
  | .crw _ | .karg _ | .glb _ false _ | .glb _ true _ => rfl

/-- R204: the line that is brought in holds what the cluster sees. -/
theorem State.fill_line (s : State) (cl : Nat) (t : Tlb) (l : Loc) (ht : t.l1able = true)
    (hecc : s.eccHbm (l.pa / 128 * 128) 128 = false) : ((s.fill cl t l).cluster cl).line? (l.pa / 128)
      = some (BitVec.ofNat 1024 (leNat (s.seen cl { l with pa := l.pa / 128 * 128 } 128))) := by
  rw [State.fill]
  simp only [ht, hecc, Bool.not_false, Bool.and_true, if_true]
  rw [State.putLine]
  simp only [State.modCluster, State.cluster_setCluster, if_true, Cluster.line?, SMap.get_set]

theorem prefWord (f : MF) (s : State) (k : Ctx) (h : MayRun (.pref f) s k) : ∃ E, Completes (.pref f) s k E ∧ E.waves = s.waves
    ∧ E.crews = s.crews ∧ E.mem = s.mem ∧ E.remote = s.remote ∧
    let r := findQuiet f k usePref .thru (quietLanes f k s.unfocused) s.unfocused
    (f.ord ≠ 0 → E.clusters = r.1.clusters)
    ∧ ∀ pre a l t, f.ord = 0 → r.2 = pre ++ [(a, .glb l false t)] → t.l1able = true →
      r.1.eccHbm (l.pa / 128 * 128) 128 = false →
      (E.cluster k.cluster).line? (l.pa / 128)
        = some (BitVec.ofNat 1024 (leNat (r.1.seen k.cluster { l with pa := l.pa / 128 * 128 } 128))) := by
  let r := findQuiet f k usePref .thru (quietLanes f k s.unfocused) s.unfocused
  have hfind : FindFrame s.unfocused r.1 := findQuiet_frame f k usePref .thru _ _
  have hcount : r.1.addMemtx k.gid (sectors r.2) = { r.1 with gangs := (r.1.addMemtx k.gid (sectors r.2)).gangs } :=
    modGang_eq _ _ _
  have hlines := prefLines_frame f k r.2 (r.1.addMemtx k.gid (sectors r.2))
  refine ⟨prefOp f k s.unfocused, completes_of_done rfl h rfl, ?_⟩
  rw [prefOp_eq]
  refine ⟨?_, ?_, ?_, ?_, fun hf => ?_, fun pre a l t hf hpre ht hecc => ?_⟩
  · rw [hlines.eq, hcount, hfind.eq]
    rfl
  · rw [hlines.eq, hcount, hfind.eq]
    rfl
  · rw [hlines.eq, hcount]
    exact findQuiet_usePref_mem f k .thru _ _
  · rw [hlines.eq, hcount, hfind.eq]
    rfl
  · rw [prefLines_of_ord_ne_zero hf, hcount]
  · let q := prefLines f k pre (r.1.addMemtx k.gid (sectors r.2))
    have hq : ReadFrame (r.1.addMemtx k.gid (sectors r.2)) q := prefLines_frame f k pre _
    have hfill : prefLines f k r.2 (r.1.addMemtx k.gid (sectors r.2)) = q.fill k.cluster t l := by
      refine (congrArg (fun ps => prefLines f k ps _) hpre).trans ((prefLines_concat f k pre _ _).trans ?_)
      exact if_pos (beq_iff_eq.mpr hf)
    have hseen (b : Loc) (n : Nat) : q.seen k.cluster b n = r.1.seen k.cluster b n := by
      rw [hq.seen, hcount]
      exact State.seen_with_gangs r.1 _ k.cluster b n
    have hq_ecc : q.eccHbm (l.pa / 128 * 128) 128 = r.1.eccHbm (l.pa / 128 * 128) 128 := by
      rw [hq.eq, hcount]
      rfl
    rw [hfill, State.fill_line q k.cluster t l ht (hq_ecc.trans hecc), hseen]

/-! ### CMAINT (R226) -/

/-- R226: the line of L1 that CMAINT.INV drops for a place. -/
def droppedLine (f : MF) (p : At) : Option Nat :=
  match p with
  | .glb l _ _ => if f.ord == 0 && !l.rmt then some (l.pa / 128) else none
  | _ => none

theorem droppedLine_eq_some (f : MF) (p : At) (n : Nat) :
    droppedLine f p = some n ↔ f.ord = 0 ∧ ∃ l h t, p = .glb l h t ∧ l.rmt = false ∧ l.pa / 128 = n := by
  cases p with
  | glb l h t => simp [droppedLine, and_assoc]
  | _ => simp [droppedLine]

/-- CMAINT at the places that it has found. -/
def dropLines (f : MF) (cl : Nat) (ps : List (LaneAcc × At)) (s : State) : State :=
  ps.foldl (fun s p => (droppedLine f p.2).elim s (fun n => s.setLine cl n none)) s

theorem dropLines_spec (f : MF) (cl : Nat) (ps : List (LaneAcc × At)) (s : State) : let t := dropLines f cl ps s
    t = { s with clusters := t.clusters }
    ∧ (∀ n, (t.cluster cl).line? n = if ∃ p ∈ ps, droppedLine f p.2 = some n then none else (s.cluster cl).line? n)
    ∧ ∀ c, c ≠ cl → t.cluster c = s.cluster c := by
  induction ps generalizing s with
  | nil => exact ⟨rfl, fun n => by simp [dropLines], fun c _ => rfl⟩
  | cons p ps ih =>
    let u := (droppedLine f p.2).elim s (fun n => s.setLine cl n none)
    obtain ⟨hframe, hline, hother⟩ := ih u
    have hu : u = { s with clusters := u.clusters } := by
      simp only [u]
      cases droppedLine f p.2 <;> rfl
    have huline (n : Nat) : (u.cluster cl).line? n = if droppedLine f p.2 = some n then none else (s.cluster cl).line? n := by
      simp only [u]
      cases droppedLine f p.2 with
      | none => rfl
      | some m =>
        simp only [Option.elim_some, State.setLine, State.modCluster, State.cluster_setCluster, if_true, Cluster.line?,
          SMap.get_set, Option.some.injEq, eq_comm]
    have huother (c : Nat) (hc : c ≠ cl) : u.cluster c = s.cluster c := by
      simp only [u]
      cases droppedLine f p.2 with
      | none => rfl
      | some m => exact (State.cluster_setCluster _ _ _ _).trans (if_neg hc)
    refine ⟨with_clusters_trans hu hframe, fun n => (hline n).trans ?_, fun c hc => (hother c hc).trans (huother c hc)⟩
    rw [huline]
    by_cases hp : droppedLine f p.2 = some n
    · rw [if_pos hp, ite_self, if_pos ⟨p, List.mem_cons_self, hp⟩]
    · rw [if_neg hp]
      exact if_congr (by simp only [List.exists_mem_cons_iff, hp, false_or]) rfl rfl

theorem cmaintOp_eq (f : MF) (k : Ctx) (s : State) :
    let r := findQuiet f k useLoad .past (quietLanes f k s) s
    cmaintOp f k s = dropLines f k.cluster r.2 r.1 := by
  intro r
  rw [cmaintOp, dropLines]
  refine congrArg (fun g => List.foldl g _ _) (funext fun s => funext fun p => ?_)
  obtain ⟨a, p⟩ := p
  match p with
  | .crw _ | .karg _ => rfl
  | .glb l h t => 
    dsimp only [droppedLine]
    split <;> rfl

theorem cmaintWord (f : MF) (s : State) (k : Ctx) (h : MayRun (.cmaint f) s k) :
    ∃ E, Completes (.cmaint f) s k E ∧ E.waves = s.waves
    ∧ E.crews = s.crews ∧ E.gangs = s.gangs ∧ E.remote = s.remote ∧
    let r := findQuiet f k useLoad .past (quietLanes f k s.unfocused) s.unfocused
    let drops (n : Nat) : Prop := f.ord = 0 ∧ ∃ p ∈ r.2, ∃ l h t, p.2 = .glb l h t ∧ l.rmt = false ∧ l.pa / 128 = n
    E = { r.1 with clusters := E.clusters }
    ∧ (∀ n, drops n → (E.cluster k.cluster).line? n = none)
    ∧ (∀ n, ¬drops n → (E.cluster k.cluster).line? n = (r.1.cluster k.cluster).line? n)
    ∧ ∀ cl, cl ≠ k.cluster → E.cluster cl = r.1.cluster cl := by
  let r := findQuiet f k useLoad .past (quietLanes f k s.unfocused) s.unfocused
  have hfind : FindFrame s.unfocused r.1 := findQuiet_frame f k useLoad .past _ _
  obtain ⟨hframe, hline, hother⟩ := dropLines_spec f k.cluster r.2 r.1
  refine ⟨cmaintOp f k s.unfocused, completes_of_done rfl h rfl, ?_⟩
  rw [cmaintOp_eq]
  refine ⟨by rw [hframe, hfind.eq]; rfl, by rw [hframe, hfind.eq]; rfl, by rw [hframe, hfind.eq]; rfl,
    by rw [hframe, hfind.eq]; rfl, ?_⟩
  intro r' drops
  have hdrops (n : Nat) : drops n ↔ ∃ p ∈ r.2, droppedLine f p.2 = some n := by
    simp only [drops, droppedLine_eq_some]
    constructor
    · rintro ⟨hf, p, hp, hl⟩
      exact ⟨p, hp, hf, hl⟩
    · rintro ⟨p, hp, hf, hl⟩
      exact ⟨hf, p, hp, hl⟩
  refine ⟨hframe, fun n hn => ?_, fun n hn => ?_, hother⟩
  · exact (hline n).trans (if_pos ((hdrops n).mp hn))
  · exact (hline n).trans (if_neg (mt (hdrops n).mpr hn))

/-- Settles O22: the four kinds of FENCE by what they owe and cover, PREF by the last place that it has found, and CMAINT by
the lines that its places name. -/
theorem fenceAndHints : Obligations.FenceAndHints := ⟨fences, prefWord, cmaintWord⟩

end Sys2Proof.Machine
end

section
/-! PROOFS. The copy engine as words use it (R229 to R232, R249, R250). -/

namespace Sys2Proof.Machine

theorem foldl_or_eq_none {α β : Type} (g : α → Option β) {l : List α} (h : ∀ a ∈ l, g a = none) :
    l.foldl (fun o a => o.or (g a)) none = none := by
  induction l with
  | nil => rfl
  | cons a l ih =>
    rw [List.foldl_cons, h a List.mem_cons_self]
    exact ih fun b hb => h b (List.mem_cons_of_mem _ hb)

/-- R232: a legal copy passes every test at issue. -/
theorem copyCheck_eq_none {crw : Nat} {c : CopyArgs} (h : Claims.copyLegal crw c) : copyCheck crw c = none := by
  obtain ⟨hneg, hdst, hsrc, hrow, htwo, hobj, hrange⟩ := h
  have hpitch : (c.two && c.pitch.toNat % 16 != 0) = false := by
    cases hc : c.two with
    | false => rfl
    | true => simp [htwo hc]
  unfold copyCheck
  simp only [hneg, hdst, hsrc, hrow, hpitch, bne_self_eq_false, Bool.false_eq_true, if_false]
  rw [if_neg]
  case hnc =>
    cases ho : c.obj with
    | none => exact Bool.false_ne_true
    | some o => simpa using hobj o ho
  split
  · rfl
  · next hlen =>
    obtain ⟨hfit, hrows⟩ := hrange hlen
    rw [if_neg (Nat.not_lt.mpr hfit)]
    refine foldl_or_eq_none _ fun r hr => ?_
    obtain ⟨hfirst, hlast⟩ := hrows r (List.mem_range.mp hr)
    rw [if_neg (Nat.not_le.mpr hfirst), if_neg (Nat.not_le.mpr hlast)]

/-- R229, R233: the copy that a word issues. -/
def issuedCopy (c : CopyArgs) (k : Ctx) (s : State) : Copy :=
  let r := k.report 7 0 .stops (k.first s) .terms
  { wave := k.w, taddr := r.taddr, voff := r.voff, vform := k.vec, site := r.site, iter := r.iter, eqp := r.eqp
    dst := c.dst, src := c.src, rowlen := c.rowlen, rows := c.rows, pitch := c.pitch
    todo := List.range (c.rowlen * c.rows / 16), batch := 0, obj := c.obj, after := s.now, parked := none }

/-- R249, R250: CPY and CPYT issue one copy. -/
theorem exec_copyWord {i : Instr} {g : Ctx → CopyArgs} (h : Claims.copyWord i = some g) (s : State) :
    exec i s = issueCore i s (fun k s => copyOp (g k) k s) := by
  cases i with
  | cpy | cpyt =>
    cases h
    rfl
  | _ => cases h

/-- R231: no batch is one that CPYB waits for. -/
theorem cpybWaits_eq_none {k : Ctx} {s : State} (hnew : k.wv.batchWait = none → (openBatches s k.cluster k.w).length < 16)
    (hold : ∀ b, k.wv.batchWait = some b → b ∉ openBatches s k.cluster k.w) : cpybWaits k s = none := by
  unfold cpybWaits
  cases hb : k.wv.batchWait with
  | none => exact if_neg (Nat.not_le.mpr (hnew hb))
  | some b => exact if_neg (by simpa using hold b hb)

theorem mem_openBatches {s : State} {cl : Nat} {w : WaveId} {n : Nat} (h : n ∈ openBatches s cl w) :
    ∃ c ∈ (s.cluster cl).copies, c.wave = w ∧ c.batch ≠ 0 ∧ c.batch = n := by
  simpa [openBatches, and_assoc] using h

/-- Settles O23: a legal copy passes the tests and joins the engine; CPYB and CPYW wait for open batches alone. -/
theorem copyWords : Obligations.CopyWords := by
  refine ⟨fun i g hi s k h hlegal hroom => ?_, fun f s k h hnew hold => ?_, fun f s k h hall => ?_⟩
  · have hfree : ¬256 ≤ (s.unfocused.cluster k.cluster).copies.length := Nat.not_le.mpr hroom
    refine ⟨fun hlen => completes_of_done (exec_copyWord hi s) h ?_, fun hlen => ⟨issuedCopy (g k) k s.unfocused,
      completes_of_done (exec_copyWord hi s) h ?_, rfl, rfl, rfl, rfl, rfl, rfl, rfl, rfl, rfl, rfl⟩⟩
    · simp only [copyOp, copyCheck_eq_none hlegal, if_neg hfree, if_pos hlen]
    · simp only [copyOp, copyCheck_eq_none hlegal, if_neg hfree, if_neg hlen]
      rfl
  · refine completes_of_done (body := cpybOp f) rfl h ?_
    have hwaits : cpybWaits k s.unfocused = none := cpybWaits_eq_none hnew hold
    simp only [cpybOp, hwaits]
    exact congrArg Res.done (State.modWave_some _ h.wave?_unfocused)
  · refine completes_of_done (body := cpywOp f) rfl h (if_neg ?_)
    intro hany
    obtain ⟨n, hn, hle⟩ := List.any_eq_true.mp hany
    obtain ⟨c, hc, hwave, hbatch, rfl⟩ := mem_openBatches hn
    exact absurd (of_decide_eq_true hle) (Nat.not_le.mpr (hall c hc hwave hbatch))

end Sys2Proof.Machine
end

section
/-! PROOFS. The crew barrier and the barrier objects (R235 to R238, R251). -/

namespace Sys2Proof.Machine

/-! ### The waves of a form -/

theorem Ctx.each_wave? (k : Ctx) (s : State) (g : WaveId → Wave → Wave) (v : WaveId) :
    (k.each s g).wave? v = if v ∈ k.waves then (s.wave? v).map (g v) else s.wave? v := by
  have key (vs : List WaveId) (hn : vs.Nodup) (s : State) : (vs.foldl (fun s v => s.modWave v (g v)) s).wave? v
      = if v ∈ vs then (s.wave? v).map (g v) else s.wave? v := by
    induction vs generalizing s with
    | nil => rfl
    | cons w vs ih =>
      obtain ⟨hw, hvs⟩ := List.nodup_cons.mp hn
      rw [List.foldl_cons, ih hvs, State.wave?_modWave]
      by_cases hv : w = v
      · subst hv
        simp [hw]
      · simp [hv, Ne.symm hv]
  exact key k.waves k.waves_nodup s

theorem Ctx.each_namesOnce (k : Ctx) {s : State} (g : WaveId → Wave → Wave) (h : namesOnce s.waves) :
    namesOnce (k.each s g).waves := by
  rw [Ctx.each]
  generalize k.waves = vs
  induction vs generalizing s with
  | nil => exact h
  | cons w vs ih =>
    refine ih ?_
    change namesOnce (s.modWave w (g w)).waves
    unfold State.modWave
    split
    · exact namesOnce_set _ _ h
    · exact h

theorem Ctx.crew_of_mem_waves {k : Ctx} {v : WaveId} (h : v ∈ k.waves) : v.crew = k.w.crew := by
  unfold Ctx.waves at h
  split at h
  · obtain ⟨i, -, rfl⟩ := List.mem_map.mp h
    rfl
  · rw [List.mem_singleton.mp h]

theorem with_waves_trans {s t u : State} (h : t = { s with waves := t.waves }) (hu : u = { t with waves := u.waves }) :
    u = { s with waves := u.waves } := by
  generalize u.waves = w at hu ⊢
  rw [hu, h]

theorem Tab.mem_of_get? {κ α : Type} [DecidableEq κ] {t : List (κ × α)} {k : κ} {a : α} (h : Tab.get? t k = some a) :
    (k, a) ∈ t := by
  induction t with
  | nil => cases h
  | cons p t ih =>
    unfold Tab.get? at h
    split at h
    · next hk =>
      cases h
      exact List.mem_cons.mpr (.inl (Prod.ext hk.symm rfl))
    · exact List.mem_cons_of_mem _ (ih h)

/-! ### BAR (R235) -/

/-- R235: what an arrival makes of a wave. -/
def Wave.atBar (x : Wave) : Wave := { x with barIn := !x.retired, passed := 0 }

/-- R235: what the end of the phase makes of a wave that has arrived. -/
def Wave.letGo (x : Wave) : Wave :=
  { x with barIn := false, barOut := true, stall := if x.stall == .barrier then .ready else x.stall }

theorem barRelease_wave? (s : State) (c : CrewId) (v : WaveId) : (barRelease s c).wave? v
    = (s.wave? v).map (fun x => if v.crew == c && x.barIn then x.letGo else x) :=
  Tab.get?_map s.waves (fun w x => if w.crew == c && x.barIn then x.letGo else x) v

/-- R235: an arrival, a release at CREW scope. -/
def barArrive (k : Ctx) (s : State) : State := (k.each s (fun _ x => x.atBar)).released k.cluster

theorem barArrive_wave? (k : Ctx) (s : State) (v : WaveId) :
    (barArrive k s).wave? v = if v ∈ k.waves then (s.wave? v).map Wave.atBar else s.wave? v :=
  k.each_wave? s (fun _ x => x.atBar) v

theorem barArrive_eq (k : Ctx) (s : State) :
    barArrive k s = { s.released k.cluster with waves := (barArrive k s).waves } := by
  rw [barArrive]
  conv_lhs => rw [(Ctx.each_onWaves k s (fun _ x => x.atBar)).1]
  rfl

theorem barRelease_eq (k : Ctx) (s : State) : barRelease (barArrive k s) k.w.crew
    = { s.released k.cluster with waves := (barRelease (barArrive k s) k.w.crew).waves } :=
  with_waves_trans (barArrive_eq k s) rfl

/-- R235: the phase is complete when the waves of the form arrive last. -/
theorem barComplete_arrive {k : Ctx} {s : State} (hn : namesOnce s.waves)
    (hall : ∀ v x, (v, x) ∈ s.waves → v.crew = k.w.crew → v ∉ k.waves → x.retired = true ∨ x.barIn = true) :
    barComplete (barArrive k s) k.w.crew = true := by
  refine List.all_eq_true.mpr fun p hp => ?_
  obtain ⟨v, y⟩ := p
  have hget : (barArrive k s).wave? v = some y := get?_of_mem (k.each_namesOnce (fun _ x => x.atBar) hn) hp
  rw [barArrive_wave?] at hget
  by_cases hcrew : v.crew = k.w.crew
  · have hdone : y.retired = true ∨ y.barIn = true := by
      split at hget
      · obtain ⟨x, -, rfl⟩ := Option.map_eq_some_iff.mp hget
        cases hr : x.retired with
        | true => exact .inl hr
        | false => exact .inr (by rw [Wave.atBar, hr]; rfl)
      · next hv => exact hall v y (Tab.mem_of_get? hget) hcrew hv
    simpa [hcrew] using hdone
  · simp [hcrew]

/-- R235: a wave as the last arrival leaves it. -/
def barLast (k : Ctx) (v : WaveId) (x : Wave) : Wave :=
  let go := if x.stall = .barrier then .ready else x.stall
  if v ∈ k.waves then { x with barIn := false, barOut := false, passed := 0, stall := if x.retired then x.stall else go }
  else if v.crew = k.w.crew ∧ x.barIn = true then { x with barIn := false, barOut := true, stall := go } else x

/-- R235: the last arrival passes and lets the others go. -/
theorem barOp_last {k : Ctx} {s : State} (hw : s.wave? k.w = some k.wv) (hk : k.issues = true) (hin : k.wv.barIn = false)
    (hout : k.wv.barOut = false) (hret : k.wv.retired = false) (hpath : k.vec = true ∨ k.wv.dstack = [])
    (hrel : s.releaseWaits k.cluster k.w 0 = false) (hdone : barComplete (barArrive k s) k.w.crew = true) :
    barOp k s = .done (k.each (barRelease (barArrive k s) k.w.crew) (fun _ x => { x with barOut := false })) := by
  have hown : (barRelease (barArrive k s) k.w.crew).wave? k.w = some k.wv.atBar.letGo := by
    rw [barRelease_wave?, barArrive_wave?, if_pos (Ctx.mem_waves hk), hw]
    simp [Wave.atBar, hret]
  have hpath' : (!k.vec && !k.wv.dstack.isEmpty) = false := by
    rcases hpath with h | h <;> simp [h]
  have hgone : k.wv.atBar.letGo.barOut = true := rfl
  simp only [barArrive, Wave.atBar] at hdone hown hgone ⊢
  unfold barOp
  simp only [hin, hout, hrel, hpath', hdone, hown, Bool.or_false, Bool.not_false, Bool.and_true, Bool.and_false,
    Bool.false_eq_true, if_false, if_true]
  exact if_pos hgone

theorem crewBarrier : Claims.CrewBarrier := by
  intro f s k h
  have he : exec (.bar f) s = issueCore (.bar f) s barOp := rfl
  have hw := h.wave?_unfocused
  refine ⟨fun hout => completes_of_done he h ?_, fun hin hout hret hpath hrel hn hall => ?_⟩
  · unfold barOp
    simp only [hout, Bool.or_true, Bool.not_true, Bool.and_false, Bool.false_and, Bool.false_eq_true, if_false, if_true, hw]
  · have hdone : barComplete (barArrive k s.unfocused) k.w.crew = true := barComplete_arrive hn.1 hall
    refine ⟨_, completes_of_done he h (barOp_last hw h.issues hin hout hret hpath hrel hdone), ?_, fun v x hx => ?_⟩
    · exact with_waves_trans (barRelease_eq k s.unfocused) (Ctx.each_onWaves k _ (fun _ x => { x with barOut := false })).1
    · intro go
      change _ = some (barLast k v x)
      rw [Ctx.each_wave?, barRelease_wave?, barArrive_wave?]
      have hx' : s.unfocused.wave? v = some x := hx
      by_cases hv : v ∈ k.waves
      · simp only [hv, if_true, hx', Option.map_some, barLast, Wave.atBar, Wave.letGo, Ctx.crew_of_mem_waves hv, beq_self_eq_true, Bool.true_and]
        cases x.retired <;> simp
      · simp only [hv, if_false, hx', Option.map_some, barLast, Wave.letGo]
        simp

/-! ### Barrier objects (R236, R237, R251) -/

/-- R237: the object after an arrival that expects `n` bytes. -/
theorem Bar.arrive_eq {b : Bar} {n : Int} (hcount : b.count ≠ 0) (hpend : b.pend ≠ 0) (hlow : -(2 ^ 31) ≤ b.tx + n)
    (hhigh : b.tx + n < 2 ^ 31) : b.arrive n = some (if b.pend = 1 ∧ b.tx + n = 0 then ⟨b.tx + n, !b.ph, b.count, b.count⟩
      else ⟨b.tx + n, b.ph, b.count, b.pend - 1⟩) := by
  have hok : txOk (b.tx + n) = true := by
    rw [txOk, decide_eq_true hlow, decide_eq_true hhigh]
    rfl
  have hlast : b.pend - 1 = 0 ↔ b.pend = 1 := by omega
  simp only [Bar.arrive, hcount, hpend, hok, decide_false, Bool.not_true, Bool.or_false, Bool.false_eq_true, if_false,
    Bar.check, hlast]

theorem objCheck_eq_none {k : Ctx} {o : Nat} (halign : o % 16 = 0) (hfit : o + 16 ≤ k.kn.crw) : objCheck k o = none := by
  rw [objCheck, halign, if_neg (by decide), if_neg (Nat.not_lt.mpr hfit)]

theorem State.bar_of_crew {s : State} {c : CrewId} {x : Crew} (h : s.crew? c = some x) (o : Nat) :
    s.bar c o = Memory.le x.crw o 16 := by rw [State.bar, h]

/-- R251: BARA and BARX run one course. -/
theorem exec_arriveWord {i : Instr} {f : KF} {n : Ctx → Int} (h : Claims.arriveWord i = some (f, n)) (s : State) :
    exec i s = issueCore i s (fun k s => arriveOp f (n k) k s) := by
  cases i with
  | bara | barx =>
    cases h
    rfl
  | _ => cases h

theorem barrierObjects : Claims.BarrierObjects := by
  refine ⟨fun i f n hi s k h => ?_, fun f s k h => ?_⟩
  · intro o old b halign hfit hrel hecc hcount hpend hlow hhigh b2
    refine completes_of_done (exec_arriveWord hi s) h ?_
    have hcrew := h.crew?_unfocused
    have harrive : (Bar.of (Memory.le k.c.crw (k.wv.rdS (KF.A f)).toNat 16)).arrive (n k) = some b2 :=
      Bar.arrive_eq hcount hpend hlow hhigh
    have hobj : objCheck k (k.wv.rdS (KF.A f)).toNat = none := objCheck_eq_none halign hfit
    have hrel' : s.unfocused.releaseWaits k.cluster k.w 0 = false := hrel
    have hecc' : s.unfocused.eccCrw k.w.crew (k.wv.rdS (KF.A f)).toNat 16 = false := hecc
    simp only [arriveOp, hobj, hrel', hecc', State.bar_of_crew hcrew, harrive, Bool.false_eq_true, if_false]
    rw [State.setBar, State.modCrew_some _ hcrew]
    have hwave : ((s.unfocused.setCrew k.w.crew { k.c with crw := Memory.setLe k.c.crw o 16 (b2.put old) }).released
        k.cluster).wave? k.w = some k.wv := h.wave?_unfocused
    exact congrArg Res.done (State.modWave_some _ hwave)
  · intro o halign hfit hecc hphase
    refine completes_of_done (body := barwOp f) rfl h ?_
    have hecc' : s.unfocused.eccCrw k.w.crew (k.wv.rdS (KF.A f)).toNat 16 = false := hecc
    have hobj : objCheck k (k.wv.rdS (KF.A f)).toNat = none := objCheck_eq_none halign hfit
    simp only [barwOp, hobj, hecc', State.bar_of_crew h.crew?_unfocused, Bool.false_eq_true, if_false]
    exact if_neg (mt beq_iff_eq.mp hphase)

/-- Settles O24: the last wave to arrive completes the phase and lets the others go; an arrival at an object is its one
transition, and BARW reads its phase. -/
theorem barrierWords : Obligations.BarrierWords := ⟨crewBarrier, barrierObjects⟩

end Sys2Proof.Machine
end

section
/-! PROOFS. QPUSH of no entry, and the statement about the queue words that it refutes (R241, R252). -/

namespace Sys2Proof.Machine

/-- A word that completes fixes the clusters that its effect leaves. -/
theorem Completes.clusters_unique {i : Instr} {s E E' : State} {k : Ctx} (hk : k.issues = true) (h : Completes i s k E)
    (h' : Completes i s k E') : E.clusters = E'.clusters := by
  have heq : finish i k s.unfocused (.done E) = finish i k s.unfocused (.done E') := by
    injection h.symm.trans h'
  have hleft := congrArg State.clusters (wordEnd i k s.unfocused E hk).1.1
  have hright := congrArg State.clusters (wordEnd i k s.unfocused E' hk).1.1
  exact hleft.symm.trans ((congrArg State.clusters heq).trans hright)

/-- QPUSH of V3 to queue 7. -/
def pushSeven : Instr := .qpush ⟨0, 0, false, 0, 3, .v 0, 7, 0⟩

/-- A pending store that no release has covered, of one byte at 0x40000. -/
def uncovered : PStore := ⟨⟨probeCrew, 0, 0⟩, 0, ⟨false, 0x40000, 0⟩, [1], 0, ⟨0, 0, false, 0, 0⟩, false, 0⟩

/-- A vector gang of VL 0 is about to run `pushSeven`, in a cluster whose L1 holds the line of the one pending store. -/
def emptyPush : State :=
  let s := (State.reset.withFetchWord 64 0x6080000030007000).modGang ⟨probeCrew, 0⟩
    (fun g => { g with form := 1, intForm := 1, vl := 0 })
  let t := (s.launch? 0).elim s (fun l => s.setLaunch 0 { l with
    kernel := l.kernel.map (fun n => { n with forms := 3, vLen := 16 }) })
  (t.setQueue 0 7 ⟨0, 1, 2, [], 0, none⟩).modCluster 0 (fun c => { c with
    stores := [uncovered], l1 := SMap.set c.l1 none 0x800 (some 0) })

/-- The context runs `pushSeven` now, which moves no entry, waits for no store, and covers none. -/
def pushesNothing (k : Ctx) : Bool :=
  emptyPush.focus == .wave k.w && k.issues && k.legal pushSeven && !recvPending k emptyPush (k.awaits pushSeven)
  && !fopPending k (k.awaits pushSeven) && !(storeLike pushSeven && emptyPush.fenceHolds k.cluster k.w k.wv)
  && (mappedIn k.wv (dataUse k.wide pushSeven).1 false).isEmpty && (mappedIn k.wv (dataUse k.wide pushSeven).2 true).isEmpty
  && k.qbound emptyPush 7 && qGroups k == 0
  && decide ((emptyPush.queue k.cluster 7).entries.length + qGroups k ≤ (emptyPush.queue k.cluster 7).depth)
  && !emptyPush.releaseWaits k.cluster k.w 0
  && (emptyPush.cluster k.cluster).stores != ((emptyPush.released k.cluster).cluster k.cluster).stores

theorem emptyPush_runs : ∃ k, MayRun pushSeven emptyPush k ∧ k.qbound emptyPush 7 = true ∧ qGroups k = 0
    ∧ (emptyPush.queue k.cluster 7).entries.length + qGroups k ≤ (emptyPush.queue k.cluster 7).depth
    ∧ emptyPush.releaseWaits k.cluster k.w 0 = false
    ∧ (emptyPush.cluster k.cluster).stores ≠ ((emptyPush.released k.cluster).cluster k.cluster).stores := by
  have hany : (ctx? emptyPush ⟨probeCrew, 0, 0⟩).any pushesNothing = true := by decide
  cases hctx : ctx? emptyPush ⟨probeCrew, 0, 0⟩ with
  | none =>
    rw [hctx] at hany
    cases hany
  | some k =>
    rw [hctx, Option.any_some] at hany
    simp only [pushesNothing, Bool.and_eq_true, beq_iff_eq, bne_iff_ne, Bool.not_eq_true', List.isEmpty_iff,
      decide_eq_true_eq] at hany
    obtain ⟨⟨⟨⟨⟨⟨⟨⟨⟨⟨⟨⟨hfocus, hissues⟩, hlegal⟩, hresults⟩, hstatuses⟩, hfence⟩, hin⟩, hout⟩, hbound⟩, hnone⟩,
      hroom⟩, hfree⟩, hcovers⟩ := hany
    have hself : ctx? emptyPush k.w = some k := by rw [(ctx_wave hctx).1, hctx]
    exact ⟨k, ⟨hfocus, hself, hissues, hlegal, hresults, hstatuses, hfence, hin, hout⟩, hbound, hnone, hroom, hfree, hcovers⟩

/-- R252: QPUSH of no entry has no effect. -/
theorem qpushOp_empty {f : KF} {k : Ctx} {s : State} (hbound : k.qbound s (qNo f) = true) (hnone : qGroups k = 0) :
    qpushOp f k s = .done s := by
  unfold qpushOp
  simp only [hbound, hnone, Bool.not_true, Bool.false_eq_true, Nat.not_lt_zero, if_false, if_true]

/-- Refutes O25: QPUSH of no entry completes without a release, so that a pending store of the cluster stays uncovered. -/
theorem not_queueWords : ¬ Obligations.QueueWords := by
  intro h
  obtain ⟨k, hrun, hbound, hnone, hroom, hfree, hcovers⟩ := emptyPush_runs
  obtain ⟨E, hE, -, -, -, hstores⟩ := h.1 _ emptyPush k hrun hbound hroom hfree
  have hdone : Completes pushSeven emptyPush k emptyPush.unfocused :=
    completes_of_done rfl hrun (qpushOp_empty hbound hnone)
  have hclusters : E.clusters = emptyPush.unfocused.clusters := hE.clusters_unique hrun.issues hdone
  refine hcovers (Eq.trans ?_ hstores)
  rw [State.cluster, State.cluster, hclusters]
  rfl

end Sys2Proof.Machine
end

section
/-! PROOFS. QNOTIFY, QBIND and QSTAT (R243, R244, R253). -/

namespace Sys2Proof.Machine

/-- R253: QNOTIFY counts a trigger. -/
theorem qnotifyOp_done {f : KF} {k : Ctx} {s : State} (hbound : k.qbound s (qNo f) = true)
    (htrig : (s.queue k.cluster (qNo f)).trig < 65535) (hrel : s.releaseWaits k.cluster k.w 1 = false) :
    qnotifyOp f k s = .done ((s.released k.cluster).setQueue k.cluster (qNo f)
      { s.queue k.cluster (qNo f) with trig := (s.queue k.cluster (qNo f)).trig + 1 }) := by
  unfold qnotifyOp
  simp only [hbound, hrel, Bool.not_true, Bool.false_eq_true, if_false]
  exact if_neg (Nat.not_le.mpr htrig)

/-- R253: QBIND.TRIG without a record removes the handler. -/
theorem qbindTrigOp_remove {f : KF} {k : Ctx} {s : State} (hbound : k.qbound s (qNo f) = true)
    (ha : (k.wv.rdS (KF.A f)).toNat = 0) (hb : opS f k.wv = 0) :
    qbindTrigOp f k s = .done (s.setQueue k.cluster (qNo f) { s.queue k.cluster (qNo f) with handler := none }) := by
  have hb' : ((opS f k.wv).toNat != 0) = false := by rw [hb]; rfl
  unfold qbindTrigOp
  simp only [ha, hb', hbound, Bool.and_false, Bool.not_true, Bool.false_eq_true, if_false, if_true]

/-- R203: the sectors of `n` bytes at a place, where they leave the core. -/
def At.sectorsOut (p : At) (n : Nat) : Nat :=
  match p with
  | .glb _ false _ => (n + 31) / 32
  | _ => 0

/-- R203: an access of a word by itself that meets no cause, with the sectors that it counts. -/
theorem wordAccess_ok {k : Ctx} {addr n : Nat} {u : Use} {c : L1Use} {s : State} {p : At} (halign : addr % n = 0)
    (hfit : addr + n ≤ 2 ^ 55) (hp : (s.find k.cluster k.asid addr n u c).2 = .ok p) :
    wordAccess k addr n u c s = (((s.find k.cluster k.asid addr n u c).1.modWave k.w
      (fun x => { x with timedOut := false, remoteWait := false })).addMemtx k.gid
        (p.sectorsOut n), .ok p) := by
  have hfind : s.find k.cluster k.asid addr n u c = ((s.find k.cluster k.asid addr n u c).1, .ok p) := Prod.ext rfl hp
  unfold wordAccess
  simp only [halign, bne_self_eq_false, Bool.false_eq_true, if_false]
  rw [if_neg (Nat.not_lt.mpr hfit), hfind]
  match p with
  | .crw _ | .karg _ | .glb _ false _ | .glb _ true _ => rfl

/-- R253: QBIND.TRIG binds the record read at S[A]. -/
theorem qbindTrigOp_bind {f : KF} {k : Ctx} {s : State} {p : At} (hbound : k.qbound s (qNo f) = true) :
    let a := (k.wv.rdS (KF.A f)).toNat
    a ≠ 0 → a % 128 = 0 → a + 128 ≤ 2 ^ 55 → (s.find k.cluster k.asid a 128 useLoad .thru).2 = .ok p →
    let t := ((s.find k.cluster k.asid a 128 useLoad .thru).1.modWave k.w
      (fun x => { x with timedOut := false, remoteWait := false })).addMemtx k.gid (p.sectorsOut 128)
    let r := t.readAt k 128 .thru p
    qbindTrigOp f k s = .done (r.1.setQueue k.cluster (qNo f)
      { r.1.queue k.cluster (qNo f) with handler := some (recDwords r.2, (opS f k.wv).toNat) }) := by
  intro a ha halign hfit hp t r
  have haccess := wordAccess_ok (k := k) (u := useLoad) (c := .thru) halign hfit hp
  unfold qbindTrigOp
  simp only [a] at ha haccess
  simp only [ha, hbound, haccess, decide_false, Bool.false_and, Bool.not_true, Bool.false_eq_true, if_false]
  rfl

/-- R244: QBIND.IN and QBIND.OUT run one course. -/
theorem exec_mapWord {i : Instr} {f : KF} {out : Bool} (h : Claims.mapWord i = some (f, out)) (s : State) :
    exec i s = issueCore i s (qmapOp f out) := by
  cases i with
  | qbindIn | qbindOut =>
    cases h
    rfl
  | _ => cases h

theorem qmapOp_done {f : KF} {out : Bool} {k : Ctx} {s : State} (hw : s.wave? k.w = some k.wv)
    (hbound : k.qbound s (qNo f) = true) (hvec : k.vec = false) (hpin : k.g.pinned = true ∨ k.l.pin = true)
    (hroom : k.wv.qmaps.length < 8) (hfree : ∀ m ∈ k.wv.qmaps, m.reg ≠ KF.A f) :
    qmapOp f out k s = .done ((s.party k.cluster ⟨k.w, qNo f, out⟩).setWave k.w
      { k.wv with qmaps := k.wv.qmaps ++ [⟨KF.A f, qNo f, out⟩] }) := by
  have hpin' : (k.g.pinned || k.l.pin) = true := (Bool.or_eq_true _ _).mpr hpin
  have hany : (k.wv.qmaps.any (fun m => m.reg == KF.A f)) = false :=
    List.any_eq_false.mpr fun m hm => by simpa using hfree m hm
  have hwave : (s.party k.cluster ⟨k.w, qNo f, out⟩).wave? k.w = some k.wv := hw
  unfold qmapOp
  simp only [hbound, hvec, hpin', hany, decide_eq_false (Nat.not_le.mpr hroom), Bool.not_true, Bool.or_false,
    Bool.false_eq_true, if_false]
  exact congrArg Res.done (State.modWave_some _ hwave)

theorem qunmapOp_done {f : KF} {k : Ctx} {s : State} {m : QMap} (hw : s.wave? k.w = some k.wv) (hm : m ∈ k.wv.qmaps)
    (hreg : m.reg = KF.A f) :
    qunmapOp f k s = .done (s.setWave k.w { k.wv with qmaps := k.wv.qmaps.filter (fun m => m.reg != KF.A f) }) := by
  have hany : (k.wv.qmaps.any (fun m => m.reg == KF.A f)) = true := List.any_eq_true.mpr ⟨m, hm, beq_iff_eq.mpr hreg⟩
  rw [qunmapOp, if_pos hany]
  exact congrArg Res.done (State.modWave_some _ hw)

/-- R253: the fields of the status of a bound queue. -/
theorem qstatVal_fields {f : KF} {k : Ctx} {s : State} (hbound : k.qbound s (qNo f) = true) :
    let q := s.queue k.cluster (qNo f)
    let y := qstatVal f k s
    q.entries.length < 2 ^ 16 → q.depth < 2 ^ 16 → q.trig < 2 ^ 16 →
    fld y 15 0 = q.entries.length ∧ fld y 31 16 = q.depth ∧ fld y 47 32 = q.trig ∧ y.getLsbD 48 = true
    ∧ y.getLsbD 49 = q.handler.isSome ∧ y.getLsbD 50 = k.wv.qmaps.any (fun m => m.queue == qNo f) ∧ fld y 63 51 = 0 := by
  intro q y he hd ht
  have hy : y.toNat = ((((((k.wv.qmaps.any (fun m => m.queue == qNo f)).toNat * 2 + q.handler.isSome.toNat) * 2 + 1) * 65536
      + q.trig) * 65536 + q.depth) * 65536) + q.entries.length := by
    simp only [y, q] at he hd ht ⊢
    simp only [qstatVal, hbound, if_true, toNat_append_add, BitVec.toNat_ofNat, BitVec.toNat_ofBool, Bool.toNat_true,
      BitVec.ofNat_eq_ofNat]
    omega
  have hmap : (k.wv.qmaps.any (fun m => m.queue == qNo f)).toNat < 2 := Bool.toNat_lt _
  have hhand : q.handler.isSome.toNat < 2 := Bool.toNat_lt _
  simp only [fld_eq_div_mod, hy]
  refine ⟨?_, ?_, ?_, getLsbD_of_div_mod (hy ▸ ?_), getLsbD_of_div_mod (hy ▸ ?_), getLsbD_of_div_mod (hy ▸ ?_), ?_⟩
  case refine_4 => rw [Bool.toNat_true]; omega
  all_goals omega

/-- Settles O26: each word passes its tests and does its one thing; the status is taken apart as a number. -/
theorem queueControl : Obligations.QueueControl := by
  refine ⟨fun f s k h hbound htrig hrel => ?_, fun f s k h hbound => ?_, fun i f out hi s k h hbound hvec hpin hroom hfree => ?_,
    fun f s k m h hm hreg => ?_, fun f s k h => ?_⟩
  · exact completes_of_done (body := qnotifyOp f) rfl h (qnotifyOp_done hbound htrig hrel)
  · intro a
    refine ⟨fun ha hb => ?_, ?_⟩
    · exact completes_of_done (body := qbindTrigOp f) rfl h (qbindTrigOp_remove hbound ha hb)
    · intro ha halign hfit p hp
      have hdone := completes_of_done (body := qbindTrigOp f) rfl h
        (qbindTrigOp_bind (s := s.unfocused) hbound ha halign hfit hp)
      cases p with
      | crw | karg => exact hdone
      | glb l hit t => cases hit <;> exact hdone
  · exact completes_of_done (exec_mapWord hi s) h (qmapOp_done h.wave?_unfocused hbound hvec hpin hroom hfree)
  · exact completes_of_done (body := qunmapOp f) rfl h (qunmapOp_done h.wave?_unfocused hm hreg)
  · refine ⟨qstatVal f k s.unfocused, completes_of_done rfl h ?_, fun hbound => ?_, fun hbound => qstatVal_fields hbound⟩
    · exact congrArg Res.done (State.modWave_some _ h.wave?_unfocused)
    · exact if_neg (fun h => Bool.false_ne_true (hbound.symm.trans h))

end Sys2Proof.Machine
end

section
/-! PROOFS. Class 7 as words issue it (R264, R270, R273 to R282). -/

namespace Sys2Proof.Machine

/-! ### The words that complete later -/

/-- R273: the words of class 7 that complete later run one course. -/
theorem exec_fopWord {i : Instr} {f : KF} {q : Ctx → FKind} (h : Claims.fopWord i = some (f, q)) (s : State) :
    exec i s = issueCore i s (fun k s => .done (fopOp f (q k) k s)) := by
  cases i with
  | freq | frel | fcfg | fdrain | fstat | fmodeDf | fmodeSys =>
    cases h
    rfl
  | _ => cases h

section
variable {f : KF} {q : FKind} {k : Ctx} {s : State} (hc : s.crew? k.w.crew = some k.c)
include hc

/-- R270: an operation that does not begin at once takes its turn. -/
theorem fopOp_waits (h : (Claims.fopOf f k q).early k.c = false
    ∨ ∀ t, (Claims.fopOf f k q).attempt k.w.crew k.c (k.spot s) s ≠ .begun t) :
    fopOp f q k s = Claims.opAdded k s (Claims.fopOf f k q) := by
  have hop : (⟨k.w.gang, k.w.wave, KF.D f, q, false, false, 0⟩ : FOp) = Claims.fopOf f k q := rfl
  simp only [fopOp, hc, hop]
  split
  · next hearly =>
    split
    · next t ht => exact absurd ht (h.resolve_left (by rw [hearly]; decide) t)
    · rfl
  · rfl

/-- R270, R406: one that begins at once does so where the ring has room. -/
theorem fopOp_begins {t : State} (hearly : (Claims.fopOf f k q).early k.c = true)
    (ht : (Claims.fopOf f k q).attempt k.w.crew k.c (k.spot s) s = .begun t) :
    fopOp f q k s = if (s.asid k.asid).waiting.length < (t.asid k.asid).waiting.length then
      Claims.opAdded k s (Claims.fopOf f k q) else Claims.opAdded k t ((Claims.fopOf f k q).begin k.c) := by
  have hop : (⟨k.w.gang, k.w.wave, KF.D f, q, false, false, 0⟩ : FOp) = Claims.fopOf f k q := rfl
  simp only [fopOp, hc, hop, hearly, ht, if_true]
  rfl

end

theorem FOp.early_iff (o : FOp) (x : Crew) : o.early x = true ↔
    (o.isLoad = true ∧ ∀ p ∈ x.fops, p.gang = o.gang → p.wave = o.wave → p.accepted = true)
    ∨ (o.isDrain = true ∧ ∀ p ∈ x.fops, p.gang = o.gang → p.wave = o.wave → p.isLoad = true →
        ∀ b, o.kind = .fdrain b → p.onPlace b.toNat = true → p.accepted = true) := by
  obtain ⟨gang, wave, d, kind, accepted, ended, later⟩ := o
  cases kind with
  | fcfg a b e => simp [FOp.early, FOp.isLoad, FOp.isDrain]
  | fdrain b =>
    simp only [FOp.early, FOp.isLoad, FOp.isDrain]
    simp only [Bool.not_eq_true', List.any_eq_false, List.mem_filter, Bool.and_eq_true, beq_iff_eq, Bool.false_eq_true,
      false_and, false_or, true_and, FKind.fdrain.injEq, forall_eq', and_imp]
    refine forall₂_congr fun p _ => forall₂_congr fun _ _ => ?_
    cases p.accepted <;> simp
  | _ => simp [FOp.early, FOp.isLoad, FOp.isDrain]

theorem fabricReads : Claims.FabricReads := by
  intro i f q hi s k h o r
  have he := exec_fopWord hi s
  have hc := h.crew?_unfocused
  refine ⟨fun hw => completes_of_done he h (congrArg Res.done (fopOp_waits hc hw)), fun t ht hearly => ?_, FOp.early_iff o k.c⟩
  have hbegin := fopOp_begins hc hearly ht
  refine ⟨fun hfits => completes_of_done he h (congrArg Res.done (hbegin.trans (if_neg ?_))),
    fun hfull => completes_of_done he h (congrArg Res.done (hbegin.trans (if_pos ?_)))⟩
  · exact Nat.not_lt.mpr hfits
  · exact Nat.lt_of_not_le hfull

/-! ### FSEND (R278, R71) -/

theorem fsendOp_go {f : KF} {k : Ctx} {s : State}
    (h : k.c.mapped k.kn (opS f k.wv).toNat ≠ .unplaced ∨ k.active s f.pm f.pn = []) :
    fsendOp f k s = .done ((k.active s f.pm f.pn).foldl (fsendOne f k (opS f k.wv).toNat) s) := by
  unfold fsendOp
  refine if_pos ?_
  rcases h with h | h <;> simp [h]

theorem fsendOp_unplaced {f : KF} {k : Ctx} {s : State} (hmap : k.c.mapped k.kn (opS f k.wv).toNat = .unplaced)
    (hact : k.active s f.pm f.pn ≠ []) (hpark : k.c.parkFull = []) :
    fsendOp f k s = if s.fresh.1 % 2 = 0 then
        .done ((k.active s f.pm f.pn).foldl (fsendOne f k (opS f k.wv).toNat) s.fresh.2)
      else .held (faultAt k (fsendFull f k (opS f k.wv).toNat s) s.fresh.2) := by
  unfold fsendOp
  simp only [hmap, hact, hpark, bne_self_eq_false, Bool.false_or, List.isEmpty_iff, List.isEmpty_nil, if_false,
    Bool.not_true, Bool.false_eq_true]
  rfl

theorem State.crew?_setCrew_self (s : State) (c : CrewId) (x : Crew) : (s.setCrew c x).crew? c = some x :=
  Tab.get?_set_self s.crews c x

/-- R312: an activation that the weir learns of changes the chains of its crew and the next number. -/
theorem State.newAct_some {t : State} {c : CrewId} {y : Crew} (hy : t.crew? c = some y) (pad round blk : Nat) (tag : Dword)
    (parent : Option Nat) (loop : Bool) : ∃ z, t.newAct c pad round blk tag parent loop = t.setCrew c z
      ∧ z = { y with chains := z.chains, ids := z.ids } := by
  unfold State.newAct
  simp only [hy]
  split
  · refine ⟨{ y with ids := y.ids + 1, chains := y.chains.map (fun ch => if ch.paddock == pad then
      { ch with acts := ch.acts ++ [⟨y.ids + 1, round, blk, tag, parent, loop, false, false⟩] } else ch) }, ?_, rfl⟩
    simp only [State.newId, hy, State.modChain]
    rw [State.modCrew_some _ (s := t.setCrew c _) (t.crew?_setCrew_self c _)]
    exact setCrew_setCrew _ _ _ _
  · exact ⟨y, (State.setCrew_self hy).symm, rfl⟩

/-- R71, R278: the round, the root of the chain, and the entry of one element. -/
theorem fsendOne_sends (f : KF) (k : Ctx) (n e : Nat) (t : State) (x : Wave) (y : Crew) (hx : t.wave? (k.owner e) = some x)
    (hy : t.crew? k.w.crew = some y) : ∃ z, fsendOne f k n t e = t.setCrew k.w.crew z
      ∧ z = { y with rounds := z.rounds, flight := z.flight, chains := z.chains, ids := z.ids }
      ∧ z.rounds = y.rounds ++ [⟨y.ids + 1, n, 256 * k.w.gang + k.iterJ e, BitVec.ofNat 3 (fld x.fcsr 7 5), false, true,
          none, 0, [], [], [], false, false⟩]
      ∧ ∃ q : Spot, z.flight = y.flight ++ [.entry
          { sender := .wave k.w.gang k.w.wave q, place := (k.c.mapped k.kn n).place, paddock := n, blk := 0
            tag := rootTag (256 * k.w.gang + k.iterJ e), slot := fld f.c 2 0, port := false, err := false
            value := if f.ty = 1 then x.rdD (KF.A f) (e % 32) else (x.rdV (KF.A f) (e % 32)).setWidth 64
            round := y.ids + 1, how := ⟨0, none, 0⟩, start := false, relayed := false }] := by
  let r : Round := ⟨y.ids + 1, n, 256 * k.w.gang + k.iterJ e, BitVec.ofNat 3 (fld x.fcsr 7 5), false, true, none, 0, [], [], [],
    false, false⟩
  let y1 : Crew := { y with ids := y.ids + 1, rounds := y.rounds ++ [r] }
  obtain ⟨z1, hact, hz1⟩ := State.newAct_some (t.crew?_setCrew_self k.w.crew y1) n r.id 0
    (rootTag (256 * k.w.gang + k.iterJ e)) none false
  have hround : (t.setCrew k.w.crew { y with ids := y.ids + 1 }).modCrew k.w.crew (fun c => { c with rounds := c.rounds ++ [r] })
      = t.setCrew k.w.crew y1 := by
    rw [State.modCrew_some _ (t.crew?_setCrew_self _ _), State.setCrew_setCrew]
  rw [State.setCrew_setCrew] at hact
  simp only [fsendOne, hx, State.newId, hy]
  simp only [r] at hround hact
  rw [hround, hact, State.sendFlit, State.modCrew_some _ (t.crew?_setCrew_self _ _), State.setCrew_setCrew]
  have hrounds : z1.rounds = y.rounds ++ [r] := by rw [hz1]
  have hflight : z1.flight = y.flight := by rw [hz1]
  refine ⟨_, rfl, ?_, hrounds, k.spot (t.setCrew k.w.crew z1), ?_⟩
  · generalize z1.chains = chains at hz1
    generalize z1.ids = ids at hz1
    subst hz1
    rfl
  · simp only [hflight, beq_iff_eq]

/-! ### The elements of a word and the waves that own them (R59) -/

/-- Element of lane l of a wave of the form. -/
def Ctx.elem (k : Ctx) (v : WaveId) (l : Nat) : Nat := if k.vec then 32 * v.wave + l else l

theorem Ctx.active_eq (k : Ctx) (s : State) (pm : BitVec 3) (pn : Bool) :
    k.active s pm pn = (k.states s).flatMap (fun p => (Claims.lanesIn (k.act pm pn p.1 p.2)).map (k.elem p.1)) := rfl

theorem Ctx.owner_elem {k : Ctx} {v : WaveId} (hv : v ∈ k.waves) {l : Nat} (hl : l < 32) : k.owner (k.elem v l) = v := by
  unfold Ctx.waves at hv
  unfold Ctx.owner Ctx.elem
  split at hv
  · next hvec =>
    obtain ⟨i, -, rfl⟩ := List.mem_map.mp hv
    rw [if_pos hvec, if_pos hvec, show (32 * i + l) / 32 = i by omega]
    rfl
  · next hvec =>
    rw [if_neg hvec, List.mem_singleton.mp hv]

theorem Ctx.elem_lane (k : Ctx) (v : WaveId) {l : Nat} (hl : l < 32) : k.elem v l % 32 = l := by
  unfold Ctx.elem
  split <;> omega

theorem mem_lanesIn {act : Word} {l : Nat} : l ∈ Claims.lanesIn act ↔ l < 32 ∧ act.getLsbD l = true := by
  simp [Claims.lanesIn]

/-- The active elements that a wave owns are those of its lanes. -/
theorem Ctx.active_owned {k : Ctx} {s : State} {v : WaveId} {x : Wave} (hv : v ∈ k.waves) (hx : s.wave? v = some x)
    (pm : BitVec 3) (pn : Bool) : (k.active s pm pn).filter (fun e => k.owner e = v)
      = (Claims.lanesIn (k.act pm pn v x)).map (k.elem v) := by
  rw [Ctx.active_eq, Ctx.states]
  have key (vs : List WaveId) (hn : vs.Nodup) (hvs : ∀ w ∈ vs, w ∈ k.waves) :
      ((vs.filterMap (fun v => (s.wave? v).map (fun x => (v, x)))).flatMap
        (fun p => (Claims.lanesIn (k.act pm pn p.1 p.2)).map (k.elem p.1))).filter (fun e => k.owner e = v)
      = if v ∈ vs then (Claims.lanesIn (k.act pm pn v x)).map (k.elem v) else [] := by
    induction vs with
    | nil => rfl
    | cons w vs ih =>
      obtain ⟨hw, hn⟩ := List.nodup_cons.mp hn
      have hrest := ih hn fun u hu => hvs u (List.mem_cons_of_mem _ hu)
      have howner (y : Wave) : ∀ e ∈ (Claims.lanesIn (k.act pm pn w y)).map (k.elem w), k.owner e = w := by
        intro e he
        obtain ⟨l, hl, rfl⟩ := List.mem_map.mp he
        exact Ctx.owner_elem (hvs w List.mem_cons_self) (mem_lanesIn.mp hl).1
      by_cases hwv : w = v
      · subst hwv
        rw [List.filterMap_cons_some (by rw [hx]; rfl), List.flatMap_cons, List.filter_append, hrest, if_neg hw,
          if_pos List.mem_cons_self, List.append_nil]
        exact List.filter_eq_self.mpr fun e he => decide_eq_true (howner x e he)
      · have hmem : v ∈ w :: vs ↔ v ∈ vs := by simp [Ne.symm hwv]
        rw [if_congr hmem rfl rfl, ← hrest]
        cases hy : s.wave? w with
        | none => rw [List.filterMap_cons_none (by rw [hy]; rfl)]
        | some y =>
          rw [List.filterMap_cons_some (by rw [hy]; rfl), List.flatMap_cons, List.filter_append,
            List.filter_eq_nil_iff.mpr fun e he => by simpa [howner y e he] using hwv, List.nil_append]
  rw [key k.waves k.waves_nodup fun _ h => h, if_pos hv]

theorem Ctx.active_owner_mem {k : Ctx} {s : State} {pm : BitVec 3} {pn : Bool} {e : Nat} (he : e ∈ k.active s pm pn) :
    k.owner e ∈ k.waves := by
  rw [Ctx.active_eq] at he
  obtain ⟨p, hp, he⟩ := List.mem_flatMap.mp he
  obtain ⟨l, hl, rfl⟩ := List.mem_map.mp he
  rw [Ctx.owner_elem (states_mem hp) (mem_lanesIn.mp hl).1]
  exact states_mem hp

/-- Changes of waves one after the other: each wave has those that are its own. -/
theorem foldl_modWave (s : State) (es : List Nat) (own : Nat → WaveId) (g : Nat → Wave → Wave) :
    let t := es.foldl (fun s e => s.modWave (own e) (g e)) s
    t = { s with waves := t.waves }
    ∧ ∀ v, t.wave? v = (s.wave? v).map (fun x => (es.filter (fun e => own e = v)).foldl (fun x e => g e x) x) := by
  induction es generalizing s with
  | nil => exact ⟨rfl, fun v => by simp⟩
  | cons e es ih =>
    obtain ⟨hframe, hwave⟩ := ih (s.modWave (own e) (g e))
    refine ⟨with_waves_trans (modWave_eq s _ _) hframe, fun v => (hwave v).trans ?_⟩
    rw [State.wave?_modWave]
    by_cases hv : own e = v
    · rw [if_pos hv, List.filter_cons_of_pos (by simpa using hv), Option.map_map]
      rfl
    · rw [if_neg hv, List.filter_cons_of_neg (by simpa using hv)]

/-! ### FRECV and FPRIO (R277, R280) -/

/-- R280: the result that a lane waits for from now on. -/
def recvOf (f : KF) (k : Ctx) (now l : Nat) : Recv :=
  ⟨(opS f k.wv).toNat, fld f.c 2 0, l, KF.D f, f.ty == 1, now, k.wv.pc, k.on f k.w k.wv, (k.maps (.frecv f)).2⟩

theorem foldl_recvs (f : Nat → Recv) (ls : List Nat) (x : Wave) :
    ls.foldl (fun x l => { x with recvs := x.recvs ++ [f l] }) x = { x with recvs := x.recvs ++ ls.map f } := by
  induction ls generalizing x with
  | nil => simp
  | cons l ls ih => simp [ih]

theorem frecvOp_onWaves (f : KF) (k : Ctx) (s : State) : OnWaves k s (frecvOp f k s) (fun v x y =>
    y = { x with recvs := x.recvs ++ (Claims.lanesIn (k.on f v x)).map (recvOf f k s.now) }) := by
  have hop : frecvOp f k s = (k.active s f.pm f.pn).foldl (fun t e => t.modWave (k.owner e) (fun x =>
      { x with recvs := x.recvs ++ [recvOf f k s.now (e % 32)] })) s := by
    have key (es : List Nat) (t : State) (ht : t.now = s.now) :
        es.foldl (fun t e => t.modWave (k.owner e) (fun x => { x with recvs := x.recvs ++ [recvOf f k t.now (e % 32)] })) t
        = es.foldl (fun t e => t.modWave (k.owner e) (fun x => { x with recvs := x.recvs ++ [recvOf f k s.now (e % 32)] })) t := by
      induction es generalizing t with
      | nil => rfl
      | cons e es ih =>
        rw [List.foldl_cons, List.foldl_cons, ht]
        exact ih _ (by rw [modWave_eq]; exact ht)
    exact key _ s rfl
  obtain ⟨hframe, hwave⟩ := foldl_modWave s (k.active s f.pm f.pn) k.owner
    (fun e x => { x with recvs := x.recvs ++ [recvOf f k s.now (e % 32)] })
  rw [hop]
  refine ⟨hframe, fun v hv => ?_, fun v x hv hx => ⟨_, (hwave v).trans (by rw [hx]; rfl), ?_⟩⟩
  · rw [hwave, List.filter_eq_nil_iff.mpr fun e he => by
      rw [decide_eq_true_eq]
      rintro rfl
      exact hv (Ctx.active_owner_mem he)]
    exact Option.map_id'
  · have hlanes : ((Claims.lanesIn (k.act f.pm f.pn v x)).map (k.elem v)).map (fun e => recvOf f k s.now (e % 32))
        = (Claims.lanesIn (k.act f.pm f.pn v x)).map (recvOf f k s.now) := by
      rw [List.map_map]
      exact List.map_congr_left fun l hl => congrArg (recvOf f k s.now) (k.elem_lane v (mem_lanesIn.mp hl).1)
    dsimp only
    rw [Ctx.active_owned hv hx, foldl_recvs (fun e => recvOf f k s.now (e % 32)), hlanes]
    rfl

theorem State.setPrio_none {s : State} {c : CrewId} {x : Crew} (hx : s.crew? c = some x) (hr : x.region = none) (n : Nat) :
    s.setPrio c n = s := by
  rw [State.setPrio, State.modRegion, State.modCrew_some _ hx]
  refine State.setCrew_self (hx.trans (congrArg some ?_))
  cases x
  cases hr
  rfl

theorem fabricSends : Claims.FabricSends := by
  refine ⟨fun f s k h => ?_, fsendOne_sends, fun f s k h => ?_, fun f s k r h => ?_⟩
  · intro n sent
    refine ⟨fun hgo => completes_of_done (body := fsendOp f) rfl h (fsendOp_go hgo), fun hmap hact hpark => ?_⟩
    have hop := fsendOp_unplaced (s := s.unfocused) hmap hact hpark
    by_cases hfree : s.fresh.1 % 2 = 0
    · rw [if_pos hfree]
      exact completes_of_done (body := fsendOp f) rfl h (hop.trans (if_pos hfree))
    · rw [if_neg hfree]
      exact issueCore_held h (hop.trans (if_neg hfree))
  · have houts : (k.maps (.frecv f)).2 = [] := h.outputs
    refine ⟨_, completes_of_done rfl h rfl, (frecvOp_onWaves f k s.unfocused).mono fun v x y hy => ?_⟩
    rw [hy]
    refine congrArg (fun r => { x with recvs := x.recvs ++ r }) (List.map_congr_left fun l _ => ?_)
    rw [recvOf, houts]
    rfl
  · have hc := h.crew?_unfocused
    have he : exec (.fprio f) s = issueCore (.fprio f) s (fun k s => .done (fprioOp f k s)) := rfl
    have hturn (hn : (opS f k.wv).toNat < 16) (hop : k.c.opOf k.w = none) :
        fprioOp f k s.unfocused = s.unfocused.setPrio k.w.crew (opS f k.wv).toNat := by
      simp only [fprioOp, hn, hc, Option.bind_some, hop, if_true]
    refine ⟨fun hn hr hop => completes_of_done he h (congrArg Res.done ((hturn hn hop).trans ?_)),
      fun hn hr hop => completes_of_done he h (congrArg Res.done ((hturn hn hop).trans (State.setPrio_none hc hr _))),
      fun hn hop => completes_of_done he h (congrArg Res.done ?_), fun hn => completes_of_done he h (congrArg Res.done ?_)⟩
    · rw [State.setPrio, State.modRegion, State.modCrew_some _ hc, hr]
      rfl
    · obtain ⟨o, ho⟩ := Option.isSome_iff_exists.mp hop
      simp only [fprioOp, hn, hc, Option.bind_some, ho, if_true]
      exact fopOp_waits hc (.inl rfl)
    · exact if_neg (Nat.not_lt.mpr hn)

/-- Settles O27: each word issues its operation, which begins at once or waits its turn; an FSEND does so element by element,
and an FRECV lane by lane. -/
theorem fabricWords : Obligations.FabricWords := ⟨fabricReads, fabricSends⟩

end Sys2Proof.Machine
end

section
/-! PROOFS. How class 7 operations end (R273 to R276, R279 to R282). -/

namespace Sys2Proof.Machine

/-! ### The step that completes an operation -/

theorem modCrew_eq (s : State) (c : CrewId) (f : Crew → Crew) : s.modCrew c f = { s with crews := (s.modCrew c f).crews } := by
  unfold State.modCrew
  split <;> rfl

/-- R406: a step that the ring has room for goes on. -/
theorem State.unlessFull_of_fits {s t : State} {a : Nat} (h : ringFits a s t) : s.unlessFull a (.next t) = .next t :=
  if_neg (Nat.not_lt.mpr h)

section
variable {s t : State} {w : WaveId} {x : Crew} {n : Nat} {o : FOp} (hx : s.crew? w.crew = some x) (ho : x.opOf w = some (n, o))
include hx ho

theorem fabricOpComplete_begun (h : o.attempt w.crew x noSpot s = .begun t) (hfits : ringFits (s.asidOf w.crew) s t) :
    exec (.fabricOpComplete w) s
      = .next (t.modCrew w.crew (fun y => { y with fops := y.fops.modify n (fun o => o.begin x) })) := by
  change execFabricOpComplete w s = _
  simp only [execFabricOpComplete, hx, ho, h]
  refine State.unlessFull_of_fits ?_
  rw [modCrew_eq]
  exact hfits

theorem fabricOpComplete_over {v : Dword} (hsaved : x.saved = false) (h : o.attempt w.crew x noSpot s = .over v t)
    (hfits : ringFits (s.asidOf w.crew) s
      ((t.modCrew w.crew (fun x => { x with fops := x.fops.eraseIdx n })).modWave w (fun y => y.wrS o.d v))) :
    exec (.fabricOpComplete w) s = .next ((t.modCrew w.crew (fun x => { x with fops := x.fops.eraseIdx n })).modWave w
      (fun y => y.wrS o.d v)) := by
  change execFabricOpComplete w s = _
  simp only [execFabricOpComplete, hx, ho, h, hsaved, Bool.false_eq_true, if_false]
  exact State.unlessFull_of_fits hfits

end

/-! ### The statuses -/

section
variable (c : CrewId) (x : Crew) (s : State)

/-- R274. -/
theorem freqTry_statuses (n : Dword) (loc : Bool) :
    (x.region.isSome = true → freqTry c x n loc s = .status (2 * 2 ^ 62) s)
    ∧ (x.region = none → n = 0 ∨ 64 < n.toNat → freqTry c x n loc s = .status (3 * 2 ^ 62) s)
    ∧ (x.region = none → n ≠ 0 → n.toNat ≤ 64 → s.grant c x n.toNat loc false = .noRoom →
        freqTry c x n loc s = .status (2 ^ 62) s)
    ∧ ∀ h t, x.region = none → n ≠ 0 → n.toNat ≤ 64 → s.grant c x n.toNat loc false = .ok h t →
        freqTry c x n loc s = .status (n.toNat * 2 ^ 16 + h) t := by
  have hgood (hn : n ≠ 0) (hle : n.toNat ≤ 64) : (n == 0 || decide (64 < n.toNat)) = false := by
    rw [beq_false_of_ne hn, Bool.false_or]
    exact decide_eq_false (Nat.not_lt.mpr hle)
  have hfree (hr : x.region = none) : ¬x.region.isSome = true := by simp [hr]
  refine ⟨fun hr => if_pos hr, fun hr hn => ?_, fun hr hn hle hg => ?_, fun h t hr hn hle hg => ?_⟩
  · exact (if_neg (hfree hr)).trans (if_pos (by simpa using hn))
  · unfold freqTry
    rw [if_neg (hfree hr), if_neg (by rw [hgood hn hle]; exact Bool.false_ne_true), hg]
  · unfold freqTry
    rw [if_neg (hfree hr), if_neg (by rw [hgood hn hle]; exact Bool.false_ne_true), hg]

/-- R275. -/
theorem frelStatus_eq (h : Dword) : frelStatus c x h s = x.region.elim (2, s) (fun r =>
    if h.toNat ≠ r.handle then (2, s) else if ∃ p ∈ r.places, p.live = true then (1, s)
    else (0, s.modCrew c (fun x => { x with region := none, geometry := none, cells := [] }))) := by
  unfold frelStatus
  cases x.region with
  | none => rfl
  | some r => simp only [Option.elim_some, bne_iff_ne, List.any_eq_true]

theorem Crew.region_of_named {b : Dword} {p : Place} (h : x.named? b = some p) : ∃ r, x.region = some r := by
  unfold Crew.named? at h
  cases hr : x.region with
  | none => simp [hr] at h
  | some r => exact ⟨r, rfl⟩

/-- R281. -/
theorem fmodeStatus_statuses {b : Dword} (sys : Bool) {p : Place} (hp : x.named? b = some p) :
    (p.live = true ∨ p.draining = true ∨ x.mx ≠ [] → fmodeStatus c x b sys s = (1, s))
    ∧ (p.live = false → p.draining = false → x.mx = [] → p.sys = sys → fmodeStatus c x b sys s = (0, s))
    ∧ ∀ r, x.region = some r → p.live = false → p.draining = false → x.mx = [] → p.sys ≠ sys →
      let full := (s.bayPlaces p.slice p.bay).any (fun q => q.2.2.sys) = true ∨ 8 ≤ (r.places.filter (fun q => q.sys)).length
      (sys = true → full → fmodeStatus c x b sys s = (1, s))
      ∧ (sys = false ∨ ¬full →
          let t := s.modPlace c b.toNat (fun p => { p with sys := sys })
          fmodeStatus c x b sys s = (0, (if sys then t.startRows p.slice p.bay else t).modCrew c
            (fun x => { x with geometry := none, cells := [] }))) := by
  obtain ⟨r, hr⟩ := Crew.region_of_named x hp
  unfold fmodeStatus
  simp only [hp, hr, Bool.or_eq_true, Bool.not_eq_true', List.isEmpty_eq_false_iff, beq_iff_eq, Bool.and_eq_true,
    decide_eq_true_eq]
  refine ⟨fun hbusy => if_pos (by tauto), fun hl hd hm hs => ?_, fun r' hr' hl hd hm hs => ?_⟩
  · rw [if_neg (by simp [hl, hd, hm]), if_pos hs]
  · cases hr'
    rw [if_neg (by simp [hl, hd, hm]), if_neg hs]
    exact ⟨fun hsys hfull => if_pos ⟨hsys, hfull⟩, fun hfree => if_neg fun ⟨hsys, hfull⟩ =>
      hfree.elim (fun hf => Bool.false_ne_true (hf.symm.trans hsys)) (fun hf => hf hfull)⟩

/-- The state of a place as FSTAT gives it. -/
def PState.code (p : PState) : Nat := match p with | .free => 0 | .loading => 1 | .resident => 2 | .swapped => 3

theorem PState.code_lt (p : PState) : p.code < 4 := by cases p <;> decide

theorem fstatWord_eq {b : Dword} {p : Place} (hp : x.named? b = some p) : ∃ pad parked : Nat, fstatWord x s b
    = BitVec.ofNat 2 p.state.code ++ BitVec.ofBool (p.drainHere != 0) ++ BitVec.ofBool p.sys ++ BitVec.ofNat 12 pad
      ++ BitVec.ofNat 4 (s.placePrio p) ++ BitVec.ofNat 8 p.slice ++ BitVec.ofNat 4 p.bay ++ BitVec.ofNat 2 p.ctx
      ++ (0 : BitVec 4) ++ BitVec.ofNat 10 (p.frames.filter (fun f => f.resident)).length ++ BitVec.ofNat 16 parked := by
  unfold fstatWord
  rw [hp]
  exact ⟨_, _, rfl⟩

/-- R282. -/
theorem fstatWord_fields {b : Dword} {p : Place} (hp : x.named? b = some p) : let y := fstatWord x s b
    fld y 63 62 = p.state.code
    ∧ y.getLsbD 61 = (p.drainHere != 0) ∧ y.getLsbD 60 = p.sys ∧ fld y 47 44 = s.placePrio p % 16
    ∧ fld y 43 36 = p.slice % 256 ∧ fld y 35 32 = p.bay % 16 ∧ fld y 31 30 = p.ctx % 4
    ∧ fld y 25 16 = (p.frames.filter (fun f => f.resident)).length % 1024 := by
  intro y
  obtain ⟨pad, parked, heq⟩ := fstatWord_eq x s hp
  have hcode := p.state.code_lt
  have hdrain : (p.drainHere != 0).toNat < 2 := Bool.toNat_lt _
  have hsys : p.sys.toNat < 2 := Bool.toNat_lt _
  have hy : y.toNat = (((((((((p.state.code * 2 + (p.drainHere != 0).toNat) * 2 + p.sys.toNat) * 4096 + pad % 4096) * 16
      + s.placePrio p % 16) * 256 + p.slice % 256) * 16 + p.bay % 16) * 4 + p.ctx % 4) * 16 * 1024)
      + (p.frames.filter (fun f => f.resident)).length % 1024) * 65536 + parked % 65536 := by
    simp only [y, heq, toNat_append_add, BitVec.toNat_ofNat, BitVec.toNat_ofBool, BitVec.ofNat_eq_ofNat]
    omega
  simp only [fld_eq_div_mod, hy]
  refine ⟨?_, getLsbD_of_div_mod (hy ▸ ?_), getLsbD_of_div_mod (hy ▸ ?_), ?_, ?_, ?_, ?_, ?_⟩ <;> omega

/-- R276: the statuses of a load that ends at once. -/
theorem fcfgTry_statuses (a b e : Dword) :
    (x.named? b = none → fcfgTry c x a b e s = .status 2 s)
    ∧ ∀ p r l kn, x.named? b = some p → x.region = some r → s.launch? c.launch = some l → l.kernel = some kn →
      (kn.paddocks.length ≤ a.toNat ∨ edgeBad e = true → fcfgTry c x a b e s = .status 4 s)
      ∧ (a.toNat < kn.paddocks.length → edgeBad e = false → loadBusy r a.toNat b.toNat p = true →
          fcfgTry c x a b e s = .status 1 s)
      ∧ (∀ n, a.toNat < kn.paddocks.length → edgeBad e = false → loadBusy r a.toNat b.toNat p = false →
          s.slotBusy x kn a.toNat = false → loadRefusal kn l.args (s.cluster x.cluster) a.toNat p.sys = some n →
          fcfgTry c x a b e s = .status 3 (s.configRecord c.launch x.cluster a.toNat .notice n)) := by
  refine ⟨fun hb => ?_, fun p r l kn hb hr hl hk => ?_⟩
  · unfold fcfgTry
    cases s.launch? c.launch with
    | none => rfl
    | some l => simp only [hb]
  · have hgood (ha : a.toNat < kn.paddocks.length) (he : edgeBad e = false) :
        ¬(decide (kn.paddocks.length ≤ a.toNat) || edgeBad e) = true := by simp [he, ha]
    unfold fcfgTry
    simp only [hb, hr, hl, hk]
    refine ⟨fun hbad => if_pos (by simpa using hbad), fun ha he hbusy => ?_, fun n ha he hbusy hslot href => ?_⟩
    · rw [if_neg (hgood ha he), if_pos (by rw [hbusy]; rfl)]
    · rw [if_neg (hgood ha he), if_neg (by rw [hbusy, hslot]; decide)]
      simp only [href]

/-- R279: the statuses of a drain of what holds nothing. -/
theorem drainStart_none {gang wave : Nat} {spot : Spot} {b : Dword} :
    (x.named? b = none → drainStart c gang wave spot x b s = none ∧ drainStatus x b = 2)
    ∧ ∀ p, x.named? b = some p → p.state = .free → p.next = [] → drainStart c gang wave spot x b s = none ∧ drainStatus x b = 1 := by
  refine ⟨fun hb => ?_, fun p hb hfree hnext => ?_⟩
  · simp [drainStart, drainStatus, hb]
  · simp [drainStart, drainStatus, hb, hfree, hnext]

end

theorem Attempt.status_of_eq {q : Nat × State} {n : Nat} {t : State} (h : q = (n, t)) :
    Attempt.status q.1 q.2 = .over (BitVec.ofNat 64 n) t := by
  rw [h]
  rfl

/-- R276, R279: a load or a drain that is over. -/
theorem FOp.attempt_ended {o : FOp} {c : CrewId} {x : Crew} {spot : Spot} {s : State} (h : o.isLoad = true ∨ o.isDrain = true)
    (hacc : o.accepted = true) (hend : o.ended = true) : o.attempt c x spot s = .over 0 s := by
  obtain ⟨gang, wave, d, kind, accepted, ended, later⟩ := o
  simp only at hacc hend
  subst hacc hend
  cases kind with
  | fcfg | fdrain => rfl
  | _ => exact absurd h (by simp [FOp.isLoad, FOp.isDrain])

/-- Settles O28: the step completes what the attempt gives, and each kind of operation has the statuses of its own tests. -/
theorem fabricStatuses : Obligations.FabricStatuses := by
  refine ⟨fun s t w x n o hx ho h hfits => fabricOpComplete_begun hx ho h hfits,
    fun s t w x n o v hx ho hsaved h hfits => fabricOpComplete_over hx ho hsaved h hfits, fun o c x pc s => ?_⟩
  intro st
  refine ⟨fun n loc ho => ?_, fun h ho => ?_, fun b sys ho => ?_, fun b ho => ?_, fun n ho => ?_, fun a b e ho hacc => ?_,
    fun b ho hacc => ?_, fun ho hacc hend => ?_⟩
  · have hat : o.attempt c x pc s = freqTry c x n loc s := by rw [FOp.attempt, ho]
    simp only [st, hat]
    exact freqTry_statuses c x s n loc
  · have hat : o.attempt c x pc s = .status (frelStatus c x h s).1 (frelStatus c x h s).2 := by rw [FOp.attempt, ho]
    have hst {n : Nat} {t : State} (hs : frelStatus c x h s = (n, t)) : st n t := hat.trans (Attempt.status_of_eq hs)
    refine ⟨fun hr => hst ?_, fun r hr => ⟨fun hh => hst ?_, fun hh hlive => hst ?_, fun hh hfree => hst ?_⟩⟩ <;>
      rw [frelStatus_eq, hr]
    · rfl
    · exact if_pos hh
    · exact (if_neg (not_not.mpr hh)).trans (if_pos hlive)
    · exact (if_neg (not_not.mpr hh)).trans (if_neg fun ⟨p, hp, hl⟩ => Bool.false_ne_true ((hfree p hp).symm.trans hl))
  · have hat : o.attempt c x pc s = .status (fmodeStatus c x b sys s).1 (fmodeStatus c x b sys s).2 := by rw [FOp.attempt, ho]
    have hst {n : Nat} {t : State} (hs : fmodeStatus c x b sys s = (n, t)) : st n t := hat.trans (Attempt.status_of_eq hs)
    refine ⟨fun hb => hst (by rw [fmodeStatus, hb]), fun p hb => ?_⟩
    obtain ⟨hbusy, hsame, hchange⟩ := fmodeStatus_statuses c x s sys hb
    refine ⟨fun h => hst (hbusy h), fun hl hd hm hs => hst (hsame hl hd hm hs), fun r hr hl hd hm hs => ?_⟩
    obtain ⟨hfull, hfree⟩ := hchange r hr hl hd hm hs
    exact ⟨fun hsys hf => hst (hfull hsys hf), fun hf => hst (hfree hf)⟩
  · have hat : o.attempt c x pc s = .over (fstatWord x s b) s := by rw [FOp.attempt, ho]
    refine ⟨fun hb => hat.trans (by rw [fstatWord, hb]; rfl), fun p hb => ⟨_, hat, ?_⟩⟩
    exact fstatWord_fields x s hb
  · simp only [st, FOp.attempt, ho]
    rfl
  · have hat : o.attempt c x pc s = fcfgTry c x a b e s := by
      simp only [FOp.attempt, ho, hacc, Bool.false_eq_true, if_false]
    simp only [st, hat]
    exact fcfgTry_statuses c x s a b e
  · have hat (hnone : drainStart c o.gang o.wave pc x b s = none) : o.attempt c x pc s = .status (drainStatus x b) s := by
      simp only [FOp.attempt, ho, hacc, hnone, Bool.false_eq_true, if_false]
    obtain ⟨hno, hempty⟩ := drainStart_none c x s (gang := o.gang) (wave := o.wave) (spot := pc) (b := b)
    refine ⟨fun hb => ?_, fun p hb hfree hnext => ?_⟩
    · obtain ⟨hnone, hcode⟩ := hno hb
      exact (hat hnone).trans (by rw [hcode]; rfl)
    · obtain ⟨hnone, hcode⟩ := hempty p hb hfree hnext
      exact (hat hnone).trans (by rw [hcode]; rfl)
  · exact FOp.attempt_ended ho hacc hend

end Sys2Proof.Machine
end

section
/-! PROOFS. The words of the matrix array (R336, R344, R347 to R353, R358). -/

namespace Sys2Proof.Machine

section
variable {f : KF} {k : Ctx} (s : State)

theorem noFops_of_portFree (h : Claims.portFree k) :
    k.c.fops.any (fun o => o.gang == k.w.gang && o.wave == k.w.wave) = false :=
  List.any_eq_false.mpr fun o ho => by simpa using h.1 o ho

/-- R344, R347: a word whose port is free goes on. -/
theorem mxGate_of_portFree (h : Claims.portFree k) {entry : Option Nat} (hentry : entry.any k.c.fmtWaits = false)
    (body : State → Res) : mxGate k entry s body = body s := by
  unfold mxGate
  rw [if_neg (by rw [noFops_of_portFree h]; exact Bool.false_ne_true), if_neg (by rw [hentry]; exact Bool.false_ne_true),
    if_neg (Nat.not_le.mpr h.2)]

theorem mxTarget_of_lt {g : Geometry} (hg : k.c.geometry = some g) {b : Nat} {n : Geometry → Nat} (hb : b < n g)
    (body : Geometry → Res) : mxTarget k b n s body = body g := by
  rw [mxTarget, hg]
  exact if_neg (Nat.not_le.mpr hb)

theorem mxAddr_of_aligned (h : Claims.mxAligned k f) : mxAddr k s (k.wv.rdS (KF.A f)).toNat = none := by
  obtain ⟨halign, hrange⟩ := h
  rw [mxAddr, halign, if_neg (by decide), if_neg (Nat.not_le.mpr hrange)]

/-- R353: the entry that a word names, as a number. -/
theorem fld_entry (f : KF) : (f.c.extractLsb' 0 6).toNat = fld f.c 5 0 := rfl

theorem mxwOp_done {g : Geometry} (hport : Claims.portFree k) (hg : k.c.geometry = some g) (hb : argB f k < g.kb * g.nb)
    (hfmt : arrayFmt k.c g (f.c.extractLsb' 0 6) = none) (hwait : k.c.fmtWaits (fld f.c 5 0) = false)
    (haddr : Claims.mxAligned k f) : mxwOp f k s = .done (Claims.entered k s
      (mxNew k s (.weights (k.wv.rdS (KF.A f)) (k.c.fmtEntry (fld f.c 5 0)) (fld f.c 5 0)) (argB f k) 0)) := by
  unfold mxwOp
  simp only [mxGate_of_portFree s hport (entry := some _) hwait, mxTarget_of_lt s hg (n := fun g => g.kb * g.nb) hb, hfmt,
    mxAddr_of_aligned s haddr, fld_entry]
  rfl

theorem mxscOp_done {g : Geometry} (hport : Claims.portFree k) (hg : k.c.geometry = some g) (hb : argB f k < g.kb * g.nb)
    (haddr : Claims.mxAligned k f) : mxscOp f k s
      = .done (Claims.entered k s (mxNew k s (.scales (k.wv.rdS (KF.A f))) (argB f k) 0)) := by
  unfold mxscOp
  simp only [mxGate_of_portFree s hport (entry := none) rfl, mxTarget_of_lt s hg (n := fun g => g.kb * g.nb) hb,
    mxAddr_of_aligned s haddr]
  rfl

theorem mxzOp_done {g : Geometry} (hport : Claims.portFree k) (hg : k.c.geometry = some g) (hb : argB f k < g.kb * g.nb) :
    mxzOp f k s = .done (Claims.entered k s (mxNew k s .zero (argB f k) 0)) := by
  unfold mxzOp
  simp only [mxGate_of_portFree s hport (entry := none) rfl, mxTarget_of_lt s hg (n := fun g => g.kb * g.nb) hb]
  rfl

theorem mxaOp_done {g : Geometry} {s1 : State} {p : At} (hport : Claims.portFree k) (hg : k.c.geometry = some g)
    (hb : argB f k < g.nb) (hfmt : arrayFmt k.c g (f.c.extractLsb' 0 6) = none) (hwait : k.c.fmtWaits (fld f.c 5 0) = false)
    (haccess : wordAccess k (k.wv.rdS (KF.A f)).toNat 64 useLoad .thru s = (s1, .ok p)) :
    let r := s1.readAt k 64 .thru p
    let d := (recDwords r.2).take 8
    mxShape g d = false → mxaOp f k s = .done (Claims.entered k r.1 (mxNew k r.1
      (.pass d (k.c.fmtEntry (fld f.c 5 0)) (fld f.c 5 0)) (argB f k) (fld (d.getD 1 0) 4 0))) := by
  intro r d hshape
  unfold mxaOp
  simp only [d, r] at hshape
  simp only [mxGate_of_portFree s hport (entry := some _) hwait, mxTarget_of_lt s hg (n := fun g => g.nb) hb, hfmt, haccess,
    hshape, Bool.false_eq_true, if_false, fld_entry]
  rfl

/-- R336, R349: MXC gives its status and, on success, sets the geometry. -/
theorem mxcOp_done (hport : Claims.portFree k) (hw : s.wave? k.w = some k.wv) (hc : s.crew? k.w.crew = some k.c) :
    let w := k.wv.rdS (KF.A f)
    let kb := fld w 13 8 + 1
    let nb := fld w 21 16 + 1
    let bad := fld w 63 22 ≠ 0 ∨ fld w 15 14 ≠ 0 ∨ fld w 7 2 ≠ 0 ∨ fld w 1 0 = 3 ∨ 8 * k.c.sysPlaces.length < kb * nb
    let put (t : State) (n : Nat) := t.setWave k.w (k.wv.wrS (KF.D f) (BitVec.ofNat 64 n))
    (k.c.sysPlaces = [] → mxcOp f k s = .done (put s 2))
    ∧ (k.c.sysPlaces ≠ [] → bad → mxcOp f k s = .done (put s 3))
    ∧ (k.c.sysPlaces ≠ [] → ¬bad → k.c.mx ≠ [] → mxcOp f k s = .done (put s 1))
    ∧ (k.c.sysPlaces ≠ [] → ¬bad → k.c.mx = [] → mxcOp f k s = .done (put (s.setCrew k.w.crew
        { k.c with geometry := some ⟨fld w 1 0, kb, nb⟩, cells := [] }) 0)) := by
  intro w kb nb bad put
  let st : Nat := if k.c.sysPlaces = [] then 2 else if bad then 3 else if k.c.mx ≠ [] then 1 else 0
  have hop : mxcOp f k s = .done (put (if st = 0 then
      s.setCrew k.w.crew { k.c with geometry := some ⟨fld w 1 0, kb, nb⟩, cells := [] } else s) st) := by
    unfold mxcOp
    simp only [mxGate_of_portFree s hport (entry := none) rfl, List.length_eq_zero_iff, Bool.or_eq_true, bne_iff_ne,
      beq_iff_eq, decide_eq_true_eq, Bool.not_eq_true', List.isEmpty_eq_false_iff, or_assoc, State.modCrew_some _ hc]
    exact congrArg Res.done (State.modWave_some _
      ((apply_ite (fun t : State => t.wave? k.w) _ _ _).trans ((ite_self (s.wave? k.w)).trans hw)))
  refine ⟨fun hp => ?_, fun hp hbad => ?_, fun hp hbad hm => ?_, fun hp hbad hm => ?_⟩
  · have hst : st = 2 := if_pos hp
    rw [hop, hst]
    rfl
  · have hst : st = 3 := (if_neg hp).trans (if_pos hbad)
    rw [hop, hst]
    rfl
  · have hst : st = 1 := (if_neg hp).trans ((if_neg hbad).trans (if_pos hm))
    rw [hop, hst]
    rfl
  · have hst : st = 0 := (if_neg hp).trans ((if_neg hbad).trans (if_neg (not_not.mpr hm)))
    rw [hop, hst]
    rfl

theorem mxwaitOp_done (hport : Claims.portFree k) (hnone : k.c.mxOf k.w.gang k.w.wave = []) :
    mxwaitOp k s = .done (s.setCluster k.cluster { s.cluster k.cluster with l1 := [], l1Past := false }) := by
  unfold mxwaitOp
  rw [if_neg (by rw [noFops_of_portFree hport]; exact Bool.false_ne_true), if_neg (by rw [hnone]; decide)]
  rfl

end

/-- Settles O29: a word whose port, target, formats and address are in order puts its work last in the crew. -/
theorem matrixWords : Obligations.MatrixWords := by
  refine ⟨fun f s k g h hport hg hb hfmt hwait haddr => ?_, fun f s k g h hport hg hb haddr => ?_,
    fun f s k g h hport hg hb => ?_, fun f s s1 k g p h hport hg hb hfmt hwait haccess => ?_, fun f s k h hport => ?_,
    fun f s k h hport hnone => ?_⟩
  · exact completes_of_done (body := mxwOp f) rfl h (mxwOp_done s.unfocused hport hg hb hfmt hwait haddr)
  · exact completes_of_done (body := mxscOp f) rfl h (mxscOp_done s.unfocused hport hg hb haddr)
  · exact completes_of_done (body := mxzOp f) rfl h (mxzOp_done s.unfocused hport hg hb)
  · intro r d hshape
    exact completes_of_done (body := mxaOp f) rfl h (mxaOp_done s.unfocused hport hg hb hfmt hwait haccess hshape)
  · obtain ⟨hnone, hbad, hbusy, hset⟩ := mxcOp_done (f := f) s.unfocused hport h.wave?_unfocused h.crew?_unfocused
    have done {E : State} (hE : mxcOp f k s.unfocused = .done E) : Completes (.mxc f) s k E :=
      completes_of_done (body := mxcOp f) rfl h hE
    exact ⟨fun hp => done (hnone hp), fun hp hb => done (hbad hp hb), fun hp hb hm => done (hbusy hp hb hm),
      fun hp hb hm => done (hset hp hb hm)⟩
  · exact completes_of_done (body := mxwaitOp) rfl h (mxwaitOp_done s.unfocused hport hnone)

end Sys2Proof.Machine
end

section
/-! PROOFS. EXIT (R167, R178, R196): what a wave is once lanes of it have exited, and how the word ends. -/

namespace Sys2Proof.Machine

/-- A wave that issues has not retired. -/
theorem MayRun.not_retired {i : Instr} {s : State} {k : Ctx} (h : MayRun i s k) : k.wv.retired = false := by
  have hiss := h.issues
  simp only [Ctx.issues, Bool.and_eq_true, Bool.not_eq_true'] at hiss
  exact hiss.1.1

theorem MayRun.gang?_unfocused {i : Instr} {s : State} {k : Ctx} (h : MayRun i s k) :
    s.unfocused.gang? k.gid = some k.g := ctx_gang (s := s) h.ctx

/-! ### A wave that resumes -/

/-- A wave that enters an entry with lanes has lanes, and retires no more than before. -/
theorem Wave.enter_mask (x : Wave) {e : DEntry} (below : List DEntry) (he : e.mask ≠ 0) :
    (x.enter e below).mask ≠ 0 ∧ (x.enter e below).retired = x.retired := by
  rw [Wave.enter]
  cases e.kind with
  | path => exact ⟨he, rfl⟩
  | reconv => exact ⟨he, rfl⟩
  | callx =>
    by_cases hp : e.pend = 0
    · simp only [hp, beq_self_eq_true, if_true]
      exact ⟨he, rfl⟩
    · obtain ⟨m, t, hg⟩ := exists_leastGroup x e.reg hp
      simp only [beq_false_of_ne hp, Bool.false_eq_true, if_false, Wave.nextGroup_of_leastGroup below hg]
      exact ⟨hg.1, rfl⟩

/-- A wave that resumes from a stack with lanes has lanes, and retires no more than before. -/
theorem Wave.resumeGo_mask (x : Wave) {st : List DEntry} (h : ∃ e ∈ st, e.mask ≠ 0) :
    (x.resumeGo st).mask ≠ 0 ∧ (x.resumeGo st).retired = x.retired := by
  rcases dead_or_split st with hall | ⟨dead, e, below, rfl, hdead, he⟩
  · obtain ⟨e, he, hm⟩ := h
    exact absurd (hall e he) hm
  · rw [x.resumeGo_append below hdead he]
    exact Wave.enter_mask _ below he

/-! ### Lanes that exit (R178) -/

/-- The entry of the divergence stack without the lanes `a`. -/
def DEntry.without (a : Word) (e : DEntry) : DEntry := { e with mask := e.mask &&& ~~~a, pend := e.pend &&& ~~~a }

/-- The wave once the lanes `a` have left its path and every entry. -/
def Wave.without (a : Word) (x : Wave) : Wave :=
  { x with exited := x.exited ||| a, mask := x.mask &&& ~~~a, dstack := x.dstack.map (DEntry.without a) }

section
variable {x : Wave} {a : Word}

theorem Wave.exitLanes_of_left (h : x.mask &&& ~~~a ≠ 0) : x.exitLanes a = x.without a := by
  unfold Wave.exitLanes
  dsimp only
  rw [beq_false_of_ne h]
  rfl

theorem Wave.exitLanes_of_none (h : x.mask &&& ~~~a = 0) :
    x.exitLanes a = (x.without a).resumeGo (x.dstack.map (DEntry.without a)) := by
  unfold Wave.exitLanes
  dsimp only
  rw [h]
  exact congrArg (fun m => Wave.resumeGo { x with
    exited := x.exited ||| a, mask := m, dstack := x.dstack.map (DEntry.without a) } (x.dstack.map (DEntry.without a))) h.symm

theorem exitWave_of_stays (h : (x.exitLanes a).retired = false) : exitWave a x = x.exitLanes a := by
  unfold exitWave
  dsimp only
  rw [h]
  rfl

/-- The last lanes exit: the wave retires, or stays without a path where a restart holds lanes of it (R196, R369). -/
theorem exitWave_of_retires (hmask : x.mask &&& ~~~a = 0) (hdead : ∀ e ∈ x.dstack.map (DEntry.without a), e.mask = 0) :
    exitWave a x = if x.exited ||| a = 0xFFFFFFFF then x.retire
      else { x.retire with retired := false, exited := x.exited ||| a, mask := 0, qmaps := x.qmaps } := by
  have hlanes : x.exitLanes a = x.retire := by
    rw [Wave.exitLanes_of_none hmask, Wave.resumeGo_all_dead _ hdead]
    rfl
  unfold exitWave
  dsimp only
  rw [hlanes]
  by_cases hgone : x.exited ||| a = 0xFFFFFFFF
  · rw [if_pos hgone, hgone]
    rfl
  · rw [if_neg hgone, if_pos]
    rw [Bool.and_eq_true]
    exact ⟨rfl, bne_iff_ne.mpr hgone⟩

end

/-! ### How EXIT ends -/

section
variable {f : KF} {s : State} {k : Ctx}

/-- R406: the word answers, or waits while the ring has no room. -/
theorem answers_of_exitEnds {E : State} {retires : Bool} (h : MayRun (.exit f) s k)
    (hb : exitOp f k s.unfocused = exitEnds f k s.unfocused E retires) :
    Claims.answers (.exit f) k s (Claims.exited f k s.unfocused E retires) := by
  refine ⟨fun hbrk => issueCore_held (body := exitOp f) h (hb.trans ?_),
    fun hbrk => issueCore_wait (body := exitOp f) h (hb.trans ?_)⟩
  · exact if_neg (Bool.eq_false_iff.mp hbrk)
  · exact if_pos hbrk

theorem exitOp_threaded {u : State} (hvec : k.vec = false) {x : Wave} (hx : exitWave (k.on f k.w k.wv) k.wv = x) :
    exitOp f k u = if x.retired || x.mask == 0 then exitEnds f k u (u.setWave k.w x) x.retired
      else if k.wv.mask &&& ~~~(k.on f k.w k.wv) == 0 then go k u x else go k u { x with pc := x.pc + 8 } := by
  unfold exitOp
  rw [if_neg (by rw [hvec]; exact Bool.false_ne_true), ← hx]
  rfl

theorem exitOp_of_lanes {u : State} (hvec : k.vec = false) {x : Wave} (hx : exitWave (k.on f k.w k.wv) k.wv = x)
    (hret : x.retired = false) (hmask : x.mask ≠ 0) :
    exitOp f k u = if k.wv.mask &&& ~~~(k.on f k.w k.wv) = 0 then go k u x else go k u { x with pc := x.pc + 8 } := by
  rw [exitOp_threaded hvec hx, if_neg (by rw [hret, beq_false_of_ne hmask]; exact Bool.false_ne_true)]
  simp only [beq_iff_eq]

/-- With lanes of the path left, the others go on. -/
theorem exit_goes_on (h : MayRun (.exit f) s k) (hvec : k.vec = false) (hleft : k.wv.mask &&& ~~~(k.on f k.w k.wv) ≠ 0)
    (hnext : Claims.nextIn k) :
    Moves (.exit f) s k (s.unfocused.respill k.c k.w
      { k.wv.without (k.on f k.w k.wv) with pc := k.wv.pc + 8 }) := by
  have hlanes := Wave.exitLanes_of_left hleft
  have hstays : exitWave (k.on f k.w k.wv) k.wv = k.wv.without (k.on f k.w k.wv) :=
    (exitWave_of_stays (by rw [hlanes]; exact h.not_retired)).trans hlanes
  exact moves_of_go_or_retire (body := exitOp f) rfl h
    ((exitOp_of_lanes hvec hstays h.not_retired hleft).trans (if_neg hleft)) (.inr hnext.1)

/-- With no lane left anywhere, the wave ends its words. -/
theorem exit_ends (h : MayRun (.exit f) s k) (hvec : k.vec = false) (hall : k.on f k.w k.wv = k.wv.mask)
    {y : Wave} {retires : Bool}
    (hy : exitWave k.wv.mask k.wv = y) (hret : y.retired = retires) (hmask : y.mask = 0) :
    Claims.answers (.exit f) k s (Claims.exited f k s.unfocused (s.unfocused.setWave k.w y) retires) := by
  refine answers_of_exitEnds h ((exitOp_threaded hvec (hall ▸ hy)).trans ?_)
  rw [if_pos (by rw [hmask]; simp), hret]

/-- With no lane of the path left, the wave resumes from its stack. -/
theorem exit_resumes (h : MayRun (.exit f) s k) (hvec : k.vec = false) (hall : k.on f k.w k.wv = k.wv.mask)
    (hlive : ∃ e ∈ k.wv.dstack.map (DEntry.without k.wv.mask), e.mask ≠ 0) {y : Wave}
    (hy : (k.wv.without k.wv.mask).resumeGo (k.wv.dstack.map (DEntry.without k.wv.mask)) = y)
    (hin : k.inside y.pc.toNat = true) : Moves (.exit f) s k (s.unfocused.respill k.c k.w y) := by
  have hnone : k.wv.mask &&& ~~~k.wv.mask = 0 := BitVec.and_not_self k.wv.mask
  obtain ⟨hmask, hret⟩ := Wave.resumeGo_mask (k.wv.without k.wv.mask) hlive
  have hlanes := (Wave.exitLanes_of_none hnone).trans hy
  have hstays : exitWave k.wv.mask k.wv = y :=
    (exitWave_of_stays (by rw [hlanes, ← hy, hret]; exact h.not_retired)).trans hlanes
  rw [hy] at hmask hret
  exact moves_of_go_or_retire (body := exitOp f) rfl h ((exitOp_of_lanes hvec (hall ▸ hstays)
    (hret.trans h.not_retired) hmask).trans (if_pos (hall ▸ hnone))) (.inr hin)

/-- In vector form the wave exits with all its lanes. -/
theorem exitWave_whole {x : Wave} {a : Word} (h : x.exited ||| a = 0xFFFFFFFF) :
    exitWave a { x with mask := ~~~x.exited, dstack := [] } = x.retire := by
  have hmask : ~~~x.exited &&& ~~~a = 0 := by
    rw [← BitVec.not_or, h]
    decide
  rw [exitWave_of_retires (x := { x with mask := ~~~x.exited, dstack := [] }) hmask
    (fun e he => absurd he List.not_mem_nil), if_pos h]
  rfl

/-- In vector form every wave of the gang retires. -/
theorem exit_vector (h : MayRun (.exit f) s k) (hvec : k.vec = true)
    (hall : ∀ v x, v ∈ k.waves → s.wave? v = some x → x.exited ||| lanesOf (s.takes k.gid) v.wave = 0xFFFFFFFF) :
    ∃ E, OnWaves k s.unfocused E (fun _ x y => y = x.retire)
      ∧ Claims.answers (.exit f) k s (Claims.exited f k s.unfocused
          (E.setGang k.gid { k.g with serial := none, slots := false }) true) := by
  have hon := Ctx.each_onWaves k s.unfocused (fun w x =>
    exitWave (lanesOf (s.unfocused.takes k.gid) w.wave) { x with mask := ~~~x.exited, dstack := [] })
  have hgang : (k.each s.unfocused (fun w x => exitWave (lanesOf (s.unfocused.takes k.gid) w.wave)
      { x with mask := ~~~x.exited, dstack := [] })).gang? k.gid = some k.g := by
    rw [hon.1]
    exact h.gang?_unfocused
  refine ⟨_, ⟨hon.1, hon.2.1, fun v x hv hx => ?_⟩, answers_of_exitEnds h ?_⟩
  · obtain ⟨y, hy, rfl⟩ := hon.2.2 v x hv hx
    exact ⟨_, hy, exitWave_whole (hall v x hv hx)⟩
  · unfold exitOp exitAll
    rw [if_pos hvec]
    dsimp only
    rw [State.modGang_some _ hgang]

end

/-- Settles O30: lanes leave the path and every entry, and the wave goes on, resumes, or ends its words. -/
theorem exits : Obligations.Exits := by
  refine ⟨fun f s k h hvec a ha hleft hnext => ?_, fun f s k h hvec hall => ?_, fun f s k h hvec hall => exit_vector h hvec hall⟩
  · subst ha
    exact exit_goes_on h hvec hleft hnext
  · intro gone st
    refine ⟨fun hdead => ?_, fun y hlive hres hin => exit_resumes h hvec hall hlive ?_ hin⟩
    · have hret := exitWave_of_retires (BitVec.and_not_self k.wv.mask) hdead
      refine ⟨fun hgone => ?_, fun hgone => ?_⟩
      · rw [if_pos hgone] at hret
        exact exit_ends h hvec hall hret rfl rfl
      · rw [if_neg hgone] at hret
        exact exit_ends h hvec hall hret rfl rfl
    · rw [← resumeGo_of_resumes hres, show k.wv.without k.wv.mask = { k.wv with exited := gone, mask := 0, dstack := st } by
        rw [Wave.without, BitVec.and_not_self]
        rfl]
      rfl

end Sys2Proof.Machine
end

section
/-! PROOFS. Equivalence points (R56, R361, R365, R375, R381): what an arrival answers, and the decision of a gang that keeps
its form. -/

namespace Sys2Proof.Machine

/-! ### The context of a gang -/

/-- The context with another decision word. -/
def GCtx.decided (k : GCtx) (w : Dword) : GCtx := { k with g := { k.g with decision := w } }

section
variable {s : State} {i : GangId} {k : GCtx}

theorem gctx?_eq_some : gctx? s i = some k ↔ k.id = i ∧ s.gang? i = some k.g ∧ s.crew? i.crew = some k.c
    ∧ s.launch? i.crew.launch = some k.l ∧ k.l.kernel = some k.kn := by
  unfold gctx?
  constructor
  · intro h
    split at h
    case h_1 g c l hg hc hl =>
      obtain ⟨kn, hkn, rfl⟩ := Option.map_eq_some_iff.mp h
      exact ⟨rfl, hg, hc, hl, hkn⟩
    case h_2 => cases h
  · rintro ⟨rfl, hg, hc, hl, hkn⟩
    rw [hg, hc, hl]
    exact Option.map_eq_some_iff.mpr ⟨_, hkn, rfl⟩

theorem State.gang?_setGang_self (s : State) (i : GangId) (g : Gang) : (s.setGang i g).gang? i = some g := by
  rw [State.gang?, State.setGang, Tab.get?_set, if_pos rfl]

/-- The context of a gang that changes is the same but for the gang. -/
theorem gctx?_setGang (h : gctx? s i = some k) (g : Gang) : gctx? (s.setGang i g) i = some { k with g := g } := by
  obtain ⟨hid, -, hc, hl, hkn⟩ := gctx?_eq_some.mp h
  exact gctx?_eq_some.mpr ⟨hid, State.gang?_setGang_self s i g, hc, hl, hkn⟩

theorem State.takes_setGang (h : s.gang? i = some k.g) {g : Gang} (hpart : g.part = k.g.part) :
    (s.setGang i g).takes i = s.takes i := by
  rw [State.takes, State.takes, State.gang?_setGang_self, h]
  exact congrArg (s.live i &&& ·) hpart

/-- An acquire and a change of a gang do not meet. -/
theorem State.acquire_setGang (s : State) (i : GangId) (g : Gang) (cl scope : Nat) :
    (s.setGang i g).acquire cl scope = (s.acquire cl scope).setGang i g := by
  rw [State.acquire_eq (s.setGang i g) cl scope (b := (s.cluster cl).l1Past) rfl, State.acquire_eq s cl scope rfl]
  by_cases h : scope = 0 ∧ (s.cluster cl).l1Past = false
  · rw [if_pos h, if_pos h]
  · rw [if_neg h, if_neg h]
    rfl

theorem State.acquire_waves (s : State) (cl scope : Nat) : (s.acquire cl scope).waves = s.waves := by
  rw [State.acquire_eq s cl scope rfl]
  split <;> rfl

end

/-! ### The waves of a gang -/

/-- A change of each of these waves, from its own state. -/
theorem foldl_modWave_each (g : WaveId → Wave → Wave) {vs : List WaveId} (hn : vs.Nodup) (s : State) :
    let t := vs.foldl (fun s v => s.modWave v (g v)) s
    t = { s with waves := t.waves } ∧ ∀ v, t.wave? v = if v ∈ vs then (s.wave? v).map (g v) else s.wave? v := by
  induction vs generalizing s with
  | nil => exact ⟨rfl, fun v => rfl⟩
  | cons w vs ih =>
    obtain ⟨hw, hvs⟩ := List.nodup_cons.mp hn
    obtain ⟨hframe, hwave⟩ := ih hvs (s.modWave w (g w))
    refine ⟨with_waves_trans (modWave_eq s w (g w)) hframe, fun v => (hwave v).trans ?_⟩
    rw [State.wave?_modWave]
    by_cases hv : w = v
    · subst hv
      simp [hw]
    · simp [hv, Ne.symm hv]

/-- `State.eachWave` changes the waves of the gang, each from its own state, and nothing else. -/
theorem State.eachWave_onGang (s : State) (i : GangId) (g : WaveId → Wave → Wave) :
    OnGang i s (s.eachWave i g) (fun v x y => y = g v x) := by
  obtain ⟨hframe, hwave⟩ := foldl_modWave_each g i.waves_nodup s
  exact ⟨hframe, fun v hv => (hwave v).trans (if_neg hv),
    fun v x hv hx => ⟨_, (hwave v).trans ((if_pos hv).trans (by rw [hx]; rfl)), rfl⟩⟩

/-- R366: every wave goes on at the word after the point with its lanes. -/
theorem startThreaded_onGang (k : GCtx) (n : Nat) (m : BitVec 256) (t : State) :
    OnGang k.id t (startThreaded k n m false t) (fun w x y =>
      y = { x with pc := BitVec.ofNat 32 (k.kn.eqpOffT n + 8), stall := .ready, since := t.now, passed := 0,
                   bpDone := false, arrived := none, mask := lanesOf m w.wave, retired := x.exited == 0xFFFFFFFF }) :=
  State.eachWave_onGang t k.id _

/-! ### The decision of a gang that keeps its form (R375) -/

/-- A call of the gang is under way. -/
def State.deep (s : State) (i : GangId) : Bool :=
  i.waves.any (fun w => match s.wave? w with | some x => !x.rstack.isEmpty | none => false)

/-- The decision that keeps the form: reason 7 with a call under way, else 5. -/
def GCtx.kept (k : GCtx) (s : State) : Decided := ⟨k.g.form, if s.deep k.id then 7 else 5, 0⟩

section
variable {s : State} {k : GCtx} {n : Nat}

theorem decideForm_kept (hdbg : k.g.dbgForm = none) (hpin : s.deep k.id = true ∨ k.l.pin = true ∨ k.g.pinned = true) :
    decideForm s k n = (k.kept s, s) := by
  unfold decideForm GCtx.kept
  by_cases hdeep : s.deep k.id = true
  · rw [hdeep]
    exact if_pos hdeep
  · rw [Bool.eq_false_iff.mpr hdeep]
    refine (if_neg hdeep).trans ?_
    rw [hdbg]
    exact if_pos (by simpa [hdeep] using hpin)

/-- R384: the decision word as a number. -/
theorem Decided.word_kept (form : BitVec 2) {reason : Nat} (h : reason = 7 ∨ reason = 5) (n : Nat) :
    (⟨form, reason, 0⟩ : Decided).word form n
      = BitVec.ofNat 64 (reason * 2 ^ 16 + form.toNat * 2 ^ 14 + form.toNat * 2 ^ 12 + n % 2 ^ 12) := by
  apply BitVec.eq_of_toNat_eq
  have hform := form.isLt
  have hn : n % 2 ^ 12 < 2 ^ 12 := Nat.mod_lt _ (by decide)
  simp only [Decided.word, toNat_append_add, BitVec.ofNat_eq_ofNat, BitVec.toNat_ofNat, Nat.zero_mod]
  rcases h with rfl | rfl <;> omega

/-- R361, R375: the decision as taken, with the hand-over that follows. -/
theorem tryDecide_kept {i : GangId} (h : gctx? s i = some k) (hdue : k.g.due = some n) (hmay : s.mayDecide k = true)
    (hdbg : k.g.dbgForm = none) (hmov : k.g.moving = none)
    (hpin : s.deep k.id = true ∨ k.l.pin = true ∨ k.g.pinned = true) :
    s.tryDecide i = if k.kn.landsIn n k.g.form.toNat = false then k.raise s (k.record s 1 0 n .stops)
      else handOver (k.decided ((k.kept s).word k.g.form n)) n k.g.form.toNat
        (s.setGang i (k.decided ((k.kept s).word k.g.form n)).g) := by
  have hreason : ¬ (k.kept s).reason < 4 := by
    unfold GCtx.kept
    split <;> simp
  have hdst : (k.kept s).dst = k.g.form := rfl
  unfold State.tryDecide
  rw [h]
  dsimp only
  rw [hdue, hmov]
  dsimp only
  rw [if_neg (by rw [hmay]; decide), decideForm_kept hdbg hpin]
  generalize k.kept s = d at hreason hdst ⊢
  dsimp only
  rw [hdst]
  by_cases hlands : k.kn.landsIn n k.g.form.toNat = false
  · rw [if_pos hlands, if_pos (by rw [hlands]; rfl)]
  · rw [if_neg hlands, if_neg (by simpa using hlands), if_neg (by rw [decide_eq_false hreason]; exact Bool.false_ne_true),
      State.modGang_some _ (gctx?_eq_some.mp h).2.1, gctx?_setGang h]
    simp only [GCtx.decided, hdue, hmov]

/-! ### A threaded gang that keeps its form, its values in registers -/

section
variable (hform : k.g.form = 0) (hslots : k.g.slots = false)
include hform hslots

theorem handRegs_threaded : handRegs k n 0 = [] := by
  rw [handRegs, hform, hslots]
  rfl

theorem handEcc_threaded (m : BitVec 256) : handEcc k n 0 m s = none := by
  rw [handEcc, writesHeader, hform, hslots]
  simp

theorem moveValues_threaded (js : List Nat) : moveValues k n 0 js s = s := by
  rw [moveValues, hform, hslots]
  simp

/-- In registers, the values of a point are read without an access. -/
theorem pointVals_threaded (js : List Nat) : pointVals k n js s = ((pointVals k n js s).1, s) := by
  refine Prod.ext rfl ?_
  unfold pointVals
  simp only [hform, hslots]
  generalize (List.range (k.kn.entries n).length).zip (k.kn.entries n) = es
  refine List.foldlRecOn (motive := fun a : SMap Dword × State => a.2 = s) js _ rfl fun a ha j hj => ?_
  exact List.foldlRecOn (motive := fun a : SMap Dword × State => a.2 = s) es _ ha fun a ha e he => ha

/-- The values in registers follow from the waves alone. -/
theorem pointVals_congr {t : State} (hw : t.waves = s.waves) (js : List Nat) :
    (pointVals k n js t).1 = (pointVals k n js s).1 := by
  have hget (e : MapEntry) (j : Nat) : locGet t k (k.g.form == 1) e j j = locGet s k (k.g.form == 1) e j j := by
    simp only [locGet, State.wave?, hw]
  let R : SMap Dword × State → SMap Dword × State → Prop := fun a b => a.1 = b.1 ∧ a.2 = t ∧ b.2 = s
  suffices hR : R (pointVals k n js t) (pointVals k n js s) from hR.1
  unfold pointVals
  simp only [hform, hslots]
  refine List.foldl_rel ⟨rfl, rfl, rfl⟩ fun j hj a b hab => List.foldl_rel hab fun e he a b hab => ?_
  obtain ⟨hval, hat, hbs⟩ := hab
  have hg := hget e.2 j
  rw [hform] at hg
  refine ⟨?_, hat, hbs⟩
  simp only [hval, hat, hbs]
  exact congrArg (SMap.set b.1 0 (256 * e.1 + j)) hg


theorem pointVals_decided (w : Dword) (g : Gang) (js : List Nat) :
    (pointVals (k.decided w) n js (s.setGang k.id g)).1 = (pointVals k n js s).1 :=
  (pointVals_congr (k := k.decided w) (n := n) (s := s) (t := s.setGang k.id g) hform hslots rfl js).trans rfl

/-- R366: the gang goes on in its form with the values of the point kept. -/
theorem handGo_threaded (hg : s.gang? k.id = some k.g) (m : BitVec 256) :
    handGo k n 0 m s = startThreaded k n m false ((s.acquire k.c.cluster 0).setGang k.id { k.g with
      form := 0, intForm := 0, due := none, moving := none, slots := false, point := none
      atPoint := 0, serial := none, mapVals := (pointVals k n (itersOf m) s).1 }) := by
  have hedge : handEdge k 0 s = s.acquire k.c.cluster 0 := by
    rw [handEdge, hform]
    rfl
  have hga : (s.acquire k.c.cluster 0).gang? k.id = some k.g := by
    rw [State.acquire_eq s k.c.cluster 0 rfl]
    split <;> exact hg
  have hkeep : keepVals k n (itersOf m) (s.acquire k.c.cluster 0)
      = (s.acquire k.c.cluster 0).setGang k.id { k.g with mapVals := (pointVals k n (itersOf m) s).1 } := by
    rw [keepVals, pointVals_threaded hform hslots, State.modGang_some _ hga,
      pointVals_congr hform hslots (State.acquire_waves s k.c.cluster 0)]
  have hwrites : writesHeader k n 0 = false := by
    rw [writesHeader, hform]
    rfl
  unfold handGo
  rw [hedge, hkeep, hwrites]
  dsimp only
  rw [moveValues_threaded hform hslots, if_neg Bool.false_ne_true, State.modGang_some _ (State.gang?_setGang_self _ k.id _), State.setGang_setGang]
  unfold startForm
  rw [hform]
  rfl

/-- R361: with a call or a pin, a threaded gang whose values are in registers goes on behind EQP, once no access of its
spatial work is open. -/
theorem handOver_threaded (hg : s.gang? k.id = some k.g) (hc : s.crew? k.id.crew = some k.c)
    (hlands : k.kn.landsIn n 0 = true) :
    handOver k n 0 s = if k.c.openAccess k.kn k.id.gang then s.setGang k.id { k.g with moving := some 0 }
      else startThreaded k n (s.takes k.id) false ((s.acquire k.c.cluster 0).setGang k.id { k.g with
        form := 0, intForm := 0, due := none, moving := none, slots := false, point := none
        atPoint := 0, serial := none, mapVals := (pointVals k n (itersOf (s.takes k.id)) s).1 }) := by
  have hpends : s.gangPends k.id [] = false := by
    rw [State.gangPends, Bool.or_eq_false_iff]
    constructor
    · refine List.any_eq_false.mpr fun w hw => ?_
      cases s.wave? w with
      | none => exact Bool.false_ne_true
      | some x => simp
    · rw [hc]
      simp
  have howes : s.owesHand k (decide (k.g.form.toNat = 0)) = k.c.openAccess k.kn k.id.gang := by
    rw [State.owesHand, hform, hc]
    rfl
  unfold handOver
  rw [if_neg (by simp)]
  unfold handMove
  dsimp only
  rw [handRegs_threaded hform hslots, hpends, howes, Bool.false_or]
  by_cases hopen : k.c.openAccess k.kn k.id.gang = true
  · rw [if_pos hopen, if_pos hopen, State.modGang_some _ hg]
    rfl
  · rw [if_neg hopen, if_neg hopen, if_pos (by rw [hform]; decide), handTry, if_neg (by rw [hlands]; decide),
      handEcc_threaded hform hslots, handGo_threaded hform hslots hg]

end

end

/-- The decisions of a gang with a call under way, or pinned. -/
theorem pinnedDecisions : Claims.PinnedDecisions := by
  intro s i k n h hdue hmay hdbg deep hmov hpin d hd
  obtain ⟨hid, hg, hc, -, -⟩ := gctx?_eq_some.mp h
  subst hid
  have hkept : d = k.kept s := hd
  subst hkept
  have htry := tryDecide_kept h hdue hmay hdbg hmov hpin
  refine ⟨decideForm_kept hdbg hpin, Decided.word_kept k.g.form (by by_cases s.deep k.id <;> simp [*]) n, fun hlands => ?_,
    fun hform hslots hlands => ?_, fun t m => startThreaded_onGang k n m t⟩
  · rw [htry, if_pos hlands]
  · have hnot : ¬ k.kn.landsIn n k.g.form.toNat = false := by
      rw [hform]
      simpa using hlands
    have hform0 : k.g.form.toNat = 0 := by
      rw [hform]
      rfl
    have hword : (k.kept s).word 0 n = (k.kept s).word k.g.form n := by
      rw [hform]
    rw [if_neg hnot, hform0] at htry
    rw [hword, htry]
    generalize (k.kept s).word k.g.form n = w
    have hover := handOver_threaded (k := k.decided w) (n := n) hform hslots
      (State.gang?_setGang_self s k.id (k.decided w).g) hc hlands
    have htakes : (s.setGang k.id (k.decided w).g).takes k.id = s.takes k.id := State.takes_setGang hg rfl
    refine ⟨fun hopen => hover.trans ((if_pos hopen).trans (State.setGang_setGang s k.id _ _)),
      fun hopen => hover.trans ((if_neg (Bool.eq_false_iff.mp hopen)).trans ?_)⟩
    rw [show (k.decided w).id = k.id from rfl, htakes, pointVals_decided hform hslots, State.acquire_setGang,
      State.setGang_setGang]
    rfl

/-! ### Arrival (R359, R381) -/

section
variable {f : KF} {s : State} {k : Ctx} {gk : GCtx}

/-- R56, R406: how an arrival that leads to `t` ends. -/
def arrivalEnds (f : KF) (k : Ctx) (s t : State) : Prop :=
  (eqpFalls k (fld f.x 11 0) t = true → exec (.eqp f) s = .next (illegal k s.unfocused))
  ∧ (eqpFalls k (fld f.x 11 0) t = false → Claims.answers (.eqp f) k s t)

/-- Of no register nothing is awaited. -/
theorem recvPending_nil (k : Ctx) (s : State) : recvPending k s [] = false := by
  simp [recvPending]

theorem fopPending_nil (k : Ctx) : fopPending k [] = false := by
  simp [fopPending]

/-- An arrival that no fault and no register holds up. -/
theorem eqpOp_arrives {u : State} (harr : k.wv.arrived = none) (hknown : (k.kn.eqp? (fld f.x 11 0)).isSome = true)
    (hpath : k.vec = true ∨ k.wv.dstack = []) (hpoint : k.g.point = none ∨ k.g.point = some (fld f.x 11 0))
    (hfop : fopPending k (runRegs k (fld f.x 11 0)) = false) (hrecv : recvPending k u (runRegs k (fld f.x 11 0)) = false)
    (hgk : gctx? u k.gid = some gk) {t : State} (ht : arrive k gk (fld f.x 11 0) (countIssue (.eqp f) k u u) = t) :
    eqpOp f k u = if eqpFalls k (fld f.x 11 0) t then illegalRes k u
      else if breakWaits k u t then .wait .memory u else .held t := by
  subst ht
  have hnone : ¬ (k.kn.eqp? (fld f.x 11 0)).isNone = true := by simpa [Option.isSome_iff_ne_none] using hknown
  have hstack : ¬ (!k.vec && !k.wv.dstack.isEmpty) = true := by
    rcases hpath with h | h <;> simp [h]
  unfold eqpOp
  rw [harr]
  dsimp only
  rw [if_neg hnone, if_neg hstack, hfop, hrecv, hgk]
  rcases hpoint with h | h <;> rw [h] <;> simp

theorem arrivalEnds_of_eqpOp (h : MayRun (.eqp f) s k) {t : State}
    (hb : eqpOp f k s.unfocused = if eqpFalls k (fld f.x 11 0) t then illegalRes k s.unfocused
      else if breakWaits k s.unfocused t then .wait .memory s.unfocused else .held t) : arrivalEnds f k s t := by
  refine ⟨fun hfalls => issueCore_held (body := eqpOp f) h (hb.trans (if_pos hfalls)), fun hfalls => ?_⟩
  rw [if_neg (Bool.eq_false_iff.mp hfalls)] at hb
  exact ⟨fun hbrk => issueCore_held (body := eqpOp f) h (hb.trans (if_neg (Bool.eq_false_iff.mp hbrk))),
    fun hbrk => issueCore_wait (body := eqpOp f) h (hb.trans (if_pos hbrk))⟩

/-- Outside a SERIAL run an arrival waits for no register. -/
theorem runRegs_none {n : Nat} (hser : k.g.serial = none) : runRegs k n = [] := by
  rw [runRegs, hser]

/-- A wave at a point whose decision is due takes it. -/
theorem eqpOp_due {u : State} (harr : k.wv.arrived.isSome = true) (hdue : k.g.due.isSome = true) :
    eqpOp f k u = if ((u.tryDecide k.gid).gang? k.gid).any (fun g => g.due.isNone) then .held (u.tryDecide k.gid)
      else .wait .eqp (u.tryDecide k.gid) := by
  obtain ⟨m, hm⟩ := Option.isSome_iff_exists.mp harr
  unfold eqpOp
  rw [hm, hdue]
  simp only [if_true, Bool.and_true]

end

/-- Arrivals at a point. -/
theorem arrivals : Claims.Arrivals := by
  intro f s k gk h hgk n u v ends
  have hgk' : gctx? s.unfocused k.gid = some gk := hgk
  refine ⟨fun harr hknown hvec hser hst hpoint => ?_, fun harr hknown hvec hser hpoint => ?_,
    fun r harr hknown hvec hser hpoint hfop hrecv => ?_, fun harr hdue => ?_⟩
  · have hop (t : State) (ht : arrive k gk n u = t) : arrivalEnds f k s t :=
      arrivalEnds_of_eqpOp h (eqpOp_arrives harr hknown (.inr hst) hpoint (by rw [runRegs_none hser, fopPending_nil])
        (by rw [runRegs_none hser, recvPending_nil]) hgk' ht)
    have hv : arrive k gk n u = if v.allArrived k.gid then v.reach k.gid n else v := by
      rw [arrive, hvec]
      rfl
    exact ⟨fun hall => hop v (hv.trans (if_neg (Bool.eq_false_iff.mp hall))), fun hall => hop _ (hv.trans (if_pos hall))⟩
  · exact arrivalEnds_of_eqpOp h (eqpOp_arrives harr hknown (.inl hvec) hpoint (by rw [runRegs_none hser, fopPending_nil])
      (by rw [runRegs_none hser, recvPending_nil]) hgk' (by rw [arrive, hvec, hser]; rfl))
  · exact arrivalEnds_of_eqpOp h (eqpOp_arrives harr hknown (.inl hvec) hpoint hfop
      (show recvPending k s.unfocused (runRegs k n) = false from hrecv) hgk' (by rw [arrive, hvec, hser]; rfl))
  · intro t
    have hop := eqpOp_due (f := f) (u := s.unfocused) harr hdue
    by_cases hnone : (t.gang? k.gid).any (fun g => g.due.isNone) = true
    · rw [if_pos hnone]
      exact issueCore_held (body := eqpOp f) h (hop.trans (if_pos hnone))
    · rw [if_neg hnone]
      exact issueCore_wait (body := eqpOp f) h (hop.trans (if_neg hnone))

/-- Settles O31: an arrival waits, reaches the point or ends a run, and a decision under a pin or in a call keeps the form. -/
theorem pointArrivals : Obligations.PointArrivals := ⟨arrivals, pinnedDecisions⟩

end Sys2Proof.Machine
end

section
/-! PROOFS. The gang words (R382 to R385) and the words of class 10 that raise records (R426, R427). -/

namespace Sys2Proof.Machine

/-! ### Accesses of the device itself -/

/-- What an access of the device may leave changed: what translations and counting windows hold. -/
def DevFrame (s t : State) : Prop :=
  t = { s with mem := t.mem, tiles := t.tiles, clusters := t.clusters, free := t.free, windows := t.windows }

section
variable {s t u : State}

theorem DevFrame.refl (s : State) : DevFrame s s := rfl

theorem DevFrame.trans (h : DevFrame s t) (g : DevFrame t u) : DevFrame s u := Eq.trans g (by rw [h])

theorem FindFrame.dev (h : FindFrame s t) : DevFrame s t := h.eq.trans (by rw [h.eq])

theorem DevFrame.wave? (h : DevFrame s t) (w : WaveId) : t.wave? w = s.wave? w := by
  rw [h]
  rfl

theorem State.xlatTile_frame (s : State) (asid va : Nat) (u : Use) : FindFrame s (s.xlatTile asid va u).1 := by
  obtain ⟨hframe, -⟩ := s.tileLookup_frame asid va
  unfold State.xlatTile
  split
  next q c hq =>
    rw [hq] at hframe
    exact hframe
  next q t hq =>
    rw [hq] at hframe
    split
    · exact hframe
    · exact (hframe.trans (q.touch_frame t u).1).trans ⟨rfl, fun _ => rfl⟩

theorem State.countChannel_frame (s : State) (l : Loc) : DevFrame s (s.countChannel l) := by
  unfold State.countChannel
  split
  · have h := s.fresh.2.countWindows_eq (chWindow (s.fresh.1 % 256) 0) l
    generalize s.fresh.2.countWindows (chWindow (s.fresh.1 % 256) 0) l = u at h ⊢
    rw [DevFrame, h]
    rfl
  · exact DevFrame.refl s

theorem State.devAt_frame (s : State) (asid va n : Nat) (u : Use) : DevFrame s (s.devAt asid va n u).1 := by
  have hx := (s.xlatTile_frame asid va u).dev
  unfold State.devAt
  split
  · exact DevFrame.refl s
  · split
    next q c hq =>
      rw [hq] at hx
      exact hx
    next q t hq =>
      rw [hq] at hx
      dsimp only
      split
      · exact hx
      · split
        · exact hx
        · exact hx.trans (q.countChannel_frame _)

end

/-! ### GAITR (R384) -/

section
variable {f : KF} {k : Ctx} {s : State}

/-- A value that does not come from the gait table is written at once. -/
theorem gaitrOp_value {v : Nat} (hw : s.wave? k.w = some k.wv) (hecc : gaitEcc f k s = none)
    (hv : gaitrVal f k s = s.modWave k.w (fun x => x.wrS (KF.D f) (BitVec.ofNat 64 v))) :
    gaitrOp f k s = .done (s.setWave k.w (k.wv.wrS (KF.D f) (BitVec.ofNat 64 v))) := by
  rw [gaitrOp, hecc, ← State.modWave_some (fun x => x.wrS (KF.D f) (BitVec.ofNat 64 v)) hw, ← hv]

/-- The counters of the interval, its last cost and the last decision, by number. -/
theorem gaitrVal_counter {v : Nat}
    (hv : [k.g.issue, k.g.laneop, k.g.memtx, k.g.fire, k.g.hop, k.g.cost.toNat, k.g.decision.toNat][fld f.c 3 0]? = some v) :
    gaitrVal f k s = s.modWave k.w (fun x => x.wrS (KF.D f) (BitVec.ofNat 64 v)) := by
  unfold gaitrVal
  generalize fld f.c 3 0 = n at hv
  match n with
  | 0 | 1 | 2 | 3 | 4 | 5 | 6 =>
    cases hv
    rfl
  | _ + 7 => cases hv

/-- From number 7 on the gait table is read. -/
theorem gaitrVal_table (htab : 7 ≤ fld f.c 3 0) :
    gaitrVal f k s = (gaitTab f k s).2.modWave k.w (fun x => x.wrS (KF.D f) (BitVec.ofNat 64 (gaitTab f k s).1)) := by
  obtain ⟨n, hn⟩ := Nat.exists_eq_add_of_le' htab
  unfold gaitrVal
  rw [hn]
  rfl

theorem gaitrOp_entry {t : State} {l : Loc} (hw : s.wave? k.w = some k.wv) (htab : 7 ≤ fld f.c 3 0)
    (hb : (opS f k.wv).toNat ≤ 4095)
    (hat : s.devAt k.asid (k.l.gaitVa (opS f k.wv).toNat (fld f.c 5 4)) 4 useLoad = (t, .ok l)) :
    gaitrOp f k s = .done (t.setWave k.w (k.wv.wrS (KF.D f) (BitVec.ofNat 64 (leNat (t.homeRead l 4))))) := by
  have hecc : gaitEcc f k s = none := by
    simp only [gaitEcc, State.devEcc, hat, Bool.and_false, Bool.false_eq_true, if_false]
  have hread : gaitTab f k s = (leNat (t.homeRead l 4), t) := by
    simp only [gaitTab, if_neg (Nat.not_lt.mpr hb), State.devRead, hat]
  have hframe := s.devAt_frame k.asid (k.l.gaitVa (opS f k.wv).toNat (fld f.c 5 4)) 4 useLoad
  rw [hat] at hframe
  rw [gaitrOp, hecc, gaitrVal_table htab, hread, State.modWave_some _ ((hframe.wave? k.w).trans hw)]

end

/-- Settles O32: each word writes its field of the gang, and GAITR its value. -/
theorem gangWords : Obligations.GangWords := by
  have done {i : Instr} {s E : State} {k : Ctx} {g : Gang → Gang} (h : MayRun i s k)
      (he : exec i s = issueCore i s (fun k s => .done (s.modGang k.gid g)))
      (hE : s.unfocused.setGang k.gid (g k.g) = E) : Completes i s k E :=
    completes_of_done he h (by rw [State.modGang_some _ h.gang?_unfocused, hE])
  refine ⟨fun f s k h => done h rfl rfl, fun f s k h => done h rfl rfl, fun f s k h => done h rfl rfl,
    fun f s k h => done h rfl rfl, fun f s k h => ?_⟩
  intro put b
  have gives {E : State} (hop : gaitrOp f k s.unfocused = .done E) : Completes (.gaitr f) s k E :=
    completes_of_done (body := gaitrOp f) rfl h hop
  refine ⟨fun v hv => gives ?_, fun htab hb => gives ?_, fun t l htab hb hat => ?_⟩
  · have hlt : fld f.c 3 0 < 7 := (List.getElem?_eq_some_iff.mp hv).1
    exact gaitrOp_value h.wave?_unfocused (by rw [gaitEcc, decide_eq_false (by omega)]; rfl) (gaitrVal_counter hv)
  · have hread : gaitTab f k s.unfocused = (0, s.unfocused) := if_pos hb
    exact gaitrOp_value h.wave?_unfocused (by rw [gaitEcc, decide_eq_false (Nat.not_le.mpr hb)]; simp)
      ((gaitrVal_table htab).trans (by rw [hread]))
  · have hw := s.unfocused.devAt_frame k.asid (k.l.gaitVa b (fld f.c 5 4)) 4 useLoad
    exact gives (gaitrOp_entry h.wave?_unfocused htab hb hat)

/-! ### TRAP and BRK -/

theorem Ctx.report_status_terms (k : Ctx) (kind cause : Nat) (status : RStatus) (e : Nat) :
    (k.report kind cause status e .terms).status = status := by
  unfold Ctx.report
  dsimp only
  split
  · split <;> rfl
  · rfl

/-- Settles O33: with room in the ring TRAP and BRK raise their records, and wait without. -/
theorem trapWords : Obligations.TrapWords := by
  refine ⟨fun f s k h hroom => ?_, fun f s k h hroom => ?_, fun f s k hroom => ?_⟩
  · have hroom' : k.ringRoom s.unfocused = true := hroom
    intro r
    refine ⟨fun hc => completes_of_done (body := trapOp f) rfl h ?_, fun hc => issueCore_held (body := trapOp f) h ?_⟩
    · unfold trapOp
      rw [hroom', hc]
      rfl
    · unfold trapOp
      rw [hroom', hc]
      change Res.held (faultAt k (r .stops) s.unfocused) = _
      have hst : (r .stops).status = .stops := k.report_status_terms 15 0 .stops (k.first s)
      rw [faultAt_stops k s.unfocused hst, State.raiseStops_of_room k.w (r .stops) hroom']
  · have hroom' : k.ringRoom s.unfocused = true := hroom
    intro q
    refine completes_of_done (body := brkOp f) rfl h ?_
    unfold brkOp
    rw [hroom']
    rfl
  · have hroom' : k.ringRoom s.unfocused = false := hroom
    refine ⟨fun h => issueCore_wait (r := .memory) (t := s.unfocused) (body := trapOp f) h ?_, fun h => issueCore_wait (r := .memory) (t := s.unfocused) (body := brkOp f) h ?_⟩
    · unfold trapOp
      rw [hroom']
      rfl
    · unfold brkOp
      rw [hroom']
      rfl

end Sys2Proof.Machine
end

section
/-! PROOFS. The control registers, the cycle counters (R110, R424, R428, R429), and LAUNCH, WAITEV and SIGEV (R194, R195). -/

namespace Sys2Proof.Machine

/-! ### FCSR (R110) -/

section
variable (old : Word)

theorem fld_flags (x : Word) : fld x 4 0 = x.toNat % 32 :=
  (fld_eq_div_mod x 4 0).trans (congrArg (· % 32) (Nat.div_one _))

theorem fld_rm (x : Word) : fld x 7 5 = x.toNat / 32 % 8 := fld_eq_div_mod x 7 5

/-- A rounding mode of 5 to 7 is not written; the flags stay. -/
theorem putRm_fields (rm : Nat) : fld (putRm old rm) 4 0 = fld old 4 0
    ∧ fld (putRm old rm) 7 5 = if rm < 5 then rm else fld old 7 5 := by
  unfold putRm
  split
  next h =>
    rw [fld_flags, fld_rm, fld_flags, BitVec.toNat_ofNat]
    omega
  next => exact ⟨rfl, rfl⟩

/-- The flags are written; the rounding mode stays. -/
theorem putFlags_fields (fl : Nat) : fld (putFlags old fl) 4 0 = fl % 32 ∧ fld (putFlags old fl) 7 5 = fld old 7 5 := by
  have hrm : fld old 7 5 < 8 := by
    rw [fld_rm]
    omega
  rw [putFlags, fld_flags, fld_rm (BitVec.ofNat 32 _), BitVec.toNat_ofNat]
  omega

/-- R428: what a write makes of FCSR: the flags, the rounding mode, or both. -/
theorem ctlWrite_fields (op : Nat) (b : Word) :
    (fld (ctlWrite 0 op b old) 4 0 = fld (ctlNew op old b) 4 0 ∧ fld (ctlWrite 0 op b old) 7 5
      = if fld (ctlNew op old b) 7 5 < 5 then fld (ctlNew op old b) 7 5 else fld old 7 5)
    ∧ (fld (ctlWrite 1 op b old) 4 0 = fld (ctlNew op (old &&& 31) b) 4 0 ∧ fld (ctlWrite 1 op b old) 7 5 = fld old 7 5)
    ∧ (fld (ctlWrite 2 op b old) 4 0 = fld old 4 0 ∧ fld (ctlWrite 2 op b old) 7 5
      = if fld (ctlNew op (BitVec.ofNat 32 (fld old 7 5)) b) 2 0 < 5 then fld (ctlNew op (BitVec.ofNat 32 (fld old 7 5)) b) 2 0
        else fld old 7 5) := by
  refine ⟨?_, ?_, putRm_fields old _⟩
  · obtain ⟨hflags, hrm⟩ := putRm_fields (putFlags old (ctlNew op old b).toNat) (fld (ctlNew op old b) 7 5)
    obtain ⟨hput, hkept⟩ := putFlags_fields old (ctlNew op old b).toNat
    exact ⟨hflags.trans (hput.trans (fld_flags _).symm), hrm.trans (by rw [hkept])⟩
  · obtain ⟨hput, hkept⟩ := putFlags_fields old (ctlNew op (old &&& 31) b).toNat
    exact ⟨hput.trans (fld_flags _).symm, hkept⟩

end

/-- A bit of the OR over waves is that of one of them. -/
theorem getLsbD_foldl_or (qs : List (WaveId × Wave)) (a : Word) (i : Nat) :
    (qs.foldl (fun (a : Word) q => a ||| q.2.fcsr) a).getLsbD i = (a.getLsbD i || qs.any (fun q => q.2.fcsr.getLsbD i)) := by
  induction qs generalizing a with
  | nil => simp
  | cons q qs ih => rw [List.foldl_cons, ih, BitVec.getLsbD_or, List.any_cons, Bool.or_assoc]

/-- R110: a flag that is read is set in a wave of the form. -/
theorem readFlags_testBit (k : Ctx) (s : State) (i : Nat) : (readFlags k s).testBit i
    = (decide (i < 5) && k.waves.any (fun v => ((s.wave? v).map (fun x => x.fcsr.getLsbD i)).getD false)) := by
  have hany : (k.states s).any (fun q => q.2.fcsr.getLsbD i)
      = k.waves.any (fun v => ((s.wave? v).map (fun x => x.fcsr.getLsbD i)).getD false) := by
    rw [Ctx.states, List.any_filterMap]
    refine List.any_congr rfl fun v => ?_
    cases s.wave? v <;> rfl
  refine (Nat.testBit_mod_two_pow _ 5 i).trans ?_
  rw [← hany]
  congr 1
  exact (getLsbD_foldl_or (k.states s) 0 i).trans (by simp)

/-- FCSR is its rounding mode and its flags. -/
theorem ctlVal_fcsr (k : Ctx) (s : State) : ctlVal 0 k s = 32 * ctlVal 2 k s + ctlVal 1 k s :=
  congrArg (· + readFlags k s) (Nat.mul_comm (readRm k) 32)

/-- The control registers. -/
theorem controlAccesses : Claims.ControlAccesses := by
  refine ⟨fun f s k h => ?_, fun s k => ⟨readFlags_testBit k s, rfl, ctlVal_fcsr k s, rfl, rfl, rfl, rfl⟩,
    fun f s k h => ?_, fun op b old => ?_⟩
  · exact completes_of_done rfl h (by rw [State.modWave_some _ h.wave?_unfocused]; rfl)
  · exact ⟨_, completes_of_done rfl h rfl, Ctx.each_onWaves k s.unfocused _⟩
  · exact ctlWrite_fields old op b

/-! ### The cycle counters (R268, R429) -/

/-- Time passes by less than 2^32 cycles, from a free value. -/
def State.elapsed (s : State) : Nat := Config.freeNat s.free % 2 ^ 32

theorem State.elapsed_lt (s : State) : s.elapsed < 2 ^ 32 := Nat.mod_lt _ (Nat.two_pow_pos 32)

theorem cycRowOp_unnamed {f : KF} {k : Ctx} {s : State} (hw : s.wave? k.w = some k.wv)
    (hp : k.c.named? (opS f k.wv) = none) :
    cycRowOp f k s = s.setWave k.w (k.wv.wrS (KF.D f) (BitVec.allOnes 64)) := by
  rw [cycRowOp, hp]
  exact State.modWave_some _ hw

theorem cycOp_eq {f : KF} {k : Ctx} {s : State} (hw : s.wave? k.w = some k.wv) :
    cycOp f k s = (({ s with free := s.free + 1 } : State).setCluster k.cluster
      { s.cluster k.cluster with cycles := (s.cluster k.cluster).cycles + BitVec.ofNat 64 s.elapsed }).setWave k.w
        (k.wv.wrS (KF.D f) ((s.cluster k.cluster).cycles + BitVec.ofNat 64 s.elapsed)) := by
  unfold cycOp
  rw [State.modWave_some (x := k.wv)]
  · rfl
  · exact hw

/-- The count of a row that has received `d` edges more. -/
theorem cycRowOp_named {f : KF} {k : Ctx} {s t : State} {p : Place} {d : Nat} (hw : t.wave? k.w = some k.wv)
    (hc : t.clusters = s.clusters) (hp : k.c.named? (opS f k.wv) = some p)
    (htick : (if SMap.get (s.cluster p.slice).rowsOn false (4 * p.bay + fld f.c 1 0) then s.tick else (0, s))
      = (BitVec.ofNat 64 d, t)) :
    cycRowOp f k s = (t.setCluster p.slice { s.cluster p.slice with
      rows := SMap.set (s.cluster p.slice).rows 0 (4 * p.bay + fld f.c 1 0)
        (SMap.get (s.cluster p.slice).rows 0 (4 * p.bay + fld f.c 1 0) + BitVec.ofNat 64 d)
      rowsOn := SMap.set (s.cluster p.slice).rowsOn false (4 * p.bay + fld f.c 1 0) (s.bayRuns p.slice p.bay) }).setWave k.w
        (k.wv.wrS (KF.D f) (SMap.get (s.cluster p.slice).rows 0 (4 * p.bay + fld f.c 1 0) + BitVec.ofNat 64 d)) := by
  have hcl : t.cluster p.slice = s.cluster p.slice := by
    rw [State.cluster, hc]
    rfl
  rw [cycRowOp, hp]
  dsimp only
  rw [htick, State.modWave_some (x := k.wv)]
  · rw [State.modCluster, hcl]
  · exact hw

/-- CYC and CYC.ROW. -/
theorem cycleWords : Claims.CycleWords := by
  refine ⟨fun f s k h => ⟨s.elapsed, s.elapsed_lt, ?_⟩, fun f s k h => ⟨fun hp => ?_, fun p hp => ?_⟩⟩
  · intro n
    exact completes_of_done rfl h (congrArg Res.done (cycOp_eq h.wave?_unfocused))
  · exact completes_of_done rfl h (congrArg Res.done (cycRowOp_unnamed h.wave?_unfocused hp))
  · intro row on
    by_cases hon : on = true
    · refine ⟨s.elapsed, s.elapsed_lt, fun hoff => absurd (hon.symm.trans hoff) (by decide), ?_⟩
      rw [if_pos hon]
      exact completes_of_done rfl h (congrArg Res.done (cycRowOp_named (t := { s.unfocused with free := s.free + 1 })
        h.wave?_unfocused rfl hp (if_pos hon)))
    · refine ⟨0, by decide, fun _ => rfl, ?_⟩
      rw [if_neg hon]
      exact completes_of_done rfl h (congrArg Res.done (cycRowOp_named (t := s.unfocused) h.wave?_unfocused rfl hp (if_neg hon)))

/-- Settles O34: reads and writes of the control registers, and the cycle counters. -/
theorem controlWords : Obligations.ControlWords := ⟨controlAccesses, cycleWords⟩

/-! ### LAUNCH, WAITEV and SIGEV -/

/-- R194: the tests of an attempt to enqueue, in their order. -/
theorem enqStatus_cases (s : State) (a q : Nat) (d : List Dword) :
    let mine := q < 64 ∧ (SMap.get s.lqOwner 0 q).toNat = a ∧ s.jobOff a = false
    (¬mine → s.enqStatus a q d = 3) ∧ (mine → badRec a d = true → s.enqStatus a q d = 2)
    ∧ (mine → badRec a d = false → 256 ≤ s.queued q → s.enqStatus a q d = 1)
    ∧ (mine → badRec a d = false → s.queued q < 256 → s.enqStatus a q d = 0) := by
  intro mine
  have hdenied : (decide (63 < q) || (SMap.get s.lqOwner 0 q).toNat != a || s.jobOff a) = true ↔ ¬ mine := by
    have hq : 63 < q ↔ ¬ q < 64 := by omega
    simp only [mine, Bool.or_eq_true, decide_eq_true_eq, bne_iff_ne, ne_eq, not_and_or, Bool.not_eq_false, or_assoc, hq]
  unfold State.enqStatus
  refine ⟨fun h => if_pos (hdenied.mpr h), fun h hbad => ?_, fun h hbad hfull => ?_, fun h hbad hroom => ?_⟩ <;>
    rw [if_neg (fun hd => hdenied.mp hd h), hbad]
  · rfl
  · rw [if_neg Bool.false_ne_true, if_pos hfull]
  · rw [if_neg Bool.false_ne_true, if_neg (Nat.not_le.mpr hroom)]

/-- R195: events are signalled at DEVICE or DOMAIN scope, each of which empties L1 on an acquire. -/
theorem acquire_evScope (f : KF) (s : State) (cl : Nat) : s.acquire cl (evScope f) = s.dropL1 cl := by
  rw [State.acquire, evScope]
  split <;> rfl

theorem wrap_add (a b : Nat) : wrap 64 ((a : Int) + (b : Int)) = (a + b) % 2 ^ 64 := by
  rw [wrap]
  omega

/-- Settles O35: LAUNCH gives its status, WAITEV goes on at its count and SIGEV adds to the counter. -/
theorem launchAndEvents : Obligations.LaunchAndEvents := by
  refine ⟨fun f s s1 k p h hfree hacc => ?_, enqStatus_cases, fun f s s1 k p h hacc => ?_, fun f s s1 k p h hfree => ?_⟩
  · have hfree' : s.unfocused.releaseWaits k.cluster k.w 1 = false := hfree
    intro r d q st u
    refine completes_of_done (body := launchOp f) rfl h ?_
    unfold launchOp
    rw [hfree', hacc]
    rfl
  · intro r hreached
    refine completes_of_done (body := waitevOp f) rfl h ?_
    unfold waitevOp
    rw [hacc]
    dsimp only
    rw [if_pos hreached, acquire_evScope]
  · have hfree' : s.unfocused.releaseWaits k.cluster k.w (evScope f) = false := hfree
    intro a hacc r
    have hacc' : wordAccess k (k.wv.rdS (KF.A f)).toNat 8 useStore .past s.unfocused = (s1, .ok p) := hacc
    refine completes_of_done (body := sigevOp f) rfl h ?_
    unfold sigevOp
    rw [hfree']
    dsimp only
    rw [hacc']
    simp only [wrap_add]
    rfl

end Sys2Proof.Machine
end

section
/-! PROOFS. How a node fires (R288, R289, R406), and the nodes of values (R302 to R304, R308). -/

namespace Sys2Proof.Machine

/-! ### Firing -/

section
variable {s : State} {k : NCtx} {i : Instr} {body : NCtx → State → NRes}

theorem fireNode_run (h : MayFire s k) : fireNode s body = .next ((body k s.unfocused).ends k s.unfocused) := by
  have hctx : nctx? s.unfocused ⟨k.c, k.i, k.rd⟩ = some k := h.ctx
  have hending : ¬ k.fr.ending = true := by
    rw [h.going]
    exact Bool.false_ne_true
  unfold fireNode
  rw [h.focus]
  dsimp only
  rw [show nctx? { s with focus := .none } ⟨k.c, k.i, k.rd⟩ = some k from hctx]
  dsimp only
  rw [if_neg hending]
  rfl

/-- A node fires with an effect that puts no record behind a full ring. -/
theorem fires_of_fire {t : State} (he : exec i s = fireNode s body) (h : MayFire s k)
    (hb : body k s.unfocused = .fire t) (hfit : Claims.fitsRing s k t) : Fires i s k t := by
  rw [Fires, he, fireNode_run h, hb]
  exact congrArg _ (if_neg (Nat.not_lt.mpr hfit))

/-- An effect that leaves the job's records alone fits the ring. -/
theorem fitsRing_of_asids {t : State} (h : t.asids = s.unfocused.asids) : Claims.fitsRing s k t := by
  rw [Claims.fitsRing, ringFits, State.asid, h]
  exact Nat.le_refl _

theorem Claims.fitsRing.of_asids {t u : State} (h : Claims.fitsRing s k t) (hu : u.asids = t.asids) :
    Claims.fitsRing s k u := by
  rw [Claims.fitsRing, ringFits, State.asid, hu]
  exact h

end

/-! ### The tokens of a firing (R288) -/

/-- One change of a crew after another. -/
theorem State.modCrew_comp (s : State) (c : CrewId) (f g : Crew → Crew) :
    (s.modCrew c f).modCrew c g = s.modCrew c (fun x => g (f x)) := by
  cases h : s.crew? c with
  | none => simp only [State.modCrew, h]
  | some x => rw [State.modCrew_modCrew f g h, State.modCrew_some _ h]

section
variable (k : NCtx) (s : State)

@[simp] theorem NCtx.after_asids (fs : List Flit) : (k.after s fs).asids = s.asids := by
  unfold NCtx.after
  split
  · rfl
  · exact State.modCrew_asids s k.c _

theorem NCtx.send_eq (t : Option Tgt) (v : Dword) (err : Bool) : k.send t v err s = k.after s (k.tokens [t] v err) := by
  cases t <;> rfl

/-- T0 before T1. -/
theorem NCtx.both_eq (t0 t1 : Option Tgt) (v : Dword) (err : Bool) :
    k.both t0 t1 v err s = k.after s (k.tokens [t0, t1] v err) := by
  cases t0 with
  | none => cases t1 <;> rfl
  | some a =>
    cases t1 with
    | none => rfl
    | some b =>
      refine (State.modCrew_comp s k.c _ _).trans ?_
      simp only [List.append_assoc]
      rfl

theorem NCtx.pass_value {t0 t1 : Option Tgt} (body : State → NRes) (h : k.err = none) : k.pass t0 t1 s body = body s := by
  rw [NCtx.pass, h]

theorem NCtx.pass_error {t0 t1 : Option Tgt} (body : State → NRes) {e : Dword} (h : k.err = some e) :
    k.pass t0 t1 s body = .fire (k.after s (k.tokens [t0, t1] e true)) := by
  rw [NCtx.pass, h]
  exact congrArg NRes.fire (k.both_eq s t0 t1 e true)

end

/-! ### Nodes that send a value on -/

section
variable {s : State} {k : NCtx} {i : Instr} {body : NCtx → State → NRes}

/-- A node whose effect is tokens alone. -/
theorem fires_tokens {fs : List Flit} (he : exec i s = fireNode s body) (h : MayFire s k)
    (hb : body k s.unfocused = .fire (k.after s.unfocused fs)) : Fires i s k (k.after s.unfocused fs) :=
  fires_of_fire he h hb (fitsRing_of_asids (k.after_asids _ _))

/-- R289: an error operand goes on to both targets. -/
theorem fires_error {t0 t1 : Option Tgt} {f : NCtx → State → NRes} (he : exec i s = fireNode s (fun k s => k.pass t0 t1 s (f k)))
    (h : MayFire s k) {e : Dword} (hk : k.err = some e) : Fires i s k (k.after s.unfocused (k.tokens [t0, t1] e true)) :=
  fires_tokens he h (k.pass_error s.unfocused (f k) hk)

end

theorem constVal_eq (n : NDF) : constVal n
    = if n.w = 0 then n.imm.signExtend 64 else if n.w = 1 then n.imm.setWidth 64 <<< 8 else n.imm.setWidth 64 <<< 40 := by
  have hnat (c : Nat) (hc : c < 64) : n.w = BitVec.ofNat 6 c ↔ n.w.toNat = c := by
    rw [← BitVec.toNat_inj, BitVec.toNat_ofNat, Nat.mod_eq_of_lt (by omega)]
  have h0 : n.w = 0 ↔ n.w.toNat = 0 := hnat 0 (by decide)
  have h1 : n.w = 1 ↔ n.w.toNat = 1 := hnat 1 (by decide)
  unfold constVal
  split
  next h => rw [if_pos (h0.mpr h)]
  next h => rw [if_neg (fun hw => absurd ((h0.mp hw).symm.trans h) (by decide)), if_pos (h1.mpr h)]
  next hn0 hn1 => rw [if_neg (fun hw => hn0 (h0.mp hw)), if_neg (fun hw => hn1 (h1.mp hw))]

theorem plainNode_unfocused {i : Instr} {n : NDF} {g : NCtx → State → Dword} (h : Claims.plainNode i = some (n, g))
    (k : NCtx) (s : State) : g k s.unfocused = g k s := by
  cases i with
  | gate | joinc | ixrd | const =>
    cases h
    rfl
  | _ => cases h

theorem exec_plainNode {i : Instr} {n : NDF} {g : NCtx → State → Dword} (h : Claims.plainNode i = some (n, g)) (s : State) :
    exec i s = fireNode s (plainOp n g) := by
  cases i with
  | gate | joinc | ixrd =>
    cases h
    rfl
  | const =>
    cases h
    exact congrArg (fun v => fireNode s (plainOp _ v)) (funext fun _ => funext fun _ => constVal_eq _)
  | _ => cases h

/-! ### Nodes of classes 0 to 2 (R110, R135, R308) -/

section
variable (s : State)

@[simp] theorem State.modRound_asids (c : CrewId) (id : Nat) (f : Round → Round) : (s.modRound c id f).asids = s.asids :=
  State.modCrew_asids s c _

@[simp] theorem State.modSaved_asids (w : WaveId) (fl : BitVec 5) (f : Wave → Wave) :
    (s.modSaved w fl f).asids = s.asids := by
  unfold State.modSaved
  split
  · split
    · exact State.modWave_asids s w f
    · exact State.modWave_asids s w f
  · exact State.modWave_asids s w f

@[simp] theorem State.roundFlags_asids (c : CrewId) (x : Crew) (round kj : Nat) (fl : Fl) :
    (s.roundFlags c x round kj fl).asids = s.asids := by
  unfold State.roundFlags
  split
  · split
    · exact State.modSaved_asids s _ _ _
    · exact State.modRound_asids s _ _ _
  · exact State.modSaved_asids s _ _ _

@[simp] theorem NCtx.note_asids (k : NCtx) (code : Nat) : (k.note code s).asids = s.asids := State.modRound_asids s _ _ _

end

/-- R308: the class 0 node operations compute the functions of the core words of the same numbers. -/
theorem nodeInt_of_nodeOps (m : Nat) {p : Nat × (Nat → Nat → Nat → Nat → Nat)} (hp : p ∈ Claims.nodeOps) :
    nodeInt p.1 m = p.2 ∧ p.1 ≠ 0x20 ∧ p.1 ≠ 0x22 := by
  revert p
  simp [Claims.nodeOps, nodeInt]

/-- A node of class 0 that is neither LEA nor CMP works on each part alone. -/
theorem nafInt_parts {n : NAF} (a b : Nat) (hlea : n.op.toNat ≠ 0x20) (hcmp : n.op.toNat ≠ 0x22) :
    nafInt n a b = perPart n.ty (nodeInt n.op.toNat (fld n.mod 26 20)) a b 0 := by
  unfold nafInt
  dsimp only
  split
  · exact absurd ‹_› hlea
  · exact absurd ‹_› hcmp
  · rfl

/-- Settles O36: a value goes to the targets, and an error operand to both. -/
theorem nodeValues : Obligations.NodeValues := by
  refine ⟨fun i n g hi s k h => ⟨fun hk => ?_, fun e hk => ?_⟩, fun n s k h => ⟨fun hk => ?_, fun e hk => ?_, ?_⟩,
    fun n s k h => ?_, fun n a b p hp hop => ?_⟩
  · rw [← plainNode_unfocused hi]
    exact fires_tokens (exec_plainNode hi s) h
      ((k.pass_value s.unfocused _ hk).trans (congrArg NRes.fire (k.both_eq s.unfocused n.t0 n.t1 _ false)))
  · exact fires_error (exec_plainNode hi s) h hk
  · refine fires_tokens (body := steerOp n) rfl h ((k.pass_value s.unfocused _ hk).trans (congrArg NRes.fire ?_))
    rw [NCtx.send_eq]
    simp only [bne_iff_ne]
  · exact fires_error rfl h hk
  · refine fires_tokens (body := errtOp n) rfl h (congrArg NRes.fire ?_)
    rw [NCtx.send_eq, NCtx.send_eq]
    split <;> rfl
  · intro node
    refine ⟨fun r hk hv => ?_, fun e hk hv => ?_, fun e hk => fires_error (f := fun k s => _) rfl h hk⟩
    · refine fires_of_fire (body := nafOp n) rfl h ((k.pass_value s.unfocused _ hk).trans ?_)
        (fitsRing_of_asids (by simp))
      rw [hv]
      exact congrArg NRes.fire (k.both_eq _ n.t0 n.t1 _ false)
    · refine fires_of_fire (body := nafOp n) rfl h ((k.pass_value s.unfocused _ hk).trans ?_)
        (fitsRing_of_asids (by simp))
      rw [hv]
      exact congrArg NRes.fire (k.both_eq _ n.t0 n.t1 _ true)
  · obtain ⟨hfun, hlea, hcmp⟩ := nodeInt_of_nodeOps (fld n.mod 26 20) hp
    rw [nafInt_parts a b (hop ▸ hlea) (hop ▸ hcmp), hop, hfun]

end Sys2Proof.Machine
end

section
/-! PROOFS. The nodes of loops, calls and rounds (R71, R289, R291, R295 to R297, R305 to R307). -/

namespace Sys2Proof.Machine

/-! ### What changes no record (R406) -/

section
variable (s : State)

@[simp] theorem State.modRegion_asids (c : CrewId) (f : Region → Region) : (s.modRegion c f).asids = s.asids :=
  State.modCrew_asids s c _

@[simp] theorem State.modPlace_asids (c : CrewId) (i : Nat) (f : Place → Place) : (s.modPlace c i f).asids = s.asids :=
  State.modCrew_asids s c _

@[simp] theorem State.modLoop_asids (c : CrewId) (i : Nat) (fr : Nat × Nat) (e : Bool) (g : BitVec 32 → BitVec 32) :
    (s.modLoop c i fr e g).asids = s.asids := State.modCrew_asids s c _

@[simp] theorem State.modChain_asids (c : CrewId) (paddock : Nat) (f : Chain → Chain) :
    (s.modChain c paddock f).asids = s.asids := State.modCrew_asids s c _

@[simp] theorem State.modAct_asids (c : CrewId) (paddock round blk : Nat) (tag : Dword) (f : Act → Act) :
    (s.modAct c paddock round blk tag f).asids = s.asids := State.modCrew_asids s c _

@[simp] theorem State.sendFlit_asids (c : CrewId) (f : Flit) : (s.sendFlit c f).asids = s.asids :=
  State.modCrew_asids s c _

@[simp] theorem State.newId_asids (c : CrewId) : (s.newId c).2.asids = s.asids := by
  unfold State.newId
  split <;> rfl

@[simp] theorem State.newAct_asids (c : CrewId) (paddock round blk : Nat) (tag : Dword) (parent : Option Nat) (loop : Bool) :
    (s.newAct c paddock round blk tag parent loop).asids = s.asids := by
  unfold State.newAct
  split
  · split
    · exact (State.modChain_asids _ _ _ _).trans (s.newId_asids c)
    · rfl
  · rfl

@[simp] theorem State.childAct_asids (c : CrewId) (paddock round blk : Nat) (tag : Dword) (parent : Option Act)
    (loop : Bool) : (s.childAct c paddock round blk tag parent loop).asids = s.asids := by
  cases parent with
  | none => rfl
  | some a => exact s.newAct_asids c paddock round blk tag (some a.id) loop

@[simp] theorem State.startIter_asids (c : CrewId) (i : Nat) (parent : Nat × Nat) (e : Bool) (f : Ent) :
    (s.startIter c i parent e f).asids = s.asids := by
  unfold State.startIter
  split
  · exact s.sendFlit_asids c _
  · simp

@[simp] theorem admitHeld_asids (c : CrewId) (i : Nat) (parent : Nat × Nat) (e : Bool) (hs : List Held) :
    (admitHeld c i parent e hs s).asids = s.asids := by
  induction hs generalizing s with
  | nil => rfl
  | cons h hs ih =>
    rw [admitHeld, ih]
    split
    · dsimp only
      split
      · split
        · simp
        · rfl
      · split
        · simp
        · rfl
    · rfl

@[simp] theorem loopEnded_asids (c : CrewId) (i : Nat) (parent : Nat × Nat) (e : Bool) :
    (loopEnded c i parent e s).asids = s.asids := by
  simp [loopEnded]

@[simp] theorem freeFrame_asids (c : CrewId) (i n : Nat) (fr : Nat × Nat) : (freeFrame c i n fr s).asids = s.asids := by
  induction n generalizing s fr with
  | zero => rfl
  | succ n ih =>
    unfold freeFrame
    split
    · rfl
    · dsimp only
      split
      · split
        · split
          · split
            · simp [ih]
            · simp
          · simp
        · simp
      · simp

variable (k : NCtx)

@[simp] theorem NCtx.endRound_asids (at_ : Option Nat) : (k.endRound at_ s).asids = s.asids := State.modRound_asids s _ _ _

@[simp] theorem NCtx.result_asids (port : Nat) : (k.result port s).asids = s.asids := by
  unfold NCtx.result
  split
  · split
    · exact State.modCrew_asids s k.c _
    · exact State.modRound_asids s k.c _ _
  · exact State.modCrew_asids s k.c _

@[simp] theorem NCtx.resultHops_asids : (k.resultHops s).asids = s.asids := State.modGang_asids s _ _

end

/-! ### Tags (R71) -/

theorem tagMk_db {db f : Nat} (h : db < 64) : tagDb (tagMk db f) = db := by
  rw [tagDb, fld_eq_div_mod, tagMk, BitVec.toNat_ofNat]
  omega

theorem tagMk_fields {db f : Nat} (hf : f < 2 ^ 56) : tagFields (tagMk db f) = f := by
  rw [tagFields, fld_eq_div_mod, tagMk, BitVec.toNat_ofNat]
  omega

/-- R71: a tag that fits is pushed, and popping gives the tag back. -/
theorem tagPush_fits {t : Dword} {w m : Nat} (hw : tagDb t + w ≤ 56) (hf : tagFields t < 2 ^ tagDb t) :
    ∃ u, tagPush t w m = some u ∧ tagDb u = tagDb t + w ∧ tagFields u = tagFields t * 2 ^ w + m % 2 ^ w
      ∧ tagPop u w = tagMk (tagDb t) (tagFields t) := by
  have hm : m % 2 ^ w < 2 ^ w := Nat.mod_lt _ (Nat.two_pow_pos w)
  have hlt : tagFields t * 2 ^ w + m % 2 ^ w < 2 ^ 56 := calc
    tagFields t * 2 ^ w + m % 2 ^ w < (tagFields t + 1) * 2 ^ w := by
      rw [Nat.succ_mul]
      omega
    _ ≤ 2 ^ tagDb t * 2 ^ w := Nat.mul_le_mul_right _ hf
    _ = 2 ^ (tagDb t + w) := (Nat.pow_add 2 _ _).symm
    _ ≤ 2 ^ 56 := Nat.pow_le_pow_right (by decide) hw
  have hdb : tagDb (tagMk (tagDb t + w) (tagFields t * 2 ^ w + m % 2 ^ w)) = tagDb t + w := tagMk_db (by omega)
  have hfields := tagMk_fields (db := tagDb t + w) hlt
  refine ⟨_, if_neg (by omega), hdb, hfields, ?_⟩
  rw [tagPop, hdb, hfields, Nat.add_sub_cancel, Nat.mul_comm, Nat.mul_add_div (Nat.two_pow_pos w),
    Nat.div_eq_of_lt hm, Nat.add_zero]

/-! ### Rounds (R298) -/

/-- An open round that has not committed ends, and takes a result. -/
theorem round_open {c : CrewId} {x : Crew} {k : NCtx} {s : State} {r : Round} (port : Nat) (n : Option Nat) (hk : k.c = c)
    (hc : s.crew? c = some x) (hr : x.round? k.fr.round = some r) (hcom : r.committed = false) :
    k.endRound n s = s.setCrew c { x with rounds := x.rounds.map (fun y =>
        if y.id = k.fr.round ∧ y.open_ = true then { y with open_ := false, eqpn := n } else y) }
    ∧ k.result port s = s.setCrew c { x with rounds := x.rounds.map (fun y => if y.id = k.fr.round then
        { y with results := y.results ++ [⟨k.p.paddock, port, tagIter k.fr.tag, k.rd.l⟩] } else y) } := by
  subst hk
  constructor
  · rw [NCtx.endRound, State.modRound, State.modCrew_some _ hc]
    congr 2
    refine List.map_congr_left fun y hy => ?_
    by_cases hid : y.id = k.fr.round <;> by_cases ho : y.open_ = true <;> simp [hid, ho]
  · rw [NCtx.result, hc]
    dsimp only [Option.bind_some]
    rw [hr]
    dsimp only
    rw [hcom, if_neg Bool.false_ne_true, State.modRound, State.modCrew_some _ hc]
    simp only [beq_iff_eq]

/-! ### The context of a firing -/

section
variable {s : State} {k : NCtx} {i : Instr}

theorem nctx?_crew {f : Firing} (h : nctx? s f = some k) : s.crew? k.c = some k.x ∧ k.x.place? k.i = some k.p := by
  unfold nctx? at h
  split at h
  next x kn hx hkn =>
    split at h
    next p hp =>
      obtain ⟨fr, hfr, rfl⟩ := Option.map_eq_some_iff.mp h
      exact ⟨hx, hp⟩
    next => cases h
  next => cases h

theorem MayFire.crew? (h : MayFire s k) : s.unfocused.crew? k.c = some k.x ∧ k.x.place? k.i = some k.p :=
  nctx?_crew (s := s) h.ctx

theorem NCtx.orEnd_value (s : State) (body : State → NRes) (h : k.err = none) : k.orEnd s body = body s := by
  rw [NCtx.orEnd, h]

/-- A node whose body goes on where no operand is an error. -/
theorem fires_orEnd {body : NCtx → State → NRes} (he : exec i s = fireNode s (fun k s => k.orEnd s (body k)))
    (h : MayFire s k) (hk : k.err = none) {t : State} (hb : body k s.unfocused = .fire t) (hfit : Claims.fitsRing s k t) :
    Fires i s k t :=
  fires_of_fire he h ((NCtx.orEnd_value s.unfocused (body k) hk).trans hb) hfit

/-- R289: the nodes at which an error operand ends the round. -/
theorem exec_endsOnError (hi : Claims.endsOnError i = true) (s : State) :
    ∃ body : NCtx → State → NRes, exec i s = fireNode s (fun k s => k.orEnd s (body k)) := by
  cases i with
  | lenter | lnext | lexit | calln | retn | eqpn | fend => exact ⟨_, rfl⟩
  | _ => cases hi

theorem fires_error_ends (hi : Claims.endsOnError i = true) {e : Dword} (h : MayFire s k) (hk : k.err = some e)
    (hfit : Claims.fitsRing s k (k.endRound none (k.hand e s.unfocused))) :
    Fires i s k (k.endRound none (k.hand e s.unfocused)) := by
  obtain ⟨body, he⟩ := exec_endsOnError hi s
  refine fires_of_fire he h ?_ hfit
  rw [NCtx.orEnd, hk]

/-! ### LENTER and CALLN -/

section
variable {n : NDF} {t : Dword}

/-- A loop that is free, or that no exit holds up. -/
theorem loop_open (h : loopAct (k.fr.loop (ndE n)) = false ∨ loopXd (k.fr.loop (ndE n)) = false) :
    ¬ (loopAct (k.fr.loop (ndE n)) && loopXd (k.fr.loop (ndE n))) = true := by
  rcases h with h | h <;> simp [h]

theorem lenter_exhausted (h : MayFire s k) (hk : k.err = none) (hfit : Claims.fitsRing s k (k.fault 1 s.unfocused))
    (hloop : loopAct (k.fr.loop (ndE n)) = false ∨ loopXd (k.fr.loop (ndE n)) = false)
    (ht : tagPush k.fr.tag n.w.toNat 0 = none) : Fires (.lenter n) s k (k.fault 1 s.unfocused) := by
  refine fires_of_fire (body := lenterOp n) rfl h ((NCtx.orEnd_value s.unfocused _ hk).trans ?_) hfit
  dsimp only
  rw [if_neg (loop_open hloop), ht]

theorem calln_exhausted (h : MayFire s k) (hk : k.err = none) (hfit : Claims.fitsRing s k (k.fault 1 s.unfocused))
    (ht : tagPush k.fr.tag n.w.toNat (fld n.imm 23 19) = none) : Fires (.calln n) s k (k.fault 1 s.unfocused) := by
  refine fires_of_fire (body := callnOp n) rfl h ((NCtx.orEnd_value s.unfocused _ hk).trans ?_) hfit
  rw [ht]

/-- R305: LENTER sends an entry under the pushed tag, which counts when its key is new. -/
theorem lenter_enters (h : MayFire s k) (hk : k.err = none)
    (hloop : loopAct (k.fr.loop (ndE n)) = false ∨ loopXd (k.fr.loop (ndE n)) = false)
    (ht : tagPush k.fr.tag n.w.toNat 0 = some t) :
    let r := k.fr.loop (ndE n)
    let first := if loopAct r then r else loopMk true false n.w.toNat (fld n.imm 7 0) 0 false
    let isNew := s.keyKnown k.c k.i (ndBlk n) t = false
    let u := s.unfocused.modLoop k.c k.i (k.fr.cell, k.fr.no) (ndE n) (fun _ => if isNew then Claims.oneMore first else first)
    let v := k.after u [.entry (k.ent n (ndBlk n) t (ndDest n) ⟨if ndE n then 2 else 1, some (k.fr.cell, k.fr.no), 0⟩)]
    let w := if isNew then v.childAct k.c k.p.paddock k.fr.round (ndBlk n) t
      (s.actOf k.c k.p.paddock k.fr.round k.fr.blk k.fr.tag) true else v
    Fires (.lenter n) s k (k.after w (k.tokens [n.t0, n.t1] k.rd.l false)) := by
  intro r first isNew u v w
  have hw : w.asids = s.unfocused.asids := by
    simp only [w]
    split <;> simp [v, u]
  refine fires_of_fire (body := lenterOp n) rfl h ((NCtx.orEnd_value s.unfocused _ hk).trans ?_)
    (fitsRing_of_asids ((k.after_asids _ _).trans hw))
  dsimp only
  rw [if_neg (loop_open hloop), ht]
  dsimp only
  rw [NCtx.both_eq]
  by_cases hnew : isNew
  · rw [show s.unfocused.keyKnown k.c k.i (ndBlk n) t = false from hnew]
    simp only [w, v, u, if_pos hnew]
    rfl
  · rw [show s.unfocused.keyKnown k.c k.i (ndBlk n) t = true from (Bool.not_eq_false _).mp hnew]
    simp only [w, v, u, if_neg hnew]
    rfl

/-- R306: CALLN sends an entry under the pushed tag. -/
theorem calln_enters (h : MayFire s k) (hk : k.err = none) (ht : tagPush k.fr.tag n.w.toNat (fld n.imm 23 19) = some t) :
    let v := k.after s.unfocused [.entry (k.ent n (ndBlk n) t (ndDest n) ⟨3, some (k.fr.cell, k.fr.no), fld n.imm 6 0⟩)]
    let w := if s.keyKnown k.c k.i (ndBlk n) t = false then v.childAct k.c k.p.paddock k.fr.round (ndBlk n) t
      (s.actOf k.c k.p.paddock k.fr.round k.fr.blk k.fr.tag) false else v
    Fires (.calln n) s k (k.after w (k.tokens [n.t0, n.t1] k.rd.l false)) := by
  intro v w
  have hw : w.asids = s.unfocused.asids := by
    simp only [w]
    split <;> simp [v]
  refine fires_of_fire (body := callnOp n) rfl h ((NCtx.orEnd_value s.unfocused _ hk).trans ?_)
    (fitsRing_of_asids ((k.after_asids _ _).trans hw))
  rw [ht]
  dsimp only
  rw [NCtx.both_eq]
  by_cases hnew : s.keyKnown k.c k.i (ndBlk n) t = false
  · rw [show s.unfocused.keyKnown k.c k.i (ndBlk n) t = false from hnew]
    simp only [w, v, if_pos hnew]
    rfl
  · rw [show s.unfocused.keyKnown k.c k.i (ndBlk n) t = true from (Bool.not_eq_false _).mp hnew]
    simp only [w, v, if_neg hnew]
    rfl

end

/-! ### LNEXT (R295, R296) -/

/-- R294: what a backwater has in use does not depend on the loop records of its frames. -/
theorem bwRoom_setLoop (x : Crew) (i : Nat) (p : Place) (fr : Nat × Nat) (e : Bool) (g : BitVec 32 → BitVec 32)
    (f : Region → Region) (n : Nat) :
    bwRoom { x with region := x.region.map f } i (p.modFrame fr.1 fr.2 (fun y => y.setLoop e (g (y.loop e)))) n
      = bwRoom x i p n := by
  have hspilled : (Place.spilled (p.modFrame fr.1 fr.2 (fun y => y.setLoop e (g (y.loop e))))).length
      = (Place.spilled p).length := by
    rw [Place.spilled, Place.modFrame, List.filter_map, List.length_map, Place.spilled]
    congr 1
    refine List.filter_congr fun y hy => ?_
    dsimp only [Function.comp_apply]
    split
    · cases e <;> rfl
    · rfl
  rw [bwRoom, bwUsed, hspilled]
  rfl

/-- The place of a loop record that changes, in its crew. -/
theorem modLoop_place {up : Nat × Nat} {e : Bool} {g : BitVec 32 → BitVec 32} {u : State} (hc : u.crew? k.c = some k.x)
    (hp : k.x.place? k.i = some k.p) : ∃ x p, (u.modLoop k.c k.i up e g).crew? k.c = some x ∧ x.place? k.i = some p
      ∧ bwRoom x k.i p 32 = bwRoom k.x k.i k.p 32 := by
  refine ⟨{ k.x with region := k.x.region.map (fun r => { r with places := r.places.modify k.i (fun p =>
      p.modFrame up.1 up.2 (fun f => f.setLoop e (g (f.loop e)))) }) },
    k.p.modFrame up.1 up.2 (fun f => f.setLoop e (g (f.loop e))), ?_, ?_, bwRoom_setLoop k.x k.i k.p up e g _ 32⟩
  · exact (congrArg (State.crew? · k.c) (State.modCrew_some _ hc)).trans (State.crew?_setCrew_self _ _ _)
  · rw [Crew.place?] at hp ⊢
    cases hr : k.x.region with
    | none =>
      rw [hr] at hp
      cases hp
    | some r =>
      have hpr : r.places[k.i]? = some k.p := by
        rw [hr] at hp
        exact hp
      exact (List.getElem?_modify_eq _ _ _).trans (by rw [hpr]; rfl)

section
variable {n : NDF} {up : Nat × Nat} {pf : Frame}

/-- LNEXT of an iteration whose parent's frame is known. -/
theorem lnextOp_parent {u : State} (hc : u.crew? k.c = some k.x) (hp : k.x.place? k.i = some k.p) (hk : k.err = none)
    (hup : k.fr.how.parent = some up) (hpf : u.frameAt k.c k.i up = some pf) : lnextOp n k u =
      let t := nextTag k.fr.tag n.w.toNat
      let f := k.ent n k.fr.blk t (ndDest n) ⟨if ndE n then 2 else 1, some up, 0⟩
      if u.keyKnown k.c k.i k.fr.blk t || loopInfl (pf.loop (ndE n)) < loopRein (pf.loop (ndE n)) then
        .fire (k.after (u.startIter k.c k.i up (ndE n) f) (k.tokens [n.t0, n.t1] k.rd.l false))
      else
        let w := u.modLoop k.c k.i up (ndE n) (fun r => loopSet r (loopXd r) (loopInfl r) true)
        .fire (k.after ((if !bwRoom k.x k.i k.p 32 then
            w.bwRaise k.c k.i (.hold f) k.c k.i k.p k.fr.tag k.p.paddock k.fr.blk k.rd.slot
          else w).modCrew k.c (fun x => { x with heldStarts := x.heldStarts ++ [⟨k.i, up, ndE n, f⟩] }))
            (k.tokens [n.t0, n.t1] k.rd.l false)) := by
  obtain ⟨x, p, hx, hplace, hroom⟩ := modLoop_place (up := up) (e := ndE n)
    (g := fun r => loopSet r (loopXd r) (loopInfl r) true) hc hp
  unfold lnextOp
  rw [NCtx.orEnd_value u _ hk, hup]
  dsimp only
  rw [hpf]
  simp only [hx, hplace, hroom, NCtx.both_eq]

/-- R295, R296: LNEXT starts the next iteration, or holds it at its loop's rein. -/
theorem lnext_starts (h : MayFire s k) (hk : k.err = none) (hup : k.fr.how.parent = some up)
    (hpf : s.frameAt k.c k.i up = some pf) :
    let t := nextTag k.fr.tag n.w.toNat
    let f := k.ent n k.fr.blk t (ndDest n) ⟨if ndE n then 2 else 1, some up, 0⟩
    let hold (u : State) := u.modCrew k.c (fun x => { x with heldStarts := x.heldStarts ++ [⟨k.i, up, ndE n, f⟩] })
    let w := s.unfocused.modLoop k.c k.i up (ndE n) (fun r => loopSet r (loopXd r) (loopInfl r) true)
    let full := w.bwRaise k.c k.i (.hold f) k.c k.i k.p k.fr.tag k.p.paddock k.fr.blk k.rd.slot
    (s.keyKnown k.c k.i k.fr.blk t = true → Fires (.lnext n) s k
      (k.after (k.after s.unfocused [.entry f]) (k.tokens [n.t0, n.t1] k.rd.l false)))
    ∧ (s.keyKnown k.c k.i k.fr.blk t = false → loopInfl (pf.loop (ndE n)) < loopRein (pf.loop (ndE n)) →
      Fires (.lnext n) s k (k.after (s.unfocused.startIter k.c k.i up (ndE n) f) (k.tokens [n.t0, n.t1] k.rd.l false)))
    ∧ (s.keyKnown k.c k.i k.fr.blk t = false → loopRein (pf.loop (ndE n)) ≤ loopInfl (pf.loop (ndE n)) →
      (bwRoom k.x k.i k.p 32 = true → Fires (.lnext n) s k (k.after (hold w) (k.tokens [n.t0, n.t1] k.rd.l false)))
      ∧ (bwRoom k.x k.i k.p 32 = false → Claims.fitsRing s k full →
        Fires (.lnext n) s k (k.after (hold full) (k.tokens [n.t0, n.t1] k.rd.l false)))) := by
  intro t f hold w full
  have hop := lnextOp_parent (n := n) h.crew?.1 h.crew?.2 hk hup (show s.unfocused.frameAt k.c k.i up = some pf from hpf)
  have hasids : w.asids = s.unfocused.asids := State.modLoop_asids _ _ _ _ _ _
  refine ⟨fun hkn => ?_, fun hkn hrein => ?_, fun hkn hrein => ?_⟩
  · have hstart : s.unfocused.startIter k.c k.i up (ndE n) f = k.after s.unfocused [.entry f] := if_pos hkn
    rw [← hstart]
    exact fires_of_fire (body := lnextOp n) rfl h
      (hop.trans (if_pos (by rw [show s.unfocused.keyKnown k.c k.i k.fr.blk t = true from hkn]; rfl)))
      (fitsRing_of_asids (by simp))
  · exact fires_of_fire (body := lnextOp n) rfl h (hop.trans (if_pos (by simp [hrein]))) (fitsRing_of_asids (by simp))
  · have hwait := hop.trans (if_neg (by
      rw [show s.unfocused.keyKnown k.c k.i k.fr.blk (nextTag k.fr.tag n.w.toNat) = false from hkn]
      simpa using hrein))
    refine ⟨fun hroom => ?_, fun hroom hfit => ?_⟩
    · refine fires_of_fire (body := lnextOp n) rfl h (hwait.trans ?_) (fitsRing_of_asids ?_)
      · rw [hroom]
        rfl
      · exact (k.after_asids _ _).trans ((State.modCrew_asids _ _ _).trans hasids)
    · refine fires_of_fire (body := lnextOp n) rfl h (hwait.trans ?_) (Claims.fitsRing.of_asids hfit ?_)
      · rw [hroom]
        rfl
      · exact (k.after_asids _ _).trans (State.modCrew_asids _ _ _)

/-! ### LEXIT and RETN (R305, R306) -/

/-- LEXIT and RETN send an entry to the parent's block under the popped tag. -/
theorem lexit_retn (h : MayFire s k) (hk : k.err = none) (hup : k.fr.how.parent = some up)
    (hpf : s.frameAt k.c k.i up = some pf) :
    let u := (s.unfocused.modLoop k.c k.i up (ndE n) (fun r => loopSet r true (loopInfl r) (loopHeld r))).modAct k.c
      k.p.paddock k.fr.round k.fr.blk k.fr.tag (fun a => { a with lexit := true })
    let back (slot : Nat) : Flit := .entry (k.ent n pf.blk (tagPop k.fr.tag n.w.toNat) slot ⟨0, none, 0⟩)
    Fires (.lexit n) s k (k.after (k.after u [back (ndDest n)]) (k.tokens [n.t0, n.t1] k.rd.l false))
    ∧ (k.fr.how.rslot + ndDest n < k.kn.blockSize k.p.paddock pf.blk →
      Fires (.retn n) s k (k.after s.unfocused [back (k.fr.how.rslot + ndDest n)]))
    ∧ (k.kn.blockSize k.p.paddock pf.blk ≤ k.fr.how.rslot + ndDest n → Claims.fitsRing s k (k.fault 5 s.unfocused) →
      Fires (.retn n) s k (k.fault 5 s.unfocused)) := by
  intro u back
  have hpf' : s.unfocused.frameAt k.c k.i up = some pf := hpf
  refine ⟨?_, fun hslot => ?_, fun hslot hfit => ?_⟩
  · refine fires_of_fire (body := lexitOp n) rfl h ((NCtx.orEnd_value s.unfocused _ hk).trans ?_)
      (fitsRing_of_asids (by simp [u]))
    rw [hup]
    dsimp only
    rw [hpf']
    exact congrArg NRes.fire (NCtx.both_eq k _ n.t0 n.t1 k.rd.l false)
  · refine fires_of_fire (body := retnOp n) rfl h ((NCtx.orEnd_value s.unfocused _ hk).trans ?_)
      (fitsRing_of_asids (by simp))
    rw [hup]
    dsimp only
    rw [hpf']
    exact if_neg (Nat.not_le.mpr hslot)
  · refine fires_of_fire (body := retnOp n) rfl h ((NCtx.orEnd_value s.unfocused _ hk).trans ?_) hfit
    rw [hup]
    dsimp only
    rw [hpf']
    exact if_pos hslot

end

/-! ### SINK, SENDP, EQPN and FEND (R278, R298, R307) -/

section
variable {n : NDF}

theorem err_none_lerr (hk : k.err = none) : k.rd.lerr = false := by
  unfold NCtx.err at hk
  cases h : k.rd.lerr with
  | false => rfl
  | true =>
    rw [h] at hk
    cases hk

/-- The nodes that end a round, or give it a result, where no operand is an error. -/
theorem fires_round (h : MayFire s k) (hk : k.err = none) :
    let pass (u : State) := k.after u (k.tokens [n.t0, n.t1] k.rd.l k.rd.lerr)
    Fires (.sink n) s k (pass (k.endRound none s.unfocused))
    ∧ Fires (.sendp n) s k (pass (k.resultHops (k.result (fld n.imm 2 0) s.unfocused)))
    ∧ (k.rd.entry = true → Fires (.eqpn n) s k (pass s.unfocused))
    ∧ (k.rd.entry = false → Fires (.eqpn n) s k (pass (k.endRound (some (fld n.imm 11 0)) s.unfocused)))
    ∧ (k.fr.idle = true → Fires (.fend n) s k (freeFrame k.c k.i 58 (k.fr.cell, k.fr.no) s.unfocused))
    ∧ (k.fr.idle = false → Fires (.fend n) s k (s.unfocused.modPlace k.c k.i
        (fun p => p.modFrame k.fr.cell k.fr.no (fun f => { f with ending := true })))) := by
  intro pass
  have hpass (u : State) : k.both n.t0 n.t1 k.rd.l k.rd.lerr u = pass u := k.both_eq u n.t0 n.t1 _ _
  have heqpn {u : State} (hu : u.asids = s.unfocused.asids)
      (hb : (if k.rd.entry then s.unfocused else k.endRound (some (fld n.imm 11 0)) s.unfocused) = u) :
      Fires (.eqpn n) s k (pass u) := by
    refine fires_of_fire (body := eqpnOp n) rfl h ((NCtx.orEnd_value s.unfocused _ hk).trans ?_)
      (fitsRing_of_asids ((k.after_asids u _).trans hu))
    rw [← hpass, ← hb, err_none_lerr hk]
  refine ⟨fires_of_fire (body := sinkOp n) rfl h ?_ (fitsRing_of_asids (by simp [pass])),
    fires_of_fire (body := sendpOp n) rfl h ?_ (fitsRing_of_asids (by simp [pass])),
    fun hent => heqpn rfl (if_pos hent), fun hent => heqpn (k.endRound_asids _ _) (if_neg (Bool.eq_false_iff.mp hent)),
    fun hidle => ?_, fun hidle => ?_⟩
  · rw [sinkOp, hk, ← hpass]
  · rw [sendpOp, hk, ← hpass]
  · exact fires_of_fire (body := fun k s => fendOp k s) rfl h ((NCtx.orEnd_value s.unfocused _ hk).trans (if_pos hidle))
      (fitsRing_of_asids (by simp))
  · exact fires_of_fire (body := fun k s => fendOp k s) rfl h
      ((NCtx.orEnd_value s.unfocused _ hk).trans (if_neg (Bool.eq_false_iff.mp hidle))) (fitsRing_of_asids (by simp))

/-- R298, R319: SINK and SENDP hand an error operand to the retire unit. -/
theorem fires_round_error (h : MayFire s k) {e : Dword} (hk : k.err = some e)
    (hfit : Claims.fitsRing s k (k.hand e s.unfocused)) :
    let pass (u : State) := k.after u (k.tokens [n.t0, n.t1] k.rd.l k.rd.lerr)
    Fires (.sink n) s k (pass (k.endRound none (k.hand e s.unfocused)))
    ∧ Fires (.sendp n) s k (pass (k.hand e s.unfocused)) := by
  intro pass
  have hpass (u : State) : k.both n.t0 n.t1 k.rd.l k.rd.lerr u = pass u := k.both_eq u n.t0 n.t1 _ _
  refine ⟨fires_of_fire (body := sinkOp n) rfl h ?_ (Claims.fitsRing.of_asids hfit (by simp [pass])),
    fires_of_fire (body := sendpOp n) rfl h ?_ (Claims.fitsRing.of_asids hfit (by simp [pass]))⟩
  · rw [sinkOp, hk, ← hpass]
  · rw [sendpOp, hk, ← hpass]

end

end

/-- Settles O37: what each node of loops, calls and rounds sends, frees and ends. -/
theorem nodeFrames : Obligations.NodeFrames :=
  ⟨fun _ _ _ _ hi h hk hfit => fires_error_ends hi h hk hfit,
    fun _ _ _ h hk hfit => ⟨fun hloop ht => lenter_exhausted h hk hfit hloop ht, fun ht => calln_exhausted h hk hfit ht⟩,
    fun _ _ _ _ h hk hloop ht => lenter_enters h hk hloop ht,
    fun _ _ _ _ _ h hk hup hpf => lnext_starts h hk hup hpf,
    fun _ _ _ _ _ h hk hup hpf => lexit_retn h hk hup hpf,
    fun _ _ _ _ h hk ht => calln_enters h hk ht,
    fun _ _ _ h => ⟨fires_round h, fun _ hk hfit => fires_round_error h hk hfit⟩,
    fun _ _ _ _ _ port n hk hc hr hcom _ => round_open port n hk hc hr hcom,
    fun _ _ _ hw hf => tagPush_fits hw hf⟩

end Sys2Proof.Machine
end

section
/-! PROOFS. The nodes that access memory (R289, R314, R315, R320, R321, R387, R391, R392). -/

namespace Sys2Proof.Machine

/-! ### Caches and windows play no part at a home channel -/

section
variable (s : State) (c : SMap Cluster) (w : SMap Window) (f : Nat)

theorem State.rekey_with_caches (l : Loc) (n : Nat) :
    ({ s with clusters := c, windows := w, free := f } : State).rekey l n
      = { s.rekey l n with clusters := c, windows := w, free := f } := by
  have hwrote (m : Loc) : ({ s with clusters := c, windows := w, free := f } : State).wroteKey m = s.wroteKey m := rfl
  have hat (m : Loc) : ({ s with clusters := c, windows := w, free := f } : State).keyAt m = s.keyAt m := rfl
  have hline (m : Loc) : ({ s with clusters := c, windows := w, free := f } : State).lineAs m = s.lineAs m := rfl
  have hstore (m : Loc) : ({ s with clusters := c, windows := w, free := f } : State).store m = s.store m := rfl
  unfold State.rekey
  simp only [hwrote, hat, hline, hstore]
  split
  · rfl
  · split <;> rfl

theorem State.rekeyAll_with_caches (l : Loc) (ls : List Nat) :
    ({ s with clusters := c, windows := w, free := f } : State).rekeyAll l ls
      = { s.rekeyAll l ls with clusters := c, windows := w, free := f } := by
  induction ls generalizing s with
  | nil => rfl
  | cons n ls ih =>
    rw [State.rekeyAll, List.foldl_cons, State.rekey_with_caches]
    exact ih (s.rekey l n)

theorem State.homeWrite_with_caches (l : Loc) (bs : List Byte) :
    ({ s with clusters := c, windows := w, free := f } : State).homeWrite l bs
      = { s.homeWrite l bs with clusters := c, windows := w, free := f } := by
  rw [State.homeWrite_eq_rekeyAll, State.homeWrite_eq_rekeyAll, State.rekeyAll_with_caches]
  split <;> rfl

theorem State.homeRead_with_caches (l : Loc) (n : Nat) :
    ({ s with clusters := c, windows := w, free := f } : State).homeRead l n = s.homeRead l n := by
  induction n generalizing l with
  | zero => rfl
  | succ n ih => exact congrArg (s.homeByte l :: ·) (ih { l with pa := l.pa + 1 })

end

/-- Only caches, windows and free values differ. -/
def CacheFrame (s t : State) : Prop := t = { s with clusters := t.clusters, windows := t.windows, free := t.free }

section
variable {s t u : State}

theorem CacheFrame.trans (h : CacheFrame s t) (g : CacheFrame t u) : CacheFrame s u := Eq.trans g (by rw [h])

/-- R205: a write at a home channel leaves the same memory whatever caches hold. -/
theorem CacheFrame.homeWrite (h : CacheFrame s t) (l : Loc) (bs : List Byte) :
    (t.homeWrite l bs).mem = (s.homeWrite l bs).mem ∧ (t.homeWrite l bs).lineKey = (s.homeWrite l bs).lineKey
    ∧ (t.homeWrite l bs).remote = (s.homeWrite l bs).remote
    ∧ (t.homeWrite l bs).remoteKey = (s.homeWrite l bs).remoteKey := by
  rw [h, State.homeWrite_with_caches]
  exact ⟨rfl, rfl, rfl, rfl⟩

theorem CacheFrame.homeRead (h : CacheFrame s t) (l : Loc) (n : Nat) : t.homeRead l n = s.homeRead l n := by
  rw [h, State.homeRead_with_caches]

theorem State.countRemote_caches (s : State) (cl : Nat) (l : Loc) : CacheFrame s (s.countRemote cl l) := by
  have h := s.countRemote_eq cl l
  generalize s.countRemote cl l = t at h ⊢
  rw [CacheFrame, h]

/-- Where no pending store is picked none is performed. -/
theorem State.performPicked_caches (s : State) (cl : Nat) {pick : PStore → Bool}
    (h : ∀ p ∈ (s.cluster cl).stores, pick p = false) : CacheFrame s (s.performPicked cl pick) := by
  have hp := s.performPicked_none cl h
  generalize s.performPicked cl pick = t at hp ⊢
  rw [CacheFrame, hp]

theorem State.l1Store_caches (s : State) (cl : Nat) (l : Loc) (bs : List Byte) : CacheFrame s (s.l1Store cl l bs) := by
  have h := (s.l1Store_frame cl l bs).1
  generalize s.l1Store cl l bs = t at h ⊢
  rw [CacheFrame, h]

end

/-! ### What a node stores and loads -/

section
variable (s : State) (cl sl : Nat) (l : Loc)

/-- R391, R392: a node store that no pending store which it sees touches writes its bytes at the home channel. -/
theorem State.nodeStore_home (bs : List Byte)
    (h : ∀ p ∈ (s.cluster cl).stores, sl = cl ∨ p.crew = true → p.touches l bs.length = false) :
    (s.nodeStore cl sl l bs).mem = (s.homeWrite l bs).mem ∧ (s.nodeStore cl sl l bs).lineKey = (s.homeWrite l bs).lineKey
    ∧ (s.nodeStore cl sl l bs).remote = (s.homeWrite l bs).remote
    ∧ (s.nodeStore cl sl l bs).remoteKey = (s.homeWrite l bs).remoteKey := by
  have hcount := s.countRemote_caches sl l
  have hstores : ((s.countRemote sl l).cluster cl).stores = (s.cluster cl).stores := by
    rw [s.countRemote_cluster]
  unfold State.nodeStore
  dsimp only
  split
  next hown =>
    rw [beq_iff_eq] at hown
    refine CacheFrame.homeWrite ((hcount.trans (State.performPicked_caches _ cl fun p hp => ?_)).trans
      (State.l1Store_caches _ cl l bs)) l bs
    exact h p (hstores ▸ hp) (.inl hown)
  next =>
    refine (hcount.trans (State.performPicked_caches _ cl fun p hp => ?_)).homeWrite l bs
    cases hcrew : p.crew with
    | false => rfl
    | true => exact h p (hstores ▸ hp) (.inr hcrew)

/-- R387: a node load that no released store touches reads the home channel. -/
theorem State.nodeLoad_home (n : Nat) (h : ∀ p ∈ (s.cluster cl).stores, p.crew = true → p.touches l n = false) :
    (s.nodeLoad cl sl l n).1 = s.homeRead l n ∧ (s.nodeLoad cl sl l n).2.mem = s.mem := by
  have hstores : ((s.countRemote sl l).cluster cl).stores = (s.cluster cl).stores := by
    rw [s.countRemote_cluster]
  have hframe : CacheFrame s ((s.countRemote sl l).crewSees cl l n) := by
    refine (s.countRemote_caches sl l).trans (State.performPicked_caches _ cl fun p hp => ?_)
    cases hcrew : p.crew with
    | false => rfl
    | true => exact h p (hstores ▸ hp) hcrew
  refine ⟨hframe.homeRead l n, ?_⟩
  rw [show (s.nodeLoad cl sl l n).2 = (s.countRemote sl l).crewSees cl l n from rfl, hframe]

/-! ### No access of a node makes a record by itself -/

@[simp] theorem State.countRemote_asids : (s.countRemote cl l).asids = s.asids := by
  rw [s.countRemote_eq cl l]

@[simp] theorem State.performPicked_asids (pick : PStore → Bool) : (s.performPicked cl pick).asids = s.asids := by
  rw [State.performPicked, (State.performAll_mem _ _).eq]
  rfl

@[simp] theorem State.crewSees_asids (n : Nat) : (s.crewSees cl l n).asids = s.asids := s.performPicked_asids cl _

@[simp] theorem State.homeWrite_asids (bs : List Byte) : (s.homeWrite l bs).asids = s.asids := by
  rw [(s.homeWrite_mem l bs).eq]

@[simp] theorem State.l1Store_asids (bs : List Byte) : (s.l1Store cl l bs).asids = s.asids := by
  rw [(s.l1Store_frame cl l bs).1]

@[simp] theorem State.nodeStore_asids (bs : List Byte) : (s.nodeStore cl sl l bs).asids = s.asids := by
  unfold State.nodeStore
  dsimp only
  split
  · simp [State.performRange]
  · rw [State.pastL1, State.modCluster_asids]
    simp

@[simp] theorem State.nodeLoad_asids (n : Nat) : (s.nodeLoad cl sl l n).2.asids = s.asids := by
  simp [State.nodeLoad]

@[simp] theorem State.countMem_asids (c : CrewId) (kj n : Nat) : (s.countMem c kj n).asids = s.asids :=
  State.modGang_asids s _ _

theorem State.nodeXlat_frame (asid a n : Nat) (u : Use) : FindFrame s (s.nodeXlat asid a n u).1 := by
  have hx := s.xlatTile_frame asid a u
  unfold State.nodeXlat
  split
  · exact FindFrame.refl s
  · split
    next q c hq =>
      rw [hq] at hx
      exact hx
    next q t hq =>
      rw [hq] at hx
      exact hx

/-- What finding the place of a node access leaves. -/
theorem State.nodeFind_frame (asid a n : Nat) (u : Use) : FindFrame s (s.nodeFind asid a n u).1 := by
  have hx := s.nodeXlat_frame asid a n u
  unfold State.nodeFind
  split
  next q x hq =>
    rw [hq] at hx
    exact hx
  next q l hq =>
    rw [hq] at hx
    exact hx

theorem FindFrame.asids {s t : State} (h : FindFrame s t) : t.asids = s.asids := by rw [h.eq]

end

/-! ### The nodes -/

section
variable {s : State} {k : NCtx} {n : NMF}

/-- R314, R315: a chained access leaves its cell for the weir. -/
theorem exec_chainNode {i : Instr} {a : AKind} (h : Claims.chainNode i = some (n, a)) (s : State) :
    exec i s = fireNode s (chainOp n a) := by
  cases i with
  | cld | cst | catom | mnop =>
    cases h
    rfl
  | _ => cases h

/-- A free access that meets no cause. -/
theorem freeAccess_at {u : Use} {s1 : State} {l : Loc} {body : State → Loc → State} (hk : k.err = none)
    (hat : s.unfocused.nodeFind (s.asidOf k.c) k.rd.l.toNat (2 ^ n.size.toNat) u = (s1, .at l)) :
    freeAccess n u k s.unfocused body = .fire (body (s1.countMem k.c (tagIter k.fr.tag) 1) l) := by
  have hat' : s.unfocused.nodeFind (s.unfocused.asidOf k.c) k.rd.l.toNat (2 ^ n.size.toNat) u = (s1, .at l) := hat
  refine (k.pass_value s.unfocused _ hk).trans ?_
  dsimp only
  rw [hat']

/-- R289: an error operand of a free access goes on. -/
theorem freeAccess_error {u : Use} {body : State → Loc → State} {e : Dword} (hk : k.err = some e) :
    freeAccess n u k s.unfocused body = .fire (k.after s.unfocused (k.tokens [n.t0] e true)) :=
  k.pass_error (t0 := n.t0) (t1 := none) s.unfocused _ hk

/-- R310, R315: the access of a chained node takes its entry; an error operand is sent on before. -/
theorem fires_chain {i : Instr} {a : AKind} (hi : Claims.chainNode i = some (n, a)) (h : MayFire s k) {u : State}
    (hu : u.asids = s.unfocused.asids)
    (hb : (match k.err with
      | some c => k.send n.t0 c true s.unfocused
      | none => s.unfocused) = u) : Fires i s k (u.modCrew k.c (fun x => { x with
        transit := x.transit ++ [⟨k.p.paddock, Claims.chainEntry n a k s⟩] })) := by
  subst hb
  exact fires_of_fire (exec_chainNode hi s) h rfl (fitsRing_of_asids ((State.modCrew_asids _ _ _).trans hu))

end

/-- Settles O38: chained accesses go to the weir, free ones are performed, and a fence passes. -/
theorem nodeAccesses : Obligations.NodeAccesses := by
  refine ⟨fun i n a hi s k h => ?_, fun n s s1 k l h hk => ⟨fun hat => ?_, fun hat => ?_, fun hnone => ?_⟩,
    fun n s k e h hk => ?_, fun s cl sl l bs n => ⟨s.nodeStore_home cl sl l bs, s.nodeLoad_home cl sl l n⟩⟩
  · intro send
    refine ⟨fun hk => fires_chain hi h rfl (by rw [hk]), fun e hk => fires_chain hi h (k.after_asids _ _) ?_⟩
    rw [hk]
    exact k.send_eq s.unfocused n.t0 e true
  · intro u r
    have hs1 := congrArg Prod.fst hat ▸ s.unfocused.nodeFind_frame (s.asidOf k.c) k.rd.l.toNat (2 ^ n.size.toNat) useLoad
    refine fires_of_fire (body := fldOp n) rfl h ((freeAccess_at hk hat).trans ?_)
      (fitsRing_of_asids ((k.after_asids _ _).trans ?_))
    · exact congrArg NRes.fire (k.send_eq r.2 n.t0 _ false)
    · exact (State.nodeLoad_asids u _ _ _ _).trans ((State.countMem_asids s1 _ _ _).trans hs1.asids)
  · have hs1 := congrArg Prod.fst hat ▸ s.unfocused.nodeFind_frame (s.asidOf k.c) k.rd.l.toNat (2 ^ n.size.toNat) useStore
    refine fires_of_fire (body := fstOp n) rfl h ((freeAccess_at hk hat).trans ?_)
      (fitsRing_of_asids ((k.after_asids _ _).trans ?_))
    · exact congrArg NRes.fire (k.send_eq _ n.t0 _ false)
    · exact (State.nodeStore_asids _ _ _ _ _).trans ((State.countMem_asids s1 _ _ _).trans hs1.asids)
  · refine fires_tokens (body := cfenceOp n) rfl h ((k.pass_value s.unfocused _ hk).trans ?_)
    exact (if_neg (Bool.eq_false_iff.mp (List.any_eq_false.mpr fun r hr => Bool.eq_false_iff.mp (hnone r hr)))).trans
      (congrArg NRes.fire (k.send_eq s.unfocused n.t0 k.rd.l false))
  · intro E
    exact ⟨fires_tokens (body := fldOp n) rfl h (freeAccess_error hk), fires_tokens (body := fstOp n) rfl h (freeAccess_error hk),
      fires_tokens (body := cfenceOp n) rfl h (k.pass_error s.unfocused _ hk)⟩

end Sys2Proof.Machine
end

section
/-! PROOFS. The nodes of memory cells and of the matrix array (R322 to R324, R329 to R331, R343, R354, R355). -/

namespace Sys2Proof.Machine

@[simp] theorem State.modMc_asids (s : State) (c : CrewId) (i mc : Nat) (f : MCell → MCell) :
    (s.modMc c i mc f).asids = s.asids := State.modPlace_asids s c i _

/-! ### The buffers of a memory cell (R324, R329, R330) -/

section
variable {n : NCF} {m : MCell} (hring : ncRing n = false) (hbound : m.bound n.buf.toNat = false)
include hring hbound

theorem mcld_plain (idx : Dword) : mcld n idx m =
    if bufElems (ncEsz n) ≤ fld idx 31 0 then .err eINDEX
    else if !m.full.getLsbD n.buf.toNat then .wait
    else .ok (ncVal n (m.rd n.buf.toNat (fld idx 31 0 * ncEsz n) (ncEsz n)))
      (if ncClrf n then m.setF n.buf.toNat false else m) := by
  unfold mcld
  dsimp only
  rw [hring, hbound]
  rfl

theorem mcst_plain (idx val : Dword) : mcst n idx val m =
    if bufElems (ncEsz n) ≤ fld idx 31 0 then .err eINDEX
    else .ok val (if ncSetf n then
        (m.wr n.buf.toNat (fld idx 31 0 * ncEsz n) (ncEsz n) val.toNat).setF n.buf.toNat true
      else m.wr n.buf.toNat (fld idx 31 0 * ncEsz n) (ncEsz n) val.toNat) := by
  unfold mcst
  dsimp only
  rw [hring, hbound]
  rfl

/-- R330: an element joins the FIFO of a buffer with room. -/
theorem mcenq_room (val : Dword) (hroom : SMap.get m.count 0 n.buf.toNat < bufElems (ncEsz n)) :
    ∃ t, mcenq n val m = .ok val t ∧ SMap.get t.count 0 n.buf.toNat = SMap.get m.count 0 n.buf.toNat + 1
      ∧ SMap.get t.head 0 n.buf.toNat = SMap.get m.head 0 n.buf.toNat := by
  unfold mcenq
  dsimp only
  rw [hring, hbound, if_neg Bool.false_ne_true, if_neg Bool.false_ne_true, if_neg (Nat.not_le.mpr hroom)]
  exact ⟨_, rfl, SMap.get_set_self m.count 0 n.buf.toNat (SMap.get m.count 0 n.buf.toNat + 1), rfl⟩

/-- R330: the oldest element leaves the FIFO of a buffer. -/
theorem mcdeq_element (helem : 0 < SMap.get m.count 0 n.buf.toNat) :
    ∃ t, mcdeq n m = .ok (ncVal n (m.rd n.buf.toNat
        (SMap.get m.head 0 n.buf.toNat % bufElems (ncEsz n) * ncEsz n) (ncEsz n))) t
      ∧ SMap.get t.count 0 n.buf.toNat = SMap.get m.count 0 n.buf.toNat - 1
      ∧ SMap.get t.head 0 n.buf.toNat = (SMap.get m.head 0 n.buf.toNat + 1) % bufElems (ncEsz n) := by
  unfold mcdeq
  dsimp only
  rw [hring, hbound, if_neg Bool.false_ne_true, if_neg Bool.false_ne_true, if_neg (Nat.pos_iff_ne_zero.mp helem)]
  exact ⟨_, rfl, SMap.get_set_self m.count 0 n.buf.toNat _, SMap.get_set_self m.head 0 n.buf.toNat _⟩

end

/-! ### The nodes -/

section
variable {s : State} {k : NCtx} {n : NCF}

theorem exec_cellNode {i : Instr} {held : NCtx → Bool} {same : Instr → Bool} {act : NCtx → MCell → McRes}
    (h : Claims.cellNode i = some (n, held, same, act)) (s : State) : exec i s = fireNode s (mcOp n held same act) := by
  cases i with
  | mcld | mcst | mcenq | mcdeq =>
    cases h
    rfl
  | _ => cases h

/-- A memory-cell node that no pass and no earlier node holds up. -/
theorem mcOp_acts {held : NCtx → Bool} {same : Instr → Bool} {act : NCtx → MCell → McRes} {u : State} (hk : k.err = none)
    (hheld : held k = false) (hbehind : k.behind same u = false) : mcOp n held same act k u =
      match act k (k.p.mc n.mc.toNat) with
      | .err e => .fire (k.after (k.note e u) (k.tokens [n.t0, n.t1] (BitVec.ofNat 64 e) true))
      | .wait => .wait u
      | .ok v m => .fire (k.after (u.modMc k.c k.i n.mc.toNat (fun _ => m)) (k.tokens [n.t0, n.t1] v false)) := by
  refine (k.pass_value u _ hk).trans ?_
  rw [hheld, hbehind]
  cases act k (k.p.mc n.mc.toNat) with
  | err e => exact congrArg NRes.fire (k.both_eq _ n.t0 n.t1 _ true)
  | wait => rfl
  | ok v m => exact congrArg NRes.fire (k.both_eq _ n.t0 n.t1 v false)

/-- R323, R331: AGEN starts its generator. -/
theorem agen_starts {s1 : State} {l : Loc} (h : MayFire s k) (hk : k.err = none)
    (hat : s.unfocused.nodeFind (s.asidOf k.c) k.rd.l.toNat 64 useLoad = (s1, .at l)) :
    let r := s1.nodeLoad k.x.cluster k.p.slice l 64
    let d := (recDwords (leNat r.1)).take 8
    ((k.p.mc n.mc.toNat).gen n.buf.toNat).running = false → descBad (k.p.mc n.mc.toNat) d = false →
    Fires (.agen n) s k (k.after ((r.2.countMem k.c (tagIter k.fr.tag) 2).modMc k.c k.i n.mc.toNat (fun m =>
      m.startGen n.buf.toNat { genOf d with
        running := true, agen := some ⟨k.fr.cell, k.fr.no, k.fr.blk, k.rd.slot, k.fr.round, k.fr.tag⟩ }))
      (k.tokens [n.t0] 0 false)) := by
  intro r d hrun hbad
  have hat' : s.unfocused.nodeFind (s.unfocused.asidOf k.c) k.rd.l.toNat 64 useLoad = (s1, .at l) := hat
  have hs1 := congrArg Prod.fst hat ▸ s.unfocused.nodeFind_frame (s.asidOf k.c) k.rd.l.toNat 64 useLoad
  refine fires_of_fire (body := agenOp n) rfl h ((k.pass_value s.unfocused _ hk).trans ?_)
    (fitsRing_of_asids ((k.after_asids _ _).trans ?_))
  · dsimp only
    rw [hat']
    dsimp only
    rw [if_neg (Bool.eq_false_iff.mp hrun), if_neg (Bool.eq_false_iff.mp hbad), NCtx.send_eq]
  · exact (State.modMc_asids _ _ _ _ _).trans ((State.countMem_asids r.2 _ _ _).trans
      ((State.nodeLoad_asids s1 _ _ _ _).trans hs1.asids))

/-- R354: the feed that an MXJ puts into the matrix work. -/
def NCtx.feedItem (k : NCtx) (n : NCF) (s : State) : MxItem :=
  { kind := .feed ⟨k.i, n.mc.toNat, n.buf.toNat, ⟨k.fr.cell, k.fr.no, k.fr.blk, k.rd.slot, k.fr.round, k.fr.tag⟩,
      k.rd.l, k.rd.r⟩ (k.x.fmtEntry (hdrFa k.rd.l).toNat) (hdrFa k.rd.l).toNat
    target := fld n.arg 5 0, gang := tagIter k.fr.tag / 256, wave := tagIter k.fr.tag % 256 / 32
    vform := false, taddr := 0, voff := 0, site := none, iter := s.iterOf k.c (tagIter k.fr.tag), eqp := none
    after := s.now, headRead := false, rows := hdrM k.rd.l, out := [], flags := 0, written := 0, parked := none }

/-- R354: MXJ puts its feed last into the matrix work. -/
theorem mxj_puts {g : Geometry} (h : MayFire s k) (hk : k.err = none) (hg : k.x.geometry = some g)
    (hcol : fld n.arg 5 0 < g.nb) (hfmt : arrayFmt k.x g (hdrFa k.rd.l) = none)
    (hbad : badHeader g (k.p.mc n.mc.toNat) n.buf.toNat k.rd.l k.rd.r = false)
    (hwait : k.x.fmtWaits (hdrFa k.rd.l).toNat = false)
    (hheld : ∀ a ∈ n.buf.toNat :: hdrOperand g k.rd.l ++ hdrScales g k.rd.l, k.x.bufHeld k.i n.mc.toNat a = false) :
    ∃ i : MxItem, Fires (.mxj n) s k (s.unfocused.modCrew k.c (fun x => { x with mx := x.mx ++ [i] }))
      ∧ i.kind = .feed ⟨k.i, n.mc.toNat, n.buf.toNat,
            ⟨k.fr.cell, k.fr.no, k.fr.blk, k.rd.slot, k.fr.round, k.fr.tag⟩, k.rd.l, k.rd.r⟩
          (k.x.fmtEntry (hdrFa k.rd.l).toNat) (hdrFa k.rd.l).toNat
      ∧ i.target = fld n.arg 5 0 ∧ i.rows = hdrM k.rd.l ∧ i.headRead = false ∧ i.parked = none := by
  have hnone : ¬ (n.buf.toNat :: hdrOperand g k.rd.l ++ hdrScales g k.rd.l).any (k.x.bufHeld k.i n.mc.toNat) = true :=
    Bool.eq_false_iff.mp (List.any_eq_false.mpr fun a ha => Bool.eq_false_iff.mp (hheld a ha))
  refine ⟨k.feedItem n s.unfocused, fires_of_fire (body := mxjOp n) rfl h ((k.pass_value s.unfocused _ hk).trans ?_)
    (fitsRing_of_asids (State.modCrew_asids _ _ _)), rfl, rfl, rfl, rfl, rfl⟩
  dsimp only
  rw [hg]
  dsimp only
  rw [if_neg (Nat.not_le.mpr hcol), if_neg (Bool.eq_false_iff.mp hwait), hfmt]
  dsimp only
  rw [if_neg (Bool.eq_false_iff.mp hbad), if_neg hnone]
  rfl

/-- R355: MXOUT converts an accumulator buffer into another. -/
theorem mxout_converts (h : MayFire s k) (hk : k.err = none) :
    let fd : BitVec 6 := n.arg.extractLsb' 0 6
    let w := k.x.fmtEntry fd.toNat
    let ob := fld n.arg 12 9
    let mode := k.mode s.unfocused (fld n.arg 8 6)
    let rs := (List.range 256).map (fun e =>
      roundFmt (fmtOf w) mode (decodeV f32 ((k.p.mc n.mc.toNat).rd n.buf.toNat (4 * e) 4)))
    fmtInvalid k.x fd = none → fmtW w ≤ 32 → k.x.fmtWaits fd.toNat = false →
    k.x.accHeld k.i n.mc.toNat n.buf.toNat = false → k.x.accHeld k.i n.mc.toNat ob = false → (∀ r ∈ rs, r.fault = false) →
    ∃ u, Fires (.mxout n) s k (k.after u (k.tokens [n.t0, n.t1] k.rd.l false))
      ∧ u = ((s.unfocused.modMc k.c k.i n.mc.toNat (fun m => ((List.range 256).zip rs).foldl (fun m (e : Nat × RRes) =>
          m.wr ob (fmtPartW (fmtW w) / 8 * e.1) (fmtPartW (fmtW w) / 8) e.2.pat) m)).roundFlags k.c k.x k.fr.round
          (tagIter k.fr.tag) (rs.foldl (fun fl r => fl ||| r.fl) 0)) := by
  intro fd w ob mode rs hvalid hw hwait hacc hob hfault
  have hnone : ¬ rs.any (fun r => r.fault) = true :=
    Bool.eq_false_iff.mp (List.any_eq_false.mpr fun r hr => Bool.eq_false_iff.mp (hfault r hr))
  have hfirst : firstErr [fmtInvalid k.x fd, if 32 < fmtW w then some ⟨3, fd.toNat⟩ else none] = none := by
    rw [hvalid, if_neg (Nat.not_lt.mpr hw)]
    rfl
  refine ⟨_, fires_of_fire (body := mxoutOp n) rfl h ((k.pass_value s.unfocused _ hk).trans ?_)
    (fitsRing_of_asids ((k.after_asids _ _).trans ((State.roundFlags_asids _ _ _ _ _ _).trans (State.modMc_asids _ _ _ _ _)))), rfl⟩
  dsimp only
  rw [if_neg (Bool.eq_false_iff.mp hwait), hfirst]
  dsimp only
  rw [hacc, hob, if_neg (by decide), if_neg hnone, NCtx.both_eq]

end

/-- Settles O39: the nodes of memory cells, generators and the matrix array. -/
theorem nodeCells : Obligations.NodeCells := by
  refine ⟨fun i n held same act hi s k h hk hheld hbehind => ?_, fun n idx val m hring hbound => ?_,
    fun n s s1 k l h hk hat => agen_starts h hk hat, fun n s k g h hk hg => ?_, fun n s k h hk => mxout_converts h hk⟩
  · have hop := mcOp_acts (n := n) (act := act) (u := s.unfocused) hk hheld hbehind
    refine ⟨fun v m hact => fires_of_fire (exec_cellNode hi s) h (hop.trans (by rw [hact])) (fitsRing_of_asids (by simp)),
      fun e hact => fires_of_fire (exec_cellNode hi s) h (hop.trans (by rw [hact])) (fitsRing_of_asids (by simp))⟩
  · intro b z i
    have hld := mcld_plain hring hbound idx
    have hst := mcst_plain hring hbound idx val
    refine ⟨fun hi => ⟨hld.trans (if_pos hi), hst.trans (if_pos hi)⟩, fun hi hfull => ?_, fun hi hfull => ?_,
      fun hi => hst.trans (if_neg (Nat.not_le.mpr hi)), mcenq_room hring hbound val, mcdeq_element hring hbound⟩
    · exact hld.trans ((if_neg (Nat.not_le.mpr hi)).trans (if_pos (by rw [hfull]; rfl)))
    · exact hld.trans ((if_neg (Nat.not_le.mpr hi)).trans (if_neg (by rw [hfull]; decide)))
  · intro h' col b hcol hfmt hbad hwait hheld
    exact mxj_puts h hk hg hcol hfmt hbad hwait hheld

end Sys2Proof.Machine
end

section
/-! The fabric at work: flits that arrive at a bay, and what a cell does with a token (R264, R287, R291, R304). -/

namespace Sys2Proof.Machine

/-! ### Places -/

/-- One change of a place after another. -/
theorem State.modPlace_comp (s : State) (c : CrewId) (i : Nat) (f g : Place → Place) :
    (s.modPlace c i f).modPlace c i g = s.modPlace c i (fun p => g (f p)) := by
  refine (State.modCrew_comp s c _ _).trans ?_
  simp only [Option.map_map]
  refine congrArg (s.modCrew c) (funext fun x => ?_)
  cases x.region with
  | none => rfl
  | some r =>
    have h : (r.places.modify i f).modify i g = r.places.modify i (g ∘ f) := List.modify_modify_eq f g i r.places
    simp only [Option.map_some, Function.comp_apply, h]
    rfl

/-- What a frame that accepted a token does next is one change of its place. -/
theorem State.accepted_modPlace (s : State) (c : CrewId) (i : Nat) (f : Frame) (g : Place → Place) :
    (s.accepted c i f).modPlace c i g = s.modPlace c i (fun p => g (p.modFrame f.cell f.no (fun f =>
      { f with touched := s.now, arrived := min (f.arrived + 1) 65535 }))) :=
  s.modPlace_comp c i _ g

/-! ### A cell takes a token -/

section
variable {s : State} {c : CrewId} {kn : Kernel} {i : Nat} {p : Place} {f : Frame} {slot : Nat} {port err : Bool}
  {v : Dword} {entry : Bool}

theorem accept2_joinc {n : NDF} (h : kn.node? p.paddock f.blk slot = some (.joinc n)) :
    s.accept2 c kn i p f slot port err v entry
      = if port then s else (s.accepted c i f).modPlace c i (joinTok f slot n.imm.toNat err v) := by
  rw [State.accept2, h]

/-- R287: what a cell does with a token for a node other than JOINC. -/
theorem accept2_node {nd : Instr} (h : kn.node? p.paddock f.blk slot = some nd) (hj : ∀ n, nd ≠ .joinc n) :
    s.accept2 c kn i p f slot port err v entry =
      if !twoOperand nd then (s.accepted c i f).modPlace c i (fun p => p.enqueue f slot v err 0 false entry)
      else if f.presence.getLsbD (2 * slot + (if port then 1 else 0)) then s.nodeFault c p 2 f.tag f.blk slot none
      else if f.presence.getLsbD (2 * slot + (if port then 0 else 1)) then
        (s.accepted c i f).modPlace c i (fun q =>
          (q.modFrame f.cell f.no (fun g => { g with
            presence := setBit g.presence (2 * slot + (if port then 0 else 1)) false
            errs := setBit g.errs (2 * slot + (if port then 0 else 1)) false
            slots := SMap.set g.slots 0 (2 * slot + (if port then 0 else 1)) 0 })).enqueue f slot
            (if port then SMap.get f.slots 0 (2 * slot + (if port then 0 else 1)) else v)
            (if port then f.errs.getLsbD (2 * slot + (if port then 0 else 1)) else err)
            (if port then v else SMap.get f.slots 0 (2 * slot + (if port then 0 else 1)))
            (if port then err else f.errs.getLsbD (2 * slot + (if port then 0 else 1))) false)
      else
        (s.accepted c i f).modPlace c i (fun q => q.modFrame f.cell f.no (fun g => { g with
          presence := setBit g.presence (2 * slot + (if port then 1 else 0)) true
          errs := setBit g.errs (2 * slot + (if port then 1 else 0)) err
          slots := SMap.set g.slots 0 (2 * slot + (if port then 1 else 0)) v })) := by
  unfold State.accept2
  rw [h]
  cases nd
  case joinc n => exact absurd rfl (hj n)
  all_goals rfl
end

theorem tokenAccepted : Claims.TokenAccepted := by
  intro s c kn i p f slot port err v entry put here other
  refine ⟨fun h => ?_, fun n h => ?_, fun nd h hj => ?_⟩
  · rw [State.accept2, h]
  · rw [accept2_joinc h, State.accepted_modPlace]
  rw [accept2_node h hj]
  simp only [State.accepted_modPlace]
  refine ⟨fun h2 => ?_, fun h2 hh => ?_, fun h2 hh ho => ?_, fun h2 hh ho => ?_⟩
  · rw [h2]; rfl
  · rw [h2]; exact if_pos hh
  · rw [h2]; exact (if_neg (Bool.eq_false_iff.mp hh)).trans (if_neg (Bool.eq_false_iff.mp ho))
  · rw [h2]; exact (if_neg (Bool.eq_false_iff.mp hh)).trans (if_pos ho)

/-! ### Flits that arrive -/

section
variable {s : State} {c : CrewId} {k : Nat} {x : Crew} {kn : Kernel}

@[simp] theorem State.dropFlit_asids (s : State) (c : CrewId) (k : Nat) : (s.dropFlit c k).asids = s.asids :=
  State.modCrew_asids s c _

@[simp] theorem State.parkFlit_asids (s : State) (c : CrewId) (k : Nat) (f : Flit) (paddock : Nat) (i : Option Nat) :
    (s.parkFlit c k f paddock i).asids = s.asids :=
  (State.modCrew_asids _ c _).trans (s.dropFlit_asids c k)

/-- A step that changes no ring has room for its records: it raises none. -/
theorem ringFits_of_asids {t : State} {a : Nat} (h : t.asids = s.asids) : ringFits a s t := by
  rw [ringFits, State.asid, h]
  exact Nat.le_refl _

section
variable (hx : s.crew? c = some x) (hk : s.kernel? c = some kn) (hm : mayArrive x kn k = true)
include hx hk hm

theorem tokenArrive_drain {q : Sender} {i : Nat} {p : Place} (hf : x.flight[k]? = some (.drain q i)) (hp : x.spot? i = some p)
    (hr : p.state = .resident) : exec (.tokenArrive c k) s
      = .next ((s.dropFlit c k).modPlace c i (fun p => { p with drainHere := BitVec.allOnes 16 })) := by
  show execTokenArrive c k s = _
  unfold execTokenArrive
  simp only [hx, hk, hf, hm, hp, hr, Bool.not_true, Bool.false_eq_true, if_false, beq_self_eq_true, if_true]
  exact State.unlessFull_of_fits (ringFits_of_asids (by simp))

theorem tokenArrive_token {t : Tok} {u : State} (hf : x.flight[k]? = some (.token t))
    (ha : arriveToken s c k x kn t = .next u) (hfit : ringFits (s.asidOf c) s u) : exec (.tokenArrive c k) s = .next u := by
  show execTokenArrive c k s = _
  unfold execTokenArrive
  simp only [hx, hk, hf, hm, Bool.not_true, Bool.false_eq_true, if_false, ha]
  exact State.unlessFull_of_fits hfit

theorem frameEntry_at {e : Ent} {i : Nat} {p : Place} {u : State} (hf : x.flight[k]? = some (.entry e))
    (hg : x.goes kn e.place e.paddock = .at i p) (ha : enterAt s c k x kn e i p = .next u)
    (hfit : ringFits (s.asidOf c) s u) : exec (.frameEntry c k) s = .next u := by
  show execFrameEntry c k s = _
  unfold execFrameEntry
  simp only [hx, hk, hf, hm, Bool.not_true, Bool.false_eq_true, if_false, hg, ha]
  exact State.unlessFull_of_fits hfit

/-- R264: a flit that goes to no resident place is routed away by either step. -/
theorem arrives_away {f : Flit} {q : Option Nat × Nat} {u : State} (hf : x.flight[k]? = some f) (hq : f.aim = some q)
    (hg : ∀ i p, x.goes kn q.1 q.2 ≠ .at i p) (ha : routeAway s c k x f q.2 (x.goes kn q.1 q.2) = .next u)
    (hfit : ringFits (s.asidOf c) s u) :
    exec (.tokenArrive c k) s = .next u ∧ ((∃ e, f = .entry e) → exec (.frameEntry c k) s = .next u) := by
  cases f with
  | drain _ _ => cases hq
  | token t =>
    cases hq
    refine ⟨tokenArrive_token hx hk hm hf ?_ hfit, fun ⟨e, he⟩ => by cases he⟩
    unfold arriveToken
    split
    next i p h => exact absurd h (hg i p)
    next => exact ha
  | entry e =>
    cases hq
    refine ⟨?_, fun _ => ?_⟩
    · show execTokenArrive c k s = _
      unfold execTokenArrive
      simp only [hx, hk, hf, hm, Bool.not_true, Bool.false_eq_true, if_false]
      exact (congrArg (s.unlessFull _) ha).trans (State.unlessFull_of_fits hfit)
    · show execFrameEntry c k s = _
      unfold execFrameEntry
      simp only [hx, hk, hf, hm, Bool.not_true, Bool.false_eq_true, if_false]
      exact (congrArg (s.unlessFull _) ha).trans (State.unlessFull_of_fits hfit)
end

section
variable {i : Nat} {p : Place}

theorem arriveToken_frame {t : Tok} {fr : Frame} {u : State} (hg : x.goes kn t.place t.paddock = .at i p)
    (hs : p.shut t.cell = false) (hfr : p.frame? t.cell t.frame = some fr) (hr : fr.resident = true)
    (hl : s.letIn c x i (.token t) p = some u) : arriveToken s c k x kn t
      = .next (((u.dropFlit c k).countHops c x (.token t) p).accept2 c kn i p fr t.slot t.port t.err t.value false) := by
  unfold arriveToken
  simp only [hg, hs, hfr, hr, hl, Bool.not_true, Bool.false_eq_true, if_false]

theorem arriveToken_stale {t : Tok} (hg : x.goes kn t.place t.paddock = .at i p) (hs : p.shut t.cell = false)
    (hfr : p.frame? t.cell t.frame = none) : arriveToken s c k x kn t
      = .next ((s.dropFlit c k).nodeFault c p 3 (rootTag (Flit.kj (.token t) x)) t.blk t.slot none) := by
  unfold arriveToken
  simp only [hg, hs, hfr, Bool.false_eq_true, if_false]

variable {e : Ent} {u : State} (hs : p.shut (cellOf e.tag e.blk) = false) (hl : s.letIn c x i (.entry e) p = some u)
include hs hl

theorem enterAt_frame {fr : Frame} (hfr : p.key? e.blk e.tag = some fr) (hr : fr.resident = true) :
    enterAt s c k x kn e i p = .next
      ((((u.dropFlit c k).countHops c x (.entry e) p).enterFrame c i fr e.round).1.accept2 c kn i p
        (((u.dropFlit c k).countHops c x (.entry e) p).enterFrame c i fr e.round).2 e.slot e.port e.err e.value e.start) := by
  unfold enterAt
  simp only [hs, hl, hfr, hr, Bool.not_true, Bool.false_eq_true, if_false]

theorem enterAt_new {v w : State} {no : Nat} (hfr : p.key? e.blk e.tag = none)
    (hh : s.cellHeld p.slice p.bay (cellOf e.tag e.blk) = false) (hu : getUnit u c i p (cellOf e.tag e.blk) = .ok v)
    (hn : freeFrameNo v p (cellOf e.tag e.blk) = (some no, w)) : enterAt s c k x kn e i p = .next
      ((((w.dropFlit c k).countHops c x (.entry e) p).modPlace c i (fun p =>
        { p with frames := p.frames ++ [Frame.new (cellOf e.tag e.blk) no s.now e] })).accept2 c kn i p
          (Frame.new (cellOf e.tag e.blk) no s.now e) e.slot e.port e.err e.value e.start) := by
  unfold enterAt
  simp only [hs, hl, hfr, hh, hu, hn, Bool.false_eq_true, if_false]
end
end

theorem flitsArrive : Claims.FlitsArrive := by
  intro s c k x kn hx hk hm fits
  refine ⟨fun q i p hf hp hr => tokenArrive_drain hx hk hm hf hp hr, fun t i p hf hg hs => ⟨?_, ?_⟩,
    ?_, fun f q hf hq => ?_⟩
  · intro fr u hfr hr hl E hfit
    exact tokenArrive_token hx hk hm hf (arriveToken_frame hg hs hfr hr hl) hfit
  · intro hfr E hfit
    exact tokenArrive_token hx hk hm hf (arriveToken_stale hg hs hfr) hfit
  · intro e i p u hf hg cell hs hl
    refine ⟨?_, ?_⟩
    · intro fr hfr hr v E hfit
      exact frameEntry_at hx hk hm hf hg (enterAt_frame hs hl hfr hr) hfit
    · intro v no w hfr hh hu hn fr E hfit
      exact frameEntry_at hx hk hm hf hg (enterAt_new hs hl hfr hh hu hn) hfit
  intro both
  refine ⟨fun hg => ?_, fun i p hg hroom => ?_⟩
  · intro hfit
    refine arrives_away hx hk hm hf hq (fun i p h => by rw [hg] at h; cases h) ?_ hfit
    rw [hg]
    rfl
  · intro hfit
    refine arrives_away hx hk hm hf hq (fun i p h => by rw [hg] at h; cases h) ?_ hfit
    rw [hg]
    exact if_pos hroom

/-- Settles O40, by the branch of TOKEN_ARRIVE or FRAME_ENTRY that each kind of flit takes. -/
theorem flitArrivals : Obligations.FlitArrivals := ⟨flitsArrive, tokenAccepted⟩

end Sys2Proof.Machine
end

section
/-! PROOFS. The refill of a frame that evicts another one of its place, and the statement about the steps of a place that it
refutes (R292, R293). -/

namespace Sys2Proof.Machine

/-- FRAME_REFILL reads the image where it lies before a unit is obtained: `q` is the place as the step finds it. -/
theorem frameRefill_ok {s u : State} {c : CrewId} {i cell no slot : Nat} {x : Crew} {kn : Kernel} {q : Place} {fr : Frame}
    (hx : s.crew? c = some x) (hk : s.kernel? c = some kn) (hq : x.spot? i = some q) (hfr : q.frame? cell no = some fr)
    (hres : fr.resident = false) (hst : q.state = .resident) (hh : s.cellHeld q.slice q.bay cell = false)
    (hw : x.waitsFor kn i q fr = some slot) (hecc : s.eccHbm (x.imageAt i q fr) 1152 = false)
    (hu : getUnit s c i q cell = .ok u) :
    exec (.frameRefill c i cell no) s = .next (u.modPlace c i (fun p => p.modFrame cell no (fun f =>
      { f.ofImage (s.physBytes (x.imageAt i q fr) 1152) with resident := true, touched := s.now }))) := by
  show execFrameRefill c i cell no s = _
  unfold execFrameRefill
  simp only [hx, hk, hq, hfr, hres, hst, hh, hw, hecc, hu, bne_self_eq_false, Bool.or_self, Bool.false_eq_true, if_false]

/-- Frame 1 of cell 0, spilled. -/
def spilledFrame : Frame := { probeFrame with no := 1, resident := false }

/-- A place whose cell 0 has frame 0 resident, and frame 1 spilled with a ready node. -/
def spillPlace : Place :=
  { probePlace with frames := [probeFrame, spilledFrame], ready := [⟨0, 1, 0, 0, 0, false, 0, false, false, none⟩] }

def spillCrew : Crew := { Crew.start 0 1 0 false [] 0 0 0 with region := some ⟨1, 1, [spillPlace], true, true⟩ }

/-- A crew with that place, on a cluster that lets a context hold one frame of a cell; its backwater lies at address 0, and
the first byte, of the image of frame 1, is 1. -/
def spillState : State :=
  (((State.reset.setLaunch 0 (probeLaunch (probeKernel 0))).setCrew probeCrew spillCrew).modCluster 0 (fun c =>
    { c with fqmax := [(0, 1)] })).setMem (Memory.setByte [] 0 1)

/-- Frame 0 goes to the backwater, for the unit that frame 1 needs. -/
def spillEvicted : State :=
  spillState.modPlace probeCrew 0 (fun p => p.modFrame 0 0 (fun f => { f with resident := false }))

/-- The tag of frame 1 of the place. -/
def spillTag (o : Out) : Option Dword :=
  match o with
  | .next t => (((t.crew? probeCrew).bind (fun x => x.spot? 0)).bind (fun p => p.frame? 0 1)).map (fun f => f.tag)
  | _ => none

theorem spill_crew : spillState.crew? probeCrew = some spillCrew := by decide

theorem spill_evicts : oldest (spillPlace.evictable (spillState.kernel? probeCrew) 0) = some probeFrame := by decide

/-- The context holds the one frame that its cluster allows it, and the backwater has room for it. -/
theorem spill_getUnit : getUnit spillState probeCrew 0 spillPlace 0 = .ok spillEvicted := by
  have hquota : SMap.get (spillState.cluster spillPlace.slice).fqmax 42 (4 * spillPlace.bay + spillPlace.ctx)
      ≤ (spillPlace.frames.filter (fun f => f.resident && f.cell == 0)).length := by decide
  have hroom : bwRoom spillCrew 0 spillPlace 1152 = true := by decide
  unfold getUnit
  dsimp only
  rw [if_pos hquota, spill_evicts]
  show evict spillState probeCrew 0 spillPlace probeFrame = _
  rw [evict, spill_crew]
  exact if_pos hroom

/-- The place once frame 0 is in the backwater. -/
def evictedPlace : Place := spillPlace.modFrame 0 0 (fun f => { f with resident := false })

/-- Frame 1 comes back with the tag that the bytes hold. -/
theorem spill_tag (b : Place → List Byte) : spillTag (.next (spillEvicted.modPlace probeCrew 0 (fun p => p.modFrame 0 1 (fun f =>
    { f.ofImage (b p) with resident := true, touched := spillState.now }))))
      = some ((BitVec.ofNat 64 (imgNat (b evictedPlace) 0 8)).extractLsb' 0 62 |>.setWidth 64) := by
  rfl

/-- The first doubleword of an image in HBM. -/
theorem imgNat_physBytes (s : State) (a n : Nat) (h : 8 ≤ n) : imgNat (s.physBytes a n) 0 8 = s.physLe a 8 := by
  rw [imgNat, List.drop_zero, State.physBytes, ← List.map_take, List.take_range, Nat.min_eq_left h]
  rfl

/-- Refutes O41: where the unit for the frame comes from another frame of its place, that frame's image is put before its
own, and the statement reads the image where it would lie then, while the frame comes back from where it lay. -/
theorem not_placeEvents : ¬ Obligations.PlaceEvents := by
  intro h
  have hclaim := h.2.1 spillState spillEvicted probeCrew 0 0 1 spillCrew (probeKernel 0) spillPlace spilledFrame spill_crew
    (by decide) (by decide) (by decide) (by decide) (by decide) (by decide) (.inr (by decide)) (by decide) spill_getUnit
  have hmodel := frameRefill_ok (slot := 0) (kn := probeKernel 0) spill_crew (by decide) (q := spillPlace) (cell := 0) (no := 1)
    (fr := spilledFrame) (i := 0) (by decide) (by decide) (by decide) (by decide) (by decide) (by decide) (by decide) spill_getUnit
  have htag := congrArg spillTag (hclaim.symm.trans hmodel)
  rw [spill_tag (fun p => spillState.physBytes (spillCrew.imageAt 0 p spilledFrame) 1152),
    spill_tag (fun _ => spillState.physBytes (spillCrew.imageAt 0 spillPlace spilledFrame) 1152),
    imgNat_physBytes _ _ _ (by decide), imgNat_physBytes _ _ _ (by decide)] at htag
  exact absurd htag (by decide)

end Sys2Proof.Machine
end

section
/-! PROOFS. The weir, the rounds, and a paddock at rest (R278, R298, R314 to R318). -/

namespace Sys2Proof.Machine

/-! ### Accesses that arrive at the weir (R314, R315) -/

@[simp] theorem State.reply_asids (s : State) (c : CrewId) (pad : Nat) (e : WEntry) (v : Dword) (err : Bool) :
    (s.reply c pad e v err).asids = s.asids := by
  unfold State.reply
  split
  · exact s.sendFlit_asids c _
  · rfl

@[simp] theorem State.dropEntry_asids (s : State) (c : CrewId) (pad : Nat) (e : WEntry) :
    (s.dropEntry c pad e).asids = s.asids :=
  (State.modCrew_asids _ c _).trans (s.modChain_asids c pad _)

@[simp] theorem State.passed_asids (s : State) (c : CrewId) (pad : Nat) (kn : Kernel) (e : WEntry) :
    (s.passed c pad kn e).asids = s.asids := s.modChain_asids c pad _

/-- An access takes its entry in the weir. -/
def State.putEntry (s : State) (c : CrewId) (t : Transit) : State :=
  s.modChain c t.paddock (fun ch => { ch with entries := ch.entries ++ [t.entry] })

/-- R314: what answers an access at once, a quiet one by nothing. -/
def State.answer (s : State) (c : CrewId) (t : Transit) (d : Dword) : State :=
  if t.entry.quiet then s else s.reply c t.paddock t.entry d false

@[simp] theorem State.putEntry_asids (s : State) (c : CrewId) (t : Transit) : (s.putEntry c t).asids = s.asids :=
  s.modChain_asids c t.paddock _

@[simp] theorem State.answer_asids (s : State) (c : CrewId) (t : Transit) (d : Dword) :
    (s.answer c t d).asids = s.asids := by
  unfold State.answer
  split
  · rfl
  · exact s.reply_asids c _ _ _ _

section
variable {s : State} {c : CrewId} {k : Nat} {x : Crew} {t : Transit} {ch : Chain} (hx : s.crew? c = some x)
  (ht : x.transit[k]? = some t) (hch : x.chains.find? (fun ch => ch.paddock == t.paddock) = some ch)
  (hroom : ch.entries.length < ch.depth)
include hx ht hch hroom

theorem weirArrive_mnop (hkind : t.entry.kind = .mnop) : exec (.weirArrive c k) s = .next
    (((s.modCrew c (fun x => { x with transit := x.transit.eraseIdx k })).putEntry c t).answer c t t.entry.addr) := by
  show execWeirArrive c k s = _
  unfold execWeirArrive
  simp only [hx, ht, hch, if_neg (Nat.not_le.mpr hroom), hkind, beq_self_eq_true, if_true]
  exact State.unlessFull_of_fits (ringFits_of_asids ((State.answer_asids _ c t t.entry.addr).trans (by simp)))

/-- An access that finds its home takes its entry, and only a store is answered. -/
theorem weirArrive_at {v : State} {l : Loc} (hkind : t.entry.kind ≠ .mnop)
    (hat : (s.modCrew c (fun x => { x with transit := x.transit.eraseIdx k })).nodeFind
      ((s.modCrew c (fun x => { x with transit := x.transit.eraseIdx k })).asidOf c) t.entry.addr.toNat t.entry.sz
      { t.entry.use with a := false, d := false } = (v, .at l)) :
    exec (.weirArrive c k) s
      = .next (if t.entry.kind = .cst then (v.putEntry c t).answer c t t.entry.data else v.putEntry c t) := by
  have hasids : v.asids = s.asids :=
    ((congrArg Prod.fst hat ▸ State.nodeFind_frame _ _ _ _ _ : FindFrame _ v).asids).trans (State.modCrew_asids s c _)
  have hkind' : (t.entry.kind == .mnop) = false := beq_false_of_ne hkind
  show execWeirArrive c k s = _
  unfold execWeirArrive
  simp only [hx, ht, hch, if_neg (Nat.not_le.mpr hroom), hkind', hat, Bool.false_eq_true, if_false]
  cases hk : t.entry.kind with
  | mnop => exact absurd hk hkind
  | cst =>
    exact State.unlessFull_of_fits (ringFits_of_asids ((State.answer_asids (v.putEntry c t) c t t.entry.data).trans
      ((v.putEntry_asids c t).trans hasids)))
  | cld =>
    simp only [ite_self]
    exact State.unlessFull_of_fits (ringFits_of_asids (by simp [hasids]))
  | catom =>
    simp only [ite_self]
    exact State.unlessFull_of_fits (ringFits_of_asids (by simp [hasids]))
end

/-! ### The cursor (R312, R314) -/

theorem Chain.move_paddock {kn : Kernel} {ch ch' : Chain} (h : ch.move kn = some ch') : ch'.paddock = ch.paddock := by
  unfold Chain.move at h
  dsimp only at h
  split at h
  case h_1 =>
    obtain ⟨a, -, rfl⟩ := Option.map_eq_some_iff.mp h
    rfl
  all_goals
    repeat' split at h
    all_goals cases h
    all_goals rfl

theorem Chain.advance_paddock (kn : Kernel) (n : Nat) (ch : Chain) : (ch.advance kn n).paddock = ch.paddock := by
  induction n generalizing ch with
  | zero => rfl
  | succ n ih =>
    unfold Chain.advance
    split
    next ch2 h => rw [ih, Chain.move_paddock h]
    next => rfl

theorem Chain.settled_paddock (kn : Kernel) (ch : Chain) : (ch.settled kn).paddock = ch.paddock :=
  Chain.advance_paddock kn _ ch

section
variable {s : State} {c : CrewId} {pad : Nat} {x : Crew} {kn : Kernel} {ch : Chain} {e : WEntry} (hx : s.crew? c = some x)
  (hk : s.kernel? c = some kn) (hch : x.chains.find? (fun ch => ch.paddock == pad) = some ch)
  (hn : (ch.settled kn).next? = some e) (hh : s.nodesHeld c = false) (hst : s.crewStopped c = false)
  (hb : weirBreaks s c kn e = [])
include hx hk hch hn hh hst hb

/-- R314: the cursor passes the access that it waits for. -/
theorem weirRelease_entry : exec (.weirRelease c pad) s = s.unlessFull (s.asidOf c)
    (releaseEntry (s.modChain c pad (fun _ => ch.settled kn)) c x (ch.settled kn) kn e) := by
  generalize hu : s.modChain c pad (fun _ => ch.settled kn) = u
  have hgangs : u.gangs = s.gangs := hu ▸ State.modCrew_gangs s c _
  have hlaunches : u.launches = s.launches := hu ▸ State.modCrew_launches s c _
  have hasids : u.asids = s.asids := hu ▸ State.modCrew_asids s c _
  have hh' : u.nodesHeld c = false := by
    rw [← hh, State.nodesHeld, State.nodesHeld, State.allStill, State.allStill, hgangs]
  have hlaunch (n : Nat) : u.launch? n = s.launch? n := by rw [State.launch?, hlaunches]; rfl
  have hjob (a : Nat) : u.asid a = s.asid a := by rw [State.asid, hasids]; rfl
  have hasid : u.asidOf c = s.asidOf c := by rw [State.asidOf, hlaunch]; rfl
  have hst' : u.crewStopped c = false := by rw [← hst, State.crewStopped, hasid, hjob]; rfl
  have hb' : weirBreaks u c kn e = [] := by rw [← hb, weirBreaks, hasid, hjob, State.iterOf, hlaunch]; rfl
  have hfull (o : Out) : u.unlessFull (u.asidOf c) o = s.unlessFull (s.asidOf c) o := by
    unfold State.unlessFull
    simp only [hasid, hjob]
  show execWeirRelease c pad s = _
  unfold execWeirRelease
  simp only [hx, hk, hch, hn, hu, hh', hst', hb', hfull, Bool.or_self, Bool.false_eq_true, if_false, List.isEmpty_nil, if_true]
end

/-! ### The rounds (R298, R318) -/

section
variable {s : State} {c : CrewId} {k : Nat} {x : Crew} {kn : Kernel} {r : Round} (hx : s.crew? c = some x)
  (hk : s.kernel? c = some kn) (hr : x.rounds[k]? = some r) (hopen : r.open_ = false) (hcom : r.committed = false)
  (hheld : s.roundsHeld c r.iter = false) (hst : s.crewStopped c = false)
  (hfirst : ∀ q ∈ x.rounds.take k, q.committed = true
    ∨ (r.iter ≤ q.iter ∧ ¬(q.paddock = r.paddock ∧ x.chained r.paddock = true)))
include hfirst

theorem comesFirst_none : (x.rounds.take k).any (x.comesFirst r) = false := by
  rw [List.any_eq_false]
  intro q hq
  rw [Crew.comesFirst]
  obtain h | ⟨hle, hne⟩ := hfirst q hq
  · simp [h]
  · simpa [Nat.not_lt.mpr hle] using fun _ => hne

include hx hk hr hopen hcom hheld hst

theorem roundCommit_errors (he : r.errors ≠ []) (hroom : s.ringRoom (s.asidOf c) = true) :
    exec (.roundCommit c k) s = .next (commitErrors s c r) := by
  have he' : r.errors.isEmpty = false := by simpa using he
  show execRoundCommit c k s = _
  unfold execRoundCommit
  simp only [hx, hk, hr, hopen, hcom, hheld, hst, comesFirst_none hfirst, he', hroom, Bool.or_self, Bool.not_false,
    Bool.false_eq_true, if_false, if_true]

theorem roundCommit_all {t : State} (he : r.errors = []) (hw : x.walked kn r = true)
    (hfree : r.remount = true → x.freeOpen kn (fun n => n == r.id) = false)
    (hs : performStores c r.paddock (x.heldStores r.paddock r.id) s = .all t)
    (hfit : ringFits (s.asidOf c) s ((commitRest t c r).endStop (s.asidOf c))) :
    exec (.roundCommit c k) s = .next ((commitRest t c r).endStop (s.asidOf c)) := by
  have hfree' : (r.remount && x.freeOpen kn (fun n => n == r.id)) = false := by
    cases hrem : r.remount with
    | false => rfl
    | true => rw [hfree hrem]; rfl
  show execRoundCommit c k s = _
  unfold execRoundCommit
  simp only [hx, hk, hr, hopen, hcom, hheld, hst, comesFirst_none hfirst, he, hw, hfree', hs, Bool.or_self,
    List.isEmpty_nil, Bool.not_true, Bool.false_eq_true, if_false]
  exact State.unlessFull_of_fits hfit
end

/-- R298: what the commit of a round that is no remount start leaves. -/
theorem commitRest_plain {s : State} {c : CrewId} {r : Round} {x : Crew} {w : Wave} (hrem : r.remount = false)
    (hx : s.crew? c = some x) (hsaved : x.saved = false) (hw : s.wave? (kjWave c r.iter) = some w) :
    commitRest s c r = (s.setWave (kjWave c r.iter) (w.orFlags r.flags)).setCrew c { x with
      results := x.results ++ r.results
      rounds := x.rounds.map (fun y => if y.id = r.id then { y with committed := true, flags := 0, results := [] } else y) } := by
  have hflags : s.modSaved (kjWave c r.iter) r.flags (fun w => w.orFlags r.flags)
      = s.setWave (kjWave c r.iter) (w.orFlags r.flags) := by
    have hmod : s.modWave (kjWave c r.iter) (fun w => w.orFlags r.flags) = s.setWave (kjWave c r.iter) (w.orFlags r.flags) :=
      State.modWave_some _ hw
    have hc : s.crew? (kjWave c r.iter).crew = some x := hx
    unfold State.modSaved
    rw [hc, hmod]
    split
    next y z hy hz =>
      cases hy
      exact if_neg (Bool.eq_false_iff.mp hsaved)
    next => rfl
  have hx' : (s.setWave (kjWave c r.iter) (w.orFlags r.flags)).crew? c = some x := hx
  rw [commitRest, hflags, State.modRound,
    State.modCrew_comp, State.modCrew_some _ hx', afterCommit, hrem]
  simp only [beq_iff_eq]
  rfl

section
variable {s : State} {c : CrewId} {k : Nat} {x : Crew} {r : Result} {wv : Wave} {q : Nat × Recv} (hx : s.crew? c = some x)
  (hsaved : x.saved = false) (hr : x.results[k]? = some r)
  (hfirst : ∀ y ∈ x.results.take k, ¬(y.paddock = r.paddock ∧ y.port = r.port ∧ y.iter = r.iter))
  (hw : s.wave? (kjWave c r.iter) = some wv)
  (hq : findAt wv.recvs (fun q => q.paddock == r.paddock && q.port == r.port && q.lane == r.iter % 32) = some q)

section
include hfirst

theorem sameResult_none :
    (x.results.take k).any (fun q => q.paddock == r.paddock && q.port == r.port && q.iter == r.iter) = false := by
  rw [List.any_eq_false]
  intro y hy
  simpa [and_assoc] using hfirst y hy
end

section
include hx hsaved hr hfirst hw hq

/-- R278: the lane that has waited longest for the port takes the result. -/
theorem resultDeliver_bound (hb : lateUnbound s (kjWave c r.iter) q.2 (lateOuts wv (wv.recvs.eraseIdx q.1) q.2) = none)
    (hp : s.pushWaits x.cluster (kjWave c r.iter) (lateOuts wv (wv.recvs.eraseIdx q.1) q.2) = false) :
    exec (.resultDeliver c k) s = .next (((s.takeResult c k (kjWave c r.iter) wv q r.value).dropL1 x.cluster).pushRegs x.cluster
      (kjWave c r.iter) q.2.act (lateOuts wv (wv.recvs.eraseIdx q.1) q.2)) := by
  show execResultDeliver c k s = _
  unfold execResultDeliver
  simp only [hx, hr, hsaved, sameResult_none hfirst, hw, hq, hb, hp, Bool.false_eq_true, if_false]

/-- R244, R246: the result completes a push to a queue that is bound to the job no more. -/
theorem resultDeliver_unbound {m : Ctx × QMap}
    (hb : lateUnbound s (kjWave c r.iter) q.2 (lateOuts wv (wv.recvs.eraseIdx q.1) q.2) = some m) :
    exec (.resultDeliver c k) s = .next (faultAt m.1 { m.1.report 5 3 .stops (m.1.first s) .terms with aux := m.2.queue }
      ((s.takeResult c k (kjWave c r.iter) wv q r.value).dropL1 x.cluster)) := by
  show execResultDeliver c k s = _
  unfold execResultDeliver
  simp only [hx, hr, hsaved, sameResult_none hfirst, hw, hq, hb, Bool.false_eq_true, if_false]
end

include hx in
theorem takeResult_eq (w : WaveId) (v : Dword) : s.takeResult c k w wv q v
    = (s.setWave w (if q.2.pair then Wave.wrD { wv with recvs := wv.recvs.eraseIdx q.1 } q.2.reg q.2.lane v
        else Wave.wrV { wv with recvs := wv.recvs.eraseIdx q.1 } q.2.reg q.2.lane (v.setWidth 32))).setCrew c
        { x with results := x.results.eraseIdx k } :=
  State.modCrew_some _ (s := s.setWave w _) hx
end

/-- R318: with every older round committed the crews of the job drop the rest. -/
theorem preciseStop_next {s : State} {asid : Nat}
    (h : ∀ c ∈ s.crewsOf asid, ∀ x, s.crew? c = some x → ∀ p ∈ x.roundPads, (x.stopAt p).1 = []) :
    exec (.preciseStop asid) s = .next ((s.crewsOf asid).foldl (fun s c => stopCrew c true s) s) := by
  refine if_neg (Bool.eq_false_iff.mp (List.any_eq_false.mpr fun c hc => ?_))
  split
  next x hx =>
    rw [Bool.not_eq_true, List.any_eq_false]
    intro p hp
    rw [h c hc x hx p hp]
    decide
  next => decide

theorem weirAndRounds : Claims.WeirAndRounds := by
  refine ⟨?_, ?_, ?_, ?_, ?_, ?_⟩
  · intro s c k x t ch hx ht hch hroom u put answer
    refine ⟨weirArrive_mnop hx ht hch hroom, fun v l hat => ⟨fun hkind => ?_, fun hkind => ?_⟩⟩
    · exact (weirArrive_at hx ht hch hroom (by rw [hkind]; decide) hat).trans (congrArg Host.Outcome.next (if_pos hkind))
    · have hne : t.entry.kind ≠ .mnop ∧ t.entry.kind ≠ .cst := by
        obtain h | h := hkind <;> rw [h] <;> decide
      exact (weirArrive_at hx ht hch hroom hne.1 hat).trans (congrArg Host.Outcome.next (if_neg hne.2))
  · intro s c pad x kn ch e hx hk hch hn hh hst hb hcode u rest fits
    have hpad : (ch.settled kn).paddock = pad := by
      rw [Chain.settled_paddock]
      simpa using List.find?_some hch
    have hasids : u.asids = s.asids := s.modChain_asids c pad _
    rw [weirRelease_entry hx hk hch hn hh hst hb]
    unfold releaseEntry
    simp only [hcode, hpad]
    refine ⟨fun hkind => ?_, fun hkind => ?_, fun hkind hfit => ?_, fun hkind hold hfit => ?_⟩
    · rw [hkind]
      exact State.unlessFull_of_fits (ringFits_of_asids ((rest.passed_asids c pad kn e).trans
        ((u.dropEntry_asids c pad e).trans hasids)))
    · rw [hkind]
      exact State.unlessFull_of_fits (ringFits_of_asids ((State.passed_asids _ c pad kn e).trans
        ((u.modChain_asids c pad _).trans hasids)))
    · rw [hkind]
      exact State.unlessFull_of_fits hfit
    · rw [hkind]
      refine (congrArg (s.unlessFull (s.asidOf c)) (if_pos hold)).trans (State.unlessFull_of_fits hfit)
  · intro s t c k x kn r hx hk hr hopen hcom hheld hst hfirst
    exact ⟨roundCommit_errors hx hk hr hopen hcom hheld hst hfirst,
      fun he hw hfree hs => roundCommit_all hx hk hr hopen hcom hheld hst hfirst he hw hfree hs⟩
  · intro s c r x w hrem hx hsaved hw
    exact commitRest_plain hrem hx hsaved hw
  · intro s c k x r wv q hx hsaved hr hfirst hw hq w y outs t
    have htake := takeResult_eq (wv := wv) (q := q) (k := k) hx (kjWave c r.iter) r.value
    refine ⟨fun hbound hroom => ?_, fun m hbound => ?_⟩
    · rw [resultDeliver_bound hx hsaved hr hfirst hw hq hbound hroom, htake]
    · rw [resultDeliver_unbound hx hsaved hr hfirst hw hq hbound, htake]
  · intro s asid h
    exact preciseStop_next h

/-! ### A paddock at rest (R316) -/

section
variable {s : State} {c : CrewId} {pad : Nat} {x : Crew} {kn : Kernel} {h : Nat × Place} (hx : s.crew? c = some x)
  (hk : s.kernel? c = some kn) (hh : x.home? pad = some h)
  (hq : x.quiescent kn pad h.1 h.2 (bufWaits c h.1 x h.2 kn s) = true) (hheld : s.nodesHeld c = false)
  (hst : s.crewStopped c = false) (hroom : s.ringRoom (s.asidOf c) = true)
include hx hk hh hq hheld hst hroom

theorem paddockQuiescent_gap {ch : Chain} {e : WEntry} (hch : x.chains.find? (fun ch => ch.paddock == pad) = some ch)
    (hg : ch.gap kn = true) (he : ch.last = some e) : exec (.paddockQuiescent c pad) s
      = .next (mcwaitRecords (s.raise (s.asidOf c) { s.spatial c 11 8 .stops (tagIter e.tag) pad e.blk e.slot (some e.site) with
          tag := s.ctxTag c pad e.tag }).1 c h.2
        (if genAlive x h.1 h.2 || !(x.mx.filter (fun y => y.isFeed)).isEmpty then [] else h.2.ready)) := by
  show execPaddockQuiescent c pad s = _
  unfold execPaddockQuiescent
  simp only [hx, hk, hh, hq, hheld, hst, hroom, hch, hg, he, Option.filter_some, Option.map_some, Option.getD_some,
    Bool.not_true, Bool.or_self, Bool.false_eq_true, if_false, if_true]

theorem paddockQuiescent_waits
    (hg : ∀ ch, x.chains.find? (fun ch => ch.paddock == pad) = some ch → ch.gap kn = false)
    (hw : (if genAlive x h.1 h.2 || !(x.mx.filter (fun y => y.isFeed)).isEmpty then [] else h.2.ready) ≠ []) :
    exec (.paddockQuiescent c pad) s = .next (mcwaitRecords s c h.2
      (if genAlive x h.1 h.2 || !(x.mx.filter (fun y => y.isFeed)).isEmpty then [] else h.2.ready)) := by
  have hgap : (x.chains.find? (fun ch => ch.paddock == pad)).filter (fun ch => ch.gap kn) = none := by
    rw [Option.filter_eq_none_iff]
    exact fun ch hch => Bool.eq_false_iff.mp (hg ch hch)
  show execPaddockQuiescent c pad s = _
  unfold execPaddockQuiescent
  simp only [hx, hk, hh, hq, hheld, hst, hroom, hgap, Bool.not_true, Bool.or_self, Bool.false_eq_true, if_false]
  exact if_neg (by simpa using hw)
end

theorem quiescence : Claims.Quiescence := by
  intro s c pad x kn h hx hk hh hq hheld hst hroom w
  have hwaits : (if genAlive x h.1 h.2 || !(x.mx.filter (fun y => y.isFeed)).isEmpty then [] else h.2.ready) = w := by
    have hiff : (genAlive x h.1 h.2 || !(x.mx.filter (fun y => y.isFeed)).isEmpty) = true
        ↔ (genAlive x h.1 h.2 = true ∨ (∃ y ∈ x.mx, y.isFeed = true)) := by
      simp [List.filter_eq_nil_iff]
    exact ite_congr (propext hiff) (fun _ => rfl) (fun _ => rfl)
  rw [← hwaits]
  exact ⟨fun ch e hch hg he => paddockQuiescent_gap hx hk hh hq hheld hst hroom hch hg he,
    fun hg hw => paddockQuiescent_waits hx hk hh hq hheld hst hroom hg hw⟩

/-- Settles O42, by what each step of the weir and of the retire unit does where its tests pass. -/
theorem weirEvents : Obligations.WeirEvents := ⟨weirAndRounds, quiescence⟩

end Sys2Proof.Machine
end

section
/-! PROOFS. Generators, weight events and passes at work (R323, R324, R331, R338 to R343, R348 to R351). -/

namespace Sys2Proof.Machine

/-! ### Generators (R323, R324) -/

section
variable {s : State} {c : CrewId} {i mc gn : Nat} {x : Crew} {p : Place} {m : MCell} {g : Gen} {ref : FireRef}
  (hg : genAt s c i mc gn = some (x, p, m, g)) (href : g.agen = some ref) (hp : p.state = .resident)
include hg href hp

theorem generatorStep_at {s1 : State} {l : Loc} (hready : genReady x i mc gn m g = true)
    (hgo : s.nodesHeld c = false ∨ s.crewStopped c = true)
    (hat : s.nodeFind (s.asidOf c) (g.addr g.next) (2 ^ g.esz) (if g.dir then useStore else useLoad) = (s1, .at l)) :
    let u := s1.countMem c (tagIter ref.tag) (if g.newSector then 1 else 0)
    exec (.generatorStep c i mc gn) s = .next (if g.dir then
        (u.nodeStore x.cluster p.slice l (leBytes (2 ^ g.esz) (genGive g m))).modMc c i mc (genGiven gn g)
      else let q := u.nodeLoad x.cluster p.slice l (2 ^ g.esz); q.2.modMc c i mc (genTake gn g (leNat q.1))) := by
  intro u
  have hgo' : (s.nodesHeld c && !s.crewStopped c) = false := by
    obtain h | h := hgo <;> rw [h]
    · rfl
    · exact Bool.and_false _
  show execGeneratorStep c i mc gn s = _
  unfold execGeneratorStep
  simp only [hg, href, hp, hready, hgo', hat, bne_self_eq_false, Bool.not_true, Bool.or_self, Bool.false_eq_true, if_false]
  split <;> rfl

theorem generatorDone_over (hover : g.over = true) : exec (.generatorDone c i mc gn) s
    = .next ((genToken s c i p ref (BitVec.ofNat 64 g.total) false).modMc c i mc (fun m => m.stopGen gn g)) := by
  show execGeneratorDone c i mc gn s = _
  unfold execGeneratorDone
  simp only [hg, href, hp, hover, beq_self_eq_true, Bool.and_self, if_true]
end

/-! ### What the array reads and writes raises no record unless a cause is met -/

@[simp] theorem State.xlatTile_asids (s : State) (asid va : Nat) (u : Use) : (s.xlatTile asid va u).1.asids = s.asids :=
  (s.xlatTile_frame asid va u).asids

@[simp] theorem State.readSpan_asids (s : State) (cl asid va fuel n : Nat) :
    (s.readSpan cl asid va fuel n).1.asids = s.asids := by
  induction fuel generalizing s va n with
  | zero => rfl
  | succ fuel ih =>
    have hx := s.xlatTile_asids asid va useLoad
    unfold State.readSpan
    dsimp only
    split
    · rfl
    split
    · rfl
    split
    next u _ h => exact (congrArg (fun r => r.1.asids) h).symm.trans hx
    next u t h =>
      have hu : u.asids = s.asids := (congrArg (fun r => r.1.asids) h).symm.trans hx
      split
      · exact hu
      split
      · exact hu
      split <;> exact (ih _ _ _).trans ((u.nodeLoad_asids cl cl _ _).trans hu)

@[simp] theorem State.readMem_asids (s : State) (cl asid va n : Nat) : (s.readMem cl asid va n).1.asids = s.asids :=
  s.readSpan_asids cl asid va _ n

theorem State.readSpans_asids (s : State) (cl asid : Nat) (l : List (Nat × Nat)) :
    (s.readSpans cl asid l).1.asids = s.asids := by
  induction l generalizing s with
  | nil => rfl
  | cons p t ih =>
    have hm := s.readMem_asids cl asid p.1 p.2
    unfold State.readSpans
    split
    next u _ h => exact (congrArg (fun r => r.1.asids) h).symm.trans hm
    next u _ h =>
      have hu : u.asids = s.asids := (congrArg (fun r => r.1.asids) h).symm.trans hm
      have ht := ih u
      split
      next v _ hv => exact (congrArg (fun r => r.1.asids) hv).symm.trans (ht.trans hu)
      next v _ hv => exact (congrArg (fun r => r.1.asids) hv).symm.trans (ht.trans hu)

theorem passRead_asids (s : State) (cl asid : Nat) (g : Geometry) (d : List Dword) :
    (passRead s cl asid g d).1.asids = s.asids := by
  unfold passRead
  dsimp only
  split
  next u _ h => exact (congrArg (fun r => r.1.asids) h).symm.trans (s.readSpans_asids cl asid _)
  next u _ h => exact (congrArg (fun r => r.1.asids) h).symm.trans (s.readSpans_asids cl asid _)

@[simp] theorem State.applyEvent_asids (s : State) (c : CrewId) (k n : Nat) (f : MxCell → MxCell) :
    (s.applyEvent c k n f).asids = s.asids := State.modCrew_asids s c _

@[simp] theorem State.headTaken_asids (s : State) (c : CrewId) (k : Nat) (i : MxItem) (o : List Word × Fl) :
    (s.headTaken c k i o).asids = s.asids := State.modCrew_asids s c _

/-- Rows that are all written have met no cause. -/
theorem writeRows_asids {s t : State} {c : CrewId} {cl k : Nat} {i : MxItem} {cout n r : Nat}
    (h : writeRows s c cl k i cout n r = (t, true)) : t.asids = s.asids := by
  induction n generalizing s r with
  | zero =>
    cases h
    rfl
  | succ n ih =>
    have hx := s.xlatTile_asids (s.asidOf c) (cout + 64 * r) useStore
    unfold writeRows at h
    dsimp only at h
    split at h
    · cases h
      rfl
    split at h
    · cases h
    split at h
    next => cases h
    next u q hu =>
      rw [hu] at hx
      split at h
      · cases h
      split at h
      · cases h
      exact (ih h).trans (by simpa using hx)

theorem State.mxFlags_asids (s : State) (c : CrewId) (x : Crew) (i : MxItem) : (s.mxFlags c x i).asids = s.asids := by
  unfold State.mxFlags
  dsimp only
  split
  · refine (State.modWave_asids _ _ _).trans ?_
    unfold State.undoPush
    split <;> rfl
  · exact State.modWave_asids _ _ _

/-! ### Events and passes (R338, R339, R343, R350, R351) -/

section
variable {s t : State} {c : CrewId} {k : Nat} {x : Crew} {i : MxItem} {g : Geometry} (hx : s.crew? c = some x)
  (hi : x.mx[k]? = some i) (hparked : i.parked = none)
include hx hi hparked

section
variable (hg : x.geometry = some g) (horder : x.mxInOrder g k i = true) (hread : i.mayRead c (s.cluster x.cluster) = true)
include hg horder hread

theorem weightEventApply_zero (hkind : i.kind = .zero) :
    exec (.weightEventApply c k) s = .next (s.applyEvent c k i.target (fun _ => MxCell.init)) := by
  show execWeightEventApply c k s = _
  unfold execWeightEventApply
  simp only [hx, hi, hg, hparked, horder, hread, hkind, Option.isSome_none, Bool.not_true, Bool.or_self, Bool.false_eq_true,
    if_false]
  exact State.unlessFull_of_fits (ringFits_of_asids (s.applyEvent_asids c k _ _))

theorem weightEventApply_weights {a : Dword} {w : Word} {e : Nat} {bs : List Byte} (hkind : i.kind = .weights a w e)
    (hbs : s.readMem x.cluster (s.asidOf c) a.toNat (16 * clsK g.cls * clsZ g.cls) = (t, .ok bs)) :
    exec (.weightEventApply c k) s = .next (t.applyEvent c k i.target (fun y => { y with w := weightsOf g bs, fmt := w })) := by
  have ht : t.asids = s.asids := (congrArg (fun r => r.1.asids) hbs).symm.trans (s.readMem_asids _ _ _ _)
  show execWeightEventApply c k s = _
  unfold execWeightEventApply
  simp only [hx, hi, hg, hparked, horder, hread, hkind, hbs, Option.isSome_none, Bool.not_true, Bool.or_self,
    Bool.false_eq_true, if_false]
  exact State.unlessFull_of_fits (ringFits_of_asids ((t.applyEvent_asids c k _ _).trans ht))

theorem weightEventApply_scales {a : Dword} {bs : List Byte} (hkind : i.kind = .scales a)
    (hbs : s.readMem x.cluster (s.asidOf c) a.toNat (64 * clsBpc g.cls) = (t, .ok bs)) :
    exec (.weightEventApply c k) s = .next (t.applyEvent c k i.target (fun y => { y with sc := scalesOf g bs })) := by
  have ht : t.asids = s.asids := (congrArg (fun r => r.1.asids) hbs).symm.trans (s.readMem_asids _ _ _ _)
  show execWeightEventApply c k s = _
  unfold execWeightEventApply
  simp only [hx, hi, hg, hparked, horder, hread, hkind, hbs, Option.isSome_none, Bool.not_true, Bool.or_self,
    Bool.false_eq_true, if_false]
  exact State.unlessFull_of_fits (ringFits_of_asids ((t.applyEvent_asids c k _ _).trans ht))

theorem columnHeadRead_pass {d : List Dword} {fa : Word} {e : Nat} {ops : PassIn} (hkind : i.kind = .pass d fa e)
    (hhead : i.headRead = false) (hqueued : x.mxQueued g k i = true)
    (hops : passRead s x.cluster (s.asidOf c) g d = (t, .ok ops)) :
    exec (.columnHeadRead c k) s = .next (t.headTaken c k i (passOut g fa ops (x.column g i.target))) := by
  have ht : t.asids = s.asids := (congrArg (fun r => r.1.asids) hops).symm.trans (passRead_asids s _ _ _ _)
  show execColumnHeadRead c k s = _
  unfold execColumnHeadRead
  simp only [hx, hi, hg, hparked, horder, hread, hkind, hhead, hqueued, hops, Option.isSome_none, Bool.not_true, Bool.or_self,
    Bool.false_eq_true, if_false]
  exact State.unlessFull_of_fits (ringFits_of_asids ((t.headTaken_asids c k _ _).trans ht))
end

theorem passComplete_pass {d : List Dword} {fa : Word} {e : Nat} (hkind : i.kind = .pass d fa e) (hhead : i.headRead = true)
    (hfirst : ∀ y ∈ x.mx.take k, ¬(y.headRead = true ∧ y.target = i.target))
    (hrows : writeRows s c x.cluster k i (d.getD 4 0).toNat 17 i.written = (t, true)) :
    exec (.passComplete c k) s = .next ((t.mxFlags c x i).modCrew c (fun x => { x with mx := x.mx.eraseIdx k })) := by
  have hnone : (x.mx.take k).any (fun y => y.headRead && y.target == i.target) = false := by
    rw [List.any_eq_false]
    intro y hy
    simpa using hfirst y hy
  show execPassComplete c k s = _
  unfold execPassComplete
  simp only [hx, hi, hparked, hkind, hhead, hnone, hrows, Option.isSome_none, Bool.not_true, Bool.or_self,
    Bool.false_eq_true, if_false, if_true]
  exact State.unlessFull_of_fits (ringFits_of_asids ((State.modCrew_asids _ c _).trans
    ((t.mxFlags_asids c x i).trans (writeRows_asids hrows))))
end

/-! ### The results of a pass (R340) -/

theorem passOut_length (g : Geometry) (fa : Word) (i : PassIn) (cells : Nat → MxCell) :
    (passOut g fa i cells).1.length = 16 * i.m := by
  simp [passOut]

theorem passOut_get {g : Geometry} {fa : Word} {i : PassIn} {cells : Nat → MxCell} {r n : Nat} (hr : r < i.m) (hn : n < 16) :
    (passOut g fa i cells).1[16 * r + n]? = some (BitVec.ofNat 32
      ((List.range g.kb).foldl (fun p k => cellSum g fa i cells r n k p) (i.cin.getD (16 * r + n) 0, 0)).1) := by
  have hlt : 16 * r + n < 16 * i.m := by omega
  have hrow : (16 * r + n) / 16 = r := by omega
  have hcol : (16 * r + n) % 16 = n := by omega
  unfold passOut
  rw [List.getElem?_map, List.getElem?_map, List.getElem?_range hlt, Option.map_some, Option.map_some, hrow, hcol]

/-- Settles O43, by what each step of a generator, an event and a pass does where its tests pass. -/
theorem cellEvents : Obligations.CellEvents := by
  refine ⟨?_, ?_, ?_, ?_, fun g fa i cells => ⟨passOut_length g fa i cells, fun r n => passOut_get⟩⟩
  · intro s s1 c i mc gn x p m g ref l hg href hp hready hgo hat
    exact generatorStep_at hg href hp hready hgo hat
  · intro s c i mc gn x p m g ref hg href hp hover
    exact generatorDone_over hg href hp hover
  · intro s c k x i g hx hi hg hparked horder hread
    exact ⟨weightEventApply_zero hx hi hparked hg horder hread,
      fun a w e t bs hkind hbs => weightEventApply_weights hx hi hparked hg horder hread hkind hbs,
      fun a t bs hkind hbs => weightEventApply_scales hx hi hparked hg horder hread hkind hbs,
      fun d fa e t ops hkind hhead hqueued hops =>
        columnHeadRead_pass hx hi hparked hg horder hread hkind hhead hqueued hops⟩
  · intro s t c k x i d fa e hx hi hkind hhead hparked hfirst hrows
    exact passComplete_pass hx hi hparked hkind hhead hfirst hrows

end Sys2Proof.Machine
end

section
/-! PROOFS. Memory, copies and translation at work (R205, R209, R210, R229, R233, R234, R386). -/

namespace Sys2Proof.Machine

/-! ### A line of another module (R210, R211) -/

/-- A line of another module reads as before: its bytes, the key that it is under, and the time are the same. -/
structure SameFarLine (s t : State) (n : Nat) : Prop where
  now : t.now = s.now
  key : SMap.get t.remoteKey none n = SMap.get s.remoteKey none n
  bytes : ∀ b, b / 128 = n → Memory.byte t.remote b = Memory.byte s.remote b

theorem SameFarLine.trans {s t u : State} {n : Nat} (h : SameFarLine s t n) (h' : SameFarLine t u n) : SameFarLine s u n :=
  ⟨h'.now.trans h.now, h'.key.trans h.key, fun b hb => (h'.bytes b hb).trans (h.bytes b hb)⟩

section
variable {s t : State} {l : Loc} (hl : l.rmt = true)
include hl

theorem State.keyAt_far : s.keyAt l = Config.memberKey (l.pa / 2 ^ 44) l.key := if_pos hl

theorem State.store_far : s.store l = s.remote := if_pos hl

theorem State.wroteKey_far : s.wroteKey l = match SMap.get s.remoteKey none (l.pa / 128) with
    | some k => Config.memberKey (l.pa / 2 ^ 44) k
    | none => s.keyAt l := if_pos hl

/-- What decides how a byte of another module reads. -/
theorem State.homeByte_far : s.homeByte l = if s.wroteKey l == s.keyAt l then Memory.byte s.remote l.pa
    else (s.lineAs l).extractLsb' (8 * (l.pa % 128)) 8 := by
  unfold State.homeByte
  rw [State.store_far hl, hl]
  rfl

theorem SameFarLine.wroteKey (h : SameFarLine s t (l.pa / 128)) : t.wroteKey l = s.wroteKey l := by
  rw [State.wroteKey_far hl, State.wroteKey_far hl, h.key, State.keyAt_far hl, State.keyAt_far hl]

theorem SameFarLine.homeByte (h : SameFarLine s t (l.pa / 128)) : t.homeByte l = s.homeByte l := by
  have hread : Memory.read t.remote (128 * (l.pa / 128)) 128 = Memory.read s.remote (128 * (l.pa / 128)) 128 :=
    Memory.read_congr fun b hb hlt => h.bytes b (by omega)
  have hline : t.lineAs l = s.lineAs l := by
    simp only [State.lineAs, h.wroteKey hl, State.keyAt_far hl, State.store_far hl, h.now, Memory.le, hread]
  rw [State.homeByte_far hl, State.homeByte_far hl, h.wroteKey hl, State.keyAt_far hl, State.keyAt_far hl, hline,
    h.bytes l.pa rfl]

/-- R210: what taking a line of another module under a key changes. -/
theorem State.rekey_far (n : Nat) : s.rekey l n = { s with
    remote := if s.wroteKey { l with pa := 128 * n } == s.keyAt { l with pa := 128 * n } then s.remote
      else Memory.setLe s.remote (128 * n) 128 (s.lineAs { l with pa := 128 * n }).toNat
    remoteKey := SMap.set s.remoteKey none n (some l.key) } := by
  unfold State.rekey
  dsimp only
  rw [if_pos hl, State.store_far (l := { l with pa := 128 * n }) hl]

theorem State.rekey_far_sameLine {n m : Nat} (h : m ≠ n) : SameFarLine s (s.rekey l n) m := by
  rw [State.rekey_far hl]
  refine ⟨rfl, (SMap.get_set s.remoteKey none n m (some l.key)).trans (if_neg h), fun b hb => ?_⟩
  dsimp only
  split
  · rfl
  · exact (valueBytes s.remote (128 * n) 128 _).2.2.1 b (by omega)

/-- R210: the key of a line and what an access sees of it are the same for all its bytes. -/
theorem State.far_line {a b : Nat} (h : a / 128 = b / 128) :
    s.wroteKey { l with pa := a } = s.wroteKey { l with pa := b } ∧ s.keyAt { l with pa := a } = s.keyAt { l with pa := b }
      ∧ s.lineAs { l with pa := a } = s.lineAs { l with pa := b } := by
  have hmember : a / 2 ^ 44 = b / 2 ^ 44 := by omega
  have hkey : s.keyAt { l with pa := a } = s.keyAt { l with pa := b } := by
    rw [State.keyAt_far (l := { l with pa := a }) hl, State.keyAt_far (l := { l with pa := b }) hl]
    exact congrArg (Config.memberKey · l.key) hmember
  have hwrote : s.wroteKey { l with pa := a } = s.wroteKey { l with pa := b } := by
    rw [State.wroteKey_far (l := { l with pa := a }) hl, State.wroteKey_far (l := { l with pa := b }) hl]
    dsimp only
    rw [h, hmember, hkey]
  refine ⟨hwrote, hkey, ?_⟩
  unfold State.lineAs
  dsimp only
  rw [hwrote, hkey, h, State.store_far (l := { l with pa := a }) hl, State.store_far (l := { l with pa := b }) hl]

/-- R210: a line taken under a key is under it. -/
theorem State.rekey_far_key {n a : Nat} (h : a / 128 = n) :
    ((s.rekey l n).wroteKey { l with pa := a } == (s.rekey l n).keyAt { l with pa := a }) = true := by
  have hk : SMap.get (s.rekey l n).remoteKey none (a / 128) = some l.key := by
    rw [State.rekey_far hl, h]
    exact (SMap.get_set s.remoteKey none n n (some l.key)).trans (if_pos rfl)
  rw [State.wroteKey_far (l := { l with pa := a }) hl, State.keyAt_far (l := { l with pa := a }) hl]
  dsimp only
  rw [hk]
  exact beq_self_eq_true _

/-- R210: under the key of the access a line reads as before. -/
theorem State.rekey_far_homeByte (n a : Nat) : (s.rekey l n).homeByte { l with pa := a } = s.homeByte { l with pa := a } := by
  by_cases hn : a / 128 = n
  · obtain ⟨hwrote, hkey, hline⟩ := State.far_line (s := s) hl (a := a) (b := 128 * n) (by omega)
    rw [State.homeByte_far (l := { l with pa := a }) hl, if_pos (State.rekey_far_key hl hn),
      State.homeByte_far (s := s) (l := { l with pa := a }) hl, hwrote, hkey, hline, State.rekey_far hl]
    dsimp only
    split
    · rfl
    · have h := (valueBytes s.remote (128 * n) 128 (s.lineAs { l with pa := 128 * n }).toNat).2.1 (a % 128) (by omega)
      rw [show 128 * n + a % 128 = a by omega] at h
      rw [h]
      exact ofNat_div_eq_extractLsb' _ _
  · exact (State.rekey_far_sameLine hl hn).homeByte hl

theorem State.rekeyAll_far (ls : List Nat) (s : State) : let t := s.rekeyAll l ls
    (∀ a, a / 128 ∈ ls → (t.wroteKey { l with pa := a } == t.keyAt { l with pa := a }) = true)
    ∧ (∀ a, t.homeByte { l with pa := a } = s.homeByte { l with pa := a })
    ∧ ∀ m, m ∉ ls → SameFarLine s t m := by
  induction ls generalizing s with
  | nil => exact ⟨fun a h => absurd h List.not_mem_nil, fun a => rfl, fun m _ => ⟨rfl, rfl, fun b _ => rfl⟩⟩
  | cons n ls ih =>
    obtain ⟨hkey, hbyte, hline⟩ := ih (s.rekey l n)
    refine ⟨fun a ha => ?_, fun a => (hbyte a).trans (State.rekey_far_homeByte hl n a), fun m hm => ?_⟩
    · by_cases hls : a / 128 ∈ ls
      · exact hkey a hls
      · have han : a / 128 = n := (List.mem_cons.mp ha).resolve_right hls
        have hw := (hline _ hls).wroteKey (l := { l with pa := a }) hl
        have hk : ((s.rekey l n).rekeyAll l ls).keyAt { l with pa := a } = (s.rekey l n).keyAt { l with pa := a } := by
          rw [State.keyAt_far (l := { l with pa := a }) hl, State.keyAt_far (l := { l with pa := a }) hl]
        exact (congrArg₂ (· == ·) hw hk).trans (State.rekey_far_key hl han)
    · obtain ⟨hn, hls⟩ := not_or.mp (mt List.mem_cons.mpr hm)
      exact (State.rekey_far_sameLine hl hn).trans (hline m hls)

/-- R205, R210, R211: a write at a home channel of another module. -/
theorem State.homeWrite_far (bs : List Byte) (a : Nat) : (s.homeWrite l bs).homeByte { l with pa := a }
    = if l.pa ≤ a then (bs[a - l.pa]?).getD (s.homeByte { l with pa := a }) else s.homeByte { l with pa := a } := by
  obtain ⟨hkey, hbyte, hline⟩ := State.rekeyAll_far hl (l.lines bs.length) s
  generalize hu : s.rekeyAll l (l.lines bs.length) = u at hkey hbyte hline
  have ht : s.homeWrite l bs = { u with remote := Memory.write u.remote l.pa bs } := by
    rw [State.homeWrite_eq_rekeyAll, if_pos hl, hu]
  rw [ht, ← hbyte a]
  by_cases hin : a / 128 ∈ l.lines bs.length
  · have hk := hkey a hin
    rw [State.homeByte_far (s := u) (l := { l with pa := a }) hl, if_pos hk,
      State.homeByte_far (s := { u with remote := Memory.write u.remote l.pa bs }) (l := { l with pa := a }) hl]
    exact (if_pos hk).trans (Memory.byte_write _ _ _ _)
  · have hout : ¬(l.pa ≤ a ∧ a < l.pa + bs.length) := by
      intro h
      refine hin (List.mem_filter.mpr ⟨(mem_linesOf _ _ _).mpr ⟨by omega, by omega, by omega⟩, ?_⟩)
      rw [hl, Bool.true_or]
    have hsame : SameFarLine u { u with remote := Memory.write u.remote l.pa bs } (a / 128) := by
      refine ⟨rfl, rfl, fun b hb => Memory.byte_write_out _ _ _ _ ?_⟩
      have hb' : ¬(l.pa ≤ b ∧ b < l.pa + bs.length) := by
        intro h
        refine hin (hb ▸ List.mem_filter.mpr ⟨(mem_linesOf _ _ _).mpr ⟨by omega, by omega, by omega⟩, ?_⟩)
        rw [hl, Bool.true_or]
      omega
    rw [hsame.homeByte (l := { l with pa := a }) hl]
    split
    · rw [List.getElem?_eq_none (by omega)]
      rfl
    · rfl
end

/-! ### What a write leaves of the other memory -/

theorem with_remote_trans {s t u : State} (h : t = { s with remote := t.remote, remoteKey := t.remoteKey })
    (h' : u = { t with remote := u.remote, remoteKey := u.remoteKey }) :
    u = { s with remote := u.remote, remoteKey := u.remoteKey } := by
  generalize u.remote = m at h' ⊢
  generalize u.remoteKey = ks at h' ⊢
  rw [h', h]

theorem State.rekeyAll_far_frame {l : Loc} (hl : l.rmt = true) (ls : List Nat) (s : State) : s.rekeyAll l ls
    = { s with remote := (s.rekeyAll l ls).remote, remoteKey := (s.rekeyAll l ls).remoteKey } := by
  induction ls generalizing s with
  | nil => rfl
  | cons n ls ih =>
    have hn : s.rekey l n = { s with remote := (s.rekey l n).remote, remoteKey := (s.rekey l n).remoteKey } := by
      rw [State.rekey_far hl]
    exact with_remote_trans hn (ih (s.rekey l n))

theorem State.homeWrite_far_frame {l : Loc} (hl : l.rmt = true) (s : State) (bs : List Byte) : s.homeWrite l bs
    = { s with remote := (s.homeWrite l bs).remote, remoteKey := (s.homeWrite l bs).remoteKey } := by
  refine with_remote_trans (State.rekeyAll_far_frame hl (l.lines bs.length) s) ?_
  rw [State.homeWrite_eq_rekeyAll, if_pos hl]

theorem State.homeWrite_near_frame {l : Loc} (hl : l.rmt = false) (s : State) (bs : List Byte) : s.homeWrite l bs
    = { s with mem := (s.homeWrite l bs).mem, lineKey := (s.homeWrite l bs).lineKey } := by
  refine with_mem_trans (State.rekeyAll_spec hl (l.lines bs.length) s).1 ?_
  rw [State.homeWrite_eq_rekeyAll, if_neg (Bool.eq_false_iff.mp hl)]
  rfl

/-- R205: a write to the memory of this module or another changes no byte of the other one. -/
theorem State.homeWrite_other {l m : Loc} (h : m.rmt ≠ l.rmt) (s : State) (bs : List Byte) :
    (s.homeWrite l bs).homeByte m = s.homeByte m := by
  cases hl : l.rmt with
  | false =>
    have hm : m.rmt = true := Bool.eq_true_of_not_eq_false (hl ▸ h)
    have hf := State.homeWrite_near_frame hl s bs
    exact SameFarLine.homeByte hm ⟨by rw [hf], by rw [hf], fun b _ => by rw [hf]⟩
  | true =>
    have hm : m.rmt = false := Bool.eq_false_of_not_eq_true (hl ▸ h)
    have hf := State.homeWrite_far_frame hl s bs
    exact SameLine.homeByte hm ⟨by rw [hf], by rw [hf], by rw [hf], fun b _ => by rw [hf]⟩

/-- R205, R210: what a write at a home channel leaves of a byte, under its own key or in the other memory. -/
theorem State.homeWrite_homeByte {l m : Loc} (s : State) (bs : List Byte)
    (h : m.rmt ≠ l.rmt ∨ (m.key = l.key ∧ (l.rmt = true ∨ l.pa + bs.length ≤ hbmBytes))) :
    (s.homeWrite l bs).homeByte m = if m.rmt = l.rmt ∧ l.pa ≤ m.pa
      then (bs[m.pa - l.pa]?).getD (s.homeByte m) else s.homeByte m := by
  by_cases hr : m.rmt = l.rmt
  · obtain ⟨hkey, hwhere⟩ := h.resolve_left (fun hne => hne hr)
    obtain ⟨rmt, a, key⟩ := m
    dsimp only at hr hkey
    subst hr hkey
    simp only [true_and]
    cases hl : l.rmt with
    | false => exact hl ▸ (homeWrites s l bs hl (hwhere.resolve_left (Bool.eq_false_iff.mp hl))).2.1 a
    | true => exact hl ▸ State.homeWrite_far hl bs a
  · rw [State.homeWrite_other hr, if_neg (fun h => hr h.1)]

/-! ### Stores and copies (R205, R229, R233) -/

theorem memoryAccessResponse_next {s : State} {cl k : Nat} {p : PStore} (hp : (s.cluster cl).stores[k]? = some p)
    (hfirst : ∀ q ∈ (s.cluster cl).stores.take k, q.touches p.loc p.bytes.length = false) (ha : s.answers p.loc = true) :
    exec (.memoryAccessResponse cl k) s = .next ((s.homeWrite p.loc p.bytes).setCluster cl
      { s.cluster cl with stores := (s.cluster cl).stores.eraseIdx k }) := by
  have hnone : ((s.cluster cl).stores.take k).any (fun q => q.touches p.loc p.bytes.length) = false :=
    List.any_eq_false.mpr fun q hq => Bool.eq_false_iff.mp (hfirst q hq)
  have hcluster : (s.homeWrite p.loc p.bytes).cluster cl = s.cluster cl := by
    rw [(s.homeWrite_mem p.loc p.bytes).eq]
    rfl
  show execMemoryAccessResponse cl k s = _
  unfold execMemoryAccessResponse
  simp only [hp, hnone, ha, Bool.not_true, Bool.false_eq_true, if_false, State.perform, State.modCluster, hcluster]

/-- The least of some numbers, folded from one of them. -/
theorem foldl_min_headD {l : List Nat} {low : Nat} (hmem : low ∈ l) (hle : ∀ a ∈ l, low ≤ a) :
    l.foldl min (l.headD 0) = low := by
  have key : ∀ (l : List Nat) (n : Nat), low ≤ n → (∀ a ∈ l, low ≤ a) → (n = low ∨ low ∈ l) → l.foldl min n = low := by
    intro l
    induction l with
    | nil =>
      rintro n - - (h | h)
      · exact h
      · cases h
    | cons a t ih =>
      intro n hn ha h
      have hla := ha a List.mem_cons_self
      refine ih (min n a) (Nat.le_min.mpr ⟨hn, hla⟩) (fun b hb => ha b (List.mem_cons_of_mem a hb)) ?_
      obtain rfl | h := h
      · exact .inl (Nat.min_eq_left hla)
      · obtain rfl | h := List.mem_cons.mp h
        · exact .inl (Nat.min_eq_right hn)
        · exact .inr h
  cases l with
  | nil => cases hmem
  | cons a t => exact key (a :: t) a (hle a List.mem_cons_self) hle (.inr hmem)

section
variable {s t : State} {cl k : Nat} {c : Copy} (hc : (s.cluster cl).copies[k]? = some c) (hparked : c.parked = none)
  (hread : c.mayRead (s.cluster cl) = true)
include hc hparked hread

theorem copyUnitLand_next {u : Nat} {bs : List Byte} (hu : u ∈ c.todo) (hlow : c.unitSrc u / 2 ^ 16 = c.lowPage)
    (hland : landBlocked c s = false) (hbs : s.copyRead cl (s.asidOf c.wave.crew) (c.unitSrc u) = (t, .ok bs)) :
    exec (.copyUnitLand cl k u) s = .next (landObj cl c 16 ((t.modCrew c.wave.crew (fun x =>
      { x with crw := Memory.write x.crw (c.dst + 16 * u) bs })).modCopy cl k (fun c =>
        { c with todo := c.todo.filter (fun v => v != u) }))) := by
  have hu' : c.todo.contains u = true := List.contains_iff_mem.mpr hu
  show execCopyUnitLand cl k u s = _
  unfold execCopyUnitLand
  simp only [hc, hparked, hread, hu', hlow, hland, hbs, Option.isSome_none, bne_self_eq_false, Bool.not_true, Bool.or_self,
    Bool.false_eq_true, if_false]

theorem copyPark_next {low cause : Nat} (hlow : low ∈ c.todo.map c.unitSrc) (hle : ∀ a ∈ c.todo.map c.unitSrc, low ≤ a)
    (hroom : s.ringRoom (s.asidOf c.wave.crew) = true)
    (ht : s.copyRead cl (s.asidOf c.wave.crew) low = (t, .error cause)) :
    let q := t.raise (s.asidOf c.wave.crew) { c.report cl 7 cause
      (if causeRecoverable cause then .resumable else .stops) with va := low % 2 ^ 55, aux := 16 * c.before low }
    exec (.copyPark cl k) s = .next (q.1.modCopy cl k (fun c => { c with parked := some q.2 })) := by
  intro q
  show execCopyPark cl k s = _
  unfold execCopyPark
  simp only [hc, hparked, hread, hroom, foldl_min_headD hlow hle, ht, Option.isSome_none, Bool.not_true, Bool.or_self,
    Bool.false_eq_true, if_false]
  rfl
end

/-! ### Translations, lines and time (R206, R209, R212) -/

theorem pageWalk_ok {s : State} {cl asid vpn : Nat} {store : Bool} {t : Tlb} (ht : s.walk asid (vpn * 2 ^ 16) = .ok t)
    (hw : store = false ∨ pteW t.pte = true) : let q := s.touch t (if store then useStore else useLoad)
    exec (.pageWalk cl asid vpn store) s = .next (q.1.hold cl (vpn * 2 ^ 16) q.2) := by
  intro q
  have hw' : (store && !pteW t.pte) = false := by
    obtain h | h := hw <;> rw [h]
    · rfl
    · exact Bool.and_false _
  show execPageWalk cl asid vpn store s = _
  unfold execPageWalk
  rw [ht]
  exact if_neg (Bool.eq_false_iff.mp hw')

/-- R209: a translation that no pending store used is dropped from every tile and cluster. -/
theorem invalidationBroadcast_next {s : State} {asid : Nat} {va : BitVec 64} (hboot : s.booted = true)
    (hnone : ∀ q ∈ s.clusters, ∀ p ∈ q.2.stores, p.tlb.serves asid va.toNat = false) :
    exec (.invalidationBroadcast asid va) s = .next { s with
      tiles := s.tiles.filterMap (fun q => match q.2.filter (fun t => !t.serves asid va.toNat) with
        | [] => none
        | l => some (q.1, l))
      clusters := s.clusters.map (fun q => (q.1, { q.2 with tlb := q.2.tlb.filter (fun t => !t.serves asid va.toNat) })) } := by
  have hfree : s.clusters.any (fun q => q.2.stores.any (fun p => p.tlb.serves asid va.toNat)) = false :=
    List.any_eq_false.mpr fun q hq => Bool.eq_false_iff.mp (List.any_eq_false.mpr fun p hp =>
      Bool.eq_false_iff.mp (hnone q hq p hp))
  exact (if_neg (Bool.eq_false_iff.mp hfree)).trans (if_pos hboot)

/-! ### Firmware's accesses (R386, R445) -/

/-- R445: only a running retirement of a channel notes what firmware stores. -/
theorem State.noteMoves_eq (s : State) : ∃ ps, s.noteMoves = { s with svcPages := ps }
    ∧ ((s.serving && fld s.svcCmd 63 56 == 3) = false → ps = s.svcPages) := by
  unfold State.noteMoves
  split
  next h => exact ⟨_, rfl, fun h' => absurd (h.symm.trans h') (by decide)⟩
  next => exact ⟨s.svcPages, rfl, fun _ => rfl⟩

section
variable {s : State} {pa n : Nat} (hin : pa + n ≤ hbmBytes) (hboot : s.booted = true)
include hin hboot

/-- R386: an access of firmware leaves `m` in memory, and the old value where it returns one. -/
theorem fwAccess_next {returns : Bool} {f : Nat → Option Nat} {m : Memory} (hecc : s.eccHbm pa n = false)
    (hm : ((f (Memory.le s.mem pa n)).map (Memory.setLe s.mem pa n)).getD s.mem = m) :
    ∃ e, s.fwAccess pa n returns f = .next e ∧ ∃ ps, e = { s with
        mem := m, fwOut := s.fwOut ++ (if returns then [BitVec.ofNat 64 (Memory.le s.mem pa n)] else []), svcPages := ps }
      ∧ ((s.serving && fld s.svcCmd 63 56 == 3) = false → ps = s.svcPages) := by
  obtain ⟨ps, hps, hkeep⟩ := State.noteMoves_eq { s with mem := m }
  have hacc : s.fwAccess pa n returns f = s.byFirmware (.next (if returns then
      ({ s with mem := m } : State).noteMoves.toFirmware (Memory.le s.mem pa n) else ({ s with mem := m } : State).noteMoves)) := by
    unfold State.fwAccess
    rw [if_neg (Nat.not_lt.mpr hin), hecc, if_neg Bool.false_ne_true]
    dsimp only
    subst hm
    cases f (Memory.le s.mem pa n) <;> rfl
  rw [hacc, State.byFirmware, hboot, if_pos rfl, hps]
  refine ⟨_, rfl, ps, ?_, hkeep⟩
  cases returns with
  | true => rfl
  | false => simp

/-- R215: an access that meets an uncorrectable error has no effect. -/
theorem fwAccess_ecc {returns : Bool} {f : Nat → Option Nat} (hecc : s.eccHbm pa n = true) :
    s.fwAccess pa n returns f = .next s := by
  unfold State.fwAccess
  rw [if_neg (Nat.not_lt.mpr hin), hecc, if_pos rfl, State.byFirmware, hboot, if_pos rfl]
end

/-- Settles O44, by what each step of memory, of a copy and of translation does, and what a write leaves byte by byte. -/
theorem memoryEvents : Obligations.MemoryEvents := by
  refine ⟨?_, ?_, ?_, ?_, ?_, ?_, ?_, ?_⟩
  · intro s cl k p hp hfirst ha
    exact ⟨memoryAccessResponse_next hp hfirst ha, fun l hl => State.homeWrite_homeByte s p.bytes hl⟩
  · intro s t cl k u c bs hc hparked hu hread hlow hland hbs
    exact copyUnitLand_next hc hparked hread hu hlow hland hbs
  · intro s t cl k low cause c hc hparked hread hlow hle hroom ht
    exact copyPark_next hc hparked hread hlow hle hroom ht
  · intro s cl asid vpn store
    refine ⟨fun e he => ?_, fun t ht hw => pageWalk_ok ht hw⟩
    show execPageWalk cl asid vpn store s = _
    rw [execPageWalk, he]
  · intro s t cl asid line hahead hline
    show execInstructionFetch cl asid line s = _
    rw [execInstructionFetch, hahead, hline]
    rfl
  · intro s w x hx hwait
    show execRemoteTimeout w s = _
    rw [execRemoteTimeout, hx]
    exact if_pos hwait
  · intro s asid va gone hboot hnone
    exact invalidationBroadcast_next hboot hnone
  · intro s pa n hin hboot old left
    refine ⟨fun hecc => ⟨?_, fun v => ?_, fun aop v => ?_, fun a b => ?_⟩, fun hecc => ⟨?_, fun v => ?_, fun aop v => ?_,
      fun a b => ?_⟩⟩
    · exact fwAccess_next (returns := true) (f := fun _ => none) hin hboot hecc rfl
    · exact fwAccess_next (returns := false) (f := fun _ => some v.toNat) hin hboot hecc rfl
    · exact fwAccess_next (returns := true)
        (f := fun o => some (atomNew aop.toNat (8 * n) o (v.toNat % 2 ^ (8 * n)))) hin hboot hecc rfl
    · refine fwAccess_next (returns := true)
        (f := fun o => if o = a.toNat % 2 ^ (8 * n) then some b.toNat else none) hin hboot hecc ?_
      by_cases h : old = a.toNat % 2 ^ (8 * n)
      · rw [if_pos h, if_pos h]
        rfl
      · rw [if_neg h, if_neg h]
        rfl
    · exact fwAccess_ecc (returns := true) (f := fun _ => none) hin hboot hecc
    · exact fwAccess_ecc (returns := false) (f := fun _ => some v.toNat) hin hboot hecc
    · exact fwAccess_ecc (returns := true)
        (f := fun o => some (atomNew aop.toNat (8 * n) o (v.toNat % 2 ^ (8 * n)))) hin hboot hecc
    · exact fwAccess_ecc (returns := true)
        (f := fun o => if o = a.toNat % 2 ^ (8 * n) then some b.toNat else none) hin hboot hecc

end Sys2Proof.Machine
end

section
/-! PROOFS. The dispatcher at work (R185 to R188, R196, R199, R243, R260, R446, R454). -/

namespace Sys2Proof.Machine

/-! ### A ring with room (R406) -/

theorem State.putRecord_waiting (s : State) (a : Nat) (d : List Dword) :
    ((s.putRecord a d).asid a).waiting = (s.asid a).waiting := by
  rw [State.asid_congr (State.putRecord_asids s a d)]
  split <;> simp [State.asid_stopJob, State.tailed, State.asid_setAsid]

/-- R406: a record that finds room leaves none waiting. -/
theorem ringFits_raise {s t : State} {a : Nat} (r : RecF) (ht : t.asids = s.asids) (hroom : s.ringRoom a = true) :
    ringFits a s (t.raise a r).1 := by
  have hasid : t.asid a = s.asid a := State.asid_congr ht a
  have hroom' : t.ringRoom a = true := by rw [← hroom, State.ringRoom, hasid]; rfl
  rw [ringFits, State.raise_of_room r hroom', State.putRecord_waiting, State.numbered_asid, if_pos rfl, hasid]

/-! ### The counters and the argument block of a launch (R185, R199) -/

@[simp] theorem State.devAt_asids (s : State) (asid va n : Nat) (u : Use) : (s.devAt asid va n u).1.asids = s.asids := by
  have h := s.devAt_frame asid va n u
  rw [DevFrame] at h
  rw [h]

theorem readPrereqs_asids (asid : Nat) (l : List (Nat × Nat)) (s : State) : (readPrereqs asid l s).1.asids = s.asids := by
  induction l generalizing s with
  | nil => rfl
  | cons p t ih =>
    have hd := s.devAt_asids asid p.1 8 useLoad
    unfold readPrereqs
    split
    next u _ h => exact (congrArg (fun r => r.1.asids) h).symm.trans hd
    next u _ h =>
      have hu : u.asids = s.asids := (congrArg (fun r => r.1.asids) h).symm.trans hd
      have ht := (ih u).trans hu
      dsimp only
      split
      next v _ hv => exact (congrArg (fun r => r.1.asids) hv).symm.trans ht
      next v _ hv => exact (congrArg (fun r => r.1.asids) hv).symm.trans ht

@[simp] theorem State.settleLaunch_asids (s : State) (n : Nat) : (s.settleLaunch n).asids = s.asids := by
  unfold State.settleLaunch
  dsimp only
  generalize s.clusters.map Prod.fst = cs
  induction cs generalizing s with
  | nil => rfl
  | cons c cs ih => exact (ih _).trans (s.performPicked_asids c _)

/-- R196: a launch that has ended and whose counter, if it has one, is reached is over. -/
theorem State.retireLaunch_over {s : State} {n : Nat} {l : Launch} (h : Claims.doneReached s n l) :
    Claims.launchOver s n l (s.retireLaunch n l) ∧ (s.retireLaunch n l).asids = s.asids := by
  by_cases h0 : l.dw 13 = 0
  · have heq : s.retireLaunch n l = { s.settleLaunch n with launches := Tab.drop (s.settleLaunch n).launches n } :=
      if_pos (by rw [h0]; rfl)
    exact ⟨⟨fun _ => heq, fun hne => absurd h0 hne⟩, heq ▸ s.settleLaunch_asids n⟩
  · obtain ⟨v, loc, hv⟩ := h.resolve_left h0
    have hva : (l.dw 13).toNat ≠ 0 := fun h => h0 (BitVec.eq_of_toNat_eq h)
    have heq : s.retireLaunch n l = { v.homeWrite loc (leBytes 8 ((leNat (v.homeRead loc 8) + 1) % 2 ^ 64)) with
        launches := Tab.drop (v.homeWrite loc (leBytes 8 ((leNat (v.homeRead loc 8) + 1) % 2 ^ 64))).launches n } := by
      unfold State.retireLaunch
      dsimp only
      rw [if_neg hva, hv]
    have hasids : v.asids = s.asids :=
      ((congrArg (fun r => r.1.asids) hv).symm.trans (State.devAt_asids _ _ _ _ _)).trans (s.settleLaunch_asids n)
    exact ⟨⟨fun h => absurd h h0, fun _ => ⟨v, loc, hv, heq⟩⟩, heq ▸ (State.homeWrite_asids v loc _).trans hasids⟩

section
variable {s t : State} {n : Nat} {l : Launch} (hl : s.launch? n = some l) (hheld : l.held = none)
  (hoff : s.jobOff l.asid = false)
include hl hheld hoff

section
variable (hst : l.state = .waiting)
include hst

/-- R185: a counter below its threshold keeps the launch waiting. -/
theorem launchPrereqRead_waits (ht : readPrereqs l.asid l.prereqs s = (t, .ok false)) :
    exec (.launchPrereqRead n) s = .next t := by
  show execLaunchPrereqRead n s = _
  unfold execLaunchPrereqRead
  simp only [hl, hheld, hoff, hst, bne_self_eq_false, Option.isSome_none, Bool.or_self, Bool.false_eq_true, if_false, ht]
  exact State.unlessFull_of_fits (ringFits_of_asids
    ((congrArg (fun r => r.1.asids) ht).symm.trans (readPrereqs_asids _ _ s)))

theorem launchPrereqRead_ready (ht : readPrereqs l.asid l.prereqs s = (t, .ok true)) (hn : l.niter ≠ 0) :
    exec (.launchPrereqRead n) s = .next (t.setLaunch n { l with state := .ready }) := by
  show execLaunchPrereqRead n s = _
  unfold execLaunchPrereqRead
  simp only [hl, hheld, hoff, hst, bne_self_eq_false, Option.isSome_none, Bool.or_self, Bool.false_eq_true, if_false, ht, hn]
  exact State.unlessFull_of_fits (ringFits_of_asids
    ((congrArg (fun r => r.1.asids) ht).symm.trans (readPrereqs_asids _ _ s)))

/-- R196: a launch of no iteration is over as soon as its counters are met. -/
theorem launchPrereqRead_over (ht : readPrereqs l.asid l.prereqs s = (t, .ok true)) (hn : l.niter = 0)
    (hdone : Claims.doneReached t n l) : ∃ e, exec (.launchPrereqRead n) s = .next e ∧ Claims.launchOver t n l e := by
  obtain ⟨hover, hasids⟩ := State.retireLaunch_over hdone
  refine ⟨t.retireLaunch n l, ?_, hover⟩
  show execLaunchPrereqRead n s = _
  unfold execLaunchPrereqRead
  simp only [hl, hheld, hoff, hst, bne_self_eq_false, Option.isSome_none, Bool.or_self, Bool.false_eq_true, if_false, ht, hn, if_true]
  exact State.unlessFull_of_fits (ringFits_of_asids (hasids.trans
    ((congrArg (fun r => r.1.asids) ht).symm.trans (readPrereqs_asids _ _ s))))
end

section
variable {bs : List Byte} (hargs : l.argsRead = false) (hplaced : l.placed ≠ 0)
include hargs hplaced

theorem argumentBlockRead_none (h0 : l.dw 4 = 0) (hfit : ringFits l.asid s (s.argsDone n l [])) :
    exec (.argumentBlockRead n) s = .next (s.argsDone n l []) := by
  have hva : (l.dw 4).toNat = 0 := by rw [h0]; rfl
  show execArgumentBlockRead n s = _
  unfold execArgumentBlockRead
  simp only [hl, hargs, hheld, hoff, hplaced, hva, Option.isSome_none, Bool.or_self, decide_false, Bool.false_eq_true, if_false,
    if_true]
  exact State.unlessFull_of_fits hfit

theorem argumentBlockRead_block (h0 : l.dw 4 ≠ 0) (ht : readArgs l.asid (l.dw 4).toNat 512 s = (t, .ok bs))
    (hfit : ringFits l.asid s (t.argsDone n l bs)) : exec (.argumentBlockRead n) s = .next (t.argsDone n l bs) := by
  have hva : (l.dw 4).toNat ≠ 0 := fun h => h0 (BitVec.eq_of_toNat_eq h)
  show execArgumentBlockRead n s = _
  unfold execArgumentBlockRead
  simp only [hl, hargs, hheld, hoff, hplaced, hva, ht, Option.isSome_none, Bool.or_self, decide_false, Bool.false_eq_true,
    if_false]
  exact State.unlessFull_of_fits hfit
end
end

/-! ### A crew is made (R19, R188, R454) -/

/-- Only the gangs and the waves may differ. -/
structure GangFrame (s t : State) : Prop where
  eq : t = { s with gangs := t.gangs, waves := t.waves }

theorem GangFrame.trans {s t u : State} (h : GangFrame s t) (g : GangFrame t u) : GangFrame s u :=
  ⟨g.eq.trans (by rw [h.eq])⟩

/-- Waves that are made one after the other change nothing else. -/
theorem foldl_waves {f : State → WaveId → State} (hf : ∀ s w, f s w = { s with waves := (f s w).waves }) (ws : List WaveId)
    (s : State) : ws.foldl f s = { s with waves := (ws.foldl f s).waves } := by
  induction ws generalizing s with
  | nil => rfl
  | cons w ws ih =>
    rw [List.foldl_cons, ih (f s w)]
    generalize (ws.foldl f (f s w)).waves = u
    rw [hf s w]

/-- R454: a gang as it is placed. -/
def Gang.placed (s : State) (l : Launch) (p : Placement) (g : Nat) : Gang :=
  { Gang.start l.form (p.hoBase + BitVec.ofNat 64 (65664 * g)) with halted := (s.asid l.asid).halt, intLive := 0 }

theorem State.startGang_eq (s : State) (c : CrewId) (l : Launch) (p : Placement) (g : Nat) : s.startGang c l p g
    = { s.setGang ⟨c, g⟩ (Gang.placed s l p g) with waves := (s.startGang c l p g).waves } :=
  foldl_waves (fun _ _ => rfl) _ (s.setGang ⟨c, g⟩ (Gang.placed s l p g))

/-- The gangs of a crew, made in turn. -/
def State.startGangs (s : State) (c : CrewId) (l : Launch) (p : Placement) (n : Nat) : State :=
  (List.range n).foldl (fun s g => s.startGang c l p g) s

theorem State.startGangs_succ (s : State) (c : CrewId) (l : Launch) (p : Placement) (n : Nat) :
    s.startGangs c l p (n + 1) = (s.startGangs c l p n).startGang c l p n := by
  rw [State.startGangs, List.range_succ, List.foldl_append]
  rfl

theorem State.startGangs_frame (s : State) (c : CrewId) (l : Launch) (p : Placement) (n : Nat) :
    GangFrame s (s.startGangs c l p n) := by
  induction n with
  | zero => exact ⟨rfl⟩
  | succ n ih =>
    rw [State.startGangs_succ]
    refine ih.trans ⟨?_⟩
    rw [State.startGang_eq]
    rfl

/-- R454: each gang is as it was placed. -/
theorem State.startGangs_gang? (s : State) (c : CrewId) (l : Launch) (p : Placement) (n g : Nat) (hg : g < n) :
    (s.startGangs c l p n).gang? ⟨c, g⟩ = some (Gang.placed s l p g) := by
  induction n with
  | zero => exact absurd hg (Nat.not_lt_zero g)
  | succ n ih =>
    rw [State.startGangs_succ, State.startGang_eq]
    show Tab.get? (Tab.set (s.startGangs c l p n).gangs ⟨c, n⟩ _) ⟨c, g⟩ = _
    by_cases hn : g = n
    · subst hn
      rw [Tab.get?_set_self, Gang.placed, (s.startGangs_frame c l p g).eq]
      rfl
    · rw [Tab.get?_set_ne _ _ (fun h => hn (congrArg GangId.gang h))]
      exact ih (Nat.lt_of_le_of_ne (Nat.le_of_lt_succ hg) hn)

/-- The crew that is made for crew `l.placed` of a launch. -/
def State.newCrew (s : State) (p : Placement) (l : Launch) (kn : Kernel) : Crew :=
  Crew.start p.cluster (l.crewGangs l.placed) l.eff (s.asid l.asid).debug
    (kn.formats.foldl (fun m f => SMap.set m 0 f.1 (f.2 ||| 0x80000000)) []) p.ctxBase p.undoBase p.bwBase

/-- The launch with one more crew placed. -/
def Launch.more (l : Launch) : Launch :=
  { l with
    placed := l.placed + 1, inQueue := l.inQueue && !decide (l.ncrews ≤ l.placed + 1)
    state := if l.ncrews ≤ l.placed + 1 then .placed else .ready }

/-- The state in which the crew has its gangs, and in spatial form no region yet. -/
def State.withCrew (s : State) (p : Placement) (l : Launch) (kn : Kernel) : State :=
  (((s.setLaunch p.launch l.more).setCrew ⟨p.launch, l.placed⟩ (s.newCrew p l kn)).modCluster p.cluster (fun q =>
    { kn.queues.foldl (fun q d => q.declare l.asid d) q with
      l1 := [], gate := if q.gate == .request then .open_ else q.gate })).startGangs ⟨p.launch, l.placed⟩ l p
        (l.crewGangs l.placed)

theorem State.withCrew_crew? (s : State) (p : Placement) (l : Launch) (kn : Kernel) :
    (s.withCrew p l kn).crew? ⟨p.launch, l.placed⟩ = some (s.newCrew p l kn) := by
  rw [State.withCrew, State.crew?, (State.startGangs_frame _ _ _ _ _).eq]
  exact State.crew?_setCrew_self _ _ _

theorem State.withCrew_made (s : State) (p : Placement) (l : Launch) (kn : Kernel) : Claims.crewMade s p l kn (s.withCrew p l kn) := by
  refine ⟨s.withCrew_crew? p l kn, ⟨l.more.inQueue, l.more.state, ?_, ?_, ?_⟩, fun g hg => ?_, ?_, ?_⟩
  · rw [State.withCrew, State.launch?, (State.startGangs_frame _ _ _ _ _).eq]
    exact Tab.get?_set_self _ _ _
  · unfold Launch.more
    dsimp only
    split
    next h => exact ⟨fun _ => h, fun _ => rfl⟩
    next h => exact ⟨fun h' => (by cases h'), fun h' => absurd h' h⟩
  · simp [Launch.more]
  · exact State.startGangs_gang? _ _ _ _ _ _ hg
  · rw [State.withCrew, (State.startGangs_frame _ _ _ _ _).eq]
    rfl
  · rw [State.withCrew, (State.startGangs_frame _ _ _ _ _).eq]
    rfl

/-- R186, R446: making a crew, in spatial form with its region, and with its paddocks once the argument block is read. -/
theorem State.makeCrew_eq (s : State) (l : Launch) (kn : Kernel) (p : Placement) : s.makeCrew l kn p =
    if l.form == 2 then
      match (s.withCrew p l kn).placeRegion ⟨p.launch, l.placed⟩ (Claims.chainsThere (s.withCrew p l kn) p kn) with
      | none => .no "no places or weir slots for the paddocks"
      | some t =>
        if !l.argsRead then .done t
        else match t.startRegion ⟨p.launch, l.placed⟩ (s.newCrew p l kn) with
          | .noRoom => .no "no places or weir slots for the paddocks"
          | .refused u => .failed ((u.dropCrew ⟨p.launch, l.placed⟩ (s.newCrew p l kn) kn).setLaunch p.launch
              { l with state := .stopped })
          | .ok u => .done u
    else .done (s.withCrew p l kn) := by
  rfl

section
variable {s : State} {p : Placement} {l : Launch} {kn : Kernel} (hl : s.launch? p.launch = some l)
  (hplacing : s.placing l = true) (hturn : s.behind p.launch l = false) (hctx : p.ctxBase.toNat % 65536 = 0)
  (hho : p.hoBase.toNat % 128 = 0) (hprv : p.prvBase.toNat % 65536 = 0) (hcluster : p.cluster < 104)
  (honly : ∀ o, l.only = some o → o = p.cluster) (hk : l.kernel = some kn) (hon : (s.cluster p.cluster).isOff = false)
  (hret : s.retiring p.cluster = false) (hfits : s.coreFits p.cluster (l.crewGangs l.placed) kn = true)
  (hqueues : queuesFit (s.cluster p.cluster) l.asid kn.queues = true)

section
include hprv hcluster honly hk hon hret hfits hqueues

/-- R186: a cluster with room takes the crew. -/
theorem placeAt_fits : s.placeAt p l = s.makeCrew l kn p := by
  have hwhere : (decide (104 ≤ p.cluster) || (match l.only with | some o => o != p.cluster | none => false)) = false := by
    rw [decide_eq_false (Nat.not_le.mpr hcluster), Bool.false_or]
    split
    next o ho => rw [honly o ho, bne_self_eq_false]
    next => rfl
  have halign : ¬((decide (l.placed = 0) && p.prvBase.toNat % 65536 != 0) = true) := by
    rw [hprv]
    simp
  unfold State.placeAt
  dsimp only
  rw [hk]
  refine (if_neg (Bool.eq_false_iff.mp hwhere)).trans ((if_neg halign).trans ?_)
  simp only [hon, hret, hfits, hqueues, Bool.or_self, Bool.not_true, Bool.false_eq_true, if_false]
end

section
include hl hplacing hturn hctx hho

theorem crewPlacement_done {t : State} (h : s.placeAt p l = .done t) : exec (.crewPlacement p) s = .next t := by
  show execCrewPlacement p s = _
  unfold execCrewPlacement
  simp only [hl, hplacing, hturn, hctx, hho, h, bne_self_eq_false, Bool.not_true, Bool.or_self, Bool.false_eq_true, if_false]

theorem crewPlacement_failed {t : State} (h : s.placeAt p l = .failed t) : exec (.crewPlacement p) s = .next t := by
  show execCrewPlacement p s = _
  unfold execCrewPlacement
  simp only [hl, hplacing, hturn, hctx, hho, h, bne_self_eq_false, Bool.not_true, Bool.or_self, Bool.false_eq_true, if_false]
end

include hl hplacing hturn hctx hho hprv hcluster honly hk hon hret hfits hqueues

/-- R186 to R188, R446: the next crew of the launch is made, in spatial form with its region. -/
theorem crewPlacement_makes : ∃ t x, Claims.crewMade s p l kn t ∧ t.crew? ⟨p.launch, l.placed⟩ = some x
    ∧ (l.form ≠ 2 → exec (.crewPlacement p) s = .next t)
    ∧ ∀ u, l.form = 2 → t.placeRegion ⟨p.launch, l.placed⟩ (Claims.chainsThere t p kn) = some u →
      (l.argsRead = false → exec (.crewPlacement p) s = .next u)
      ∧ (l.argsRead = true →
        (∀ v, u.startRegion ⟨p.launch, l.placed⟩ x = .ok v → exec (.crewPlacement p) s = .next v)
        ∧ ∀ v, u.startRegion ⟨p.launch, l.placed⟩ x = .refused v → exec (.crewPlacement p) s = .next
            ((v.dropCrew ⟨p.launch, l.placed⟩ x kn).setLaunch p.launch { l with state := .stopped })) := by
  have hat := (placeAt_fits hprv hcluster honly hk hon hret hfits hqueues).trans (s.makeCrew_eq l kn p)
  have hdone {t : State} := crewPlacement_done (t := t) hl hplacing hturn hctx hho
  refine ⟨s.withCrew p l kn, s.newCrew p l kn, s.withCrew_made p l kn, s.withCrew_crew? p l kn, fun hform => ?_,
    fun u hform hu => ?_⟩
  · exact hdone (hat.trans (if_neg (by simpa using hform)))
  · rw [if_pos (by rw [hform]; rfl), hu] at hat
    dsimp only at hat
    refine ⟨fun hargs => ?_, fun hargs => ⟨fun v hv => ?_, fun v hv => ?_⟩⟩
    · exact hdone (hat.trans (if_pos (by rw [hargs]; rfl)))
    · rw [hv] at hat
      exact hdone (hat.trans (if_neg (by rw [hargs]; decide)))
    · rw [hv] at hat
      exact crewPlacement_failed hl hplacing hturn hctx hho (hat.trans (if_neg (by rw [hargs]; decide)))
end

/-- R446: the start of a gang in spatial form, where the header of its point can be read. -/
theorem State.startSpatial_eq {s : State} {i : GangId} {k : GCtx} {n : Nat} (hk : gctx? s i = some k)
    (hn : k.kn.startPoint? = some n) (hecc : hdrEcc k s = none) :
    s.startSpatial i = startTokens k n (itersOf (s.live i)) ((writeHeader k n 2 (s.live i) 0 0 s).modGang i (fun g =>
      { g with interval := some n, intForm := 2, intLive := popc (s.live i), ev := some n })) := by
  unfold State.startSpatial
  simp only [hk, hn, hecc]

theorem agingPeriod_next {s : State} {n : Nat} {l : Launch} (hl : s.launch? n = some l) (hage : s.ageb ≠ 0)
    (hst : l.state = .ready) : exec (.agingPeriod n) s = .next (s.setLaunch n { l with eff := min 15 (l.eff + 1) }) := by
  show execAgingPeriod n s = _
  unfold execAgingPeriod
  simp only [hl, beq_false_of_ne hage, hst, bne_self_eq_false, Bool.or_self, Bool.false_eq_true, if_false]

/-! ### Triggers (R243) -/

section
variable {s : State} {cl q n : Nat} {d : List Dword} (hh : (s.queue cl q).handler = some (d, n)) (ht : (s.queue cl q).trig ≠ 0)
include hh ht

theorem triggerConsume_accept (hst : s.enqStatus (s.queue cl q).asid n d = 0) : exec (.triggerConsume cl q) s
    = .next ((s.setQueue cl q { s.queue cl q with trig := (s.queue cl q).trig - 1 }).accept n d (some cl)) := by
  show execTriggerConsume cl q s = _
  unfold execTriggerConsume
  simp only [hh, ht, hst, if_false, if_true, Nat.zero_ne_one]

theorem triggerConsume_fault (h0 : s.enqStatus (s.queue cl q).asid n d ≠ 0) (h1 : s.enqStatus (s.queue cl q).asid n d ≠ 1)
    (hroom : s.ringRoom (s.queue cl q).asid = true) : exec (.triggerConsume cl q) s
    = .next ((s.setQueue cl q { s.queue cl q with trig := (s.queue cl q).trig - 1 }).raise (s.queue cl q).asid
        { kind := 8, cluster := cl, aux := 4 }).1 := by
  show execTriggerConsume cl q s = _
  unfold execTriggerConsume
  simp only [hh, ht, h0, h1, if_false]
  exact State.unlessFull_of_fits (ringFits_raise _ rfl hroom)
end

/-! ### A crew retires (R196) -/

@[simp] theorem State.dropCrew_asids (s : State) (c : CrewId) (x : Crew) (kn : Kernel) :
    (s.dropCrew c x kn).asids = s.asids := rfl

section
variable {s : State} {c : CrewId} {x : Crew} {l : Launch} {kn : Kernel} (hx : s.crew? c = some x)
  (hl : s.launch? c.launch = some l) (hk : l.kernel = some kn) (hretired : s.allRetired c = true)
  (hoff : s.jobOff l.asid = false) (hparks : ∀ k ∈ x.parks, x.lost k = false) (hdrained : s.drained c x kn = true)
include hx hl hk hretired hoff hparks hdrained

theorem crewRetire_eq : exec (.crewRetire c) s
    = .next (if l.gone + 1 = l.ncrews ∧ l.placed = l.ncrews then
        ((s.dropCrew c x kn).setLaunch c.launch { l with gone := l.gone + 1 }).retireLaunch c.launch
          { l with gone := l.gone + 1 }
      else (s.dropCrew c x kn).setLaunch c.launch { l with gone := l.gone + 1 }) := by
  have hlost : x.parks.any x.lost = false := List.any_eq_false.mpr fun k hk => Bool.eq_false_iff.mp (hparks k hk)
  show execCrewRetire c s = _
  unfold execCrewRetire
  simp only [hx, hl, hk, hretired, hoff, hlost, hdrained, Bool.not_true, Bool.or_self, Bool.false_eq_true, if_false]
  have hlast : (decide (l.gone + 1 = l.ncrews) && decide (l.placed = l.ncrews) && !s.jobOff l.asid) = true
      ↔ (l.gone + 1 = l.ncrews ∧ l.placed = l.ncrews) := by
    simp [hoff]
  exact congrArg Host.Outcome.next (ite_congr (propext hlast) (fun _ => rfl) (fun _ => rfl))

theorem crewRetire_more (h : l.gone + 1 < l.ncrews ∨ l.placed < l.ncrews) : exec (.crewRetire c) s
    = .next ((s.dropCrew c x kn).setLaunch c.launch { l with gone := l.gone + 1 }) := by
  rw [crewRetire_eq hx hl hk hretired hoff hparks hdrained, if_neg (by omega)]

/-- R196: with its last crew the launch is over. -/
theorem crewRetire_last (hgone : l.gone + 1 = l.ncrews) (hplaced : l.placed = l.ncrews)
    (hdone : Claims.doneReached ((s.dropCrew c x kn).setLaunch c.launch { l with gone := l.gone + 1 }) c.launch l) :
    ∃ e, exec (.crewRetire c) s = .next e
      ∧ Claims.launchOver ((s.dropCrew c x kn).setLaunch c.launch { l with gone := l.gone + 1 }) c.launch l e := by
  refine ⟨_, (crewRetire_eq hx hl hk hretired hoff hparks hdrained).trans (congrArg Host.Outcome.next
    (if_pos ⟨hgone, hplaced⟩)), ?_⟩
  exact (State.retireLaunch_over (l := { l with gone := l.gone + 1 }) hdone).1
end

/-- Settles O45, by what each step of the dispatcher does where its tests pass. -/
theorem dispatcherEvents : Obligations.DispatcherEvents := by
  refine ⟨?_, ?_, ?_, ?_, ?_, ?_, ?_, ?_⟩
  · intro s t n l hl hst hheld hoff
    exact ⟨launchPrereqRead_waits hl hheld hoff hst, launchPrereqRead_ready hl hheld hoff hst,
      launchPrereqRead_over hl hheld hoff hst⟩
  · intro s t n l bs hl hargs hheld hoff hplaced fits
    refine ⟨argumentBlockRead_none hl hheld hoff hargs hplaced, argumentBlockRead_block hl hheld hoff hargs hplaced,
      fun hform u => ?_⟩
    exact if_neg (fun h => hform (eq_of_beq h))
  · intro s p l kn hl hplacing hturn hctx hho hprv hcluster honly hk hon hret hfits hqueues
    exact crewPlacement_makes hl hplacing hturn hctx hho hprv hcluster honly hk hon hret hfits hqueues
  · intro s c x
    refine ⟨fun t ht => ?_, fun t ht => ?_⟩ <;> rw [State.startRegion, ht]
  · intro s i k n hk hn hecc
    exact State.startSpatial_eq hk hn hecc
  · intro s n l hl hage hst
    exact agingPeriod_next hl hage hst
  · intro s cl q d n hh ht t
    exact ⟨triggerConsume_accept hh ht, triggerConsume_fault hh ht⟩
  · intro s c x l kn hx hl hk hretired hoff hparks hdrained t
    exact ⟨crewRetire_more hx hl hk hretired hoff hparks hdrained, crewRetire_last hx hl hk hretired hoff hparks hdrained⟩

end Sys2Proof.Machine
end

section
/-! PROOFS. Firmware and the debugger: what RESUME, STOP and HALT do (R318, R407 to R411, R418, R447, R453). -/

namespace Sys2Proof.Machine

/-! ### Folds that change little -/

/-- A fold whose every step leaves the state as it is. -/
theorem foldl_fixed {α β : Type} {f : β → α → β} {s : β} {l : List α} (h : ∀ a ∈ l, f s a = s) : l.foldl f s = s := by
  induction l with
  | nil => rfl
  | cons a l ih =>
    rw [List.foldl_cons, h a List.mem_cons_self]
    exact ih fun b hb => h b (List.mem_cons_of_mem a hb)

/-- Only the crews may differ. -/
structure CrewsFrame (s t : State) : Prop where
  eq : t = { s with crews := t.crews }

theorem CrewsFrame.refl (s : State) : CrewsFrame s s := ⟨rfl⟩

theorem CrewsFrame.trans {s t u : State} (h : CrewsFrame s t) (g : CrewsFrame t u) : CrewsFrame s u :=
  ⟨g.eq.trans (by rw [h.eq])⟩

theorem CrewsFrame.foldl {α : Type} {f : State → α → State} (hf : ∀ s a, CrewsFrame s (f s a)) (l : List α) (s : State) :
    CrewsFrame s (l.foldl f s) := by
  induction l generalizing s with
  | nil => exact .refl s
  | cons a l ih => exact (hf s a).trans (ih (f s a))

theorem State.modCrew_frame (s : State) (c : CrewId) (f : Crew → Crew) : CrewsFrame s (s.modCrew c f) := by
  unfold State.modCrew
  split <;> exact ⟨rfl⟩

/-! ### RESUME (R407, R408, R415) -/

/-- R264, R294: the room that firmware gives is in the crews. -/
theorem State.giveRoom_frame (s : State) (a : Nat) (q : BitVec 32) (more : Nat) : CrewsFrame s (s.giveRoom a q more) := by
  refine CrewsFrame.foldl (fun s p => CrewsFrame.trans (?_ : CrewsFrame s (s.enlarge q more p.2)) ?_) _ s
  · exact CrewsFrame.foldl (fun s (w : BwWait) => s.modCrew_frame w.crew _) _ s
  · unfold State.extendPark
    split
    · exact .refl _
    · refine CrewsFrame.foldl (fun s p => ?_) _ _
      split
      · split
        · exact s.modCrew_frame _ _
        · exact .refl s
      · exact .refl s

/-- What a record holds of waves, gangs, crews and copies goes on. -/
def State.recordDone (s : State) (a : Nat) (q : BitVec 32) : State :=
  let u := (s.fresh.2.releaseWaves a q).giveRoom a q (s.fresh.1 % 2 ^ 32 + 1)
  { u with
    gangs := Tab.map u.gangs (fun i g =>
      if u.asidOf i.crew == a && g.brk == some q then { g with brk := none, halted := (u.asid a).halt } else g)
    crews := Tab.map u.crews (fun c x => if u.asidOf c == a then x.release q else x)
    clusters := u.clusters.map (fun (c : Nat × Cluster) => (c.1, c.2.releaseCopies u a q)) }

section
variable {s : State} {a : Nat} {q : BitVec 32}

/-- R408, R409: without a party, or in a stopped job, a record is answered by nothing. -/
theorem State.resume_none (h : s.holds a q = false ∨ (s.asid a).stopped = true) : s.resume a q = s := by
  refine if_pos ?_
  obtain h | h := h <;> rw [h]
  · rfl
  · exact Bool.or_true _

theorem State.resume_held (hh : s.holds a q = true) (hst : (s.asid a).stopped = false) :
    s.resume a q = ((s.recordDone a q).releaseLaunches a q).decideSpatial a :=
  if_neg (by rw [hh, hst]; decide)

theorem State.recordDone_frame : s.recordDone a q = { s with
    waves := (s.recordDone a q).waves, gangs := (s.recordDone a q).gangs, crews := (s.recordDone a q).crews
    clusters := (s.recordDone a q).clusters, free := (s.recordDone a q).free } := by
  unfold State.recordDone
  dsimp only
  rw [((s.fresh.2.releaseWaves a q).giveRoom_frame a q (s.fresh.1 % 2 ^ 32 + 1)).eq]
  rfl

/-- R408: a wave that the record holds goes on, and no other changes. -/
theorem State.recordDone_wave? {w : WaveId} {x : Wave} (hw : s.wave? w = some x) : (s.recordDone a q).wave? w
    = some (if x.pending = some q ∧ (∃ l, s.launch? w.crew.launch = some l ∧ l.asid = a)
        then { x with pending := none, stall := .ready } else x) := by
  have hwaves : (s.recordDone a q).waves = (s.fresh.2.releaseWaves a q).waves := by
    rw [State.recordDone, ((s.fresh.2.releaseWaves a q).giveRoom_frame a q (s.fresh.1 % 2 ^ 32 + 1)).eq]
  have hjob : ((match s.launch? w.crew.launch with | some l => l.asid == a | none => false) = true)
      ↔ ∃ l, s.launch? w.crew.launch = some l ∧ l.asid = a := by
    cases s.launch? w.crew.launch <;> simp
  have hiff : (x.pending == some q && (match s.launch? w.crew.launch with | some l => l.asid == a | none => false)) = true
      ↔ (x.pending = some q ∧ (∃ l, s.launch? w.crew.launch = some l ∧ l.asid = a)) := by
    rw [Bool.and_eq_true, beq_iff_eq, hjob]
  rw [State.wave?, hwaves]
  have hw' : Tab.get? s.fresh.2.waves w = some x := hw
  rw [State.releaseWaves, Tab.get?_map, hw', Option.map_some]
  exact congrArg some (ite_congr (propext hiff) (fun _ => rfl) (fun _ => rfl))

/-- R407: a gang that the BREAK record halted goes on unless its job is halted. -/
theorem State.recordDone_gangs : (s.recordDone a q).gangs = Tab.map s.gangs (fun i g =>
    if s.asidOf i.crew == a && g.brk == some q then { g with brk := none, halted := (s.asid a).halt } else g) := by
  rw [State.recordDone, ((s.fresh.2.releaseWaves a q).giveRoom_frame a q (s.fresh.1 % 2 ^ 32 + 1)).eq]
  rfl

theorem State.recordDone_gang? {i : GangId} {g : Gang} (hg : s.gang? i = some g) : (s.recordDone a q).gang? i
    = some (if s.asidOf i.crew = a ∧ g.brk = some q then { g with brk := none, halted := (s.asid a).halt } else g) := by
  rw [State.gang?, State.recordDone_gangs, Tab.get?_map]
  have hg' : Tab.get? s.gangs i = some g := hg
  rw [hg', Option.map_some]
  simp only [Bool.and_eq_true, beq_iff_eq]

/-- R196: a record that no launch is held by leaves the launches. -/
theorem State.releaseLaunches_none (h : ∀ l ∈ s.launches, l.2.held ≠ some q) : s.releaseLaunches a q = s := by
  have hnone : s.launches.filter (fun l => l.2.asid == a && l.2.held == some q) = [] := by
    rw [List.filter_eq_nil_iff]
    intro l hl
    simp [h l hl]
  rw [State.releaseLaunches, hnone]
  rfl

theorem State.releaseLaunches_one {n : Nat} {l : Launch}
    (h : s.launches.filter (fun l => l.2.asid == a && l.2.held == some q) = [(n, l)]) :
    s.releaseLaunches a q = if l.state = .retiring
      then (s.setLaunch n { l with held := none }).retireLaunch n { l with held := none }
      else s.setLaunch n { l with held := none } := by
  rw [State.releaseLaunches, h]
  simp only [List.foldl_cons, List.foldl_nil, beq_iff_eq]
end

/-! ### The decision of a spatial gang (R370) -/

/-- A gang of a job takes the decision that it has due in spatial form. -/
def State.decideIfDue (a : Nat) (s : State) (i : GangId) : State :=
  if s.asidOf i.crew == a && (match s.gang? i with | some g => g.form == 2 && g.due.isSome | none => false)
  then s.tryDecide i else s

theorem State.decideSpatial_eq (s : State) (a : Nat) :
    s.decideSpatial a = (s.gangs.map Prod.fst).foldl (State.decideIfDue a) s := rfl

theorem State.decideIfDue_none {s : State} {a : Nat} {i : GangId}
    (h : ∀ g, s.gang? i = some g → s.asidOf i.crew ≠ a ∨ g.form ≠ 2 ∨ g.due = none) : State.decideIfDue a s i = s := by
  refine if_neg ?_
  rw [Bool.and_eq_true, beq_iff_eq]
  rintro ⟨hjob, hd⟩
  cases hg : s.gang? i with
  | none => rw [hg] at hd; cases hd
  | some g =>
    rw [hg] at hd
    simp only [Bool.and_eq_true, beq_iff_eq] at hd
    obtain h | h | h := h g hg
    · exact h hjob
    · exact h hd.1
    · rw [h] at hd
      cases hd.2

/-- Where no gang has a decision due, none is taken. -/
theorem State.decideSpatial_none {s : State} {a : Nat} (h : ∀ i g, s.gang? i = some g → g.due = none) :
    s.decideSpatial a = s :=
  foldl_fixed fun i _ => State.decideIfDue_none fun g hg => .inr (.inr (h i g hg))

/-- The gangs before the one whose decision is due change nothing. -/
theorem State.decideSpatial_last {s : State} {a : Nat} {i : GangId} {g : Gang} {pre : List (GangId × Gang)}
    (hgangs : s.gangs = pre ++ [(i, g)]) (hg : s.gang? i = some g) (ha : s.asidOf i.crew = a) (hform : g.form = 2)
    (hdue : g.due.isSome = true)
    (hpre : ∀ h ∈ pre, ∀ x, s.gang? h.1 = some x → s.asidOf h.1.crew ≠ a ∨ x.form ≠ 2 ∨ x.due = none) :
    s.decideSpatial a = s.tryDecide i := by
  have hstay : (pre.map Prod.fst).foldl (State.decideIfDue a) s = s := by
    refine foldl_fixed fun j hj => State.decideIfDue_none fun x hx => ?_
    obtain ⟨h, hmem, rfl⟩ := List.mem_map.mp hj
    exact hpre h hmem x hx
  rw [State.decideSpatial_eq, hgangs, List.map_append, List.foldl_append, hstay]
  exact if_pos (by simp [ha, hg, hform, hdue])

/-! ### The debugger (R418, R447) -/

/-- R418: what HALT and its release leave of the registers and the gangs of a job. -/
theorem State.asid_modAsid (s : State) (a b : Nat) (f : Asid → Asid) :
    (s.modAsid a f).asid b = if b = a then f (s.asid a) else s.asid b := State.asid_setAsid s a b _

theorem State.haltJob_gang? {s : State} {a : Nat} {i : GangId} {g : Gang} (hg : s.gang? i = some g) :
    (s.haltJob a).gang? i = some (if s.asidOf i.crew = a then { g with halted := true } else g) := by
  have hg' : Tab.get? (s.modAsid a (fun x => { x with halt := true })).gangs i = some g := hg
  rw [State.haltJob, State.gang?, Tab.get?_map, hg', Option.map_some]
  simp only [beq_iff_eq]
  rfl

/-- R418: the gangs of a job as HALT written to 0 leaves them. -/
def State.unhalted (s : State) (a : Nat) : State :=
  let s := s.modAsid a (fun x => { x with halt := false })
  { s with gangs := Tab.map s.gangs (fun i g =>
    if s.asidOf i.crew == a && g.brk.isNone then { g with halted := false } else g) }

theorem State.unhalted_gang? {s : State} {a : Nat} {i : GangId} {g : Gang} (hg : s.gang? i = some g) :
    (s.unhalted a).gang? i = some (if s.asidOf i.crew = a ∧ g.brk = none then { g with halted := false } else g) := by
  have hg' : Tab.get? (s.modAsid a (fun x => { x with halt := false })).gangs i = some g := hg
  rw [State.unhalted, State.gang?, Tab.get?_map, hg', Option.map_some]
  simp only [Bool.and_eq_true, beq_iff_eq, Option.isNone_iff_eq_none]
  rfl

/-- Where no gang of the state has a decision due, a table made from its gangs has none either. -/
theorem due_none_of_map {s t : State} {f : GangId → Gang → Gang} (hf : ∀ i g, (f i g).due = g.due)
    (ht : t.gangs = Tab.map s.gangs f) (h : ∀ g ∈ s.gangs, g.2.due = none) (i : GangId) (g : Gang) (hg : t.gang? i = some g) :
    g.due = none := by
  rw [State.gang?, ht, Tab.get?_map, Option.map_eq_some_iff] at hg
  obtain ⟨y, hy, rfl⟩ := hg
  rw [hf]
  exact h (i, y) (Tab.mem_of_get? hy)

theorem State.resumeJob_eq {s : State} {a : Nat} (h : ∀ g ∈ s.gangs, g.2.due = none) : s.resumeJob a = s.unhalted a := by
  refine State.decideSpatial_none (due_none_of_map (s := s) (t := s.unhalted a)
    (f := fun i g => if s.asidOf i.crew == a && g.brk.isNone then { g with halted := false } else g) (fun i g => ?_) rfl h)
  split <;> rfl

/-- R447: a gang that the debugger resumes, which has no decision due. -/
theorem gangResume_next {s : State} {c : CrewId} {n : Nat} {g : Gang} (f : Option (BitVec 2)) (hboot : s.booted = true)
    (hg : s.gang? ⟨c, n⟩ = some g) (hdue : ∀ i x, s.gang? i = some x → x.due = none) :
    exec (.gangResume c n f) s = .next (s.setGang ⟨c, n⟩ { g with
      halted := false, brk := none, dbgForm := match f with | none => g.dbgForm | some f => if f = 3 then none else some f }) := by
  have hstay (y : Gang) (hy : y.due = g.due) : (s.setGang ⟨c, n⟩ y).decideSpatial (s.asidOf c) = s.setGang ⟨c, n⟩ y := by
    refine State.decideSpatial_none fun i x hx => ?_
    have hx' : Tab.get? (Tab.set s.gangs ⟨c, n⟩ y) i = some x := hx
    rw [Tab.get?_set] at hx'
    split at hx'
    · cases hx'
      exact hy.trans (hdue _ g hg)
    · exact hdue i x hx'
  show execGangResume c n f s = _
  rw [execGangResume, hg, State.byFirmware, hboot]
  cases f with
  | none => exact congrArg Host.Outcome.next (hstay _ rfl)
  | some f =>
    simp only [beq_iff_eq]
    exact congrArg Host.Outcome.next (hstay _ rfl)

/-! ### Pre-emption (R410) -/

theorem State.preemptWrite_crew? {s : State} {a : Nat} {v : Dword} {c : CrewId} {x : Crew} (hx : s.crew? c = some x) :
    (s.preemptWrite a v).crew? c = some
      (if s.asidOf c = a ∧ x.cluster = fld v 6 0 ∧ c.crew = fld v 47 8 ∧ x.saved = false then { x with preempt := true } else x) := by
  have hx' : Tab.get? s.crews c = some x := hx
  rw [State.preemptWrite, State.crew?, Tab.get?_map, hx', Option.map_some]
  simp only [Bool.and_eq_true, beq_iff_eq, Bool.not_eq_true', and_assoc]

theorem sliceTimerExpiry_next {s : State} {c : CrewId} {x : Crew} (hx : s.crew? c = some x)
    (hslice : (s.cluster x.cluster).tslice ≠ 0) (hsaved : x.saved = false) (hwanted : s.wanted c x = true) :
    exec (.sliceTimerExpiry c) s = .next (if s.disturbed c then s else s.setCrew c { x with preempt := true }) := by
  show execSliceTimerExpiry c s = _
  unfold execSliceTimerExpiry
  simp only [hx, hslice, hsaved, hwanted, decide_false, Bool.not_true, Bool.or_self, Bool.false_eq_true, if_false]
  split <;> rfl

/-! ### STOP (R318, R408) -/

/-- A crew without the stopping rounds and the younger ones. -/
def Crew.stopRounds (x : Crew) : Crew := x.discard ((x.roundPads.flatMap (fun p => (x.stopAt p).2)).map (fun r => r.id))

theorem stopCrew_eq (s : State) (c : CrewId) : stopCrew c false s
    = match s.crew? c with | some x => s.setCrew c x.stopRounds | none => s := by
  unfold stopCrew
  split
  next h => rw [h]
  next x h =>
    rw [h]
    exact State.modCrew_some _ h

theorem stopCrew_frame (s : State) (c : CrewId) : CrewsFrame s (stopCrew c false s) := by
  rw [stopCrew_eq]
  split <;> exact ⟨rfl⟩

theorem stopCrew_crew? (s : State) (c d : CrewId) : (stopCrew c false s).crew? d
    = if d = c then (s.crew? d).map Crew.stopRounds else s.crew? d := by
  rw [stopCrew_eq]
  cases h : s.crew? c with
  | none =>
    dsimp only
    split
    next hd => rw [hd, h]; rfl
    next => rfl
  | some x =>
    show Tab.get? (Tab.set s.crews c x.stopRounds) d = _
    rw [Tab.get?_set]
    by_cases hd : d = c
    · rw [hd, h, if_pos rfl, if_pos rfl]
      rfl
    · rw [if_neg (Ne.symm hd), if_neg hd]
      rfl

/-- The crews of a job without the rounds that a stop discards. -/
def State.stopCrews (s : State) (cs : List CrewId) : State := cs.foldl (fun s c => stopCrew c false s) s

theorem State.stopCrews_frame (s : State) (cs : List CrewId) : CrewsFrame s (s.stopCrews cs) :=
  CrewsFrame.foldl stopCrew_frame cs s

theorem State.stopCrews_namesOnce {s : State} (h : namesOnce s.crews) (cs : List CrewId) : namesOnce (s.stopCrews cs).crews := by
  induction cs generalizing s with
  | nil => exact h
  | cons c cs ih =>
    refine ih (s := stopCrew c false s) ?_
    rw [stopCrew_eq]
    split
    · exact namesOnce_set c _ h
    · exact h

theorem State.stopCrews_crew? {cs : List CrewId} (h : cs.Nodup) (s : State) (d : CrewId) : (s.stopCrews cs).crew? d
    = if d ∈ cs then (s.crew? d).map Crew.stopRounds else s.crew? d := by
  induction cs generalizing s with
  | nil => rfl
  | cons c cs ih =>
    obtain ⟨hc, hcs⟩ := List.nodup_cons.mp h
    refine (ih hcs (stopCrew c false s)).trans ?_
    rw [stopCrew_crew?]
    by_cases hd : d = c
    · subst hd
      rw [if_neg hc, if_pos rfl, if_pos List.mem_cons_self]
    · by_cases hm : d ∈ cs
      · rw [if_pos hm, if_neg hd, if_pos (List.mem_cons_of_mem c hm)]
      · rw [if_neg hm, if_neg hd, if_neg (fun hcons => (List.mem_cons.mp hcons).elim hd hm)]

theorem State.mem_crewsOf {s : State} {a : Nat} {c : CrewId} {x : Crew} (hx : s.crew? c = some x) :
    c ∈ s.crewsOf a ↔ s.asidOf c = a := by
  have hmem : c ∈ s.crews.map Prod.fst := List.mem_map_of_mem (f := Prod.fst) (Tab.mem_of_get? hx)
  rw [State.crewsOf, List.mem_filter, beq_iff_eq]
  exact ⟨fun h => h.2, fun h => ⟨hmem, h⟩⟩

section
variable {s : State} {a : Nat} {q : BitVec 32} (hh : s.holds a q = true)

/-- R408: a round that must commit first and never ends stops the job at once. -/
def State.stopNever (s : State) (a : Nat) : Bool :=
  (s.crewsOf a).any (fun c => match s.crew? c with | some x => x.neverEnds | none => false)

theorem State.stopNever_iff : s.stopNever a = true ↔ ∃ c x, s.crew? c = some x ∧ s.asidOf c = a ∧ x.neverEnds = true := by
  rw [State.stopNever, List.any_eq_true]
  constructor
  · rintro ⟨c, hc, hx⟩
    cases h : s.crew? c with
    | none => rw [h] at hx; cases hx
    | some x =>
      rw [h] at hx
      exact ⟨c, x, h, (State.mem_crewsOf h).mp hc, hx⟩
  · rintro ⟨c, x, hx, ha, hn⟩
    exact ⟨c, (State.mem_crewsOf hx).mpr ha, by rw [hx]; exact hn⟩

include hh

theorem State.stopRecord_never (hn : s.stopNever a = true) : s.stopRecord a q = s.stopJob a :=
  (if_neg (by rw [hh]; decide)).trans (if_pos hn)

theorem State.stopRecord_ends (hn : s.stopNever a = false) : s.stopRecord a q
    = ((s.stopCrews (s.crewsOf a)).modAsid a (fun x => { x with stopping := true })).endStop a :=
  (if_neg (by rw [hh]; decide)).trans (if_neg (Bool.eq_false_iff.mp hn))
end

/-- R408: every round that a STOP waits for has committed. -/
def State.stopOver (s : State) (a : Nat) : Bool :=
  s.crews.all (fun q => s.asidOf q.1 != a || q.2.rounds.all (fun r => r.committed || !q.2.chained r.paddock))

theorem State.stopOver_true {s : State} {a : Nat} (h : s.stopOver a = true) {c : CrewId} {x : Crew} (hx : s.crew? c = some x)
    (ha : s.asidOf c = a) : ∀ r ∈ x.rounds, r.committed = true ∨ x.chained r.paddock = false := by
  intro r hr
  have hc := List.all_eq_true.mp h (c, x) (Tab.mem_of_get? hx)
  simp only [ha, bne_self_eq_false, Bool.false_or, List.all_eq_true] at hc
  simpa using hc r hr

theorem State.stopOver_false {s : State} {a : Nat} (h : s.stopOver a = false) (hn : namesOnce s.crews) :
    ∃ c x r, s.crew? c = some x ∧ s.asidOf c = a ∧ r ∈ x.rounds ∧ r.committed = false ∧ x.chained r.paddock = true := by
  obtain ⟨q, hq, hc⟩ := List.all_eq_false.mp h
  simp only [Bool.or_eq_true, bne_iff_ne, not_or, ne_eq, not_not, Bool.not_eq_true, List.all_eq_false] at hc
  obtain ⟨ha, r, hr, hrc⟩ := hc
  simp only [Bool.not_eq_false'] at hrc
  exact ⟨q.1, q.2, r, get?_of_mem hn hq, ha, hr, hrc.1, hrc.2⟩

/-- R408: a stopping job stops once no older round is left, and else goes on stopping. -/
theorem State.endStop_stopping (s : State) (a : Nat) : (s.modAsid a (fun x => { x with stopping := true })).endStop a
    = if s.stopOver a then (s.modAsid a (fun x => { x with stopping := true })).stopJob a
      else s.modAsid a (fun x => { x with stopping := true }) := by
  have hstop : ((s.modAsid a (fun x => { x with stopping := true })).asid a).stopping = true := by
    rw [State.asid_modAsid, if_pos rfl]
  unfold State.endStop
  rw [hstop, Bool.true_and]
  rfl

/-- R318, R408: a STOP of a job none of whose rounds keeps it for ever. -/
theorem stopRecord_spec {s : State} {a : Nat} {q : BitVec 32} (hh : s.holds a q = true) (hn : s.NamesOnce)
    (hnever : s.stopNever a = false) : ∃ t, s.stopRecord a q = t ∧ t = { s with asids := t.asids, crews := t.crews }
      ∧ (∀ b, b ≠ a → t.asid b = s.asid b)
      ∧ ((t.asid a = { s.asid a with stopping := false, stopped := true }
          ∧ ∀ c x, t.crew? c = some x → s.asidOf c = a → ∀ r ∈ x.rounds, r.committed = true ∨ x.chained r.paddock = false)
        ∨ (t.asid a = { s.asid a with stopping := true }
          ∧ ∃ c x r, t.crew? c = some x ∧ s.asidOf c = a ∧ r ∈ x.rounds ∧ r.committed = false ∧ x.chained r.paddock = true))
      ∧ t.crews = (s.stopCrews (s.crewsOf a)).crews := by
  obtain ⟨-, -, hcrews, -⟩ := hn
  have hframe := s.stopCrews_frame (s.crewsOf a)
  have hnames := State.stopCrews_namesOnce hcrews (s.crewsOf a)
  refine ⟨_, State.stopRecord_ends hh hnever, ?_⟩
  generalize hu : s.stopCrews (s.crewsOf a) = u at hframe hnames ⊢
  have hasid (b : Nat) : u.asid b = s.asid b := by rw [hframe.eq]; rfl
  have hjob (c : CrewId) : u.asidOf c = s.asidOf c := by rw [hframe.eq]; rfl
  rw [State.endStop_stopping]
  cases hover : u.stopOver a with
  | true =>
    rw [if_pos rfl]
    refine ⟨?_, fun b hb => ?_, .inl ⟨?_, fun c x hx ha => ?_⟩, rfl⟩
    · rw [hframe.eq]
      rfl
    · rw [State.asid_stopJob, if_neg hb, State.asid_modAsid, if_neg hb, hasid]
    · rw [State.asid_stopJob, if_pos rfl, State.asid_modAsid, if_pos rfl, hasid]
    · exact State.stopOver_true hover hx ((hjob c).trans ha)
  | false =>
    rw [if_neg Bool.false_ne_true]
    refine ⟨?_, fun b hb => ?_, .inr ⟨?_, ?_⟩, rfl⟩
    · rw [hframe.eq]
      rfl
    · rw [State.asid_modAsid, if_neg hb, hasid]
    · rw [State.asid_modAsid, if_pos rfl, hasid]
    · obtain ⟨c, x, r, hx, ha, hr⟩ := State.stopOver_false hover hnames
      exact ⟨c, x, r, hx, (hjob c).symm.trans ha, hr⟩

/-- R318: what a stop leaves of a crew. -/
theorem State.stopCrews_spec {s : State} (hn : s.NamesOnce) (a : Nat) {c : CrewId} {x : Crew} (hx : s.crew? c = some x) :
    ∃ y, (s.stopCrews (s.crewsOf a)).crew? c = some y ∧ (s.asidOf c ≠ a → y = x)
      ∧ (s.asidOf c = a → let gone := x.roundPads.flatMap (fun p => (x.stopAt p).2.map (fun r => r.id))
        y = x.discard gone ∧ y.rounds = x.rounds.filter (fun r => !gone.contains r.id)
        ∧ y.fops = x.fops ∧ y.mx = x.mx ∧ y.results = x.results ∧ y.crw = x.crw) := by
  obtain ⟨-, -, hcrews, -⟩ := hn
  have hnodup : (s.crewsOf a).Nodup := hcrews.filter _
  have hget := State.stopCrews_crew? hnodup s c
  rw [hx] at hget
  by_cases ha : s.asidOf c = a
  · rw [if_pos ((State.mem_crewsOf hx).mpr ha)] at hget
    refine ⟨x.stopRounds, hget, fun hne => absurd ha hne, fun _ => ?_⟩
    rw [Crew.stopRounds, List.map_flatMap]
    exact ⟨rfl, rfl, rfl, rfl, rfl, rfl⟩
  · rw [if_neg (fun h => ha ((State.mem_crewsOf hx).mp h))] at hget
    exact ⟨x, hget, fun _ => rfl, fun h => absurd h ha⟩

end Sys2Proof.Machine
end
section
/-! PROOFS. The context area: what saving a crew writes, and what restoring it reads (R130, R411 to R413). -/

namespace Sys2Proof.Machine

/-! ### Writes that leave a byte -/

/-- Memory and the free values apart, nothing differs, and the bytes that `P` picks are the same. -/
structure KeepsBytes (P : Nat → Prop) (s t : State) : Prop where
  eq : t = { s with mem := t.mem, free := t.free }
  bytes : ∀ a, P a → Memory.byte t.mem a = Memory.byte s.mem a

section
variable {P : Nat → Prop}

theorem KeepsBytes.refl (s : State) : KeepsBytes P s s := ⟨rfl, fun _ _ => rfl⟩

theorem KeepsBytes.trans {s t u : State} (h : KeepsBytes P s t) (g : KeepsBytes P t u) : KeepsBytes P s u :=
  ⟨g.eq.trans (by rw [h.eq]), fun a ha => (g.bytes a ha).trans (h.bytes a ha)⟩

theorem KeepsBytes.foldl {α : Type} {f : State → α → State} {l : List α}
    (hf : ∀ s, ∀ x ∈ l, KeepsBytes P s (f s x)) (s : State) : KeepsBytes P s (l.foldl f s) := by
  induction l generalizing s with
  | nil => exact .refl s
  | cons x l ih =>
    exact (hf s x List.mem_cons_self).trans (ih (fun s y hy => hf s y (List.mem_cons_of_mem x hy)) (f s x))

variable (s : State)

theorem State.physWrite_keeps {b : Nat} {bs : List Byte} (h : ∀ a, P a → a < b ∨ b + bs.length ≤ a) :
    KeepsBytes P s (s.physWrite b bs) := by
  refine ⟨rfl, fun a ha => Memory.byte_write_out _ _ _ _ ?_⟩
  have hlen := List.length_take_le' (hbmBytes - b) bs
  have hout := h a ha
  omega

theorem State.putLe_keeps {b n v : Nat} (h : ∀ a, P a → a < b ∨ b + n ≤ a) : KeepsBytes P s (s.putLe b n v) :=
  s.physWrite_keeps (by rwa [leBytes_length])

theorem State.scribble_keeps {b n : Nat} (h : ∀ a, P a → a < b ∨ b + n ≤ a) : KeepsBytes P s (s.scribble b n) := by
  induction n generalizing s b with
  | zero => exact .refl s
  | succ n ih =>
    have hrest := ih (s.fresh.2.physWrite b [BitVec.ofNat 8 s.fresh.1]) (b := b + 1) fun a ha => by have := h a ha; omega
    refine KeepsBytes.trans (KeepsBytes.trans (t := s.fresh.2) ⟨rfl, fun _ _ => rfl⟩ (State.physWrite_keeps _ ?_)) hrest
    intro a ha
    have hout := h a ha
    rw [List.length_singleton]
    omega
end

/-! ### The area of a crew (R412, R413) -/

/-- R413: a wave is saved in its wave block and its lane registers. -/
theorem State.saveWave_keeps {P : Nat → Prop} (s : State) {x : Crew} {kn : Kernel} {w : WaveId}
    (h : ∀ a, P a → a < x.ctxBase.toNat
      ∨ (8 * w.gang + w.wave < 64 ∧ x.ctxBase.toNat + 0xE4A00 + 128 * kn.vregs * 64 ≤ a)) :
    KeepsBytes P s (s.saveWave x kn w) := by
  have hv (i : Nat) (hi : i < 32 * kn.vregs) (hn : 8 * w.gang + w.wave < 64) :
      128 * kn.vregs * (8 * w.gang + w.wave) + 4 * i + 4 ≤ 128 * kn.vregs * 64 := by
    have hmul := Nat.mul_le_mul_left (128 * kn.vregs) (Nat.succ_le_of_lt hn)
    rw [Nat.mul_succ] at hmul
    omega
  unfold State.saveWave
  split
  · exact .refl s
  dsimp only
  generalize hb : x.ctxBase.toNat = b at h
  refine KeepsBytes.trans ?_ (KeepsBytes.foldl (fun s i hi => s.putLe_keeps fun a ha => ?_) _)
  · refine KeepsBytes.trans ?_ (KeepsBytes.foldl (fun s p hp => s.putLe_keeps fun a ha => ?_) _)
    · refine KeepsBytes.trans ?_ (KeepsBytes.foldl (fun s i hi => s.putLe_keeps fun a ha => ?_) _)
      · refine KeepsBytes.trans ?_ (KeepsBytes.foldl (fun s i hi => s.putLe_keeps fun a ha => ?_) _)
        · refine KeepsBytes.trans ?_ (KeepsBytes.foldl (fun s p hp => s.putLe_keeps fun a ha => ?_) _)
          · refine KeepsBytes.trans ?_ (KeepsBytes.foldl (fun s p hp => s.putLe_keeps fun a ha => ?_) _)
            · refine KeepsBytes.trans (KeepsBytes.trans (KeepsBytes.trans (KeepsBytes.trans (KeepsBytes.trans (KeepsBytes.trans
                (KeepsBytes.trans (KeepsBytes.trans (s.scribble_keeps ?_) (State.putLe_keeps _ ?_)) (State.putLe_keeps _ ?_))
                (State.putLe_keeps _ ?_)) (State.putLe_keeps _ ?_)) (State.putLe_keeps _ ?_)) (State.putLe_keeps _ ?_))
                (State.putLe_keeps _ ?_)) (State.putLe_keeps _ ?_)
              all_goals
                intro a ha
                have hP := h a ha
                omega
            · have hP := h a ha
              have hp' := List.mem_range.mp (List.of_mem_zip hp).1
              omega
          · have hP := h a ha
            have hp' := List.mem_range.mp (List.of_mem_zip hp).1
            omega
        · have hP := h a ha
          have hi' := List.mem_range.mp hi
          omega
      · have hP := h a ha
        have hi' := List.mem_range.mp hi
        omega
    · have hP := h a ha
      have hp' := List.mem_range.mp (List.of_mem_zip hp).1
      omega
  · have hP := h a ha
    have hi' := hv i (List.mem_range.mp hi)
    omega

/-- R412: what the crew's save writes lies in its context area. -/
theorem State.saveCrew_keeps (s : State) (c : CrewId) (x : Crew) (kn : Kernel) :
    KeepsBytes (fun a => a < x.ctxBase.toNat
        ∨ (x.ngangs ≤ 8 ∧ ((s.cluster x.cluster).copies.filter (fun k => k.wave.crew == c)).length ≤ 256
          ∧ x.ctxBase.toNat + 0xE4A00 + 128 * kn.vregs * 64 + kn.crw ≤ a))
      s (s.saveCrew c x kn) := by
  generalize hP : (fun a => a < x.ctxBase.toNat
    ∨ (x.ngangs ≤ 8 ∧ ((s.cluster x.cluster).copies.filter (fun k => k.wave.crew == c)).length ≤ 256
      ∧ x.ctxBase.toNat + 0xE4A00 + 128 * kn.vregs * 64 + kn.crw ≤ a)) = P
  have hout (a : Nat) (ha : P a) : a < x.ctxBase.toNat
      ∨ (x.ngangs ≤ 8 ∧ ((s.cluster x.cluster).copies.filter (fun k => k.wave.crew == c)).length ≤ 256
        ∧ x.ctxBase.toNat + 0xE4A00 + 128 * kn.vregs * 64 + kn.crw ≤ a) := by
    rwa [← hP] at ha
  have hmine {t : State} (ht : KeepsBytes P s t) : (t.cluster x.cluster).copies = (s.cluster x.cluster).copies := by
    rw [ht.eq]
    rfl
  unfold State.saveCrew
  dsimp only
  generalize hb : x.ctxBase.toNat = b at hout
  have h1 : KeepsBytes P s (s.scribble b 0x100) := s.scribble_keeps fun a ha => by
    have h := hout a ha
    omega
  have h2 := h1.trans (KeepsBytes.foldl (f := fun s i => s.putLe (b + 0x100 + 4 * i) 4 (x.fmtEntry i).toNat) (l := List.range 64)
    (fun s i hi => s.putLe_keeps fun a ha => by
      have h := hout a ha
      have hi' := List.mem_range.mp hi
      omega) _)
  have h3 := h2.trans (State.scribble_keeps _ (b := b + 0x200) (n := 0x100 * x.ngangs) fun a ha => by
    have h := hout a ha
    omega)
  refine KeepsBytes.trans ?_ (State.physWrite_keeps _ fun a ha => ?_)
  · refine KeepsBytes.trans ?_ (KeepsBytes.foldl (fun s w hw => s.saveWave_keeps fun a ha => ?_) _)
    · refine h3.trans (State.scribble_keeps _ fun a ha => ?_)
      have h := hout a ha
      rw [hmine h3]
      omega
    · obtain ⟨g, hg, hw⟩ := List.mem_flatMap.mp hw
      obtain ⟨i, hi, rfl⟩ := List.mem_map.mp hg
      obtain ⟨v, hv, rfl⟩ := List.mem_map.mp hw
      have h := hout a ha
      have hi' := List.mem_range.mp hi
      have hv' := List.mem_range.mp hv
      dsimp only
      rw [hb]
      omega
  · have h := hout a ha
    rw [Memory.length_read]
    omega

/-- R411: CREW_SAVE of a crew whose copies, passes and records are done. -/
theorem crewSave_spec {s : State} {c : CrewId} {x : Crew} {kn : Kernel} (hx : s.crew? c = some x) (hk : s.kernel? c = some kn)
    (hp : x.preempt = true) (hs : x.saved = false) (hoff : s.jobOff (s.asidOf c) = false) (hready : s.saveReady c x = true)
    (hecc : s.eccCrw c 0 kn.crw = false) :
    execCrewSave c s = .next (((s.saveCrew c x kn).takeCopies c x).modCrew c (fun x => { x with
      saved := true, preempt := false, moving := s.retiring x.cluster })) := by
  unfold execCrewSave
  rw [hx, hk]
  dsimp only
  rw [hp, hs, hoff, hready, hecc]
  rfl

/-! ### Restoring -/

theorem Wave.foldl_wrS (f : Nat → Dword) (l : List Nat) (z : Wave) :
    (∀ i, i ≠ 0 → (l.foldl (fun z i => z.wrS i (f i)) z).rdS i = if i ∈ l then f i else z.rdS i)
      ∧ l.foldl (fun z i => z.wrS i (f i)) z = { z with s := (l.foldl (fun z i => z.wrS i (f i)) z).s } := by
  induction l generalizing z with
  | nil => exact ⟨fun i _ => (if_neg List.not_mem_nil).symm, rfl⟩
  | cons j l ih =>
    obtain ⟨hrd, heq⟩ := ih (z.wrS j (f j))
    have hz : z.wrS j (f j) = { z with s := (z.wrS j (f j)).s } := by
      unfold Wave.wrS
      split <;> rfl
    refine ⟨fun i hi => (hrd i hi).trans ?_, ?_⟩
    rotate_left
    · rw [List.foldl_cons]
      generalize l.foldl (fun z i => z.wrS i (f i)) (z.wrS j (f j)) = y at heq ⊢
      rw [heq, hz]
    by_cases hj : j = 0
    · have hij : i ≠ j := fun h => hi (h.trans hj)
      rw [hj, Wave.wrS_zero]
      simp only [List.mem_cons, hi, false_or]
    · rw [Wave.rdS_wrS _ _ _ _ hj]
      by_cases hij : i = j
      · subst hij
        simp
      · simp only [List.mem_cons, hij, false_or, if_false]

theorem Wave.foldl_wrM (f : Nat → Word) (l : List Nat) (z : Wave) :
    (∀ i, i ≠ 0 → (l.foldl (fun z i => z.wrM i (f i)) z).rdM i = if i ∈ l then f i else z.rdM i)
      ∧ l.foldl (fun z i => z.wrM i (f i)) z = { z with m := (l.foldl (fun z i => z.wrM i (f i)) z).m } := by
  induction l generalizing z with
  | nil => exact ⟨fun i _ => (if_neg List.not_mem_nil).symm, rfl⟩
  | cons j l ih =>
    obtain ⟨hrd, heq⟩ := ih (z.wrM j (f j))
    have hz : z.wrM j (f j) = { z with m := (z.wrM j (f j)).m } := by
      unfold Wave.wrM
      split <;> rfl
    refine ⟨fun i hi => (hrd i hi).trans ?_, ?_⟩
    rotate_left
    · rw [List.foldl_cons]
      generalize l.foldl (fun z i => z.wrM i (f i)) (z.wrM j (f j)) = y at heq ⊢
      rw [heq, hz]
    by_cases hj : j = 0
    · have hij : i ≠ j := fun h => hi (h.trans hj)
      rw [hj, Wave.wrM_zero]
      simp only [List.mem_cons, hi, false_or]
    · rw [Wave.rdM_wrM _ _ _ _ hj]
      by_cases hij : i = j
      · subst hij
        simp
      · simp only [List.mem_cons, hij, false_or, if_false]

theorem Wave.foldl_wrV (r k : Nat → Nat) (f : Nat → Word) (l : List Nat) (z : Wave) :
    l.foldl (fun z i => z.wrV (r i) (k i) (f i)) z = { z with v := (l.foldl (fun z i => z.wrV (r i) (k i) (f i)) z).v } := by
  induction l generalizing z with
  | nil => rfl
  | cons j l ih => exact ih (z.wrV (r j) (k j) (f j))

theorem Wave.rdS_congr {x y : Wave} (h : x.s = y.s) (i : Nat) : x.rdS i = y.rdS i := by
  unfold Wave.rdS
  rw [h]

theorem Wave.rdM_congr {x y : Wave} (h : x.m = y.m) (i : Nat) : x.rdM i = y.rdM i := by
  unfold Wave.rdM
  rw [h]

/-- The uniform registers, then the masks, then the lane registers are written. The lists are variables, so that nothing
evaluates the folds. -/
theorem Wave.foldl_registers (z : Wave) (lS lM lV : List Nat) (fS : Nat → Dword) (fM : Nat → Word) (r k : Nat → Nat)
    (fV : Nat → Word) :
    let u := lV.foldl (fun z i => z.wrV (r i) (k i) (fV i))
      (lM.foldl (fun z i => z.wrM i (fM i)) (lS.foldl (fun z i => z.wrS i (fS i)) z))
    u = { z with s := u.s, m := u.m, v := u.v } ∧ (∀ i, i ≠ 0 → i ∈ lS → u.rdS i = fS i) ∧ ∀ i, i ≠ 0 → i ∈ lM → u.rdM i = fM i := by
  obtain ⟨hS, hSeq⟩ := Wave.foldl_wrS fS lS z
  generalize lS.foldl (fun z i => z.wrS i (fS i)) z = z1 at hS hSeq ⊢
  obtain ⟨hM, hMeq⟩ := Wave.foldl_wrM fM lM z1
  generalize lM.foldl (fun z i => z.wrM i (fM i)) z1 = z2 at hM hMeq ⊢
  have hV := Wave.foldl_wrV r k fV lV z2
  generalize lV.foldl (fun z i => z.wrV (r i) (k i) (fV i)) z2 = u at hV ⊢
  have hs : u.s = z1.s := by rw [hV, hMeq]
  have hm : u.m = z2.m := by rw [hV]
  refine ⟨?_, fun i hi hmem => (Wave.rdS_congr hs i).trans ((hS i hi).trans (if_pos hmem)),
    fun i hi hmem => (Wave.rdM_congr hm i).trans ((hM i hi).trans (if_pos hmem))⟩
  rw [hs, hm]
  refine hV.trans ?_
  rw [hMeq, hSeq]

/-- R413: a wave holds what the wave block at `b` lays out of its pc, lanes, FCSR, uniform registers and masks. -/
structure HoldsBlock (s : State) (b : Nat) (u : Wave) : Prop where
  pc : u.pc = BitVec.ofNat 32 (s.physLe b 4)
  mask : u.mask = BitVec.ofNat 32 (s.physLe (b + 8) 4)
  exited : u.exited = BitVec.ofNat 32 (s.physLe (b + 0xC) 4)
  rpm : u.rpm = BitVec.ofNat 32 (s.physLe (b + 0x10) 4)
  fcsr : u.fcsr = BitVec.ofNat 32 (s.physLe (b + 0x14) 4) &&& 0xFF
  uniform : ∀ i, 0 < i → i < 64 → u.rdS i = BitVec.ofNat 64 (s.physLe (b + 0x100 + 8 * i) 8)
  masks : ∀ i, 0 < i → i < 8 → u.rdM i = BitVec.ofNat 32 (s.physLe (b + 0x300 + 4 * i) 4)

/-- R413: a wave with the head of its block, into which the uniform registers, the masks and the lane registers are read. -/
theorem HoldsBlock.of_registers {s : State} {b : Nat} {z : Wave} (hpc : z.pc = BitVec.ofNat 32 (s.physLe b 4))
    (hmask : z.mask = BitVec.ofNat 32 (s.physLe (b + 8) 4)) (hexited : z.exited = BitVec.ofNat 32 (s.physLe (b + 0xC) 4))
    (hrpm : z.rpm = BitVec.ofNat 32 (s.physLe (b + 0x10) 4)) (hfcsr : z.fcsr = BitVec.ofNat 32 (s.physLe (b + 0x14) 4) &&& 0xFF)
    (r k : Nat → Nat) (f : Nat → Word) (l : List Nat) :
    HoldsBlock s b (l.foldl (fun z i => z.wrV (r i) (k i) (f i))
      ((List.range 8).foldl (fun z i => z.wrM i (BitVec.ofNat 32 (s.physLe (b + 0x300 + 4 * i) 4)))
        ((List.range 64).foldl (fun z i => z.wrS i (BitVec.ofNat 64 (s.physLe (b + 0x100 + 8 * i) 8))) z))) := by
  obtain ⟨heq, hS, hM⟩ := Wave.foldl_registers z (List.range 64) (List.range 8) l
    (fun i => BitVec.ofNat 64 (s.physLe (b + 0x100 + 8 * i) 8)) (fun i => BitVec.ofNat 32 (s.physLe (b + 0x300 + 4 * i) 4)) r k f
  exact ⟨(congrArg Wave.pc heq).trans hpc, (congrArg Wave.mask heq).trans hmask, (congrArg Wave.exited heq).trans hexited,
    (congrArg Wave.rpm heq).trans hrpm, (congrArg Wave.fcsr heq).trans hfcsr,
    fun i hi hi' => hS i (by omega) (List.mem_range.mpr hi'), fun i hi hi' => hM i (by omega) (List.mem_range.mpr hi')⟩

/-- R413: loading a wave changes that wave, to what its block holds. -/
theorem State.loadWave_eq (s : State) (x : Crew) (kn : Kernel) (w : WaveId) : ∃ f, s.loadWave x kn w = s.modWave w f
    ∧ ∀ z, HoldsBlock s (x.ctxBase.toNat + 0x4A00 + 0x800 * (8 * w.gang + w.wave)) (f z) :=
  ⟨_, rfl, fun _ => HoldsBlock.of_registers rfl rfl rfl rfl rfl _ _ _ _⟩

theorem State.foldl_loadWave (x : Crew) (kn : Kernel) (ws : List WaveId) (s : State) :
    let t := ws.foldl (fun s w => s.loadWave x kn w) s
    t = { s with waves := t.waves }
    ∧ (∀ w, w ∉ ws → t.wave? w = s.wave? w)
    ∧ (ws.Nodup → ∀ w ∈ ws, ∀ z, s.wave? w = some z → ∃ u, t.wave? w = some u
        ∧ HoldsBlock s (x.ctxBase.toNat + 0x4A00 + 0x800 * (8 * w.gang + w.wave)) u) := by
  induction ws generalizing s with
  | nil => exact ⟨rfl, fun _ _ => rfl, fun _ w hw => absurd hw List.not_mem_nil⟩
  | cons v ws ih =>
    obtain ⟨f, hf, hblock⟩ := s.loadWave_eq x kn v
    have hframe : s.loadWave x kn v = { s with waves := (s.loadWave x kn v).waves } := by
      rw [hf]
      exact modWave_eq s v f
    obtain ⟨heq, hout, hin⟩ := ih (s.loadWave x kn v)
    have hwave (w : WaveId) : (s.loadWave x kn v).wave? w = if v = w then (s.wave? w).map f else s.wave? w := by
      rw [hf, State.wave?_modWave]
    refine ⟨with_waves_trans hframe heq, fun w hw => (hout w (fun h => hw (List.mem_cons_of_mem v h))).trans ?_, ?_⟩
    · rw [hwave, if_neg (fun h => hw (by rw [h]; exact List.mem_cons_self))]
    · intro hnd w hw z hz
      obtain ⟨hv, hnd⟩ := List.nodup_cons.mp hnd
      by_cases hvw : v = w
      · subst hvw
        refine ⟨f z, (hout v hv).trans ?_, hblock z⟩
        rw [hwave, if_pos rfl, hz]
        rfl
      · obtain ⟨u, hu, hblock'⟩ := hin hnd w ((List.mem_cons.mp hw).resolve_left (fun h => hvw h.symm)) z
          ((hwave w).trans ((if_neg hvw).trans hz))
        rw [hframe] at hblock'
        exact ⟨u, hu, hblock'.pc, hblock'.mask, hblock'.exited, hblock'.rpm, hblock'.fcsr, hblock'.uniform, hblock'.masks⟩

theorem Crew.nodup_waves (x : Crew) (c : CrewId) : ((x.gangIds c).flatMap GangId.waves).Nodup := by
  refine List.nodup_flatMap.mpr ⟨fun g _ => ?_, ?_⟩
  · exact List.nodup_range.map (fun a b h => congrArg WaveId.wave h)
  · refine List.Pairwise.map _ (fun a b (h : a ≠ b) => ?_) List.nodup_range
    rw [Function.onFun, List.disjoint_left]
    intro w hw hw'
    obtain ⟨i, -, rfl⟩ := List.mem_map.mp hw
    obtain ⟨j, -, hj⟩ := List.mem_map.mp hw'
    exact h (congrArg WaveId.gang hj).symm

theorem Crew.mem_waves {x : Crew} {c : CrewId} {g v : Nat} (hg : g < x.ngangs) (hv : v < 8) :
    (⟨c, g, v⟩ : WaveId) ∈ (x.gangIds c).flatMap GangId.waves :=
  List.mem_flatMap.mpr ⟨⟨c, g⟩, List.mem_map.mpr ⟨g, List.mem_range.mpr hg, rfl⟩, List.mem_map.mpr ⟨v, List.mem_range.mpr hv, rfl⟩⟩

/-- A fold of sparse-map writes at distinct places. -/
theorem SMap.get_foldl_set {α : Type} [DecidableEq α] (d : α) (f : Nat → α) (k n : Nat) (m : SMap α) :
    SMap.get ((List.range k).foldl (fun m i => SMap.set m d (i + 8) (f (i + 8))) m) d n
      = if 8 ≤ n ∧ n < k + 8 then f n else SMap.get m d n := by
  induction k with
  | zero =>
    rw [if_neg (by omega)]
    rfl
  | succ k ih =>
    rw [List.range_succ, List.foldl_append, List.foldl_cons, List.foldl_nil, SMap.get_set, ih]
    by_cases h : n = k + 8
    · rw [if_pos h, if_pos (by omega), h]
    · rw [if_neg h]
      exact if_congr (by omega) rfl rfl

/-- R130: what the format table of a restored crew holds. -/
theorem State.get_loadFmt (s : State) (b : Nat) {n : Nat} (h : 8 ≤ n) (h' : n < 64) :
    SMap.get (s.loadFmt b) 0 n = restoredFmt (BitVec.ofNat 32 (s.physLe (b + 0x100 + 4 * n) 4)) :=
  (SMap.get_foldl_set 0 (fun n => restoredFmt (BitVec.ofNat 32 (s.physLe (b + 0x100 + 4 * n) 4))) 56 n []).trans
    (if_pos ⟨h, h'⟩)

/-- The memory that a restored crew has. -/
theorem Memory.byte_write_range (f : Nat → Byte) {n a : Nat} (h : a < n) :
    Memory.byte (Memory.write [] 0 ((List.range n).map f)) a = f a := by
  rw [Memory.byte_write, if_pos (Nat.zero_le a), Nat.sub_zero, List.getElem?_map, List.getElem?_range h]
  rfl

end Sys2Proof.Machine
end
section
/-! PROOFS. The steps of firmware and the debugger (R407 to R415, R418, R453). -/

namespace Sys2Proof.Machine

/-- Firmware runs once the module has booted. -/
theorem State.byFirmware_booted {s : State} (h : s.booted = true) (o : Out) : s.byFirmware o = o := if_pos h

section
variable {s : State} {a : Nat} {q : BitVec 32} (hboot : s.booted = true)
include hboot

theorem resume_next : exec (.resume a q) s = .next (s.resume a q) := State.byFirmware_booted hboot _

theorem stop_next : exec (.stop a q) s = .next (s.stopRecord a q) := State.byFirmware_booted hboot _

theorem halt_next : exec (.halt a) s = .next (s.haltJob a) := State.byFirmware_booted hboot _

theorem resumeGangs_next : exec (.resumeGangs a) s = .next (s.resumeJob a) := State.byFirmware_booted hboot _

theorem preemptRequest_next (v : Dword) : exec (.preemptRequest a v) s = .next (s.preemptWrite a v) :=
  State.byFirmware_booted hboot _
end

/-- R407: a record that holds no launch, with no decision due, is resumed by letting its parties go on. -/
theorem State.resume_recordDone {s : State} {a : Nat} {q : BitVec 32} (hh : s.holds a q = true) (hst : (s.asid a).stopped = false)
    (hl : ∀ l ∈ s.launches, l.2.held ≠ some q) (hdue : ∀ g ∈ s.gangs, g.2.due = none) :
    s.resume a q = s.recordDone a q := by
  have hlaunches : (s.recordDone a q).launches = s.launches := by rw [State.recordDone_frame]
  rw [State.resume_held hh hst, State.releaseLaunches_none (by rwa [hlaunches])]
  refine State.decideSpatial_none (due_none_of_map (fun i g => ?_) State.recordDone_gangs hdue)
  split <;> rfl

/-- R408: a job without crews stops at once. -/
theorem State.stopRecord_noCrews {s : State} {a : Nat} {q : BitVec 32} (hh : s.holds a q = true) (hc : s.crewsOf a = []) :
    s.stopRecord a q = (s.modAsid a (fun x => { x with stopping := true })).endStop a := by
  rw [State.stopRecord_ends hh (by rw [State.stopNever, hc]; rfl), hc]
  rfl

theorem State.haltJob_asid (s : State) (a b : Nat) :
    (s.haltJob a).asid b = if b = a then { s.asid a with halt := true } else s.asid b :=
  State.asid_modAsid s a b (fun x => { x with halt := true })

theorem State.unhalted_asid (s : State) (a b : Nat) :
    (s.unhalted a).asid b = if b = a then { s.asid a with halt := false } else s.asid b :=
  State.asid_modAsid s a b (fun x => { x with halt := false })

/-- R318, R408: a STOP of a job with crews. -/
theorem stop_crews {s : State} {a : Nat} {q : BitVec 32} (hboot : s.booted = true) (hh : s.holds a q = true) (hn : s.NamesOnce) :
    let never : Prop := ∃ c x, s.crew? c = some x ∧ s.asidOf c = a ∧ x.neverEnds = true
    (never → exec (.stop a q) s = .next (s.stopJob a))
    ∧ (¬never → ∃ t, exec (.stop a q) s = .next t ∧ t = { s with asids := t.asids, crews := t.crews }
      ∧ (∀ b, b ≠ a → t.asid b = s.asid b)
      ∧ ((t.asid a = { s.asid a with stopping := false, stopped := true }
          ∧ ∀ c x, t.crew? c = some x → s.asidOf c = a → ∀ r ∈ x.rounds, r.committed = true ∨ x.chained r.paddock = false)
        ∨ (t.asid a = { s.asid a with stopping := true }
          ∧ ∃ c x r, t.crew? c = some x ∧ s.asidOf c = a ∧ r ∈ x.rounds ∧ r.committed = false ∧ x.chained r.paddock = true))
      ∧ ∀ c x, s.crew? c = some x → ∃ y, t.crew? c = some y
        ∧ (s.asidOf c ≠ a → y = x)
        ∧ (s.asidOf c = a → let gone := x.roundPads.flatMap (fun p => (x.stopAt p).2.map (fun r => r.id))
          y = x.discard gone ∧ y.rounds = x.rounds.filter (fun r => !gone.contains r.id)
          ∧ y.fops = x.fops ∧ y.mx = x.mx ∧ y.results = x.results ∧ y.crw = x.crw)) := by
  intro never
  rw [stop_next hboot]
  refine ⟨fun hnever => ?_, fun hnever => ?_⟩
  · rw [State.stopRecord_never hh (State.stopNever_iff.mpr hnever)]
  · obtain ⟨t, ht, hframe, hother, hjob, hcrews⟩ :=
      stopRecord_spec hh hn (Bool.eq_false_iff.mpr (fun h => hnever (State.stopNever_iff.mp h)))
    refine ⟨t, by rw [ht], hframe, hother, hjob, fun c x hx => ?_⟩
    obtain ⟨y, hy, hspec⟩ := State.stopCrews_spec hn a hx
    exact ⟨y, (congrArg (Tab.get? · c) hcrews).trans hy, hspec⟩

/-- R234, R411: a saved crew takes its copies along. -/
theorem State.takeCopies_leaves {s u : State} {c : CrewId} {x : Crew} (hx : s.crew? c = some x)
    (hu : u = { s with mem := u.mem, free := u.free }) (f : Crew → Crew) :
    let mine (k : Copy) : Bool := k.wave.crew == c
    let cs := (s.cluster x.cluster).copies
    let t := (u.takeCopies c x).modCrew c f
    t = { s with mem := t.mem, free := t.free, crews := t.crews, clusters := t.clusters } ∧ t.mem = u.mem
      ∧ t.crew? c = some (f { x with copies := x.copies ++ cs.filter mine })
      ∧ (∀ d, d ≠ c → t.crew? d = s.crew? d)
      ∧ t.cluster x.cluster = { s.cluster x.cluster with copies := cs.filter (fun k => !mine k) } := by
  intro mine cs t
  have hxu (f : Cluster → Cluster) : (u.modCluster x.cluster f).crew? c = some x := by
    rw [hu]
    exact hx
  have hcl : u.cluster x.cluster = s.cluster x.cluster := by
    rw [hu]
    rfl
  have ht : t = (u.modCluster x.cluster (fun y => { y with copies := y.copies.filter (fun k => !mine k) })).setCrew c
      (f { x with copies := x.copies ++ cs.filter mine }) := by
    show (u.takeCopies c x).modCrew c _ = _
    rw [State.takeCopies, hcl, State.modCrew_modCrew _ _ (hxu _)]
  refine ⟨?_, ?_, ?_, fun d hd => ?_, ?_⟩
  · rw [ht, hu]
    rfl
  · rw [ht]
    rfl
  · rw [ht, State.crew?_setCrew_self]
  · rw [ht, hu]
    exact Tab.get?_set_ne _ _ hd
  · rw [ht]
    refine (State.cluster_setCluster _ _ _ _).trans ?_
    rw [if_pos rfl, hcl]

/-- R411, R412: CREW_RESTORE of a crew that its cluster has room for. -/
theorem crewRestore_next {s : State} {c : CrewId} {x : Crew} {kn : Kernel} (hx : s.crew? c = some x) (hk : s.kernel? c = some kn)
    (hsaved : x.saved = true) (hfits : s.restoreFits c x kn = true) (hret : s.retiring x.cluster = false)
    (hecc : s.eccHbm x.ctxBase.toNat (0xE4A00 + 128 * kn.vregs * 64 + kn.crw) = false) :
    execCrewRestore c s = .next (s.restore c) := by
  unfold execCrewRestore
  rw [hx, hk]
  dsimp only
  rw [hsaved, hfits, hret, State.areaBad, hecc]
  rfl

theorem State.cluster_dropL1_modCluster (s : State) (n : Nat) (f : Cluster → Cluster) :
    ((s.modCluster n f).dropL1 n).cluster n = { f (s.cluster n) with l1 := [], l1Past := false } := by
  have hmod : (s.modCluster n f).cluster n = f (s.cluster n) := (State.cluster_setCluster s n n _).trans (if_pos rfl)
  rw [State.dropL1, State.modCluster, State.cluster_setCluster, if_pos rfl, hmod]

/-- R411, R412: the crew of a restore, the waves of which have been loaded. -/
def State.unsave (s : State) (c : CrewId) (x : Crew) (fmt : SMap Word) (crw : Memory) : State :=
  ((s.setCrew c { x with saved := false, preempt := false, moving := false, fmt := fmt, crw := crw, copies := [] }).modCluster
    x.cluster (fun y => { y with copies := y.copies ++ x.copies })).dropL1 x.cluster

theorem State.restore_eq {s : State} {c : CrewId} {x : Crew} {kn : Kernel} (hx : s.crew? c = some x) (hk : s.kernel? c = some kn) :
    let u := ((x.gangIds c).flatMap GangId.waves).foldl (fun s w => s.loadWave x kn w) s
    s.restore c = u.unsave c x (u.loadFmt x.ctxBase.toNat)
      (Memory.write [] 0 ((List.range kn.crw).map (fun i => s.physByte (x.ctxBase.toNat + 0xE4A00 + 128 * kn.vregs * 64 + i)))) := by
  unfold State.restore State.unsave
  rw [hx, hk]

theorem State.unsave_leaves {s u : State} {c : CrewId} {x : Crew} (hu : u = { s with waves := u.waves }) (fmt : SMap Word)
    (crw : Memory) :
    let t := u.unsave c x fmt crw
    t = { s with waves := t.waves, crews := t.crews, clusters := t.clusters } ∧ t.waves = u.waves
      ∧ t.crew? c = some { x with saved := false, preempt := false, moving := false, fmt := fmt, crw := crw, copies := [] }
      ∧ t.cluster x.cluster
        = { s.cluster x.cluster with copies := (s.cluster x.cluster).copies ++ x.copies, l1 := [], l1Past := false } := by
  have hcl : u.cluster x.cluster = s.cluster x.cluster := by
    rw [hu]
    rfl
  refine ⟨?_, rfl, Tab.get?_set_self u.crews c _, ?_⟩
  · rw [hu]
    rfl
  · refine (State.cluster_dropL1_modCluster _ _ _).trans ?_
    exact congrArg (fun y : Cluster => { y with copies := y.copies ++ x.copies, l1 := [], l1Past := false }) hcl

theorem State.loadFmt_waves {s u : State} (hu : u = { s with waves := u.waves }) (b : Nat) : u.loadFmt b = s.loadFmt b := by
  rw [hu]
  rfl

/-- Settles O46: each clause is a lemma above, about what RESUME, STOP, HALT, a pre-emption, a save and a restore leave. -/
theorem firmwareEvents : Obligations.FirmwareEvents := by
  unfold Obligations.FirmwareEvents
  refine ⟨fun s a q hboot hh => ?_, fun s a q hboot hst => ?_, fun s a q hboot hh hst hl hdue => ?_,
    fun s a q hboot hh hst => ?_, fun u a q n l h => State.releaseLaunches_one h,
    fun u a i g pre h hg ha hform hdue hpre => State.decideSpatial_last h hg ha hform hdue hpre,
    fun s a q hboot hh hc => ?_, fun s a q hboot hh hn => stop_crews hboot hh hn, fun s a hboot => ?_, fun s a hboot hdue => ?_,
    fun s c n g f hboot hg hdue => gangResume_next f hboot hg hdue, fun s a v hboot => ?_,
    fun s c x hx hslice hsaved hwanted => sliceTimerExpiry_next hx hslice hsaved hwanted,
    fun s c x kn hx hk hp hs hoff hready hecc => ?_, fun s c x kn hx hk hsaved hfits hret hecc => ?_⟩
  · rw [resume_next hboot, State.resume_none (.inl hh), stop_next hboot, State.stopRecord, hh]
    exact ⟨rfl, rfl⟩
  · rw [resume_next hboot, State.resume_none (.inr hst)]
  · refine ⟨s.recordDone a q, ?_, State.recordDone_frame, fun w x hw => State.recordDone_wave? hw,
      fun i g hg => State.recordDone_gang? hg⟩
    rw [resume_next hboot, State.resume_recordDone hh hst hl hdue]
  · refine ⟨s.recordDone a q, ?_, State.recordDone_frame, fun w x hw => State.recordDone_wave? hw⟩
    rw [resume_next hboot, State.resume_held hh hst]
  · rw [stop_next hboot, State.stopRecord_noCrews hh hc]
  · exact ⟨s.haltJob a, halt_next hboot, rfl, (s.haltJob_asid a a).trans (if_pos rfl),
      fun b hb => (s.haltJob_asid a b).trans (if_neg hb), fun i g hg => State.haltJob_gang? hg⟩
  · refine ⟨s.unhalted a, ?_, rfl, (s.unhalted_asid a a).trans (if_pos rfl),
      fun b hb => (s.unhalted_asid a b).trans (if_neg hb), fun i g hg => State.unhalted_gang? hg⟩
    rw [resumeGangs_next hboot, State.resumeJob_eq hdue]
  · exact ⟨s.preemptWrite a v, preemptRequest_next hboot v, rfl, fun c x hx => State.preemptWrite_crew? hx⟩
  · obtain ⟨hu, hbytes⟩ := s.saveCrew_keeps c x kn
    obtain ⟨hframe, hmem, hcrew, hothers, hcl⟩ := State.takeCopies_leaves hx hu _
    exact ⟨_, crewSave_spec hx hk hp hs hoff hready hecc, hframe, hcrew, hothers, hcl,
      fun a ha => (congrArg (Memory.byte · a) hmem).trans (hbytes a ha)⟩
  · obtain ⟨hu, -, hwaves⟩ := State.foldl_loadWave x kn ((x.gangIds c).flatMap GangId.waves) s
    obtain ⟨hframe, hw, hcrew, hcl⟩ := State.unsave_leaves hu _ _
    refine ⟨_, _, (crewRestore_next hx hk hsaved hfits hret hecc).trans (congrArg Host.Outcome.next (State.restore_eq hx hk)),
      hframe, hcrew, rfl, fun n h8 h64 => ?_, fun a ha => Memory.byte_write_range _ ha, hcl, fun g v z hg hv hz => ?_⟩
    · exact (congrArg (SMap.get · 0 n) (State.loadFmt_waves hu _)).trans (s.get_loadFmt _ h8 h64)
    · obtain ⟨u, hwave, hblock⟩ := hwaves (x.nodup_waves c) ⟨c, g, v⟩ (Crew.mem_waves hg hv) z hz
      exact ⟨u, (congrArg (Tab.get? · _) hw).trans hwave, hblock.pc, hblock.mask, hblock.exited, hblock.rpm, hblock.fcsr, hblock.uniform,
        fun i hi hi' => (hblock.masks i hi hi').trans (by rw [Nat.add_assoc])⟩

end Sys2Proof.Machine
end

section
/-! PROOFS. Gating, power, the curb, live service and keys (R416, R436, R442 to R445). -/

namespace Sys2Proof.Machine

/-! ### Gating (R416) -/

section
variable {s : State} {cl : Nat} (hcl : cl < 104) (hboot : s.booted = true)

section
include hcl hboot

theorem gateRequest_next : exec (.gateRequest cl) s = .next (if (s.cluster cl).gate = .open_ ∧ s.idle cl = true
    then s.modCluster cl (fun c => { c with gate := .request }) else s) := by
  show execGateRequest cl s = _
  rw [execGateRequest, if_neg (by omega), State.byFirmware_booted hboot, State.gateOn]
  simp only [Bool.and_eq_true, beq_iff_eq]

theorem gateWake_next : exec (.gateWake cl) s = .next (s.gateOff cl) := by
  show execGateWake cl s = _
  rw [execGateWake, if_neg (by omega), State.byFirmware_booted hboot]
end

theorem State.gateOff_gate (s : State) (cl : Nat) : ((s.gateOff cl).cluster cl).gate
    = if (s.cluster cl).gate = .gated ∨ (s.cluster cl).gate = .waking then .waking else .open_ := by
  refine (congrArg Cluster.gate ((State.cluster_setCluster s cl cl _).trans (if_pos rfl))).trans ?_
  dsimp only
  cases (s.cluster cl).gate <;> rfl

theorem gateCommit_next (h : (s.cluster cl).gate = .request) : exec (.gateCommit cl) s
    = .next (s.modCluster cl (fun c => { c with gate := if s.idle cl then .gated else .open_ })) := by
  show execGateCommit cl s = _
  rw [execGateCommit, h]
  rfl

theorem clusterWake_next (h : (s.cluster cl).gate = .waking) :
    exec (.clusterWake cl) s = .next (s.modCluster cl (fun c => { c with gate := .open_ })) := by
  show execClusterWake cl s = _
  rw [execClusterWake, h]
  rfl
end

/-! ### The curb (R443) -/

theorem curbEngage_next (s : State) {al : BitVec 3} (h : al ≠ 0) : exec (.curbEngage al) s = .next { s with
    curbAlarms := s.curbAlarms ||| al, curbOn := true, curbClear := false
    curbCount := if s.curbOn = true ∨ s.curbCount = 0xFFFFFFFF then s.curbCount else s.curbCount + 1 } := by
  show execCurbEngage al s = _
  rw [execCurbEngage, if_neg (by simpa using h)]
  simp only [Bool.or_eq_true, beq_iff_eq]

theorem curbLift_next {s : State} (hon : s.curbOn = true) (hclear : s.curbClear = true) :
    exec .curbLift s = .next { s with curbOn := false, curbClear := false } := by
  show execCurbLift s = _
  rw [execCurbLift, hon, hclear]
  rfl

/-! ### Live service (R444, R445) -/

/-- R444: the target of an SVCCMD. -/
theorem fld_svcWord {op n : Nat} (hn : n < 256) : fld (svcWord op n 0) 55 48 = n := by
  rw [fld_eq_div_mod, svcWord, BitVec.toNat_ofNat]
  omega

section
variable {s : State} (h : s.serving = true)
include h

/-- R444: while an operation runs, no other begins. -/
theorem State.svcUpdate_serving (v : Dword) (ok : Bool) : s.svcUpdate v ok = s := by
  rw [State.svcUpdate, h]
  rfl

theorem State.svcCluster_serving (v : Dword) : s.svcCluster v = s := by
  rw [State.svcCluster, h]
  rfl

theorem State.svcChannel_serving (v : Dword) (ok : Bool) : s.svcChannel v ok = s := by
  rw [State.svcChannel, if_pos h]

theorem State.svcRetrain_serving (v : Dword) : s.svcRetrain v = s := by
  rw [State.svcRetrain, h]
  rfl

theorem State.svcRecal_serving (v : Dword) : s.svcRecal v = s := by
  rw [State.svcRecal, h]
  rfl
end

section
variable {s : State} (h : s.serving = false) {n : Nat} {v : Dword} (hv : fld v 55 48 = n)
include h hv

/-- R444: an operation that no other keeps out, and whose target exists, begins. -/
theorem not_serving_or {m : Nat} (hn : n < m) : ¬ ((s.serving || decide (m ≤ fld v 55 48)) = true) := by
  rw [h, hv]
  simpa using hn

theorem State.svcUpdate_begins (ok : Bool) (hn : n < 16) : let peer := if n % 2 = 0 then n + 1 else n - 1
    s.svcUpdate v ok = if ok = true ∧ s.canVerify = true ∧ s.ostlers.getLsbD peer = false
      then { s with svcCmd := v, svcStat := .running, ostlers := setBit s.ostlers n true }
      else { s with svcCmd := v, svcStat := .refused } := by
  have hno (b : Bool) : (!ok || !s.canVerify || b) = true ↔ ¬ (ok = true ∧ s.canVerify = true ∧ b = false) := by
    cases ok <;> cases s.canVerify <;> cases b <;> decide
  unfold State.svcUpdate
  rw [if_neg (not_serving_or h hv hn), hv]
  intro peer
  simp only [State.beginSvc]
  by_cases hb : (!ok || !s.canVerify || s.ostlers.getLsbD peer) = true
  · rw [if_neg ((hno _).mp hb)]
    refine (if_pos hb).trans ?_
    rw [if_pos hb]
  · rw [if_pos (not_not.mp (mt (hno _).mpr hb))]
    refine (if_neg hb).trans ?_
    rw [if_neg hb]

theorem State.svcCluster_begins (hn : n < 104) : s.svcCluster v = if s.spareUsed.getLsbD (n / 13)
    then { s with svcCmd := v, svcStat := .refused }
    else { s with
      svcCmd := v, svcStat := if s.sysHeld n then .waitSys else .running
      crews := Tab.map s.crews (fun _ x => if x.cluster == n && !x.saved then { x with preempt := true } else x) } := by
  unfold State.svcCluster
  rw [if_neg (not_serving_or h hv hn), hv]
  cases hb : s.spareUsed.getLsbD (n / 13) with
  | true => rfl
  | false => rfl

theorem State.svcChannel_begins (room : Bool) : s.svcChannel v room = { s with
    svcCmd := v, svcStat := if room then .running else .refused, svcPages := if room then s.homedPages n else [] } := by
  rw [State.svcChannel, if_neg (Bool.eq_false_iff.mp h), hv]
  cases room with
  | true => rfl
  | false => rfl

theorem State.svcRetrain_begins (hn : n < 8) : s.svcRetrain v = { s.fresh.2 with
    svcCmd := v, svcStat := .running, linkStat := SMap.set s.linkStat 0 n (BitVec.ofNat 64 s.fresh.1) } := by
  unfold State.svcRetrain
  rw [if_neg (not_serving_or h hv hn), hv]
  rfl

theorem State.svcRecal_begins (hn : n < 2) : s.svcRecal v = { s with svcCmd := v, svcStat := .running } :=
  if_neg (not_serving_or h hv hn)
end

/-- A crew that a RETIRE of its cluster asks to be saved. -/
theorem get?_map_preempt {s : State} {n : Nat} {c : CrewId} {x : Crew} (hx : s.crew? c = some x) :
    Tab.get? (Tab.map s.crews (fun _ x => if x.cluster == n && !x.saved then { x with preempt := true } else x)) c
      = some (if x.cluster = n ∧ x.saved = false then { x with preempt := true } else x) := by
  have hx' : Tab.get? s.crews c = some x := hx
  rw [Tab.get?_map, hx', Option.map_some]
  simp only [Bool.and_eq_true, beq_iff_eq, Bool.not_eq_true']

section
variable {s : State} (hboot : s.booted = true) (n : Nat) (ok : Bool)
include hboot

theorem update_next : exec (.update n ok) s = .next (s.svcUpdate (svcWord 1 n 0) ok) := State.byFirmware_booted hboot _

theorem retireCluster_next : exec (.retireCluster n) s = .next (s.svcCluster (svcWord 2 n 0)) := State.byFirmware_booted hboot _

theorem retireChannel_next : exec (.retireChannel n ok) s
    = .next (if 256 ≤ n then s else s.svcChannel (svcWord 3 n 0) ok) := State.byFirmware_booted hboot _

theorem retrain_next : exec (.retrain n) s = .next (if 256 ≤ n then s else s.svcRetrain (svcWord 4 n 0)) :=
  State.byFirmware_booted hboot _

theorem recal_next : exec (.recal n) s = .next (if 256 ≤ n then s else s.svcRecal (svcWord 5 n 0)) :=
  State.byFirmware_booted hboot _

/-- R444: SVCCMD changes nothing while an operation runs. -/
theorem serving_next (h : s.serving = true) : exec (.update n ok) s = .next s ∧ exec (.retireCluster n) s = .next s
    ∧ exec (.retireChannel n ok) s = .next s ∧ exec (.retrain n) s = .next s ∧ exec (.recal n) s = .next s := by
  rw [update_next hboot, retireCluster_next hboot, retireChannel_next hboot, retrain_next hboot, recal_next hboot,
    State.svcUpdate_serving h, State.svcCluster_serving h, State.svcChannel_serving h, State.svcRetrain_serving h,
    State.svcRecal_serving h]
  simp only [ite_self, and_self]
end

/-! ### The end of an operation (R444, R445) -/

/-- The clusters and the free values may differ. -/
structure ClustersFrame (s t : State) : Prop where
  eq : t = { s with clusters := t.clusters, free := t.free }

theorem State.foldl_recalGait (cs : List Nat) (s : State) : ClustersFrame s (cs.foldl State.recalGait s) := by
  induction cs generalizing s with
  | nil => exact ⟨rfl⟩
  | cons n cs ih =>
    have hrest := (ih (s.recalGait n)).eq
    exact ⟨hrest.trans rfl⟩

theorem foldr_unlessFull {s t : State} {ms : List (CrewId × Crew)} (h : ∀ q ∈ ms, ringFits (s.asidOf q.1) s t) :
    ms.foldr (fun q o => s.unlessFull (s.asidOf q.1) o) (.next t) = .next t := by
  induction ms with
  | nil => rfl
  | cons q ms ih =>
    rw [List.foldr_cons, ih fun q hq => h q (List.mem_cons_of_mem _ hq)]
    exact State.unlessFull_of_fits (h q List.mem_cons_self)

section
variable {s : State} (h : s.serving = true)
include h

theorem serviceComplete_update (hop : fld s.svcCmd 63 56 = 1) : exec .serviceComplete s
    = .next { s with ostlers := setBit s.ostlers (fld s.svcCmd 55 48) false, svcStat := .done } := by
  show execServiceComplete s = _
  unfold execServiceComplete
  rw [h, hop]
  rfl

theorem serviceComplete_cluster (hop : fld s.svcCmd 63 56 = 2) (hout : s.movedOut (fld s.svcCmd 55 48) = true)
    (hfits : ∀ q ∈ s.movers (fld s.svcCmd 55 48),
      ringFits (s.asidOf q.1) s { s.moveIn (fld s.svcCmd 55 48) with svcStat := .done }) :
    exec .serviceComplete s = .next { s.moveIn (fld s.svcCmd 55 48) with svcStat := .done } := by
  show execServiceComplete s = _
  unfold execServiceComplete
  rw [h, hop]
  dsimp only
  rw [hout]
  exact foldr_unlessFull hfits

theorem serviceComplete_other (hop : fld s.svcCmd 63 56 ≠ 2)
    (hmoved : fld s.svcCmd 63 56 = 3 → s.pagesMoved (fld s.svcCmd 55 48) = true) :
    ∃ t, exec .serviceComplete s = .next t ∧ t.svcStat = .done ∧ t.mem = s.mem ∧ t.waves = s.waves ∧ t.crews = s.crews := by
  show ∃ t, execServiceComplete s = .next t ∧ _
  unfold execServiceComplete
  rw [h]
  dsimp only
  split
  next hfalse => cases hfalse
  split
  next => exact ⟨_, rfl, rfl, rfl, rfl, rfl⟩
  next heq => exact absurd heq hop
  next heq =>
    rw [if_pos (hmoved heq)]
    exact ⟨_, rfl, rfl, rfl, rfl, rfl⟩
  next => exact ⟨_, rfl, rfl, rfl, rfl, rfl⟩
  next =>
    split
    · have hframe := (State.foldl_recalGait (List.range 104) s).eq
      generalize (List.range 104).foldl State.recalGait s = t at hframe
      exact ⟨_, rfl, rfl, by rw [hframe], by rw [hframe], by rw [hframe]⟩
    · exact ⟨_, rfl, rfl, rfl, rfl, rfl⟩
end

/-! ### The steps of the module -/

/-- Settles O47: each clause is a lemma above, about one operation of the module. -/
theorem moduleEvents : Obligations.ModuleEvents := by
  unfold Obligations.ModuleEvents
  refine ⟨fun s cl hcl hboot => ⟨gateRequest_next hcl hboot, gateCommit_next,
      ⟨s.gateOff cl, gateWake_next hcl hboot, rfl, s.gateOff_gate cl⟩, clusterWake_next⟩, fun s mw => rfl,
    fun s al => ⟨curbEngage_next s, rfl, curbLift_next⟩, fun s hboot h n ok => serving_next hboot n ok h,
    fun s n ok hboot h => ⟨fun hn => ?_, fun hn hused => ?_, fun hn hused => ?_, fun hn => ?_, fun hn => ?_, fun hn => ?_⟩,
    fun s h => ⟨serviceComplete_update h, serviceComplete_cluster h, serviceComplete_other h⟩,
    fun s k hboot => State.byFirmware_booted hboot _⟩
  · rw [update_next hboot, State.svcUpdate_begins h (fld_svcWord (by omega)) ok hn]
  · rw [retireCluster_next hboot, State.svcCluster_begins h (fld_svcWord (by omega)) hn, if_pos hused]
  · rw [retireCluster_next hboot, State.svcCluster_begins h (fld_svcWord (by omega)) hn, if_neg (Bool.eq_false_iff.mp hused)]
    exact ⟨_, rfl, rfl, fun c x hx => get?_map_preempt hx⟩
  · rw [retireChannel_next hboot, if_neg (by omega), State.svcChannel_begins h (fld_svcWord hn)]
  · rw [retrain_next hboot, if_neg (by omega), State.svcRetrain_begins h (fld_svcWord (by omega)) hn]
    exact ⟨_, rfl⟩
  · rw [recal_next hboot, if_neg (by omega), State.svcRecal_begins h (fld_svcWord (by omega)) hn]

end Sys2Proof.Machine
end

section
/-! PROOFS. The command messages of the host (R194, R220, R402, R409, R433 to R436, R441). -/

namespace Sys2Proof.Machine

/-! ### A command and its reply (R435) -/

section
variable {s : State} {conn : Conn} {h : Header} {opc n payload : Nat} {act : State → State × Nat × Dword} (hopc : Header.opc h = opc)
include hopc

theorem State.command_notBooted (hboot : s.booted = false) : s.command conn h opc n payload act = .next s := by
  rw [State.command, if_neg (by simpa using hopc), hboot]
  rfl

variable (hboot : s.booted = true)
include hboot

theorem State.command_bad (hbad : badCmd h payload n = true) :
    s.command conn h opc n payload act = .next (s.complete conn h 5 0) := by
  rw [State.command, if_neg (by simpa using hopc), hboot, hbad]
  rfl

variable (hgood : badCmd h payload n = false)
include hgood

theorem State.command_denied (hmay : s.mayCommand conn.key (Header.asid h) = false) :
    s.command conn h opc n payload act = .next (s.complete conn h 3 0) := by
  rw [State.command, if_neg (by simpa using hopc), hboot, hgood, hmay]
  rfl

theorem State.command_acts (hmay : s.mayCommand conn.key (Header.asid h) = true) :
    s.command conn h opc n payload act = .next ((act s).1.complete conn h (act s).2.1 (act s).2.2) := by
  rw [State.command, if_neg (by simpa using hopc), hboot, hgood, hmay]
  rfl
end

/-- R433: a known command is carried out by `State.command`. -/
theorem exec_command {conn : Conn} {h : Header} {p : List Dword} {i : Instr} {opc n : Nat}
    (hi : Claims.commandOf conn h p i = some (opc, n)) :
    ∃ act, ∀ s, exec i s = s.command conn h opc n p.length act := by
  unfold Claims.commandOf at hi
  split at hi
  case h_6 => cases hi
  all_goals
    rw [Option.ite_none_right_eq_some] at hi
    obtain ⟨⟨rfl, rfl, rfl⟩, hi⟩ := hi
    cases hi
    exact ⟨_, fun s => rfl⟩

section
variable {s : State} {conn : Conn} {h : Header} {p : List Dword} (hboot : s.booted = true)
  (hmay : s.mayCommand conn.key (Header.asid h) = true)
include hboot hmay

theorem hostLaunch_acts (hopc : Header.opc h = 1) (hgood : badCmd h p.length 16 = false) :
    let a := Header.asid h
    let st := if (s.asid a).log2n = 0 then 3 else s.enqStatus a (Header.queue h) p
    exec (.hostLaunch conn h p) s = .next ((if st = 0 then s.accept (Header.queue h) p none else s).complete conn h st 0) := by
  show execHostLaunch conn h p s = _
  rw [execHostLaunch, State.command_acts hopc hboot hgood hmay]

theorem hostStop_acts (hopc : Header.opc h = 3) (hgood : badCmd h p.length 0 = false) :
    exec (.hostStop conn h p) s = .next ((s.stopJob (Header.asid h)).complete conn h 0 0) := by
  show execHostStop conn h p s = _
  rw [execHostStop, State.command_acts hopc hboot hgood hmay]

theorem release_acts (hopc : Header.opc h = 4) (hgood : badCmd h p.length 0 = false) :
    exec (.release conn h p) s = .next (if (s.asid (Header.asid h)).stopped
      then (s.releaseJob (Header.asid h)).complete conn h 0 0 else s.complete conn h 6 0) := by
  show execRelease conn h p s = _
  rw [execRelease, State.command_acts hopc hboot hgood hmay]
  cases (s.asid (Header.asid h)).stopped <;> rfl

/-! ### SUBSCRIBE (R434) -/

/-- R434: a subscription is kept while fewer than 1,024 are. -/
def State.subscribed (s : State) (conn : Conn) (h : Header) : State :=
  if 1024 ≤ s.subs.length then s.complete conn h 1 0 else
    State.complete { s with subs := s.subs ++ [⟨conn, Header.asid h, h.d1, h.d2, Header.ctag h⟩] } conn h 0 0

section
variable (hopc : Header.opc h = 2) (hgood : badCmd h p.length 0 = false)
include hopc hgood

theorem subscribe_faults (haddr : h.d1 = 0) : exec (.subscribe conn h p) s = .next (s.subscribed conn h) := by
  show execSubscribe conn h p s = _
  rw [execSubscribe, State.command_acts hopc hboot hgood hmay]
  rw [if_pos (by simpa using haddr), State.subscribed]
  dsimp only
  split <;> rfl

theorem subscribe_unaligned (haddr : h.d1 ≠ 0) (halign : h.d1.toNat % 8 ≠ 0) :
    exec (.subscribe conn h p) s = .next (s.complete conn h 4 0) := by
  show execSubscribe conn h p s = _
  rw [execSubscribe, State.command_acts hopc hboot hgood hmay]
  rw [if_neg (by simpa using haddr), if_pos (by simpa using halign)]

theorem subscribe_memFault {t : State} {c : Nat} (haddr : h.d1 ≠ 0) (halign : h.d1.toNat % 8 = 0)
    (hfind : s.devAt (Header.asid h) h.d1.toNat 8 useLoad = (t, .error c)) :
    exec (.subscribe conn h p) s = .next (t.complete conn h 4 0) := by
  show execSubscribe conn h p s = _
  rw [execSubscribe, State.command_acts hopc hboot hgood hmay]
  rw [if_neg (by simpa using haddr), if_neg (by simpa using halign), hfind]

theorem subscribe_counter {t : State} {l : Loc} (haddr : h.d1 ≠ 0) (halign : h.d1.toNat % 8 = 0)
    (hfind : s.devAt (Header.asid h) h.d1.toNat 8 useLoad = (t, .ok l)) :
    exec (.subscribe conn h p) s = .next (t.subscribed conn h) := by
  show execSubscribe conn h p s = _
  rw [execSubscribe, State.command_acts hopc hboot hgood hmay]
  rw [if_neg (by simpa using haddr), if_neg (by simpa using halign), hfind, State.subscribed]
  dsimp only
  split <;> rfl
end

/-! ### ATOMIC (R220) -/

section
variable (hopc : Header.opc h = 5) (hgood : badCmd h p.length 0 = false) (haop : fld h.d3 55 52 < 14) (hsz : 2 ≤ fld h.d3 51 50)
include hopc hgood haop hsz

theorem atomic_unaligned (halign : h.d1.toNat % 2 ^ fld h.d3 51 50 ≠ 0) :
    exec (.atomic conn h p) s = .next (s.complete conn h 4 0) := by
  show execAtomic conn h p s = _
  rw [execAtomic, State.command_acts hopc hboot hgood hmay]
  rw [if_neg (by simp only [Bool.or_eq_true, decide_eq_true_eq]; omega), if_pos (by simpa using halign)]

theorem atomic_performs {t : State} {l : Loc} (halign : h.d1.toNat % 2 ^ fld h.d3 51 50 = 0)
    (hfind : s.devAt (Header.asid h) h.d1.toNat (2 ^ fld h.d3 51 50) useStore = (t, .ok l)) :
    let n := 2 ^ fld h.d3 51 50
    let o := leNat (t.homeRead l n)
    exec (.atomic conn h p) s = .next ((t.homeWrite l (leBytes n
      (atomNew (fld h.d3 55 52) (8 * n) o (h.d2.toNat % 2 ^ (8 * n))))).complete conn h 0 (BitVec.ofNat 64 o)) := by
  show execAtomic conn h p s = _
  rw [execAtomic, State.command_acts hopc hboot hgood hmay]
  rw [if_neg (by simp only [Bool.or_eq_true, decide_eq_true_eq]; omega), if_neg (by simpa using halign), hfind]
end
end

/-! ### The other messages -/

theorem unknownCommand_next (s : State) (conn : Conn) {h : Header} (hopc : ¬(1 ≤ Header.opc h ∧ Header.opc h ≤ 5)) :
    exec (.unknownCommand conn h) s = .next (if s.booted then s.complete conn h 5 0 else s) := by
  show execUnknownCommand conn h s = _
  rw [execUnknownCommand, if_neg (by simpa using hopc)]
  cases s.booted <;> rfl

/-- R434: a counter at its threshold. -/
theorem event_next {s t : State} {k : Nat} {u : Sub} {l : Loc} (hsub : s.subs[k]? = some u) (haddr : u.addr ≠ 0)
    (hfind : s.devAt u.asid u.addr.toNat 8 useLoad = (t, .ok l)) (hthr : u.thr.toNat ≤ leNat (t.homeRead l 8)) :
    exec (.event k) s = .next (State.sendMsg { t with subs := t.subs.eraseIdx k } u.conn 0x83 u.asid u.ctag u.addr
      (BitVec.ofNat 64 (leNat (t.homeRead l 8))) 0) := by
  show execEvent k s = _
  unfold execEvent
  rw [hsub]
  dsimp only
  rw [if_neg (by simpa using haddr), hfind]
  exact if_neg (by omega)

theorem connectionClose_next (s : State) (conn : Conn) : exec (.connectionClose conn) s
    = .next { s with subs := s.subs.filter (fun u => !decide (u.conn = conn ∧ u.addr = 0)) } := by
  have hfun : (fun u : Sub => !(u.conn == conn && u.addr == 0)) = fun u => !decide (u.conn = conn ∧ u.addr = 0) := by
    funext u
    simp only [Bool.decide_and, beq_eq_decide]
  show Host.Outcome.next { s with subs := s.subs.filter (fun u => !(u.conn == conn && u.addr == 0)) } = _
  rw [hfun]

/-- Settles O48: each command is `State.command` with its own action. -/
theorem hostCommands : Obligations.HostCommands := by
  unfold Obligations.HostCommands
  refine ⟨fun s conn h p i opc n hi hopc => ?_, fun s conn h p hboot hmay => ?_, fun s conn h hopc => unknownCommand_next s conn hopc,
    fun s t k u l hsub haddr hfind hthr => event_next hsub haddr hfind hthr, fun s conn => connectionClose_next s conn⟩
  · obtain ⟨act, hact⟩ := exec_command hi
    rw [hact]
    exact ⟨State.command_notBooted hopc, State.command_bad hopc, State.command_denied hopc⟩
  · intro a
    refine ⟨hostLaunch_acts hboot hmay, fun hopc hgood => ⟨subscribe_faults hboot hmay hopc hgood,
        subscribe_unaligned hboot hmay hopc hgood, fun t r haddr halign hfind => ?_⟩,
      hostStop_acts hboot hmay, release_acts hboot hmay, fun hopc hgood haop hsz => ?_⟩
    · cases r with
      | error c => exact subscribe_memFault hboot hmay hopc hgood haddr halign hfind
      | ok l => exact subscribe_counter hboot hmay hopc hgood haddr halign hfind
    · exact ⟨atomic_unaligned hboot hmay hopc hgood haop hsz,
        fun t l halign hfind => atomic_performs hboot hmay hopc hgood haop hsz halign hfind⟩

end Sys2Proof.Machine
end

section
/-! PROOFS. What every write of the machine keeps: predicates on states that the updates of State keep, among them the
invariant of a step. -/

namespace Sys2Proof.Machine

/-! ### Predicates that writes keep -/

/-- The parts of the state of which the predicates below speak are the same. -/
structure SameParts (s t : State) : Prop where
  mem : t.mem = s.mem
  remote : t.remote = s.remote
  waves : t.waves = s.waves
  gangs : t.gangs = s.gangs
  crews : t.crews = s.crews
  launches : t.launches = s.launches
  asids : t.asids = s.asids

/-- What the debugger sets in an address space (R418) is the same. -/
def Asid.SameDebug (x y : Asid) : Prop := y.halt = x.halt ∧ y.allstop = x.allstop ∧ y.debug = x.debug

/-- A predicate that every write of an object or of a memory keeps, and every write of an address space but the debugger's. -/
structure Stable (P : State → Prop) : Prop where
  same : ∀ {s t}, P s → SameParts s t → P t
  setWave : ∀ {s}, P s → ∀ w x, P (s.setWave w x)
  setGang : ∀ {s}, P s → ∀ g x, P (s.setGang g x)
  setCrew : ∀ {s}, P s → ∀ c x, P (s.setCrew c x)
  setLaunch : ∀ {s}, P s → ∀ l x, P (s.setLaunch l x)
  setAsid : ∀ {s a x}, P s → (s.asid a).SameDebug x → P (s.setAsid a x)
  mem : ∀ {s}, P s → ∀ a bs, P { s with mem := Memory.write s.mem a bs }
  remote : ∀ {s}, P s → ∀ a bs, P { s with remote := Memory.write s.remote a bs }

/-- The step's invariant is such a predicate. -/
theorem State.Inv.stable : Stable State.Inv where
  same h e := h.of_eq ⟨e.mem, e.remote, e.waves, e.gangs, e.crews, e.launches⟩
  setWave h w x := h.setWave w x
  setGang h g x := h.setGang g x
  setCrew h c x := h.setCrew c x
  setLaunch h l x := h.setLaunch l x
  setAsid h _ := h
  mem h a bs := ⟨Memory.wf_write a bs h.1, h.2⟩
  remote h a bs := h.writeRemote a bs

/-- So is what the debugger has set in one address space. -/
theorem stable_debug (a : Nat) (y : Asid) : Stable (fun s => y.SameDebug (s.asid a)) where
  same h e := by
    rw [State.asid, e.asids]
    exact h
  setWave h _ _ := h
  setGang h _ _ := h
  setCrew h _ _ := h
  setLaunch h _ _ := h
  setAsid h e := by
    rw [State.asid_setAsid]
    split
    next heq =>
      subst heq
      exact ⟨e.1.trans h.1, e.2.1.trans h.2.1, e.2.2.trans h.2.2⟩
    next => exact h
  mem h _ _ := h
  remote h _ _ := h

/-- What a predicate says of the states in a result. -/
def OutAll (P : State → Prop) : Out → Prop
  | .next t => P t
  | _ => True

def OptAll (P : State → Prop) : Option State → Prop
  | some t => P t
  | none => True

def UnitRes.All (P : State → Prop) : UnitRes → Prop
  | .ok t => P t
  | _ => True

def Grant.All (P : State → Prop) : Grant → Prop
  | .ok _ t => P t
  | .blocked o => OutAll P o
  | .noRoom => True

def Given.All (P : State → Prop) : Given → Prop
  | .ok t => P t
  | .refused t => P t
  | .noRoom => True

section
variable (P : State → Prop)

theorem foldl_keeps {α : Type} {f : State → α → State} (hf : ∀ s x, P s → P (f s x)) (l : List α) {s : State} (h : P s) :
    P (l.foldl f s) := by
  induction l generalizing s with
  | nil => exact h
  | cons x l ih => exact ih (hf s x h)

/-- A fold that carries something beside the state. -/
theorem foldl_keeps_snd {α β : Type} {f : β × State → α → β × State} (hf : ∀ a x, P a.2 → P (f a x).2) (l : List α)
    {a : β × State} (h : P a.2) : P (l.foldl f a).2 := by
  induction l generalizing a with
  | nil => exact h
  | cons x l ih => exact ih (hf a x h)

theorem ite_keeps {c : Prop} [Decidable c] {s t : State} (hs : P s) (ht : P t) : P (if c then s else t) := by
  split
  · exact hs
  · exact ht

theorem ite_keeps_fst {β : Type} {c : Prop} [Decidable c] {s t : State × β} (hs : P s.1) (ht : P t.1) :
    P (if c then s else t).1 := by
  split
  · exact hs
  · exact ht

theorem ite_keeps_snd {β : Type} {c : Prop} [Decidable c] {s t : β × State} (hs : P s.2) (ht : P t.2) :
    P (if c then s else t).2 := by
  split
  · exact hs
  · exact ht

theorem OutAll.ite {c : Prop} [Decidable c] {o p : Out} (ho : OutAll P o) (hp : OutAll P p) : OutAll P (if c then o else p) := by
  split
  · exact ho
  · exact hp

variable {P}

theorem keeps_of_fst {β : Type} {p : State × β} {t : State} {b : β} (h : P p.1) (e : p = (t, b)) : P t := by
  rwa [e] at h

theorem keeps_of_snd {β : Type} {p : β × State} {t : State} {b : β} (h : P p.2) (e : p = (b, t)) : P t := by
  rwa [e] at h

theorem OutAll.unlessFull {o : Out} (h : OutAll P o) (s : State) (a : Nat) : OutAll P (s.unlessFull a o) := by
  unfold State.unlessFull
  split
  · exact OutAll.ite P trivial h
  · exact h

variable (hP : Stable P) {s : State} (h : P s)
include hP h

/-! ### Objects and memories -/

theorem Stable.modWave (w : WaveId) (f : Wave → Wave) : P (s.modWave w f) := by
  unfold State.modWave
  split
  · exact hP.setWave h _ _
  · exact h

theorem Stable.modGang (g : GangId) (f : Gang → Gang) : P (s.modGang g f) := by
  unfold State.modGang
  split
  · exact hP.setGang h _ _
  · exact h

theorem Stable.modCrew (c : CrewId) (f : Crew → Crew) : P (s.modCrew c f) := by
  unfold State.modCrew
  split
  · exact hP.setCrew h _ _
  · exact h

theorem Stable.modAsid (a : Nat) {f : Asid → Asid} (hf : ∀ x : Asid, x.SameDebug (f x)) : P (s.modAsid a f) := hP.setAsid h (hf _)

theorem Stable.setCluster (c : Nat) (x : Cluster) : P (s.setCluster c x) := hP.same h ⟨rfl, rfl, rfl, rfl, rfl, rfl, rfl⟩

theorem Stable.modCluster (c : Nat) (f : Cluster → Cluster) : P (s.modCluster c f) := hP.setCluster h _ _

theorem Stable.physWrite (a : Nat) (bs : List Byte) : P (s.physWrite a bs) := hP.mem h _ _

theorem Stable.setTile (n : Nat) (l : List Tlb) : P (s.setTile n l) := hP.same h ⟨rfl, rfl, rfl, rfl, rfl, rfl, rfl⟩

theorem Stable.fresh : P s.fresh.2 := hP.same h ⟨rfl, rfl, rfl, rfl, rfl, rfl, rfl⟩

theorem Stable.stillHeld : P s.stillHeld.2 := hP.fresh h

theorem Stable.modRegion (c : CrewId) (f : Region → Region) : P (s.modRegion c f) := hP.modCrew h _ _

theorem Stable.modPlace (c : CrewId) (i : Nat) (f : Place → Place) : P (s.modPlace c i f) := hP.modRegion h _ _

theorem Stable.modChain (c : CrewId) (pad : Nat) (f : Chain → Chain) : P (s.modChain c pad f) := hP.modCrew h _ _

theorem Stable.sendFlit (c : CrewId) (f : Flit) : P (s.sendFlit c f) := hP.modCrew h _ _

theorem Stable.eachWave (i : GangId) (f : WaveId → Wave → Wave) : P (s.eachWave i f) :=
  foldl_keeps P (fun _ _ h => hP.modWave h _ _) _ h

/-! ### Records (R402 to R406) -/

theorem Stable.stopJob (a : Nat) : P (s.stopJob a) := hP.modAsid h a fun _ => ⟨rfl, rfl, rfl⟩

theorem Stable.putRecord (a : Nat) (d : List Dword) : P (s.putRecord a d) := by
  unfold State.putRecord
  dsimp only
  have hput : P { (s.physWrite (fld (s.asid a).frqBase 51 12 * 4096 + 64 * ((s.asid a).tail.toNat % 2 ^ (s.asid a).log2n))
      (d.flatMap (fun (w : Dword) => leBytes 8 w.toNat))).setAsid a { s.asid a with tail := (s.asid a).tail + 1 } with
      signals := s.signals ++ [(s.ostlerOf a, a)] } :=
    hP.same (hP.setAsid (x := { s.asid a with tail := (s.asid a).tail + 1 }) (hP.physWrite h _ _) ⟨rfl, rfl, rfl⟩)
      ⟨rfl, rfl, rfl, rfl, rfl, rfl, rfl⟩
  cases hstop : fld (d.getD 0 0) 43 42 == 1 with
  | true => exact hP.same (hP.stopJob hput a) ⟨rfl, rfl, rfl, rfl, rfl, rfl, rfl⟩
  | false =>
    simp only [Bool.false_eq_true, if_false, Bool.false_or]
    split
    · exact hP.same hput ⟨rfl, rfl, rfl, rfl, rfl, rfl, rfl⟩
    · exact hput

theorem Stable.raise (a : Nat) (r : RecF) : P (s.raise a r).1 := by
  have hseq : P (s.setAsid a { s.asid a with seq := nextSeq (s.asid a).seq }) := hP.setAsid h ⟨rfl, rfl, rfl⟩
  unfold State.raise
  dsimp only
  split
  · exact hP.putRecord hseq _ _
  · exact hP.setAsid hseq ⟨rfl, rfl, rfl⟩

theorem Stable.raiseStops (a : Nat) (w : WaveId) (r : RecF) : P (s.raiseStops a w r) := by
  unfold State.raiseStops
  dsimp only
  split
  · exact hP.raise h a r
  · exact hP.modWave (hP.raise h a r) _ _

/-! ### Translation and the home channel (R207 to R217) -/

theorem Stable.tileLookup (a va : Nat) : P (s.tileLookup a va).1 := by
  unfold State.tileLookup
  split
  · dsimp only
    split
    · exact hP.stillHeld h
    · exact hP.setTile (hP.stillHeld h) _ _
  · exact h

theorem Stable.touch (t : Tlb) (u : Use) : P (s.touch t u).1 := by
  exact ite_keeps_fst P h (hP.physWrite h _ _)

theorem Stable.holdTile (va : Nat) (t : Tlb) : P (s.holdTile va t) := hP.setTile h _ _

theorem Stable.xlatTile (a va : Nat) (u : Use) : P (s.xlatTile a va u).1 := by
  have hl := hP.tileLookup h a va
  unfold State.xlatTile
  split
  next heq => exact keeps_of_fst hl heq
  next heq =>
    have hs := keeps_of_fst hl heq
    split
    · exact hs
    · exact hP.holdTile (hP.touch hs _ _) _ _

theorem Stable.countWindows (base : Nat) (l : Loc) : P (s.countWindows base l) := by
  unfold State.countWindows
  split
  · exact h
  · refine foldl_keeps P (fun t k ht => ?_) _ h
    dsimp only
    split
    · exact hP.same (hP.fresh ht) ⟨rfl, rfl, rfl, rfl, rfl, rfl, rfl⟩
    · exact ht

theorem Stable.countChannel (l : Loc) : P (s.countChannel l) := by
  unfold State.countChannel
  split
  · exact hP.countWindows (hP.fresh h) _ _
  · exact h

theorem Stable.devAt (a va n : Nat) (u : Use) : P (s.devAt a va n u).1 := by
  have hx := hP.xlatTile h a va u
  unfold State.devAt
  split
  · exact h
  · split
    next heq => exact keeps_of_fst hx heq
    next heq =>
      have hs := keeps_of_fst hx heq
      dsimp only
      split
      · exact hs
      · split
        · exact hs
        · exact hP.countChannel hs _

theorem Stable.rekey (l : Loc) (n : Nat) : P (s.rekey l n) := by
  unfold State.rekey State.store
  dsimp only
  generalize (s.wroteKey { l with pa := 128 * n } == s.keyAt { l with pa := 128 * n }) = same
  cases hr : l.rmt <;> cases same
  · exact hP.same (hP.mem h _ _) ⟨rfl, rfl, rfl, rfl, rfl, rfl, rfl⟩
  · exact h
  · exact hP.same (hP.remote h _ _) ⟨rfl, rfl, rfl, rfl, rfl, rfl, rfl⟩
  · exact hP.same h ⟨rfl, rfl, rfl, rfl, rfl, rfl, rfl⟩

theorem Stable.homeWrite (l : Loc) (bs : List Byte) : P (s.homeWrite l bs) := by
  unfold State.homeWrite
  dsimp only
  have hkey : P (((linesOf l.pa bs.length).filter (fun n => l.rmt || 128 * n < hbmBytes)).foldl (fun s n => s.rekey l n) s) :=
    foldl_keeps P (fun _ _ h => hP.rekey h _ _) _ h
  split
  · exact hP.remote hkey _ _
  · exact hP.physWrite hkey _ _

theorem Stable.devRead (a va n : Nat) : P (s.devRead a va n).2 := by
  have hd := hP.devAt h a va n useLoad
  unfold State.devRead
  split
  next heq => exact keeps_of_fst hd heq
  next heq => exact hP.fresh (keeps_of_fst hd heq)

theorem Stable.devWrite (a va n v : Nat) : P (s.devWrite a va n v) := by
  have hd := hP.devAt h a va n useStore
  unfold State.devWrite
  split
  next heq => exact hP.homeWrite (keeps_of_fst hd heq) _ _
  next heq => exact keeps_of_fst hd heq

theorem Stable.perform (p : PStore) : P (s.perform p) := hP.homeWrite h _ _

theorem Stable.performPicked (cl : Nat) (pick : PStore → Bool) : P (s.performPicked cl pick) := by
  unfold State.performPicked
  exact hP.modCluster (foldl_keeps P (f := State.perform) (fun _ _ h => hP.perform h _) _ h) _ _

theorem Stable.dropL1 (c : Nat) : P (s.dropL1 c) := hP.modCluster h _ _

theorem Stable.acquire (cl scope : Nat) : P (s.acquire cl scope) := by
  unfold State.acquire
  split
  · exact h
  · exact hP.dropL1 h _

/-! ### Chains and rounds (R312, R368) -/

theorem Stable.newId (c : CrewId) : P (s.newId c).2 := by
  unfold State.newId
  split
  · exact hP.setCrew h _ _
  · exact h

theorem Stable.newAct (c : CrewId) (pad round blk : Nat) (tag : Dword) (parent : Option Nat) (loop : Bool) :
    P (s.newAct c pad round blk tag parent loop) := by
  unfold State.newAct
  split
  · exact ite_keeps P (hP.modChain (hP.newId h _) _ _ _) h
  · exact h

theorem Stable.bindChain (c : CrewId) (kn : Kernel) (pad : Nat) : OptAll P (s.bindChain c kn pad) := by
  unfold State.bindChain
  split
  · trivial
  · split
    · exact h
    · split
      · exact h
      · cases s.weirSlot _ _ with
        | none => trivial
        | some i => exact hP.modCrew h _ _

theorem Stable.bindAll (c : CrewId) (kn : Kernel) (pads : List Nat) : OptAll P (s.bindAll c kn pads) := by
  induction pads generalizing s with
  | nil => exact h
  | cons pad pads ih =>
    have hb := hP.bindChain h c kn pad
    rw [State.bindAll]
    cases hu : s.bindChain c kn pad with
    | none => trivial
    | some u =>
      rw [hu] at hb
      exact ih hb

/-! ### Regions (R257, R258, R292, R294) -/

theorem Stable.shuffle {α : Type} (n : Nat) (l : List α) : P (shuffle n l s).2 := by
  induction n generalizing s l with
  | zero => exact h
  | succ n ih =>
    unfold Machine.shuffle
    split
    · exact h
    · exact ih (hP.fresh h) _

theorem Stable.choosePlaces (slice n : Nat) (loc : Bool) : P (s.choosePlaces slice n loc).2 := by
  unfold State.choosePlaces
  exact ite_keeps_snd P (hP.shuffle h _ _) (ite_keeps_snd P h (ite_keeps_snd P h (hP.shuffle h _ _)))

theorem Stable.freeHandle (cl : Nat) : P (s.freeHandle cl).2 := hP.fresh h

theorem Stable.setCeils (ps : List (Nat × Nat × Nat)) (prio : Nat) : P (s.setCeils ps prio) :=
  foldl_keeps P (fun _ _ h => hP.modCluster h _ _) _ h

theorem Stable.evict (c : CrewId) (i : Nat) (p : Place) (f : Frame) : (evict s c i p f).All P := by
  unfold Machine.evict
  split
  · split
    · exact hP.modPlace h _ _ _
    · trivial
  · trivial

theorem Stable.evictLow (slice bay cell : Nat) : (evictLow s slice bay cell).All P := by
  unfold Machine.evictLow
  dsimp only
  split
  · split
    · exact hP.evict h _ _ _ _
    · trivial
  · trivial

theorem Stable.getUnit (c : CrewId) (i : Nat) (p : Place) (cell : Nat) : (getUnit s c i p cell).All P := by
  unfold Machine.getUnit
  dsimp only
  split
  · split
    · exact hP.evict h _ _ _ _
    · trivial
  · split
    · exact h
    · exact hP.evictLow h _ _ _

theorem Stable.secureCell (slice bay cell n fuel : Nat) : (secureCell slice bay cell n fuel s).All P := by
  induction fuel generalizing s with
  | zero => trivial
  | succ fuel ih =>
    have hl := hP.evictLow h slice bay cell
    unfold Machine.secureCell
    split
    · exact h
    · split
      next heq =>
        rw [heq] at hl
        exact ih hl
      next => exact hl

theorem Stable.secureCells (slice bay n : Nat) (cells : List Nat) : (secureCells slice bay n cells s).All P := by
  induction cells generalizing s with
  | nil => exact h
  | cons c cells ih =>
    have hc := hP.secureCell h slice bay c n 43
    unfold Machine.secureCells
    split
    next heq =>
      rw [heq] at hc
      exact ih hc
    next => exact hc

theorem Stable.secureSpots (ps : List (Nat × Nat × Nat)) : (secureSpots ps s).All P := by
  induction ps generalizing s with
  | nil => exact h
  | cons p ps ih =>
    have hc := hP.secureCells h p.1 p.2.1 0 computeCells
    unfold Machine.secureSpots
    split
    next heq =>
      rw [heq] at hc
      exact ih hc
    next => exact hc

theorem Stable.bwRaise (c : CrewId) (i : Nat) (op : BwOp) (d : CrewId) (j : Nat) (p : Place) (tag : Dword) (pad blk slot : Nat) :
    P (s.bwRaise c i op d j p tag pad blk slot) := hP.modPlace (hP.raise h _ _) _ _ _

theorem Stable.bwFault (c : CrewId) (i : Nat) (op : BwOp) (d : CrewId) (j : Nat) (p : Place) (tag : Dword) (pad blk slot : Nat) :
    OutAll P (s.bwFault c i op d j p tag pad blk slot) := by
  unfold State.bwFault
  exact OutAll.ite P trivial (hP.bwRaise h _ _ _ _ _ _ _ _ _ _)

theorem Stable.bwOwn (d : CrewId) (j : Nat) (f : Frame) : OutAll P (s.bwOwn d j f) := by
  unfold State.bwOwn
  split
  · exact OutAll.unlessFull (hP.bwFault h _ _ _ _ _ _ _ _ _ _) _ _
  · trivial

theorem Stable.grant (c : CrewId) (x : Crew) (n : Nat) (loc given : Bool) : (s.grant c x n loc given).All P := by
  have hc := hP.choosePlaces h x.cluster n loc
  unfold State.grant
  split
  next ps t heq =>
    have ht := hP.setCeils (hP.freeHandle (keeps_of_snd hc heq) x.cluster) ps x.prio
    dsimp only
    split
    next heq' =>
      exact (congrArg (UnitRes.All P) heq').mp (hP.secureSpots (hP.modCrew ht _ _) _)
    next => exact hP.bwOwn h _ _ _
    next => trivial
  next => trivial

theorem Stable.placeRegion (c : CrewId) (pads : List Nat) : OptAll P (s.placeRegion c pads) := by
  unfold State.placeRegion
  split
  next x kn _ _ =>
    have hg := hP.grant h c x kn.firstPads.length false true
    split
    next heq =>
      rw [heq] at hg
      exact hP.bindAll hg _ _ _
    next => trivial
  next => trivial

theorem Stable.noteRoots (c : CrewId) (pad : Nat) : P (s.noteRoots c pad) := by
  unfold State.noteRoots
  split
  · exact foldl_keeps P (fun _ _ h => ite_keeps P h (hP.newAct h _ _ _ _ _ _ _)) _ h
  · exact h

theorem Stable.acceptLoad (c : CrewId) (kn : Kernel) (i pad : Nat) (edge : Dword) : OptAll P (s.acceptLoad c kn i pad edge) := by
  have hb := hP.bindChain h c kn pad
  unfold State.acceptLoad
  cases hu : s.bindChain c kn pad with
  | none => trivial
  | some u =>
    rw [hu] at hb
    exact hP.modCrew (hP.modPlace (hP.noteRoots hb _ _) _ _ _) _ _

theorem Stable.loadAll (c : CrewId) (kn : Kernel) (pads : List Nat) : OptAll P (s.loadAll c kn pads) := by
  induction pads generalizing s with
  | nil => exact h
  | cons pad pads ih =>
    have hb := hP.acceptLoad h c kn pad pad 0
    rw [State.loadAll]
    cases hu : s.acceptLoad c kn pad pad 0 with
    | none => trivial
    | some u =>
      rw [hu] at hb
      exact ih hb

theorem Stable.configRecord (launch cl pad : Nat) (st : RStatus) (n : LoadNote) : P (s.configRecord launch cl pad st n) := by
  unfold State.configRecord
  split
  · exact hP.raise h _ _
  · exact h

theorem Stable.acceptNotes (c : CrewId) (cl : Nat) (kn : Kernel) (args : Memory) (pad : Nat) (sys : Bool) :
    P (s.acceptNotes c cl kn args pad sys) := foldl_keeps P (fun _ _ h => hP.configRecord h _ _ _ _ _) _ h

theorem Stable.loadRegion (c : CrewId) : (s.loadRegion c).All P := by
  unfold State.loadRegion
  split
  next x l kn _ _ _ =>
    have hl := hP.loadAll h c kn kn.firstPads
    dsimp only
    split
    · split
      next heq =>
        rw [heq] at hl
        exact foldl_keeps P (fun _ _ h => hP.acceptNotes h _ _ _ _ _ _) _ hl
      next => trivial
    · exact foldl_keeps P (fun _ _ h => hP.configRecord h _ _ _ _ _) _ h
  next => trivial

theorem Stable.giveRegion (c : CrewId) : (s.giveRegion c).All P := by
  have hp := hP.placeRegion h c (((s.kernel? c).map Kernel.firstPads).getD [])
  unfold State.giveRegion
  split
  next heq =>
    rw [heq] at hp
    exact hP.loadRegion hp c
  next => trivial

/-! ### The hand-over (R363 to R370, R375) -/

theorem Stable.gctxRaise (k : GCtx) (r : RecF) : P (k.raise s r) := hP.raiseStops h _ _ _

theorem Stable.eccFault (k : GCtx) (n va : Nat) : P (k.eccFault s n va) := hP.gctxRaise h _ _

theorem Stable.pointVals (k : GCtx) (n : Nat) (js : List Nat) : P (pointVals k n js s).2 := by
  unfold Machine.pointVals
  refine foldl_keeps_snd P (fun a j ha => foldl_keeps_snd P (fun b e hb => ?_) _ ha) _ h
  exact ite_keeps_snd P (hP.devRead hb _ _ _) hb

theorem Stable.keepVals (k : GCtx) (n : Nat) (js : List Nat) : P (keepVals k n js s) := hP.modGang (hP.pointVals h k n js) _ _

theorem Stable.writeSlots (k : GCtx) (vec : Bool) (n : Nat) (js : List Nat) : P (writeSlots k vec n js s) :=
  foldl_keeps P (fun _ _ h => foldl_keeps P (fun _ _ h => hP.devWrite h _ _ _ _) _ h) _ h

theorem Stable.undoPush (c : Crew) (w : WaveId) (e : List Byte) : P (s.undoPush c w e) := by
  unfold State.undoPush
  split
  · exact hP.physWrite (hP.setWave h _ _) _ _
  · exact h

theorem Stable.undoLoc (k : GCtx) (vec : Bool) (n : Nat) (w : WaveId) (r : Reg) (pair : Bool) (lane : Nat) :
    P (s.undoLoc k vec n w r pair lane) := by
  unfold State.undoLoc
  split
  · exact h
  · exact hP.undoPush h _ _ _

theorem Stable.putS (k : GCtx) (vec : Bool) (n r : Nat) (v : Dword) (w : WaveId) : P (putS k vec n r v w s) :=
  hP.modWave (hP.undoLoc h _ _ _ _ _ _ _) _ _

theorem Stable.locPut (k : GCtx) (vec : Bool) (n : Nat) (e : MapEntry) (v : Dword) (els : List Nat) :
    P (locPut k vec n e v els s) := by
  unfold Machine.locPut
  refine ite_keeps P (ite_keeps P (hP.putS h _ _ _ _ _ _) ?_) ?_
  · exact foldl_keeps P (fun _ _ h => hP.putS h _ _ _ _ _ _) _ h
  · exact foldl_keeps P (fun _ _ h => hP.modWave (hP.undoLoc h _ _ _ _ _ _ _) _ _) _ h

theorem Stable.readSlots (k : GCtx) (vec : Bool) (n : Nat) (js : List Nat) : P (readSlots k vec n js s) :=
  foldl_keeps P (fun _ _ h => foldl_keeps P (fun _ _ h => hP.locPut (hP.devRead h _ _ _) _ _ _ _ _ _) _ h) _ h

theorem Stable.copyDirect (k : GCtx) (toVec : Bool) (n : Nat) (js : List Nat) : P (copyDirect k toVec n js s) :=
  foldl_keeps P (fun _ _ h => hP.locPut h _ _ _ _ _ _) _ h

theorem Stable.moveValues (k : GCtx) (n dst : Nat) (js : List Nat) : P (moveValues k n dst js s) := by
  unfold Machine.moveValues
  exact ite_keeps P (ite_keeps P h (hP.writeSlots h _ _ _ _)) (ite_keeps P (hP.readSlots h _ _ _ _) (ite_keeps P h
    (ite_keeps P (hP.readSlots (hP.writeSlots h _ _ _ _) _ _ _ _) (hP.copyDirect h _ _ _ _))))

theorem Stable.writeHeader (k : GCtx) (n form : Nat) (act held : BitVec 256) (rm : BitVec 24) :
    P (writeHeader k n form act held rm s) := foldl_keeps P (fun _ _ h => hP.devWrite h _ _ _ _) _ h

theorem Stable.startThreaded (k : GCtx) (n : Nat) (m : BitVec 256) (fresh : Bool) : P (startThreaded k n m fresh s) :=
  hP.eachWave h _ _

theorem Stable.putM7 (k : GCtx) (n : Nat) (m : BitVec 256) : P (putM7 k n m s) :=
  foldl_keeps P (fun _ _ h => hP.modWave (foldl_keeps P (fun _ _ h => hP.undoLoc h _ _ _ _ _ _ _) _ h) _ _) _ h

theorem Stable.startVector (k : GCtx) (n : Nat) (m : BitVec 256) (enter : Bool) : P (startVector k n m enter s) :=
  hP.modWave (ite_keeps P (hP.eachWave (hP.putM7 (hP.modGang h _ _) _ _ _) _ _) h) _ _

theorem Stable.startRun (k : GCtx) (n j : Nat) (rest : BitVec 256) : P (startRun k n j rest s) :=
  hP.modWave (hP.putS (hP.modGang (foldl_keeps P (fun _ _ h => hP.locPut (hP.devRead h _ _ _) _ _ _ _ _ _) _ h) _ _) _ _ _ _ _ _) _ _

theorem Stable.startRuns (k : GCtx) (n : Nat) (m : BitVec 256) : P (startRuns k n m s) := by
  unfold Machine.startRuns
  split
  · exact hP.startRun h _ _ _ _
  · exact h

theorem Stable.startTokens (k : GCtx) (n : Nat) (js : List Nat) : P (startTokens k n js s) := by
  unfold Machine.startTokens
  split
  · exact h
  · exact foldl_keeps P (fun _ _ h => hP.sendFlit (hP.newAct (hP.modCrew (hP.newId h _) _ _) _ _ _ _ _ _ _) _ _) _ h

theorem Stable.startForm (k : GCtx) (n dst : Nat) (m : BitVec 256) : P (startForm k n dst m s) := by
  unfold Machine.startForm
  split
  · exact hP.startThreaded h _ _ _ _
  · exact ite_keeps P (hP.startRuns (hP.startVector h _ _ _ _) _ _ _) (hP.startVector h _ _ _ _)
  · exact hP.startTokens (hP.eachWave h _ _) _ _ _

theorem Stable.handGo (k : GCtx) (n dst : Nat) (m : BitVec 256) : P (handGo k n dst m s) := by
  have hmove := hP.moveValues (hP.keepVals (hP.acquire h k.c.cluster (if k.g.form.toNat = dst then 0 else 1)) k n (itersOf m))
    k n dst (itersOf m)
  exact hP.startForm (hP.modGang (ite_keeps P (hP.writeHeader hmove _ _ _ _ _ _) hmove) _ _) _ _ _ _

theorem Stable.handTry (k : GCtx) (n dst : Nat) (m : BitVec 256) : P (handTry k n dst m s) := by
  unfold Machine.handTry
  refine ite_keeps P (hP.gctxRaise h _ _) ?_
  split
  · exact hP.eccFault h _ _ _
  · exact hP.handGo h _ _ _ _

theorem Stable.handMove (k : GCtx) (n dst : Nat) : P (handMove k n dst s) := by
  unfold Machine.handMove
  refine ite_keeps P (hP.modGang h _ _) (ite_keeps P (hP.handTry h _ _ _ _) ?_)
  have hp := hP.performPicked h k.c.cluster (handStores k.id)
  dsimp only
  split
  · exact hP.gctxRaise hp _ _
  · exact hP.handTry hp _ _ _ _

theorem Stable.holdPoint (k : GCtx) (n : Nat) (u : State) : P (holdPoint k n u s) := by
  unfold Machine.holdPoint
  exact ite_keeps P (hP.modWave h _ _) h

theorem Stable.handOver (k : GCtx) (n dst : Nat) : P (handOver k n dst s) := by
  have hg := hP.giveRegion h k.id.crew
  unfold Machine.handOver
  refine ite_keeps P ?_ (hP.handMove h _ _ _)
  split
  next heq =>
    rw [heq] at hg
    exact hP.handMove hg _ _ _
  next heq =>
    rw [heq] at hg
    exact hP.holdPoint hg _ _ _
  next => exact hP.handMove h _ _ _

theorem Stable.decideByCost (k : GCtx) (n : Nat) (cand : List Nat) : P (decideByCost s k n cand).2 :=
  hP.devRead (hP.devRead (hP.devRead (hP.devWrite (hP.devRead h _ _ _) _ _ _ _) _ _ _) _ _ _) _ _ _

theorem Stable.decideForm (k : GCtx) (n : Nat) : P (decideForm s k n).2 := by
  unfold Machine.decideForm
  refine ite_keeps_snd P h ?_
  dsimp only
  split
  · exact hP.modGang h _ _
  · refine ite_keeps_snd P h ?_
    split
    · exact hP.modGang h _ _
    · exact hP.decideByCost h _ _ _

theorem Stable.tryDecide (i : GangId) : P (s.tryDecide i) := by
  unfold State.tryDecide
  split
  · exact h
  next k _ =>
    split
    · exact h
    next n _ =>
      split
      · exact ite_keeps P (hP.handMove h _ _ _) h
      · refine ite_keeps P h (ite_keeps P (hP.gctxRaise h _ _) (ite_keeps P (hP.eccFault h _ _ _) ?_))
        have hd := hP.modGang (hP.decideForm h k n) i (fun g => { g with decision := (Machine.decideForm s k n).1.word k.g.form n })
        dsimp only
        split
        · exact hP.handOver hd _ _ _
        · exact hd

theorem Stable.decideSpatial (a : Nat) : P (s.decideSpatial a) :=
  foldl_keeps P (fun _ _ h => ite_keeps P (hP.tryDecide h _) h) _ h

end

end Sys2Proof.Machine
end

section
/-! PROOFS. RMA, the control space, boot and the ports (R402, R418, R431, R432, R436 to R438, R441). -/

namespace Sys2Proof.Machine

/-! ### RMA (R432, R436) -/

section
variable {s : State} {conn : Conn} {a : Nat} {addr : BitVec 64} (hboot : s.booted = true) (hasid : s.connAsid conn.key = some a)
include hboot hasid

section
variable {data : List Byte} (hlen : data.length ≤ 4096)
include hlen

theorem rmaWrite_register {o : Nat} (haddr : addr.getLsbD 63 = true) (ho : ctlOffset addr data.length = some o) :
    exec (.rmaWrite conn addr data) s = .next (if conn.key = 0 ∨ mayWrite a o = true
      then (s.ctlWrite o (BitVec.ofNat 64 (leNat data))).rmaDone conn true [] else s.rmaDone conn false []) := by
  show execRmaWrite conn addr data s = _
  unfold execRmaWrite
  rw [if_neg (by omega), hboot, hasid, haddr, ho]
  simp only [Bool.not_true, Bool.false_eq_true, if_false, if_true, Bool.or_eq_true, decide_eq_true_eq]
  split <;> rfl

theorem rmaWrite_noRegister (haddr : addr.getLsbD 63 = true) (ho : ctlOffset addr data.length = none) :
    exec (.rmaWrite conn addr data) s = .next (s.rmaDone conn false []) := by
  show execRmaWrite conn addr data s = _
  unfold execRmaWrite
  rw [if_neg (by omega), hboot, hasid, haddr, ho]
  rfl

theorem rmaWrite_memory {t : State} {ls : List (Loc × Nat)} (haddr : addr.getLsbD 63 = false)
    (hfind : s.rmaFind a useStore (pageParts addr.toNat data.length) = (t, ls, true)) :
    exec (.rmaWrite conn addr data) s = .next ((t.rmaPut ls data).rmaDone conn true []) := by
  show execRmaWrite conn addr data s = _
  unfold execRmaWrite
  rw [if_neg (by omega), hboot, hasid, haddr]
  dsimp only
  rw [hfind]
  rfl
end

section
variable {n : Nat} (hlen : n ≤ 4096)
include hlen

theorem rmaRead_register {o : Nat} (haddr : addr.getLsbD 63 = true) (ho : ctlOffset addr n = some o) :
    exec (.rmaRead conn addr n) s = .next (if conn.key = 0 ∨ mayRead a o = true
      then s.rmaDone conn true (leBytes 8 (s.ctlRead o).toNat) else s.rmaDone conn false []) := by
  show execRmaRead conn addr n s = _
  unfold execRmaRead
  rw [if_neg (by omega), hboot, hasid, haddr, ho]
  simp only [Bool.not_true, Bool.false_and, Bool.false_eq_true, if_false, if_true, Bool.or_eq_true, decide_eq_true_eq]
  split <;> rfl

theorem rmaRead_memory {t : State} {ls : List (Loc × Nat)} (haddr : addr.getLsbD 63 = false)
    (hfind : s.rmaFind a useLoad (pageParts addr.toNat n) = (t, ls, true)) :
    exec (.rmaRead conn addr n) s = .next (t.rmaDone conn true (ls.flatMap (fun p => t.homeRead p.1 p.2))) := by
  show execRmaRead conn addr n s = _
  unfold execRmaRead
  rw [if_neg (by omega), hboot, hasid, haddr]
  dsimp only
  rw [hfind]
  rfl
end
end

/-! ### Narrow reads of the control space (R437) -/

/-- Bytes of a doubleword, taken as a number. -/
theorem leNat_bytes_from (d : Dword) (n m : Nat) :
    leNat ((List.range n).map (fun i => d.extractLsb' (8 * (m + i)) 8)) = d.toNat / 2 ^ (8 * m) % 2 ^ (8 * n) := by
  induction n generalizing m with
  | zero => simp [leNat, Nat.mod_one]
  | succ n ih =>
    have hrest : (List.range n).map ((fun i => d.extractLsb' (8 * (m + i)) 8) ∘ Nat.succ)
        = (List.range n).map (fun i => d.extractLsb' (8 * (m + 1 + i)) 8) :=
      List.map_congr_left fun i _ => by
        simp only [Function.comp_apply]
        rw [show m + Nat.succ i = m + 1 + i by omega]
    have hpow : 2 ^ (8 * (n + 1)) = 256 * 2 ^ (8 * n) := by rw [Nat.mul_succ, Nat.pow_add, Nat.mul_comm]
    have hdiv : d.toNat / 2 ^ (8 * (m + 1)) = d.toNat / 2 ^ (8 * m) / 256 := by
      rw [Nat.mul_succ, Nat.pow_add, Nat.div_div_eq_div_mul]
    rw [List.range_succ_eq_map, List.map_cons, List.map_map, hrest, leNat, ih (m + 1), hdiv, hpow, Nat.mod_mul,
      BitVec.extractLsb'_toNat, Nat.shiftRight_eq_div_pow, Nat.add_zero]

/-- R437: a narrow read within one doubleword. -/
theorem State.leNat_ctlBytes (s : State) {o n : Nat} (h : o % 8 + n ≤ 8) :
    leNat (s.ctlBytes o n) = (s.ctlRead (o / 8 * 8)).toNat / 2 ^ (8 * (o % 8)) % 2 ^ (8 * n) := by
  have hbytes : s.ctlBytes o n = (List.range n).map (fun i => (s.ctlRead (o / 8 * 8)).extractLsb' (8 * (o % 8 + i)) 8) :=
    List.map_congr_left fun i hi => by
      have hi' := List.mem_range.mp hi
      rw [show (o + i) / 8 = o / 8 by omega, show (o + i) % 8 = o % 8 + i by omega]
  rw [hbytes, leNat_bytes_from]

/-! ### Registers (R402, R418, R437, R438) -/

theorem State.ctlWrite_none (s : State) {o : Nat} (v : Dword) (h : o % 8 ≠ 0 ∨ o < 0x10000) : s.ctlWrite o v = s := by
  unfold State.ctlWrite
  by_cases halign : o % 8 = 0
  · have ho := h.resolve_left (not_not.mpr halign)
    have hout (lo hi : Nat) (hlo : 0x10000 ≤ lo) : ¬ ((lo ≤ o && o < hi) = true) := by
      rw [Bool.and_eq_true, decide_eq_true_eq]
      omega
    rw [if_neg (by simpa using halign), if_neg (hout _ _ (by omega)), if_neg (hout _ _ (by omega)), if_neg (hout _ _ (by omega)),
      if_neg (hout _ _ (by omega)), if_neg (hout _ _ (by omega))]
  · exact if_pos (by simpa using halign)

/-- The registers of an address space. -/
theorem State.ctlWrite_asid (s : State) {a o : Nat} (v : Dword) (ha : a < 4096) (ho : o < 0x400) (halign : o % 8 = 0) :
    s.ctlWrite (0x100000 + 0x400 * a + o) v = s.asidWrite a o v := by
  unfold State.ctlWrite
  rw [if_neg (by simp only [bne_iff_ne]; omega), if_neg (by simp only [Bool.and_eq_true, decide_eq_true_eq]; omega),
    if_neg (by simp only [Bool.and_eq_true, decide_eq_true_eq]; omega),
    if_pos (by simp only [Bool.and_eq_true, decide_eq_true_eq]; omega),
    show (0x100000 + 0x400 * a + o - 0x100000) / 0x400 = a by omega,
    show (0x100000 + 0x400 * a + o - 0x100000) % 0x400 = o by omega]

theorem State.ctl_ptroot (s : State) {a : Nat} (v : Dword) (ha : a < 4096) :
    (s.ctlWrite (0x100000 + 0x400 * a) v).ctlRead (0x100000 + 0x400 * a) = v := by
  rw [← Nat.add_zero (0x100000 + 0x400 * a), s.ctlWrite_asid v ha (by omega) rfl, State.ctlRead_asid _ ha (by omega)]
  have hroot : ((s.modAsid a (fun x => { x with ptroot := v })).asid a).ptroot = v := by
    rw [State.asid_modAsid, if_pos rfl]
  show BitVec.ofNat 64 ((s.modAsid a (fun x => { x with ptroot := v })).asid a).ptroot.toNat = v
  rw [hroot, BitVec.ofNat_toNat, BitVec.setWidth_eq]

theorem State.asidWrite_dbgctl (s : State) (a : Nat) (v : Dword) : s.asidWrite a 0x28 v = s.dbgWrite a v := by
  unfold State.asidWrite
  exact if_neg (by decide)

/-- R418: what a write of 0 to DBGCTL leaves there. -/
theorem State.dbgWrite_zero (s : State) (a : Nat) :
    ({ s.asid a with halt := false, allstop := false, debug := false } : Asid).SameDebug ((s.dbgWrite a 0).asid a) := by
  have hset : ((s.modAsid a (fun x => { x with allstop := false, debug := false })).unhalted a).asid a
      = { s.asid a with halt := false, allstop := false, debug := false } := by
    rw [State.unhalted_asid, if_pos rfl, State.asid_modAsid, if_pos rfl]
  have hdebug := (stable_debug a { s.asid a with halt := false, allstop := false, debug := false }).decideSpatial
    (s := (s.modAsid a (fun x => { x with allstop := false, debug := false })).unhalted a)
    (by rw [hset]; exact ⟨rfl, rfl, rfl⟩) a
  exact hdebug

/-- R418: DBGCTL written to 0 reads 0: the decisions that the job's spatial gangs have due leave it so. -/
theorem State.ctl_dbgctl (s : State) {a : Nat} (ha : a < 4096) :
    (s.ctlWrite (0x100028 + 0x400 * a) 0).ctlRead (0x100028 + 0x400 * a) = 0 := by
  rw [show 0x100028 + 0x400 * a = 0x100000 + 0x400 * a + 0x28 by omega, s.ctlWrite_asid 0 ha (by omega) rfl,
    State.ctlRead_asid _ ha (by omega)]
  have hy := s.dbgWrite_zero a
  rw [State.asidWrite_dbgctl]
  obtain ⟨hhalt, hall, hdebug⟩ := hy
  show BitVec.ofNat 64 ((if ((s.dbgWrite a 0).asid a).halt then 4 else 0)
    + (if ((s.dbgWrite a 0).asid a).allstop then 2 else 0) + (if ((s.dbgWrite a 0).asid a).debug then 1 else 0)) = 0
  rw [hhalt, hall, hdebug]
  rfl

/-! ### Boot (R441) -/

theorem powerOnBoot_verified {s : State} (h : s.bootStat = 0) (hv : s.canVerify = true) :
    exec (.powerOnBoot none) s = .next { s with bootStat := 1 } := by
  show execPowerOnBoot none s = _
  rw [execPowerOnBoot, h, hv]
  rfl

theorem powerOnBoot_failing {s : State} (h : s.bootStat = 0) (i : BitVec 8) :
    exec (.powerOnBoot (some i)) s = .next { s with bootStat := i ++ (2 : BitVec 8) } := by
  show execPowerOnBoot (some i) s = _
  rw [execPowerOnBoot, h]
  rfl

/-- Settles O49: each clause is a lemma above, about one access or register. -/
theorem rmaAndRegisters : Obligations.RmaAndRegisters := by
  unfold Obligations.RmaAndRegisters
  refine ⟨fun s conn a addr data hlen hboot hasid => ⟨fun o => rmaWrite_register hboot hasid hlen,
      rmaWrite_noRegister hboot hasid hlen, fun t ls => rmaWrite_memory hboot hasid hlen⟩,
    fun s conn a addr n hlen hboot hasid => ⟨fun o => rmaRead_register hboot hasid hlen,
      fun t ls => rmaRead_memory hboot hasid hlen⟩,
    fun s o n v hboot => ⟨State.byFirmware_booted hboot _, fun h => ?_⟩,
    fun s o v => ⟨fun hboot => State.byFirmware_booted hboot _, s.ctlWrite_none v, fun h => ?_, fun h => ?_,
      fun a ha => ⟨s.ctl_ptroot v ha, s.ctl_dbgctl ha⟩⟩,
    fun s h => ⟨powerOnBoot_verified h, powerOnBoot_failing h⟩, fun s p hp => if_neg (by omega)⟩
  · refine (State.byFirmware_booted hboot _).trans ?_
    rw [State.toFirmware, s.leNat_ctlBytes h]
  · show s.modWrite 0x08 v = s
    exact if_pos h
  · show s.modWrite 0x10 v = s
    have hrange : (fld v 11 0 < 1200 || 2200 < fld v 11 0) = true := by simpa only [Bool.or_eq_true, decide_eq_true_eq] using h
    exact if_pos hrange

end Sys2Proof.Machine
end

section
/-! PROOFS. What the shared operations of words keep: issue, queues, translation, the home channel, and fetch. -/

namespace Sys2Proof.Machine

/-! ### Predicates that the debugger's writes keep too -/

/-- The memories are the same, and no list of objects names more. -/
structure NamesNoMore (s t : State) : Prop where
  mem : t.mem = s.mem
  remote : t.remote = s.remote
  waves : (t.waves.map Prod.fst).Sublist (s.waves.map Prod.fst)
  gangs : (t.gangs.map Prod.fst).Sublist (s.gangs.map Prod.fst)
  crews : (t.crews.map Prod.fst).Sublist (s.crews.map Prod.fst)
  launches : (t.launches.map Prod.fst).Sublist (s.launches.map Prod.fst)

/-- A predicate that speaks of no address space and of the lists only by their names. -/
structure Closed (P : State → Prop) : Prop extends Stable P where
  names : ∀ {s t}, P s → NamesNoMore s t → P t

theorem State.Inv.closed : Closed State.Inv where
  toStable := State.Inv.stable
  names h e := by
    obtain ⟨hmem, hremote, hw, hg, hc, hl⟩ := h
    refine ⟨?_, ?_, hw.sublist e.waves, hg.sublist e.gangs, hc.sublist e.crews, hl.sublist e.launches⟩
    · rwa [e.mem]
    · rwa [e.remote]

theorem Tab.map_names {κ α : Type} (t : List (κ × α)) (f : κ → α → α) : ((Tab.map t f).map Prod.fst).Sublist (t.map Prod.fst) := by
  rw [Tab.map, List.map_map]
  exact List.Sublist.refl _

def Res.All (P : State → Prop) : Res → Prop
  | .done t => P t
  | .moved t => P t
  | .held t => P t
  | .wait _ t => P t

def Fetched.All (P : State → Prop) : Fetched → Prop
  | .over o => OutAll P o
  | .run _ t => P t

section
variable {P : State → Prop}

theorem Res.All.ite {c : Prop} [Decidable c] {r q : Res} (hr : r.All P) (hq : q.All P) : (if c then r else q).All P := by
  split
  · exact hr
  · exact hq

theorem Res.All.andThen {r : Res} {f : State → State} (hr : r.All P) (hf : ∀ s, P s → P (f s)) : (r.andThen f).All P := by
  cases r with
  | done s => exact hf s hr
  | moved s => exact hf s hr
  | held s => exact hf s hr
  | wait r s => exact hr

theorem Fetched.All.ite {c : Prop} [Decidable c] {r q : Fetched} (hr : r.All P) (hq : q.All P) : (if c then r else q).All P := by
  split
  · exact hr
  · exact hq

theorem OutAll.byFirmware {o : Out} (h : OutAll P o) (s : State) : OutAll P (s.byFirmware o) := OutAll.ite P h trivial

variable (hP : Closed P) {s : State} (h : P s)
include hP h

theorem Closed.asid (a : Nat) (x : Asid) : P (s.setAsid a x) := hP.names h ⟨rfl, rfl, .refl _, .refl _, .refl _, .refl _⟩

theorem Closed.modAsid (a : Nat) (f : Asid → Asid) : P (s.modAsid a f) := hP.asid h a _

theorem Closed.mapWaves (f : WaveId → Wave → Wave) : P { s with waves := Tab.map s.waves f } :=
  hP.names h ⟨rfl, rfl, Tab.map_names _ _, .refl _, .refl _, .refl _⟩

theorem Closed.mapGangs (f : GangId → Gang → Gang) : P { s with gangs := Tab.map s.gangs f } :=
  hP.names h ⟨rfl, rfl, .refl _, Tab.map_names _ _, .refl _, .refl _⟩

theorem Closed.mapCrews (f : CrewId → Crew → Crew) : P { s with crews := Tab.map s.crews f } :=
  hP.names h ⟨rfl, rfl, .refl _, .refl _, Tab.map_names _ _, .refl _⟩

theorem Closed.setFocus (f : Focus) : P { s with focus := f } := hP.same h ⟨rfl, rfl, rfl, rfl, rfl, rfl, rfl⟩

/-! ### Waves, records and queues -/

theorem Closed.each (k : Ctx) (f : WaveId → Wave → Wave) : P (k.each s f) := foldl_keeps P (fun _ _ h => hP.modWave h _ _) _ h

theorem Closed.flush (a n : Nat) : P (s.flush a n) := by
  induction n generalizing s with
  | zero => exact h
  | succ n ih =>
    unfold State.flush
    dsimp only
    split
    · split
      · exact ih (hP.putRecord (hP.asid h _ _) _ _)
      · exact h
    · exact h

theorem Closed.countIssue (i : Instr) (k : Ctx) (before : State) : P (countIssue i k before s) := hP.modGang h _ _

theorem Closed.settle (k : Ctx) : P (settle k s) := hP.modWave h _ _

theorem Closed.bumpPc (k : Ctx) : P (bumpPc k s) := hP.modWave h _ _

theorem Closed.stallAt (k : Ctx) (r : Stall) : P (stallAt k r s) := hP.modWave h _ _

theorem Closed.stallOn (k : Ctx) (q n : Nat) : P (stallOn k q n s) := hP.modWave h _ _

theorem Closed.faultAt (k : Ctx) (r : RecF) : P (faultAt k r s) := by
  unfold Machine.faultAt
  split
  · exact hP.modWave (hP.raise h _ _) _ _
  · exact hP.raiseStops h _ _ _

theorem Closed.illegal (k : Ctx) : P (illegal k s) := hP.faultAt h _ _

theorem Closed.syncFault (k : Ctx) (cause aux : Nat) : (syncFault k cause aux s).All P := hP.faultAt h _ _

theorem Closed.releaseWaves (a : Nat) (q : BitVec 32) : P (s.releaseWaves a q) := hP.mapWaves h _

theorem Closed.setQueue (c q : Nat) (x : Queue) : P (s.setQueue c q x) := hP.modCluster h _ _

theorem Closed.party (c : Nat) (p : Party) : P (s.party c p) := hP.modCluster h _ _

theorem Closed.qpush (cl : Nat) (w : WaveId) (q : Nat) (e : QEntry) : P (s.qpush cl w q e) := hP.party (hP.setQueue h _ _ _) _ _

theorem Closed.released (cl : Nat) : P (s.released cl) := hP.modCluster h _ _

theorem Closed.qpopInto (k : Ctx) (q reg mreg : Nat) (v : WaveId) (act : Word) : P (s.qpopInto k q reg mreg v act) := by
  unfold State.qpopInto
  dsimp only
  split
  · exact h
  · exact hP.modWave (hP.dropL1 (hP.party (hP.setQueue h _ _ _) _ _) _) _ _

theorem Closed.popMapped (i : Instr) (k : Ctx) (ms : List QMap) : P (popMapped i k ms s).1 := by
  induction ms generalizing s with
  | nil => exact h
  | cons m ms ih =>
    unfold Machine.popMapped
    exact ite_keeps_fst P h (ih (hP.qpopInto h _ _ _ _ _ _))

theorem Closed.unpop (k : Ctx) (u : State) (ms : List QMap) : P (unpop k u ms s) :=
  hP.modWave (foldl_keeps P (fun _ _ h => hP.setQueue h _ _ _) _ h) _ _

theorem Closed.pushRegs (cl : Nat) (w : WaveId) (a : Word) (ms : List QMap) : P (s.pushRegs cl w a ms) := by
  unfold State.pushRegs
  refine foldl_keeps P (fun t m ht => ?_) _ (ite_keeps P h (hP.released h _))
  split
  · exact hP.qpush ht _ _ _ _
  · exact ht

theorem Closed.pushMapped (i : Instr) (k : Ctx) (ms : List QMap) : P (pushMapped i k s ms) := by
  unfold Machine.pushMapped
  dsimp only
  split
  · exact ite_keeps P (hP.pushRegs h _ _ _ _) h
  · exact hP.pushRegs h _ _ _ _

theorem Closed.detect (cl a : Nat) : P (s.detect cl a) := by
  unfold State.detect
  refine ite_keeps P h (foldl_keeps P (fun t w ht => ?_) _ h)
  split
  · exact hP.raiseStops ht _ _ _
  · exact ht

theorem Closed.waitWith (k : Ctx) (r : Stall) : P (waitWith k r s) :=
  ite_keeps P (hP.detect (hP.stallAt h _ _) _ _) (hP.stallAt h _ _)

/-! ### Issue -/

theorem Closed.undoRegs (i : Instr) (k : Ctx) (before : State) : P (undoRegs i k before s) := by
  unfold Machine.undoRegs
  refine ite_keeps P ?_ h
  refine foldl_keeps P (fun t u ht => ite_keeps P (hP.undoPush ht _ _ _) ht) _ (foldl_keeps P (fun t q ht => ?_) _ h)
  have hregs : ∀ ws : List (Reg × Bool), ∀ act vf pc, P (ws.foldl (fun s u =>
        let n := u.1.2
        match u.1.1 with
        | .v => ((List.range 32).filter (fun l => BitVec.getLsbD (w := 32) act l)).foldl
            (fun s l => s.undoPush k.c q.1 (if u.2 then undoEntry 2 n l 0 vf pc 0 (q.2.rdD n l).toNat
              else undoEntry 1 n l 0 vf pc 0 (q.2.rdV n l).toNat)) s
        | .m => ((List.range 32).filter (fun l => act.getLsbD l)).foldl
            (fun s l => s.undoPush k.c q.1 (undoEntry 4 n l 0 vf pc 0 ((q.2.rdM n).getLsbD l).toNat)) s
        | .s => s) t) := by
    intro ws act vf pc
    refine foldl_keeps P (fun v u hv => ?_) _ ht
    dsimp only
    split
    · exact foldl_keeps P (fun _ _ h => hP.undoPush h _ _ _) _ hv
    · exact foldl_keeps P (fun _ _ h => hP.undoPush h _ _ _) _ hv
    · exact hv
  exact ite_keeps P (hP.undoPush (hregs _ _ _ _) _ _ _) (hregs _ _ _ _)

theorem Closed.logPops (i : Instr) (k : Ctx) (ms : List QMap) : P (logPops i k ms s) := by
  unfold Machine.logPops
  exact ite_keeps P (foldl_keeps P (fun _ _ h => foldl_keeps P (fun _ _ h => hP.undoPush h _ _ _) _ h) _ h) h

omit h in
theorem Closed.finish (i : Instr) (k : Ctx) (before : State) {r : Res} (hr : r.All P) : P (finish i k before r) := by
  cases r with
  | done s => exact hP.settle (hP.bumpPc (hP.countIssue (hP.undoRegs hr _ _ _) _ _ _) _) _
  | moved s => exact hP.settle (hP.countIssue (hP.undoRegs hr _ _ _) _ _ _) _
  | wait r s => exact hP.waitWith hr _ _
  | held s => exact hr

theorem Closed.noteFmtw (t : State) (c : CrewId) : P (s.noteFmtw t c) := by
  unfold State.noteFmtw
  split
  · exact hP.modCrew h _ _
  · exact h

theorem Closed.waitFor (k : Ctx) (x : Waiting) {r : Res} (hr : r.All P) : P (waitFor k x r s) := by
  have hwait {u : State} (hu : P u) : P (Machine.waitWith k x.1 ((x.2.map (fun q => Machine.stallOn k q.1 q.2 u)).getD u)) := by
    cases x.2 with
    | none => exact hP.waitWith hu _ _
    | some q => exact hP.waitWith (hP.stallOn hu _ _ _) _ _
  unfold Machine.waitFor
  split
  · exact ite_keeps P (hwait (hP.noteFmtw h _ _)) (ite_keeps P (hP.waitWith hr _ _) (hP.waitWith (hP.noteFmtw h _ _) _ _))
  · exact hwait h

theorem Closed.heldMaps (i : Instr) (k : Ctx) (u : State) (ms : List QMap) : P (heldMaps i k u ms s) := by
  unfold Machine.heldMaps
  split
  · exact ite_keeps P (hP.modWave (hP.logPops h _ _ _) _ _) (hP.unpop h _ _ _)
  · exact h

theorem Closed.withMaps (i : Instr) (k : Ctx) {body : Ctx → State → Res} (hbody : ∀ k s, P s → (body k s).All P) :
    P (withMaps i k s body) := by
  have hp := hP.popMapped h i k (k.maps i).1
  have hb := hbody { k with wv := ((Machine.popMapped i k (k.maps i).1 s).1.wave? k.w).getD k.wv } _ hp
  unfold Machine.withMaps
  dsimp only
  split
  next heq =>
    rw [heq] at hb
    exact hP.finish _ _ _ (hP.pushMapped (hP.logPops hb _ _ _) _ _ _)
  next heq =>
    rw [heq] at hb
    exact hP.finish _ _ _ (hP.pushMapped (hP.logPops hb _ _ _) _ _ _)
  next heq =>
    rw [heq] at hb
    exact hP.finish _ _ _ (hP.unpop hb _ _ _)
  next heq =>
    rw [heq] at hb
    exact hP.finish _ _ _ (hP.heldMaps hb _ _ _ _)

theorem Closed.issueAt (i : Instr) (k : Ctx) {body : Ctx → State → Res} (hbody : ∀ k s, P s → (body k s).All P) :
    P (issueAt i k s body) := by
  unfold Machine.issueAt
  refine ite_keeps P (hP.illegal h _) ?_
  split
  · exact hP.waitFor h _ _ (hbody _ _ h)
  · split
    · exact hP.finish _ _ _ (hP.syncFault h _ _ _)
    · exact hP.withMaps h _ _ hbody

/-- What every core word keeps, its body does. -/
theorem Closed.issueCore (i : Instr) {body : Ctx → State → Res} (hbody : ∀ k s, P s → (body k s).All P) :
    OutAll P (issueCore i s body) := by
  unfold Machine.issueCore
  split
  · split
    · exact hP.issueAt (hP.setFocus h _) _ _ hbody
    · trivial
  · trivial

/-! ### Translation in a cluster, L1 and the home channel (R200, R207 to R217) -/

theorem Closed.lookup (cl a va : Nat) : P (s.lookup cl a va).1 := by
  unfold State.lookup
  split
  · exact ite_keeps_fst P (hP.stillHeld h) (hP.tileLookup (hP.modCluster (hP.stillHeld h) _ _) _ _)
  · exact hP.tileLookup h _ _

theorem Closed.hold (cl va : Nat) (t : Tlb) : P (s.hold cl va t) := hP.holdTile (hP.modCluster h _ _) _ _

theorem Closed.xlat (cl a va : Nat) (u : Use) : P (s.xlat cl a va u).1 := by
  have hl := hP.lookup h cl a va
  unfold State.xlat
  split
  next heq => exact keeps_of_fst hl heq
  next heq =>
    have hs := keeps_of_fst hl heq
    split
    · exact hs
    · exact hP.hold (hP.touch hs _ _) _ _ _

theorem Closed.performRange (cl : Nat) (l : Loc) (n : Nat) : P (s.performRange cl l n) := hP.performPicked h _ _

theorem Closed.crewSees (cl : Nat) (l : Loc) (n : Nat) : P (s.crewSees cl l n) := hP.performPicked h _ _

theorem Closed.roomFor {α : Type} (n k : Nat) (m : SMap α) : P (roomFor n k m s).2 := ite_keeps_snd P h (hP.fresh h)

theorem Closed.setLine (cl k : Nat) (v : Option (BitVec 1024)) : P (s.setLine cl k v) := hP.modCluster h _ _

theorem Closed.putLine (cl k : Nat) (v : BitVec 1024) : P (s.putLine cl k v) := by
  unfold State.putLine
  exact hP.modCluster (hP.roomFor h _ _ _) _ _

theorem Closed.l1Store (cl : Nat) (l : Loc) (bs : List Byte) : P (s.l1Store cl l bs) := by
  unfold State.l1Store
  refine ite_keeps P h ?_
  split
  · exact hP.setLine h _ _ _
  · exact h

theorem Closed.putStore (cl : Nat) (w : WaveId) (va : Nat) (l : Loc) (t : Tlb) (bs : List Byte) :
    P (s.putStore cl w va l t bs) := by
  unfold State.putStore
  exact hP.modCluster (hP.l1Store h _ _ _) _ _

theorem Closed.rmw (cl : Nat) (l : Loc) (n : Nat) (f : Nat → Option Nat) : P (s.rmw cl l n f).1 := by
  unfold State.rmw
  dsimp only
  have hline := ite_keeps P (c := l.rmt = true) (hP.performRange h cl l n) (hP.setLine (hP.performRange h cl l n) cl (l.pa / 128) none)
  split
  · exact hP.homeWrite hline _ _
  · exact hline

theorem Closed.pastL1 (cl : Nat) : P (s.pastL1 cl) := hP.modCluster h _ _

theorem Closed.countRemote (cl : Nat) (l : Loc) : P (s.countRemote cl l) := hP.countWindows h _ _

theorem Closed.setIline (cl a line : Nat) (v : Option (BitVec 1024)) : P (s.setIline cl a line v) := by
  unfold State.setIline
  dsimp only
  split
  · exact hP.modCluster (hP.roomFor h _ _ _) _ _
  · exact hP.modCluster h _ _

theorem Closed.fetchLine (cl a line : Nat) : P (s.fetchLine cl a line).1 := by
  have hx := hP.xlat h cl a (128 * line) useFetch
  unfold State.fetchLine
  split
  next heq => exact keeps_of_fst hx heq
  next heq =>
    have hs := keeps_of_fst hx heq
    refine ite_keeps_fst P hs (ite_keeps_fst P hs ?_)
    dsimp only
    exact hP.setIline (hP.countRemote hs _ _) _ _ _ _

/-! ### Fetch, breakpoints and illegal words (R422, R423) -/

theorem Closed.withheld : P (withheld s).2 := ite_keeps_snd P (hP.fresh h) h

theorem Closed.breakGang (a : Nat) (g : GangId) (q : BitVec 32) : P (s.breakGang a g q) := by
  unfold State.breakGang
  refine ite_keeps P ?_ (hP.modGang h _ _)
  exact hP.mapGangs (hP.modAsid (hP.modGang h _ _) _ _) _

theorem Closed.fireBreak (a : Nat) (g : GangId) (r : RecF) (hits : List (Nat × Nat)) : P (fireBreak a g r hits s) :=
  hP.breakGang (hP.raise h _ _) _ _ _

theorem Closed.fetchFor (k : Ctx) : (fetchFor k s).All P := by
  have hw := hP.withheld h
  unfold Machine.fetchFor
  refine Fetched.All.ite trivial ?_
  split
  · exact hP.stallAt h _ _
  · refine Fetched.All.ite (hP.stallAt hw _ _) (Fetched.All.ite (hP.illegal hw _) ?_)
    split
    · exact hP.stallAt hw _ _
    · dsimp only
      refine Fetched.All.ite ?_ (Fetched.All.ite (hP.stallAt hw _ _) (hP.fireBreak (hP.modWave hw _ _) _ _ _ _))
      split
      · exact hP.setFocus hw _
      · exact hP.illegal hw _

theorem Closed.fetchWave (w : WaveId) : (fetchWave s w).All P := by
  unfold Machine.fetchWave
  split
  · exact hP.fetchFor h _
  · trivial

omit hP in
theorem Closed.fetchNode (f : Firing) : (fetchNode s f).All P := by
  unfold Machine.fetchNode
  split
  · split
    · exact h
    · trivial
  · trivial

end

end Sys2Proof.Machine
end

section
/-! PROOFS. What the words of integers, formats, memory, copies, barriers and queues keep, and the steps of memory. -/

namespace Sys2Proof.Machine

section
variable {P : State → Prop} (hP : Closed P) {s : State} (h : P s)
include hP h

/-! ### Lanes and formats -/

theorem Closed.onLanes (f : KF) (k : Ctx) (g : Wave → Nat → Wave → Wave) : P (onLanes f k s g) := hP.each h _ _

theorem Closed.onWave (k : Ctx) (g : Wave → Wave) : P (onWave k s g) := hP.modWave h _ _

theorem Closed.intOp (f : KF) (F : Nat → Nat → Nat → Nat → Nat) (k : Ctx) : P (intOp f F k s) :=
  ite_keeps P (hP.onWave h _ _) (hP.onLanes h _ _ _)

theorem Closed.onLanesFl (f : KF) (k : Ctx) (g : Wave → Nat → (Wave → Wave) × Fl) : P (onLanesFl f k s g) := hP.each h _ _

theorem Closed.fltOp (f : KF) (d a : BitVec 2) (G : Mode → Nat → Nat → Nat → Nat × Fl) (k : Ctx) : P (fltOp f d a G k s) :=
  ite_keeps P (hP.onWave h _ _) (hP.onLanesFl h _ _ _)

theorem Closed.cmpOp (f : KF) (a b : Wave → Nat → Nat) (G : Nat → Nat → Bool × Fl) (k : Ctx) : P (cmpOp f a b G k s) :=
  ite_keeps P (hP.onWave h _ _) (hP.onLanesFl h _ _ _)

theorem Closed.fmtFault (k : Ctx) (x : FmtErr) (e : Nat) : P (fmtFault k x e s) := hP.faultAt h _ _

theorem Closed.convOp (c : Conv) (f : KF) (k : Ctx) : (convOp c f k s).All P := by
  unfold Machine.convOp
  split
  · exact hP.fmtFault h _ _ _
  · split
    · exact hP.fmtFault h _ _ _
    · exact hP.onLanesFl h _ _ _

theorem Closed.fmtWait (k : Ctx) (n : Option Nat) : P (s.fmtWait k n) := hP.modCrew h _ _

theorem Closed.fmtwOp (f : KF) (k : Ctx) : (fmtwOp f k s).All P := by
  unfold Machine.fmtwOp
  exact Res.All.ite (hP.fmtWait h _ _) (Res.All.ite (hP.fmtFault (hP.fmtWait h _ _) _ _ _) (hP.modCrew (hP.fmtWait h _ _) _ _))

theorem Closed.fmtrOp (f : KF) (k : Ctx) : P (fmtrOp f k s) := hP.onWave h _ _

theorem Closed.fmtqOp (f : KF) (k : Ctx) : (fmtqOp f k s).All P := by
  unfold Machine.fmtqOp
  split
  · exact hP.fmtFault h _ _ _
  · exact hP.onWave h _ _

theorem Closed.bsclOp (f : KF) (k : Ctx) : (bsclOp f k s).All P := by
  unfold Machine.bsclOp
  split
  · exact hP.fmtFault h _ _ _
  · exact hP.each h _ _

theorem Closed.ndotOp (f : KF) (k : Ctx) : (ndotOp f k s).All P := by
  unfold Machine.ndotOp
  dsimp only
  split
  · exact hP.fmtFault h _ _ _
  · exact hP.onLanesFl h _ _ _

/-! ### Finding and accessing a place (R197 to R217) -/

theorem Closed.l1Hit (cl : Nat) (u : L1Use) (t : Tlb) (l : Loc) : P (s.l1Hit cl u t l).2 :=
  ite_keeps_snd P h (ite_keeps_snd P (hP.stillHeld h) (hP.setLine (hP.stillHeld h) _ _ _))

theorem Closed.find (cl a va n : Nat) (u : Use) (c : L1Use) : P (s.find cl a va n u c).1 := by
  have hx := hP.xlat h cl a va u
  unfold State.find
  split
  next heq => exact keeps_of_fst hx heq
  next heq =>
    have hs := hP.l1Hit (keeps_of_fst hx heq)
    exact ite_keeps_fst P (hs _ _ _ _) (ite_keeps_fst P (hs _ _ _ _) (ite_keeps_fst P (hs _ _ _ _) (hs _ _ _ _)))

theorem Closed.resolveLane (f : MF) (k : Ctx) (u : Use) (c : L1Use) (a : LaneAcc) : P (resolveLane f k u c s a).1 :=
  ite_keeps_fst P h (ite_keeps_fst P h (hP.find h _ _ _ _ _ _))

theorem Closed.resolveAll (f : MF) (k : Ctx) (u : Use) (c : L1Use) (ls : List LaneAcc) : P (resolveAll f k u c ls s).1 := by
  induction ls generalizing s with
  | nil => exact h
  | cons a ls ih => exact ih (hP.resolveLane h _ _ _ _ _)

theorem Closed.fill (cl : Nat) (t : Tlb) (l : Loc) : P (s.fill cl t l) := by
  unfold State.fill
  exact ite_keeps P (hP.putLine h _ _ _) h

theorem Closed.readAt (k : Ctx) (n : Nat) (c : L1Use) (p : At) : P (s.readAt k n c p).1 := by
  unfold State.readAt
  split
  · exact h
  · exact h
  · refine ite_keeps_fst P h ?_
    have hc := hP.countRemote h k.cluster
    exact ite_keeps P (ite_keeps P (hc _) (hP.setLine (hc _) _ _ _)) (ite_keeps P (hP.fill (hc _) _ _ _) (hc _))

theorem Closed.undoMem (k : Ctx) (a : LaneAcc) (size old : Nat) : P (s.undoMem k a size old) := by
  unfold State.undoMem
  exact ite_keeps P (hP.undoPush h _ _ _) h

theorem Closed.setCrw (k : Ctx) (o n v : Nat) : P (s.setCrw k o n v) := hP.modCrew h _ _

theorem Closed.writeAt (k : Ctx) (a : LaneAcc) (size v : Nat) (p : At) : P (s.writeAt k a size v p) := by
  unfold State.writeAt
  dsimp only
  split
  · exact hP.setCrw (hP.undoMem h _ _ _ _) _ _ _ _
  · exact h
  · exact ite_keeps P (hP.homeWrite (hP.l1Store (hP.undoMem (hP.performRange (hP.countRemote h _ _) _ _ _) _ _ _ _) _ _ _) _ _)
      (hP.putStore (hP.countRemote h _ _) _ _ _ _ _ _)

theorem Closed.rmwAt (k : Ctx) (a : LaneAcc) (size : Nat) (g : Nat → Option Nat) (p : At) : P (s.rmwAt k a size g p).1 := by
  unfold State.rmwAt
  dsimp only
  split
  · split
    · exact hP.setCrw (hP.undoMem h _ _ _ _) _ _ _ _
    · exact h
  · exact h
  · have hr := fun l => hP.rmw (hP.countRemote h k.cluster l) k.cluster l (2 ^ size) g
    split
    · exact hP.undoMem (hP.touch (hr _) _ _) _ _ _ _
    · exact hr _

theorem Closed.addMemtx (g : GangId) (n : Nat) : P (s.addMemtx g n) := hP.modGang h _ _

/-! ### The words of memory -/

theorem Closed.memFault (i : Instr) (f : MF) (k : Ctx) (before : State) (bad : List (LaneAcc × Nat)) :
    (memFault i f k before s bad).All P := by
  unfold Machine.memFault
  split
  · exact h
  · exact hP.faultAt (hP.countIssue (hP.undoRegs (hP.each h _ _) _ _ _) _ _ _) _ _

theorem Closed.memOp (i : Instr) (f : MF) (how : MemHow) (ea : Wave → Nat → Nat → Nat) {body : State → LaneAcc → At → State}
    (hbody : ∀ s a p, P s → P (body s a p)) (k : Ctx) : (memOp i f how ea body k s).All P := by
  unfold Machine.memOp
  dsimp only
  split
  · exact hP.faultAt h _ _
  · have hr := hP.resolveAll h f k how.use how.l1 (liveLanes f k s ea)
    generalize Machine.resolveAll f k how.use how.l1 (liveLanes f k s ea) s = r at hr
    refine Res.All.ite (hP.modWave hr _ _) ?_
    have hs (o : List (LaneAcc × At) × State) (ho : P o.2) : P (o.1.foldl (fun s p => body s p.1 p.2) o.2) :=
      foldl_keeps P (fun s p hs => hbody s p.1 p.2 hs) _ ho
    have ho := fun ok c (_ : Decidable c) => hs _ (ite_keeps_snd P (c := c) (hP.shuffle hr (List.length ok) ok) (t := (ok, r.1)) hr)
    exact Res.All.ite (hP.each (hP.addMemtx (ho _ _ _) _ _) _ _) (hP.memFault (hP.addMemtx (ho _ _ _) _ _) _ _ _ _ _)

theorem Closed.loadLane (f : MF) (c : L1Use) (k : Ctx) (a : LaneAcc) (p : At) : P (loadLane f c k s a p) :=
  hP.modWave (hP.readAt h _ _ _ _) _ _

theorem Closed.storeLane (f : MF) (k : Ctx) (a : LaneAcc) (p : At) : P (storeLane f k s a p) := by
  unfold Machine.storeLane
  split
  · exact hP.writeAt h _ _ _ _ _
  · exact h

theorem Closed.ldOp (i : Instr) (f : MF) (c : L1Use) (k : Ctx) : (ldOp i f c k s).All P :=
  hP.memOp h _ _ _ _ (fun _ _ _ h => hP.loadLane h _ _ _ _ _) _

theorem Closed.stOp (i : Instr) (f : MF) (k : Ctx) : (stOp i f k s).All P :=
  hP.memOp h _ _ _ _ (fun _ _ _ h => hP.storeLane h _ _ _ _) _

theorem Closed.uniLoad (f : MF) (c : L1Use) (k : Ctx) : (uniLoad f c k s).All P := by
  unfold Machine.uniLoad
  dsimp only
  split
  · exact hP.faultAt (hP.modWave h _ _) _ _
  · have hr := hP.resolveLane h f k useLoad c
    split
    next heq =>
      have hs := keeps_of_fst (hr _) heq
      exact Res.All.ite (hP.modWave hs _ _) (hP.faultAt (hP.modWave hs _ _) _ _)
    next heq => exact hP.modWave (hP.addMemtx (hP.readAt (keeps_of_fst (hr _) heq) _ _ _ _) _ _) _ _

theorem Closed.ldaOp (f : MF) (k : Ctx) : (ldaOp f k s).All P :=
  Res.All.ite (hP.uniLoad (hP.acquire h _ _) _ _ _) (hP.ldOp (hP.acquire h _ _) _ _ _ _)

theorem Closed.stlOp (f : MF) (k : Ctx) : (stlOp f k s).All P := by
  unfold Machine.stlOp
  exact Res.All.ite h ((hP.stOp h _ _ _).andThen fun _ h => hP.released (hP.modCluster h _ _) _)

theorem Closed.addHold (k : Ctx) (scope : Nat) : P (s.addHold k scope) := hP.modWave h _ _

theorem Closed.fenceOp (f : MF) (k : Ctx) : (fenceOp f k s).All P := by
  unfold Machine.fenceOp
  have hhold := fun scope => hP.addHold (hP.released h k.cluster) k scope
  exact Res.All.ite (hP.acquire h _ _) (Res.All.ite (Res.All.ite h (hP.acquire (hP.released h _) _ _))
    (ite_keeps P (hhold _) (hP.acquire (hhold _) _ _)))

theorem Closed.atomLane (f : MF) (k : Ctx) (a : LaneAcc) (p : At) : P (atomLane f k s a p) := by
  unfold Machine.atomLane
  split
  · exact hP.modWave (hP.rmwAt h _ _ _ _ _) _ _
  · exact h

theorem Closed.casLane (f : MF) (k : Ctx) (a : LaneAcc) (p : At) : P (casLane f k s a p) := by
  unfold Machine.casLane
  split
  · exact hP.modWave (hP.rmwAt h _ _ _ _ _) _ _
  · exact h

theorem Closed.ldfLane (f : MF) (k : Ctx) (a : LaneAcc) (p : At) : P (ldfLane f k s a p) := hP.modWave (hP.readAt h _ _ _ _) _ _

theorem Closed.ldfOp (f : MF) (k : Ctx) : (ldfOp f k s).All P := by
  unfold Machine.ldfOp
  split
  · exact hP.fmtFault h _ _ _
  · exact hP.memOp h _ _ _ _ (fun _ _ _ h => hP.ldfLane h _ _ _ _) _

theorem Closed.stfLane (f : MF) (k : Ctx) (a : LaneAcc) (p : At) : P (stfLane f k s a p) := by
  unfold Machine.stfLane
  split
  · exact hP.modWave (hP.writeAt h _ _ _ _ _) _ _
  · exact h

theorem Closed.stfOp (f : MF) (k : Ctx) : (stfOp f k s).All P := by
  unfold Machine.stfOp
  dsimp only
  split
  · exact hP.fmtFault h _ _ _
  · split
    · exact hP.fmtFault h _ _ _
    · exact hP.memOp h _ _ _ _ (fun _ _ _ h => hP.stfLane h _ _ _ _) _

theorem Closed.findQuiet (f : MF) (k : Ctx) (u : Use) (c : L1Use) (ls : List LaneAcc) : P (findQuiet f k u c ls s).1 := by
  induction ls generalizing s with
  | nil => exact h
  | cons a ls ih =>
    have hrest := ih (hP.find h k.cluster k.asid a.va (MF.sz f) u c)
    unfold Machine.findQuiet
    dsimp only
    split
    · exact hrest
    · exact hrest

theorem Closed.prefOp (f : MF) (k : Ctx) : P (prefOp f k s) := by
  unfold Machine.prefOp
  refine foldl_keeps P (fun t p ht => ?_) _ (hP.addMemtx (hP.findQuiet h _ _ _ _ _) _ _)
  split
  · exact ite_keeps P (hP.fill ht _ _ _) ht
  · exact ht

theorem Closed.cmaintOp (f : MF) (k : Ctx) : P (cmaintOp f k s) := by
  unfold Machine.cmaintOp
  refine foldl_keeps P (fun t p ht => ?_) _ (hP.findQuiet h _ _ _ _ _)
  split
  · exact ite_keeps P (hP.setLine ht _ _ _) ht
  · exact ht

/-! ### Copies, barriers and queues -/

theorem Closed.addrFault (k : Ctx) (cause addr : Nat) : (addrFault k cause addr s).All P := hP.faultAt h _ _

theorem Closed.copyOp (c : CopyArgs) (k : Ctx) : (copyOp c k s).All P := by
  unfold Machine.copyOp
  split
  · exact hP.addrFault h _ _ _
  · exact Res.All.ite h (Res.All.ite h (hP.modCluster h _ _))

theorem Closed.cpybOp (f : KF) (k : Ctx) : (cpybOp f k s).All P := by
  unfold Machine.cpybOp
  split
  · exact hP.modWave h _ _
  · exact hP.modWave (hP.modCluster h _ _) _ _

omit hP in
theorem Closed.cpywOp (f : KF) (k : Ctx) : (cpywOp f k s).All P := by
  unfold Machine.cpywOp
  exact Res.All.ite h h

theorem Closed.setBar (c : CrewId) (o : Nat) (b : Bar) : P (s.setBar c o b) := hP.modCrew h _ _

theorem Closed.arriveOp (f : KF) (n : Int) (k : Ctx) : (arriveOp f n k s).All P := by
  unfold Machine.arriveOp
  dsimp only
  split
  · exact hP.addrFault h _ _ _
  · refine Res.All.ite h (Res.All.ite (hP.addrFault h _ _ _) ?_)
    split
    · exact hP.syncFault h _ _ _
    · exact hP.modWave (hP.released (hP.setBar h _ _ _) _) _ _

theorem Closed.barwOp (f : KF) (k : Ctx) : (barwOp f k s).All P := by
  unfold Machine.barwOp
  dsimp only
  split
  · exact hP.addrFault h _ _ _
  · exact Res.All.ite (hP.addrFault h _ _ _) (Res.All.ite h h)

theorem Closed.barRelease (c : CrewId) : P (barRelease s c) := hP.mapWaves h _

theorem Closed.barOp (k : Ctx) : (barOp k s).All P := by
  unfold Machine.barOp
  refine Res.All.ite (hP.syncFault h _ _ _) (Res.All.ite h ?_)
  have harrive := ite_keeps P (c := (k.wv.barIn || k.wv.barOut) = true) h
    (hP.released (hP.each h k (fun _ x => { x with barIn := !x.retired, passed := 0 })) k.cluster)
  generalize (if (k.wv.barIn || k.wv.barOut) = true then s else _ : State) = u at harrive
  have hu := ite_keeps P (c := (!k.wv.barOut && barComplete u k.w.crew) = true) (hP.barRelease harrive k.w.crew) harrive
  exact Res.All.ite (hP.each hu _ _) hu

theorem Closed.qpushOp (f : KF) (k : Ctx) : (qpushOp f k s).All P := by
  unfold Machine.qpushOp
  refine Res.All.ite (hP.syncFault h _ _ _) (Res.All.ite (hP.syncFault h _ _ _) (Res.All.ite h (Res.All.ite h
    (Res.All.ite (hP.stallOn h _ _ _) (foldl_keeps P (fun t i ht => ?_) _ (hP.released h _))))))
  dsimp only
  split
  · exact hP.qpush ht _ _ _ _
  · exact ht

theorem Closed.qpopOp (f : KF) (k : Ctx) : (qpopOp f k s).All P := by
  unfold Machine.qpopOp
  refine Res.All.ite (hP.syncFault h _ _ _) (Res.All.ite (hP.syncFault h _ _ _) (Res.All.ite h
    (Res.All.ite (hP.stallOn h _ _ _) (foldl_keeps P (fun t i ht => ?_) _ h))))
  dsimp only
  split
  · exact hP.qpopInto ht _ _ _ _ _ _
  · exact ht

theorem Closed.qnotifyOp (f : KF) (k : Ctx) : (qnotifyOp f k s).All P := by
  unfold Machine.qnotifyOp
  exact Res.All.ite (hP.syncFault h _ _ _) (Res.All.ite (hP.syncFault h _ _ _) (Res.All.ite h
    (hP.setQueue (hP.released h _) _ _ _)))

/-- R253: an access of one word gives the state it leaves, or an answer of the instruction. -/
theorem Closed.wordAccess (k : Ctx) (addr n : Nat) (u : Use) (c : L1Use) :
    P (wordAccess k addr n u c s).1 ∧ ∀ r, (wordAccess k addr n u c s).2 = .error r → r.All P := by
  have hf := hP.find h k.cluster k.asid addr n u c
  unfold Machine.wordAccess
  split
  · refine ⟨h, fun r hr => ?_⟩
    cases hr
    exact hP.addrFault h _ _ _
  split
  · refine ⟨h, fun r hr => ?_⟩
    cases hr
    exact hP.addrFault h _ _ _
  split
  next heq =>
    refine ⟨hP.addMemtx (hP.modWave (keeps_of_fst hf heq) _ _) _ _, fun r hr => ?_⟩
    cases hr
  next heq =>
    have hs := keeps_of_fst hf heq
    split
    · refine ⟨hs, fun r hr => ?_⟩
      cases hr
      exact hP.modWave hs _ _
    · refine ⟨hs, fun r hr => ?_⟩
      cases hr
      exact hP.faultAt (hP.modWave hs _ _) _ _

theorem Closed.qbindTrigOp (f : KF) (k : Ctx) : (qbindTrigOp f k s).All P := by
  unfold Machine.qbindTrigOp
  refine Res.All.ite (hP.illegal h _) (Res.All.ite (hP.syncFault h _ _ _) (Res.All.ite (hP.setQueue h _ _ _) ?_))
  obtain ⟨hs, herr⟩ := hP.wordAccess h k (k.wv.rdS (KF.A f)).toNat 128 useLoad .thru
  split
  next heq => exact herr _ (congrArg Prod.snd heq)
  next heq => exact hP.setQueue (hP.readAt (keeps_of_fst hs heq) _ _ _ _) _ _ _

theorem Closed.qmapOp (f : KF) (out : Bool) (k : Ctx) : (qmapOp f out k s).All P := by
  unfold Machine.qmapOp
  exact Res.All.ite (hP.syncFault h _ _ _) (Res.All.ite (hP.syncFault h _ _ _) (Res.All.ite (hP.syncFault h _ _ _)
    (hP.modWave (hP.party h _ _) _ _)))

theorem Closed.qunmapOp (f : KF) (k : Ctx) : (qunmapOp f k s).All P := by
  unfold Machine.qunmapOp
  exact Res.All.ite (hP.modWave h _ _) (hP.syncFault h _ _ _)

/-! ### The steps of memory, of copies and of translation -/

theorem Closed.copyRead (cl a va : Nat) : P (s.copyRead cl a va).1 := by
  have hx := hP.xlat h cl a va useLoad
  unfold State.copyRead
  split
  next heq => exact keeps_of_fst hx heq
  next heq =>
    have hs := keeps_of_fst hx heq
    exact ite_keeps_fst P hs (ite_keeps_fst P hs (hP.countRemote (hP.crewSees hs _ _ _) _ _))

theorem Closed.modCopy (cl k : Nat) (f : Copy → Copy) : P (s.modCopy cl k f) := hP.modCluster h _ _

theorem Closed.landObj (cl : Nat) (c : Copy) (n : Nat) : P (landObj cl c n s) := by
  unfold Machine.landObj
  split
  · exact h
  · refine ite_keeps P (hP.raise h _ _) ?_
    split
    · exact hP.setBar h _ _ _
    · exact hP.raise h _ _

theorem Closed.execCopyUnitLand (cl k u : Nat) : OutAll P (execCopyUnitLand cl k u s) := by
  unfold Machine.execCopyUnitLand
  split
  · trivial
  next c _ =>
    have hr := hP.copyRead h cl (s.asidOf c.wave.crew) (c.unitSrc u)
    refine OutAll.ite P trivial (OutAll.ite P trivial ?_)
    split
    · trivial
    next heq => exact hP.landObj (hP.modCopy (hP.modCrew (keeps_of_fst hr heq) _ _) _ _ _) _ _ _

theorem Closed.execCopyPark (cl k : Nat) : OutAll P (execCopyPark cl k s) := by
  unfold Machine.execCopyPark
  split
  · trivial
  · refine OutAll.ite P trivial (OutAll.ite P trivial ?_)
    have hr := fun a va => hP.copyRead h cl a va
    split
    · trivial
    next heq => exact hP.modCopy (hP.raise (keeps_of_fst (hr _ _) heq) _ _) _ _ _

theorem Closed.execMemoryAccessResponse (cl k : Nat) : OutAll P (execMemoryAccessResponse cl k s) := by
  unfold Machine.execMemoryAccessResponse
  dsimp only
  split
  · trivial
  · exact OutAll.ite P trivial (OutAll.ite P trivial (hP.modCluster (hP.perform h _) _ _))

theorem Closed.execPageWalk (cl a vpn : Nat) (store : Bool) : OutAll P (execPageWalk cl a vpn store s) := by
  unfold Machine.execPageWalk
  split
  · exact h
  · exact OutAll.ite P h (hP.hold (hP.touch h _ _) _ _ _)

theorem Closed.fetchFault (line cause : Nat) (k : Ctx) : P (fetchFault line cause s k) := hP.faultAt h _ _

theorem Closed.execInstructionFetch (cl a line : Nat) : OutAll P (execInstructionFetch cl a line s) := by
  have hf := hP.fetchLine h cl a line
  unfold Machine.execInstructionFetch
  refine OutAll.ite P trivial ?_
  split
  next heq => exact keeps_of_fst hf heq
  next heq => exact foldl_keeps P (f := Machine.fetchFault line _) (fun _ _ h => hP.fetchFault h _ _ _) _ (keeps_of_fst hf heq)

theorem Closed.execRemoteTimeout (w : WaveId) : OutAll P (execRemoteTimeout w s) := by
  unfold Machine.execRemoteTimeout
  split
  · exact OutAll.ite P (hP.setWave h _ _) trivial
  · trivial

theorem Closed.execInvalidationBroadcast (a : Nat) (va : BitVec 64) : OutAll P (execInvalidationBroadcast a va s) := by
  unfold Machine.execInvalidationBroadcast
  refine OutAll.ite P trivial (OutAll.byFirmware ?_ s)
  exact hP.same h ⟨rfl, rfl, rfl, rfl, rfl, rfl, rfl⟩

end

end Sys2Proof.Machine
end

section
/-! PROOFS. What the words of traps, counters, launches and events keep, and the steps by which flits reach the cells. -/

namespace Sys2Proof.Machine

section
variable {P : State → Prop} (hP : Closed P) {s : State} (h : P s)
include hP h

/-! ### Traps, counters, launches and events -/

theorem Closed.trapOp (f : KF) (k : Ctx) : (trapOp f k s).All P := by
  unfold Machine.trapOp
  exact Res.All.ite h (Res.All.ite (hP.faultAt h _ _) (hP.raise h _ _))

theorem Closed.brkOp (f : KF) (k : Ctx) : (brkOp f k s).All P := by
  unfold Machine.brkOp
  exact Res.All.ite h (hP.breakGang (hP.raise h _ _) _ _ _)

theorem Closed.tick : P s.tick.2 := hP.fresh h

theorem Closed.cycOp (f : KF) (k : Ctx) : P (cycOp f k s) := hP.modWave (hP.modCluster (hP.tick h) _ _) _ _

theorem Closed.cycRowOp (f : KF) (k : Ctx) : P (cycRowOp f k s) := by
  unfold Machine.cycRowOp
  split
  · exact hP.modWave (hP.modCluster (ite_keeps_snd P (hP.tick h) h) _ _) _ _
  · exact hP.modWave h _ _

theorem Closed.freeNumber : P s.freeNumber.2 := hP.fresh h

theorem Closed.accept (q : Nat) (d : List Dword) (only : Option Nat) : P (s.accept q d only) :=
  hP.setLaunch (hP.freeNumber h) _ _

theorem Closed.launchOp (f : KF) (k : Ctx) : (launchOp f k s).All P := by
  unfold Machine.launchOp
  refine Res.All.ite h ?_
  obtain ⟨hs, herr⟩ := hP.wordAccess h k (k.wv.rdS (KF.A f)).toNat 128 useLoad .thru
  split
  next heq => exact herr _ (congrArg Prod.snd heq)
  next heq =>
    have hr := fun p => hP.released (hP.readAt (keeps_of_fst hs heq) k 128 .thru p) k.cluster
    exact hP.modWave (ite_keeps P (hP.accept (hr _) _ _ _) (hr _)) _ _

theorem Closed.waitevOp (f : KF) (k : Ctx) : (waitevOp f k s).All P := by
  unfold Machine.waitevOp
  obtain ⟨hs, herr⟩ := hP.wordAccess h k (k.wv.rdS (KF.A f)).toNat 8 useLoad .past
  split
  next heq => exact herr _ (congrArg Prod.snd heq)
  next heq =>
    have hr := hP.readAt (keeps_of_fst hs heq) k 8 .past
    exact Res.All.ite (hP.modWave (hP.acquire (hr _) _ _) _ _) (hr _)

theorem Closed.sigevOp (f : KF) (k : Ctx) : (sigevOp f k s).All P := by
  unfold Machine.sigevOp
  refine Res.All.ite h ?_
  obtain ⟨hs, herr⟩ := hP.wordAccess h k (k.wv.rdS (KF.A f)).toNat 8 useStore .past
  dsimp only
  split
  next heq => exact herr _ (congrArg Prod.snd heq)
  next heq => exact hP.modWave (hP.released (hP.rmwAt (keeps_of_fst hs heq) _ _ _ _ _) _) _ _

/-! ### The words of floats and integers that have a body of their own -/

theorem Closed.fArith (f : KF) (G : Fmt → Mode → Nat → Nat → Nat × Fl) (k : Ctx) : P (fArith f G k s) := hP.fltOp h _ _ _ _ _

theorem Closed.fmaOp (f : KF) (k : Ctx) : P (fmaOp f k s) := hP.fltOp h _ _ _ _ _

theorem Closed.fcmpOp (f : KF) (k : Ctx) : P (fcmpOp f k s) := hP.cmpOp h _ _ _ _ _

theorem Closed.fsclOp (f : KF) (k : Ctx) : P (fsclOp f k s) := by
  unfold Machine.fsclOp
  exact ite_keeps P (hP.onWave h _ _) (hP.onLanesFl h _ _ _)

theorem Closed.carryOp (f : KF) (sub : Bool) (k : Ctx) : P (carryOp f sub k s) := hP.onLanes h _ _ _

theorem Closed.bfiOp (f : KF) (k : Ctx) : P (bfiOp f k s) := ite_keeps P (hP.onWave h _ _) (hP.onLanes h _ _ _)

theorem Closed.leaOp (f : KF) (k : Ctx) : P (leaOp f k s) := ite_keeps P (hP.onWave h _ _) (hP.onLanes h _ _ _)

theorem Closed.selOp (f : KF) (k : Ctx) : P (selOp f k s) := hP.onLanes h _ _ _

theorem Closed.cmpIntOp (f : KF) (k : Ctx) : P (cmpIntOp f k s) := hP.cmpOp h _ _ _ _ _

theorem Closed.onLanesJ (f : JF) (k : Ctx) (g : Nat → Wave → Wave) : P (onLanesJ f k s g) := hP.each h _ _

theorem Closed.movsvOp (f : KF) (k : Ctx) : P (movsvOp f k s) := ite_keeps P (hP.onWave h _ _) (hP.each h _ _)

theorem Closed.dot4Op (f : KF) (k : Ctx) : P (dot4Op f k s) := hP.onLanes h _ _ _

/-! ### Flits and cells -/

theorem Closed.modRound (c : CrewId) (id : Nat) (f : Round → Round) : P (s.modRound c id f) := hP.modCrew h _ _

theorem Closed.nodeFault (c : CrewId) (p : Place) (cause : Nat) (tag : Dword) (blk slot : Nat) (site : Option Nat) :
    P (s.nodeFault c p cause tag blk slot site) := hP.raise h _ _

theorem Closed.countHops (c : CrewId) (x : Crew) (f : Flit) (p : Place) : P (s.countHops c x f p) := hP.modGang h _ _

theorem Closed.dropFlit (c : CrewId) (k : Nat) : P (s.dropFlit c k) := hP.modCrew h _ _

theorem Closed.orphan (c : CrewId) (x : Crew) (f : Flit) : P (s.orphan c x f) := hP.raise h _ _

theorem Closed.parkFlit (c : CrewId) (k : Nat) (f : Flit) (pad : Nat) (place : Option Nat) : P (s.parkFlit c k f pad place) :=
  hP.modCrew (hP.dropFlit h _ _) _ _

theorem Closed.parkArea (c : CrewId) (k : Nat) (x : Crew) (f : Flit) (pad : Nat) : OutAll P (parkArea s c k x f pad) := by
  unfold Machine.parkArea
  exact OutAll.ite P (hP.parkFlit h _ _ _ _ _) (OutAll.ite P trivial (OutAll.ite P (hP.parkFlit (hP.fresh h) _ _ _ _ _)
    (hP.modCrew (hP.raise (hP.fresh h) _ _) _ _)))

theorem Closed.routeAway (c : CrewId) (k : Nat) (x : Crew) (f : Flit) (pad : Nat) (g : Goes) :
    OutAll P (routeAway s c k x f pad g) := by
  unfold Machine.routeAway
  split
  · exact OutAll.ite P (hP.parkFlit h _ _ _ _ _) (hP.bwFault h _ _ _ _ _ _ _ _ _ _)
  · exact hP.parkArea h _ _ _ _ _
  · exact hP.orphan (hP.dropFlit h _ _) _ _ _

theorem Closed.accepted (c : CrewId) (i : Nat) (f : Frame) : P (s.accepted c i f) := hP.modPlace h _ _ _

theorem Closed.accept2 (c : CrewId) (kn : Kernel) (i : Nat) (p : Place) (f : Frame) (slot : Nat) (port err : Bool) (v : Dword)
    (entry : Bool) : P (s.accept2 c kn i p f slot port err v entry) := by
  have ht := hP.accepted h c i f
  unfold State.accept2
  dsimp only
  split
  · exact h
  · split
    · exact ite_keeps P h (hP.modPlace ht _ _ _)
    · exact ite_keeps P (hP.modPlace ht _ _ _) (ite_keeps P (hP.nodeFault h _ _ _ _ _ _ _)
        (ite_keeps P (hP.modPlace ht _ _ _) (hP.modPlace ht _ _ _)))

theorem Closed.letIn (c : CrewId) (x : Crew) (i : Nat) (f : Flit) (p : Place) : OptAll P (s.letIn c x i f p) := by
  unfold State.letIn
  split
  · split
    · exact hP.modPlace h _ _ _
    · trivial
  · exact h

theorem Closed.execBridleWindowEnd (c : CrewId) (i : Nat) : OutAll P (execBridleWindowEnd c i s) := by
  unfold Machine.execBridleWindowEnd
  split
  · exact hP.modPlace h _ _ _
  · trivial

theorem Closed.lateFlit (c : CrewId) (k : Nat) (x : Crew) (kn : Kernel) (f : Flit) (pad i : Nat) :
    OutAll P (lateFlit s c k x kn f pad i) := by
  unfold Machine.lateFlit
  split
  · exact OutAll.ite P (hP.orphan (hP.dropFlit h _ _) _ _ _) (hP.modCrew h _ _)
  · exact hP.routeAway h _ _ _ _ _ _

theorem Closed.arriveToken (c : CrewId) (k : Nat) (x : Crew) (kn : Kernel) (t : Tok) : OutAll P (arriveToken s c k x kn t) := by
  unfold Machine.arriveToken
  dsimp only
  split
  next i p _ =>
    refine OutAll.ite P (hP.lateFlit h _ _ _ _ _ _ _) ?_
    split
    · exact hP.nodeFault (hP.dropFlit h _ _) _ _ _ _ _ _ _
    · refine OutAll.ite P trivial ?_
      have hl := hP.letIn h c x i (.token t) p
      split
      · trivial
      next heq =>
        rw [heq] at hl
        exact hP.accept2 (hP.countHops (hP.dropFlit hl _ _) _ _ _ _) _ _ _ _ _ _ _ _ _ _
  · exact hP.routeAway h _ _ _ _ _ _

omit h in
theorem Closed.orWait {r : UnitRes} (hr : r.All P) {go : State → Out} (hgo : ∀ t, P t → OutAll P (go t)) (hs : P s) :
    OutAll P (r.orWait s go) := by
  cases r with
  | ok t => exact hgo t hr
  | full d j f => exact hP.bwOwn hs _ _ _
  | none_ => trivial

theorem Closed.freeFrameNo (p : Place) (cell : Nat) : P (freeFrameNo s p cell).2 := by
  unfold Machine.freeFrameNo
  dsimp only
  exact hP.fresh h

theorem Closed.joinRounds (c : CrewId) (r into : Nat) : P (s.joinRounds c r into) := ite_keeps P h (hP.modCrew h _ _)

theorem Closed.enterFrame (c : CrewId) (i : Nat) (fr : Frame) (round : Nat) : P (s.enterFrame c i fr round).1 := by
  unfold State.enterFrame
  split
  · exact ite_keeps_fst P (hP.joinRounds h _ _ _) (hP.modPlace h _ _ _)
  · exact hP.modPlace h _ _ _

theorem Closed.enterAt (c : CrewId) (k : Nat) (x : Crew) (kn : Kernel) (e : Ent) (i : Nat) (p : Place) :
    OutAll P (enterAt s c k x kn e i p) := by
  unfold Machine.enterAt
  refine OutAll.ite P (hP.lateFlit h _ _ _ _ _ _ _) ?_
  have hl := hP.letIn h c x i (.entry e) p
  dsimp only
  split
  · trivial
  next t heq =>
    rw [heq] at hl
    split
    · exact OutAll.ite P trivial (hP.accept2 (hP.enterFrame (hP.countHops (hP.dropFlit hl _ _) _ _ _ _) _ _ _ _) _ _ _ _ _ _ _ _ _ _)
    · refine OutAll.ite P trivial ?_
      have hu := hP.getUnit hl c i p (cellOf e.tag e.blk)
      split
      · trivial
      · exact hP.bwFault h _ _ _ _ _ _ _ _ _ _
      next u heq' =>
        rw [heq'] at hu
        have hf := hP.freeFrameNo hu p (cellOf e.tag e.blk)
        split
        · trivial
        next heq'' =>
          have hv := keeps_of_snd hf heq''
          exact hP.accept2 (hP.modPlace (hP.countHops (hP.dropFlit hv _ _) _ _ _ _) _ _ _) _ _ _ _ _ _ _ _ _ _

theorem Closed.execTokenArrive (c : CrewId) (k : Nat) : OutAll P (execTokenArrive c k s) := by
  unfold Machine.execTokenArrive
  split
  · split
    · trivial
    · refine OutAll.ite P trivial (OutAll.unlessFull ?_ _ _)
      split
      · split
        · exact OutAll.ite P (hP.modPlace (hP.dropFlit h _ _) _ _ _) trivial
        · exact hP.dropFlit h _ _
      · split
        · trivial
        · exact hP.routeAway h _ _ _ _ _ _
      · exact hP.arriveToken h _ _ _ _ _
  · trivial

theorem Closed.execFrameEntry (c : CrewId) (k : Nat) : OutAll P (execFrameEntry c k s) := by
  unfold Machine.execFrameEntry
  split
  · split
    · refine OutAll.ite P trivial (OutAll.unlessFull ?_ _ _)
      split
      · exact hP.enterAt h _ _ _ _ _ _ _
      · exact hP.routeAway h _ _ _ _ _ _
    · trivial
    · trivial
  · trivial

theorem Closed.frameEcc (c : CrewId) (p : Place) (fr : Frame) (slot : Nat) : P (s.frameEcc c p fr slot) := hP.raise h _ _

theorem Closed.execFrameRefill (c : CrewId) (i cell no : Nat) : OutAll P (execFrameRefill c i cell no s) := by
  unfold Machine.execFrameRefill
  split
  · split
    next p _ =>
      split
      · refine OutAll.ite P trivial (OutAll.ite P trivial ?_)
        split
        · trivial
        · refine OutAll.ite P (OutAll.unlessFull (o := .next _) (hP.frameEcc h _ _ _ _) _ _) ?_
          have hu := hP.getUnit h c i p cell
          split
          · trivial
          · exact OutAll.unlessFull (hP.bwFault h _ _ _ _ _ _ _ _ _ _) _ _
          next heq =>
            rw [heq] at hu
            exact hP.modPlace hu _ _ _
      · trivial
    · trivial
  · trivial

theorem Closed.execNodeChoose (cl bay cell : Nat) : OutAll P (execNodeChoose cl bay cell s) := by
  unfold Machine.execNodeChoose
  refine OutAll.ite P trivial ?_
  dsimp only
  split
  · trivial
  · exact hP.setFocus (hP.modPlace (hP.modCluster h _ _) _ _ _) _

end

end Sys2Proof.Machine
end

section
/-! PROOFS. What firing a node keeps, and the steps of the weir. -/

namespace Sys2Proof.Machine

def NRes.All (P : State → Prop) : NRes → Prop
  | .fire t => P t
  | .wait t => P t
  | .held t => P t

def Performed.All (P : State → Prop) : Performed → Prop
  | .all t => P t
  | .stuck t => P t

section
variable {P : State → Prop}

theorem NRes.All.ite {c : Prop} [Decidable c] {r q : NRes} (hr : r.All P) (hq : q.All P) : (if c then r else q).All P := by
  split
  · exact hr
  · exact hq

theorem Performed.All.ite {c : Prop} [Decidable c] {r q : Performed} (hr : r.All P) (hq : q.All P) :
    (if c then r else q).All P := by
  split
  · exact hr
  · exact hq

variable (hP : Closed P) {s : State} (h : P s)
include hP h

/-! ### A firing -/

theorem Closed.fired (k : NCtx) : P (k.fired s) := hP.modGang (hP.modPlace h _ _ _) _ _

theorem Closed.again (k : NCtx) (r : Ready) : P (k.again r s) := hP.modPlace h _ _ _

theorem Closed.orHold (k : NCtx) (t : State) {u : State} (hu : P u) : P (k.orHold s t u) := ite_keeps P (hP.again h _ _) hu

theorem Closed.nresEnds (k : NCtx) {r : NRes} (hr : r.All P) : P (r.ends k s) := by
  cases r with
  | fire t => exact hP.orHold h _ _ (hP.fired hr _)
  | wait t => exact hP.again hr _ _
  | held t => exact hP.orHold h _ _ hr

/-- What every node keeps, its body does. -/
theorem Closed.fireNode {body : NCtx → State → NRes} (hbody : ∀ k s, P s → (body k s).All P) : OutAll P (fireNode s body) := by
  unfold Machine.fireNode
  split
  · have hs := hP.setFocus h .none
    dsimp only
    split
    · exact OutAll.ite P hs (hP.nresEnds hs _ (hbody _ _ hs))
    · exact hs
  · trivial

theorem Closed.send (k : NCtx) (t : Option Tgt) (v : Dword) (err : Bool) : P (k.send t v err s) := by
  cases t with
  | none => exact h
  | some t => exact hP.sendFlit h _ _

theorem Closed.both (k : NCtx) (t0 t1 : Option Tgt) (v : Dword) (err : Bool) : P (k.both t0 t1 v err s) :=
  hP.send (hP.send h _ _ _ _) _ _ _ _

theorem Closed.pass (k : NCtx) (t0 t1 : Option Tgt) {body : State → NRes} (hbody : (body s).All P) :
    (k.pass t0 t1 s body).All P := by
  unfold NCtx.pass
  split
  · exact hP.both h _ _ _ _ _
  · exact hbody

/-! ### Rounds, their flags and errors -/

theorem Closed.modSaved (w : WaveId) (fl : BitVec 5) (f : Wave → Wave) : P (s.modSaved w fl f) := by
  unfold State.modSaved
  split
  · refine ite_keeps P ?_ (hP.modWave h _ _)
    exact hP.physWrite (hP.physWrite (hP.modWave h _ _) _ _) _ _
  · exact hP.modWave h _ _

theorem Closed.roundFlags (c : CrewId) (x : Crew) (round kj : Nat) (fl : Fl) : P (s.roundFlags c x round kj fl) := by
  unfold State.roundFlags
  split
  · exact ite_keeps P (hP.modSaved h _ _ _) (hP.modRound h _ _ _)
  · exact hP.modSaved h _ _ _

theorem Closed.noteFault (c : CrewId) (round : Nat) (e : RErr) : P (s.noteFault c round e) := hP.modRound h _ _ _

theorem Closed.note (k : NCtx) (code : Nat) : P (k.note code s) := hP.noteFault h _ _ _

theorem Closed.hand (k : NCtx) (code : Dword) : P (k.hand code s) := by
  unfold NCtx.hand
  dsimp only
  split
  · exact ite_keeps P (hP.raise h _ _) (hP.modRound h _ _ _)
  · exact hP.raise h _ _

theorem Closed.endRound (k : NCtx) (a : Option Nat) : P (k.endRound a s) := hP.modRound h _ _ _

theorem Closed.orEnd (k : NCtx) {body : State → NRes} (hbody : (body s).All P) : (k.orEnd s body).All P := by
  unfold NCtx.orEnd
  split
  · exact hP.endRound (hP.hand h _ _) _ _
  · exact hbody

/-! ### The nodes of values -/

theorem Closed.nafOp (n : NAF) (k : NCtx) : (nafOp n k s).All P := by
  refine hP.pass h _ _ _ ?_
  split
  · exact hP.both (hP.roundFlags h _ _ _ _ _) _ _ _ _ _
  · exact hP.both (hP.note h _ _) _ _ _ _ _

theorem Closed.steerOp (n : NDF) (k : NCtx) : (steerOp n k s).All P := hP.pass h _ _ _ (hP.send h _ _ _ _)

theorem Closed.plainOp (n : NDF) (v : NCtx → State → Dword) (k : NCtx) : (plainOp n v k s).All P :=
  hP.pass h _ _ _ (hP.both h _ _ _ _ _)

theorem Closed.errtOp (n : NDF) (k : NCtx) : (errtOp n k s).All P := ite_keeps P (hP.send h _ _ _ _) (hP.send h _ _ _ _)

/-! ### Loops, calls and frames -/

theorem Closed.modChain (c : CrewId) (paddock : Nat) (f : Chain → Chain) : P (s.modChain c paddock f) := hP.modCrew h _ _

theorem Closed.childAct (c : CrewId) (paddock round blk : Nat) (tag : Dword) (parent : Option Act) (loop : Bool) :
    P (s.childAct c paddock round blk tag parent loop) := by
  unfold State.childAct
  split
  · exact hP.newAct h _ _ _ _ _ _ _
  · exact h

theorem Closed.modAct (c : CrewId) (paddock round blk : Nat) (tag : Dword) (f : Act → Act) :
    P (s.modAct c paddock round blk tag f) := hP.modChain h _ _ _

theorem Closed.modLoop (c : CrewId) (i : Nat) (fr : Nat × Nat) (e : Bool) (g : BitVec 32 → BitVec 32) :
    P (s.modLoop c i fr e g) := hP.modPlace h _ _ _

theorem Closed.enter (k : NCtx) (n : NDF) (blk : Nat) (tag : Dword) (slot : Nat) (how : Entry) :
    P (k.enter n blk tag slot how s) := hP.sendFlit h _ _

theorem Closed.nctxFault (k : NCtx) (cause : Nat) : P (k.fault cause s) := hP.nodeFault h _ _ _ _ _ _ _

theorem Closed.lenterOp (n : NDF) (k : NCtx) : (lenterOp n k s).All P := by
  refine hP.orEnd h _ ?_
  dsimp only
  refine NRes.All.ite h ?_
  split
  · exact hP.nctxFault h _ _
  · have he := fun b t d e r => hP.enter (hP.modLoop h k.c k.i (k.fr.cell, k.fr.no) (ndE n) (fun _ => r)) k n b t d e
    exact hP.both (ite_keeps P (hP.childAct (he _ _ _ _ _) _ _ _ _ _ _ _) (he _ _ _ _ _)) _ _ _ _ _

theorem Closed.startIter (c : CrewId) (i : Nat) (parent : Nat × Nat) (e : Bool) (f : Ent) : P (s.startIter c i parent e f) := by
  unfold State.startIter
  exact ite_keeps P (hP.sendFlit h _ _) (hP.childAct (hP.sendFlit (hP.modLoop h _ _ _ _ _) _ _) _ _ _ _ _ _ _)

theorem Closed.lnextOp (n : NDF) (k : NCtx) : (lnextOp n k s).All P := by
  refine hP.orEnd h _ ?_
  dsimp only
  split
  · exact hP.both h _ _ _ _ _
  · split
    · exact hP.both h _ _ _ _ _
    · refine NRes.All.ite (hP.both (hP.startIter h _ _ _ _ _) _ _ _ _ _) ?_
      have hl := fun up e f => hP.modLoop h k.c k.i up e f
      exact hP.both (hP.modCrew (ite_keeps P (hP.bwRaise (hl _ _ _) _ _ _ _ _ _ _ _ _ _) (hl _ _ _)) _ _) _ _ _ _ _

theorem Closed.lexitOp (n : NDF) (k : NCtx) : (lexitOp n k s).All P := by
  refine hP.orEnd h _ ?_
  dsimp only
  split
  · exact hP.both h _ _ _ _ _
  · split
    · exact hP.both h _ _ _ _ _
    · exact hP.both (hP.enter (hP.modAct (hP.modLoop h _ _ _ _ _) _ _ _ _ _ _) _ _ _ _ _ _) _ _ _ _ _

theorem Closed.callnOp (n : NDF) (k : NCtx) : (callnOp n k s).All P := by
  refine hP.orEnd h _ ?_
  split
  · exact hP.nctxFault h _ _
  · have he := fun b t d e => hP.enter h k n b t d e
    exact hP.both (ite_keeps P (hP.childAct (he _ _ _ _) _ _ _ _ _ _ _) (he _ _ _ _)) _ _ _ _ _

theorem Closed.retnOp (n : NDF) (k : NCtx) : (retnOp n k s).All P := by
  refine hP.orEnd h _ ?_
  split
  · exact h
  · split
    · exact h
    · exact NRes.All.ite (hP.nctxFault h _ _) (hP.enter h _ _ _ _ _ _)

theorem Closed.sinkOp (n : NDF) (k : NCtx) : (sinkOp n k s).All P := by
  unfold Machine.sinkOp
  dsimp only
  split
  · exact hP.both (hP.endRound (hP.hand h _ _) _ _) _ _ _ _ _
  · exact hP.both (hP.endRound h _ _) _ _ _ _ _

theorem Closed.result (k : NCtx) (port : Nat) : P (k.result port s) := by
  unfold NCtx.result
  dsimp only
  split
  · exact ite_keeps P (hP.modCrew h _ _) (hP.modRound h _ _ _)
  · exact hP.modCrew h _ _

theorem Closed.resultHops (k : NCtx) : P (k.resultHops s) := hP.modGang h _ _

theorem Closed.sendpOp (n : NDF) (k : NCtx) : (sendpOp n k s).All P := by
  unfold Machine.sendpOp
  dsimp only
  split
  · exact hP.both (hP.hand h _ _) _ _ _ _ _
  · exact hP.both (hP.resultHops (hP.result h _ _) _) _ _ _ _ _

theorem Closed.eqpnOp (n : NDF) (k : NCtx) : (eqpnOp n k s).All P :=
  hP.orEnd h _ (hP.both (ite_keeps P h (hP.endRound h _ _)) _ _ _ _ _)

theorem Closed.admitHeld (c : CrewId) (i : Nat) (parent : Nat × Nat) (e : Bool) (l : List Held) :
    P (admitHeld c i parent e l s) := by
  induction l generalizing s with
  | nil => exact h
  | cons x l ih =>
    unfold Machine.admitHeld
    exact ih (ite_keeps P (ite_keeps P (hP.startIter (hP.modPlace (hP.modCrew h _ _) _ _ _) _ _ _ _ _) h) h)

theorem Closed.loopEnded (c : CrewId) (i : Nat) (parent : Nat × Nat) (e : Bool) : P (loopEnded c i parent e s) := by
  unfold Machine.loopEnded
  exact hP.modLoop (hP.admitHeld (hP.modLoop h _ _ _ _ _) _ _ _ _ _) _ _ _ _ _

theorem Closed.freeFrame (c : CrewId) (i n : Nat) (fr : Nat × Nat) : P (freeFrame c i n fr s) := by
  induction n generalizing s fr with
  | zero => exact h
  | succ n ih =>
    unfold Machine.freeFrame
    split
    · exact h
    · have ht := fun paddock f g => hP.modAct (hP.modPlace h c i f) c paddock g
      dsimp only
      split
      · split
        · have hl := fun up e paddock f g r b t => hP.loopEnded (ht paddock f g r b t) c i up e
          split
          · split
            · exact ih (hl _ _ _ _ _ _ _ _) _
            · exact hl _ _ _ _ _ _ _ _
          · exact hl _ _ _ _ _ _ _ _
        · exact ht _ _ _ _ _ _
      · exact ht _ _ _ _ _ _

theorem Closed.fendOp (k : NCtx) : (fendOp k s).All P :=
  hP.orEnd h _ (NRes.All.ite (hP.freeFrame h _ _ _ _) (hP.modPlace h _ _ _))

/-! ### The nodes of memory -/

theorem Closed.nodeXlat (asid a n : Nat) (u : Use) : P (s.nodeXlat asid a n u).1 := by
  have hx := hP.xlatTile h asid a u
  unfold State.nodeXlat
  split
  · exact h
  · split
    next heq => exact keeps_of_fst hx heq
    next heq => exact keeps_of_fst hx heq

theorem Closed.nodeFind (asid a n : Nat) (u : Use) : P (s.nodeFind asid a n u).1 := by
  have hx := hP.nodeXlat h asid a n u
  unfold State.nodeFind
  split
  next heq => exact keeps_of_fst hx heq
  next heq => exact keeps_of_fst hx heq

theorem Closed.nodeStore (cl slice : Nat) (l : Loc) (bs : List Byte) : P (s.nodeStore cl slice l bs) := by
  have hs := hP.countRemote h slice l
  unfold State.nodeStore
  exact ite_keeps P (hP.homeWrite (hP.l1Store (hP.performRange hs _ _ _) _ _ _) _ _)
    (hP.pastL1 (hP.homeWrite (hP.crewSees hs _ _ _) _ _) _)

theorem Closed.nodeLoad (cl slice : Nat) (l : Loc) (n : Nat) : P (s.nodeLoad cl slice l n).2 :=
  hP.crewSees (hP.countRemote h _ _) _ _ _

theorem Closed.countMem (c : CrewId) (kj n : Nat) : P (s.countMem c kj n) := hP.modGang h _ _

theorem Closed.freeAccess (n : NMF) (u : Use) (k : NCtx) {body : State → Loc → State} (hbody : ∀ s l, P s → P (body s l)) :
    (freeAccess n u k s body).All P := by
  refine hP.pass h _ _ _ ?_
  have hr := hP.nodeFind h (s.asidOf k.c) k.rd.l.toNat (2 ^ n.size.toNat) u
  dsimp only
  split
  · exact hbody _ _ (hP.countMem hr _ _ _)
  · split
    · exact hP.modPlace (hP.raise hr _ _) _ _ _
    · exact hP.send (hP.noteFault hr _ _ _) _ _ _ _

theorem Closed.fldOp (n : NMF) (k : NCtx) : (fldOp n k s).All P :=
  hP.freeAccess h _ _ _ fun _ _ h => hP.send (hP.nodeLoad h _ _ _ _) _ _ _ _

theorem Closed.fstOp (n : NMF) (k : NCtx) : (fstOp n k s).All P :=
  hP.freeAccess h _ _ _ fun _ _ h => hP.send (hP.nodeStore h _ _ _ _) _ _ _ _

theorem Closed.cfenceOp (n : NMF) (k : NCtx) : (cfenceOp n k s).All P :=
  hP.pass h _ _ _ (NRes.All.ite h (hP.send h _ _ _ _))

theorem Closed.chainOp (n : NMF) (kind : AKind) (k : NCtx) : (chainOp n kind k s).All P := by
  unfold Machine.chainOp
  dsimp only
  split
  · exact hP.modCrew (hP.send h _ _ _ _) _ _
  · exact hP.modCrew h _ _

/-! ### The weir -/

theorem Closed.reply (c : CrewId) (paddock : Nat) (e : WEntry) (v : Dword) (err : Bool) : P (s.reply c paddock e v err) := by
  unfold State.reply
  split
  · exact hP.sendFlit h _ _
  · exact h

theorem Closed.modEntry (c : CrewId) (paddock : Nat) (e : WEntry) (f : WEntry → WEntry) : P (s.modEntry c paddock e f) :=
  hP.modChain h _ _ _

theorem Closed.dropEntry (c : CrewId) (paddock : Nat) (e : WEntry) : P (s.dropEntry c paddock e) :=
  hP.modCrew (hP.modChain h _ _ _) _ _

theorem Closed.parkEntry (c : CrewId) (paddock : Nat) (e : WEntry) (cause : Nat) : P (s.parkEntry c paddock e cause) :=
  hP.modEntry (hP.raise h _ _) _ _ _ _

theorem Closed.stopEntry (c : CrewId) (paddock : Nat) (e : WEntry) (cause : Nat) : P (s.stopEntry c paddock e cause) :=
  hP.raise h _ _

theorem Closed.execWeirArrive (c : CrewId) (k : Nat) : OutAll P (execWeirArrive c k s) := by
  unfold Machine.execWeirArrive
  split
  · trivial
  · split
    · trivial
    next t _ =>
      have hs := hP.modCrew h c (fun x => { x with transit := x.transit.eraseIdx k })
      have hput : ∀ u e, P u → P (u.modChain c t.paddock (fun ch => { ch with entries := ch.entries ++ [e] })) :=
        fun u e hu => hP.modChain hu _ _ _
      have htaken : ∀ u, P u → P (if t.entry.quiet then u
            else match t.entry.kind with
              | .cst => u.reply c t.paddock t.entry t.entry.data false
              | .mnop => u.reply c t.paddock t.entry t.entry.addr false
              | _ => u) := by
        intro u hu
        refine ite_keeps P hu ?_
        split
        · exact hP.reply hu _ _ _ _ _
        · exact hP.reply hu _ _ _ _ _
        · exact hu
      refine OutAll.unlessFull ?_ _ _
      dsimp only
      split
      · exact hs
      · refine OutAll.ite P (hP.raise hs _ _) (OutAll.ite P (htaken _ (hput _ _ hs)) ?_)
        have hr := fun a u => hP.nodeFind hs a t.entry.addr.toNat t.entry.sz u
        split
        · exact hput _ _ (hr _ _)
        · exact OutAll.ite P (htaken _ (hput _ _ (hP.raise (hr _ _) _ _))) (hput _ _ (hr _ _))
        · exact htaken _ (hput _ _ (hr _ _))

theorem Closed.undoCommit (c : CrewId) (x : Crew) (e : WEntry) (old : Nat) : P (s.undoCommit c x e old) := by
  unfold State.undoCommit
  exact ite_keeps P (hP.undoPush h _ _ _) h

theorem Closed.findStores (c : CrewId) (paddock : Nat) (es : List WEntry) : P (findStores c paddock es s).1 := by
  induction es generalizing s with
  | nil => exact h
  | cons e es ih =>
    unfold Machine.findStores
    refine ite_keeps_fst P h ?_
    have hr := hP.nodeFind h (s.asidOf c) e.addr.toNat e.sz useStore
    dsimp only
    split
    · exact ih hr
    · split
      · exact hP.parkEntry hr _ _ _ _
      · exact hP.stopEntry hr _ _ _ _

theorem Closed.performStore (c : CrewId) (paddock : Nat) (x : Crew) (q : WEntry × Loc) : P (performStore c paddock x s q) := by
  unfold Machine.performStore
  exact hP.dropEntry (hP.countMem (hP.nodeStore (hP.undoCommit (hP.performRange h _ _ _) _ _ _ _) _ _ _ _) _ _ _) _ _ _

theorem Closed.settleCrew (x : Crew) : (settleCrew x s).All P := Performed.All.ite h (hP.performPicked h _ _)

theorem Closed.performStores (c : CrewId) (paddock : Nat) (es : List WEntry) : (performStores c paddock es s).All P := by
  have hf := hP.findStores h c paddock es
  unfold Machine.performStores
  split
  next heq _ => exact keeps_of_fst hf heq
  next x _ heq _ =>
    have hc := hP.settleCrew (keeps_of_fst hf heq) x
    split
    next heq' =>
      rw [heq'] at hc
      exact foldl_keeps P (fun _ _ h => hP.performStore h _ _ _ _) _ hc
    next heq' =>
      rw [heq'] at hc
      exact hc
  next heq _ _ => exact keeps_of_fst hf heq

theorem Closed.passed (c : CrewId) (paddock : Nat) (kn : Kernel) (e : WEntry) : P (s.passed c paddock kn e) :=
  hP.modChain h _ _ _

theorem Closed.answered (c : CrewId) (paddock : Nat) (kn : Kernel) (e : WEntry) (v : Dword) (err : Bool) :
    P (((s.dropEntry c paddock e).reply c paddock e v err).passed c paddock kn e) :=
  hP.passed (hP.reply (hP.dropEntry h _ _ _) _ _ _ _ _) _ _ _ _

theorem Closed.releaseErr (c : CrewId) (paddock : Nat) (kn : Kernel) (e : WEntry) (code : Nat) :
    P (releaseErr s c paddock kn e code) := hP.answered (hP.noteFault h _ _ _) _ _ _ _ _ _

theorem Closed.releaseMiss (c : CrewId) (paddock : Nat) (kn : Kernel) (e : WEntry) (x : NAcc) :
    P (releaseMiss s c paddock kn e x) := by
  unfold Machine.releaseMiss
  split
  · exact hP.releaseErr h _ _ _ _ _
  · split
    · exact hP.parkEntry h _ _ _ _
    · exact hP.stopEntry h _ _ _ _

theorem Closed.releaseLoad (c : CrewId) (x : Crew) (ch : Chain) (kn : Kernel) (e : WEntry) :
    P (releaseLoad s c x ch kn e) := by
  have hx := hP.nodeXlat h (s.asidOf c) e.addr.toNat e.sz useLoad
  unfold Machine.releaseLoad
  dsimp only
  split
  next heq => exact hP.releaseMiss (keeps_of_fst hx heq) _ _ _ _ _
  next heq =>
    have hs := keeps_of_fst hx heq
    split
    · exact hP.answered hs _ _ _ _ _ _
    · split
      · exact hP.answered (hP.pastL1 (hP.crewSees (hP.countMem (hP.countRemote hs _ _) _ _ _) _ _ _) _) _ _ _ _ _ _
      · exact hP.releaseMiss hs _ _ _ _ _

theorem Closed.releaseAtom (c : CrewId) (x : Crew) (ch : Chain) (kn : Kernel) (e : WEntry) :
    P (releaseAtom s c x ch kn e) := by
  have hr := hP.nodeFind h (s.asidOf c) e.addr.toNat e.sz useStore
  unfold Machine.releaseAtom
  dsimp only
  split
  · have hp := hP.performStores hr c ch.paddock (x.heldStores ch.paddock e.round)
    split
    next heq =>
      rw [heq] at hp
      exact hp
    next t heq =>
      rw [heq] at hp
      have hc := hP.settleCrew hp x
      split
      next heq' =>
        rw [heq'] at hc
        exact hc
      next heq' =>
        rw [heq'] at hc
        exact hP.answered (hP.countMem (hP.modRound (hP.pastL1 (hP.rmw (hP.countRemote hc _ _) _ _ _ _) _) _ _ _) _ _ _) _ _ _ _ _ _
  · exact hP.releaseMiss hr _ _ _ _ _

theorem Closed.releaseEntry (c : CrewId) (x : Crew) (ch : Chain) (kn : Kernel) (e : WEntry) :
    OutAll P (releaseEntry s c x ch kn e) := by
  unfold Machine.releaseEntry
  split
  · exact hP.releaseErr h _ _ _ _ _
  · split
    · exact hP.passed (hP.dropEntry h _ _ _) _ _ _ _
    · exact hP.passed (hP.modChain h _ _ _) _ _ _ _
    · exact hP.releaseLoad h _ _ _ _ _
    · exact OutAll.ite P (hP.releaseAtom h _ _ _ _ _) trivial

theorem Closed.execWeirRelease (c : CrewId) (paddock : Nat) : OutAll P (execWeirRelease c paddock s) := by
  unfold Machine.execWeirRelease
  split
  · split
    · trivial
    next ch _ =>
      have hs := fun f => hP.modChain h c paddock f
      have hout : ∀ t, P t → OutAll P (.next t) := fun _ h => h
      dsimp only
      split
      · trivial
      · exact OutAll.ite P trivial (OutAll.unlessFull (OutAll.ite P (hP.releaseEntry (hs _) _ _ _ _ _)
          (hout _ (hP.fireBreak (hP.modEntry (hs _) _ _ _ _) _ _ _ _))) _ _)
  · trivial

end

end Sys2Proof.Machine
end

section
/-! PROOFS. What matrix work keeps, and the memory cells with their generators. -/

namespace Sys2Proof.Machine

section
variable {P : State → Prop} (hP : Closed P) {s : State} (h : P s)
include hP h

/-! ### The words of matrix work -/

theorem Closed.modMc (c : CrewId) (i mc : Nat) (f : MCell → MCell) : P (s.modMc c i mc f) := hP.modPlace h _ _ _

omit hP in
theorem Closed.mxGate (k : Ctx) (entry : Option Nat) {body : State → Res} (hbody : (body s).All P) :
    (mxGate k entry s body).All P := Res.All.ite h (Res.All.ite h (Res.All.ite h hbody))

theorem Closed.mxFault (k : Ctx) (cause : Nat) : (mxFault k cause s).All P := hP.faultAt h _ _

theorem Closed.mxTarget (k : Ctx) (b : Nat) (n : Geometry → Nat) {body : Geometry → Res} (hbody : ∀ g, (body g).All P) :
    (mxTarget k b n s body).All P := by
  unfold Machine.mxTarget
  split
  · exact hP.mxFault h _ _
  · exact Res.All.ite (hP.mxFault h _ _) (hbody _)

theorem Closed.mxPut (k : Ctx) (i : MxItem) : (mxPut k i s).All P := hP.modCrew h _ _

theorem Closed.mxAddr {k : Ctx} {a : Nat} {r : Res} (hr : mxAddr k s a = some r) : r.All P := by
  unfold Machine.mxAddr at hr
  split at hr
  · exact Option.some.inj hr ▸ hP.addrFault h _ _ _
  · split at hr
    · exact Option.some.inj hr ▸ hP.addrFault h _ _ _
    · cases hr

theorem Closed.mxwOp (f : KF) (k : Ctx) : (mxwOp f k s).All P := by
  unfold Machine.mxwOp
  dsimp only
  refine Closed.mxGate h k _ ?_
  refine hP.mxTarget h _ _ _ fun g => ?_
  split
  · exact hP.fmtFault h _ _ _
  · split
    next heq => exact hP.mxAddr h heq
    next => exact hP.mxPut h _ _

theorem Closed.mxscOp (f : KF) (k : Ctx) : (mxscOp f k s).All P := by
  refine Closed.mxGate h _ _ (hP.mxTarget h _ _ _ fun g => ?_)
  split
  next heq => exact hP.mxAddr h heq
  next => exact hP.mxPut h _ _

theorem Closed.mxzOp (f : KF) (k : Ctx) : (mxzOp f k s).All P :=
  Closed.mxGate h _ _ (hP.mxTarget h _ _ _ fun _ => hP.mxPut h _ _)

theorem Closed.mxcOp (f : KF) (k : Ctx) : (mxcOp f k s).All P :=
  Closed.mxGate h _ _ (hP.modWave (ite_keeps P (hP.modCrew h _ _) h) _ _)

theorem Closed.mxaOp (f : KF) (k : Ctx) : (mxaOp f k s).All P := by
  unfold Machine.mxaOp
  dsimp only
  refine Closed.mxGate h k _ ?_
  refine hP.mxTarget h _ _ _ fun g => ?_
  split
  · exact hP.fmtFault h _ _ _
  · obtain ⟨hs, herr⟩ := hP.wordAccess h k (k.wv.rdS (KF.A f)).toNat 64 useLoad .thru
    split
    next heq => exact herr _ (congrArg Prod.snd heq)
    next heq =>
      have hr := hP.readAt (keeps_of_fst hs heq) k 64 .thru
      exact Res.All.ite (hP.mxFault (hr _) _ _) (hP.mxPut (hr _) _ _)

theorem Closed.mxwaitOp (k : Ctx) : (mxwaitOp k s).All P := Res.All.ite h (Res.All.ite h (hP.acquire h _ _))

/-! ### Weight events and passes -/

theorem Closed.readSpan (cl asid va fuel n : Nat) : P (s.readSpan cl asid va fuel n).1 := by
  induction fuel generalizing s va n with
  | zero => exact h
  | succ fuel ih =>
    unfold State.readSpan
    refine ite_keeps_fst P h ?_
    dsimp only
    refine ite_keeps_fst P h ?_
    have hx := hP.xlatTile h asid va useLoad
    split
    next heq => exact keeps_of_fst hx heq
    next heq =>
      have hs := keeps_of_fst hx heq
      refine ite_keeps_fst P hs (ite_keeps_fst P hs ?_)
      have hq := fun l a b c => ih (hP.nodeLoad hs cl cl l a) b c
      split
      · exact hq _ _ _ _
      · exact hq _ _ _ _

theorem Closed.readMem (cl asid va n : Nat) : P (s.readMem cl asid va n).1 := hP.readSpan h _ _ _ _ _

theorem Closed.readSpans (cl asid : Nat) (l : List (Nat × Nat)) : P (s.readSpans cl asid l).1 := by
  induction l generalizing s with
  | nil => exact h
  | cons p l ih =>
    have hm := hP.readMem h cl asid p.1 p.2
    unfold State.readSpans
    split
    next heq => exact keeps_of_fst hm heq
    next heq =>
      have hl := ih (keeps_of_fst hm heq)
      split
      next heq' => exact keeps_of_fst hl heq'
      next heq' => exact keeps_of_fst hl heq'

theorem Closed.modMx (c : CrewId) (k : Nat) (f : MxItem → MxItem) : P (s.modMx c k f) := hP.modCrew h _ _

theorem Closed.parkMx (c : CrewId) (cl k : Nat) (i : MxItem) (e : Nat × Nat) : P (s.parkMx c cl k i e) :=
  hP.modMx (hP.raise h _ _) _ _ _

theorem Closed.applyEvent (c : CrewId) (k n : Nat) (f : MxCell → MxCell) : P (s.applyEvent c k n f) := hP.modCrew h _ _

theorem Closed.execWeightEventApply (c : CrewId) (k : Nat) : OutAll P (execWeightEventApply c k s) := by
  unfold Machine.execWeightEventApply
  refine OutAll.unlessFull ?_ _ _
  split
  · trivial
  next x _ =>
    split
    · refine OutAll.ite P trivial ?_
      have hm := hP.readMem h x.cluster (s.asidOf c)
      split
      · exact hP.applyEvent h _ _ _ _
      · split
        next heq => exact hP.parkMx (keeps_of_fst (hm _ _) heq) _ _ _ _ _
        next heq => exact hP.applyEvent (keeps_of_fst (hm _ _) heq) _ _ _ _
      · split
        next heq => exact hP.parkMx (keeps_of_fst (hm _ _) heq) _ _ _ _ _
        next heq => exact hP.applyEvent (keeps_of_fst (hm _ _) heq) _ _ _ _
      · trivial
    · trivial

theorem Closed.headTaken (c : CrewId) (k : Nat) (i : MxItem) (o : List Word × Fl) : P (s.headTaken c k i o) :=
  hP.modCrew h _ _

theorem Closed.passRead (cl asid : Nat) (g : Geometry) (d : List Dword) : P (passRead s cl asid g d).1 := by
  unfold Machine.passRead
  have hr := hP.readSpans h cl asid
  dsimp only
  split
  next heq => exact keeps_of_fst (hr _) heq
  next heq => exact keeps_of_fst (hr _) heq

theorem Closed.feedToken (c : CrewId) (i : Nat) (p : Place) (r : FireRef) (t : Option Tgt) (v : Dword) (err : Bool) :
    P (s.feedToken c i p r t v err) := by
  unfold State.feedToken
  split
  · exact hP.sendFlit h _ _
  · exact h

theorem Closed.readFeed (c : CrewId) (x : Crew) (k : Nat) (i : MxItem) (g : Geometry) (f : MxFeed) (fa : Word) :
    OutAll P (readFeed s c x k i g f fa) := by
  unfold Machine.readFeed
  split
  · dsimp only
    split
    · split
      · exact hP.feedToken (hP.headTaken (hP.modMc h _ _ _ _) _ _ _ _) _ _ _ _ _ _ _
      · exact hP.feedToken (hP.headTaken h _ _ _ _) _ _ _ _ _ _ _
    · split
      · exact hP.feedToken (hP.feedToken (hP.noteFault (hP.modCrew h _ _) _ _ _) _ _ _ _ _ _ _) _ _ _ _ _ _ _
      · trivial
  · trivial

theorem Closed.execColumnHeadRead (c : CrewId) (k : Nat) : OutAll P (execColumnHeadRead c k s) := by
  unfold Machine.execColumnHeadRead
  refine OutAll.unlessFull ?_ _ _
  split
  · trivial
  next x _ =>
    split
    next g _ _ =>
      refine OutAll.ite P trivial ?_
      split
      next d _ _ _ =>
        have hp := hP.passRead h x.cluster (s.asidOf c) g d
        refine OutAll.ite P trivial ?_
        split
        next heq => exact hP.parkMx (keeps_of_fst hp heq) _ _ _ _ _
        next heq => exact hP.headTaken (keeps_of_fst hp heq) _ _ _ _
      · exact hP.readFeed h _ _ _ _ _ _ _
      · trivial
    · trivial

theorem Closed.writeRows (c : CrewId) (cl k : Nat) (i : MxItem) (cout n r : Nat) :
    P (writeRows s c cl k i cout n r).1 := by
  induction n generalizing s r with
  | zero => exact h
  | succ n ih =>
    unfold Machine.writeRows
    refine ite_keeps_fst P h ?_
    have hstop := fun u f e (hu : P u) => hP.parkMx (hP.modMx hu c k f) c cl k i e
    dsimp only
    refine ite_keeps_fst P (hstop _ _ _ h) ?_
    have hx := hP.xlatTile h (s.asidOf c) (cout + 64 * r) useStore
    split
    next heq => exact hstop _ _ _ (keeps_of_fst hx heq)
    next heq =>
      have hs := keeps_of_fst hx heq
      exact ite_keeps_fst P (hstop _ _ _ hs) (ite_keeps_fst P (hstop _ _ _ hs)
        (ih (hP.homeWrite (hP.crewSees (hP.countRemote hs _ _) _ _ _) _ _) _))

theorem Closed.feedDone (c : CrewId) (x : Crew) (i : MxItem) (f : MxFeed) : P (feedDone s c x i f) := by
  unfold Machine.feedDone
  have hm := hP.modMc h c f.place f.mc
  dsimp only
  refine ite_keeps P (hm _) ?_
  split
  · exact hP.feedToken (hP.roundFlags (hm _) _ _ _ _ _) _ _ _ _ _ _ _
  · exact hP.roundFlags (hm _) _ _ _ _ _

theorem Closed.mxFlags (c : CrewId) (x : Crew) (i : MxItem) : P (s.mxFlags c x i) := by
  unfold State.mxFlags
  dsimp only
  split
  · exact hP.modWave (hP.undoPush h _ _ _) _ _
  · exact hP.modWave h _ _

theorem Closed.execPassComplete (c : CrewId) (k : Nat) : OutAll P (execPassComplete c k s) := by
  unfold Machine.execPassComplete
  refine OutAll.unlessFull ?_ _ _
  split
  · trivial
  next x _ =>
    split
    · trivial
    next i _ =>
      refine OutAll.ite P trivial ?_
      have hleave := fun u (hu : P u) => hP.modCrew hu c (fun x => { x with mx := x.mx.eraseIdx k })
      dsimp only
      split
      next d _ _ _ =>
        have hr := hP.writeRows h c x.cluster k i (d.getD 4 0).toNat 17 i.written
        split
        · exact hleave _ (hP.mxFlags hr _ _ _)
        · exact hr
      · exact hP.feedDone (hleave _ h) _ _ _ _
      · trivial

theorem Closed.mxNodeErr (n : NCF) (k : NCtx) (code : Nat) : (mxNodeErr n k code s).All P :=
  hP.both (hP.note h _ _) _ _ _ _ _

theorem Closed.mxjOp (n : NCF) (k : NCtx) : (mxjOp n k s).All P := by
  refine hP.pass h _ _ _ ?_
  dsimp only
  split
  · exact hP.mxNodeErr h _ _ _
  · refine NRes.All.ite (hP.mxNodeErr h _ _ _) (NRes.All.ite h ?_)
    split
    · exact hP.mxNodeErr h _ _ _
    · exact NRes.All.ite (hP.mxNodeErr h _ _ _) (NRes.All.ite h (hP.modCrew h _ _))

theorem Closed.mxoutOp (n : NCF) (k : NCtx) : (mxoutOp n k s).All P := by
  refine hP.pass h _ _ _ ?_
  dsimp only
  refine NRes.All.ite h ?_
  split
  · exact hP.mxNodeErr h _ _ _
  · exact NRes.All.ite h (NRes.All.ite (hP.mxNodeErr h _ _ _)
      (hP.both (hP.roundFlags (hP.modMc h _ _ _ _) _ _ _ _ _) _ _ _ _ _))

/-! ### Memory cells and generators -/

theorem Closed.mcOp (n : NCF) (held : NCtx → Bool) (same : Instr → Bool) (act : NCtx → MCell → McRes) (k : NCtx) :
    (mcOp n held same act k s).All P := by
  refine hP.pass h _ _ _ (NRes.All.ite h ?_)
  split
  · exact hP.both (hP.note h _ _) _ _ _ _ _
  · exact h
  · exact hP.both (hP.modMc h _ _ _ _) _ _ _ _ _

theorem Closed.agenOp (n : NCF) (k : NCtx) : (agenOp n k s).All P := by
  refine hP.pass h _ _ _ ?_
  have hr := hP.nodeFind h (s.asidOf k.c) k.rd.l.toNat 64 useLoad
  have hfail := fun u c e t v (hu : P u) => hP.send (hP.noteFault hu k.c c e) k t v true
  dsimp only
  split
  · have hq := fun l => hP.countMem (hP.nodeLoad hr k.x.cluster k.p.slice l 64) k.c (tagIter k.fr.tag) 2
    exact NRes.All.ite (hfail _ _ _ _ _ (hq _)) (NRes.All.ite (hfail _ _ _ _ _ (hq _)) (hP.send (hP.modMc (hq _) _ _ _ _) _ _ _ _))
  · split
    · exact hP.modPlace (hP.raise hr _ _) _ _ _
    · exact hfail _ _ _ _ _ hr

theorem Closed.genToken (c : CrewId) (i : Nat) (p : Place) (r : FireRef) (v : Dword) (err : Bool) :
    P (genToken s c i p r v err) := by
  unfold Machine.genToken
  split
  · exact hP.feedToken h _ _ _ _ _ _ _
  · exact h

theorem Closed.genFail (c : CrewId) (i mc gn : Nat) (p : Place) (g : Gen) (r : FireRef) (code va : Nat) :
    P (genFail s c i mc gn p g r code va) := by
  unfold Machine.genFail
  exact hP.modMc (hP.genToken (hP.noteFault h _ _ _) _ _ _ _ _ _) _ _ _ _

theorem Closed.execGeneratorStep (c : CrewId) (i mc gn : Nat) : OutAll P (execGeneratorStep c i mc gn s) := by
  unfold Machine.execGeneratorStep
  split
  · trivial
  next g _ =>
    split
    · trivial
    · refine OutAll.ite P trivial ?_
      have hr := fun u => hP.nodeFind h (s.asidOf c) (g.addr g.next) (2 ^ g.esz) u
      dsimp only
      split
      · split
        · exact hP.modMc (hP.nodeStore (hP.countMem (hr _) _ _ _) _ _ _ _) _ _ _ _
        · exact hP.modMc (hP.nodeLoad (hP.countMem (hr _) _ _ _) _ _ _ _) _ _ _ _
      · split
        · refine OutAll.unlessFull (o := .next _) ?_ _ _
          exact hP.modMc (hP.raise (hr _) _ _) _ _ _ _
        · exact hP.genFail (hr _) _ _ _ _ _ _ _ _ _

theorem Closed.execGeneratorDone (c : CrewId) (i mc gn : Nat) : OutAll P (execGeneratorDone c i mc gn s) := by
  unfold Machine.execGeneratorDone
  split
  · trivial
  · split
    · trivial
    · exact OutAll.ite P (hP.modMc (hP.genToken h _ _ _ _ _ _) _ _ _ _) trivial

theorem Closed.mcwaitRecords (c : CrewId) (p : Place) (rs : List Ready) : P (mcwaitRecords s c p rs) := by
  unfold Machine.mcwaitRecords
  refine foldl_keeps P (fun t r ht => ?_) _ h
  split
  · exact hP.nodeFault ht _ _ _ _ _ _ _
  · exact ht

theorem Closed.execPaddockQuiescent (c : CrewId) (paddock : Nat) : OutAll P (execPaddockQuiescent c paddock s) := by
  unfold Machine.execPaddockQuiescent
  split
  · split
    · trivial
    · refine OutAll.ite P trivial ?_
      dsimp only
      split
      · exact hP.mcwaitRecords (hP.raise h _ _) _ _ _
      · refine OutAll.ite P trivial ?_
        exact hP.mcwaitRecords h _ _ _
  · trivial

end

end Sys2Proof.Machine
end

section
/-! PROOFS. What the words of control flow keep, and the fabric's places, loads and operations. -/

namespace Sys2Proof.Machine

def Attempt.All (P : State → Prop) : Attempt → Prop
  | .over _ t => P t
  | .begun t => P t
  | .blocked o => OutAll P o

section
variable {P : State → Prop}

theorem Attempt.All.ite {c : Prop} [Decidable c] {r q : Attempt} (hr : r.All P) (hq : q.All P) :
    (if c then r else q).All P := by
  split
  · exact hr
  · exact hq

variable (hP : Closed P) {s : State} (h : P s)
include hP

/-! ### Control flow -/

theorem Closed.memPut {m : Memory} (hm : P { s with mem := m }) (a : Nat) (bs : List Byte) :
    P { s with mem := Memory.put m a bs } := hP.mem hm _ _

theorem Closed.spillKeep (size base n : Nat) (old new : Nat → Nat) {m : Memory} (hm : P { s with mem := m }) :
    P { s with mem := spillKeep size base n old new m } := by
  refine List.foldlRecOn (motive := fun m => P { s with mem := m }) _ _ hm fun m hm i _ => ?_
  split
  · exact hm
  · exact hP.memPut hm _ _

theorem Closed.spillGo (core n size base : Nat) (at_ : Nat → Nat) (depth fuel sp : Nat) {m : Memory} (hm : P { s with mem := m }) :
    P { s with mem := (spillGo core n size base at_ depth fuel sp m).2 } := by
  induction fuel generalizing sp m with
  | zero => exact hm
  | succ fuel ih =>
    unfold Machine.spillGo
    split
    · exact ih _ (List.foldlRecOn (motive := fun m => P { s with mem := m }) _ _ hm fun m hm i _ => hP.memPut hm _ _)
    · split
      · exact ih _ hm
      · exact hm

include h

theorem Closed.respill (c : Crew) (w : WaveId) (x : Wave) : P (s.respill c w x) := by
  unfold State.respill
  exact hP.setWave (hP.spillGo _ _ _ _ _ _ _ _ (hP.spillGo _ _ _ _ _ _ _ _ (hP.spillKeep _ _ _ _ _ (hP.spillKeep _ _ _ _ _ h)))) _ _

theorem Closed.stackFault (k : Ctx) (cause : Nat) : (stackFault k cause s).All P := hP.faultAt h _ _

theorem Closed.illegalRes (k : Ctx) : (illegalRes k s).All P := hP.illegal h _

theorem Closed.go (k : Ctx) (x : Wave) : (go k s x).All P := Res.All.ite (hP.respill h _ _ _) (hP.illegalRes h _)

theorem Closed.branchLanes (k : Ctx) (x : Wave) (t target : Word) (ok : Bool) : (branchLanes k s x t target ok).All P :=
  Res.All.ite (hP.illegalRes h _) (Res.All.ite (hP.illegalRes h _) (Res.All.ite (hP.stackFault h _ _) (hP.go h _ _)))

theorem Closed.branchAll (k : Ctx) (x : Wave) (taken : Bool) (target : Word) (ok : Bool) :
    (branchAll k s x taken target ok).All P :=
  Res.All.ite (Res.All.ite (Res.All.ite (hP.go h _ _) (hP.illegalRes h _)) (hP.go h _ _)) (hP.branchLanes h _ _ _ _ _)

theorem Closed.brOp (f : BF) (k : Ctx) : (brOp f k s).All P := hP.branchAll h _ _ _ _ _

theorem Closed.brmOp (f : BF) (k : Ctx) : (brmOp f k s).All P := hP.branchLanes h _ _ _ _ _

theorem Closed.brsOp (f : BF) (k : Ctx) : (brsOp f k s).All P := hP.branchLanes h _ _ _ _ _

theorem Closed.loopOp (f : BF) (k : Ctx) : (loopOp f k s).All P := hP.branchAll h _ _ _ _ _

theorem Closed.rcvOp (f : BF) (k : Ctx) : (rcvOp f k s).All P := Res.All.ite (hP.stackFault h _ _) (hP.go h _ _)

theorem Closed.joinOp (k : Ctx) : (joinOp k s).All P := by
  unfold Machine.joinOp
  dsimp only
  split
  · refine Res.All.ite (hP.stackFault h _ _) ?_
    split
    · exact hP.go h _ _
    · exact hP.go h _ _
  · exact hP.stackFault h _ _

theorem Closed.callTo (k : Ctx) (target : Word) (ok : Bool) : (callTo k s target ok).All P :=
  Res.All.ite (hP.illegalRes h _) (Res.All.ite (hP.stackFault h _ _) (hP.go h _ _))

theorem Closed.callxOp (f : KF) (k : Ctx) : (callxOp f k s).All P :=
  Res.All.ite (hP.illegalRes h _) (Res.All.ite (hP.go h _ _) (Res.All.ite (hP.illegalRes h _)
    (Res.All.ite (hP.stackFault h _ _) (Res.All.ite (hP.stackFault h _ _) (hP.go h _ _)))))

theorem Closed.jmpxOp (f : KF) (k : Ctx) : (jmpxOp f k s).All P := by
  refine Res.All.ite (hP.illegalRes h _) (Res.All.ite (hP.illegalRes h _) ?_)
  dsimp only
  split
  · exact hP.go h _ _
  · exact Res.All.ite (hP.stackFault h _ _) (hP.go h _ _)

theorem Closed.retOp (k : Ctx) : (retOp k s).All P := by
  unfold Machine.retOp
  dsimp only
  split
  · exact hP.stackFault h _ _
  · refine Res.All.ite (hP.stackFault h _ _) (Res.All.ite ?_ (hP.go h _ _))
    split
    · exact Res.All.ite (hP.go h _ _) (Res.All.ite (hP.go h _ _) (hP.go h _ _))
    · exact hP.stackFault h _ _

theorem Closed.yieldOp (k : Ctx) : (yieldOp k s).All P := hP.respill h _ _ _

theorem Closed.prefiOp (f : BF) (k : Ctx) : P (prefiOp f k s) := ite_keeps P (hP.fetchLine h _ _ _) h

theorem Closed.ifenceOp (k : Ctx) : (ifenceOp k s).All P := Res.All.ite h (hP.modCluster h _ _)

/-! ### Places, loads and drains -/

theorem Closed.deliverParks (c : CrewId) (i : Nat) (pick : Park → Bool) : P (s.deliverParks c i pick) := hP.modCrew h _ _

theorem Closed.startRows (slice bay : Nat) : P (s.startRows slice bay) := hP.modCluster h _ _

theorem Closed.endDrains (c : CrewId) (i : Nat) : P (s.endDrains c i) := hP.modCrew h _ _

theorem Closed.endLoad (c : CrewId) (i pad : Nat) : P (s.endLoad c i pad) := hP.modCrew h _ _

theorem Closed.execPaddockLoadComplete (c : CrewId) (i : Nat) : OutAll P (execPaddockLoadComplete c i s) := by
  unfold Machine.execPaddockLoadComplete
  split
  · split
    · refine OutAll.ite P trivial ?_
      have ht := fun g sl b pick => hP.deliverParks (hP.startRows (hP.modPlace h c i g) sl b) c i pick
      exact hP.endLoad (ite_keeps P (hP.sendFlit (ht _ _ _ _) _ _) (ht _ _ _ _)) _ _ _
    · trivial
  · trivial

theorem Closed.exitPaddock (c : CrewId) (i : Nat) (p : Place) : P (s.exitPaddock c i p) :=
  hP.endDrains (hP.modCrew (hP.modPlace h _ _ _) _ _) _ _

theorem Closed.passCell (c : CrewId) (i cell : Nat) (p : Place) : OutAll P (passCell s c i cell p) := by
  unfold Machine.passCell
  have ht := fun f => hP.modPlace h c i f
  have hgo := fun t (ht : P t) passed => ite_keeps P (c := (passed == BitVec.allOnes 16) = true) (hP.exitPaddock ht c i p) ht
  dsimp only
  split
  · exact hP.orWait (hP.secureCell (ht _) _ _ _ _ _) (fun t ht => hgo t ht _) h
  · exact hgo _ (ht _) _

theorem Closed.execCellPass (c : CrewId) (i cell : Nat) : OutAll P (execCellPass c i cell s) := by
  unfold Machine.execCellPass
  split
  · split
    · exact OutAll.ite P trivial (OutAll.ite P trivial (OutAll.ite P trivial (OutAll.ite P trivial
        (OutAll.ite P trivial (hP.passCell h _ _ _ _)))))
    · trivial
  · trivial

theorem Closed.execPaddockSwapOut (c : CrewId) (i : Nat) : OutAll P (execPaddockSwapOut c i s) := by
  unfold Machine.execPaddockSwapOut
  split
  · split
    · split
      · refine OutAll.ite P trivial ?_
        dsimp only
        split
        · exact OutAll.unlessFull (hP.bwFault h _ _ _ _ _ _ _ _ _ _) _ _
        · exact hP.modPlace h _ _ _
      · trivial
    · trivial
  · trivial

theorem Closed.resumeAt (c : CrewId) (i : Nat) (spot : Nat × Nat × Nat) (prio : Nat) : P (s.resumeAt c i spot prio) :=
  hP.deliverParks (hP.startRows (hP.modPlace (hP.setCeils h _ _) _ _ _) _ _) _ _ _

theorem Closed.fillFreed (c : CrewId) (x : Crew) (kn : Kernel) (args : Memory) (pad : Nat) (v : Nat × Place) :
    OutAll P (fillFreed s c x kn args pad v) := by
  unfold Machine.fillFreed
  split
  · exact hP.configRecord h _ _ _ _ _
  · split
    · exact hP.resumeAt (hP.modPlace (hP.modCrew h _ _) _ _ _) _ _ _ _
    · have ha := hP.acceptLoad h c kn v.1 pad 0
      split
      next heq =>
        rw [heq] at ha
        exact hP.acceptNotes ha _ _ _ _ _ _
      · trivial

theorem Closed.makeWay (c : CrewId) (x : Crew) (r : Region) (j : Nat) (spot : Nat × Nat × Nat) :
    P (s.makeWay c x r j spot) := by
  unfold State.makeWay
  exact hP.modCrew (hP.setCeils (hP.modCrew h _ _) _ _) _ _

theorem Closed.loadVacant (c : CrewId) (x : Crew) (r : Region) (kn : Kernel) (args : Memory) (j pad : Nat)
    (spot : Nat × Nat × Nat) : OutAll P (loadVacant s c x r kn args j pad spot) := by
  have ha := hP.acceptLoad (hP.makeWay h c x r j spot) c kn j pad 0
  unfold Machine.loadVacant
  split
  next heq =>
    rw [heq] at ha
    exact hP.acceptNotes ha _ _ _ _ _ _
  · trivial

theorem Closed.resumeIn (c : CrewId) (x : Crew) (r : Region) (kn : Kernel) (args : Memory) (pad slice bay ctx : Nat) :
    OutAll P (resumeIn s c x r kn args pad slice bay ctx) := by
  unfold Machine.resumeIn
  have hu {go : State → Out} (hgo : ∀ t, P t → OutAll P (go t)) : OutAll P ((secureCells slice bay 8 computeCells s).orWait s go) :=
    hP.orWait (hP.secureCells h _ _ _ _) hgo h
  dsimp only
  split
  · split
    · exact hP.configRecord h _ _ _ _ _
    · refine OutAll.ite P (hu fun t ht => hP.resumeAt ht _ _ _ _) ?_
      split
      · exact OutAll.ite P (hu fun t ht => hP.resumeAt (hP.modCrew ht _ _) _ _ _ _) trivial
      · exact hu fun t ht => hP.resumeAt ht _ _ _ _
  · refine OutAll.ite P trivial ?_
    split
    · exact hP.configRecord h _ _ _ _ _
    · split
      · trivial
      · exact OutAll.ite P (hu fun t ht => hP.loadVacant ht _ _ _ _ _ _ _ _) trivial

theorem Closed.execPaddockResume (c : CrewId) (pad slice bay : Nat) : OutAll P (execPaddockResume c pad slice bay s) := by
  unfold Machine.execPaddockResume
  split
  · split
    · split
      · exact OutAll.ite P trivial (OutAll.unlessFull (hP.fillFreed h _ _ _ _ _ _) _ _)
      · split
        · trivial
        · exact OutAll.ite P trivial (OutAll.unlessFull (hP.resumeIn h _ _ _ _ _ _ _ _ _) _ _)
    · trivial
  · trivial

/-! ### The operations of class 7 -/

theorem Closed.freqTry (c : CrewId) (x : Crew) (n : Dword) (loc : Bool) : (freqTry c x n loc s).All P := by
  have hg := hP.grant h c x n.toNat loc false
  refine Attempt.All.ite h (Attempt.All.ite h ?_)
  split
  next heq =>
    rw [heq] at hg
    exact hg
  · exact h
  next heq =>
    rw [heq] at hg
    exact hg

theorem Closed.frelStatus (c : CrewId) (x : Crew) (n : Dword) : P (frelStatus c x n s).2 := by
  unfold Machine.frelStatus
  split
  · exact ite_keeps_snd P h (ite_keeps_snd P h (hP.modCrew h _ _))
  · exact h

theorem Closed.clearPlace (c : CrewId) (x : Crew) (r : Region) (b : Nat) (p : Place) {go : State → Attempt}
    (hgo : ∀ t, P t → (go t).All P) : (s.clearPlace c x r b p go).All P := by
  unfold State.clearPlace
  refine Attempt.All.ite ?_ (hgo _ h)
  split
  · trivial
  next spot _ =>
    have hs := hP.secureCells h spot.1 spot.2.1 8 computeCells
    split
    next heq =>
      rw [heq] at hs
      exact hgo _ (hP.makeWay hs _ _ _ _ _)
    · exact hP.bwOwn h _ _ _
    · trivial

theorem Closed.fcfgTry (c : CrewId) (x : Crew) (a b edge : Dword) : (fcfgTry c x a b edge s).All P := by
  unfold Machine.fcfgTry
  split
  · split
    next kn _ _ _ =>
      refine Attempt.All.ite h (Attempt.All.ite h ?_)
      split
      · exact hP.configRecord h _ _ _ _ _
      · refine hP.clearPlace h _ _ _ _ _ fun t ht => ?_
        have ha := hP.acceptLoad ht c kn b.toNat a.toNat edge
        split
        next heq =>
          rw [heq] at ha
          exact hP.acceptNotes ha _ _ _ _ _ _
        · exact h
    · exact h
  · exact h

theorem Closed.drainStart {c : CrewId} {gang wave : Nat} {spot : Spot} {x : Crew} {b : Dword} {q : Bool × State}
    (hq : drainStart c gang wave spot x b s = some q) : P q.2 := by
  unfold Machine.drainStart at hq
  split at hq
  · cases hq
  · split at hq
    · exact Option.some.inj hq ▸ hP.modPlace h _ _ _
    · split at hq
      · cases hq
      · split at hq
        · exact Option.some.inj hq ▸ h
        · exact Option.some.inj hq ▸ hP.sendFlit (hP.modPlace h _ _ _) _ _

theorem Closed.fmodeStatus (c : CrewId) (x : Crew) (b : Dword) (sys : Bool) : P (fmodeStatus c x b sys s).2 := by
  unfold Machine.fmodeStatus
  split
  · refine ite_keeps_snd P h (ite_keeps_snd P h (ite_keeps_snd P h ?_))
    exact hP.modCrew (ite_keeps P (hP.startRows (hP.modPlace h _ _ _) _ _) (hP.modPlace h _ _ _)) _ _
  · exact h

theorem Closed.setPrio (c : CrewId) (n : Nat) : P (s.setPrio c n) := hP.modRegion h _ _

theorem Closed.attempt (o : FOp) (c : CrewId) (x : Crew) (spot : Spot) : (o.attempt c x spot s).All P := by
  unfold FOp.attempt
  dsimp only
  split
  · exact hP.freqTry h _ _ _ _
  · exact hP.frelStatus h _ _ _
  · exact Attempt.All.ite (Attempt.All.ite h trivial) (hP.fcfgTry h _ _ _ _ _)
  · refine Attempt.All.ite (Attempt.All.ite h trivial) ?_
    split
    next heq => exact hP.drainStart h heq
    · exact h
  · exact h
  · exact hP.fmodeStatus h _ _ _ _
  · exact hP.setPrio h _ _

theorem Closed.execFabricOpComplete (w : WaveId) : OutAll P (execFabricOpComplete w s) := by
  unfold Machine.execFabricOpComplete
  split
  next x _ =>
    split
    · trivial
    next o _ =>
      have ha := hP.attempt h o.2 w.crew x noSpot
      refine OutAll.unlessFull ?_ _ _
      split
      next heq =>
        rw [heq] at ha
        exact OutAll.ite P trivial (hP.modWave (hP.modCrew ha _ _) _ _)
      next heq =>
        rw [heq] at ha
        exact hP.modCrew ha _ _
      next heq =>
        rw [heq] at ha
        exact ha
  · trivial

theorem Closed.fopOp (f : KF) (kind : FKind) (k : Ctx) : P (fopOp f kind k s) := by
  unfold Machine.fopOp
  have hadd := fun u (hu : P u) g => hP.modCrew hu k.w.crew g
  dsimp only
  split
  · exact h
  next x _ =>
    have ha := fun o => hP.attempt h o k.w.crew x (k.spot s)
    split
    · split
      next heq =>
        have hb := ha ⟨k.w.gang, k.w.wave, KF.D f, kind, false, false, 0⟩
        rw [heq] at hb
        exact ite_keeps P (hadd _ h _) (hadd _ hb _)
      · exact hadd _ h _
    · exact hadd _ h _

theorem Closed.fprioOp (f : KF) (k : Ctx) : P (fprioOp f k s) := by
  refine ite_keeps P ?_ h
  split
  · exact hP.fopOp h _ _ _
  · exact hP.setPrio h _ _

theorem Closed.fsendOne (f : KF) (k : Ctx) (n e : Nat) : P (fsendOne f k n s e) := by
  unfold Machine.fsendOne
  split
  · exact h
  · exact hP.sendFlit (hP.newAct (hP.modCrew (hP.newId h _) _ _) _ _ _ _ _ _ _) _ _

theorem Closed.fsendOp (f : KF) (k : Ctx) : (fsendOp f k s).All P := by
  unfold Machine.fsendOp
  have hgo := fun u (hu : P u) l => foldl_keeps P (f := Machine.fsendOne f k (opS f k.wv).toNat)
    (fun _ _ h => hP.fsendOne h _ _ _ _) l hu
  exact Res.All.ite (hgo _ h _) (Res.All.ite h (Res.All.ite (hgo _ (hP.fresh h) _) (hP.faultAt (hP.fresh h) _ _)))

theorem Closed.frecvOp (f : KF) (k : Ctx) : P (frecvOp f k s) := foldl_keeps P (fun _ _ h => hP.modWave h _ _) _ h

end

end Sys2Proof.Machine
end

section
/-! PROOFS. What arrival at a point keeps, the end of rounds and of stops, and reading a kernel's image. -/

namespace Sys2Proof.Machine

section
variable {P : State → Prop} (hP : Closed P) {s : State} (h : P s)
include hP h

/-! ### Points and the gait monitor -/

theorem Closed.gctxFault (k : GCtx) (cause n : Nat) : P (k.fault s cause n) := hP.gctxRaise h _ _

theorem Closed.closeInterval (i : GangId) (n : Nat) : P (closeInterval i n s) := by
  unfold Machine.closeInterval
  split
  · exact h
  · dsimp only
    split
    · exact hP.modGang h _ _
    · split
      · exact hP.modGang (hP.devWrite h _ _ _ _) _ _
      · exact hP.modGang h _ _

theorem Closed.rejoin (k : GCtx) (n : Nat) : P (rejoin k n s) := by
  unfold Machine.rejoin
  have hr := fun b js => ite_keeps P (c := (k.g.form == 2 || k.g.slots) = true) h (hP.readSlots h k b n js)
  exact hP.modGang (ite_keeps P (hP.putM7 (hr _ _) _ _ _) (hr _ _)) _ _

theorem Closed.undoMark (k : GCtx) (n : Nat) : P (undoMark k n s) := ite_keeps P (hP.undoPush h _ _ _) h

theorem Closed.waitAt (k : GCtx) (n : Nat) : P (waitAt k n s) := by
  unfold Machine.waitAt
  dsimp only
  split
  · exact hP.eachWave h _ _
  · exact hP.modWave h _ _
  · exact h

theorem Closed.pointBreaks (k : GCtx) (n : Nat) : P (pointBreaks k n s) := ite_keeps P h (hP.fireBreak h _ _ _ _)

theorem Closed.reach (i : GangId) (n : Nat) : P (s.reach i n) := by
  unfold State.reach
  split
  · exact h
  next k _ =>
    refine ite_keeps P (hP.gctxFault h _ _ _) ?_
    split
    · exact hP.eccFault h _ _ _
    · exact hP.pointBreaks (hP.undoMark (hP.keepVals (hP.waitAt (hP.modGang (hP.closeInterval
        (ite_keeps P (hP.rejoin h _ _) (hP.modGang h _ _)) _ _) _ _) _ _) _ _ _) _ _) _ _

theorem Closed.rendezvous (i : GangId) : P (s.rendezvous i) := by
  unfold State.rendezvous
  split
  · exact h
  · refine ite_keeps P h ?_
    dsimp only
    split
    · split
      · exact ite_keeps P h (hP.reach h _ _)
      · exact h
    · split
      · exact ite_keeps P (hP.reach h _ _) h
      · exact ite_keeps P (hP.reach h _ _) h
      · exact h

theorem Closed.eqvFault (k : Ctx) (cause : Nat) : (eqvFault k cause s).All P := hP.faultAt h _ _

theorem Closed.runEnd (k : GCtx) (r : Serial) (m : Nat) : P (runEnd k r m s) := by
  unfold Machine.runEnd
  dsimp only
  split
  · exact hP.eccFault h _ _ _
  · have hw : ∀ el, P ((k.kn.entries m).foldl (fun s e =>
        s.devWrite k.l.asid (k.g.slotVa r.run e.slot) 8 (locGet s k true e r.run el).toNat) s) :=
      fun el => foldl_keeps P (fun _ _ h => hP.devWrite h _ _ _ _) _ h
    split
    · exact hP.startRun (hP.modGang (hw _) _ _) _ _ _ _
    · exact hP.reach (hP.modGang (hw _) _ _) _ _

theorem Closed.arrive (k : Ctx) (gk : GCtx) (n : Nat) : P (arrive k gk n s) := by
  unfold Machine.arrive
  split
  · split
    · exact hP.runEnd h _ _ _
    · exact hP.reach h _ _
  · have hs := fun f g => hP.modGang (hP.modWave h k.w f) k.gid g
    exact ite_keeps P (hP.reach (hs _ _) _ _) (hs _ _)

theorem Closed.eqpOp (f : KF) (k : Ctx) : (eqpOp f k s).All P := by
  unfold Machine.eqpOp
  dsimp only
  split
  · have ht := ite_keeps P (c := k.g.due.isSome = true) (hP.tryDecide h k.gid) h
    exact Res.All.ite ht ht
  · refine Res.All.ite (hP.eqvFault h _ _) (Res.All.ite (hP.eqvFault h _ _) (Res.All.ite (hP.eqvFault h _ _)
      (Res.All.ite h (Res.All.ite h ?_))))
    split
    · have ht := fun gk n => hP.arrive (hP.countIssue h (.eqp f) k s) k gk n
      exact Res.All.ite (hP.illegalRes h _) (Res.All.ite h (ht _ _))
    · exact h

theorem Closed.exitAll (k : Ctx) : P (exitAll k s) := by
  unfold Machine.exitAll
  exact hP.modGang (hP.each h _ _) _ _

theorem Closed.exitEnds (f : KF) (k : Ctx) {t : State} (ht : P t) (retires : Bool) : (exitEnds f k s t retires).All P := by
  unfold Machine.exitEnds
  have hu := hP.settle (hP.countIssue ht (.exit f) k s) k
  exact Res.All.ite h (hP.rendezvous (ite_keeps P (hP.released hu _) hu) _)

theorem Closed.exitOp (f : KF) (k : Ctx) : (exitOp f k s).All P := by
  unfold Machine.exitOp
  exact Res.All.ite (hP.exitEnds h _ _ (hP.exitAll h _) _) (Res.All.ite (hP.exitEnds h _ _ (hP.setWave h _ _) _)
    (Res.All.ite (hP.go h _ _) (hP.go h _ _)))

theorem Closed.gaitTab (f : KF) (k : Ctx) : P (gaitTab f k s).2 := ite_keeps_snd P h (hP.devRead h _ _ _)

theorem Closed.gaitrVal (f : KF) (k : Ctx) : P (gaitrVal f k s) := by
  unfold Machine.gaitrVal
  refine hP.modWave ?_ _ _
  split
  case h_8 => exact hP.gaitTab h _ _
  all_goals exact h

theorem Closed.gaitrOp (f : KF) (k : Ctx) : (gaitrOp f k s).All P := by
  unfold Machine.gaitrOp
  split
  · exact hP.faultAt h _ _
  · exact hP.gaitrVal h _ _

/-! ### The end of a round -/

theorem Closed.exitIteration (c : CrewId) (kj : Nat) : P (exitIteration s c kj) := hP.modSaved h _ _ _

theorem Closed.arriveSpatial (c : CrewId) (kj n : Nat) : P (arriveSpatial s c kj n) := by
  unfold Machine.arriveSpatial
  dsimp only
  split
  · exact h
  · exact ite_keeps P (hP.gctxRaise h _ _) (hP.modGang h _ _)

theorem Closed.afterCommit (c : CrewId) (r : Round) : P (afterCommit s c r) := by
  refine ite_keeps P h ?_
  dsimp only
  split
  · exact hP.tryDecide (hP.rendezvous (hP.arriveSpatial h _ _ _) _) _
  · exact hP.tryDecide (hP.rendezvous (hP.exitIteration h _ _) _) _

theorem Closed.commitRest (c : CrewId) (r : Round) : P (commitRest s c r) := by
  unfold Machine.commitRest
  exact hP.afterCommit (hP.modRound (hP.modCrew (hP.modSaved h _ _ _) _ _) _ _ _) _ _

theorem Closed.commitErrors (c : CrewId) (r : Round) : P (commitErrors s c r) := by
  unfold Machine.commitErrors
  exact hP.modRound (foldl_keeps P (fun _ _ h => hP.raise h _ _) _ h) _ _ _

theorem Closed.endStop (a : Nat) : P (s.endStop a) := ite_keeps P (hP.stopJob h _) h

theorem Closed.execRoundCommit (c : CrewId) (k : Nat) : OutAll P (execRoundCommit c k s) := by
  unfold Machine.execRoundCommit
  split
  next x _ _ _ =>
    split
    · trivial
    next r _ =>
      refine OutAll.ite P trivial (OutAll.ite P trivial (OutAll.ite P trivial (OutAll.ite P
        (OutAll.ite P (hP.commitErrors h _ _) trivial) (OutAll.ite P trivial (OutAll.ite P trivial (OutAll.unlessFull ?_ _ _))))))
      have hp := hP.performStores h c r.paddock (x.heldStores r.paddock r.id)
      split
      next heq =>
        rw [heq] at hp
        exact hp
      next heq =>
        rw [heq] at hp
        exact hP.endStop (hP.commitRest hp _ _) _
  · trivial

theorem Closed.takeResult (c : CrewId) (k : Nat) (w : WaveId) (wv : Wave) (q : Nat × Recv) (value : Dword) :
    P (s.takeResult c k w wv q value) := hP.modCrew (hP.setWave h _ _) _ _

theorem Closed.execResultDeliver (c : CrewId) (k : Nat) : OutAll P (execResultDeliver c k s) := by
  unfold Machine.execResultDeliver
  split
  · trivial
  next x _ =>
    split
    · trivial
    · refine OutAll.ite P trivial (OutAll.ite P trivial ?_)
      dsimp only
      split
      · trivial
      · split
        · trivial
        · have ht := fun w y q v => hP.dropL1 (hP.takeResult h c k w y q v) x.cluster
          split
          · exact hP.faultAt (ht _ _ _ _) _ _
          · exact OutAll.ite P trivial (hP.pushRegs (ht _ _ _ _) _ _ _ _)

/-! ### Restarts and the end of a stop -/

theorem Closed.refillSlots (k : GCtx) (n : Nat) (js : List Nat) : P (refillSlots k n js s) := by
  unfold Machine.refillSlots
  exact foldl_keeps P (fun _ _ h => foldl_keeps P (fun _ _ h => hP.devWrite h _ _ _ _) _ h) _ h

theorem Closed.keepHeld (k : GCtx) (n : Nat) (js : List Nat) : P (keepHeld k n js s) := hP.modGang (hP.pointVals h _ _ _) _ _

theorem Closed.rewind (i : GangId) (n : Nat) : P (rewind i n s) := by
  unfold Machine.rewind
  split
  · exact h
  · refine ite_keeps P h ?_
    dsimp only
    split
    · exact hP.waitAt (hP.modCrew (hP.eachWave (hP.eccFault h _ _ _) _ _) _ _) _ _
    · exact hP.waitAt (hP.modCrew (hP.eachWave (hP.refillSlots h _ _ _) _ _) _ _) _ _

theorem Closed.restartGang (i : GangId) (m : BitVec 256) : P (restartGang i m s) := by
  unfold Machine.restartGang
  split
  · exact h
  · split
    · exact h
    next n _ =>
      have hr := hP.rewind h i n
      dsimp only
      split
      · exact hP.tryDecide (hP.modGang (hP.keepHeld hr _ _ _) _ _) _
      · exact hP.tryDecide (hP.modGang hr _ _) _

theorem Closed.stopCrew (c : CrewId) (again : Bool) : P (stopCrew c again s) := by
  unfold Machine.stopCrew
  split
  · exact h
  · have hs := fun f => hP.modCrew h c f
    exact ite_keeps P (foldl_keeps P (fun _ _ h => ite_keeps P h (hP.restartGang h _ _)) _ (hs _)) (hs _)

theorem Closed.execPreciseStop (asid : Nat) : OutAll P (execPreciseStop asid s) := by
  unfold Machine.execPreciseStop
  dsimp only
  exact OutAll.ite P trivial (foldl_keeps P (fun _ _ h => hP.stopCrew h _ _) _ h)

/-! ### Reading an image -/

theorem Closed.vaDw (asid va : Nat) : P (s.vaDw asid va).1 := by
  have hd := hP.devAt h asid va 8 useLoad
  unfold State.vaDw
  split
  next heq => exact keeps_of_fst hd heq
  next heq => exact keeps_of_fst hd heq

theorem Closed.vaDws (asid va n : Nat) : P (s.vaDws asid va n).1 := by
  induction n generalizing s va with
  | zero => exact h
  | succ n ih =>
    have hd := hP.vaDw h asid va
    unfold State.vaDws
    split
    next heq => exact ih (keeps_of_fst hd heq) _
    next heq => exact keeps_of_fst hd heq

theorem Closed.sections (asid image : Nat) (l : List (Dword × Dword)) : P (s.sections asid image l).1 := by
  induction l generalizing s with
  | nil => exact h
  | cons e l ih =>
    have hd := fun n => hP.vaDws h asid (image + e.2.toNat) n
    unfold State.sections
    dsimp only
    split
    next heq => exact ih (keeps_of_fst (hd _) heq)
    next heq => exact keeps_of_fst (hd _) heq

theorem Closed.readImage (l : Launch) : P (s.readImage l).1 := by
  have hh := hP.vaDws h l.asid (fld (l.dw 0) 54 0) 8
  unfold State.readImage
  dsimp only
  split
  next heq => exact keeps_of_fst hh heq
  next d heq =>
    have hs := keeps_of_fst hh heq
    refine ite_keeps_fst P hs ?_
    have hd := hP.vaDws hs l.asid (fld (l.dw 0) 54 0 + 64) (2 * fld (d.getD 0 0) 63 48)
    split
    next heq' => exact keeps_of_fst hd heq'
    next heq' =>
      have hs' := keeps_of_fst hd heq'
      exact ite_keeps_fst P hs' (hP.sections hs' _ _ _)

end

end Sys2Proof.Machine
end

section
/-! PROOFS. What launches keep from their counters to their end, and the steps of firmware on jobs and crews. -/

namespace Sys2Proof.Machine

def Placed.All (P : State → Prop) : Placed → Prop
  | .no _ => True
  | .failed t => P t
  | .done t => P t

section
variable {P : State → Prop}

theorem Placed.All.ite {c : Prop} [Decidable c] {r q : Placed} (hr : r.All P) (hq : q.All P) :
    (if c then r else q).All P := by
  split
  · exact hr
  · exact hq

theorem keeps_of_some {o : Option State} {t : State} (ho : OptAll P o) (heq : o = some t) : P t := by
  rwa [heq] at ho

theorem keeps_of_ok {r : Given} {t : State} (hr : r.All P) (heq : r = .ok t) : P t := by
  rwa [heq] at hr

theorem keeps_of_refused {r : Given} {t : State} (hr : r.All P) (heq : r = .refused t) : P t := by
  rwa [heq] at hr

variable (hP : Closed P) {s : State} (h : P s)
include hP h

/-! ### Launches -/

theorem Closed.launchMemory (l asid cause va : Nat) : P (s.launchMemory l asid cause va).1 := hP.raise h _ _

theorem Closed.launchFault (l asid aux : Nat) : P (s.launchFault l asid aux) := hP.raise h _ _

theorem Closed.settleLaunch (l : Nat) : P (s.settleLaunch l) := by
  unfold State.settleLaunch
  exact foldl_keeps P (fun _ _ h => hP.performPicked h _ _) _ h

theorem Closed.dropLaunch (n : Nat) : P { s with launches := Tab.drop s.launches n } :=
  hP.names h ⟨rfl, rfl, .refl _, .refl _, .refl _, List.filter_sublist.map _⟩

theorem Closed.retireLaunch (n : Nat) (l : Launch) : P (s.retireLaunch n l) := by
  have hs := hP.settleLaunch h n
  have hd := hP.devAt hs l.asid (l.dw 13).toNat 8 useStore
  unfold State.retireLaunch
  dsimp only
  refine ite_keeps P (hP.dropLaunch hs _) ?_
  split
  next heq => exact hP.dropLaunch (hP.homeWrite (keeps_of_fst hd heq) _ _) _
  next heq =>
    have ht := keeps_of_fst hd heq
    split
    · exact hP.setLaunch (hP.launchMemory ht _ _ _ _) _ _
    · exact hP.setLaunch (hP.raise ht _ _) _ _

theorem Closed.readPrereqs (asid : Nat) (l : List (Nat × Nat)) : P (readPrereqs asid l s).1 := by
  induction l generalizing s with
  | nil => exact h
  | cons p l ih =>
    have hd := hP.devAt h asid p.1 8 useLoad
    unfold Machine.readPrereqs
    split
    next heq => exact keeps_of_fst hd heq
    next heq =>
      have hl := ih (keeps_of_fst hd heq)
      dsimp only
      split
      next heq' => exact keeps_of_fst hl heq'
      next heq' => exact keeps_of_fst hl heq'

theorem Closed.execLaunchPrereqRead (n : Nat) : OutAll P (execLaunchPrereqRead n s) := by
  unfold Machine.execLaunchPrereqRead
  split
  · trivial
  next l _ =>
    refine OutAll.ite P trivial (OutAll.unlessFull ?_ _ _)
    have hr := hP.readPrereqs h l.asid l.prereqs
    split
    next heq =>
      have ht := keeps_of_fst hr heq
      split
      · exact hP.retireLaunch ht _ _
      · exact hP.setLaunch ht _ _
    next heq => exact keeps_of_fst hr heq
    next heq =>
      have ht := keeps_of_fst hr heq
      split
      · exact hP.setLaunch (hP.launchMemory ht _ _ _ _) _ _
      · exact hP.launchFault ht _ _ _

theorem Closed.readArgs (asid va n : Nat) : P (readArgs asid va n s).1 := by
  induction n generalizing s va with
  | zero => exact h
  | succ n ih =>
    have hd := hP.devAt h asid va 8 useLoad
    unfold Machine.readArgs
    split
    next heq => exact keeps_of_fst hd heq
    next heq =>
      have hl := ih (keeps_of_fst hd heq) (va + 8)
      split
      next heq' => exact keeps_of_fst hl heq'
      next heq' => exact keeps_of_fst hl heq'

theorem Closed.startGang (c : CrewId) (l : Launch) (p : Placement) (g : Nat) : P (s.startGang c l p g) := by
  unfold State.startGang
  exact foldl_keeps P (fun _ _ h => hP.setWave h _ _) _ (hP.setGang h _ _)

theorem Closed.startSpatial (i : GangId) : P (s.startSpatial i) := by
  unfold State.startSpatial
  split
  · exact h
  next k _ =>
    split
    · exact h
    next n _ =>
      dsimp only
      split
      · exact hP.eccFault h _ _ _
      · exact hP.startTokens (hP.modGang (hP.writeHeader h _ _ _ _ _ _) _ _) _ _ _

theorem Closed.dropCrew (c : CrewId) (x : Crew) (kn : Kernel) : P (s.dropCrew c x kn) := by
  have hs : P { s with crews := Tab.drop s.crews c, gangs := s.gangs.filter (fun g => g.1.crew != c)
                       waves := s.waves.filter (fun w => w.1.crew != c) } :=
    hP.names h ⟨rfl, rfl, List.filter_sublist.map _, List.filter_sublist.map _, List.filter_sublist.map _, .refl _⟩
  unfold State.dropCrew
  exact hP.modCluster hs _ _

theorem Closed.startRegion (c : CrewId) (x : Crew) : (s.startRegion c x).All P := by
  have hl := hP.loadRegion h c
  unfold State.startRegion
  split
  next heq =>
    rw [heq] at hl
    exact foldl_keeps P (fun _ _ h => hP.startSpatial h _) _ hl
  next => exact hl

theorem Closed.makeCrew (l : Launch) (kn : Kernel) (p : Placement) : (s.makeCrew l kn p).All P := by
  unfold State.makeCrew
  have ht := fun n x c y f ng => foldl_keeps P (f := fun s g => s.startGang c l p g) (fun _ _ h => hP.startGang h _ _ _ _)
    (List.range ng) (hP.modCluster (hP.setCrew (hP.setLaunch h p.launch n) c x) y f)
  dsimp only
  split
  · split
    · trivial
    next heq =>
      have hu := keeps_of_some (hP.placeRegion (ht _ _ _ _ _ _) _ _) heq
      refine Placed.All.ite hu ?_
      split
      · trivial
      next heq' => exact hP.setLaunch (hP.dropCrew (keeps_of_refused (hP.startRegion hu _ _) heq') _ _ _) _ _
      next heq' => exact keeps_of_ok (hP.startRegion hu _ _) heq'
  · exact ht _ _ _ _ _ _

theorem Closed.firstTests (l : Launch) : P (s.firstTests l).1 := by
  have hr := hP.readImage h l
  unfold State.firstTests
  split
  next heq => exact keeps_of_fst hr heq
  next heq => exact keeps_of_fst hr heq

theorem Closed.placeAt (p : Placement) (l : Launch) : (s.placeAt p l).All P := by
  unfold State.placeAt
  refine Placed.All.ite trivial (Placed.All.ite trivial ?_)
  have hf := hP.firstTests h l
  have hrest : ∀ t : State × Except Nat (Launch × Kernel), P t.1 → Placed.All P (match t with
      | (s, .error a) => .failed ((s.launchFault p.launch l.asid a).setLaunch p.launch { l with state := .stopped })
      | (u, .ok q) =>
        if (s.cluster p.cluster).isOff || u.retiring p.cluster then .no "the cluster is gated or retires"
        else if !u.coreFits p.cluster (l.crewGangs l.placed) q.2 then .no "no room for the crew"
        else if !queuesFit (s.cluster p.cluster) l.asid q.2.queues then .no "a queue of the crew cannot bind"
        else u.makeCrew q.1 q.2 p) := by
    intro t ht
    split
    · exact hP.setLaunch (hP.launchFault ht _ _ _) _ _
    · exact Placed.All.ite trivial (Placed.All.ite trivial (Placed.All.ite trivial (hP.makeCrew ht _ _ _)))
  refine hrest _ ?_
  split
  · exact h
  · split
    next heq => exact keeps_of_fst hf heq
    next heq => exact keeps_of_fst hf heq

theorem Closed.execCrewPlacement (p : Placement) : OutAll P (execCrewPlacement p s) := by
  unfold Machine.execCrewPlacement
  split
  · trivial
  next l _ =>
    refine OutAll.ite P trivial (OutAll.ite P trivial ?_)
    have hp := hP.placeAt h p l
    split
    next heq =>
      rw [heq] at hp
      exact hp
    next heq =>
      rw [heq] at hp
      exact hp
    next => exact OutAll.ite P (hP.modCluster h _ _) trivial

theorem Closed.execAgingPeriod (n : Nat) : OutAll P (execAgingPeriod n s) := by
  unfold Machine.execAgingPeriod
  split
  · trivial
  · exact OutAll.ite P trivial (hP.setLaunch h _ _)

theorem Closed.dropCrews (n : Nat) (l : Launch) (kn : Kernel) : P (s.dropCrews n l kn) :=
  hP.setLaunch (foldl_keeps P (fun _ _ h => hP.dropCrew h _ _ _) _ h) _ _

theorem Closed.startCrews (l : List (CrewId × Crew)) : (startCrews l s).All P := by
  induction l generalizing s with
  | nil => exact h
  | cons q l ih =>
    have hr := hP.startRegion h q.1 q.2
    unfold Machine.startCrews
    split
    next heq =>
      rw [heq] at hr
      exact ih hr
    next => exact hr

theorem Closed.argsDone (n : Nat) (l : Launch) (bs : List Byte) : P (s.argsDone n l bs) := by
  unfold State.argsDone
  have hs := fun l => hP.setLaunch h n l
  refine ite_keeps P ?_ (hs _)
  split
  next heq => exact keeps_of_ok (hP.startCrews (hs _) _) heq
  next heq _ => exact hP.dropCrews (keeps_of_refused (hP.startCrews (hs _) _) heq) _ _ _
  next => exact hs _

theorem Closed.execArgumentBlockRead (n : Nat) : OutAll P (execArgumentBlockRead n s) := by
  unfold Machine.execArgumentBlockRead
  split
  · trivial
  next l _ =>
    refine OutAll.ite P trivial ?_
    have hr := hP.readArgs h l.asid (l.dw 4).toNat 512
    dsimp only
    refine OutAll.ite P (OutAll.unlessFull (o := .next _) (hP.argsDone h _ _ _) _ _) (OutAll.unlessFull ?_ _ _)
    split
    next heq => exact hP.argsDone (keeps_of_fst hr heq) _ _ _
    next heq =>
      have ht := keeps_of_fst hr heq
      split
      · exact hP.setLaunch (hP.launchMemory ht _ _ _ _) _ _
      · exact hP.launchFault ht _ _ _

theorem Closed.execTriggerConsume (cl q : Nat) : OutAll P (execTriggerConsume cl q s) := by
  unfold Machine.execTriggerConsume
  dsimp only
  split
  · trivial
  · have ht := fun x => hP.setQueue h cl q x
    exact OutAll.ite P trivial (OutAll.ite P trivial (OutAll.ite P (hP.accept (ht _) _ _ _)
      (OutAll.unlessFull (o := .next _) (hP.raise (ht _) _ _) _ _)))

theorem Closed.execCrewRetire (c : CrewId) : OutAll P (execCrewRetire c s) := by
  unfold Machine.execCrewRetire
  split
  next x _ _ _ =>
    split
    · refine OutAll.ite P trivial (OutAll.ite P (OutAll.ite P trivial ?_) (OutAll.ite P trivial ?_))
      · exact foldl_keeps P (f := fun s (k : Park) => s.orphan c x k.flit) (fun _ _ h => hP.orphan h _ _ _) _ (hP.modCrew h _ _)
      · have hs := fun kn l => hP.setLaunch (hP.dropCrew h c x kn) c.launch l
        exact ite_keeps P (hP.retireLaunch (hs _ _) _ _) (hs _ _)
    · trivial
  · trivial

/-! ### Firmware's writes for jobs -/

theorem Closed.enlarge (q : BitVec 32) (more : Nat) (x : Crew) : P (s.enlarge q more x) := by
  unfold State.enlarge
  exact foldl_keeps P (fun _ _ h => hP.modPlace h _ _ _) _ h

theorem Closed.extendPark (c : CrewId) (q : BitVec 32) (x : Crew) : P (s.extendPark c q x) := by
  unfold State.extendPark
  split
  · exact h
  · refine foldl_keeps P (fun t p ht => ?_) _ h
    split
    · exact ite_keeps P (hP.modCrew ht _ _) ht
    · exact ht

theorem Closed.giveRoom (a : Nat) (q : BitVec 32) (more : Nat) : P (s.giveRoom a q more) := by
  unfold State.giveRoom
  exact foldl_keeps P (fun _ _ h => hP.extendPark (hP.enlarge h _ _ _) _ _ _) _ h

theorem Closed.releaseLaunches (a : Nat) (q : BitVec 32) : P (s.releaseLaunches a q) := by
  unfold State.releaseLaunches
  refine foldl_keeps P (fun t l ht => ?_) _ h
  exact ite_keeps P (hP.retireLaunch (hP.setLaunch ht _ _) _ _) (hP.setLaunch ht _ _)

theorem Closed.resume (a : Nat) (q : BitVec 32) : P (s.resume a q) := by
  unfold State.resume
  refine ite_keeps P h ?_
  refine hP.decideSpatial (hP.releaseLaunches (hP.names (hP.giveRoom (hP.releaseWaves (hP.fresh h) a q) a q (s.fresh.1 % 2 ^ 32 + 1)) ?_) _ _) _
  refine ⟨rfl, rfl, .refl _, ?_, ?_, .refl _⟩
  all_goals
    dsimp only
    exact Tab.map_names _ _

theorem Closed.stopRecord (a : Nat) (q : BitVec 32) : P (s.stopRecord a q) := by
  unfold State.stopRecord
  refine ite_keeps P h ?_
  dsimp only
  exact ite_keeps P (hP.stopJob h _) (hP.endStop (hP.modAsid (foldl_keeps P (fun _ _ h => hP.stopCrew h _ _) _ h) _ _) _)

theorem Closed.haltJob (a : Nat) : P (s.haltJob a) := hP.mapGangs (hP.modAsid h _ _) _

theorem Closed.resumeJob (a : Nat) : P (s.resumeJob a) := hP.decideSpatial (hP.mapGangs (hP.modAsid h _ _) _) _

theorem Closed.execGangResume (c : CrewId) (gang : Nat) (form : Option (BitVec 2)) : OutAll P (execGangResume c gang form s) := by
  refine OutAll.byFirmware ?_ s
  split
  · trivial
  · exact hP.decideSpatial (hP.setGang h _ _) _

theorem Closed.preemptWrite (a : Nat) (v : Dword) : P (s.preemptWrite a v) := hP.mapCrews h _

theorem Closed.execSliceTimerExpiry (c : CrewId) : OutAll P (execSliceTimerExpiry c s) := by
  unfold Machine.execSliceTimerExpiry
  split
  · trivial
  · exact OutAll.ite P trivial (OutAll.ite P h (hP.setCrew h _ _))

/-! ### Saving and restoring a crew -/

theorem Closed.scribble (a n : Nat) : P (s.scribble a n) := by
  induction n generalizing s a with
  | zero => exact h
  | succ n ih => exact ih (hP.physWrite (hP.fresh h) _ _) _

theorem Closed.putLe (a n v : Nat) : P (s.putLe a n v) := hP.physWrite h _ _

theorem Closed.putLes {α : Type} (l : List α) (a n v : α → Nat) :
    P (l.foldl (fun s e => s.putLe (a e) (n e) (v e)) s) := foldl_keeps P (fun _ _ h => hP.putLe h _ _ _) _ h

theorem Closed.saveWave (x : Crew) (kn : Kernel) (w : WaveId) : P (s.saveWave x kn w) := by
  unfold State.saveWave
  split
  · exact h
  · dsimp only
    refine hP.putLes ?_ _ _ _ _
    refine hP.putLes ?_ _ _ _ _
    refine hP.putLes ?_ _ _ _ _
    refine hP.putLes ?_ _ _ _ _
    refine hP.putLes ?_ _ _ _ _
    refine hP.putLes ?_ _ _ _ _
    exact hP.putLe (hP.putLe (hP.putLe (hP.putLe (hP.putLe (hP.putLe (hP.putLe (hP.putLe (hP.scribble h _ _)
      _ _ _) _ _ _) _ _ _) _ _ _) _ _ _) _ _ _) _ _ _) _ _ _

theorem Closed.saveCrew (c : CrewId) (x : Crew) (kn : Kernel) : P (s.saveCrew c x kn) := by
  unfold State.saveCrew
  dsimp only
  refine hP.physWrite (foldl_keeps P (fun _ _ h => hP.saveWave h _ _ _) _ (hP.scribble (hP.scribble ?_ _ _) _ _)) _ _
  exact hP.putLes (hP.scribble h _ _) _ _ _ _

theorem Closed.takeCopies (c : CrewId) (x : Crew) : P (s.takeCopies c x) := hP.modCrew (hP.modCluster h _ _) _ _

theorem Closed.areaFault (c : CrewId) (x : Crew) (va : Nat) : OutAll P (s.areaFault c x va) := by
  refine OutAll.ite P trivial ?_
  exact hP.raise h _ _

theorem Closed.execCrewSave (c : CrewId) : OutAll P (execCrewSave c s) := by
  unfold Machine.execCrewSave
  split
  · exact OutAll.ite P trivial (OutAll.ite P trivial (OutAll.ite P (hP.areaFault h _ _ _)
      (hP.modCrew (hP.takeCopies (hP.saveCrew h _ _ _) _ _) _ _)))
  · trivial

theorem Closed.loadWave (x : Crew) (kn : Kernel) (w : WaveId) : P (s.loadWave x kn w) := hP.modWave h _ _

theorem Closed.restore (c : CrewId) : P (s.restore c) := by
  unfold State.restore
  split
  · exact hP.dropL1 (hP.modCluster (hP.setCrew (foldl_keeps P (fun _ _ h => hP.loadWave h _ _ _) _ h) _ _) _ _) _
  · exact h

theorem Closed.execCrewRestore (c : CrewId) : OutAll P (execCrewRestore c s) := by
  unfold Machine.execCrewRestore
  split
  · exact OutAll.ite P trivial (OutAll.ite P (hP.areaFault h _ _ _) (hP.restore h _))
  · trivial

end

end Sys2Proof.Machine
end

section
/-! PROOFS. What the module's own steps keep: gating, power, live service, the control space, commands and remote accesses. -/

namespace Sys2Proof.Machine

section
variable {P : State → Prop} (hP : Closed P) {s : State} (h : P s)
include hP h

/-! ### Gating, power and the curb -/

theorem Closed.gateOn (cl : Nat) : P (s.gateOn cl) := ite_keeps P (hP.modCluster h _ _) h

theorem Closed.execGateRequest (cl : Nat) : OutAll P (execGateRequest cl s) :=
  OutAll.ite P trivial (OutAll.byFirmware (o := .next _) (hP.gateOn h _) _)

theorem Closed.execGateCommit (cl : Nat) : OutAll P (execGateCommit cl s) := OutAll.ite P trivial (hP.modCluster h _ _)

theorem Closed.gateOff (cl : Nat) : P (s.gateOff cl) := hP.modCluster h _ _

theorem Closed.execGateWake (cl : Nat) : OutAll P (execGateWake cl s) :=
  OutAll.ite P trivial (OutAll.byFirmware (o := .next _) (hP.gateOff h _) _)

theorem Closed.execClusterWake (cl : Nat) : OutAll P (execClusterWake cl s) := OutAll.ite P trivial (hP.modCluster h _ _)

theorem Closed.execPowerWindow (mw : Nat) : OutAll P (execPowerWindow mw s) := by
  have ht : P { s with power := BitVec.ofNat 64 (min mw (1000 * s.pcap.toNat)), throttle := decide (1000 * s.pcap.toNat < mw) } :=
    hP.same h ⟨rfl, rfl, rfl, rfl, rfl, rfl, rfl⟩
  exact ht

theorem Closed.execCurbEngage (alarms : BitVec 3) : OutAll P (execCurbEngage alarms s) := by
  unfold Machine.execCurbEngage
  refine OutAll.ite P trivial ?_
  exact hP.same h ⟨rfl, rfl, rfl, rfl, rfl, rfl, rfl⟩

theorem Closed.execCurbAlarmClear (alarms : BitVec 3) : OutAll P (execCurbAlarmClear alarms s) := by
  unfold Machine.execCurbAlarmClear
  exact hP.same h ⟨rfl, rfl, rfl, rfl, rfl, rfl, rfl⟩

theorem Closed.execCurbLift : OutAll P (execCurbLift s) := by
  refine OutAll.ite P ?_ trivial
  exact hP.same h ⟨rfl, rfl, rfl, rfl, rfl, rfl, rfl⟩

/-! ### Live service -/

theorem Closed.setSvcStat (x : SvcStat) : P { s with svcStat := x } := hP.same h ⟨rfl, rfl, rfl, rfl, rfl, rfl, rfl⟩

theorem Closed.setSubs (l : List Sub) : P { s with subs := l } := hP.same h ⟨rfl, rfl, rfl, rfl, rfl, rfl, rfl⟩

theorem Closed.beginSvc (v : Dword) (refused : Bool) : P (s.beginSvc v refused) := hP.same h ⟨rfl, rfl, rfl, rfl, rfl, rfl, rfl⟩

theorem Closed.svcUpdate (v : Dword) (verified : Bool) : P (s.svcUpdate v verified) := by
  unfold State.svcUpdate
  refine ite_keeps P h ?_
  have hb := hP.beginSvc h v
  exact ite_keeps P (hb _) (hP.same (hb false) ⟨rfl, rfl, rfl, rfl, rfl, rfl, rfl⟩)

theorem Closed.svcCluster (v : Dword) : P (s.svcCluster v) := by
  unfold State.svcCluster
  refine ite_keeps P h ?_
  have hb := hP.beginSvc h v
  refine ite_keeps P (hb _) (hP.names (hb false) ⟨rfl, rfl, .refl _, .refl _, ?_, .refl _⟩)
  dsimp only
  exact Tab.map_names _ _

theorem Closed.svcChannel (v : Dword) (room : Bool) : P (s.svcChannel v room) := by
  unfold State.svcChannel
  exact ite_keeps P h (hP.same (hP.beginSvc h v (!room)) ⟨rfl, rfl, rfl, rfl, rfl, rfl, rfl⟩)

theorem Closed.noteMoves : P s.noteMoves := by
  unfold State.noteMoves
  exact ite_keeps P (hP.same h ⟨rfl, rfl, rfl, rfl, rfl, rfl, rfl⟩) h

theorem Closed.svcRetrain (v : Dword) : P (s.svcRetrain v) := by
  unfold State.svcRetrain
  exact ite_keeps P h (hP.same (hP.beginSvc (hP.fresh h) v false) ⟨rfl, rfl, rfl, rfl, rfl, rfl, rfl⟩)

theorem Closed.svcRecal (v : Dword) : P (s.svcRecal v) := ite_keeps P h (hP.beginSvc h _ _)

theorem Closed.svcWrite (v : Dword) : P (s.svcWrite v) := by
  have hf := hP.stillHeld h
  unfold State.svcWrite
  dsimp only
  split
  · exact hP.svcUpdate hf _ _
  · exact hP.svcCluster h _
  · exact hP.svcChannel hf _ _
  · exact hP.svcRetrain h _
  · exact hP.svcRecal h _
  · exact h

theorem Closed.moveIn (cl : Nat) : P (s.moveIn cl) := by
  unfold State.moveIn
  have ht := hP.modCluster h cl (fun c => { c with site := 1, l1 := [], icache := [], tlb := [] })
  refine foldl_keeps P (fun u q hu => ?_) _ (hP.same ht ⟨rfl, rfl, rfl, rfl, rfl, rfl, rfl⟩)
  split
  · exact ite_keeps P (hP.raise hu _ _) (hP.restore hu _)
  · exact hu

theorem Closed.recalGait (cl : Nat) : P (s.recalGait cl) := by
  unfold State.recalGait
  exact hP.modCluster (hP.fresh h) _ _

theorem Closed.execServiceComplete : OutAll P (execServiceComplete s) := by
  unfold Machine.execServiceComplete
  dsimp only
  refine OutAll.ite P trivial ?_
  split
  · exact hP.same h ⟨rfl, rfl, rfl, rfl, rfl, rfl, rfl⟩
  · refine OutAll.ite P (List.foldrRecOn (motive := OutAll P) _ _ ?_ fun o ho q _ => OutAll.unlessFull ho _ _) trivial
    exact hP.setSvcStat (hP.moveIn h _) _
  · refine OutAll.ite P ?_ trivial
    exact hP.same (hP.fresh h) ⟨rfl, rfl, rfl, rfl, rfl, rfl, rfl⟩
  · exact hP.same (hP.fresh h) ⟨rfl, rfl, rfl, rfl, rfl, rfl, rfl⟩
  · refine OutAll.ite P ?_ ?_
    · exact hP.setSvcStat (foldl_keeps P (fun _ _ h => hP.recalGait h _) _ h) _
    · exact hP.setSvcStat h _

/-! ### The control space -/

theorem Closed.keyWrite (k : BitVec 12) : P (s.keyWrite k) := by
  unfold State.keyWrite
  exact ite_keeps P (hP.same h ⟨rfl, rfl, rfl, rfl, rfl, rfl, rfl⟩) (hP.same h ⟨rfl, rfl, rfl, rfl, rfl, rfl, rfl⟩)

theorem Closed.modWrite (o : Nat) (v : Dword) : P (s.modWrite o v) := by
  have hsame {t : State} (e : SameParts s t) : P t := hP.same h e
  unfold State.modWrite
  refine ite_keeps P (hsame ⟨rfl, rfl, rfl, rfl, rfl, rfl, rfl⟩) ?_
  split
  · exact hsame ⟨rfl, rfl, rfl, rfl, rfl, rfl, rfl⟩
  · exact ite_keeps P h (hsame ⟨rfl, rfl, rfl, rfl, rfl, rfl, rfl⟩)
  · exact ite_keeps P h (hsame ⟨rfl, rfl, rfl, rfl, rfl, rfl, rfl⟩)
  · exact ite_keeps P h (hsame ⟨rfl, rfl, rfl, rfl, rfl, rfl, rfl⟩)
  · exact hP.svcWrite h _
  · exact hP.keyWrite h _
  · exact h

theorem Closed.dbgWrite (a : Nat) (v : Dword) : P (s.dbgWrite a v) :=
  ite_keeps P (hP.haltJob (hP.modAsid h _ _) _) (hP.resumeJob (hP.modAsid h _ _) _)

theorem Closed.frqctlWrite (a : Nat) (v : Dword) : P (s.frqctlWrite a v) := ite_keeps P h (hP.flush (hP.modAsid h _ _) _ _)

theorem Closed.headWrite (a : Nat) (v : Dword) : P (s.headWrite a v) := hP.flush (hP.modAsid h _ _) _ _

theorem Closed.frqresWrite (a : Nat) (v : Dword) : P (s.frqresWrite a v) := by
  unfold State.frqresWrite
  split
  · exact hP.resume h _ _
  · exact hP.stopRecord h _ _
  · exact h

theorem Closed.bpWrite (a o : Nat) (v : Dword) : P (s.bpWrite a o v) := hP.modAsid h _ _

theorem Closed.asidWrite (a o : Nat) (v : Dword) : P (s.asidWrite a o v) := by
  unfold State.asidWrite
  refine ite_keeps P (hP.bpWrite h _ _ _) ?_
  split
  · exact hP.modAsid h _ _
  · exact hP.modAsid h _ _
  · exact hP.frqctlWrite h _ _
  · exact hP.headWrite h _ _
  · exact hP.frqresWrite h _ _
  · exact hP.dbgWrite h _ _
  · exact hP.preemptWrite h _ _
  · exact hP.modAsid h _ _
  · exact h

theorem Closed.windowWrite (key o : Nat) (v : Dword) : P (s.windowWrite key o v) := hP.same h ⟨rfl, rfl, rfl, rfl, rfl, rfl, rfl⟩

theorem Closed.wlimWrite (cl i : Nat) (v : Dword) : P (s.wlimWrite cl i v) := ite_keeps P h (hP.modCluster h _ _)

theorem Closed.clusterWrite (cl o : Nat) (v : Dword) : P (s.clusterWrite cl o v) := by
  have hm := hP.modCluster h cl
  unfold State.clusterWrite
  refine ite_keeps P (hP.windowWrite h _ _ _) (ite_keeps P (ite_keeps P h (hm _)) (ite_keeps P ?_
    (ite_keeps P (hP.wlimWrite h _ _ _) (ite_keeps P (hm _) ?_))))
  · exact ite_keeps P (hm _) (ite_keeps P h (hm _))
  · split
    · exact hm _
    · exact hm _
    · exact ite_keeps P h (hm _)
    · exact ite_keeps P (hP.gateOn h _) (hP.gateOff h _)
    · exact h

theorem Closed.ctlWrite (off : Nat) (v : Dword) : P (s.ctlWrite off v) := by
  unfold State.ctlWrite
  exact ite_keeps P h (ite_keeps P (hP.modWrite h _ _) (ite_keeps P (hP.same h ⟨rfl, rfl, rfl, rfl, rfl, rfl, rfl⟩)
    (ite_keeps P (hP.asidWrite h _ _ _) (ite_keeps P (hP.clusterWrite h _ _ _)
      (ite_keeps P (ite_keeps P (hP.windowWrite h _ _ _) h) h)))))

theorem Closed.execPowerOnBoot (failing : Option (BitVec 8)) : OutAll P (execPowerOnBoot failing s) := by
  have hsame {t : State} (e : SameParts s t) : OutAll P (.next t) := hP.same h e
  unfold Machine.execPowerOnBoot
  refine OutAll.ite P trivial ?_
  split
  · exact hsame ⟨rfl, rfl, rfl, rfl, rfl, rfl, rfl⟩
  · exact OutAll.ite P (hsame ⟨rfl, rfl, rfl, rfl, rfl, rfl, rfl⟩) trivial

/-! ### Commands -/

theorem Closed.sendMsg (conn : Conn) (opc asid : Nat) (ctag : BitVec 32) (addr operand : Dword) (status : Nat) :
    P (s.sendMsg conn opc asid ctag addr operand status) := hP.same h ⟨rfl, rfl, rfl, rfl, rfl, rfl, rfl⟩

theorem Closed.complete (conn : Conn) (m : Header) (status : Nat) (operand : Dword) : P (s.complete conn m status operand) :=
  hP.sendMsg h _ _ _ _ _ _ _

/-- What every command keeps, its effect does. -/
theorem Closed.command (conn : Conn) (m : Header) (opc n payload : Nat) {act : State → State × Nat × Dword} (hact : P (act s).1) :
    OutAll P (s.command conn m opc n payload act) :=
  OutAll.ite P trivial (OutAll.ite P h (OutAll.ite P (hP.complete h _ _ _ _) (OutAll.ite P (hP.complete h _ _ _ _)
    (hP.complete hact _ _ _ _))))

theorem Closed.execHostLaunch (conn : Conn) (m : Header) (payload : List Dword) : OutAll P (execHostLaunch conn m payload s) :=
  hP.command h _ _ _ _ _ (ite_keeps P (hP.accept h _ _ _) h)

theorem Closed.execSubscribe (conn : Conn) (m : Header) (payload : List Dword) : OutAll P (execSubscribe conn m payload s) := by
  have hd := hP.devAt h (Header.asid m) m.d1.toNat 8 useLoad
  refine hP.command h _ _ _ _ _ ?_
  have hadd : ∀ t x, P t → P (if 1024 ≤ t.subs.length then (t, 1, 0)
      else ({ t with subs := t.subs ++ [x] }, 0, 0) : State × Nat × Dword).1 := fun t x ht =>
    ite_keeps_fst P ht (hP.same ht ⟨rfl, rfl, rfl, rfl, rfl, rfl, rfl⟩)
  refine ite_keeps_fst P (hadd _ _ h) (ite_keeps_fst P h ?_)
  split
  next heq => exact hadd _ _ (keeps_of_fst hd heq)
  next heq => exact keeps_of_fst hd heq

theorem Closed.execHostStop (conn : Conn) (m : Header) (payload : List Dword) : OutAll P (execHostStop conn m payload s) :=
  hP.command h _ _ _ _ _ (hP.stopJob h _)

theorem Closed.releaseJob (a : Nat) : P (s.releaseJob a) := by
  unfold State.releaseJob
  dsimp only
  refine hP.modAsid (hP.names h ?_) _ _
  refine ⟨rfl, rfl, ?_, ?_, ?_, ?_⟩
  all_goals exact List.filter_sublist.map _

theorem Closed.execRelease (conn : Conn) (m : Header) (payload : List Dword) : OutAll P (execRelease conn m payload s) :=
  hP.command h _ _ _ _ _ (ite_keeps_fst P (hP.releaseJob h _) h)

theorem Closed.execAtomic (conn : Conn) (m : Header) (payload : List Dword) : OutAll P (execAtomic conn m payload s) := by
  refine hP.command h _ _ _ _ _ (ite_keeps_fst P h (ite_keeps_fst P h ?_))
  have hd := fun n => hP.devAt h (Header.asid m) m.d1.toNat n useStore
  split
  next heq => exact keeps_of_fst (hd _) heq
  next heq => exact hP.homeWrite (keeps_of_fst (hd _) heq) _ _

theorem Closed.execUnknownCommand (conn : Conn) (m : Header) : OutAll P (execUnknownCommand conn m s) :=
  OutAll.ite P trivial (OutAll.ite P h (hP.complete h _ _ _ _))

theorem Closed.execEvent (k : Nat) : OutAll P (execEvent k s) := by
  unfold Machine.execEvent
  split
  · trivial
  next u _ =>
    refine OutAll.ite P trivial ?_
    have hd := hP.devAt h u.asid u.addr.toNat 8 useLoad
    split
    · trivial
    next heq =>
      refine OutAll.ite P trivial ?_
      exact hP.sendMsg (hP.setSubs (keeps_of_fst hd heq) _) _ _ _ _ _ _ _

theorem Closed.execConnectionClose (conn : Conn) : OutAll P (execConnectionClose conn s) := by
  unfold Machine.execConnectionClose
  exact hP.same h ⟨rfl, rfl, rfl, rfl, rfl, rfl, rfl⟩

/-! ### Remote accesses and firmware's accesses -/

theorem Closed.rmaFind (asid : Nat) (u : Use) (l : List (Nat × Nat)) : P (s.rmaFind asid u l).1 := by
  induction l generalizing s with
  | nil => exact h
  | cons p l ih =>
    have hd := hP.devAt h asid p.1 p.2 u
    unfold State.rmaFind
    split
    next heq => exact keeps_of_fst hd heq
    next heq => exact ih (keeps_of_fst hd heq)

theorem Closed.rmaPut (l : List (Loc × Nat)) (bs : List Byte) : P (s.rmaPut l bs) := by
  induction l generalizing s bs with
  | nil => exact h
  | cons p l ih => exact ih (hP.homeWrite h _ _) _

theorem Closed.rmaDone (conn : Conn) (ok : Bool) (data : List Byte) : P (s.rmaDone conn ok data) :=
  hP.same h ⟨rfl, rfl, rfl, rfl, rfl, rfl, rfl⟩

theorem Closed.execRmaWrite (conn : Conn) (addr : BitVec 64) (data : List Byte) : OutAll P (execRmaWrite conn addr data s) := by
  unfold Machine.execRmaWrite
  refine OutAll.ite P trivial (OutAll.ite P h ?_)
  split
  · exact hP.rmaDone h _ _ _
  next a _ =>
    refine OutAll.ite P ?_ ?_
    · split
      · exact OutAll.ite P (hP.rmaDone (hP.ctlWrite h _ _) _ _ _) (hP.rmaDone h _ _ _)
      · exact hP.rmaDone h _ _ _
    · have hr := hP.rmaFind h a useStore (pageParts addr.toNat data.length)
      have hf := hP.stillHeld hr
      dsimp only
      split
      · exact hP.rmaDone (hP.rmaPut hr _ _) _ _ _
      · exact hP.rmaDone (ite_keeps P (hP.rmaPut hf _ _) hf) _ _ _

theorem Closed.execRmaRead (conn : Conn) (addr : BitVec 64) (n : Nat) : OutAll P (execRmaRead conn addr n s) := by
  unfold Machine.execRmaRead
  refine OutAll.ite P trivial (OutAll.ite P h ?_)
  split
  · exact hP.rmaDone h _ _ _
  next a _ =>
    refine OutAll.ite P ?_ ?_
    · split
      · exact OutAll.ite P (hP.rmaDone h _ _ _) (hP.rmaDone h _ _ _)
      · exact hP.rmaDone h _ _ _
    · have hr := hP.rmaFind h a useLoad (pageParts addr.toNat n)
      exact OutAll.ite P (hP.rmaDone hr _ _ _) (hP.rmaDone hr _ _ _)

theorem Closed.execPacketDrop (port : Nat) : OutAll P (execPacketDrop port s) := by
  refine OutAll.ite P trivial ?_
  exact hP.same h ⟨rfl, rfl, rfl, rfl, rfl, rfl, rfl⟩

theorem Closed.toFirmware (v : Nat) : P (s.toFirmware v) := hP.same h ⟨rfl, rfl, rfl, rfl, rfl, rfl, rfl⟩

theorem Closed.fwAccess (pa size : Nat) (returns : Bool) (f : Nat → Option Nat) : OutAll P (s.fwAccess pa size returns f) := by
  unfold State.fwAccess
  refine OutAll.ite P trivial (OutAll.ite P (OutAll.byFirmware (o := .next _) h _) (OutAll.byFirmware (o := .next _) ?_ _))
  generalize f (Memory.le s.mem pa size) = r
  cases r with
  | none => exact ite_keeps P (hP.toFirmware (hP.noteMoves h) _) (hP.noteMoves h)
  | some v =>
    have ht := hP.noteMoves (hP.mem h pa (leBytes size v))
    exact ite_keeps P (hP.toFirmware ht _) ht

theorem Closed.execOstlerAccess (op : OstlerOp) : OutAll P (execOstlerAccess op s) := by
  unfold Machine.execOstlerAccess
  split
  · exact hP.fwAccess h _ _ _ _
  · exact hP.fwAccess h _ _ _ _
  · exact hP.fwAccess h _ _ _ _
  · exact hP.fwAccess h _ _ _ _
  · exact OutAll.byFirmware (o := .next _) (hP.toFirmware h _) _
  · exact OutAll.byFirmware (o := .next _) (ite_keeps P (hP.ctlWrite h _ _) h) _

end

end Sys2Proof.Machine
end

section
/-! PROOFS. Every step keeps the invariant: the words that move values between lanes, the dispatch, and the step. -/

namespace Sys2Proof.Machine

section
variable {P : State → Prop} (hP : Closed P) {s : State} (h : P s)
include hP h

/-! ### The words of lanes -/

theorem Closed.putElems (f : KF) (k : Ctx) (g : Nat → Option Nat) : P (putElems f k s g) := hP.each h _ _

theorem Closed.putMask (f : KF) (k : Ctx) (g : Nat → Option Bool) : P (putMask f k s g) := hP.each h _ _

theorem Closed.shuffleOp (x : Shuffle) (f : KF) (k : Ctx) : P (shuffleOp x f k s) := by
  unfold Machine.shuffleOp
  exact hP.putElems h _ _ _

theorem Closed.v2sOp (f : KF) (k : Ctx) : P (v2sOp f k s) := by
  unfold Machine.v2sOp
  exact hP.onWave h _ _

theorem Closed.slideOp (f : KF) (k : Ctx) : P (slideOp f k s) := by
  unfold Machine.slideOp
  exact hP.putElems h _ _ _

theorem Closed.cmprOp (f : KF) (k : Ctx) : P (cmprOp f k s) := hP.putElems h _ _ _

theorem Closed.expdOp (f : KF) (k : Ctx) : P (expdOp f k s) := hP.putElems h _ _ _

theorem Closed.iotaOp (f : KF) (k : Ctx) : P (iotaOp f k s) := hP.putElems h _ _ _

theorem Closed.ballotOp (f : KF) (k : Ctx) : P (ballotOp f k s) := by
  unfold Machine.ballotOp
  exact hP.onWave h _ _

theorem Closed.msetOp (f : KF) (k : Ctx) : P (msetOp f k s) := by
  unfold Machine.msetOp
  exact hP.putMask h _ _ _

theorem Closed.voteOp (f : KF) (k : Ctx) : P (voteOp f k s) := hP.putMask h _ _ _

theorem Closed.mskOp (f : KF) (k : Ctx) : P (mskOp f k s) := by
  unfold Machine.mskOp
  exact hP.putMask h _ _ _

theorem Closed.mpopOp (f : KF) (k : Ctx) : P (mpopOp f k s) := by
  unfold Machine.mpopOp
  exact hP.onWave h _ _

theorem Closed.mffOp (f : KF) (k : Ctx) : P (mffOp f k s) := by
  unfold Machine.mffOp
  exact hP.onWave h _ _

theorem Closed.redOp (scan : Bool) (f : KF) (k : Ctx) : P (redOp scan f k s) := by
  unfold Machine.redOp
  exact hP.each h _ _

theorem Closed.setvlOp (f : KF) (k : Ctx) : P (setvlOp f k s) := by
  unfold Machine.setvlOp
  exact hP.modWave (hP.modGang h _ _) _ _

theorem Closed.getvlOp (f : KF) (k : Ctx) : P (getvlOp f k s) := hP.onWave h _ _

/-! ### The dispatch and the step -/

/-- Every instruction keeps what its body keeps: a word at its issue, a node at its firing, an event at once. -/
theorem Closed.exec (i : Instr) : OutAll P (exec i s) := by
  cases i with
  | add f | sub f | mullo f | mulhi f | mulhn f | mad f | div f | divn f | rem f | remn f | min f | max f | minn f
  | maxn f | abs f | neg f | and f | or f | xor f | andn f | not f | shl f | shr f | sar f | rol f | clz f | popc f
  | brev f | bfx f | mov f | adds f | subs f => exact hP.issueCore h _ fun _ _ h => hP.intOp h _ _ _
  | addc f | subb f => exact hP.issueCore h _ fun _ _ h => hP.carryOp h _ _ _
  | bfi f => exact hP.issueCore h _ fun _ _ h => hP.bfiOp h _ _
  | lea f => exact hP.issueCore h _ fun _ _ h => hP.leaOp h _ _
  | sel f => exact hP.issueCore h _ fun _ _ h => hP.selOp h _ _
  | cmp f => exact hP.issueCore h _ fun _ _ h => hP.cmpIntOp h _ _
  | movi f | moviHi f | moviPair f => exact hP.issueCore h _ fun _ _ h => hP.onLanesJ h _ _ _
  | movsv f => exact hP.issueCore h _ fun _ _ h => hP.movsvOp h _ _
  | dot4 f => exact hP.issueCore h _ fun _ _ h => hP.dot4Op h _ _
  | fadd f | fsub f | fmul f | fmin f | fmax f | fdiv f | fsqrt f | frcp f | frsq f | fex2 f | flg2 f
  | frnd f => exact hP.issueCore h _ fun _ _ h => hP.fArith h _ _ _
  | fma f => exact hP.issueCore h _ fun _ _ h => hP.fmaOp h _ _
  | fcmp f => exact hP.issueCore h _ fun _ _ h => hP.fcmpOp h _ _
  | fclass f | fcvti f | icvtf f | fcvtw f => exact hP.issueCore h _ fun _ _ h => hP.fltOp h _ _ _ _ _
  | fscl f => exact hP.issueCore h _ fun _ _ h => hP.fsclOp h _ _
  | fmtw f => exact hP.issueCore h _ fun _ _ h => hP.fmtwOp h _ _
  | fmtr f => exact hP.issueCore h _ fun _ _ h => hP.fmtrOp h _ _
  | fmtq f => exact hP.issueCore h _ fun _ _ h => hP.fmtqOp h _ _
  | cvt f | sclq f | scld f => exact hP.issueCore h _ fun _ _ h => hP.convOp h _ _ _
  | bscl f => exact hP.issueCore h _ fun _ _ h => hP.bsclOp h _ _
  | ndot f => exact hP.issueCore h _ fun _ _ h => hP.ndotOp h _ _
  | shfl f | shflup f | shfldn f | shflx f | bcast f => exact hP.issueCore h _ fun _ _ h => hP.shuffleOp h _ _ _
  | ballot f => exact hP.issueCore h _ fun _ _ h => hP.ballotOp h _ _
  | vote f => exact hP.issueCore h _ fun _ _ h => hP.voteOp h _ _
  | red f | scan f => exact hP.issueCore h _ fun _ _ h => hP.redOp h _ _ _
  | cmpr f => exact hP.issueCore h _ fun _ _ h => hP.cmprOp h _ _
  | expd f => exact hP.issueCore h _ fun _ _ h => hP.expdOp h _ _
  | iota f => exact hP.issueCore h _ fun _ _ h => hP.iotaOp h _ _
  | setvl f => exact hP.issueCore h _ fun _ _ h => hP.setvlOp h _ _
  | getvl f => exact hP.issueCore h _ fun _ _ h => hP.getvlOp h _ _
  | msk f => exact hP.issueCore h _ fun _ _ h => hP.mskOp h _ _
  | mpop f => exact hP.issueCore h _ fun _ _ h => hP.mpopOp h _ _
  | mff f => exact hP.issueCore h _ fun _ _ h => hP.mffOp h _ _
  | v2s f => exact hP.issueCore h _ fun _ _ h => hP.v2sOp h _ _
  | slide f => exact hP.issueCore h _ fun _ _ h => hP.slideOp h _ _
  | mset f => exact hP.issueCore h _ fun _ _ h => hP.msetOp h _ _
  | br f => exact hP.issueCore h _ fun _ _ h => hP.brOp h _ _
  | brm f => exact hP.issueCore h _ fun _ _ h => hP.brmOp h _ _
  | brs f => exact hP.issueCore h _ fun _ _ h => hP.brsOp h _ _
  | rcv f => exact hP.issueCore h _ fun _ _ h => hP.rcvOp h _ _
  | join f => exact hP.issueCore h _ fun _ _ h => hP.joinOp h _
  | call f | callxS f => exact hP.issueCore h _ fun _ _ h => hP.callTo h _ _ _
  | callxV f => exact hP.issueCore h _ fun _ _ h => hP.callxOp h _ _
  | jmpxV f => exact hP.issueCore h _ fun _ _ h => hP.jmpxOp h _ _
  | jmpxS f => exact hP.issueCore h _ fun _ _ h => hP.branchAll h _ _ _ _ _
  | ret f => exact hP.issueCore h _ fun _ _ h => hP.retOp h _
  | exit f => exact hP.issueCore h _ fun _ _ h => hP.exitOp h _ _
  | loop f => exact hP.issueCore h _ fun _ _ h => hP.loopOp h _ _
  | nop f => exact hP.issueCore h _ fun _ _ h => h
  | yield f => exact hP.issueCore h _ fun _ _ h => hP.yieldOp h _
  | prefi f => exact hP.issueCore h _ fun _ _ h => hP.prefiOp h _ _
  | ifence f => exact hP.issueCore h _ fun _ _ h => hP.ifenceOp h _
  | ld f => exact hP.issueCore h _ fun _ _ h => hP.ldOp h _ _ _ _
  | ldUniform f => exact hP.issueCore h _ fun _ _ h => hP.uniLoad h _ _ _
  | st f => exact hP.issueCore h _ fun _ _ h => hP.stOp h _ _ _
  | lda f => exact hP.issueCore h _ fun _ _ h => hP.ldaOp h _ _
  | stl f => exact hP.issueCore h _ fun _ _ h => hP.stlOp h _ _
  | atom f => exact hP.issueCore h _ fun _ _ h => hP.memOp h _ _ _ _ (fun _ _ _ h => hP.atomLane h _ _ _ _) _
  | cas f => exact hP.issueCore h _ fun _ _ h => hP.memOp h _ _ _ _ (fun _ _ _ h => hP.casLane h _ _ _ _) _
  | vlds f => exact hP.issueCore h _ fun _ _ h => hP.memOp h _ _ _ _ (fun _ _ _ h => hP.loadLane h _ _ _ _ _) _
  | vsts f => exact hP.issueCore h _ fun _ _ h => hP.memOp h _ _ _ _ (fun _ _ _ h => hP.storeLane h _ _ _ _) _
  | fence f => exact hP.issueCore h _ fun _ _ h => hP.fenceOp h _ _
  | pref f => exact hP.issueCore h _ fun _ _ h => hP.prefOp h _ _
  | ldf f => exact hP.issueCore h _ fun _ _ h => hP.ldfOp h _ _
  | stf f => exact hP.issueCore h _ fun _ _ h => hP.stfOp h _ _
  | cmaint f => exact hP.issueCore h _ fun _ _ h => hP.cmaintOp h _ _
  | cpy f | cpyt f => exact hP.issueCore h _ fun _ _ h => hP.copyOp h _ _
  | cpyb f => exact hP.issueCore h _ fun _ _ h => hP.cpybOp h _ _
  | cpyw f => exact hP.issueCore h _ fun _ _ h => Closed.cpywOp h _ _
  | bar f => exact hP.issueCore h _ fun _ _ h => hP.barOp h _
  | bara f | barx f => exact hP.issueCore h _ fun _ _ h => hP.arriveOp h _ _ _
  | barw f => exact hP.issueCore h _ fun _ _ h => hP.barwOp h _ _
  | qpush f => exact hP.issueCore h _ fun _ _ h => hP.qpushOp h _ _
  | qpop f => exact hP.issueCore h _ fun _ _ h => hP.qpopOp h _ _
  | qnotify f => exact hP.issueCore h _ fun _ _ h => hP.qnotifyOp h _ _
  | qbindTrig f => exact hP.issueCore h _ fun _ _ h => hP.qbindTrigOp h _ _
  | qbindIn f | qbindOut f => exact hP.issueCore h _ fun _ _ h => hP.qmapOp h _ _ _
  | qbindUnmap f => exact hP.issueCore h _ fun _ _ h => hP.qunmapOp h _ _
  | qstat f | ctlrd f => exact hP.issueCore h _ fun _ _ h => hP.modWave h _ _
  | freq f | frel f | fcfg f | fdrain f | fstat f | fmodeDf f
  | fmodeSys f => exact hP.issueCore h _ fun _ _ h => hP.fopOp h _ _ _
  | fsend f => exact hP.issueCore h _ fun _ _ h => hP.fsendOp h _ _
  | frecv f => exact hP.issueCore h _ fun _ _ h => hP.frecvOp h _ _
  | fprio f => exact hP.issueCore h _ fun _ _ h => hP.fprioOp h _ _
  | mxw f => exact hP.issueCore h _ fun _ _ h => hP.mxwOp h _ _
  | mxa f => exact hP.issueCore h _ fun _ _ h => hP.mxaOp h _ _
  | mxc f => exact hP.issueCore h _ fun _ _ h => hP.mxcOp h _ _
  | mxz f => exact hP.issueCore h _ fun _ _ h => hP.mxzOp h _ _
  | mxsc f => exact hP.issueCore h _ fun _ _ h => hP.mxscOp h _ _
  | mxwait f => exact hP.issueCore h _ fun _ _ h => hP.mxwaitOp h _
  | eqp f => exact hP.issueCore h _ fun _ _ h => hP.eqpOp h _ _
  | remount f | remountClr f | pin f | pinOff f => exact hP.issueCore h _ fun _ _ h => hP.modGang h _ _
  | gaitr f => exact hP.issueCore h _ fun _ _ h => hP.gaitrOp h _ _
  | trap f => exact hP.issueCore h _ fun _ _ h => hP.trapOp h _ _
  | brk f => exact hP.issueCore h _ fun _ _ h => hP.brkOp h _ _
  | ctlwr f => exact hP.issueCore h _ fun _ _ h => hP.each h _ _
  | cyc f => exact hP.issueCore h _ fun _ _ h => hP.cycOp h _ _
  | cycRow f => exact hP.issueCore h _ fun _ _ h => hP.cycRowOp h _ _
  | launch f => exact hP.issueCore h _ fun _ _ h => hP.launchOp h _ _
  | waitev f => exact hP.issueCore h _ fun _ _ h => hP.waitevOp h _ _
  | sigev f => exact hP.issueCore h _ fun _ _ h => hP.sigevOp h _ _
  | arithNodeFire n => exact hP.fireNode h fun _ _ h => hP.nafOp h _ _
  | steer n => exact hP.fireNode h fun _ _ h => hP.steerOp h _ _
  | const n | ixrd n | joinc n | gate n => exact hP.fireNode h fun _ _ h => hP.plainOp h _ _ _
  | lenter n => exact hP.fireNode h fun _ _ h => hP.lenterOp h _ _
  | lnext n => exact hP.fireNode h fun _ _ h => hP.lnextOp h _ _
  | lexit n => exact hP.fireNode h fun _ _ h => hP.lexitOp h _ _
  | calln n => exact hP.fireNode h fun _ _ h => hP.callnOp h _ _
  | retn n => exact hP.fireNode h fun _ _ h => hP.retnOp h _ _
  | sink n => exact hP.fireNode h fun _ _ h => hP.sinkOp h _ _
  | sendp n => exact hP.fireNode h fun _ _ h => hP.sendpOp h _ _
  | eqpn n => exact hP.fireNode h fun _ _ h => hP.eqpnOp h _ _
  | fend n => exact hP.fireNode h fun _ _ h => hP.fendOp h _
  | errt n => exact hP.fireNode h fun _ _ h => hP.errtOp h _ _
  | cld n | cst n | catom n | mnop n => exact hP.fireNode h fun _ _ h => hP.chainOp h _ _ _
  | fld n => exact hP.fireNode h fun _ _ h => hP.fldOp h _ _
  | fst n => exact hP.fireNode h fun _ _ h => hP.fstOp h _ _
  | cfence n => exact hP.fireNode h fun _ _ h => hP.cfenceOp h _ _
  | mcld n => exact hP.fireNode h fun _ _ h => hP.mcOp h _ _ _ _ _
  | mcst n => exact hP.fireNode h fun _ _ h => hP.mcOp h _ _ _ _ _
  | mcenq n => exact hP.fireNode h fun _ _ h => hP.mcOp h _ _ _ _ _
  | mcdeq n => exact hP.fireNode h fun _ _ h => hP.mcOp h _ _ _ _ _
  | agen n => exact hP.fireNode h fun _ _ h => hP.agenOp h _ _
  | mxj n => exact hP.fireNode h fun _ _ h => hP.mxjOp h _ _
  | mxout n => exact hP.fireNode h fun _ _ h => hP.mxoutOp h _ _
  | tokenArrive c k => exact hP.execTokenArrive h _ _
  | frameEntry c k => exact hP.execFrameEntry h _ _
  | frameRefill c place cell frame => exact hP.execFrameRefill h _ _ _ _
  | nodeChoose cluster bay cell => exact hP.execNodeChoose h _ _ _
  | weirArrive c k => exact hP.execWeirArrive h _ _
  | weirRelease c paddock => exact hP.execWeirRelease h _ _
  | roundCommit c k => exact hP.execRoundCommit h _ _
  | paddockQuiescent c paddock => exact hP.execPaddockQuiescent h _ _
  | preciseStop asid => exact hP.execPreciseStop h _
  | resultDeliver c k => exact hP.execResultDeliver h _ _
  | cellPass c place cell => exact hP.execCellPass h _ _ _
  | fabricOpComplete w => exact hP.execFabricOpComplete h _
  | paddockLoadComplete c place => exact hP.execPaddockLoadComplete h _ _
  | paddockSwapOut c place => exact hP.execPaddockSwapOut h _ _
  | paddockResume c paddock slice bay => exact hP.execPaddockResume h _ _ _ _
  | bridleWindowEnd c place => exact hP.execBridleWindowEnd h _ _
  | generatorStep c place mc gen => exact hP.execGeneratorStep h _ _ _ _
  | generatorDone c place mc gen => exact hP.execGeneratorDone h _ _ _ _
  | weightEventApply c k => exact hP.execWeightEventApply h _ _
  | columnHeadRead c k => exact hP.execColumnHeadRead h _ _
  | passComplete c k => exact hP.execPassComplete h _ _
  | copyUnitLand cluster k unit => exact hP.execCopyUnitLand h _ _ _
  | copyPark cluster k => exact hP.execCopyPark h _ _
  | triggerConsume cluster queue => exact hP.execTriggerConsume h _ _
  | memoryAccessResponse cluster k => exact hP.execMemoryAccessResponse h _ _
  | pageWalk cluster asid vpn store => exact hP.execPageWalk h _ _ _ _
  | instructionFetch cluster asid line => exact hP.execInstructionFetch h _ _ _
  | remoteTimeout w => exact hP.execRemoteTimeout h _
  | invalidationBroadcast asid va => exact hP.execInvalidationBroadcast h _ _
  | launchPrereqRead launch => exact hP.execLaunchPrereqRead h _
  | crewPlacement p => exact hP.execCrewPlacement h _
  | argumentBlockRead launch => exact hP.execArgumentBlockRead h _
  | agingPeriod launch => exact hP.execAgingPeriod h _
  | crewRetire c => exact hP.execCrewRetire h _
  | resume asid seq => exact OutAll.byFirmware (o := .next _) (hP.resume h _ _) _
  | stop asid seq => exact OutAll.byFirmware (o := .next _) (hP.stopRecord h _ _) _
  | preemptRequest asid value => exact OutAll.byFirmware (o := .next _) (hP.preemptWrite h _ _) _
  | sliceTimerExpiry c => exact hP.execSliceTimerExpiry h _
  | crewSave c => exact hP.execCrewSave h _
  | crewRestore c => exact hP.execCrewRestore h _
  | halt asid => exact OutAll.byFirmware (o := .next _) (hP.haltJob h _) _
  | resumeGangs asid => exact OutAll.byFirmware (o := .next _) (hP.resumeJob h _) _
  | gangResume c gang form => exact hP.execGangResume h _ _ _
  | gateRequest cluster => exact hP.execGateRequest h _
  | gateCommit cluster => exact hP.execGateCommit h _
  | gateWake cluster => exact hP.execGateWake h _
  | powerWindow milliwatts => exact hP.execPowerWindow h _
  | curbEngage alarms => exact hP.execCurbEngage h _
  | curbLift => exact hP.execCurbLift h
  | update ostler verified => exact OutAll.byFirmware (o := .next _) (hP.svcUpdate h _ _) _
  | retireCluster cluster => exact OutAll.byFirmware (o := .next _) (hP.svcCluster h _) _
  | retireChannel channel room => exact OutAll.byFirmware (o := .next _) (ite_keeps P h (hP.svcChannel h _ _)) _
  | retrain port => exact OutAll.byFirmware (o := .next _) (ite_keeps P h (hP.svcRetrain h _)) _
  | recal target => exact OutAll.byFirmware (o := .next _) (ite_keeps P h (hP.svcRecal h _)) _
  | serviceComplete => exact hP.execServiceComplete h
  | keyInstall index => exact OutAll.byFirmware (o := .next _) (hP.keyWrite h _) _
  | hostLaunch conn m payload => exact hP.execHostLaunch h _ _ _
  | subscribe conn m payload => exact hP.execSubscribe h _ _ _
  | hostStop conn m payload => exact hP.execHostStop h _ _ _
  | release conn m payload => exact hP.execRelease h _ _ _
  | atomic conn m payload => exact hP.execAtomic h _ _ _
  | event k => exact hP.execEvent h _
  | rmaWrite conn addr data => exact hP.execRmaWrite h _ _ _
  | rmaRead conn addr n => exact hP.execRmaRead h _ _ _
  | powerOnBoot failing => exact hP.execPowerOnBoot h _
  | registerWrite offset value => exact OutAll.byFirmware (o := .next _) (hP.ctlWrite h _ _) _
  | packetDrop port => exact hP.execPacketDrop h _
  | unknownCommand conn m => exact hP.execUnknownCommand h _ _
  | connectionClose conn => exact hP.execConnectionClose h _
  | ostlerAccess op => exact hP.execOstlerAccess h _
  | curbAlarmClear alarms => exact hP.execCurbAlarmClear h _
  | clusterWake cluster => exact hP.execClusterWake h _

omit h in
theorem Closed.fetched {r : Fetched} (hr : r.All P) : OutAll P (fetched r) := by
  unfold Machine.fetched
  split
  · exact hr
  · exact hP.exec hr _

theorem Closed.passOver (before : State) (pool : List WaveId) (w : WaveId) : P (passOver before pool w s) := by
  unfold Machine.passOver
  exact foldl_keeps P (fun _ _ h => hP.modWave h _ _) _ h

theorem Closed.tryPool (before : State) (pool ws : List WaveId) : OutAll P (tryPool before pool ws s) := by
  induction ws generalizing s with
  | nil => exact h
  | cons w ws ih =>
    have hr : P (s.readied w) := hP.modWave h _ _
    have hf := hP.fetched (hP.fetchWave hr w)
    unfold Machine.tryPool
    split
    next heq =>
      rw [heq] at hf
      exact OutAll.ite P (hP.passOver hf _ _ _) (ih hf)
    next => exact hf

theorem Closed.issueWave (w : WaveId) : OutAll P (issueWave s w) := by
  unfold Machine.issueWave State.sequencer
  split
  next heq =>
    split at heq
    · split at heq
      · exact Option.some.inj heq ▸ hP.tryDecide h _
      · cases heq
    · cases heq
  next => exact hP.fetched (hP.fetchWave h _)

theorem Closed.noteReasons (i : Instr) : P (noteReasons i s) := by
  unfold Machine.noteReasons
  split
  · exact hP.mapWaves h _
  · exact h

theorem Closed.agendaStep : OutAll P (agendaStep s) := by
  unfold Machine.agendaStep
  split
  · exact h
  next c t _ =>
    have ht : P { s with agenda := t } := hP.same h ⟨rfl, rfl, rfl, rfl, rfl, rfl, rfl⟩
    split
    · exact hP.issueWave ht _
    · exact hP.tryPool ht _ _ _
    · exact hP.exec (hP.noteReasons ht _) _

/-- What an agent does in a step, before what it changed of backwaters is stored. -/
theorem Closed.step (hstore : ∀ u t, P t → P (State.storeBackwaters u t)) {t : State} (ht : step s = .next t) : P t := by
  have hs : P { s with now := s.now + 1 } := hP.same h ⟨rfl, rfl, rfl, rfl, rfl, rfl, rfl⟩
  unfold Machine.step at ht
  obtain ⟨u, hu, rfl⟩ := stored_next ht
  refine hstore _ _ ?_
  have ho {o : Out} (hall : OutAll P o) (heq : o = .next u) : P u := by
    rw [heq] at hall
    exact hall
  split at hu
  · exact ho (hP.fetched (hP.fetchWave (hP.setFocus hs .none) _)) hu
  · exact ho (hP.fetched (Closed.fetchNode hs _)) hu
  · exact ho (hP.agendaStep hs) hu

end

/-- Settles O55: the invariant is closed under what the operations of the model write, so every agent keeps it, and so does
what a step stores of backwaters. -/
theorem stepKeepsInv : Obligations.StepKeepsInv := by
  unfold Obligations.StepKeepsInv
  intro s t h ht
  exact State.Inv.closed.step h (fun u _ h => State.Inv.storeBackwaters u h) ht

end Sys2Proof.Machine
end
